-- ==== Sys2Proof/Word.lean ====
section
/-! DEFINITION. The word types of the E8 and their plainest arithmetic (R9, R64). -/

namespace Sys2Proof

/-- A 32-bit register or instruction word. -/
abbrev Word := BitVec 32

/-- A 64-bit value: an address, a mask register, an aligned register pair. -/
abbrev DWord := BitVec 64

/-- One byte of memory. -/
abbrev Byte := BitVec 8

/-- The pair value of two registers: the lower-numbered register holds bits [31:0] (R9). -/
def pairOf (lo hi : Word) : DWord := hi ++ lo

/-- The lower register of a pair value (R9). -/
def pairLo (x : DWord) : Word := x.extractLsb' 0 32

/-- The upper register of a pair value (R9). -/
def pairHi (x : DWord) : Word := x.extractLsb' 32 32

end Sys2Proof
end

