-- ==== Sys2Proof/Machine/Bits.lean ====
section
/-! DEFINITION. Bit-field, sign and byte helpers shared by the meanings (R9, R64). -/

namespace Sys2Proof.Machine

/-- Bits [lo+n-1:lo] of a number. -/
def bitsOf (x lo n : Nat) : Nat := (x >>> lo) % 2 ^ n

/-- Bit i of a number. -/
def bitOf (x i : Nat) : Bool := (x >>> i) % 2 == 1

/-- The two's-complement value of the low n bits. -/
def signedOf (x n : Nat) : Int :=
  let y := x % 2 ^ n
  if y < 2 ^ (n - 1) then (y : Int) else (y : Int) - 2 ^ n

/-- WrapI32 of R164: the low 32 bits of an integer. -/
def wrap32 (x : Int) : Word := BitVec.ofInt 32 x

/-- SatI32 of R164: clamp to the signed range. -/
def satI32 (x : Int) : Word :=
  wrap32 (if x < -(2 ^ 31) then -(2 ^ 31) else if x > 2 ^ 31 - 1 then 2 ^ 31 - 1 else x)

/-- SatN32 of R161: clamp to the unsigned range. -/
def satN32 (x : Int) : Word := wrap32 (if x < 0 then 0 else if x > 2 ^ 32 - 1 then 2 ^ 32 - 1 else x)

/-- Clamp an integer into a range. -/
def clampI (lo hi x : Int) : Int := if x < lo then lo else if x > hi then hi else x

/-- The little-endian value of bytes (R9). -/
def leNat : List Byte → Nat
  | [] => 0
  | b :: bs => b.toNat + 256 * leNat bs

/-- The n little-endian bytes of a number (R9). -/
def leBytes : Nat → Nat → List Byte
  | 0, _ => []
  | n + 1, x => BitVec.ofNat 8 x :: leBytes n (x / 256)

/-- Little-endian words of a byte string, four bytes each (R9). -/
def leWords : List Byte → List Word
  | a :: b :: c :: d :: r => BitVec.ofNat 32 (leNat [a, b, c, d]) :: leWords r
  | _ => []

/-- Bytes of little-endian words (R9). -/
def wordsBytes (ws : List Word) : List Byte := ws.flatMap fun w => leBytes 4 w.toNat

/-- Word i of a record, zero beyond it. -/
def wAt (ws : List Word) (i : Nat) : Nat := (ws.getD i 0).toNat

/-- The 64-bit value of words i and i + 1 of a record (R9). -/
def dAt (ws : List Word) (i : Nat) : DWord := pairOf (ws.getD i 0) (ws.getD (i + 1) 0)

/-- Bits [63:57] of an address are all equal to bit 56 (R84). -/
def canonical (a : DWord) : Bool :=
  let t := a.toNat >>> 56
  t == 0 || t == 255

/-- Value under a key of an association list. -/
def assoc {α : Type} (k : Nat) : List (Nat × α) → Option α
  | [] => none
  | (i, x) :: r => if i = k then some x else assoc k r

/-- Set the value under a key; the list stays sorted by key when it was. -/
def assocSet {α : Type} (k : Nat) (x : α) : List (Nat × α) → List (Nat × α)
  | [] => [(k, x)]
  | (i, y) :: r => if i = k then (k, x) :: r else if k < i then (k, x) :: (i, y) :: r
    else (i, y) :: assocSet k x r

/-- Remove a key. -/
def assocDel {α : Type} (k : Nat) (l : List (Nat × α)) : List (Nat × α) := l.filter fun e => e.1 != k

/-- The numbers below n whose bit is set in a mask. -/
def bitsSet (n : Nat) (x : Nat) : List Nat := (List.range n).filter fun i => x.testBit i

/-- Smallest k with 2^k ≥ n is not needed; ceil division. -/
def ceilDiv (a b : Nat) : Nat := (a + b - 1) / b

/-- Bytes in runs of 32, the first ones first. -/
def atomsOf : Nat → List Byte → List (List Byte)
  | 0, _ => []
  | n + 1, bs => if bs.isEmpty then [] else bs.take 32 :: atomsOf n (bs.drop 32)

/-- Bytes in runs of 32. -/
def atoms (bs : List Byte) : List (List Byte) := atomsOf bs.length bs

end Sys2Proof.Machine
end

