-- ==== Sys2Proof/Machine/Num.lean ====
section
/-! DEFINITION. Floating-point and block formats computed exactly and rounded once (R65 to R75). A
finite value is kept as sign, magnitude and power of two, so no rounding happens before the last. -/

namespace Sys2Proof.Machine

/-- Rounding modes (R67). -/
inductive Rnd where
  | rn | rz | ru | rd
deriving DecidableEq, Repr

/-- A value: NaN, a signed infinity, or the number (-1)^neg * m * 2^e. -/
inductive FVal where
  | nan
  | inf (neg : Bool)
  | fin (neg : Bool) (m : Nat) (e : Int)
deriving DecidableEq, Repr

/-- A floating-point format (Table 4-1). -/
inductive Fmt where
  | f32 | f16 | bf16 | e4m3 | e5m2
deriving DecidableEq, Repr

namespace Fmt
/-- Exponent bits. -/
def eb : Fmt → Nat | .f32 => 8 | .f16 => 5 | .bf16 => 8 | .e4m3 => 4 | .e5m2 => 5
/-- Fraction bits. -/
def fb : Fmt → Nat | .f32 => 23 | .f16 => 10 | .bf16 => 7 | .e4m3 => 3 | .e5m2 => 2
/-- Bias. -/
def bias : Fmt → Nat | .f32 => 127 | .f16 => 15 | .bf16 => 127 | .e4m3 => 7 | .e5m2 => 15
/-- Pattern of the largest finite value. -/
def maxPat : Fmt → Nat
  | .f32 => 0x7F7FFFFF | .f16 => 0x7BFF | .bf16 => 0x7F7F | .e4m3 => 0x7E | .e5m2 => 0x7B
/-- Pattern of +infinity; .e4m3 has none and answers its NaN (R71). -/
def infPat : Fmt → Nat
  | .f32 => 0x7F800000 | .f16 => 0x7C00 | .bf16 => 0x7F80 | .e4m3 => 0x7F | .e5m2 => 0x7C
/-- The canonical NaN (R66). -/
def nanPat : Fmt → Nat
  | .f32 => 0x7FC00000 | .f16 => 0x7E00 | .bf16 => 0x7FC0 | .e4m3 => 0x7F | .e5m2 => 0x7E
/-- Storage bits. -/
def bits (f : Fmt) : Nat := 1 + f.eb + f.fb
/-- Bytes. -/
def bytes (f : Fmt) : Nat := f.bits / 8
end Fmt

/-- Whether a pattern's exponent field is zero and its fraction is not (R68). -/
def isSub (f : Fmt) (w : Nat) : Bool := bitsOf w f.fb f.eb == 0 && bitsOf w 0 f.fb != 0

/-- The value of a pattern (R65). -/
def decF (f : Fmt) (w : Nat) : FVal :=
  let s := bitOf w (f.eb + f.fb)
  let e := bitsOf w f.fb f.eb
  let m := bitsOf w 0 f.fb
  if f = .e4m3 then
    if e = 15 ∧ m = 7 then .nan
    else if e = 0 then .fin s m (-9) else .fin s (m + 8) ((e : Int) - 10)
  else if e = 2 ^ f.eb - 1 then (if m = 0 then .inf s else .nan)
  else if e = 0 then .fin s m (1 - (f.bias : Int) - f.fb)
  else .fin s (m + 2 ^ f.fb) ((e : Int) - f.bias - f.fb)

/-- In(x) of R161: under FTZ a subnormal source reads as a zero of its sign (R68). -/
def inF (f : Fmt) (ftz : Bool) (w : Nat) : FVal :=
  if ftz && isSub f w then .fin (bitOf w (f.eb + f.fb)) 0 0 else decF f w

/-- Round an integer quotient m / 2^d to an integer in a mode, for a value of the given sign (R67).
Shifts far beyond the magnitude are not formed. -/
def roundShift (mode : Rnd) (neg : Bool) (m d : Nat) : Nat :=
  if d = 0 then m
  else if d > Nat.log2 m + 1 then
    (if m = 0 then 0 else match mode with
      | .rn | .rz => 0
      | .ru => if neg then 0 else 1
      | .rd => if neg then 1 else 0)
  else
    let n := m >>> d
    let r := m % 2 ^ d
    let h := 2 ^ (d - 1)
    match mode with
    | .rz => n
    | .ru => if r ≠ 0 ∧ !neg then n + 1 else n
    | .rd => if r ≠ 0 ∧ neg then n + 1 else n
    | .rn => if r > h ∨ (r = h ∧ n % 2 = 1) then n + 1 else n

/-- The pattern with a sign. -/
def signPat (f : Fmt) (neg : Bool) (p : Nat) : Nat := if neg then p + 2 ^ (f.eb + f.fb) else p

/-- What overflow delivers (Table 4-2, R71). -/
def overflowPat (f : Fmt) (mode : Rnd) (sat neg : Bool) : Nat :=
  let toInf := match mode with
    | .rn => true
    | .rz => false
    | .ru => !neg
    | .rd => neg
  if toInf && !sat then (if f = .e4m3 then f.nanPat else signPat f neg f.infPat)
  else signPat f neg f.maxPat

/-- Round an exact value to a format: R67, NaN canonical (R66), saturation (R71), FTZ on the result
(R68). -/
def roundF (f : Fmt) (mode : Rnd) (sat ftz : Bool) : FVal → Nat
  | .nan => f.nanPat
  | .inf neg =>
    if sat then signPat f neg f.maxPat
    else if f = .e4m3 then f.nanPat else signPat f neg f.infPat
  | .fin neg m e =>
    if m = 0 then signPat f neg 0
    else
      let top : Int := (Nat.log2 m : Int) + e
      let emin : Int := 1 - (f.bias : Int)
      let emax : Int := if f = .e4m3 then 8 else (f.bias : Int)
      if top > emax then overflowPat f mode sat neg
      else
        let q : Int := (if top < emin then emin else top) - f.fb
        let n := if e ≥ q then m <<< (e - q).toNat else roundShift mode neg m (q - e).toNat
        let (n, q) := if n ≥ 2 ^ (f.fb + 1) then (n / 2, q + 1) else (n, q)
        if n < 2 ^ f.fb then
          (if ftz then signPat f neg 0 else signPat f neg n)
        else
          let ex : Int := q + f.fb
          if ex > emax ∨ (f = .e4m3 ∧ ex = 8 ∧ n = 15) then overflowPat f mode sat neg
          else signPat f neg ((ex + f.bias).toNat * 2 ^ f.fb + (n - 2 ^ f.fb))

/-- The signed integer m * 2^(e - q) of a finite value for q ≤ e. -/
def finInt (neg : Bool) (m : Nat) (sh : Int) : Int :=
  let x : Int := (m <<< sh.toNat : Nat)
  if neg then -x else x

/-- Negation. -/
def FVal.neg : FVal → FVal
  | .nan => .nan
  | .inf s => .inf (!s)
  | .fin s m e => .fin (!s) m e

/-- Absolute value. -/
def FVal.abs : FVal → FVal
  | .nan => .nan
  | .inf _ => .inf false
  | .fin _ m e => .fin false m e

/-- Exact sum; the mode fixes the sign of an exact zero (R67). -/
def addF (mode : Rnd) : FVal → FVal → FVal
  | .nan, _ => .nan
  | _, .nan => .nan
  | .inf a, .inf b => if a = b then .inf a else .nan
  | .inf a, _ => .inf a
  | _, .inf b => .inf b
  | .fin a m e, .fin b n k =>
    if m = 0 ∧ n = 0 then .fin (if a = b then a else mode == .rd) 0 0
    else if m = 0 then .fin b n k
    else if n = 0 then .fin a m e
    else
      let q := if e < k then e else k
      let s := finInt a m (e - q) + finInt b n (k - q)
      if s = 0 then .fin (if a = b then a else mode == .rd) 0 0
      else .fin (s < 0) s.natAbs q

/-- Exact product. -/
def mulF : FVal → FVal → FVal
  | .nan, _ => .nan
  | _, .nan => .nan
  | .inf a, .inf b => .inf (a != b)
  | .inf a, .fin b n _ => if n = 0 then .nan else .inf (a != b)
  | .fin a m _, .inf b => if m = 0 then .nan else .inf (a != b)
  | .fin a m e, .fin b n k => .fin (a != b) (m * n) (if m * n = 0 then 0 else e + k)

/-- Exact a × b + c, rounded once by the caller (R69). -/
def fmaF (mode : Rnd) (a b c : FVal) : FVal := addF mode (mulF a b) c

/-- x < y for values that are not NaN, with -0 equal to +0. -/
def ltF : FVal → FVal → Bool
  | .nan, _ => false
  | _, .nan => false
  | .inf a, .inf b => a && !b
  | .inf a, _ => a
  | _, .inf b => !b
  | .fin a m e, .fin b n k =>
    let q := if e < k then e else k
    let e := if m = 0 then q else e
    let k := if n = 0 then q else k
    finInt a m (e - q) < finInt b n (k - q)

/-- x = y for values that are not NaN, with -0 equal to +0. -/
def eqF (x y : FVal) : Bool := x != .nan && y != .nan && !ltF x y && !ltF y x

/-- A NaN. -/
def FVal.isNan : FVal → Bool
  | .nan => true
  | _ => false

/-- The sign of a value, false for NaN. -/
def FVal.sign : FVal → Bool
  | .nan => false
  | .inf s => s
  | .fin s _ _ => s

/-- minimumNumber of IEEE 754-2019, with -0 below +0 (R69). -/
def minF (x y : FVal) : FVal :=
  if x.isNan then y else if y.isNan then x
  else if ltF x y then x else if ltF y x then y
  else if x.sign then x else y

/-- maximumNumber of IEEE 754-2019, with -0 below +0 (R69). -/
def maxF (x y : FVal) : FVal :=
  if x.isNan then y else if y.isNan then x
  else if ltF x y then y else if ltF y x then x
  else if x.sign then y else x

/-- Round a finite value to an integer in a mode. -/
def intF (mode : Rnd) (neg : Bool) (m : Nat) (e : Int) : Int :=
  let n := if e ≥ 0 then m <<< e.toNat else roundShift mode neg m (-e).toNat
  if neg then -(n : Int) else (n : Int)

/-- Float to integer with a clamp (Table 4-3). -/
def toIntF (mode : Rnd) (lo hi : Int) : FVal → Int
  | .nan => 0
  | .inf s => if s then lo else hi
  | .fin s m e =>
    if (Nat.log2 m : Int) + e > 70 ∧ m ≠ 0 then (if s then lo else hi)
    else clampI lo hi (intF mode s m e)

/-- An integer as a value; zero is +0. -/
def ofIntF (x : Int) : FVal := .fin (x < 0) x.natAbs 0

/-- The value of a BX element: mantissa M of width m and exponent byte E (R72). -/
def bxVal (m : Nat) (mant : Int) (e : Nat) : FVal :=
  if e = 0xFF then .nan
  else if mant = 0 then .fin false 0 0 else .fin (mant < 0) mant.natAbs ((e : Int) - 127 - m + 2)

/-- RoundEven(|x| / 2^k) of R74 as a natural number, for a finite magnitude. -/
def roundEvenDiv (m : Nat) (e k : Int) : Nat :=
  if e ≥ k then m <<< (e - k).toNat else roundShift .rn false m (k - e).toNat

/-- The smallest block exponent c at or above `c0` that holds magnitude a, or 254 (R74). -/
def bxScan (m : Nat) (a : FVal) : Nat → Nat → Nat
  | 0, _ => 254
  | fuel + 1, c =>
    let fits := match a with
      | .fin _ am ae => am == 0 || ((Nat.log2 am : Int) + ae - ((c : Int) - 127 - m + 2) ≤ 10 &&
          roundEvenDiv am ae ((c : Int) - 127 - m + 2) ≤ 2 ^ (m - 1) - 1)
      | _ => false
    if fits then c else bxScan m a fuel (c + 1)

/-- Quantise 16 values to a block (R74): its exponent byte and its mantissas. -/
def bxQuant (m : Nat) (xs : List FVal) : Nat × List Int :=
  if xs.any FVal.isNan then (0xFF, xs.map fun _ => 0)
  else
    let a := (xs.map FVal.abs).foldl maxF (.fin false 0 0)
    let e := bxScan m a 255 0
    let mm : Int := 2 ^ (m - 1) - 1
    (e, xs.map fun x => match x with
      | .nan => 0
      | .inf s => if s then -mm else mm
      | .fin s k ex =>
        if k = 0 then 0
        else if (Nat.log2 k : Int) + ex - ((e : Int) - 127 - m + 2) > 10 then (if s then -mm else mm)
        else
          let n : Int := roundEvenDiv k ex ((e : Int) - 127 - m + 2)
          clampI (-mm) mm (if s then -n else n))

/-- FRINT of R183 on a binary32 pattern. -/
def frint (mode : Rnd) (ftz : Bool) (w : Nat) : Nat :=
  match inF .f32 ftz w with
  | .fin s m e =>
    if e ≥ 0 then roundF .f32 .rn false ftz (.fin s m e)
    else roundF .f32 .rn false ftz (.fin s (roundShift mode s m (-e).toNat) 0)
  | x => roundF .f32 .rn false ftz x

/-- FEXPX of R184 on a binary32 pattern. -/
def fexpx (ftz : Bool) (w : Nat) : Word :=
  match inF .f32 ftz w with
  | .fin _ m e => if m = 0 then 0x80000000 else wrap32 ((Nat.log2 m : Int) + e)
  | _ => 0x7FFFFFFF

/-- A binary32 operation on exact values, rounded under a mode (R177). -/
def round32 (mode : Rnd) (ftz : Bool) (x : FVal) : Word :=
  BitVec.ofNat 32 (roundF .f32 mode false ftz x)

/-- The value of a binary32 register. -/
def f32 (w : Word) : FVal := decF .f32 w.toNat

end Sys2Proof.Machine
end

