-- ==== Sys2Proof/Config.lean ====
section
/-! DEFINITION. What the spec leaves open: free values. Each is an opaque constant without a
body, so nothing can evaluate it or rest on a number (notes/assumptions/1.md). -/

namespace Sys2Proof.Config

/-- The value read from an unmapped register (R44, R55): by the free counter of the state, the
thread's unique number and the register index (DESIGN CHOICE, notes/assumptions/1.md). -/
opaque unmapped : Nat → Nat → Nat → BitVec 32

/-- An unpredictable word written by a matrix step that reads a mode its pairing does not allow
(R246): by the free counter, row and column (DESIGN CHOICE, notes/assumptions/1.md). -/
opaque badStep : Nat → Nat → Nat → BitVec 32

/-- What a special-function estimate answers inside its error bound (R76): by the function code of
major 0x33 and the operand. Deterministic in the operand, as R189 asks (DESIGN CHOICE, notes/assumptions/6.md). -/
opaque estimate : Nat → BitVec 32 → BitVec 32

/-- A byte read from a peer device (R17, R94): by the free counter and the byte index. -/
opaque peerByte : Nat → Nat → BitVec 8

/-- Old values and application results a peer device answers to atomics and remote updates. -/
opaque peerWord : Nat → Nat → BitVec 32

/-- Whether a peer device answers a request with PROTECTION (R447): by the free counter. -/
opaque peerDenies : Nat → Bool

/-- Whether a signature verifies over the words of a message, by a key whose hash is given (R449): algorithm 0 is Ed25519, 1
ML-DSA-65 (DESIGN CHOICE, notes/assumptions/19.md). -/
opaque verifies : Nat → List (BitVec 32) → List (BitVec 32) → List (BitVec 32) → Bool

/-- A word of a SHA-384 digest (R444, R450): by the words of the message and the word index
(DESIGN CHOICE, notes/assumptions/19.md). -/
opaque sha384 : List (BitVec 32) → Nat → BitVec 32

/-- A word of the public key of a device identity key pair (R450): by the algorithm, the fused secret, the firmware measurement and
the word index (DESIGN CHOICE, notes/assumptions/19.md). -/
opaque identityKey : Nat → List (BitVec 32) → List (BitVec 32) → Nat → BitVec 32

/-- A word of a signature by such a pair (R450): by the algorithm, the fused secret, the measurement, the message, the free counter
and the word index (DESIGN CHOICE, notes/assumptions/19.md). -/
opaque signature : Nat → List (BitVec 32) → List (BitVec 32) → List (BitVec 32) → Nat → Nat → BitVec 32

/-- The device error counters that Monarch keeps per structure start from no stated value and
count events the model does not distinguish further (R395): by structure and free counter. -/
opaque corrected : Nat → Nat → Nat

/-- The old bytes or zero bytes a load of a flash block under erasure returns (R427): true picks
the old contents; by the free counter and the line. -/
opaque eraseOld : Nat → Nat → Bool

end Sys2Proof.Config
end

