-- ==== Sys2Proof/Syntax.lean ====
section
/-! DEFINITION. The instruction set as syntax: one constructor of `Instr` per row of the spec's
opcode table: instruction words (R131 to R147), the five prefixing words (R148 to R153) and the
machine's events (what_each_step_holds). Operands stand as the raw bit fields of the word. -/

namespace Sys2Proof

/-- Bit fields of the three-register format (Table 7-2). -/
structure TR where
  rc : BitVec 2
  d : BitVec 7
  a : BitVec 7
  b : BitVec 7
  la : BitVec 1
  lb : BitVec 1
deriving DecidableEq, Repr

/-- Bit fields of the shift with an immediate amount (R135). -/
structure SI where
  rc : BitVec 2
  d : BitVec 7
  a : BitVec 7
  k : BitVec 5
deriving DecidableEq, Repr

/-- Bit fields of the shift with a register amount (R135). -/
structure SR where
  rc : BitVec 2
  d : BitVec 7
  a : BitVec 7
  lk : BitVec 1
  k : BitVec 7
deriving DecidableEq, Repr

/-- Bit fields of the immediate format (Table 7-3). -/
structure IM where
  rc : BitVec 2
  d : BitVec 7
  a : BitVec 7
  imm : BitVec 9
deriving DecidableEq, Repr

/-- Bit fields of the wide-immediate format (Table 7-4). -/
structure WI where
  rc : BitVec 2
  d : BitVec 7
  imm : BitVec 16
deriving DecidableEq, Repr

/-- Bit fields of the compare format (Table 7-7). -/
structure CP where
  rc : BitVec 2
  pd : BitVec 4
  cond : BitVec 3
  a : BitVec 7
  b : BitVec 7
  la : BitVec 1
  lb : BitVec 1
deriving DecidableEq, Repr

/-- Bit fields of the operands of PLOP and the rows of its shape (R174). -/
structure PLF where
  rc : BitVec 2
  pd : BitVec 4
  pa : BitVec 4
  na : BitVec 1
  pb : BitVec 4
  nb : BitVec 1
  op : BitVec 2
deriving DecidableEq, Repr

/-- Bit fields of the operands of PPACK and the rows of its shape (R175). -/
structure PPF where
  rc : BitVec 2
  d : BitVec 7
deriving DecidableEq, Repr

/-- Bit fields of the operands of PUNPK and the rows of its shape (R175). -/
structure SWF where
  rc : BitVec 2
  a : BitVec 7
  la : BitVec 1
deriving DecidableEq, Repr

/-- Bit fields of the operands of CMOV and the rows of its shape (R176). -/
structure CMF where
  rc : BitVec 2
  p : BitVec 4
  neg : BitVec 1
  d : BitVec 7
  a : BitVec 7
  la : BitVec 1
deriving DecidableEq, Repr

/-- Bit fields of the class format (Table 7-6). -/
structure CL where
  rc : BitVec 2
  d : BitVec 7
  a : BitVec 7
  la : BitVec 1
deriving DecidableEq, Repr

/-- Bit fields of the class format with a mode in sub (Table 7-16). -/
structure CLM where
  rc : BitVec 2
  d : BitVec 7
  a : BitVec 7
  la : BitVec 1
  sub : BitVec 2
deriving DecidableEq, Repr

/-- Bit fields of the operands of CVT and the rows of its shape (R185). -/
structure CVF where
  rc : BitVec 2
  d : BitVec 7
  a : BitVec 7
  src : BitVec 3
  dst : BitVec 3
  la : BitVec 1
  form : BitVec 2
deriving DecidableEq, Repr

/-- Bit fields of the operands of SRD and the rows of its shape (R191). -/
structure SDF where
  rc : BitVec 2
  d : BitVec 7
  n : BitVec 6
deriving DecidableEq, Repr

/-- Bit fields of the operands of MSKR and the rows of its shape (R202). -/
structure MRF where
  rc : BitVec 2
  d : BitVec 7
  k : BitVec 3
deriving DecidableEq, Repr

/-- Bit fields of the operands of MSKW and the rows of its shape (R202). -/
structure MWF where
  rc : BitVec 2
  k : BitVec 3
  a : BitVec 7
  la : BitVec 1
deriving DecidableEq, Repr

/-- Bit fields of the operands of MSKP and the rows of its shape (R202). -/
structure MPF where
  rc : BitVec 2
  pd : BitVec 4
  k : BitVec 3
deriving DecidableEq, Repr

/-- Bit fields of the operands of PMSK and the rows of its shape (R202). -/
structure PMF where
  rc : BitVec 2
  k : BitVec 3
  pa : BitVec 4
deriving DecidableEq, Repr

/-- Bit fields of the operands of BR and the rows of its shape (R196). -/
structure BRF where
  rc : BitVec 2
  p : BitVec 4
  neg : BitVec 1
  off : BitVec 18
deriving DecidableEq, Repr

/-- Bit fields of the operands of NOP and the rows of its shape (R199). -/
structure RCF where
  rc : BitVec 2
deriving DecidableEq, Repr

/-- Bit fields of the operands of TRAP and the rows of its shape (R200). -/
structure TPF where
  rc : BitVec 2
  imm : BitVec 16
deriving DecidableEq, Repr

/-- Bit fields of the operands of JENR and the rows of its shape (R35). -/
structure KF where
  rc : BitVec 2
  k : BitVec 3
deriving DecidableEq, Repr

/-- Bit fields of the memory format (Table 7-8). -/
structure ME where
  rc : BitVec 2
  t : BitVec 7
  b : BitVec 7
  off : BitVec 7
  cp : BitVec 2
deriving DecidableEq, Repr

/-- Bit fields of the operands of LDS and the rows of its shape (R209). -/
structure LSF where
  rc : BitVec 2
  t : BitVec 7
  o : BitVec 7
  w : BitVec 3
  off : BitVec 6
deriving DecidableEq, Repr

/-- Bit fields of the operands of LDP and the rows of its shape (R210). -/
structure LPF where
  rc : BitVec 2
  t : BitVec 7
  o : BitVec 7
  w : BitVec 3
  rank : BitVec 2
  off : BitVec 4
deriving DecidableEq, Repr

/-- Bit fields of the operands of TLD and the rows of its shape (R211). -/
structure TLF where
  rc : BitVec 2
  t : BitVec 7
  c : BitVec 7
  s : BitVec 7
deriving DecidableEq, Repr

/-- Bit fields of the operands of PRF_L1 and the rows of its shape (R212). -/
structure CCF where
  rc : BitVec 2
  b : BitVec 7
  off : BitVec 7
deriving DecidableEq, Repr

/-- Bit fields of the operands of ATOM_ADD and the rows of its shape (R216). -/
structure ATF where
  rc : BitVec 2
  d : BitVec 7
  ap : BitVec 6
  b : BitVec 7
  t : BitVec 2
deriving DecidableEq, Repr

/-- Bit fields of the operands of ATOM_AND and the rows of its shape (R216). -/
structure ATB where
  rc : BitVec 2
  d : BitVec 7
  ap : BitVec 6
  x : BitVec 1
  b : BitVec 7
deriving DecidableEq, Repr

/-- Bit fields of the operands of ATOM_CAS and the rows of its shape (R217). -/
structure CAF where
  rc : BitVec 2
  d : BitVec 7
  ap : BitVec 6
  b : BitVec 7
  t : BitVec 1
deriving DecidableEq, Repr

/-- Bit fields of the operands of STM and the rows of its shape (R218). -/
structure STF where
  rc : BitVec 2
  n : BitVec 2
  w : BitVec 3
  ap : BitVec 6
  b : BitVec 7
deriving DecidableEq, Repr

/-- Bit fields of the operands of FENCE and the rows of its shape (R219). -/
structure FNF where
  rc : BitVec 2
  ord : BitVec 3
  scope : BitVec 3
deriving DecidableEq, Repr

/-- Bit fields of the operands of WAIT and the rows of its shape (R220). -/
structure WTF where
  rc : BitVec 2
  acq : BitVec 1
  cls : BitVec 2
  n : BitVec 16
deriving DecidableEq, Repr

/-- Bit fields of the operands of WAITA and the rows of its shape (R221). -/
structure WAF where
  rc : BitVec 2
  ne : BitVec 1
  tmo : BitVec 2
  ap : BitVec 6
  b : BitVec 7
deriving DecidableEq, Repr

/-- Bit fields of the operands of BAR and the rows of its shape (R222). -/
structure BIF where
  rc : BitVec 2
  id : BitVec 4
deriving DecidableEq, Repr

/-- Bit fields of the operands of BAR_PE and the rows of its shape (R224). -/
structure BPF where
  rc : BitVec 2
  idx : BitVec 8
deriving DecidableEq, Repr

/-- Bit fields of the operands of SHFL and the rows of its shape (R204). -/
structure SHF where
  rc : BitVec 2
  d : BitVec 7
  a : BitVec 7
  b : BitVec 7
  mode : BitVec 2
deriving DecidableEq, Repr

/-- Bit fields of the operands of VOTE_ANY and the rows of its shape (R203). -/
structure VTF where
  rc : BitVec 2
  pd : BitVec 4
  pa : BitVec 4
deriving DecidableEq, Repr

/-- Bit fields of the operands of VOTE_BALLOT and the rows of its shape (R203). -/
structure VBF where
  rc : BitVec 2
  d : BitVec 7
  pa : BitVec 4
deriving DecidableEq, Repr

/-- Bit fields of the operands of GRED_ADD and the rows of its shape (R205). -/
structure GRF where
  rc : BitVec 2
  d : BitVec 7
  a : BitVec 7
  la : BitVec 1
  ty : BitVec 2
deriving DecidableEq, Repr

/-- Bit fields of the operands of RDEF and the rows of its shape (R264). -/
structure RDF where
  rc : BitVec 2
  d : BitVec 7
  ap : BitVec 6
  slot : BitVec 5
deriving DecidableEq, Repr

/-- Bit fields of the operands of ROP and the rows of its shape (R268). -/
structure ROF where
  rc : BitVec 2
  slot : BitVec 5
  v : BitVec 7
  ap : BitVec 6
deriving DecidableEq, Repr

/-- Bit fields of the operands of BTX_START and the rows of its shape (R302). -/
structure BSF where
  rc : BitVec 2
  ap : BitVec 6
  ch : BitVec 2
deriving DecidableEq, Repr

/-- Bit fields of the operands of BTX_STAT and the rows of its shape (R303). -/
structure BTF where
  rc : BitVec 2
  d : BitVec 7
  ch : BitVec 2
deriving DecidableEq, Repr

/-- Bit fields of the operands of TCOPY and the rows of its shape (R304). -/
structure TCF where
  rc : BitVec 2
  v : BitVec 7
  ch : BitVec 2
deriving DecidableEq, Repr

/-- Bit fields of the operands of AMTEST and the rows of its shape (R306). -/
structure AMF where
  rc : BitVec 2
  pd : BitVec 4
  ap : BitVec 6
  m : BitVec 7
deriving DecidableEq, Repr

/-- Bit fields of the operands of AMSG and the rows of its shape (R308). -/
structure MSF where
  rc : BitVec 2
  c : BitVec 7
  h : BitVec 4
  v : BitVec 7
deriving DecidableEq, Repr

/-- Bit fields of the operands of AMH and the rows of its shape (R307). -/
structure AHF where
  rc : BitVec 2
  c : BitVec 7
  h : BitVec 4
  v : BitVec 7
deriving DecidableEq, Repr

/-- Bit fields of the operands of LAUNCH and the rows of its shape (R313). -/
structure LNF where
  rc : BitVec 2
  d : BitVec 7
  ap : BitVec 6
  q : BitVec 6
deriving DecidableEq, Repr

/-- Bit fields of the matrix format (Table 7-9). -/
structure MXF where
  rc : BitVec 2
  a : BitVec 7
  acc : BitVec 6
  pairing : BitVec 5
  kgc : BitVec 3
  reuse : BitVec 1
  stream : BitVec 1
deriving DecidableEq, Repr

/-- Bit fields of the operands of MSTR and the rows of its shape (R243). -/
structure MQF where
  rc : BitVec 2
  q : BitVec 7
  stream : BitVec 1
deriving DecidableEq, Repr

/-- Bit fields of the operands of ACLR and the rows of its shape (R247). -/
structure ACF where
  rc : BitVec 2
  acc : BitVec 6
  mode : BitVec 2
deriving DecidableEq, Repr

/-- Bit fields of the operands of AREAD and the rows of its shape (R248). -/
structure ARF where
  rc : BitVec 2
  v : BitVec 7
  acc : BitVec 6
  col : BitVec 6
  cnt : BitVec 2
deriving DecidableEq, Repr

/-- Bit fields of the operands of AST and the rows of its shape (R249). -/
structure ASF where
  rc : BitVec 2
  o : BitVec 7
  acc : BitVec 6
  fmt : BitVec 3
deriving DecidableEq, Repr

/-- Bit fields of the operands of MBURST and the rows of its shape (R251). -/
structure MBF where
  rc : BitVec 2
  n : BitVec 16
deriving DecidableEq, Repr

/-- Bit fields of the operands of CSRR and the rows of its shape (R341). -/
structure CRF where
  rc : BitVec 2
  r : BitVec 7
  csr : BitVec 12
deriving DecidableEq, Repr

/-- Bit fields of the operands of CSRW and the rows of its shape (R341). -/
structure CWF where
  rc : BitVec 2
  r : BitVec 7
  csr : BitVec 12
deriving DecidableEq, Repr

/-- Bit fields of the operands of CTX_NEW and the rows of its shape (R346). -/
structure CNF where
  rc : BitVec 2
  d : BitVec 7
  ap : BitVec 6
deriving DecidableEq, Repr

/-- Bit fields of the operands of CTX_RUN and the rows of its shape (R347). -/
structure CBF where
  rc : BitVec 2
  d : BitVec 7
  ap : BitVec 6
  b : BitVec 7
deriving DecidableEq, Repr

/-- Bit fields of the operands of CTX_KILL and the rows of its shape (R352). -/
structure CKF where
  rc : BitVec 2
  d : BitVec 7
  b : BitVec 7
deriving DecidableEq, Repr

/-- Bit fields of the operands of TLBINV_PAGE and the rows of its shape (R365). -/
structure TIF where
  rc : BitVec 2
  ap : BitVec 6
deriving DecidableEq, Repr

/-- Bit fields of the operands of GUARD and the rows of its shape (R149). -/
structure GDF where
  p : BitVec 4
  neg : BitVec 1
  n : BitVec 3
deriving DecidableEq, Repr

/-- Bit fields of the operands of BLOCK and the rows of its shape (R151). -/
structure BLF where
  h : BitVec 4
  w : BitVec 3
  bvb : BitVec 1
deriving DecidableEq, Repr

/-- Bit fields of the operands of MOD and the rows of its shape (R152). -/
structure MDF where
  rnd : BitVec 3
  ftz : BitVec 1
  sat : BitVec 2
  cpv : BitVec 1
  cp : BitVec 2
  ordv : BitVec 1
  ord : BitVec 3
  scope : BitVec 3
deriving DecidableEq, Repr

/-- Bit fields of the operands of MXSC and the rows of its shape (R153). -/
structure MSC where
  a : BitVec 7
  byte : BitVec 2
deriving DecidableEq, Repr

/-- Bit fields of the operands of IMM and the rows of its shape (R150). -/
structure IMF where
  h : BitVec 2
  i : BitVec 23
deriving DecidableEq, Repr

/-- A firmware image: its version, its contents and its two signatures (R449). -/
structure FwImage where
  version : Nat := 0
  body : List Word := []
  ed : List Word := []
  mldsa : List Word := []
deriving DecidableEq, Repr

/-- Where a write of the host goes: a function, or a kick page by its number, and the IDE stream that it came on where it carries
the T bit (R441). -/
structure HostAt where
  n : Nat
  tee : Option Nat := none
deriving DecidableEq, Repr

/-- What a request over a device link asks for (R446): a read of n bytes, a write of the bytes that the request carries, an atomic
by its operation code, or a remote update with its definition and payload. -/
inductive PeerOp where
  | read (n : Nat)
  | write
  | atomic (op size : Nat) (b c : DWord)
  | remote (defn pay : List Word)
deriving DecidableEq, Repr

/-- A debug command record (Table 18-8) and the port it arrives on: `who` is `none` for the host
driver and `some n` for the driver of VF n (R396). -/
structure DbgCmd where
  who : Option Nat
  cls : Nat
  cxid : Nat
  core : Nat
  part : Nat
  slot : Nat
  run : Nat
  thr : Nat
  num : Nat
  addr : DWord
  data : List Word
deriving DecidableEq, Repr

/-- The instructions and events of the E8: one constructor per row of the opcode table. -/
inductive Instr where
  /-- IADD: Adds two registers in each active lane, wrapping or saturating under MOD sat. (R164) -/
  | iadd (o : TR)
  /-- ISUB: Subtracts vb from va in each active lane. (R164) -/
  | isub (o : TR)
  /-- IMUL: Multiplies two registers, keeping the low 32 bits or saturating. (R164) -/
  | imul (o : TR)
  /-- IMULH_I32: Writes the high 32 bits of the signed 64-bit product. (R164) -/
  | imulhI32 (o : TR)
  /-- IMULH_N32: Writes the high 32 bits of the unsigned 64-bit product. (R164) -/
  | imulhN32 (o : TR)
  /-- IMAD: Computes a times b plus the destination as addend. (R164) -/
  | imad (o : TR)
  /-- IMIN_IMAX_I32: Signed minimum or maximum, chosen by the order of the encoded source fields. (R165) -/
  | iminImaxI32 (o : TR)
  /-- IMIN_IMAX_N32: Unsigned minimum or maximum, chosen by the order of the encoded source fields. (R165) -/
  | iminImaxN32 (o : TR)
  /-- AND: Bitwise AND of two registers. (R164) -/
  | and (o : TR)
  /-- OR: Bitwise OR of two registers. (R164) -/
  | or (o : TR)
  /-- XOR: Bitwise XOR of two registers. (R164) -/
  | xor (o : TR)
  /-- ANDN: Bitwise a AND NOT b. (R164) -/
  | andn (o : TR)
  /-- IADD64: Adds two 64-bit register pairs modulo 2^64. (R166) -/
  | iadd64 (o : TR)
  /-- ISUB64: Subtracts two 64-bit register pairs modulo 2^64. (R166) -/
  | isub64 (o : TR)
  /-- BFX: Extracts a bit field of va described by vb, optionally sign-extended. (R167) -/
  | bfx (o : TR)
  /-- BFI: Inserts the low bits of va into a field of vd described by vb. (R167) -/
  | bfi (o : TR)
  /-- SHL_IMM: Shifts left by an immediate amount. (R168) -/
  | shlImm (o : SI)
  /-- SHL_REG: Shifts left by an amount taken from a register. (R168) -/
  | shlReg (o : SR)
  /-- SHR_IMM: Logical right shift by an immediate amount. (R168) -/
  | shrImm (o : SI)
  /-- SHR_REG: Logical right shift by a register amount. (R168) -/
  | shrReg (o : SR)
  /-- SAR_IMM: Arithmetic right shift by an immediate amount. (R168) -/
  | sarImm (o : SI)
  /-- SAR_REG: Arithmetic right shift by a register amount. (R168) -/
  | sarReg (o : SR)
  /-- ROTL_IMM: Rotates left by an immediate amount. (R168) -/
  | rotlImm (o : SI)
  /-- ROTL_REG: Rotates left by a register amount modulo 32. (R168) -/
  | rotlReg (o : SR)
  /-- IADD_IMM: Adds a sign-extended immediate to a register. (R169) -/
  | iaddImm (o : IM)
  /-- AND_IMM: ANDs a register with a zero-extended immediate. (R169) -/
  | andImm (o : IM)
  /-- OR_IMM: ORs a register with a zero-extended immediate. (R169) -/
  | orImm (o : IM)
  /-- XOR_IMM: XORs a register with a zero-extended immediate. (R169) -/
  | xorImm (o : IM)
  /-- MOVI: Writes a sign-extended 16-bit or IMM-extended immediate to a register. (R170) -/
  | movi (o : WI)
  /-- MOVHI: Writes imm16 shifted left by 16 to a register. (R170) -/
  | movhi (o : WI)
  /-- LEA: Writes a PC-relative 64-bit address to a register pair. (R171) -/
  | lea (o : WI)
  /-- ISETP_I32: Compares two registers as signed integers and writes a predicate. (R172) -/
  | isetpI32 (o : CP)
  /-- ISETP_N32: Compares two registers as unsigned integers and writes a predicate. (R172) -/
  | isetpN32 (o : CP)
  /-- FSETP: Compares two binary32 values and writes a predicate. (R173) -/
  | fsetp (o : CP)
  /-- PLOP: Combines two optionally negated predicates with and, or or xor. (R174) -/
  | plop (o : PLF)
  /-- PPACK: Packs the thread's twelve predicates into a register. (R175) -/
  | ppack (o : PPF)
  /-- PUNPK: Sets the thread's twelve predicates from the low bits of a register. (R175) -/
  | punpk (o : SWF)
  /-- CMOV: Copies va to vd in lanes where the optionally negated predicate holds. (R176) -/
  | cmov (o : CMF)
  /-- FADD: Adds two binary32 values with one rounding. (R177) -/
  | fadd (o : TR)
  /-- FSUB: Subtracts two binary32 values with one rounding. (R177) -/
  | fsub (o : TR)
  /-- FMUL: Multiplies two binary32 values with one rounding. (R177) -/
  | fmul (o : TR)
  /-- FFMA: Fused a times b plus vd with one rounding. (R177) -/
  | ffma (o : TR)
  /-- FFMS: Fused a times b minus vd with one rounding. (R177) -/
  | ffms (o : TR)
  /-- FNFMA: Fused minus a times b plus vd with one rounding. (R177) -/
  | fnfma (o : TR)
  /-- FMIN_FMAX: minimumNumber or maximumNumber of two binary32 values, chosen by field order. (R178) -/
  | fminFmax (o : TR)
  /-- FSCB: Scales a binary32 value by a power of two given as a signed integer. (R179) -/
  | fscb (o : TR)
  /-- HADD2_BF16: Adds two packed bfloat16 pairs. (R180) -/
  | hadd2Bf16 (o : TR)
  /-- HADD2_F16: Adds two packed binary16 pairs. (R180) -/
  | hadd2F16 (o : TR)
  /-- HMUL2_BF16: Multiplies two packed bfloat16 pairs. (R180) -/
  | hmul2Bf16 (o : TR)
  /-- HMUL2_F16: Multiplies two packed binary16 pairs. (R180) -/
  | hmul2F16 (o : TR)
  /-- HFMA2_BF16: Fused multiply-add on packed bfloat16 pairs. (R180) -/
  | hfma2Bf16 (o : TR)
  /-- HFMA2_F16: Fused multiply-add on packed binary16 pairs. (R180) -/
  | hfma2F16 (o : TR)
  /-- HMIN2_HMAX2_BF16: Per-half minimum or maximum of packed bfloat16 pairs. (R180) -/
  | hmin2Hmax2Bf16 (o : TR)
  /-- HMIN2_HMAX2_F16: Per-half minimum or maximum of packed binary16 pairs. (R180) -/
  | hmin2Hmax2F16 (o : TR)
  /-- NOT: Bitwise complement. (R181) -/
  | not (o : CL)
  /-- NEG: Two's-complement negation with wrap. (R181) -/
  | neg (o : CL)
  /-- IABS: Integer absolute value with wrap. (R181) -/
  | iabs (o : CL)
  /-- POPC: Counts set bits. (R181) -/
  | popc (o : CL)
  /-- CLZ: Counts leading zero bits. (R181) -/
  | clz (o : CL)
  /-- BREV: Reverses the bit order. (R181) -/
  | brev (o : CL)
  /-- SEXT8: Sign-extends the low byte. (R181) -/
  | sext8 (o : CL)
  /-- SEXT16: Sign-extends the low half-word. (R181) -/
  | sext16 (o : CL)
  /-- ZEXT8: Zero-extends the low byte. (R181) -/
  | zext8 (o : CL)
  /-- ZEXT16: Zero-extends the low half-word. (R181) -/
  | zext16 (o : CL)
  /-- FNEG: Negates a binary32 value exactly. (R182) -/
  | fneg (o : CL)
  /-- FABS: Absolute value of a binary32 value. (R182) -/
  | fabs (o : CL)
  /-- FRINT: Rounds a binary32 value to an integral value in the mode held in sub. (R183) -/
  | frint (o : CLM)
  /-- FEXPX: Writes the unbiased exponent of a binary32 value as a signed integer. (R184) -/
  | fexpx (o : CL)
  /-- CVT: Converts between numeric formats in single, by-two or by-four form. (R185) -/
  | cvt (o : CVF)
  /-- RCPE: Long-latency reciprocal estimate. (R189) -/
  | rcpe (o : CL)
  /-- RSQE: Long-latency reciprocal square root estimate. (R189) -/
  | rsqe (o : CL)
  /-- EX2E: Long-latency base-2 exponential estimate. (R189) -/
  | ex2e (o : CL)
  /-- LG2E: Long-latency base-2 logarithm estimate. (R189) -/
  | lg2e (o : CL)
  /-- SINPE: Long-latency estimate of sin(pi x). (R189) -/
  | sinpe (o : CL)
  /-- COSPE: Long-latency estimate of cos(pi x). (R189) -/
  | cospe (o : CL)
  /-- TANHE: Long-latency hyperbolic tangent estimate. (R189) -/
  | tanhe (o : CL)
  /-- BXQ: Collectively quantises blocks of 16 threads into BX mantissas and a shared exponent. (R187) -/
  | bxq (o : CLM)
  /-- BXD: Dequantises one BX element to binary32. (R188) -/
  | bxd (o : CLM)
  /-- MOV: Copies a register. (R190) -/
  | mov (o : CL)
  /-- SRD: Reads a special register into a register or pair. (R191) -/
  | srd (o : SDF)
  /-- SWR: Writes sr.lr from a register pair. (R192) -/
  | swr (o : SWF)
  /-- MSKR: Copies a mask register to a register pair. (R202) -/
  | mskr (o : MRF)
  /-- MSKW: Writes a mask register from the pair of the lowest active lane and re-evaluates JWAIT release. (R202) -/
  | mskw (o : MWF)
  /-- MSKP: Copies each thread's mask bit into a predicate. (R202) -/
  | mskp (o : MPF)
  /-- PMSK: Writes each active thread's mask bit from a predicate. (R202) -/
  | pmsk (o : PMF)
  /-- BR: Conditional or unconditional PC-relative branch; ends the run. (R196) -/
  | br (o : BRF)
  /-- CALL: Branch that writes the return address to sr.lr when taken. (R196) -/
  | call (o : BRF)
  /-- NOP: Performs nothing beyond its run control. (R199) -/
  | nop (o : RCF)
  /-- EXIT: Commits the open region and ends the thread. (R45) -/
  | exit (o : RCF)
  /-- RET: Jumps to sr.lr after checking the target. (R197) -/
  | ret (o : RCF)
  /-- JIDX: Jumps to the 64-bit address in a register pair. (R197) -/
  | jidx (o : SWF)
  /-- BRK: Raises BREAKPOINT precisely. (R200) -/
  | brk (o : RCF)
  /-- TRAP: Raises SOFTWARE precisely with imm16 as faulting address. (R200) -/
  | trap (o : TPF)
  /-- JENR: Sets the bit of every active thread in a rejoin mask. (R35) -/
  | jenr (o : KF)
  /-- JWAIT: Parks enrolled threads until all enrolled threads arrive or exit. (R35) -/
  | jwait (o : KF)
  /-- LD_B: Loads one byte from global memory, long-latency. (R207) -/
  | ldB (o : ME)
  /-- LD_H: Loads two bytes from global memory. (R207) -/
  | ldH (o : ME)
  /-- LD_W: Loads four bytes from global memory. (R207) -/
  | ldW (o : ME)
  /-- LD_D: Loads eight bytes into a pair. (R207) -/
  | ldD (o : ME)
  /-- LD_Q: Loads sixteen bytes into a quad. (R207) -/
  | ldQ (o : ME)
  /-- ST_B: Buffers a one-byte global store in the region. (R207) -/
  | stB (o : ME)
  /-- ST_H: Buffers a two-byte global store in the region. (R207) -/
  | stH (o : ME)
  /-- ST_W: Buffers a four-byte global store in the region. (R207) -/
  | stW (o : ME)
  /-- ST_D: Buffers an eight-byte global store in the region. (R207) -/
  | stD (o : ME)
  /-- ST_Q: Buffers a sixteen-byte global store in the region. (R207) -/
  | stQ (o : ME)
  /-- LDS: Loads from the block's scratchpad. (R209) -/
  | lds (o : LSF)
  /-- STS: Buffers a store to the block's scratchpad. (R209) -/
  | sts (o : LSF)
  /-- LDP: Loads from a gang member's scratchpad. (R210) -/
  | ldp (o : LPF)
  /-- STP: Buffers a store to a gang member's scratchpad. (R210) -/
  | stp (o : LPF)
  /-- TLD: Loads tensor elements addressed through a shape record. (R211) -/
  | tld (o : TLF)
  /-- TST: Buffers tensor element stores addressed through a shape record. (R211) -/
  | tst (o : TLF)
  /-- PRF_L1: Prefetches a line toward L1 and L2. (R212) -/
  | prfL1 (o : CCF)
  /-- PRF_L2: Prefetches a line toward L2. (R212) -/
  | prfL2 (o : CCF)
  /-- CCTL_INV1: Invalidates one line in the issuing core's L1. (R212) -/
  | cctlInv1 (o : CCF)
  /-- CCTL_INVA: Invalidates every L1 line the issuing context can hit. (R212) -/
  | cctlInva (o : RCF)
  /-- CCTL_WB: Writes a dirty L2 line back to memory. (R212) -/
  | cctlWb (o : CCF)
  /-- CCTL_WBI: Writes an L2 line back and invalidates it. (R212) -/
  | cctlWbi (o : CCF)
  /-- ATOM_ADD: Atomic add at the home slice returning the old value; region-closing. (R216) -/
  | atomAdd (o : ATF)
  /-- ATOM_MIN: Atomic minimum returning the old value. (R216) -/
  | atomMin (o : ATF)
  /-- ATOM_MAX: Atomic maximum returning the old value. (R216) -/
  | atomMax (o : ATF)
  /-- ATOM_AND: Atomic bitwise AND, 32 or 64 bits. (R216) -/
  | atomAnd (o : ATB)
  /-- ATOM_OR: Atomic bitwise OR, 32 or 64 bits. (R216) -/
  | atomOr (o : ATB)
  /-- ATOM_XOR: Atomic bitwise XOR, 32 or 64 bits. (R216) -/
  | atomXor (o : ATB)
  /-- ATOM_XCHG: Atomic exchange, 32 or 64 bits. (R216) -/
  | atomXchg (o : ATB)
  /-- ATOM_CAS: Compare-and-swap returning the old value, .i32 or .i64. (R217) -/
  | atomCas (o : CAF)
  /-- STM: Checks all destinations, commits the region and stores the same data to up to four addresses. (R218) -/
  | stm (o : STF)
  /-- FENCE: Commits the region and parks until its release and acquire parts are satisfied. (R219) -/
  | fence (o : FNF)
  /-- WAIT: Commits and parks until a completion counter holds at most n. (R220) -/
  | wait (o : WTF)
  /-- WAITA: Commits and parks until a global word equals or differs from a value, with optional timeout. (R221) -/
  | waita (o : WAF)
  /-- BAR: Arrives at a block barrier and parks until the generation completes. (R222) -/
  | bar (o : BIF)
  /-- BAR_PE: Arrives at the pre-emption barrier; a pending graceful pre-emption drains and saves the block. (R224) -/
  | barPe (o : BPF)
  /-- BARA: Arrives at a block barrier and continues. (R222) -/
  | bara (o : BIF)
  /-- BARW: Parks until the generation of the thread's last BARA completes. (R222) -/
  | barw (o : BIF)
  /-- CBAR: Arrives at the gang's cluster barrier and parks until it completes. (R225) -/
  | cbar (o : RCF)
  /-- RGN: Commits the thread's region and opens a new one. (R227) -/
  | rgn (o : RCF)
  /-- RGNCNT: Writes the group's instar count to a register. (R228) -/
  | rgncnt (o : PPF)
  /-- SHFL: Collectively reads va from another thread of the group by index, up, down or xor. (R204) -/
  | shfl (o : SHF)
  /-- VOTE_ANY: Writes the OR of a predicate over Active. (R203) -/
  | voteAny (o : VTF)
  /-- VOTE_ALL: Writes the AND of a predicate over Active. (R203) -/
  | voteAll (o : VTF)
  /-- VOTE_BALLOT: Writes a 64-bit ballot of a predicate to a pair. (R203) -/
  | voteBallot (o : VBF)
  /-- GRED_ADD: Sums a register over the group in a fixed tree. (R205) -/
  | gredAdd (o : GRF)
  /-- GRED_MIN: Minimum over the group in a fixed tree. (R205) -/
  | gredMin (o : GRF)
  /-- GRED_MAX: Maximum over the group in a fixed tree. (R205) -/
  | gredMax (o : GRF)
  /-- RDEF: Reads, checks and installs a remote-update definition record into a slot and returns a status. (R264) -/
  | rdef (o : RDF)
  /-- ROP: Sends one remote-update request per active lane and counts it on cnt.ru. (R268) -/
  | rop (o : ROF)
  /-- ROPR: Sends remote-update requests whose results return to registers. (R268) -/
  | ropr (o : ROF)
  /-- BTX_START: Starts a chain of transfer records on a block-transfer channel. (R302) -/
  | btxStart (o : BSF)
  /-- BTX_STAT: Reads a channel's last fault cause and in-flight count. (R303) -/
  | btxStat (o : BTF)
  /-- TCOPY: Starts a one-record transfer built from eight registers. (R304) -/
  | tcopy (o : TCF)
  /-- AMTEST: Tests arrival-map bits in scratchpad into a predicate. (R306) -/
  | amtest (o : AMF)
  /-- AMSG: Sends an active message per lane to a target core's handler. (R308) -/
  | amsg (o : MSF)
  /-- AMH: Sets a handler table entry after earlier messages naming it have started. (R307) -/
  | amh (o : AHF)
  /-- LAUNCH: Reads, checks and enqueues a launch record on a launch queue. (R313) -/
  | launch (o : LNF)
  /-- MMA: Checks and hands a matrix multiply-accumulate to the sequencer and parks until its last tile write. (R244) -/
  | mma (o : MXF)
  /-- MLOOP: Hands an asynchronous matrix multiply-accumulate to the sequencer, counted on cnt.mx. (R244) -/
  | mloop (o : MXF)
  /-- MSTR: Writes a matrix stream register from a quad. (R243) -/
  | mstr (o : MQF)
  /-- ACLR: Clears a whole accumulator tile and sets its mode. (R247) -/
  | aclr (o : ACF)
  /-- AREAD: Reads tile words into registers as long-latency results. (R248) -/
  | aread (o : ARF)
  /-- AWRITE: Writes register words into a tile row. (R248) -/
  | awrite (o : ARF)
  /-- AST: Converts each thread's tile row and writes it to scratchpad. (R249) -/
  | ast (o : ASF)
  /-- ALD: Reads a row image from scratchpad into a tile row. (R249) -/
  | ald (o : ASF)
  /-- MBURST: Opens or extends a window that ramps the brick array up and keeps it hot. (R251) -/
  | mburst (o : MBF)
  /-- CSRR: Reads a context CSR. (R341) -/
  | csrr (o : CRF)
  /-- CSRW: Writes a context CSR; region-closing. (R341) -/
  | csrw (o : CWF)
  /-- CTX_NEW: Creates a child context from a descriptor in one engine step. (R346) -/
  | ctxNew (o : CNF)
  /-- CTX_RUN: Sets a child's run set and slice, starting its supervisor and vacating removed cores. (R347) -/
  | ctxRun (o : CBF)
  /-- CTX_STOP: Begins a graceful or urgent stop of a child and its running descendants. (R348) -/
  | ctxStop (o : CBF)
  /-- CTX_GRANT: Adds cores, ways, budgets, frames and delegation to a child. (R350) -/
  | ctxGrant (o : CBF)
  /-- CTX_REVOKE: Removes frames, budgets, cores and ways from a child, starting vacates, sweeps and scrubs. (R351) -/
  | ctxRevoke (o : CBF)
  /-- CTX_KILL: Stops a child subtree without save and returns its budgets and frames. (R352) -/
  | ctxKill (o : CKF)
  /-- CTX_STAT: Writes a child's descriptor and run state image. (R353) -/
  | ctxStat (o : CBF)
  /-- TRAPRET: Ends the grid or resumes the trapped threads and releases the trap binding. (R356) -/
  | trapret (o : RCF)
  /-- TLBINV_PAGE: Invalidates cached translations through one leaf of the issuing context. (R365) -/
  | tlbinvPage (o : TIF)
  /-- TLBINV_CTX: Invalidates cached translations of one context. (R365) -/
  | tlbinvCtx (o : TIF)
  /-- TLBINV_SUBTREE: Invalidates cached translations of a context and its descendants. (R365) -/
  | tlbinvSubtree (o : TIF)
  /-- FRMSTAT: Reports the ownership state of the frame holding an address. (R357) -/
  | frmstat (o : CNF)
  /-- GUARD: Prefixing word that removes lanes from Active for its own and up to seven following units. (R149) -/
  | guard (o : GDF)
  /-- BLOCK: Prefixing word that repeats the instruction over an h by w block of registers. (R151) -/
  | block (o : BLF)
  /-- MOD: Prefixing word that sets rounding, flush, saturation, cache policy, order and scope. (R152) -/
  | mod (o : MDF)
  /-- MXSC: Prefixing word that names the register and byte of A's block exponents. (R153) -/
  | mxsc (o : MSC)
  /-- IMM: Prefixing word that extends the following instruction's immediate with 25 bits. (R150) -/
  | imm (o : IMF)
  /-- ILLEGAL_WORD: A fetched unit whose word has an unassigned major, a reserved selector or another illegal encoding raises ILLEGAL_OP or ILLEGAL_PREFIX precisely and performs nothing. (R155) -/
  | illegalWord (w : Word)
  /-- ISSUE_ARBITRATION: At a run end the partition arbiter chooses the next issue group by starvation then age. (R37) -/
  | issueArbitration (core : Nat) (part : Nat)
  /-- RUN_TIME_LIMIT: A run ends before an instruction that cannot issue within 32 clk of the run's first issue. (R36) -/
  | runTimeLimit (core : Nat) (part : Nat)
  /-- PATH_STARVED: A thread ready for T clk without issuing makes its path starved and gives it precedence. (R38) -/
  | pathStarved (gid : Nat) (tid : Nat)
  /-- LONG_LATENCY_RESULT: A load, estimate, atomic or other long-latency result lands in its register or is discarded. (R42) -/
  | longLatencyResult (gid : Nat) (tid : Nat) (id : Nat) (err : Bool)
  /-- BLOCK_PLACE: The dispatcher places a whole block on a core of the run set when it fits. (R28) -/
  | blockPlace (cx : Nat) (core : Nat) (pick : Nat)
  /-- BLOCK_RETIRE: A block retires once its groups have retired and its engine operations have completed. (R45) -/
  | blockRetire (bid : Nat)
  /-- GRID_LEAVE_QUEUE: The grid at a queue head becomes active once its predecessors are placed and its dependence holds. (R406) -/
  | gridLeaveQueue (cx : Nat) (q : Nat)
  /-- HOST_LIST_READ: The dispatcher reads and checks the next launch record of a host list at the queue head. (R405) -/
  | hostListRead (cx : Nat) (q : Nat)
  /-- GRID_COMPLETE: A completed or rejected grid writes its status word, then its completion word, then its interrupt. (R315) -/
  | gridComplete (gr : Nat)
  /-- GRID_END: A fatal cause or ending TRAPRET stops every thread of the grid and discards its regions. (R384) -/
  | gridEnd (gr : Nat)
  /-- SUPERVISOR_START: A context's supervisor group is placed on the lowest-numbered core of the run set that fits it. (R337) -/
  | supervisorStart (cx : Nat) (pick : Nat)
  /-- AM_ADMIT: A message enters the target core's queue, or is held in the fabric while the queue is full. (R309) -/
  | amAdmit (msg : Nat)
  /-- AM_HANDLER_START: A queued message starts its handler group when a partition has room. (R48) -/
  | amHandlerStart (msg : Nat) (pick : Nat)
  /-- AM_COMPLETE: A message completes when its handler group has exited with its stores performed. (R108) -/
  | amComplete (msg : Nat)
  /-- TRAP_DELIVERY: A trap record is routed to the nearest claiming ancestor and written to its ring. (R354) -/
  | trapDelivery (tr : Nat)
  /-- TRAP_HANDLER_START: A delivered record starts a width-16 supervisor handler group bound to it. (R382) -/
  | trapHandlerStart (cx : Nat) (pick : Nat)
  /-- COCOON_SAVE: A group is written to its cocoon frame after its pre-region results land. (R386) -/
  | cocoonSave (gid : Nat)
  /-- COCOON_RESTORE: A group is restored from its cocoon frame after a successful re-walk or debugger resume. (R376) -/
  | cocoonRestore (gid : Nat) (bad : Bool)
  /-- BLOCK_SAVE: A block is saved gracefully or urgently and its core resources released. (R389) -/
  | blockSave (bid : Nat)
  /-- GRACEFUL_DEADLINE: An expired graceful deadline continues the pre-emption as urgent for unsaved blocks. (R387) -/
  | gracefulDeadline (cx : Nat)
  /-- SLICE_EXPIRY: An expired run slice stops the child with the run record's kind and deadline. (R347) -/
  | sliceExpiry (cx : Nat)
  /-- VACATE_COMPLETE: A revocation's vacate of removed cores ends and clears pend once sweeps are done. (R351) -/
  | vacateComplete (cx : Nat)
  /-- WAY_SWEEP_COMPLETE: The sweep of removed L2 ways finishes and the way change reports complete. (R417) -/
  | waySweepComplete (cx : Nat)
  /-- FRAME_SCRUB_START: The scrub engine takes a FREED frame into SCRUBBING in FREED order. (R373) -/
  | frameScrubStart (b : Nat) (f : Nat)
  /-- FRAME_SCRUB_COMPLETE: After its accesses drain a frame is zeroed, its lines invalidated and it becomes CLEAN for its receiver. (R373) -/
  | frameScrubComplete (b : Nat) (f : Nat)
  /-- CXID_RELEASE: A killed context's CXID becomes free once its frames, lines, definitions and buffers are clear. (R335) -/
  | cxidRelease (cx : Nat)
  /-- BT_RECORD_START: A channel reads and checks the next owned transfer record of a chain. (R288) -/
  | btRecordStart (op : Nat)
  /-- BT_CHUNK_LANDED: All bytes of a 512-byte chunk are performed and its arrival-map bit is set. (R297) -/
  | btChunkLanded (op : Nat) (chunk : Nat)
  /-- BT_RECORD_COMPLETE: A record's completion word is written and its ownership bit cleared. (R296) -/
  | btRecordComplete (op : Nat)
  /-- BT_RECORD_FAULT: A failed check or access faults a record, stops the chain and raises BT_FAULT. (R298) -/
  | btRecordFault (op : Nat)
  /-- BT_OPERATION_COMPLETE: A block-transfer operation completes when its chain stops. (R108) -/
  | btOperationComplete (op : Nat)
  /-- SEQUENCER_START: The matrix sequencer begins the next accepted operation in acceptance order. (R236) -/
  | sequencerStart (core : Nat) (part : Nat)
  /-- MATRIX_STEP: One k-group of an operation is summed and written to the tile. (R246) -/
  | matrixStep (core : Nat) (part : Nat) (err : Bool)
  /-- MATRIX_OP_COMPLETE: An operation's last tile write is performed, releasing MMA threads or retiring MLOOP. (R244) -/
  | matrixOpComplete (core : Nat) (part : Nat)
  /-- RAMPUP_DONE: The brick array's ramp-up ends and it becomes HOT. (R242) -/
  | rampupDone (core : Nat) (part : Nat)
  /-- RAMPDOWN_START: A HOT array idle 240 clk outside any MBURST window starts ramping down. (R242) -/
  | rampdownStart (core : Nat) (part : Nat)
  /-- RAMPDOWN_DONE: After 16 clk of ramp-down the array becomes COLD. (R242) -/
  | rampdownDone (core : Nat) (part : Nat)
  /-- RU_ADMIT: A home unit admits a remote-update request and checks every line of its granule. (R281) -/
  | ruAdmit (rid : Nat)
  /-- RU_COMBINE: Two pending COMBINE requests are merged by the combine program. (R263) -/
  | ruCombine (r1 : Nat) (r2 : Nat)
  /-- RU_APPLY: A home unit applies a request's micro-op program indivisibly to its granule. (R262) -/
  | ruApply (rid : Nat)
  /-- ROP_COMPLETE: An ROP completes when every lane's request is applied or logged. (R271) -/
  | ropComplete (op : Nat)
  /-- ROPR_RESULT: An ROPR's data words and status word arrive in its registers. (R270) -/
  | roprResult (rid : Nat)
  /-- RDEF_COMPLETE: RDEF completes after earlier requests to the slot drain and cached copies are invalidated. (R266) -/
  | rdefComplete (id : Nat)
  /-- REQUEST_ADMISSION: A waiting memory request is admitted once every bucket on its chain holds its tokens. (R414) -/
  | requestAdmission (id : Nat)
  /-- SLICE_REQUEST_ADMIT: An L2 slice admits or refuses a request with a wait hint. (R433) -/
  | sliceRequestAdmit (id : Nat) (hint : Nat)
  /-- REQUEST_RETRY: A refused request is sent again after its wait hint. (R433) -/
  | requestRetry (id : Nat)
  /-- MEMORY_REPLY: A reply of data, poison or trap cause arrives and frees the request permit. (R434) -/
  | memoryReply (id : Nat)
  /-- CHANNEL_ACCESS: An HBM4E channel controller performs an admitted access to an atom. (R425) -/
  | channelAccess (id : Nat) (bank : Nat) (ecc : Bool)
  /-- HROW_WINDOW_END: A 2^25-clk activation counting window ends. (R419) -/
  | hrowWindowEnd (ch : Nat)
  /-- HROW_HOLD_END: A throttled tenant's sub-queue hold period expires. (R419) -/
  | hrowHoldEnd (ch : Nat) (bank : Nat) (cx : Nat)
  /-- PATROL_READ: The channel controller patrol-reads an atom, correcting or poisoning it. (R424) -/
  | patrolRead (ch : Nat) (atom : Nat) (ecc : Bool)
  /-- CXL_TIMEOUT: A CXL.mem request unanswered for 50 µs completes with poison or is dropped. (R430) -/
  | cxlTimeout (id : Nat)
  /-- LINK_TIMEOUT: A peer request unanswered for 50 µs completes with PEER_ABSENT. (R448) -/
  | linkTimeout (id : Nat)
  /-- FLASH_ERASE_COMPLETE: An erase finishes, leaving every page ERASED and the write pointer 0. (R427) -/
  | flashEraseComplete (blk : Nat)
  /-- FENCE_COMPLETE: A parked FENCE is released once its stores are performed and loads returned. (R219) -/
  | fenceComplete (gid : Nat) (tid : Nat)
  /-- TLBINV_COMPLETE: The invalidation sequence finishes its waits and releases the issuing thread. (R366) -/
  | tlbinvComplete (gid : Nat) (tid : Nat)
  /-- WAITA_SATISFIED: A WAITA thread observes its word meeting the condition and is released as an acquire. (R221) -/
  | waitaSatisfied (gid : Nat) (tid : Nat)
  /-- WATCHDOG: A WAITA timeout expires and raises WATCHDOG precisely. (R221) -/
  | watchdog (gid : Nat) (tid : Nat)
  /-- DEBUG_HOLD_TIMEOUT: A register command held over 65,536 clk answers BUSY. (R398) -/
  | debugHoldTimeout
  /-- L1_FUSION_CHANGE: A cluster starts or stops L1 fusion and invalidates its four L1s. (R93) -/
  | l1FusionChange (clu : Nat)
  /-- FLR: A function-level reset of a VF stops its subtree without save and frees its resources. (R391) -/
  | flr (vf : Nat)
  /-- FLR_COMPLETE: The FLR completes once nothing writes for the subtree; the root creates a new VF context. (R391) -/
  | flrComplete (vf : Nat)
  /-- COLD_RESET: Cold reset verifies firmware and brings the device up in chrysalis mode. (R451) -/
  | coldReset (img : FwImage)
  /-- RECOVERY_IMAGE: The recovery mailbox accepts a new firmware image after a failed boot check. (R449) -/
  | recoveryImage (img : FwImage)
  /-- THERMAL_THROTTLE: Excess power or temperature lowers, or its end raises, the arithmetic clock by a step. (R453) -/
  | thermalThrottle (up : Bool)
  /-- THERMAL_STOP: A die above 105 °C at 0.625 GHz stops every context without save. (R453) -/
  | thermalStop
  /-- BRIDGE_FAILURE: A bridge failure that replay cannot cure stops every context without save. (R435) -/
  | bridgeFailure
  /-- LINK_UP: A device-link port carries traffic only after the peer's certificate verifies. (R446) -/
  | linkUp (port : Nat) (verified : Bool)
  /-- LINK_DOWN: A link going down completes its outstanding peer requests with PEER_ABSENT. (R448) -/
  | linkDown (port : Nat)
  /-- PEER_REQUEST: An incoming peer request is matched to an ingress entry and checked or refused. (R447) -/
  | peerRequest (port : Nat) (b : Nat) (off : Nat) (op : PeerOp) (data : List (BitVec 8))
  /-- HOST_MEMORY_ACCESS: A host read or write of device memory through the host port is served at the point of coherence. (R94) -/
  | hostMemoryAccess (b : Nat) (off : Nat) (wr : Bool) (data : DWord)
  /-- IDE_INTEGRITY_FAILURE: An integrity failure on a bound stream moves the TDI to ERROR and starts an FLR. (R443) -/
  | ideIntegrityFailure (stream : Nat)
  /-- QKICK_WRITE: A 64-bit kick appends a host-list entry to a launch queue or is dropped. (R402) -/
  | qkickWrite (page : HostAt) (q : Nat) (val : DWord)
  /-- QKICK_LOW_WRITE: A 32-bit write to the low half fills the kick latch. (R402) -/
  | qkickLowWrite (page : HostAt) (q : Nat) (val : Word)
  /-- QKICK_HIGH_WRITE: A 32-bit write to the high half kicks with the latched low half or is ignored. (R402) -/
  | qkickHighWrite (page : HostAt) (q : Nat) (val : Word)
  /-- SENTRY_WRITE: Writes the descriptor's sentry for the next supervisor start. (R404) -/
  | sentryWrite (page : HostAt) (val : DWord)
  /-- SCFG_WRITE: Writes sgw and src8 for the next supervisor start, ignoring illegal values. (R404) -/
  | scfgWrite (page : HostAt) (val : Word)
  /-- VF_ENABLE_SET: Setting VF Enable creates a level-2 context for each bound VF. (R412) -/
  | vfEnableSet
  /-- VF_ENABLE_CLEAR: Writing 0 to VF Enable starts an FLR of every enabled VF. (R393) -/
  | vfEnableClear
  /-- MSIX_UNMASK: Unmasking an MSI-X entry sends its pending message. (R439) -/
  | msixUnmask (fn : HostAt) (vec : Nat)
  /-- FROZEN_SET_WRITE: A write to a locked TDI's frozen set takes effect and moves the TDI to ERROR. (R443) -/
  | frozenSetWrite (fn : Nat) (off : Nat) (val : Word)
  /-- REGISTER_WRITE: A write to any other register acts under its access code, including W1C clears. (R10) -/
  | registerWrite (fn : HostAt) (bar : Nat) (off : Nat) (val : Word)
  /-- LOCK_INTERFACE_REQUEST: Captures the frozen set and binds the TDI to a selective IDE stream. (R443) -/
  | lockInterfaceRequest (vf : Nat) (stream : Nat) (dbg : Bool)
  /-- START_INTERFACE_REQUEST: Moves a locked TDI to RUN. (R443) -/
  | startInterfaceRequest (vf : Nat)
  /-- STOP_INTERFACE_REQUEST: Returns the TDI to CONFIG_UNLOCKED after any FLR completes. (R443) -/
  | stopInterfaceRequest (vf : Nat)
  /-- GET_DEVICE_INTERFACE_REPORT: Returns the TDI's MMIO ranges and measurement digest. (R444) -/
  | getDeviceInterfaceReport (vf : Nat)
  /-- ROOT_CTX_NEW: Management command 0x01: CTX.NEW issued as the root. (R346) -/
  | rootCtxNew (rec : List Word)
  /-- ROOT_CTX_RUN: Management command 0x02: CTX.RUN issued as the root. (R347) -/
  | rootCtxRun (child : Nat) (rec : List Word)
  /-- ROOT_CTX_STOP: Management command 0x03: CTX.STOP issued as the root. (R348) -/
  | rootCtxStop (child : Nat) (kind : Word) (deadline : Word)
  /-- ROOT_CTX_GRANT: Management command 0x04: CTX.GRANT issued as the root. (R350) -/
  | rootCtxGrant (child : Nat) (rec : List Word)
  /-- ROOT_CTX_REVOKE: Management command 0x05: CTX.REVOKE issued as the root. (R351) -/
  | rootCtxRevoke (child : Nat) (rec : List Word)
  /-- ROOT_CTX_KILL: Management command 0x06: CTX.KILL issued as the root. (R352) -/
  | rootCtxKill (child : Nat)
  /-- ROOT_CTX_STAT: Management command 0x07: CTX.STAT issued as the root. (R353) -/
  | rootCtxStat (child : Nat)
  /-- TRAPRET_COMMAND: Management command 0x08: resumes or ends for a root-bound trap record. (R356) -/
  | trapretCommand (seq : Nat) (pc : DWord) (fin : Bool)
  /-- WRITE_PTROOT: Management command 0x09: sets the root's page-table root. (R359) -/
  | writePtroot (val : DWord)
  /-- WRITE_BUFFER_ENTRY: Management command 0x0A: writes a buffer-table entry. (R368) -/
  | writeBufferEntry (idx : Nat) (rec : List Word)
  /-- WRITE_PARTITION_RECORD: Management command 0x0B: defines a hard partition. (R409) -/
  | writePartitionRecord (i : Nat) (rec : List Word)
  /-- ERASE_FLASH_BLOCKS: Management command 0x0C: starts erasing flash erase blocks. (R427) -/
  | eraseFlashBlocks (first : Nat) (count : Nat)
  /-- WRITE_HROW_CTL: Management command 0x0D: sets a channel's hot-row threshold and hold. (R419) -/
  | writeHrowCtl (ch : Nat) (val : Word)
  /-- SET_SAVE_REGION_SIZE: Management command 0x0E: sizes the save region before the first CTX.NEW. (R385) -/
  | setSaveRegionSize (bytes : Nat)
  /-- READ_ERROR_COUNTS: Management command 0x0F: returns error counts and erase counts. (R395) -/
  | readErrorCounts (sel : Nat)
  /-- PROMOTE: Management command 0x10: brings the device from chrysalis mode to full service. (R452) -/
  | promote
  /-- GET_ATTESTATION_REPORT: Management command 0x11: returns a dual-signed attestation report. (R450) -/
  | getAttestationReport
  /-- WRITE_INGRESS_ENTRY: Management command 0x12: writes a device-link ingress entry. (R447) -/
  | writeIngressEntry (rec : List Word)
  /-- ATTACH: Debug command: redirects chosen trap causes of a target to the debugger. (R397) -/
  | attach (c : DbgCmd)
  /-- DETACH: Debug command: ends ATTACH. (R397) -/
  | detach (c : DbgCmd)
  /-- HALT: Debug command: stops a group's or grid's threads at the next unit boundary. (R397) -/
  | halt (c : DbgCmd)
  /-- RESUME: Debug command: lets stopped threads run on. (R397) -/
  | resume (c : DbgCmd)
  /-- STEP: Debug command: the candidate path executes one unit and stops. (R397) -/
  | step (c : DbgCmd)
  /-- RESTART: Debug command: forces a cocoon save with the group stopped. (R397) -/
  | restart (c : DbgCmd)
  /-- RDREG: Debug command: reads a register of a stopped thread. (R398) -/
  | rdreg (c : DbgCmd)
  /-- WRREG: Debug command: writes a register of a stopped thread. (R398) -/
  | wrreg (c : DbgCmd)
  /-- RDMEM: Debug command: loads through the target's translation at .sys. (R397) -/
  | rdmem (c : DbgCmd)
  /-- WRMEM: Debug command: stores through the target's translation at .sys. (R397) -/
  | wrmem (c : DbgCmd)
  /-- EVENT: Debug command: returns the oldest posted trap record or NOEVENT. (R397) -/
  | event (c : DbgCmd)
  /-- SPDM_ATTESTATION_REQUEST: An attestation request arriving over SPDM is answered with a report carrying both an Ed25519 and an ML-DSA-65 signature. (R450) -/
  | spdmAttestationRequest
deriving DecidableEq, Repr

end Sys2Proof
end

