-- ==== Sys2Proof/Decode.lean ====
section
/-! DEFINITION. Decoding and encoding (R131 to R153, R155). `identify` finds which instruction a word
names from its major and the fields that select within the major (R155 steps 1 and 2), reading the
operand fields and ignoring the fixed ones. `decode` answers that instruction when every fixed bit is
as its encoding has it, and names every other word as illegal (R155). -/

namespace Sys2Proof

/-- Bits [hi:lo] of a word as a number. -/
def fieldNat (w : Word) (lo n : Nat) : Nat := (w.extractLsb' lo n).toNat

/-- Instructions of major 0x10, by bits [8:8]. -/
def id10 (w : Word) : Option Instr :=
  match fieldNat w 8 1 with
  | 0 => some (.shlImm ⟨w.extractLsb' 23 2, w.extractLsb' 16 7, w.extractLsb' 9 7, w.extractLsb' 0 5⟩)
  | _ => some (.shlReg ⟨w.extractLsb' 23 2, w.extractLsb' 16 7, w.extractLsb' 9 7, w.extractLsb' 7 1, w.extractLsb' 0 7⟩)

/-- Instructions of major 0x11, by bits [8:8]. -/
def id11 (w : Word) : Option Instr :=
  match fieldNat w 8 1 with
  | 0 => some (.shrImm ⟨w.extractLsb' 23 2, w.extractLsb' 16 7, w.extractLsb' 9 7, w.extractLsb' 0 5⟩)
  | _ => some (.shrReg ⟨w.extractLsb' 23 2, w.extractLsb' 16 7, w.extractLsb' 9 7, w.extractLsb' 7 1, w.extractLsb' 0 7⟩)

/-- Instructions of major 0x12, by bits [8:8]. -/
def id12 (w : Word) : Option Instr :=
  match fieldNat w 8 1 with
  | 0 => some (.sarImm ⟨w.extractLsb' 23 2, w.extractLsb' 16 7, w.extractLsb' 9 7, w.extractLsb' 0 5⟩)
  | _ => some (.sarReg ⟨w.extractLsb' 23 2, w.extractLsb' 16 7, w.extractLsb' 9 7, w.extractLsb' 7 1, w.extractLsb' 0 7⟩)

/-- Instructions of major 0x13, by bits [8:8]. -/
def id13 (w : Word) : Option Instr :=
  match fieldNat w 8 1 with
  | 0 => some (.rotlImm ⟨w.extractLsb' 23 2, w.extractLsb' 16 7, w.extractLsb' 9 7, w.extractLsb' 0 5⟩)
  | _ => some (.rotlReg ⟨w.extractLsb' 23 2, w.extractLsb' 16 7, w.extractLsb' 9 7, w.extractLsb' 7 1, w.extractLsb' 0 7⟩)

/-- Instructions of major 0x1F, by bits [22:20]. -/
def id1F (w : Word) : Option Instr :=
  match fieldNat w 20 3 with
  | 0 => some (.plop ⟨w.extractLsb' 23 2, w.extractLsb' 16 4, w.extractLsb' 12 4, w.extractLsb' 11 1, w.extractLsb' 7 4, w.extractLsb' 6 1, w.extractLsb' 4 2⟩)
  | 1 => some (.ppack ⟨w.extractLsb' 23 2, w.extractLsb' 13 7⟩)
  | 2 => some (.punpk ⟨w.extractLsb' 23 2, w.extractLsb' 13 7, w.extractLsb' 12 1⟩)
  | 3 => some (.cmov ⟨w.extractLsb' 23 2, w.extractLsb' 16 4, w.extractLsb' 15 1, w.extractLsb' 8 7, w.extractLsb' 1 7, w.extractLsb' 0 1⟩)
  | _ => none

/-- Instructions of major 0x30, by bits [8:3]. -/
def id30 (w : Word) : Option Instr :=
  match fieldNat w 3 6 with
  | 0 => some (.not ⟨w.extractLsb' 23 2, w.extractLsb' 16 7, w.extractLsb' 9 7, w.extractLsb' 2 1⟩)
  | 1 => some (.neg ⟨w.extractLsb' 23 2, w.extractLsb' 16 7, w.extractLsb' 9 7, w.extractLsb' 2 1⟩)
  | 2 => some (.iabs ⟨w.extractLsb' 23 2, w.extractLsb' 16 7, w.extractLsb' 9 7, w.extractLsb' 2 1⟩)
  | 3 => some (.popc ⟨w.extractLsb' 23 2, w.extractLsb' 16 7, w.extractLsb' 9 7, w.extractLsb' 2 1⟩)
  | 4 => some (.clz ⟨w.extractLsb' 23 2, w.extractLsb' 16 7, w.extractLsb' 9 7, w.extractLsb' 2 1⟩)
  | 5 => some (.brev ⟨w.extractLsb' 23 2, w.extractLsb' 16 7, w.extractLsb' 9 7, w.extractLsb' 2 1⟩)
  | 6 => some (.sext8 ⟨w.extractLsb' 23 2, w.extractLsb' 16 7, w.extractLsb' 9 7, w.extractLsb' 2 1⟩)
  | 7 => some (.sext16 ⟨w.extractLsb' 23 2, w.extractLsb' 16 7, w.extractLsb' 9 7, w.extractLsb' 2 1⟩)
  | 8 => some (.zext8 ⟨w.extractLsb' 23 2, w.extractLsb' 16 7, w.extractLsb' 9 7, w.extractLsb' 2 1⟩)
  | 9 => some (.zext16 ⟨w.extractLsb' 23 2, w.extractLsb' 16 7, w.extractLsb' 9 7, w.extractLsb' 2 1⟩)
  | _ => none

/-- Instructions of major 0x31, by bits [8:3]. -/
def id31 (w : Word) : Option Instr :=
  match fieldNat w 3 6 with
  | 0 => some (.fneg ⟨w.extractLsb' 23 2, w.extractLsb' 16 7, w.extractLsb' 9 7, w.extractLsb' 2 1⟩)
  | 1 => some (.fabs ⟨w.extractLsb' 23 2, w.extractLsb' 16 7, w.extractLsb' 9 7, w.extractLsb' 2 1⟩)
  | 2 => some (.frint ⟨w.extractLsb' 23 2, w.extractLsb' 16 7, w.extractLsb' 9 7, w.extractLsb' 2 1, w.extractLsb' 0 2⟩)
  | 3 => some (.fexpx ⟨w.extractLsb' 23 2, w.extractLsb' 16 7, w.extractLsb' 9 7, w.extractLsb' 2 1⟩)
  | _ => none

/-- Instructions of major 0x33, by bits [8:3]. -/
def id33 (w : Word) : Option Instr :=
  match fieldNat w 3 6 with
  | 0 => some (.rcpe ⟨w.extractLsb' 23 2, w.extractLsb' 16 7, w.extractLsb' 9 7, w.extractLsb' 2 1⟩)
  | 1 => some (.rsqe ⟨w.extractLsb' 23 2, w.extractLsb' 16 7, w.extractLsb' 9 7, w.extractLsb' 2 1⟩)
  | 2 => some (.ex2e ⟨w.extractLsb' 23 2, w.extractLsb' 16 7, w.extractLsb' 9 7, w.extractLsb' 2 1⟩)
  | 3 => some (.lg2e ⟨w.extractLsb' 23 2, w.extractLsb' 16 7, w.extractLsb' 9 7, w.extractLsb' 2 1⟩)
  | 4 => some (.sinpe ⟨w.extractLsb' 23 2, w.extractLsb' 16 7, w.extractLsb' 9 7, w.extractLsb' 2 1⟩)
  | 5 => some (.cospe ⟨w.extractLsb' 23 2, w.extractLsb' 16 7, w.extractLsb' 9 7, w.extractLsb' 2 1⟩)
  | 6 => some (.tanhe ⟨w.extractLsb' 23 2, w.extractLsb' 16 7, w.extractLsb' 9 7, w.extractLsb' 2 1⟩)
  | _ => none

/-- Instructions of major 0x34, by bits [8:3]. -/
def id34 (w : Word) : Option Instr :=
  match fieldNat w 3 6 with
  | 0 => some (.bxq ⟨w.extractLsb' 23 2, w.extractLsb' 16 7, w.extractLsb' 9 7, w.extractLsb' 2 1, w.extractLsb' 0 2⟩)
  | 1 => some (.bxd ⟨w.extractLsb' 23 2, w.extractLsb' 16 7, w.extractLsb' 9 7, w.extractLsb' 2 1, w.extractLsb' 0 2⟩)
  | _ => none

/-- Instructions of major 0x35, by bits [8:3]. -/
def id35 (w : Word) : Option Instr :=
  match fieldNat w 3 6 with
  | 0 => some (.mov ⟨w.extractLsb' 23 2, w.extractLsb' 16 7, w.extractLsb' 9 7, w.extractLsb' 2 1⟩)
  | 1 => some (.srd ⟨w.extractLsb' 23 2, w.extractLsb' 16 7, w.extractLsb' 9 6⟩)
  | 2 => some (.swr ⟨w.extractLsb' 23 2, w.extractLsb' 9 7, w.extractLsb' 2 1⟩)
  | 3 => some (.mskr ⟨w.extractLsb' 23 2, w.extractLsb' 16 7, w.extractLsb' 9 3⟩)
  | 4 => some (.mskw ⟨w.extractLsb' 23 2, w.extractLsb' 16 3, w.extractLsb' 9 7, w.extractLsb' 2 1⟩)
  | 5 => some (.mskp ⟨w.extractLsb' 23 2, w.extractLsb' 16 4, w.extractLsb' 9 3⟩)
  | 6 => some (.pmsk ⟨w.extractLsb' 23 2, w.extractLsb' 16 3, w.extractLsb' 9 4⟩)
  | _ => none

/-- Instructions of major 0x3A, by bits [8:3]. -/
def id3A (w : Word) : Option Instr :=
  match fieldNat w 3 6 with
  | 0 => some (.nop ⟨w.extractLsb' 23 2⟩)
  | 1 => some (.exit ⟨w.extractLsb' 23 2⟩)
  | 2 => some (.ret ⟨w.extractLsb' 23 2⟩)
  | 3 => some (.jidx ⟨w.extractLsb' 23 2, w.extractLsb' 9 7, w.extractLsb' 2 1⟩)
  | 4 => some (.brk ⟨w.extractLsb' 23 2⟩)
  | _ => none

/-- Instructions of major 0x3C, by bits [8:3]. -/
def id3C (w : Word) : Option Instr :=
  match fieldNat w 3 6 with
  | 0 => some (.jenr ⟨w.extractLsb' 23 2, w.extractLsb' 16 3⟩)
  | 1 => some (.jwait ⟨w.extractLsb' 23 2, w.extractLsb' 16 3⟩)
  | _ => none

/-- Instructions of major 0x4E, by bits [1:1]. -/
def id4E (w : Word) : Option Instr :=
  match fieldNat w 1 1 with
  | 0 => some (.tld ⟨w.extractLsb' 23 2, w.extractLsb' 16 7, w.extractLsb' 9 7, w.extractLsb' 2 7⟩)
  | _ => some (.tst ⟨w.extractLsb' 23 2, w.extractLsb' 16 7, w.extractLsb' 9 7, w.extractLsb' 2 7⟩)

/-- Instructions of major 0x4F, by bits [22:16]. -/
def id4F (w : Word) : Option Instr :=
  match fieldNat w 16 7 with
  | 0 => some (.prfL1 ⟨w.extractLsb' 23 2, w.extractLsb' 9 7, w.extractLsb' 2 7⟩)
  | 1 => some (.prfL2 ⟨w.extractLsb' 23 2, w.extractLsb' 9 7, w.extractLsb' 2 7⟩)
  | 2 => some (.cctlInv1 ⟨w.extractLsb' 23 2, w.extractLsb' 9 7, w.extractLsb' 2 7⟩)
  | 3 => some (.cctlInva ⟨w.extractLsb' 23 2⟩)
  | 4 => some (.cctlWb ⟨w.extractLsb' 23 2, w.extractLsb' 9 7, w.extractLsb' 2 7⟩)
  | 5 => some (.cctlWbi ⟨w.extractLsb' 23 2, w.extractLsb' 9 7, w.extractLsb' 2 7⟩)
  | _ => none

/-- Instructions of major 0x53, by bits [1:0]. -/
def id53 (w : Word) : Option Instr :=
  match fieldNat w 0 2 with
  | 0 => some (.atomAnd ⟨w.extractLsb' 23 2, w.extractLsb' 16 7, w.extractLsb' 10 6, w.extractLsb' 9 1, w.extractLsb' 2 7⟩)
  | 1 => some (.atomOr ⟨w.extractLsb' 23 2, w.extractLsb' 16 7, w.extractLsb' 10 6, w.extractLsb' 9 1, w.extractLsb' 2 7⟩)
  | 2 => some (.atomXor ⟨w.extractLsb' 23 2, w.extractLsb' 16 7, w.extractLsb' 10 6, w.extractLsb' 9 1, w.extractLsb' 2 7⟩)
  | _ => some (.atomXchg ⟨w.extractLsb' 23 2, w.extractLsb' 16 7, w.extractLsb' 10 6, w.extractLsb' 9 1, w.extractLsb' 2 7⟩)

/-- Major 0x54: x and t select ATOM.cas and STM (Table 7-20). -/
def idCas (w : Word) : Option Instr :=
  match fieldNat w 9 1, fieldNat w 0 2 with
  | 0, 0 => some (.atomCas ⟨w.extractLsb' 23 2, w.extractLsb' 16 7, w.extractLsb' 10 6, w.extractLsb' 2 7, w.extractLsb' 0 1⟩)
  | 0, 1 => some (.atomCas ⟨w.extractLsb' 23 2, w.extractLsb' 16 7, w.extractLsb' 10 6, w.extractLsb' 2 7, w.extractLsb' 0 1⟩)
  | 1, 0 => some (.stm ⟨w.extractLsb' 23 2, w.extractLsb' 21 2, w.extractLsb' 18 3, w.extractLsb' 10 6, w.extractLsb' 2 7⟩)
  | _, _ => none

/-- Instructions of major 0x55, by bits [22:19]. -/
def id55 (w : Word) : Option Instr :=
  match fieldNat w 19 4 with
  | 0 => some (.fence ⟨w.extractLsb' 23 2, w.extractLsb' 16 3, w.extractLsb' 13 3⟩)
  | 1 => some (.wait ⟨w.extractLsb' 23 2, w.extractLsb' 18 1, w.extractLsb' 16 2, w.extractLsb' 0 16⟩)
  | 2 => some (.waita ⟨w.extractLsb' 23 2, w.extractLsb' 18 1, w.extractLsb' 16 2, w.extractLsb' 10 6, w.extractLsb' 2 7⟩)
  | 3 => some (.bar ⟨w.extractLsb' 23 2, w.extractLsb' 0 4⟩)
  | 4 => some (.barPe ⟨w.extractLsb' 23 2, w.extractLsb' 0 8⟩)
  | 5 => some (.bara ⟨w.extractLsb' 23 2, w.extractLsb' 0 4⟩)
  | 6 => some (.barw ⟨w.extractLsb' 23 2, w.extractLsb' 0 4⟩)
  | 7 => some (.cbar ⟨w.extractLsb' 23 2⟩)
  | 8 => some (.rgn ⟨w.extractLsb' 23 2⟩)
  | 9 => some (.rgncnt ⟨w.extractLsb' 23 2, w.extractLsb' 9 7⟩)
  | _ => none

/-- Instructions of major 0x57, by bits [8:3]. -/
def id57 (w : Word) : Option Instr :=
  match fieldNat w 3 6 with
  | 0 => some (.voteAny ⟨w.extractLsb' 23 2, w.extractLsb' 16 4, w.extractLsb' 9 4⟩)
  | 1 => some (.voteAll ⟨w.extractLsb' 23 2, w.extractLsb' 16 4, w.extractLsb' 9 4⟩)
  | 2 => some (.voteBallot ⟨w.extractLsb' 23 2, w.extractLsb' 16 7, w.extractLsb' 9 4⟩)
  | 3 => some (.gredAdd ⟨w.extractLsb' 23 2, w.extractLsb' 16 7, w.extractLsb' 9 7, w.extractLsb' 2 1, w.extractLsb' 0 2⟩)
  | 4 => some (.gredMin ⟨w.extractLsb' 23 2, w.extractLsb' 16 7, w.extractLsb' 9 7, w.extractLsb' 2 1, w.extractLsb' 0 2⟩)
  | 5 => some (.gredMax ⟨w.extractLsb' 23 2, w.extractLsb' 16 7, w.extractLsb' 9 7, w.extractLsb' 2 1, w.extractLsb' 0 2⟩)
  | _ => none

/-- Instructions of major 0x5B, by bits [0:0]. -/
def id5B (w : Word) : Option Instr :=
  match fieldNat w 0 1 with
  | 0 => some (.btxStart ⟨w.extractLsb' 23 2, w.extractLsb' 10 6, w.extractLsb' 8 2⟩)
  | _ => some (.btxStat ⟨w.extractLsb' 23 2, w.extractLsb' 16 7, w.extractLsb' 8 2⟩)

/-- Instructions of major 0x5E, by bits [1:0]. -/
def id5E (w : Word) : Option Instr :=
  match fieldNat w 0 2 with
  | 0 => some (.amsg ⟨w.extractLsb' 23 2, w.extractLsb' 16 7, w.extractLsb' 12 4, w.extractLsb' 2 7⟩)
  | 1 => some (.amh ⟨w.extractLsb' 23 2, w.extractLsb' 16 7, w.extractLsb' 12 4, w.extractLsb' 2 7⟩)
  | _ => none

/-- Instructions of major 0x72, by bits [2:0]. -/
def id72 (w : Word) : Option Instr :=
  match fieldNat w 0 3 with
  | 0 => some (.ctxNew ⟨w.extractLsb' 23 2, w.extractLsb' 16 7, w.extractLsb' 10 6⟩)
  | 1 => some (.ctxRun ⟨w.extractLsb' 23 2, w.extractLsb' 16 7, w.extractLsb' 10 6, w.extractLsb' 3 7⟩)
  | 2 => some (.ctxStop ⟨w.extractLsb' 23 2, w.extractLsb' 16 7, w.extractLsb' 10 6, w.extractLsb' 3 7⟩)
  | 3 => some (.ctxGrant ⟨w.extractLsb' 23 2, w.extractLsb' 16 7, w.extractLsb' 10 6, w.extractLsb' 3 7⟩)
  | 4 => some (.ctxRevoke ⟨w.extractLsb' 23 2, w.extractLsb' 16 7, w.extractLsb' 10 6, w.extractLsb' 3 7⟩)
  | 5 => some (.ctxKill ⟨w.extractLsb' 23 2, w.extractLsb' 16 7, w.extractLsb' 3 7⟩)
  | 6 => some (.ctxStat ⟨w.extractLsb' 23 2, w.extractLsb' 16 7, w.extractLsb' 10 6, w.extractLsb' 3 7⟩)
  | _ => none

/-- Instructions of major 0x74, by bits [9:8]. -/
def id74 (w : Word) : Option Instr :=
  match fieldNat w 8 2 with
  | 0 => some (.tlbinvPage ⟨w.extractLsb' 23 2, w.extractLsb' 10 6⟩)
  | 1 => some (.tlbinvCtx ⟨w.extractLsb' 23 2, w.extractLsb' 10 6⟩)
  | 2 => some (.tlbinvSubtree ⟨w.extractLsb' 23 2, w.extractLsb' 10 6⟩)
  | _ => none

/-- The instruction that a word of a major names, or none where the major is unassigned (R138) or a selecting field is
reserved (R155 step 2). -/
def identifyIn (major : Nat) (w : Word) : Option Instr :=
  match major with
  | 0x00 => some (.iadd ⟨w.extractLsb' 23 2, w.extractLsb' 16 7, w.extractLsb' 9 7, w.extractLsb' 2 7, w.extractLsb' 1 1, w.extractLsb' 0 1⟩)
  | 0x01 => some (.isub ⟨w.extractLsb' 23 2, w.extractLsb' 16 7, w.extractLsb' 9 7, w.extractLsb' 2 7, w.extractLsb' 1 1, w.extractLsb' 0 1⟩)
  | 0x02 => some (.imul ⟨w.extractLsb' 23 2, w.extractLsb' 16 7, w.extractLsb' 9 7, w.extractLsb' 2 7, w.extractLsb' 1 1, w.extractLsb' 0 1⟩)
  | 0x03 => some (.imulhI32 ⟨w.extractLsb' 23 2, w.extractLsb' 16 7, w.extractLsb' 9 7, w.extractLsb' 2 7, w.extractLsb' 1 1, w.extractLsb' 0 1⟩)
  | 0x04 => some (.imulhN32 ⟨w.extractLsb' 23 2, w.extractLsb' 16 7, w.extractLsb' 9 7, w.extractLsb' 2 7, w.extractLsb' 1 1, w.extractLsb' 0 1⟩)
  | 0x05 => some (.imad ⟨w.extractLsb' 23 2, w.extractLsb' 16 7, w.extractLsb' 9 7, w.extractLsb' 2 7, w.extractLsb' 1 1, w.extractLsb' 0 1⟩)
  | 0x06 => some (.iminImaxI32 ⟨w.extractLsb' 23 2, w.extractLsb' 16 7, w.extractLsb' 9 7, w.extractLsb' 2 7, w.extractLsb' 1 1, w.extractLsb' 0 1⟩)
  | 0x07 => some (.iminImaxN32 ⟨w.extractLsb' 23 2, w.extractLsb' 16 7, w.extractLsb' 9 7, w.extractLsb' 2 7, w.extractLsb' 1 1, w.extractLsb' 0 1⟩)
  | 0x08 => some (.and ⟨w.extractLsb' 23 2, w.extractLsb' 16 7, w.extractLsb' 9 7, w.extractLsb' 2 7, w.extractLsb' 1 1, w.extractLsb' 0 1⟩)
  | 0x09 => some (.or ⟨w.extractLsb' 23 2, w.extractLsb' 16 7, w.extractLsb' 9 7, w.extractLsb' 2 7, w.extractLsb' 1 1, w.extractLsb' 0 1⟩)
  | 0x0A => some (.xor ⟨w.extractLsb' 23 2, w.extractLsb' 16 7, w.extractLsb' 9 7, w.extractLsb' 2 7, w.extractLsb' 1 1, w.extractLsb' 0 1⟩)
  | 0x0B => some (.andn ⟨w.extractLsb' 23 2, w.extractLsb' 16 7, w.extractLsb' 9 7, w.extractLsb' 2 7, w.extractLsb' 1 1, w.extractLsb' 0 1⟩)
  | 0x0C => some (.iadd64 ⟨w.extractLsb' 23 2, w.extractLsb' 16 7, w.extractLsb' 9 7, w.extractLsb' 2 7, w.extractLsb' 1 1, w.extractLsb' 0 1⟩)
  | 0x0D => some (.isub64 ⟨w.extractLsb' 23 2, w.extractLsb' 16 7, w.extractLsb' 9 7, w.extractLsb' 2 7, w.extractLsb' 1 1, w.extractLsb' 0 1⟩)
  | 0x0E => some (.bfx ⟨w.extractLsb' 23 2, w.extractLsb' 16 7, w.extractLsb' 9 7, w.extractLsb' 2 7, w.extractLsb' 1 1, w.extractLsb' 0 1⟩)
  | 0x0F => some (.bfi ⟨w.extractLsb' 23 2, w.extractLsb' 16 7, w.extractLsb' 9 7, w.extractLsb' 2 7, w.extractLsb' 1 1, w.extractLsb' 0 1⟩)
  | 0x10 => id10 w
  | 0x11 => id11 w
  | 0x12 => id12 w
  | 0x13 => id13 w
  | 0x14 => some (.iaddImm ⟨w.extractLsb' 23 2, w.extractLsb' 16 7, w.extractLsb' 9 7, w.extractLsb' 0 9⟩)
  | 0x15 => some (.andImm ⟨w.extractLsb' 23 2, w.extractLsb' 16 7, w.extractLsb' 9 7, w.extractLsb' 0 9⟩)
  | 0x16 => some (.orImm ⟨w.extractLsb' 23 2, w.extractLsb' 16 7, w.extractLsb' 9 7, w.extractLsb' 0 9⟩)
  | 0x17 => some (.xorImm ⟨w.extractLsb' 23 2, w.extractLsb' 16 7, w.extractLsb' 9 7, w.extractLsb' 0 9⟩)
  | 0x18 => some (.movi ⟨w.extractLsb' 23 2, w.extractLsb' 16 7, w.extractLsb' 0 16⟩)
  | 0x19 => some (.movhi ⟨w.extractLsb' 23 2, w.extractLsb' 16 7, w.extractLsb' 0 16⟩)
  | 0x1A => some (.lea ⟨w.extractLsb' 23 2, w.extractLsb' 16 7, w.extractLsb' 0 16⟩)
  | 0x1C => some (.isetpI32 ⟨w.extractLsb' 23 2, w.extractLsb' 19 4, w.extractLsb' 16 3, w.extractLsb' 9 7, w.extractLsb' 2 7, w.extractLsb' 1 1, w.extractLsb' 0 1⟩)
  | 0x1D => some (.isetpN32 ⟨w.extractLsb' 23 2, w.extractLsb' 19 4, w.extractLsb' 16 3, w.extractLsb' 9 7, w.extractLsb' 2 7, w.extractLsb' 1 1, w.extractLsb' 0 1⟩)
  | 0x1E => some (.fsetp ⟨w.extractLsb' 23 2, w.extractLsb' 19 4, w.extractLsb' 16 3, w.extractLsb' 9 7, w.extractLsb' 2 7, w.extractLsb' 1 1, w.extractLsb' 0 1⟩)
  | 0x1F => id1F w
  | 0x20 => some (.fadd ⟨w.extractLsb' 23 2, w.extractLsb' 16 7, w.extractLsb' 9 7, w.extractLsb' 2 7, w.extractLsb' 1 1, w.extractLsb' 0 1⟩)
  | 0x21 => some (.fsub ⟨w.extractLsb' 23 2, w.extractLsb' 16 7, w.extractLsb' 9 7, w.extractLsb' 2 7, w.extractLsb' 1 1, w.extractLsb' 0 1⟩)
  | 0x22 => some (.fmul ⟨w.extractLsb' 23 2, w.extractLsb' 16 7, w.extractLsb' 9 7, w.extractLsb' 2 7, w.extractLsb' 1 1, w.extractLsb' 0 1⟩)
  | 0x23 => some (.ffma ⟨w.extractLsb' 23 2, w.extractLsb' 16 7, w.extractLsb' 9 7, w.extractLsb' 2 7, w.extractLsb' 1 1, w.extractLsb' 0 1⟩)
  | 0x24 => some (.ffms ⟨w.extractLsb' 23 2, w.extractLsb' 16 7, w.extractLsb' 9 7, w.extractLsb' 2 7, w.extractLsb' 1 1, w.extractLsb' 0 1⟩)
  | 0x25 => some (.fnfma ⟨w.extractLsb' 23 2, w.extractLsb' 16 7, w.extractLsb' 9 7, w.extractLsb' 2 7, w.extractLsb' 1 1, w.extractLsb' 0 1⟩)
  | 0x26 => some (.fminFmax ⟨w.extractLsb' 23 2, w.extractLsb' 16 7, w.extractLsb' 9 7, w.extractLsb' 2 7, w.extractLsb' 1 1, w.extractLsb' 0 1⟩)
  | 0x27 => some (.fscb ⟨w.extractLsb' 23 2, w.extractLsb' 16 7, w.extractLsb' 9 7, w.extractLsb' 2 7, w.extractLsb' 1 1, w.extractLsb' 0 1⟩)
  | 0x28 => some (.hadd2Bf16 ⟨w.extractLsb' 23 2, w.extractLsb' 16 7, w.extractLsb' 9 7, w.extractLsb' 2 7, w.extractLsb' 1 1, w.extractLsb' 0 1⟩)
  | 0x29 => some (.hadd2F16 ⟨w.extractLsb' 23 2, w.extractLsb' 16 7, w.extractLsb' 9 7, w.extractLsb' 2 7, w.extractLsb' 1 1, w.extractLsb' 0 1⟩)
  | 0x2A => some (.hmul2Bf16 ⟨w.extractLsb' 23 2, w.extractLsb' 16 7, w.extractLsb' 9 7, w.extractLsb' 2 7, w.extractLsb' 1 1, w.extractLsb' 0 1⟩)
  | 0x2B => some (.hmul2F16 ⟨w.extractLsb' 23 2, w.extractLsb' 16 7, w.extractLsb' 9 7, w.extractLsb' 2 7, w.extractLsb' 1 1, w.extractLsb' 0 1⟩)
  | 0x2C => some (.hfma2Bf16 ⟨w.extractLsb' 23 2, w.extractLsb' 16 7, w.extractLsb' 9 7, w.extractLsb' 2 7, w.extractLsb' 1 1, w.extractLsb' 0 1⟩)
  | 0x2D => some (.hfma2F16 ⟨w.extractLsb' 23 2, w.extractLsb' 16 7, w.extractLsb' 9 7, w.extractLsb' 2 7, w.extractLsb' 1 1, w.extractLsb' 0 1⟩)
  | 0x2E => some (.hmin2Hmax2Bf16 ⟨w.extractLsb' 23 2, w.extractLsb' 16 7, w.extractLsb' 9 7, w.extractLsb' 2 7, w.extractLsb' 1 1, w.extractLsb' 0 1⟩)
  | 0x2F => some (.hmin2Hmax2F16 ⟨w.extractLsb' 23 2, w.extractLsb' 16 7, w.extractLsb' 9 7, w.extractLsb' 2 7, w.extractLsb' 1 1, w.extractLsb' 0 1⟩)
  | 0x30 => id30 w
  | 0x31 => id31 w
  | 0x32 => some (.cvt ⟨w.extractLsb' 23 2, w.extractLsb' 16 7, w.extractLsb' 9 7, w.extractLsb' 6 3, w.extractLsb' 3 3, w.extractLsb' 2 1, w.extractLsb' 0 2⟩)
  | 0x33 => id33 w
  | 0x34 => id34 w
  | 0x35 => id35 w
  | 0x38 => some (.br ⟨w.extractLsb' 23 2, w.extractLsb' 19 4, w.extractLsb' 18 1, w.extractLsb' 0 18⟩)
  | 0x39 => some (.call ⟨w.extractLsb' 23 2, w.extractLsb' 19 4, w.extractLsb' 18 1, w.extractLsb' 0 18⟩)
  | 0x3A => id3A w
  | 0x3B => some (.trap ⟨w.extractLsb' 23 2, w.extractLsb' 0 16⟩)
  | 0x3C => id3C w
  | 0x40 => some (.ldB ⟨w.extractLsb' 23 2, w.extractLsb' 16 7, w.extractLsb' 9 7, w.extractLsb' 2 7, w.extractLsb' 0 2⟩)
  | 0x41 => some (.ldH ⟨w.extractLsb' 23 2, w.extractLsb' 16 7, w.extractLsb' 9 7, w.extractLsb' 2 7, w.extractLsb' 0 2⟩)
  | 0x42 => some (.ldW ⟨w.extractLsb' 23 2, w.extractLsb' 16 7, w.extractLsb' 9 7, w.extractLsb' 2 7, w.extractLsb' 0 2⟩)
  | 0x43 => some (.ldD ⟨w.extractLsb' 23 2, w.extractLsb' 16 7, w.extractLsb' 9 7, w.extractLsb' 2 7, w.extractLsb' 0 2⟩)
  | 0x44 => some (.ldQ ⟨w.extractLsb' 23 2, w.extractLsb' 16 7, w.extractLsb' 9 7, w.extractLsb' 2 7, w.extractLsb' 0 2⟩)
  | 0x45 => some (.stB ⟨w.extractLsb' 23 2, w.extractLsb' 16 7, w.extractLsb' 9 7, w.extractLsb' 2 7, w.extractLsb' 0 2⟩)
  | 0x46 => some (.stH ⟨w.extractLsb' 23 2, w.extractLsb' 16 7, w.extractLsb' 9 7, w.extractLsb' 2 7, w.extractLsb' 0 2⟩)
  | 0x47 => some (.stW ⟨w.extractLsb' 23 2, w.extractLsb' 16 7, w.extractLsb' 9 7, w.extractLsb' 2 7, w.extractLsb' 0 2⟩)
  | 0x48 => some (.stD ⟨w.extractLsb' 23 2, w.extractLsb' 16 7, w.extractLsb' 9 7, w.extractLsb' 2 7, w.extractLsb' 0 2⟩)
  | 0x49 => some (.stQ ⟨w.extractLsb' 23 2, w.extractLsb' 16 7, w.extractLsb' 9 7, w.extractLsb' 2 7, w.extractLsb' 0 2⟩)
  | 0x4A => some (.lds ⟨w.extractLsb' 23 2, w.extractLsb' 16 7, w.extractLsb' 9 7, w.extractLsb' 6 3, w.extractLsb' 0 6⟩)
  | 0x4B => some (.sts ⟨w.extractLsb' 23 2, w.extractLsb' 16 7, w.extractLsb' 9 7, w.extractLsb' 6 3, w.extractLsb' 0 6⟩)
  | 0x4C => some (.ldp ⟨w.extractLsb' 23 2, w.extractLsb' 16 7, w.extractLsb' 9 7, w.extractLsb' 6 3, w.extractLsb' 4 2, w.extractLsb' 0 4⟩)
  | 0x4D => some (.stp ⟨w.extractLsb' 23 2, w.extractLsb' 16 7, w.extractLsb' 9 7, w.extractLsb' 6 3, w.extractLsb' 4 2, w.extractLsb' 0 4⟩)
  | 0x4E => id4E w
  | 0x4F => id4F w
  | 0x50 => if fieldNat w 9 1 = 0 then some (.atomAdd ⟨w.extractLsb' 23 2, w.extractLsb' 16 7, w.extractLsb' 10 6, w.extractLsb' 2 7, w.extractLsb' 0 2⟩) else none
  | 0x51 => if fieldNat w 9 1 = 0 then some (.atomMin ⟨w.extractLsb' 23 2, w.extractLsb' 16 7, w.extractLsb' 10 6, w.extractLsb' 2 7, w.extractLsb' 0 2⟩) else none
  | 0x52 => if fieldNat w 9 1 = 0 then some (.atomMax ⟨w.extractLsb' 23 2, w.extractLsb' 16 7, w.extractLsb' 10 6, w.extractLsb' 2 7, w.extractLsb' 0 2⟩) else none
  | 0x53 => id53 w
  | 0x54 => idCas w
  | 0x55 => id55 w
  | 0x56 => some (.shfl ⟨w.extractLsb' 23 2, w.extractLsb' 16 7, w.extractLsb' 9 7, w.extractLsb' 2 7, w.extractLsb' 0 2⟩)
  | 0x57 => id57 w
  | 0x58 => some (.rdef ⟨w.extractLsb' 23 2, w.extractLsb' 16 7, w.extractLsb' 10 6, w.extractLsb' 5 5⟩)
  | 0x59 => some (.rop ⟨w.extractLsb' 23 2, w.extractLsb' 18 5, w.extractLsb' 11 7, w.extractLsb' 5 6⟩)
  | 0x5A => some (.ropr ⟨w.extractLsb' 23 2, w.extractLsb' 18 5, w.extractLsb' 11 7, w.extractLsb' 5 6⟩)
  | 0x5B => id5B w
  | 0x5C => some (.tcopy ⟨w.extractLsb' 23 2, w.extractLsb' 16 7, w.extractLsb' 8 2⟩)
  | 0x5D => some (.amtest ⟨w.extractLsb' 23 2, w.extractLsb' 19 4, w.extractLsb' 10 6, w.extractLsb' 2 7⟩)
  | 0x5E => id5E w
  | 0x5F => some (.launch ⟨w.extractLsb' 23 2, w.extractLsb' 16 7, w.extractLsb' 10 6, w.extractLsb' 4 6⟩)
  | 0x60 => some (.mma ⟨w.extractLsb' 23 2, w.extractLsb' 16 7, w.extractLsb' 10 6, w.extractLsb' 5 5, w.extractLsb' 2 3, w.extractLsb' 1 1, w.extractLsb' 0 1⟩)
  | 0x61 => some (.mloop ⟨w.extractLsb' 23 2, w.extractLsb' 16 7, w.extractLsb' 10 6, w.extractLsb' 5 5, w.extractLsb' 2 3, w.extractLsb' 1 1, w.extractLsb' 0 1⟩)
  | 0x62 => some (.mstr ⟨w.extractLsb' 23 2, w.extractLsb' 16 7, w.extractLsb' 0 1⟩)
  | 0x63 => some (.aclr ⟨w.extractLsb' 23 2, w.extractLsb' 10 6, w.extractLsb' 8 2⟩)
  | 0x64 => some (.aread ⟨w.extractLsb' 23 2, w.extractLsb' 16 7, w.extractLsb' 10 6, w.extractLsb' 4 6, w.extractLsb' 2 2⟩)
  | 0x65 => some (.awrite ⟨w.extractLsb' 23 2, w.extractLsb' 16 7, w.extractLsb' 10 6, w.extractLsb' 4 6, w.extractLsb' 2 2⟩)
  | 0x66 => some (.ast ⟨w.extractLsb' 23 2, w.extractLsb' 16 7, w.extractLsb' 10 6, w.extractLsb' 7 3⟩)
  | 0x67 => some (.ald ⟨w.extractLsb' 23 2, w.extractLsb' 16 7, w.extractLsb' 10 6, w.extractLsb' 7 3⟩)
  | 0x68 => some (.mburst ⟨w.extractLsb' 23 2, w.extractLsb' 0 16⟩)
  | 0x70 => some (.csrr ⟨w.extractLsb' 23 2, w.extractLsb' 16 7, w.extractLsb' 4 12⟩)
  | 0x71 => some (.csrw ⟨w.extractLsb' 23 2, w.extractLsb' 16 7, w.extractLsb' 4 12⟩)
  | 0x72 => id72 w
  | 0x73 => some (.trapret ⟨w.extractLsb' 23 2⟩)
  | 0x74 => id74 w
  | 0x75 => some (.frmstat ⟨w.extractLsb' 23 2, w.extractLsb' 16 7, w.extractLsb' 10 6⟩)
  | 0x78 => some (.guard ⟨w.extractLsb' 19 4, w.extractLsb' 18 1, w.extractLsb' 15 3⟩)
  | 0x79 => some (.block ⟨w.extractLsb' 19 4, w.extractLsb' 16 3, w.extractLsb' 15 1⟩)
  | 0x7A => some (.mod ⟨w.extractLsb' 20 3, w.extractLsb' 19 1, w.extractLsb' 17 2, w.extractLsb' 16 1, w.extractLsb' 14 2, w.extractLsb' 13 1, w.extractLsb' 10 3, w.extractLsb' 7 3⟩)
  | 0x7B => some (.mxsc ⟨w.extractLsb' 16 7, w.extractLsb' 14 2⟩)
  | 0x7C => some (.imm ⟨w.extractLsb' 25 2, w.extractLsb' 0 23⟩)
  | 0x7D => some (.imm ⟨w.extractLsb' 25 2, w.extractLsb' 0 23⟩)
  | 0x7E => some (.imm ⟨w.extractLsb' 25 2, w.extractLsb' 0 23⟩)
  | 0x7F => some (.imm ⟨w.extractLsb' 25 2, w.extractLsb' 0 23⟩)
  | _ => none

/-- The instruction a word names: its major is in bits [31:25]. -/
def identify (w : Word) : Option Instr := identifyIn (fieldNat w 25 7) w

/-- The word of an instruction, from the encoding tables of the spec; the events have no encoding
and answer the unassigned word 0x6C000000 or, for an illegal word, that word. -/
def encode (i : Instr) : Word :=
  match i with
  | .iadd o => 0x0#7 ++ o.rc ++ o.d ++ o.a ++ o.b ++ o.la ++ o.lb
  | .isub o => 0x1#7 ++ o.rc ++ o.d ++ o.a ++ o.b ++ o.la ++ o.lb
  | .imul o => 0x2#7 ++ o.rc ++ o.d ++ o.a ++ o.b ++ o.la ++ o.lb
  | .imulhI32 o => 0x3#7 ++ o.rc ++ o.d ++ o.a ++ o.b ++ o.la ++ o.lb
  | .imulhN32 o => 0x4#7 ++ o.rc ++ o.d ++ o.a ++ o.b ++ o.la ++ o.lb
  | .imad o => 0x5#7 ++ o.rc ++ o.d ++ o.a ++ o.b ++ o.la ++ o.lb
  | .iminImaxI32 o => 0x6#7 ++ o.rc ++ o.d ++ o.a ++ o.b ++ o.la ++ o.lb
  | .iminImaxN32 o => 0x7#7 ++ o.rc ++ o.d ++ o.a ++ o.b ++ o.la ++ o.lb
  | .and o => 0x8#7 ++ o.rc ++ o.d ++ o.a ++ o.b ++ o.la ++ o.lb
  | .or o => 0x9#7 ++ o.rc ++ o.d ++ o.a ++ o.b ++ o.la ++ o.lb
  | .xor o => 0xA#7 ++ o.rc ++ o.d ++ o.a ++ o.b ++ o.la ++ o.lb
  | .andn o => 0xB#7 ++ o.rc ++ o.d ++ o.a ++ o.b ++ o.la ++ o.lb
  | .iadd64 o => 0xC#7 ++ o.rc ++ o.d ++ o.a ++ o.b ++ o.la ++ o.lb
  | .isub64 o => 0xD#7 ++ o.rc ++ o.d ++ o.a ++ o.b ++ o.la ++ o.lb
  | .bfx o => 0xE#7 ++ o.rc ++ o.d ++ o.a ++ o.b ++ o.la ++ o.lb
  | .bfi o => 0xF#7 ++ o.rc ++ o.d ++ o.a ++ o.b ++ o.la ++ o.lb
  | .shlImm o => 0x10#7 ++ o.rc ++ o.d ++ o.a ++ 0x0#4 ++ o.k
  | .shlReg o => 0x10#7 ++ o.rc ++ o.d ++ o.a ++ 0x1#1 ++ o.lk ++ o.k
  | .shrImm o => 0x11#7 ++ o.rc ++ o.d ++ o.a ++ 0x0#4 ++ o.k
  | .shrReg o => 0x11#7 ++ o.rc ++ o.d ++ o.a ++ 0x1#1 ++ o.lk ++ o.k
  | .sarImm o => 0x12#7 ++ o.rc ++ o.d ++ o.a ++ 0x0#4 ++ o.k
  | .sarReg o => 0x12#7 ++ o.rc ++ o.d ++ o.a ++ 0x1#1 ++ o.lk ++ o.k
  | .rotlImm o => 0x13#7 ++ o.rc ++ o.d ++ o.a ++ 0x0#4 ++ o.k
  | .rotlReg o => 0x13#7 ++ o.rc ++ o.d ++ o.a ++ 0x1#1 ++ o.lk ++ o.k
  | .iaddImm o => 0x14#7 ++ o.rc ++ o.d ++ o.a ++ o.imm
  | .andImm o => 0x15#7 ++ o.rc ++ o.d ++ o.a ++ o.imm
  | .orImm o => 0x16#7 ++ o.rc ++ o.d ++ o.a ++ o.imm
  | .xorImm o => 0x17#7 ++ o.rc ++ o.d ++ o.a ++ o.imm
  | .movi o => 0x18#7 ++ o.rc ++ o.d ++ o.imm
  | .movhi o => 0x19#7 ++ o.rc ++ o.d ++ o.imm
  | .lea o => 0x1A#7 ++ o.rc ++ o.d ++ o.imm
  | .isetpI32 o => 0x1C#7 ++ o.rc ++ o.pd ++ o.cond ++ o.a ++ o.b ++ o.la ++ o.lb
  | .isetpN32 o => 0x1D#7 ++ o.rc ++ o.pd ++ o.cond ++ o.a ++ o.b ++ o.la ++ o.lb
  | .fsetp o => 0x1E#7 ++ o.rc ++ o.pd ++ o.cond ++ o.a ++ o.b ++ o.la ++ o.lb
  | .plop o => 0x1F#7 ++ o.rc ++ 0x0#3 ++ o.pd ++ o.pa ++ o.na ++ o.pb ++ o.nb ++ o.op ++ 0x0#4
  | .ppack o => 0x1F#7 ++ o.rc ++ 0x1#3 ++ o.d ++ 0x0#13
  | .punpk o => 0x1F#7 ++ o.rc ++ 0x2#3 ++ o.a ++ o.la ++ 0x0#12
  | .cmov o => 0x1F#7 ++ o.rc ++ 0x3#3 ++ o.p ++ o.neg ++ o.d ++ o.a ++ o.la
  | .fadd o => 0x20#7 ++ o.rc ++ o.d ++ o.a ++ o.b ++ o.la ++ o.lb
  | .fsub o => 0x21#7 ++ o.rc ++ o.d ++ o.a ++ o.b ++ o.la ++ o.lb
  | .fmul o => 0x22#7 ++ o.rc ++ o.d ++ o.a ++ o.b ++ o.la ++ o.lb
  | .ffma o => 0x23#7 ++ o.rc ++ o.d ++ o.a ++ o.b ++ o.la ++ o.lb
  | .ffms o => 0x24#7 ++ o.rc ++ o.d ++ o.a ++ o.b ++ o.la ++ o.lb
  | .fnfma o => 0x25#7 ++ o.rc ++ o.d ++ o.a ++ o.b ++ o.la ++ o.lb
  | .fminFmax o => 0x26#7 ++ o.rc ++ o.d ++ o.a ++ o.b ++ o.la ++ o.lb
  | .fscb o => 0x27#7 ++ o.rc ++ o.d ++ o.a ++ o.b ++ o.la ++ o.lb
  | .hadd2Bf16 o => 0x28#7 ++ o.rc ++ o.d ++ o.a ++ o.b ++ o.la ++ o.lb
  | .hadd2F16 o => 0x29#7 ++ o.rc ++ o.d ++ o.a ++ o.b ++ o.la ++ o.lb
  | .hmul2Bf16 o => 0x2A#7 ++ o.rc ++ o.d ++ o.a ++ o.b ++ o.la ++ o.lb
  | .hmul2F16 o => 0x2B#7 ++ o.rc ++ o.d ++ o.a ++ o.b ++ o.la ++ o.lb
  | .hfma2Bf16 o => 0x2C#7 ++ o.rc ++ o.d ++ o.a ++ o.b ++ o.la ++ o.lb
  | .hfma2F16 o => 0x2D#7 ++ o.rc ++ o.d ++ o.a ++ o.b ++ o.la ++ o.lb
  | .hmin2Hmax2Bf16 o => 0x2E#7 ++ o.rc ++ o.d ++ o.a ++ o.b ++ o.la ++ o.lb
  | .hmin2Hmax2F16 o => 0x2F#7 ++ o.rc ++ o.d ++ o.a ++ o.b ++ o.la ++ o.lb
  | .not o => 0x30#7 ++ o.rc ++ o.d ++ o.a ++ 0x0#6 ++ o.la ++ 0x0#2
  | .neg o => 0x30#7 ++ o.rc ++ o.d ++ o.a ++ 0x1#6 ++ o.la ++ 0x0#2
  | .iabs o => 0x30#7 ++ o.rc ++ o.d ++ o.a ++ 0x2#6 ++ o.la ++ 0x0#2
  | .popc o => 0x30#7 ++ o.rc ++ o.d ++ o.a ++ 0x3#6 ++ o.la ++ 0x0#2
  | .clz o => 0x30#7 ++ o.rc ++ o.d ++ o.a ++ 0x4#6 ++ o.la ++ 0x0#2
  | .brev o => 0x30#7 ++ o.rc ++ o.d ++ o.a ++ 0x5#6 ++ o.la ++ 0x0#2
  | .sext8 o => 0x30#7 ++ o.rc ++ o.d ++ o.a ++ 0x6#6 ++ o.la ++ 0x0#2
  | .sext16 o => 0x30#7 ++ o.rc ++ o.d ++ o.a ++ 0x7#6 ++ o.la ++ 0x0#2
  | .zext8 o => 0x30#7 ++ o.rc ++ o.d ++ o.a ++ 0x8#6 ++ o.la ++ 0x0#2
  | .zext16 o => 0x30#7 ++ o.rc ++ o.d ++ o.a ++ 0x9#6 ++ o.la ++ 0x0#2
  | .fneg o => 0x31#7 ++ o.rc ++ o.d ++ o.a ++ 0x0#6 ++ o.la ++ 0x0#2
  | .fabs o => 0x31#7 ++ o.rc ++ o.d ++ o.a ++ 0x1#6 ++ o.la ++ 0x0#2
  | .frint o => 0x31#7 ++ o.rc ++ o.d ++ o.a ++ 0x2#6 ++ o.la ++ o.sub
  | .fexpx o => 0x31#7 ++ o.rc ++ o.d ++ o.a ++ 0x3#6 ++ o.la ++ 0x0#2
  | .cvt o => 0x32#7 ++ o.rc ++ o.d ++ o.a ++ o.src ++ o.dst ++ o.la ++ o.form
  | .rcpe o => 0x33#7 ++ o.rc ++ o.d ++ o.a ++ 0x0#6 ++ o.la ++ 0x0#2
  | .rsqe o => 0x33#7 ++ o.rc ++ o.d ++ o.a ++ 0x1#6 ++ o.la ++ 0x0#2
  | .ex2e o => 0x33#7 ++ o.rc ++ o.d ++ o.a ++ 0x2#6 ++ o.la ++ 0x0#2
  | .lg2e o => 0x33#7 ++ o.rc ++ o.d ++ o.a ++ 0x3#6 ++ o.la ++ 0x0#2
  | .sinpe o => 0x33#7 ++ o.rc ++ o.d ++ o.a ++ 0x4#6 ++ o.la ++ 0x0#2
  | .cospe o => 0x33#7 ++ o.rc ++ o.d ++ o.a ++ 0x5#6 ++ o.la ++ 0x0#2
  | .tanhe o => 0x33#7 ++ o.rc ++ o.d ++ o.a ++ 0x6#6 ++ o.la ++ 0x0#2
  | .bxq o => 0x34#7 ++ o.rc ++ o.d ++ o.a ++ 0x0#6 ++ o.la ++ o.sub
  | .bxd o => 0x34#7 ++ o.rc ++ o.d ++ o.a ++ 0x1#6 ++ o.la ++ o.sub
  | .mov o => 0x35#7 ++ o.rc ++ o.d ++ o.a ++ 0x0#6 ++ o.la ++ 0x0#2
  | .srd o => 0x35#7 ++ o.rc ++ o.d ++ 0x0#1 ++ o.n ++ 0x8#9
  | .swr o => 0x35#7 ++ o.rc ++ 0xC#7 ++ o.a ++ 0x2#6 ++ o.la ++ 0x0#2
  | .mskr o => 0x35#7 ++ o.rc ++ o.d ++ 0x0#4 ++ o.k ++ 0x18#9
  | .mskw o => 0x35#7 ++ o.rc ++ 0x0#4 ++ o.k ++ o.a ++ 0x4#6 ++ o.la ++ 0x0#2
  | .mskp o => 0x35#7 ++ o.rc ++ 0x0#3 ++ o.pd ++ 0x0#4 ++ o.k ++ 0x28#9
  | .pmsk o => 0x35#7 ++ o.rc ++ 0x0#4 ++ o.k ++ 0x0#3 ++ o.pa ++ 0x30#9
  | .br o => 0x38#7 ++ o.rc ++ o.p ++ o.neg ++ o.off
  | .call o => 0x39#7 ++ o.rc ++ o.p ++ o.neg ++ o.off
  | .nop o => 0x3A#7 ++ o.rc ++ 0x0#23
  | .exit o => 0x3A#7 ++ o.rc ++ 0x8#23
  | .ret o => 0x3A#7 ++ o.rc ++ 0x10#23
  | .jidx o => 0x3A#7 ++ o.rc ++ 0x0#7 ++ o.a ++ 0x3#6 ++ o.la ++ 0x0#2
  | .brk o => 0x3A#7 ++ o.rc ++ 0x20#23
  | .trap o => 0x3B#7 ++ o.rc ++ 0x0#7 ++ o.imm
  | .jenr o => 0x3C#7 ++ o.rc ++ 0x0#4 ++ o.k ++ 0x0#16
  | .jwait o => 0x3C#7 ++ o.rc ++ 0x0#4 ++ o.k ++ 0x8#16
  | .ldB o => 0x40#7 ++ o.rc ++ o.t ++ o.b ++ o.off ++ o.cp
  | .ldH o => 0x41#7 ++ o.rc ++ o.t ++ o.b ++ o.off ++ o.cp
  | .ldW o => 0x42#7 ++ o.rc ++ o.t ++ o.b ++ o.off ++ o.cp
  | .ldD o => 0x43#7 ++ o.rc ++ o.t ++ o.b ++ o.off ++ o.cp
  | .ldQ o => 0x44#7 ++ o.rc ++ o.t ++ o.b ++ o.off ++ o.cp
  | .stB o => 0x45#7 ++ o.rc ++ o.t ++ o.b ++ o.off ++ o.cp
  | .stH o => 0x46#7 ++ o.rc ++ o.t ++ o.b ++ o.off ++ o.cp
  | .stW o => 0x47#7 ++ o.rc ++ o.t ++ o.b ++ o.off ++ o.cp
  | .stD o => 0x48#7 ++ o.rc ++ o.t ++ o.b ++ o.off ++ o.cp
  | .stQ o => 0x49#7 ++ o.rc ++ o.t ++ o.b ++ o.off ++ o.cp
  | .lds o => 0x4A#7 ++ o.rc ++ o.t ++ o.o ++ o.w ++ o.off
  | .sts o => 0x4B#7 ++ o.rc ++ o.t ++ o.o ++ o.w ++ o.off
  | .ldp o => 0x4C#7 ++ o.rc ++ o.t ++ o.o ++ o.w ++ o.rank ++ o.off
  | .stp o => 0x4D#7 ++ o.rc ++ o.t ++ o.o ++ o.w ++ o.rank ++ o.off
  | .tld o => 0x4E#7 ++ o.rc ++ o.t ++ o.c ++ o.s ++ 0x0#2
  | .tst o => 0x4E#7 ++ o.rc ++ o.t ++ o.c ++ o.s ++ 0x2#2
  | .prfL1 o => 0x4F#7 ++ o.rc ++ 0x0#7 ++ o.b ++ o.off ++ 0x0#2
  | .prfL2 o => 0x4F#7 ++ o.rc ++ 0x1#7 ++ o.b ++ o.off ++ 0x0#2
  | .cctlInv1 o => 0x4F#7 ++ o.rc ++ 0x2#7 ++ o.b ++ o.off ++ 0x0#2
  | .cctlInva o => 0x4F#7 ++ o.rc ++ 0x30000#23
  | .cctlWb o => 0x4F#7 ++ o.rc ++ 0x4#7 ++ o.b ++ o.off ++ 0x0#2
  | .cctlWbi o => 0x4F#7 ++ o.rc ++ 0x5#7 ++ o.b ++ o.off ++ 0x0#2
  | .atomAdd o => 0x50#7 ++ o.rc ++ o.d ++ o.ap ++ 0x0#1 ++ o.b ++ o.t
  | .atomMin o => 0x51#7 ++ o.rc ++ o.d ++ o.ap ++ 0x0#1 ++ o.b ++ o.t
  | .atomMax o => 0x52#7 ++ o.rc ++ o.d ++ o.ap ++ 0x0#1 ++ o.b ++ o.t
  | .atomAnd o => 0x53#7 ++ o.rc ++ o.d ++ o.ap ++ o.x ++ o.b ++ 0x0#2
  | .atomOr o => 0x53#7 ++ o.rc ++ o.d ++ o.ap ++ o.x ++ o.b ++ 0x1#2
  | .atomXor o => 0x53#7 ++ o.rc ++ o.d ++ o.ap ++ o.x ++ o.b ++ 0x2#2
  | .atomXchg o => 0x53#7 ++ o.rc ++ o.d ++ o.ap ++ o.x ++ o.b ++ 0x3#2
  | .atomCas o => 0x54#7 ++ o.rc ++ o.d ++ o.ap ++ 0x0#1 ++ o.b ++ 0x0#1 ++ o.t
  | .stm o => 0x54#7 ++ o.rc ++ o.n ++ o.w ++ 0x0#2 ++ o.ap ++ 0x1#1 ++ o.b ++ 0x0#2
  | .fence o => 0x55#7 ++ o.rc ++ 0x0#4 ++ o.ord ++ o.scope ++ 0x0#13
  | .wait o => 0x55#7 ++ o.rc ++ 0x1#4 ++ o.acq ++ o.cls ++ o.n
  | .waita o => 0x55#7 ++ o.rc ++ 0x2#4 ++ o.ne ++ o.tmo ++ o.ap ++ 0x0#1 ++ o.b ++ 0x0#2
  | .bar o => 0x55#7 ++ o.rc ++ 0x18000#19 ++ o.id
  | .barPe o => 0x55#7 ++ o.rc ++ 0x2000#15 ++ o.idx
  | .bara o => 0x55#7 ++ o.rc ++ 0x28000#19 ++ o.id
  | .barw o => 0x55#7 ++ o.rc ++ 0x30000#19 ++ o.id
  | .cbar o => 0x55#7 ++ o.rc ++ 0x380000#23
  | .rgn o => 0x55#7 ++ o.rc ++ 0x400000#23
  | .rgncnt o => 0x55#7 ++ o.rc ++ 0x48#7 ++ o.d ++ 0x0#9
  | .shfl o => 0x56#7 ++ o.rc ++ o.d ++ o.a ++ o.b ++ o.mode
  | .voteAny o => 0x57#7 ++ o.rc ++ 0x0#3 ++ o.pd ++ 0x0#3 ++ o.pa ++ 0x0#9
  | .voteAll o => 0x57#7 ++ o.rc ++ 0x0#3 ++ o.pd ++ 0x0#3 ++ o.pa ++ 0x8#9
  | .voteBallot o => 0x57#7 ++ o.rc ++ o.d ++ 0x0#3 ++ o.pa ++ 0x10#9
  | .gredAdd o => 0x57#7 ++ o.rc ++ o.d ++ o.a ++ 0x3#6 ++ o.la ++ o.ty
  | .gredMin o => 0x57#7 ++ o.rc ++ o.d ++ o.a ++ 0x4#6 ++ o.la ++ o.ty
  | .gredMax o => 0x57#7 ++ o.rc ++ o.d ++ o.a ++ 0x5#6 ++ o.la ++ o.ty
  | .rdef o => 0x58#7 ++ o.rc ++ o.d ++ o.ap ++ o.slot ++ 0x0#5
  | .rop o => 0x59#7 ++ o.rc ++ o.slot ++ o.v ++ o.ap ++ 0x0#5
  | .ropr o => 0x5A#7 ++ o.rc ++ o.slot ++ o.v ++ o.ap ++ 0x0#5
  | .btxStart o => 0x5B#7 ++ o.rc ++ 0x0#7 ++ o.ap ++ o.ch ++ 0x0#8
  | .btxStat o => 0x5B#7 ++ o.rc ++ o.d ++ 0x0#6 ++ o.ch ++ 0x1#8
  | .tcopy o => 0x5C#7 ++ o.rc ++ o.v ++ 0x0#6 ++ o.ch ++ 0x0#8
  | .amtest o => 0x5D#7 ++ o.rc ++ o.pd ++ 0x0#3 ++ o.ap ++ 0x0#1 ++ o.m ++ 0x0#2
  | .amsg o => 0x5E#7 ++ o.rc ++ o.c ++ o.h ++ 0x0#3 ++ o.v ++ 0x0#2
  | .amh o => 0x5E#7 ++ o.rc ++ o.c ++ o.h ++ 0x0#3 ++ o.v ++ 0x1#2
  | .launch o => 0x5F#7 ++ o.rc ++ o.d ++ o.ap ++ o.q ++ 0x0#4
  | .mma o => 0x60#7 ++ o.rc ++ o.a ++ o.acc ++ o.pairing ++ o.kgc ++ o.reuse ++ o.stream
  | .mloop o => 0x61#7 ++ o.rc ++ o.a ++ o.acc ++ o.pairing ++ o.kgc ++ o.reuse ++ o.stream
  | .mstr o => 0x62#7 ++ o.rc ++ o.q ++ 0x0#15 ++ o.stream
  | .aclr o => 0x63#7 ++ o.rc ++ 0x0#7 ++ o.acc ++ o.mode ++ 0x0#8
  | .aread o => 0x64#7 ++ o.rc ++ o.v ++ o.acc ++ o.col ++ o.cnt ++ 0x0#2
  | .awrite o => 0x65#7 ++ o.rc ++ o.v ++ o.acc ++ o.col ++ o.cnt ++ 0x0#2
  | .ast o => 0x66#7 ++ o.rc ++ o.o ++ o.acc ++ o.fmt ++ 0x0#7
  | .ald o => 0x67#7 ++ o.rc ++ o.o ++ o.acc ++ o.fmt ++ 0x0#7
  | .mburst o => 0x68#7 ++ o.rc ++ 0x0#7 ++ o.n
  | .csrr o => 0x70#7 ++ o.rc ++ o.r ++ o.csr ++ 0x0#4
  | .csrw o => 0x71#7 ++ o.rc ++ o.r ++ o.csr ++ 0x0#4
  | .ctxNew o => 0x72#7 ++ o.rc ++ o.d ++ o.ap ++ 0x0#10
  | .ctxRun o => 0x72#7 ++ o.rc ++ o.d ++ o.ap ++ o.b ++ 0x1#3
  | .ctxStop o => 0x72#7 ++ o.rc ++ o.d ++ o.ap ++ o.b ++ 0x2#3
  | .ctxGrant o => 0x72#7 ++ o.rc ++ o.d ++ o.ap ++ o.b ++ 0x3#3
  | .ctxRevoke o => 0x72#7 ++ o.rc ++ o.d ++ o.ap ++ o.b ++ 0x4#3
  | .ctxKill o => 0x72#7 ++ o.rc ++ o.d ++ 0x0#6 ++ o.b ++ 0x5#3
  | .ctxStat o => 0x72#7 ++ o.rc ++ o.d ++ o.ap ++ o.b ++ 0x6#3
  | .trapret o => 0x73#7 ++ o.rc ++ 0x0#23
  | .tlbinvPage o => 0x74#7 ++ o.rc ++ 0x0#7 ++ o.ap ++ 0x0#10
  | .tlbinvCtx o => 0x74#7 ++ o.rc ++ 0x0#7 ++ o.ap ++ 0x100#10
  | .tlbinvSubtree o => 0x74#7 ++ o.rc ++ 0x0#7 ++ o.ap ++ 0x200#10
  | .frmstat o => 0x75#7 ++ o.rc ++ o.d ++ o.ap ++ 0x0#10
  | .guard o => 0x1E0#9 ++ o.p ++ o.neg ++ o.n ++ 0x0#15
  | .block o => 0x1E4#9 ++ o.h ++ o.w ++ o.bvb ++ 0x0#15
  | .mod o => 0x1E8#9 ++ o.rnd ++ o.ftz ++ o.sat ++ o.cpv ++ o.cp ++ o.ordv ++ o.ord ++ o.scope ++ 0x0#7
  | .mxsc o => 0x1EC#9 ++ o.a ++ o.byte ++ 0x0#14
  | .imm o => 0x1F#5 ++ o.h ++ 0x0#2 ++ o.i
  | .illegalWord w => w
  | .issueArbitration _ _ => 0x6C000000#32
  | .runTimeLimit _ _ => 0x6C000000#32
  | .pathStarved _ _ => 0x6C000000#32
  | .longLatencyResult _ _ _ _ => 0x6C000000#32
  | .blockPlace _ _ _ => 0x6C000000#32
  | .blockRetire _ => 0x6C000000#32
  | .gridLeaveQueue _ _ => 0x6C000000#32
  | .hostListRead _ _ => 0x6C000000#32
  | .gridComplete _ => 0x6C000000#32
  | .gridEnd _ => 0x6C000000#32
  | .supervisorStart _ _ => 0x6C000000#32
  | .amAdmit _ => 0x6C000000#32
  | .amHandlerStart _ _ => 0x6C000000#32
  | .amComplete _ => 0x6C000000#32
  | .trapDelivery _ => 0x6C000000#32
  | .trapHandlerStart _ _ => 0x6C000000#32
  | .cocoonSave _ => 0x6C000000#32
  | .cocoonRestore _ _ => 0x6C000000#32
  | .blockSave _ => 0x6C000000#32
  | .gracefulDeadline _ => 0x6C000000#32
  | .sliceExpiry _ => 0x6C000000#32
  | .vacateComplete _ => 0x6C000000#32
  | .waySweepComplete _ => 0x6C000000#32
  | .frameScrubStart _ _ => 0x6C000000#32
  | .frameScrubComplete _ _ => 0x6C000000#32
  | .cxidRelease _ => 0x6C000000#32
  | .btRecordStart _ => 0x6C000000#32
  | .btChunkLanded _ _ => 0x6C000000#32
  | .btRecordComplete _ => 0x6C000000#32
  | .btRecordFault _ => 0x6C000000#32
  | .btOperationComplete _ => 0x6C000000#32
  | .sequencerStart _ _ => 0x6C000000#32
  | .matrixStep _ _ _ => 0x6C000000#32
  | .matrixOpComplete _ _ => 0x6C000000#32
  | .rampupDone _ _ => 0x6C000000#32
  | .rampdownStart _ _ => 0x6C000000#32
  | .rampdownDone _ _ => 0x6C000000#32
  | .ruAdmit _ => 0x6C000000#32
  | .ruCombine _ _ => 0x6C000000#32
  | .ruApply _ => 0x6C000000#32
  | .ropComplete _ => 0x6C000000#32
  | .roprResult _ => 0x6C000000#32
  | .rdefComplete _ => 0x6C000000#32
  | .requestAdmission _ => 0x6C000000#32
  | .sliceRequestAdmit _ _ => 0x6C000000#32
  | .requestRetry _ => 0x6C000000#32
  | .memoryReply _ => 0x6C000000#32
  | .channelAccess _ _ _ => 0x6C000000#32
  | .hrowWindowEnd _ => 0x6C000000#32
  | .hrowHoldEnd _ _ _ => 0x6C000000#32
  | .patrolRead _ _ _ => 0x6C000000#32
  | .cxlTimeout _ => 0x6C000000#32
  | .linkTimeout _ => 0x6C000000#32
  | .flashEraseComplete _ => 0x6C000000#32
  | .fenceComplete _ _ => 0x6C000000#32
  | .tlbinvComplete _ _ => 0x6C000000#32
  | .waitaSatisfied _ _ => 0x6C000000#32
  | .watchdog _ _ => 0x6C000000#32
  | .debugHoldTimeout => 0x6C000000#32
  | .l1FusionChange _ => 0x6C000000#32
  | .flr _ => 0x6C000000#32
  | .flrComplete _ => 0x6C000000#32
  | .coldReset _ => 0x6C000000#32
  | .recoveryImage _ => 0x6C000000#32
  | .thermalThrottle _ => 0x6C000000#32
  | .thermalStop => 0x6C000000#32
  | .bridgeFailure => 0x6C000000#32
  | .linkUp _ _ => 0x6C000000#32
  | .linkDown _ => 0x6C000000#32
  | .peerRequest _ _ _ _ _ => 0x6C000000#32
  | .hostMemoryAccess _ _ _ _ => 0x6C000000#32
  | .ideIntegrityFailure _ => 0x6C000000#32
  | .qkickWrite _ _ _ => 0x6C000000#32
  | .qkickLowWrite _ _ _ => 0x6C000000#32
  | .qkickHighWrite _ _ _ => 0x6C000000#32
  | .sentryWrite _ _ => 0x6C000000#32
  | .scfgWrite _ _ => 0x6C000000#32
  | .vfEnableSet => 0x6C000000#32
  | .vfEnableClear => 0x6C000000#32
  | .msixUnmask _ _ => 0x6C000000#32
  | .frozenSetWrite _ _ _ => 0x6C000000#32
  | .registerWrite _ _ _ _ => 0x6C000000#32
  | .lockInterfaceRequest _ _ _ => 0x6C000000#32
  | .startInterfaceRequest _ => 0x6C000000#32
  | .stopInterfaceRequest _ => 0x6C000000#32
  | .getDeviceInterfaceReport _ => 0x6C000000#32
  | .rootCtxNew _ => 0x6C000000#32
  | .rootCtxRun _ _ => 0x6C000000#32
  | .rootCtxStop _ _ _ => 0x6C000000#32
  | .rootCtxGrant _ _ => 0x6C000000#32
  | .rootCtxRevoke _ _ => 0x6C000000#32
  | .rootCtxKill _ => 0x6C000000#32
  | .rootCtxStat _ => 0x6C000000#32
  | .trapretCommand _ _ _ => 0x6C000000#32
  | .writePtroot _ => 0x6C000000#32
  | .writeBufferEntry _ _ => 0x6C000000#32
  | .writePartitionRecord _ _ => 0x6C000000#32
  | .eraseFlashBlocks _ _ => 0x6C000000#32
  | .writeHrowCtl _ _ => 0x6C000000#32
  | .setSaveRegionSize _ => 0x6C000000#32
  | .readErrorCounts _ => 0x6C000000#32
  | .promote => 0x6C000000#32
  | .getAttestationReport => 0x6C000000#32
  | .writeIngressEntry _ => 0x6C000000#32
  | .attach _ => 0x6C000000#32
  | .detach _ => 0x6C000000#32
  | .halt _ => 0x6C000000#32
  | .resume _ => 0x6C000000#32
  | .step _ => 0x6C000000#32
  | .restart _ => 0x6C000000#32
  | .rdreg _ => 0x6C000000#32
  | .wrreg _ => 0x6C000000#32
  | .rdmem _ => 0x6C000000#32
  | .wrmem _ => 0x6C000000#32
  | .event _ => 0x6C000000#32
  | .spdmAttestationRequest => 0x6C000000#32

/-- Whether an instruction has a word of its own: the rows of the opcode table with an encoding. -/
def Instr.isWord : Instr → Bool
  | .iadd _ | .isub _ | .imul _ | .imulhI32 _ | .imulhN32 _ | .imad _ | .iminImaxI32 _ | .iminImaxN32 _ | .and _ |
    .or _ | .xor _ | .andn _ | .iadd64 _ | .isub64 _ | .bfx _ | .bfi _ | .shlImm _ | .shlReg _ | .shrImm _ |
    .shrReg _ | .sarImm _ | .sarReg _ | .rotlImm _ | .rotlReg _ | .iaddImm _ | .andImm _ | .orImm _ | .xorImm _ |
    .movi _ | .movhi _ | .lea _ | .isetpI32 _ | .isetpN32 _ | .fsetp _ | .plop _ | .ppack _ | .punpk _ | .cmov _ |
    .fadd _ | .fsub _ | .fmul _ | .ffma _ | .ffms _ | .fnfma _ | .fminFmax _ | .fscb _ | .hadd2Bf16 _ |
    .hadd2F16 _ | .hmul2Bf16 _ | .hmul2F16 _ | .hfma2Bf16 _ | .hfma2F16 _ | .hmin2Hmax2Bf16 _ | .hmin2Hmax2F16 _ |
    .not _ | .neg _ | .iabs _ | .popc _ | .clz _ | .brev _ | .sext8 _ | .sext16 _ | .zext8 _ | .zext16 _ |
    .fneg _ | .fabs _ | .frint _ | .fexpx _ | .cvt _ | .rcpe _ | .rsqe _ | .ex2e _ | .lg2e _ | .sinpe _ |
    .cospe _ | .tanhe _ | .bxq _ | .bxd _ | .mov _ | .srd _ | .swr _ | .mskr _ | .mskw _ | .mskp _ | .pmsk _ |
    .br _ | .call _ | .nop _ | .exit _ | .ret _ | .jidx _ | .brk _ | .trap _ | .jenr _ | .jwait _ | .ldB _ |
    .ldH _ | .ldW _ | .ldD _ | .ldQ _ | .stB _ | .stH _ | .stW _ | .stD _ | .stQ _ | .lds _ | .sts _ | .ldp _ |
    .stp _ | .tld _ | .tst _ | .prfL1 _ | .prfL2 _ | .cctlInv1 _ | .cctlInva _ | .cctlWb _ | .cctlWbi _ |
    .atomAdd _ | .atomMin _ | .atomMax _ | .atomAnd _ | .atomOr _ | .atomXor _ | .atomXchg _ | .atomCas _ |
    .stm _ | .fence _ | .wait _ | .waita _ | .bar _ | .barPe _ | .bara _ | .barw _ | .cbar _ | .rgn _ |
    .rgncnt _ | .shfl _ | .voteAny _ | .voteAll _ | .voteBallot _ | .gredAdd _ | .gredMin _ | .gredMax _ |
    .rdef _ | .rop _ | .ropr _ | .btxStart _ | .btxStat _ | .tcopy _ | .amtest _ | .amsg _ | .amh _ | .launch _ |
    .mma _ | .mloop _ | .mstr _ | .aclr _ | .aread _ | .awrite _ | .ast _ | .ald _ | .mburst _ | .csrr _ |
    .csrw _ | .ctxNew _ | .ctxRun _ | .ctxStop _ | .ctxGrant _ | .ctxRevoke _ | .ctxKill _ | .ctxStat _ |
    .trapret _ | .tlbinvPage _ | .tlbinvCtx _ | .tlbinvSubtree _ | .frmstat _ | .guard _ | .block _ | .mod _ |
    .mxsc _ | .imm _ => true
  | .illegalWord _ | .issueArbitration _ _ | .runTimeLimit _ _ | .pathStarved _ _ | .longLatencyResult _ _ _ _ |
    .blockPlace _ _ _ | .blockRetire _ | .gridLeaveQueue _ _ | .hostListRead _ _ | .gridComplete _ | .gridEnd _ |
    .supervisorStart _ _ | .amAdmit _ | .amHandlerStart _ _ | .amComplete _ | .trapDelivery _ |
    .trapHandlerStart _ _ | .cocoonSave _ | .cocoonRestore _ _ | .blockSave _ | .gracefulDeadline _ |
    .sliceExpiry _ | .vacateComplete _ | .waySweepComplete _ | .frameScrubStart _ _ | .frameScrubComplete _ _ |
    .cxidRelease _ | .btRecordStart _ | .btChunkLanded _ _ | .btRecordComplete _ | .btRecordFault _ |
    .btOperationComplete _ | .sequencerStart _ _ | .matrixStep _ _ _ | .matrixOpComplete _ _ | .rampupDone _ _ |
    .rampdownStart _ _ | .rampdownDone _ _ | .ruAdmit _ | .ruCombine _ _ | .ruApply _ | .ropComplete _ |
    .roprResult _ | .rdefComplete _ | .requestAdmission _ | .sliceRequestAdmit _ _ | .requestRetry _ |
    .memoryReply _ | .channelAccess _ _ _ | .hrowWindowEnd _ | .hrowHoldEnd _ _ _ | .patrolRead _ _ _ |
    .cxlTimeout _ | .linkTimeout _ | .flashEraseComplete _ | .fenceComplete _ _ | .tlbinvComplete _ _ |
    .waitaSatisfied _ _ | .watchdog _ _ | .debugHoldTimeout | .l1FusionChange _ | .flr _ | .flrComplete _ |
    .coldReset _ | .recoveryImage _ | .thermalThrottle _ | .thermalStop | .bridgeFailure | .linkUp _ _ |
    .linkDown _ | .peerRequest _ _ _ _ _ | .hostMemoryAccess _ _ _ _ | .ideIntegrityFailure _ |
    .qkickWrite _ _ _ | .qkickLowWrite _ _ _ | .qkickHighWrite _ _ _ | .sentryWrite _ _ | .scfgWrite _ _ |
    .vfEnableSet | .vfEnableClear | .msixUnmask _ _ | .frozenSetWrite _ _ _ | .registerWrite _ _ _ _ |
    .lockInterfaceRequest _ _ _ | .startInterfaceRequest _ | .stopInterfaceRequest _ |
    .getDeviceInterfaceReport _ | .rootCtxNew _ | .rootCtxRun _ _ | .rootCtxStop _ _ _ | .rootCtxGrant _ _ |
    .rootCtxRevoke _ _ | .rootCtxKill _ | .rootCtxStat _ | .trapretCommand _ _ _ | .writePtroot _ |
    .writeBufferEntry _ _ | .writePartitionRecord _ _ | .eraseFlashBlocks _ _ | .writeHrowCtl _ _ |
    .setSaveRegionSize _ | .readErrorCounts _ | .promote | .getAttestationReport | .writeIngressEntry _ |
    .attach _ | .detach _ | .halt _ | .resume _ | .step _ | .restart _ | .rdreg _ | .wrreg _ | .rdmem _ |
    .wrmem _ | .event _ | .spdmAttestationRequest => false

/-- Decode one instruction word. Total: a word with a reserved field, a set fixed bit or no instruction
becomes `illegalWord`, whose meaning raises the trap of R155. -/
def decode (w : Word) : Instr :=
  match identify w with
  | some i => if encode i = w then i else .illegalWord w
  | none => .illegalWord w

/-- Whether a word is a prefixing word: majors 0x78 to 0x7F (R148). -/
def isPfxWord (w : Word) : Bool := 0x78 ≤ fieldNat w 25 7

/-- The four bytes of a word as they lie in memory, little-endian (R9). -/
def wordBytes (w : Word) : List Byte :=
  [w.extractLsb' 0 8, w.extractLsb' 8 8, w.extractLsb' 16 8, w.extractLsb' 24 8]

/-- The word that four bytes spell, little-endian (R9). -/
def bytesWord : List Byte → Option Word
  | [b0, b1, b2, b3] => some (b3 ++ b2 ++ b1 ++ b0)
  | _ => none

/-- Decode the first instruction word of a byte string and give the rest. -/
def decodeBytes : List Byte → Option (Instr × List Byte)
  | b0 :: b1 :: b2 :: b3 :: rest => some (decode (b3 ++ b2 ++ b1 ++ b0), rest)
  | _ => none

/-- What the decoder reads from a table word: every row with an encoding has one 32-bit word. -/
def decodeTableWord (nbits w : Nat) : Option Instr :=
  if nbits = 0 then none
  else
    match decodeBytes (wordBytes (BitVec.ofNat 32 (w % 2 ^ nbits))) with
    | some (.illegalWord _, _) => none
    | some (i, _) => some i
    | none => none

end Sys2Proof
end

