-- ==== Sys2Proof/WellFormed.lean ====
section
/-! DEFINITION. Which encodings are well formed: the register rules of R51 and R53 and the reserved
field values of R132 to R153 (R155 step 5), as far as they do not depend on the kernel's declared
register count or on the unit's other words. `Instr.uses` is the register-use table. -/

namespace Sys2Proof

/-- One register operand: its field value (0-95 v, 96-127 s, R51), how many consecutive registers,
the alignment its number needs, whether it must be a v register, its last-use bit, whether it is
read and written, and how BLOCK offsets it (0 not, 1 by element, 2 not under bvb). -/
structure RUse where
  reg : Nat
  n : Nat := 1
  al : Nat := 1
  v : Bool := false
  last : Bool := false
  isRd : Bool := false
  isWr : Bool := false
  /-- Read in the lowest lane of Active alone (R52). -/
  low : Bool := false
  blk : Nat := 1
deriving DecidableEq, Repr

namespace RUse

/-- A source register given by its number. -/
def rdN (r : Nat) : RUse := { reg := r, isRd := true }
/-- A source register field. -/
def rd (r : BitVec 7) : RUse := rdN r.toNat
/-- A source register field with a last-use bit (R44). -/
def rdL (r : BitVec 7) (l : BitVec 1) : RUse := { reg := r.toNat, isRd := true, last := l == 1 }
/-- The vb field of a three-register word, which BLOCK may broadcast (R151). -/
def rdB (r : BitVec 7) (l : BitVec 1) : RUse := { reg := r.toNat, isRd := true, last := l == 1, blk := 2 }
/-- A destination register field. -/
def wr (r : BitVec 7) : RUse := { reg := r.toNat, isWr := true }
/-- A destination that is read as an addend (R163). -/
def rw (r : BitVec 7) : RUse := { reg := r.toNat, isRd := true, isWr := true }
/-- An operand of n registers aligned to n: a pair or a quad (R51). -/
def many (u : RUse) (k : Nat) : RUse := { u with n := k, al := k }
/-- The pair that a 6-bit pair field names (R133). -/
def rdPair (ap : BitVec 6) : RUse := many (rdN (2 * ap.toNat)) 2
/-- An operand that the lowest lane of Active supplies (R52). -/
def lowest (u : RUse) : RUse := { u with low := true }
/-- An operand field that is neither read nor written as it stands. -/
def named (r : BitVec 7) : RUse := { reg := r.toNat }
/-- An operand that must be a v register (R51). -/
def vOnly (u : RUse) : RUse := { u with v := true }

end RUse

open RUse

/-- Registers that an access of a width code holds (Table 9-6, R133). -/
def widthRegs (w : BitVec 3) : Nat := if w = 3 then 2 else if w = 4 then 4 else 1

/-- Bytes of an access of a width code (R133). -/
def widthBytes (w : BitVec 3) : Nat := 2 ^ w.toNat

/-- Bytes of a conversion type code (Table 7-17). -/
def cvtBytes (t : BitVec 3) : Nat :=
  if t.toNat ≤ 2 then 4 else if t.toNat ≤ 4 then 2 else 1

/-- Registers a CVT reads (R140). -/
def cvtSrcRegs (o : CVF) : Nat :=
  if cvtBytes o.src = 4 then (if o.form = 1 then 2 else if o.form = 2 then 4 else 1) else 1

/-- Registers a CVT writes (R140). -/
def cvtDstRegs (o : CVF) : Nat :=
  if cvtBytes o.dst = 4 ∧ cvtBytes o.src ≠ 4 then
    (if o.form = 1 then 2 else if o.form = 2 then 4 else 1) else 1

/-- CVT's own encoding rules (R140). -/
def cvtOk (o : CVF) : Bool :=
  o.src != o.dst && o.src != 7 && o.dst != 7 &&
  match o.form.toNat with
  | 0 => true
  | 1 => (cvtBytes o.src == 4 && cvtBytes o.dst == 2) || (cvtBytes o.src == 2 && cvtBytes o.dst == 4)
  | 2 => (cvtBytes o.src == 4 && cvtBytes o.dst == 1) || (cvtBytes o.src == 1 && cvtBytes o.dst == 4)
  | _ => false

/-- MOD's own encoding rules (R152). -/
def modOk (o : MDF) : Bool :=
  o.rnd.toNat ≤ 4 && o.sat != 3 && (o.cpv == 1 || o.cp == 0) &&
  (if o.ordv = 1 then decide (o.ord.toNat ≤ 4 ∧ o.scope.toNat ≤ 5) else o.ord == 0 && o.scope == 0) &&
  !(o.rnd == 0 && o.ftz == 0 && o.sat == 0 && o.cpv == 0 && o.ordv == 0)

/-- Registers per k-group of the A operand of a pairing (R231, Table 4-7). -/
def aRegs (pairing : Nat) : Nat :=
  match pairing with
  | 3 | 4 | 18 | 19 => 2
  | 5 | 20 => 1
  | 11 | 12 | 13 | 14 | 15 => 8
  | _ => 4

/-- The register-use table: every register operand that the encoding of an instruction fixes. -/
def Instr.uses (i : Instr) : List RUse :=
  match i with
  | .iadd o | .isub o | .imul o | .imulhI32 o | .imulhN32 o | .iminImaxI32 o | .iminImaxN32 o |
    .and o | .or o | .xor o | .andn o | .bfx o | .fadd o | .fsub o | .fmul o | .fminFmax o |
    .fscb o | .hadd2Bf16 o | .hadd2F16 o | .hmul2Bf16 o | .hmul2F16 o | .hmin2Hmax2Bf16 o |
    .hmin2Hmax2F16 o =>
      [wr o.d, rdL o.a o.la, rdB o.b o.lb]
  | .imad o | .bfi o | .ffma o | .ffms o | .fnfma o | .hfma2Bf16 o | .hfma2F16 o =>
      [rw o.d, rdL o.a o.la, rdB o.b o.lb]
  | .iadd64 o | .isub64 o =>
      [many (wr o.d) 2, many (rdL o.a o.la) 2, many (rdL o.b o.lb) 2]
  | .shlImm o | .shrImm o | .sarImm o | .rotlImm o =>
      [wr o.d, rd o.a]
  | .shlReg o | .shrReg o | .sarReg o | .rotlReg o =>
      [wr o.d, rd o.a, rdL o.k o.lk]
  | .iaddImm o | .andImm o | .orImm o | .xorImm o =>
      [wr o.d, rd o.a]
  | .movi o | .movhi o =>
      [wr o.d]
  | .lea o =>
      [many (wr o.d) 2]
  | .isetpI32 o | .isetpN32 o | .fsetp o =>
      [rdL o.a o.la, rdL o.b o.lb]
  | .plop _ =>
      []
  | .ppack o | .rgncnt o =>
      [wr o.d]
  | .punpk o =>
      [rdL o.a o.la]
  | .cmov o =>
      [wr o.d, rdL o.a o.la]
  | .not o | .neg o | .iabs o | .popc o | .clz o | .brev o | .sext8 o | .sext16 o | .zext8 o |
    .zext16 o | .fneg o | .fabs o | .fexpx o | .rcpe o | .rsqe o | .ex2e o | .lg2e o | .sinpe o
    | .cospe o | .tanhe o | .mov o =>
      [wr o.d, rdL o.a o.la]
  | .frint o | .bxq o | .bxd o | .gredAdd o | .gredMin o | .gredMax o =>
      [wr o.d, rdL o.a o.la]
  | .cvt o =>
      [many (wr o.d) (cvtDstRegs o), many (rdL o.a o.la) (cvtSrcRegs o)]
  | .srd o =>
      [many (wr o.d) (if o.n = 0x0A ∨ o.n = 0x0C then 2 else 1)]
  | .swr o | .jidx o =>
      [many (rdL o.a o.la) 2]
  | .mskr o =>
      [many (wr o.d) 2]
  | .mskw o =>
      [lowest (many (rdL o.a o.la) 2)]
  | .mskp _ | .pmsk _ | .br _ | .call _ =>
      []
  | .nop _ | .exit _ | .ret _ | .brk _ | .cctlInva _ | .cbar _ | .rgn _ | .trapret _ | .trap _ |
    .jenr _ | .jwait _ =>
      []
  | .ldB o =>
      [many (wr o.t) 1, many (rd o.b) 2]
  | .stB o =>
      [many (rd o.t) 1, many (rd o.b) 2]
  | .ldH o =>
      [many (wr o.t) 1, many (rd o.b) 2]
  | .stH o =>
      [many (rd o.t) 1, many (rd o.b) 2]
  | .ldW o =>
      [many (wr o.t) 1, many (rd o.b) 2]
  | .stW o =>
      [many (rd o.t) 1, many (rd o.b) 2]
  | .ldD o =>
      [many (wr o.t) 2, many (rd o.b) 2]
  | .stD o =>
      [many (rd o.t) 2, many (rd o.b) 2]
  | .ldQ o =>
      [many (wr o.t) 4, many (rd o.b) 2]
  | .stQ o =>
      [many (rd o.t) 4, many (rd o.b) 2]
  | .lds o | .ldp o =>
      [many (wr o.t) (widthRegs o.w), rd o.o]
  | .sts o | .stp o =>
      [many (rd o.t) (widthRegs o.w), rd o.o]
  | .tld o =>
      [wr o.t, named o.c, lowest (many (rd o.s) 2)]
  | .tst o =>
      [named o.t, named o.c, lowest (many (rd o.s) 2)]
  | .prfL1 o | .prfL2 o | .cctlInv1 o | .cctlWb o | .cctlWbi o =>
      [many (rd o.b) 2]
  | .atomAdd o | .atomMin o | .atomMax o =>
      [many (wr o.d) (if o.t = 3 then 2 else 1), rdPair o.ap, many (rd o.b) (if o.t = 3 then 2 else 1)]
  | .atomAnd o | .atomOr o | .atomXor o | .atomXchg o =>
      [many (wr o.d) (if o.x = 1 then 2 else 1), rdPair o.ap, many (rd o.b) (if o.x = 1 then 2 else 1)]
  | .atomCas o =>
      [many (wr o.d) (if o.t = 1 then 2 else 1), rdPair o.ap, many (rd o.b) (if o.t = 1 then 4 else 2)]
  | .stm o =>
      many (rd o.b) (widthRegs o.w) :: (List.range (o.n.toNat + 1)).map fun k => many (rdN (2 * (o.ap.toNat + k))) 2
  | .fence _ | .wait _ | .bar _ | .barPe _ | .bara _ | .barw _ =>
      []
  | .waita o =>
      [rdPair o.ap, rd o.b]
  | .shfl o =>
      [wr o.d, rd o.a, rd o.b]
  | .voteAny _ | .voteAll _ =>
      []
  | .voteBallot o =>
      [many (wr o.d) 2]
  | .rdef o | .launch o =>
      [wr o.d, lowest (rdPair o.ap)]
  | .rop o =>
      [named o.v, rdPair o.ap]
  | .ropr o =>
      [wr o.v, rdPair o.ap]
  | .btxStart o =>
      [lowest (rdPair o.ap)]
  | .btxStat o =>
      [wr o.d]
  | .tcopy o =>
      [vOnly (many (named o.v) 8), lowest { rd o.v with n := 6 }]
  | .amtest o =>
      [{ reg := 2 * o.ap.toNat, n := 2 }, rdN (2 * o.ap.toNat), many (rd o.m) 2]
  | .amsg o =>
      [rd o.c, named o.v]
  | .amh o =>
      [lowest (rd o.c), lowest (many (rd o.v) 2)]
  | .mma o | .mloop o =>
      [vOnly { rd o.a with al := aRegs o.pairing.toNat }]
  | .mstr o =>
      [lowest (many (rd o.q) 4)]
  | .aclr _ | .mburst _ =>
      []
  | .aread o =>
      [vOnly { wr o.v with n := 2 ^ o.cnt.toNat }]
  | .awrite o =>
      [vOnly { rd o.v with n := 2 ^ o.cnt.toNat }]
  | .ast o | .ald o =>
      [rd o.o]
  | .csrr o =>
      [wr o.r]
  | .csrw o =>
      [lowest (rd o.r)]
  | .ctxNew o =>
      [vOnly (wr o.d), lowest (rdPair o.ap)]
  | .ctxRun o | .ctxStop o | .ctxGrant o | .ctxRevoke o | .ctxStat o =>
      [vOnly (wr o.d), lowest (rdPair o.ap), lowest (vOnly (rd o.b))]
  | .ctxKill o =>
      [vOnly (wr o.d), lowest (vOnly (rd o.b))]
  | .tlbinvPage o | .tlbinvCtx o | .tlbinvSubtree o =>
      [lowest (rdPair o.ap)]
  | .frmstat o =>
      [wr o.d, rdPair o.ap]
  | .guard _ | .block _ | .mod _ | .imm _ =>
      []
  | .mxsc o =>
      [vOnly (rd o.a)]
  | .issueArbitration _ _ | .runTimeLimit _ _ | .pathStarved _ _ | .longLatencyResult _ _ _ _ |
    .blockPlace _ _ _ | .blockRetire _ | .gridLeaveQueue _ _ | .hostListRead _ _ | .gridComplete
    _ | .gridEnd _ | .supervisorStart _ _ | .amAdmit _ | .amHandlerStart _ _ | .amComplete _ |
    .trapDelivery _ | .trapHandlerStart _ _ | .cocoonSave _ | .cocoonRestore _ _ | .blockSave _
    | .gracefulDeadline _ | .sliceExpiry _ | .vacateComplete _ | .waySweepComplete _ |
    .frameScrubStart _ _ | .frameScrubComplete _ _ | .cxidRelease _ | .btRecordStart _ |
    .btChunkLanded _ _ | .btRecordComplete _ | .btRecordFault _ | .btOperationComplete _ |
    .sequencerStart _ _ | .matrixStep _ _ _ | .matrixOpComplete _ _ | .rampupDone _ _ |
    .rampdownStart _ _ | .rampdownDone _ _ | .ruAdmit _ | .ruCombine _ _ | .ruApply _ |
    .ropComplete _ | .roprResult _ | .rdefComplete _ | .requestAdmission _ | .sliceRequestAdmit
    _ _ | .requestRetry _ | .memoryReply _ | .channelAccess _ _ _ | .hrowWindowEnd _ |
    .hrowHoldEnd _ _ _ | .patrolRead _ _ _ | .cxlTimeout _ | .linkTimeout _ |
    .flashEraseComplete _ | .fenceComplete _ _ | .tlbinvComplete _ _ | .waitaSatisfied _ _ |
    .watchdog _ _ | .debugHoldTimeout | .l1FusionChange _ | .flr _ | .flrComplete _ | .coldReset
    _ | .recoveryImage _ | .thermalThrottle _ | .thermalStop | .bridgeFailure | .linkUp _ _ |
    .linkDown _ | .peerRequest _ _ _ _ _ | .hostMemoryAccess _ _ _ _ | .ideIntegrityFailure _ |
    .qkickWrite _ _ _ | .qkickLowWrite _ _ _ | .qkickHighWrite _ _ _ | .sentryWrite _ _ |
    .scfgWrite _ _ | .vfEnableSet | .vfEnableClear | .msixUnmask _ _ | .frozenSetWrite _ _ _ |
    .registerWrite _ _ _ _ | .lockInterfaceRequest _ _ _ | .startInterfaceRequest _ |
    .stopInterfaceRequest _ | .getDeviceInterfaceReport _ | .rootCtxNew _ | .rootCtxRun _ _ |
    .rootCtxStop _ _ _ | .rootCtxGrant _ _ | .rootCtxRevoke _ _ | .rootCtxKill _ | .rootCtxStat
    _ | .trapretCommand _ _ _ | .writePtroot _ | .writeBufferEntry _ _ | .writePartitionRecord _
    _ | .eraseFlashBlocks _ _ | .writeHrowCtl _ _ | .setSaveRegionSize _ | .readErrorCounts _ |
    .promote | .getAttestationReport | .writeIngressEntry _ | .attach _ | .detach _ | .halt _ |
    .resume _ | .step _ | .restart _ | .rdreg _ | .wrreg _ | .rdmem _ | .wrmem _ | .event _ |
    .illegalWord _ | .spdmAttestationRequest => []

/-- The predicate indices an instruction names (R53). -/
def Instr.preds (i : Instr) : List (BitVec 4) :=
  match i with
  | .isetpI32 o | .isetpN32 o | .fsetp o | .mskp o | .amtest o => [o.pd]
  | .plop o => [o.pd, o.pa, o.pb]
  | .cmov o | .br o | .call o | .guard o => [o.p]
  | .pmsk o | .voteBallot o => [o.pa]
  | .voteAny o | .voteAll o => [o.pd, o.pa]
  | .iadd _ | .isub _ | .imul _ | .imulhI32 _ | .imulhN32 _ | .imad _ | .iminImaxI32 _ |
    .iminImaxN32 _ | .and _ | .or _ | .xor _ | .andn _ | .iadd64 _ | .isub64 _ | .bfx _ | .bfi _
    | .shlImm _ | .shlReg _ | .shrImm _ | .shrReg _ | .sarImm _ | .sarReg _ | .rotlImm _ |
    .rotlReg _ | .iaddImm _ | .andImm _ | .orImm _ | .xorImm _ | .movi _ | .movhi _ | .lea _ |
    .ppack _ | .punpk _ | .fadd _ | .fsub _ | .fmul _ | .ffma _ | .ffms _ | .fnfma _ | .fminFmax
    _ | .fscb _ | .hadd2Bf16 _ | .hadd2F16 _ | .hmul2Bf16 _ | .hmul2F16 _ | .hfma2Bf16 _ |
    .hfma2F16 _ | .hmin2Hmax2Bf16 _ | .hmin2Hmax2F16 _ | .not _ | .neg _ | .iabs _ | .popc _ |
    .clz _ | .brev _ | .sext8 _ | .sext16 _ | .zext8 _ | .zext16 _ | .fneg _ | .fabs _ | .frint
    _ | .fexpx _ | .cvt _ | .rcpe _ | .rsqe _ | .ex2e _ | .lg2e _ | .sinpe _ | .cospe _ | .tanhe
    _ | .bxq _ | .bxd _ | .mov _ | .srd _ | .swr _ | .mskr _ | .mskw _ | .nop _ | .exit _ | .ret
    _ | .jidx _ | .brk _ | .trap _ | .jenr _ | .jwait _ | .ldB _ | .ldH _ | .ldW _ | .ldD _ |
    .ldQ _ | .stB _ | .stH _ | .stW _ | .stD _ | .stQ _ | .lds _ | .sts _ | .ldp _ | .stp _ |
    .tld _ | .tst _ | .prfL1 _ | .prfL2 _ | .cctlInv1 _ | .cctlInva _ | .cctlWb _ | .cctlWbi _ |
    .atomAdd _ | .atomMin _ | .atomMax _ | .atomAnd _ | .atomOr _ | .atomXor _ | .atomXchg _ |
    .atomCas _ | .stm _ | .fence _ | .wait _ | .waita _ | .bar _ | .barPe _ | .bara _ | .barw _
    | .cbar _ | .rgn _ | .rgncnt _ | .shfl _ | .gredAdd _ | .gredMin _ | .gredMax _ | .rdef _ |
    .rop _ | .ropr _ | .btxStart _ | .btxStat _ | .tcopy _ | .amsg _ | .amh _ | .launch _ | .mma
    _ | .mloop _ | .mstr _ | .aclr _ | .aread _ | .awrite _ | .ast _ | .ald _ | .mburst _ |
    .csrr _ | .csrw _ | .ctxNew _ | .ctxRun _ | .ctxStop _ | .ctxGrant _ | .ctxRevoke _ |
    .ctxKill _ | .ctxStat _ | .trapret _ | .tlbinvPage _ | .tlbinvCtx _ | .tlbinvSubtree _ |
    .frmstat _ | .block _ | .mod _ | .mxsc _ | .imm _ | .issueArbitration _ _ | .runTimeLimit _
    _ | .pathStarved _ _ | .longLatencyResult _ _ _ _ | .blockPlace _ _ _ | .blockRetire _ |
    .gridLeaveQueue _ _ | .hostListRead _ _ | .gridComplete _ | .gridEnd _ | .supervisorStart _
    _ | .amAdmit _ | .amHandlerStart _ _ | .amComplete _ | .trapDelivery _ | .trapHandlerStart _
    _ | .cocoonSave _ | .cocoonRestore _ _ | .blockSave _ | .gracefulDeadline _ | .sliceExpiry _
    | .vacateComplete _ | .waySweepComplete _ | .frameScrubStart _ _ | .frameScrubComplete _ _ |
    .cxidRelease _ | .btRecordStart _ | .btChunkLanded _ _ | .btRecordComplete _ |
    .btRecordFault _ | .btOperationComplete _ | .sequencerStart _ _ | .matrixStep _ _ _ |
    .matrixOpComplete _ _ | .rampupDone _ _ | .rampdownStart _ _ | .rampdownDone _ _ | .ruAdmit
    _ | .ruCombine _ _ | .ruApply _ | .ropComplete _ | .roprResult _ | .rdefComplete _ |
    .requestAdmission _ | .sliceRequestAdmit _ _ | .requestRetry _ | .memoryReply _ |
    .channelAccess _ _ _ | .hrowWindowEnd _ | .hrowHoldEnd _ _ _ | .patrolRead _ _ _ |
    .cxlTimeout _ | .linkTimeout _ | .flashEraseComplete _ | .fenceComplete _ _ |
    .tlbinvComplete _ _ | .waitaSatisfied _ _ | .watchdog _ _ | .debugHoldTimeout |
    .l1FusionChange _ | .flr _ | .flrComplete _ | .coldReset _ | .recoveryImage _ |
    .thermalThrottle _ | .thermalStop | .bridgeFailure | .linkUp _ _ | .linkDown _ |
    .peerRequest _ _ _ _ _ | .hostMemoryAccess _ _ _ _ | .ideIntegrityFailure _ | .qkickWrite _ _ _ | .qkickLowWrite _ _ _ | .qkickHighWrite _ _ _ | .sentryWrite _ _ | .scfgWrite _ _ |
    .vfEnableSet | .vfEnableClear | .msixUnmask _ _ | .frozenSetWrite _ _ _ | .registerWrite _ _ _ _ | .lockInterfaceRequest _ _ _ | .startInterfaceRequest _ | .stopInterfaceRequest _ |
    .getDeviceInterfaceReport _ | .rootCtxNew _ | .rootCtxRun _ _ | .rootCtxStop _ _ _ |
    .rootCtxGrant _ _ | .rootCtxRevoke _ _ | .rootCtxKill _ | .rootCtxStat _ | .trapretCommand _
    _ _ | .writePtroot _ | .writeBufferEntry _ _ | .writePartitionRecord _ _ | .eraseFlashBlocks
    _ _ | .writeHrowCtl _ _ | .setSaveRegionSize _ | .readErrorCounts _ | .promote |
    .getAttestationReport | .writeIngressEntry _ | .attach _ | .detach _ | .halt _ | .resume _ |
    .step _ | .restart _ | .rdreg _ | .wrreg _ | .rdmem _ | .wrmem _ | .event _ | .illegalWord _
    | .spdmAttestationRequest => []

/-- The reserved field values of an instruction (R155 step 5). -/
def Instr.fieldsOk (i : Instr) : Bool :=
  match i with
  | .isetpI32 o | .isetpN32 o => decide (o.cond.toNat ≤ 5)
  | .plop o => decide (o.op ≠ 3)
  | .cvt o => cvtOk o
  | .srd o => decide (o.n.toNat ≤ 0x0C)
  | .stB o | .stH o | .stW o | .stD o | .stQ o => decide (o.cp ≠ 2)
  | .lds o | .sts o | .ldp o | .stp o => decide (o.w.toNat ≤ 4)
  | .stm o => decide (o.w.toNat ≤ 4 ∧ o.ap.toNat + o.n.toNat ≤ 63)
  | .fence o => decide ((1 ≤ o.ord.toNat ∧ o.ord.toNat ≤ 4) ∧ o.scope.toNat ≤ 5)
  | .gredAdd o | .gredMin o | .gredMax o => decide (o.ty ≠ 3)
  | .mma o | .mloop o => decide (o.pairing.toNat ≤ 22 ∧ o.kgc.toNat ≤ 4)
  | .aclr o => decide (o.mode ≠ 3)
  | .aread o | .awrite o => decide (o.col.toNat + 2 ^ o.cnt.toNat ≤ 64)
  | .ast o | .ald o => decide (o.fmt.toNat ≤ 4)
  | .block o => decide (o.h.toNat ≤ 11)
  | .mod o => modOk o
  | .iadd _ | .isub _ | .imul _ | .imulhI32 _ | .imulhN32 _ | .imad _ | .iminImaxI32 _ |
    .iminImaxN32 _ | .and _ | .or _ | .xor _ | .andn _ | .iadd64 _ | .isub64 _ | .bfx _ | .bfi _
    | .shlImm _ | .shlReg _ | .shrImm _ | .shrReg _ | .sarImm _ | .sarReg _ | .rotlImm _ |
    .rotlReg _ | .iaddImm _ | .andImm _ | .orImm _ | .xorImm _ | .movi _ | .movhi _ | .lea _ |
    .fsetp _ | .ppack _ | .punpk _ | .cmov _ | .fadd _ | .fsub _ | .fmul _ | .ffma _ | .ffms _ |
    .fnfma _ | .fminFmax _ | .fscb _ | .hadd2Bf16 _ | .hadd2F16 _ | .hmul2Bf16 _ | .hmul2F16 _ |
    .hfma2Bf16 _ | .hfma2F16 _ | .hmin2Hmax2Bf16 _ | .hmin2Hmax2F16 _ | .not _ | .neg _ | .iabs
    _ | .popc _ | .clz _ | .brev _ | .sext8 _ | .sext16 _ | .zext8 _ | .zext16 _ | .fneg _ |
    .fabs _ | .frint _ | .fexpx _ | .rcpe _ | .rsqe _ | .ex2e _ | .lg2e _ | .sinpe _ | .cospe _
    | .tanhe _ | .bxq _ | .bxd _ | .mov _ | .swr _ | .mskr _ | .mskw _ | .mskp _ | .pmsk _ | .br
    _ | .call _ | .nop _ | .exit _ | .ret _ | .jidx _ | .brk _ | .trap _ | .jenr _ | .jwait _ |
    .ldB _ | .ldH _ | .ldW _ | .ldD _ | .ldQ _ | .tld _ | .tst _ | .prfL1 _ | .prfL2 _ |
    .cctlInv1 _ | .cctlInva _ | .cctlWb _ | .cctlWbi _ | .atomAdd _ | .atomMin _ | .atomMax _ |
    .atomAnd _ | .atomOr _ | .atomXor _ | .atomXchg _ | .atomCas _ | .wait _ | .waita _ | .bar _
    | .barPe _ | .bara _ | .barw _ | .cbar _ | .rgn _ | .rgncnt _ | .shfl _ | .voteAny _ |
    .voteAll _ | .voteBallot _ | .rdef _ | .rop _ | .ropr _ | .btxStart _ | .btxStat _ | .tcopy
    _ | .amtest _ | .amsg _ | .amh _ | .launch _ | .mstr _ | .mburst _ | .csrr _ | .csrw _ |
    .ctxNew _ | .ctxRun _ | .ctxStop _ | .ctxGrant _ | .ctxRevoke _ | .ctxKill _ | .ctxStat _ |
    .trapret _ | .tlbinvPage _ | .tlbinvCtx _ | .tlbinvSubtree _ | .frmstat _ | .guard _ | .mxsc
    _ | .imm _ | .issueArbitration _ _ | .runTimeLimit _ _ | .pathStarved _ _ |
    .longLatencyResult _ _ _ _ | .blockPlace _ _ _ | .blockRetire _ | .gridLeaveQueue _ _ |
    .hostListRead _ _ | .gridComplete _ | .gridEnd _ | .supervisorStart _ _ | .amAdmit _ |
    .amHandlerStart _ _ | .amComplete _ | .trapDelivery _ | .trapHandlerStart _ _ | .cocoonSave
    _ | .cocoonRestore _ _ | .blockSave _ | .gracefulDeadline _ | .sliceExpiry _ |
    .vacateComplete _ | .waySweepComplete _ | .frameScrubStart _ _ | .frameScrubComplete _ _ |
    .cxidRelease _ | .btRecordStart _ | .btChunkLanded _ _ | .btRecordComplete _ |
    .btRecordFault _ | .btOperationComplete _ | .sequencerStart _ _ | .matrixStep _ _ _ |
    .matrixOpComplete _ _ | .rampupDone _ _ | .rampdownStart _ _ | .rampdownDone _ _ | .ruAdmit
    _ | .ruCombine _ _ | .ruApply _ | .ropComplete _ | .roprResult _ | .rdefComplete _ |
    .requestAdmission _ | .sliceRequestAdmit _ _ | .requestRetry _ | .memoryReply _ |
    .channelAccess _ _ _ | .hrowWindowEnd _ | .hrowHoldEnd _ _ _ | .patrolRead _ _ _ |
    .cxlTimeout _ | .linkTimeout _ | .flashEraseComplete _ | .fenceComplete _ _ |
    .tlbinvComplete _ _ | .waitaSatisfied _ _ | .watchdog _ _ | .debugHoldTimeout |
    .l1FusionChange _ | .flr _ | .flrComplete _ | .coldReset _ | .recoveryImage _ |
    .thermalThrottle _ | .thermalStop | .bridgeFailure | .linkUp _ _ | .linkDown _ |
    .peerRequest _ _ _ _ _ | .hostMemoryAccess _ _ _ _ | .ideIntegrityFailure _ | .qkickWrite _ _ _ | .qkickLowWrite _ _ _ | .qkickHighWrite _ _ _ | .sentryWrite _ _ | .scfgWrite _ _ |
    .vfEnableSet | .vfEnableClear | .msixUnmask _ _ | .frozenSetWrite _ _ _ | .registerWrite _ _ _ _ | .lockInterfaceRequest _ _ _ | .startInterfaceRequest _ | .stopInterfaceRequest _ |
    .getDeviceInterfaceReport _ | .rootCtxNew _ | .rootCtxRun _ _ | .rootCtxStop _ _ _ |
    .rootCtxGrant _ _ | .rootCtxRevoke _ _ | .rootCtxKill _ | .rootCtxStat _ | .trapretCommand _
    _ _ | .writePtroot _ | .writeBufferEntry _ _ | .writePartitionRecord _ _ | .eraseFlashBlocks
    _ _ | .writeHrowCtl _ _ | .setSaveRegionSize _ | .readErrorCounts _ | .promote |
    .getAttestationReport | .writeIngressEntry _ | .attach _ | .detach _ | .halt _ | .resume _ |
    .step _ | .restart _ | .rdreg _ | .wrreg _ | .rdmem _ | .wrmem _ | .event _ | .illegalWord _
    | .spdmAttestationRequest => true

/-- A register operand obeys R51 apart from the declared count: aligned, v where v is asked, no
last-use bit on an s register. -/
def RUse.ok (u : RUse) : Bool :=
  u.reg % u.al == 0 && (!u.v || u.reg < 96) && (!u.last || u.reg < 96) && u.reg + u.n ≤ 128

/-- A predicate index names p0 to p11 or is 15 (R53). -/
def predOk (p : BitVec 4) : Bool := p.toNat ≤ 11 || p == 15

/-- The instruction's encoding is legal as far as it stands alone. -/
def Instr.wf (i : Instr) : Bool :=
  i.fieldsOk && i.preds.all predOk && i.uses.all RUse.ok

end Sys2Proof
end

