-- ==== Sys2Proof/Machine/State.lean ====
section
/-! DEFINITION. The state of one E8 device as plain data, the reasons a step can stop, and the state
after cold reset. Every record cites the rules of spec/ that give the machine that state. Times are
counts of the arithmetic clock (R8) unless a field says reference ticks. Fields named as the model's
own schedule the asynchronous device and hold free-value counters (notes/assumptions/2.md). -/

namespace Sys2Proof.Machine

/-- Why a step stops without a next state. -/
inductive Fault where
  /-- Raised by an event that names memory the spec says does not exist: a channel above 255, an
  address above a channel's 1.5 GiB, a flash page above 2^30 (R422, R426). Safe: the event cannot occur. -/
  | noSuchAddress
deriving DecidableEq, Repr

/-- Why an instruction has no meaning. -/
inductive Refusal where
  /-- Raised by an arm of `exec` whose meaning has not been written. Safe: nothing can be proved of it. -/
  | notModelled (mnemonic : String)
deriving DecidableEq, Repr

/-- The service the device offers (R449, R451, R452). -/
inductive Service where
  | recovery | chrysalis | full
deriving DecidableEq, Repr

/-- Trap causes (Table 18-1). -/
inductive Cause where
  | illegalOp | illegalPfx | privileged | misaligned | deadRead | unsettledRead | regionFull
  | reentryLimit | pageFault | protection | bounds | tileOob | peerAbsent | multiDeny | ruNocache
  | ruFault | ruUndefined | btFault | barrierMismatch | breakpoint | software | uncorrectable
  | ctxBudget | tileSplit | watchdog
deriving DecidableEq, Repr

/-- The trap code of a cause (Table 18-1). -/
def Cause.code : Cause → Nat
  | .illegalOp => 0x01 | .illegalPfx => 0x02 | .privileged => 0x03 | .misaligned => 0x04
  | .deadRead => 0x05 | .unsettledRead => 0x06 | .regionFull => 0x07 | .reentryLimit => 0x08
  | .pageFault => 0x09 | .protection => 0x0A | .bounds => 0x0B | .tileOob => 0x0C
  | .peerAbsent => 0x0D | .multiDeny => 0x0E | .ruNocache => 0x0F | .ruFault => 0x10
  | .ruUndefined => 0x11 | .btFault => 0x12 | .barrierMismatch => 0x13 | .breakpoint => 0x14
  | .software => 0x15 | .uncorrectable => 0x16 | .ctxBudget => 0x17 | .tileSplit => 0x18
  | .watchdog => 0x19

/-- The prefixing words collected for the unit in progress (R148); `bad` records a reserved value in
one of them, judged at R155 step 5. -/
structure Pfx where
  guard : Option GDF := none
  block : Option BLF := none
  mod : Option MDF := none
  mxsc : Option MSC := none
  imm : Option (BitVec 25) := none
  bad : Bool := false
deriving DecidableEq, Repr

/-- Guard state of a thread: predicate index, negation and units remaining (R149). -/
structure GuardSt where
  idx : BitVec 4
  neg : Bool
  left : Nat
  /-- The lane is in Active: the predicate was read once, when the GUARD's unit issued. -/
  on : Bool := true
deriving DecidableEq, Repr

/-- What an instruction that cannot issue yet waits for (R36). -/
inductive Wait where
  /-- A record of n bytes that its thread cannot read yet: an access of its own that comes first, tokens, or a permit (R102,
  R272, R414, R432). -/
  | record (tid : Nat) (va : DWord) (n : Nat)
  /-- Acquires of threads that are not performed (R102). -/
  | acquire (tids : List Nat)
  /-- Room in a block-transfer channel and on cnt.bt (R60, R287). -/
  | channel (ch : Nat)
  /-- A completion counter that stands at 65,535 (R60). -/
  | counter (cls : Nat)
  /-- An entry of a launch queue (R400). -/
  | queue (q : Nat)
  /-- A remote opcode slot that an RDEF is changing (R266). -/
  | slot (n : Nat)
  /-- A tile that earlier work of the group is using (R88, R237). -/
  | tile (acc : Nat)
  /-- A place in the matrix queue (R236). -/
  | sequencer
  /-- Scratchpad accesses of threads that come before an AST or an ALD (R102, R104). -/
  | pad (wr : Bool) (tids : List Nat)
  /-- Chunks of the region store buffer for more bytes (R120). -/
  | bytes (n : Nat)
deriving DecidableEq, Repr

/-- What a parked thread waits for (chapter 2 "Issue groups", R42, R219 to R226). -/
inductive Park where
  /-- A full engine queue, counter, slot or store buffer (R36, R60, R120, R236, R287, R400, R266). -/
  | resource (w : Wait)
  | bar (id gen : Nat)
  | barPe (gen : Nat)
  | barw (id gen : Nat)
  | cbar (gen : Nat)
  | jwait (k : Nat)
  | wait (cls n : Nat) (acq : Bool)
  /-- WAITA on a word: condition, comparand, address, the clk left before WATCHDOG and its full timeout, and the PC of its
  unit (R127, R221). -/
  | waita (ne : Bool) (val : Word) (va : DWord) (left full : Option Nat) (upc : DWord)
  /-- FENCE: its order and scope, for requests and results numbered below `upto`; .sc holds a ticket (R103, R219). -/
  | fence (upto ord scope : Nat) (ticket : Option Nat)
  /-- TLBINV of a kind and operand, for requests below `upto` (R366). -/
  | tlbinv (kind : Nat) (x : DWord) (upto : Nat)
  /-- MMA until its operation's last tile write (R244). -/
  | mma (op : Nat)
  /-- AMH until earlier messages of the entry have started (R307). -/
  | amh (h upto count : Nat) (code : DWord)
  /-- TRAPRET until the stores that it released are performed: whether the grid is to end, and the resume address (R117,
  R383). -/
  | trapret (fin : Bool) (pc : DWord)
deriving DecidableEq, Repr

/-- Who makes an access, as scope instances see it (Table 5-3): a thread with its block and core. An engine's
operation counts as the thread that issued it (R95); the device itself is group 0. -/
structure Agent where
  gid : Nat := 0
  tid : Nat := 0
  bid : Nat := 0
  core : Nat := 0
  /-- The host, or a peer device: a member of .sys alone. -/
  outside : Bool := false
deriving DecidableEq, Repr

/-- A release event (R101): its scope, who made it, and the writes that happen before it: every write numbered
below `base`, and those listed. -/
structure Rel where
  scope : Nat
  who : Agent
  base : Nat := 0
  hb : List Nat := []
deriving DecidableEq, Repr

/-- What a thread knows at a point of its program (R99 to R103): writes numbered below `base` and those of `hb` happen
before the point; `rd` are writes that it has read, `low` writes that .sc fences hide older ones behind, `eff` effects of
engines that a release covers without binding the thread's own loads (R109), `fences` its release fences: the number and the
scope of each. -/
structure Known where
  base : Nat := 0
  hb : List Nat := []
  rd : List Nat := []
  low : List Nat := []
  eff : List Nat := []
  fences : List (Nat × Nat) := []
deriving DecidableEq, Repr

/-- What a thread has come to know, each part with the number of the event of its program that brought it. -/
abbrev View := List (Nat × Known)

/-- A write in coherence order that a load may still miss (R91, R99): its bytes' place in a buffer or in a block's
scratchpad, the bytes it replaced, its writer, the engine operation that made it, the releases that it carries for its
release sequence (R101), and each context's run time when it was performed. -/
structure Wr where
  id : Nat
  blk : Option Nat := none
  b : Nat
  off : Nat
  old : List Byte
  who : Agent := {}
  op : Nat := 0
  /-- An observer sees all writes of its operation or none (R278). -/
  whole : Bool := false
  rels : List Rel := []
  /-- What happens before it (R102). -/
  pre : Known := {}
  ran : List (Nat × Nat) := []
deriving DecidableEq, Repr

/-- A store held in a region (R106, R119), translated and checked when it executed. -/
structure BStore where
  glob : Bool
  cxid : Nat
  va : DWord
  b : Nat
  off : Nat
  owner : Nat
  /-- Contexts whose frames its translation opens to its context (R371). -/
  opens : List Nat := []
  /-- Target block of a scratchpad store. -/
  blk : Nat
  size : Nat
  data : BitVec 128
  ord : Nat
  scope : Nat
  pol : Nat
  /-- The execution that made it, shared by its lanes (R98). -/
  inst : Nat
  /-- The PC of the unit that made it, for the record of a late trap (R448). -/
  fpc : DWord := 0
deriving DecidableEq, Repr

/-- Tile words that an AREAD still waits to read: block, core half, tile, row and first column (R237). -/
structure TileRef where
  bid : Nat
  half : Nat
  t : Nat
  row : Nat
  col : Nat
deriving DecidableEq, Repr

/-- A long-latency result in flight to a thread (R42, R43). `dsts` are register numbers, `none` where
a younger write has cancelled the landing; `words` arrive from replies. -/
structure Pend where
  id : Nat
  dsts : List (Option Nat)
  words : List (Option Word)
  /-- Trap cause of a reply that failed (R395, R448), and the unit's addresses for its record. -/
  bad : Option Cause := none
  fpc : DWord := 0
  faddr : DWord := 0
  tile : Option TileRef := none
  /-- It comes from a load or an atomic, whose results an acquire fence waits for (R219). -/
  mem : Bool := false
  /-- It is the status of an operation of the context engine: until it has landed its group stays on its core (R344). -/
  eng : Bool := false
deriving DecidableEq, Repr

/-- One thread (R50, R115, R121, R149). -/
structure Thread where
  pc : DWord
  rpc : DWord
  lr : DWord := 0
  p : BitVec 12 := 0
  /-- Mapped v registers (R55). -/
  v : List (Nat × Word) := []
  /-- Registers awaiting a last-use free (R44). -/
  dead : List Nat := []
  guard : Option GuardSt := none
  /-- The guard state at the region's entry, which a re-entry restores (R128, R149). -/
  rguard : Option GuardSt := none
  park : Option Park := none
  /-- A settle in progress: results of the thread numbered below this have to land (R42). -/
  settle : Option Nat := none
  stopped : Bool := false
  exited : Bool := false
  stores : List BStore := []
  /-- Stores executed in the open region (R119). -/
  nst : Nat := 0
  /-- Operations numbered from here on belong to the open region (R125). -/
  rid : Nat := 0
  ord : Nat := 0
  skip : Nat := 0
  /-- Its region has been discarded, and it has not re-entered it yet (R121, R126). -/
  redo : Bool := false
  pend : List Pend := []
  /-- Registers with a landed long-latency result that no settle has covered: the result's number, and whether it is that of a
  load or an atomic (R42, R219). -/
  unsettled : List (Nat × Nat × Bool) := []
  /-- Registers whose stored word has had a detected error and has not been rewritten since (Table 6-2). -/
  sus : List Nat := []
  /-- What the thread may not miss of other threads' writes (R99). -/
  view : View := []
  /-- Registers of A and its exponents that the partition's latch keeps for the thread, while none is written (R241). -/
  kept : List Nat := []
  /-- BARA arrivals not yet matched by BARW: barrier id and generation (R222, R223). -/
  bara : List (Nat × Nat) := []
  /-- Clk the thread has been ready without issuing, while its context runs (R38). -/
  waited : Nat := 0
  /-- When the thread's path became starved (R38). -/
  starved : Option Nat := none
deriving DecidableEq, Repr

/-- What a group is (R23, R48, R337, R382). -/
inductive GKind where
  | block
  | supervisor
  | handler (msg : Nat)
  | trapHandler (rec : Nat)
deriving DecidableEq, Repr

/-- Where a trap's source waits, for the engine accesses that resume at TRAPRET (R298, R312, R377). -/
inductive TrapSrc where
  | threads
  | none
  | bt (op : Nat)
  | queue (cxid q : Nat)
  | grid (gr : Nat)
  /-- A remote update, whose ROP is not complete before its record is accepted (R381). -/
  | ru (id : Nat)
deriving DecidableEq, Repr

/-- A trap: its record fields (Table 18-2) and what it stopped. -/
structure Trap where
  id : Nat
  cause : Cause
  /-- Context in which the trap arose (R363). -/
  cxid : Nat
  async : Bool := false
  cocoon : Bool := false
  fatal : Bool := false
  core : Nat := 0
  part : Nat := 0
  grp : Nat := 0
  eng : Bool := false
  walk : Bool := false
  fetch : Bool := false
  wr : Bool := false
  instar : Nat := 0
  rpc : DWord := 0
  fpc : DWord := 0
  faddr : DWord := 0
  lmask : DWord := 0
  blk : Nat := 0
  detail : Nat := 0
  gid : Nat := 0
  gr : Nat := 0
  /-- It arose in a trap handler group (R354). -/
  inHandler : Bool := false
  /-- The context in which it arose and its ancestors, with their trap masks of that moment (R355). -/
  chain : List (Nat × BitVec 32) := []
  src : TrapSrc := .threads
deriving DecidableEq, Repr

/-- Why a group is held in a cocoon frame (R122, R376). -/
inductive HoldWhy where
  /-- A page fault, by its trap: the walk is made again once the trap's binding is released (R376). -/
  | pageFault (tr : Trap)
  /-- Stopped by the debugger; re-entered once it resumes the group (R397). -/
  | debugger (resumed : Bool)
deriving DecidableEq, Repr

/-- A group on its way into, or held in, a cocoon frame (R385, R386). -/
structure Hold where
  why : HoldWhy
  saved : Bool
deriving DecidableEq, Repr

/-- One operation counted on a completion counter, in issue order (R60). -/
structure GOp where
  id : Nat
  cls : Nat
  done : Bool
  /-- Writes that the operation performed, known once it is complete (R109). -/
  eff : List Nat := []
deriving DecidableEq, Repr

/-- What the reuse latch of a partition keeps of a group's A: first register, storage bits and kind of its type, k-groups
and the scale source, a register and a byte or none (R241). -/
structure Latch where
  a : Nat
  ty : Nat
  kgc : Nat
  sc : Option (Nat × Nat)
  /-- Threads whose registers it captured. -/
  tids : List Nat := []
deriving DecidableEq, Repr

/-- A group (R23, R24, R50). -/
structure Group where
  gid : Nat
  cxid : Nat
  gr : Nat
  bid : Nat
  /-- Index in the block, sr.grp. -/
  g : Nat
  kind : GKind
  core : Nat
  part : Nat
  slot : Nat
  base : Nat
  width : Nat
  nregs : Nat
  threads : List Thread
  /-- Written s registers (R50); a block group starts with all 32. -/
  sreg : List (Nat × Word) := []
  m : List DWord := [0, 0, 0, 0, 0, 0, 0, 0]
  ms0 : BitVec 128 := 0
  ms1 : BitVec 128 := 0
  ops : List GOp := []
  /-- Writes of retired operations by class, which a WAIT of the class brings into view (R109). -/
  effs : List (Nat × List Nat) := []
  instar : Nat := 0
  remask : DWord := 0
  /-- The most bytes of buffered stores since the group last held no chunk (R120). -/
  held : Nat := 0
  /-- BTX.STAT cause per channel (R303). -/
  btc : List Nat := [0, 0, 0, 0]
  hold : Option Hold := none
  /-- Set by run control 11 until the partition's next arbitration round (R36). -/
  yielded : Bool := false
  /-- Dispatch order of the block, the group's age (R37). -/
  born : Nat := 0
  /-- The fairness period as it stood when the group's last run began (R340). -/
  fper : Nat := 1024
  /-- s registers whose stored word has had a detected error and has not been rewritten since (Table 6-2). -/
  sus : List Nat := []
  /-- What the partition's latch keeps of the group's A (R241). -/
  latch : Option Latch := none
deriving DecidableEq, Repr

/-- One barrier of a block or gang: generation, arrivals as (group, thread, the requests it must
cover), and the live-table index given to BAR.PE (R222, R223). -/
structure BarSt where
  id : Nat
  gen : Nat
  arrived : List (Nat × Nat × Nat)
  idx : Option Nat := none
  /-- What the arrivals of the last complete generation released (R105). -/
  seen : Rel := { scope := 1, who := {} }
deriving DecidableEq, Repr

/-- A pending pre-emption of a block, with the clk at which a graceful one becomes urgent (R387, R389). -/
structure Pre where
  urgent : Bool
  deadline : Option Nat
deriving DecidableEq, Repr

/-- A word of an accumulator tile: core half, tile, row, column (R58). -/
structure TileWord where
  half : Nat
  t : Nat
  row : Nat
  col : Nat
  w : Word
deriving DecidableEq, Repr

/-- A block: placed on a core, or saved by pre-emption (R23 to R31, R58, R389). -/
structure Block where
  bid : Nat
  gr : Nat
  cxid : Nat
  lin : Nat
  core : Nat
  paired : Bool
  /-- Gang number in the grid and rank; rank 0 without gangs (R30). -/
  gang : Nat
  rank : Nat
  smem : Nat
  acc : Nat
  /-- Scratchpad bytes that are not zero (R28, R86). -/
  pad : List Host.Cell := []
  /-- Tile words that are not zero (R58). -/
  tiles : List TileWord := []
  /-- Tile modes that are not FP32: (half, tile, mode). -/
  modes : List (Nat × Nat × Nat) := []
  bars : List BarSt := []
  pre : Option Pre := none
  /-- The live-table entry read when a BAR.PE completed under a graceful request: the block drains and is saved by it (R224,
  R388). -/
  pe : Option (List Word) := none
  /-- Its save found the save region full: it runs on until a block retires in the device (R389). -/
  full : Bool := false
  /-- Scratchpad words, by number, that have had a detected error and have not been rewritten since (Table 6-2). -/
  sus : List Nat := []
  /-- Groups of a block that has been saved and is not placed (R389). -/
  saved : Option (List Group) := none
deriving DecidableEq, Repr

/-- A grid that has left its queue (R406), by its captured launch record (R311). -/
structure Grid where
  gr : Nat
  cxid : Nat
  lrec : List Word
  q : Nat
  leftAt : Nat
  /-- The next number when its first block was placed: writes before it are seen (R89, R198). -/
  first : Nat := 0
  /-- What its threads may not miss: what its launch released, and its dependence word (R107, R113). -/
  seen : Known := {}
  /-- Next linear block index to place (R25). -/
  next : Nat := 0
  sup : Bool := false
  /-- The ending cause and whether the end has taken effect (R384). -/
  ending : Option Nat := none
  ended : Bool := false
  /-- Status code of a record rejected at dispatch (R314). -/
  reject : Nat := 0
  nofuse : Bool := false
  /-- Completion steps taken: 0 none, 1 status word settled, 2 completion word settled (R315). -/
  phase : Nat := 0
  /-- Barrier states of gangs: gang number with its cluster barrier (R225). -/
  cbars : List (Nat × BarSt) := []
  /-- An engine access of the grid waits for a pager (R312, R315). -/
  waits : Bool := false
deriving DecidableEq, Repr

/-- A queue entry: a captured launch record or a host list (R400). -/
inductive QEntry where
  /-- With the launching threads of a group, and what the LAUNCH releases: their requests numbered below `upto`, and what they
  knew (R107). -/
  | captured (r : List Word) (gid upto : Nat) (tids : List Nat) (rel : Rel) (waits : Bool)
  /-- The record read at the head of a chain, if one was, and the address of the next (R405). -/
  | host (cap : Option (List Word)) (next : DWord) (waits : Bool)
deriving DecidableEq, Repr

/-- Context states (Table 16-8). -/
inductive CtxState where
  | created | running | stopping | stopped | killed
deriving DecidableEq, Repr

/-- A context (R334 to R358, R400 to R417). Core sets and run sets are 192-bit masks. -/
structure Ctx where
  cxid : Nat
  parent : Nat
  level : Nat
  state : CtxState
  sdbg : Bool := false
  nq : Nat := 0
  cores : BitVec 192 := 0
  fbud : Nat := 0
  cxbud : Nat := 0
  qbud : Nat := 0
  wmask : BitVec 16 := 0
  trate : Nat := 0
  tburst : Nat := 0
  dmask : BitVec 32 := 0
  ptroot : DWord := 0
  tvec : DWord := 0
  sentry : DWord := 0
  sgw : Nat := 0
  src8 : Nat := 0
  /-- CTX_CTL fper (R340). -/
  fper : Nat := 3
  rulogBase : DWord := 0
  rulogSeq : Word := 0
  /-- Clk that the context has run (R91). -/
  ran : Nat := 0
  /-- Words that its threads' freed registers held, which an unpredictable value may repeat (R4). -/
  left : List Word := []
  /-- Run set in force, and cores being vacated with what remains to be saved (R347). -/
  runset : BitVec 192 := 0
  vacating : BitVec 192 := 0
  /-- Cores that revocations are vacating (R343, R351). -/
  revoking : BitVec 192 := 0
  /-- Slice clk left, its end kind and deadline (R347). -/
  slice : Option Nat := none
  sliceUrgent : Bool := false
  deadline : Nat := 0
  /-- Stopped by an ancestor's stop (R349). -/
  byAncestor : Bool := false
  /-- It stops because a revocation has emptied its core set (R351, R358). -/
  byRevoke : Bool := false
  /-- A revocation's vacate or way sweep is unfinished (R351, R417). -/
  pendVacate : Bool := false
  sweepWays : BitVec 16 := 0
  /-- The sweep waits for the remote updates numbered below this (R275). -/
  sweepUpto : Nat := 0
  queues : List (Nat × List QEntry) := []
  pendBits : DWord := 0
  /-- Remote opcode slots: slot and the 64 words of its record (R253). -/
  rops : List (Nat × List Word) := []
  /-- Active-message handler table: entry, register count, code address (R307). -/
  handlers : List (Nat × Nat × DWord) := []
  /-- Token bucket in 1/64 tokens (R413). -/
  tokens : Nat := 0
  /-- Next trap record number (R381). -/
  trapSeq : Nat := 0
  /-- VF the context is bound to (R412). -/
  vf : Option Nat := none
  /-- A supervisor start is wanted (R337). -/
  wantSup : Bool := false
deriving DecidableEq, Repr

/-- A delivered trap record: its receiver, number and binding (R381, R382). -/
structure TrapRec where
  trap : Trap
  dest : Nat
  seq : Nat
  ring : DWord
  /-- The bound handler group once started. -/
  bound : Option Nat := none
  pc : DWord := 0
  act : Word := 0
deriving DecidableEq, Repr

/-- What a memory request does at the point of coherence (R99, R100). -/
inductive ReqKind where
  | load
  | store
  /-- Read-modify-write by the operation codes of `rmwNew`. -/
  | rmw (op : Nat) (b c : DWord)
deriving DecidableEq, Repr

/-- Progress of a request (R414, R432 to R434, R425). -/
inductive ReqStage where
  | waiting
  | sent
  | refused (since hint : Nat)
  /-- At an HBM channel, a flash controller, a CXL port or a link port. -/
  | chan
  | port
  | done
deriving DecidableEq, Repr

/-- A request of a thread for at most 8 bytes, or a copy's access (R84, R414). -/
structure Req where
  id : Nat
  cxid : Nat
  gid : Nat
  tid : Nat
  core : Nat
  kind : ReqKind
  va : DWord
  b : Nat
  off : Nat
  owner : Nat
  size : Nat
  data : DWord := 0
  ord : Nat := 0
  scope : Nat := 4
  pol : Nat := 0
  stage : ReqStage := .waiting
  refusals : Nat := 0
  admittedAt : Nat := 0
  /-- Admitted and performed at its place in coherence order. -/
  performed : Bool := false
  ticket : Option Nat := none
  /-- Destination index of a multicast store: its writes are performed in that order (R218). -/
  sub : Nat := 0
  /-- How many of the newest writes the load misses, where it may (R91, R99). -/
  age : Nat := 0
  /-- Its number in the order of arrivals at its home slice, once it has arrived (R277). -/
  arrived : Nat := 0
  /-- A load's bytes taken from the thread's own buffered stores, as a byte mask over `data` (R106). -/
  fwd : Nat := 0
  /-- Result: value and failure. -/
  val : DWord := 0
  bad : Option Cause := none
  /-- Destination: pending result and first word in it. -/
  pend : Nat := 0
  word : Nat := 0
  /-- The execution that made it (R98), and the block of a scratchpad access. -/
  inst : Nat := 0
  blk : Option Nat := none
  /-- The unit's addresses, for the record of a late trap. -/
  fpc : DWord := 0
  /-- Contexts whose frames its translation opens to its context (R371). -/
  opens : List Nat := []
  /-- Its bytes stand in the region store buffer until it is performed (R120). -/
  buffered : Bool := false
deriving DecidableEq, Repr

/-- The operations of the context engine (Table 16-7a). -/
inductive CtxKind where
  | new | run | stop | grant | revoke | kill | stat
deriving DecidableEq, Repr

/-- An operation on its way to the context engine: the lanes that await its status, in pending results numbered from `id`,
the child word, the words captured from its record, or its stop word, and the place of its image (R342, R344). -/
structure CtxReq where
  id : Nat
  gid : Nat
  tids : List Nat
  cxid : Nat
  core : Nat
  kind : CtxKind
  child : Nat := 0
  w : List Word := []
  va : DWord := 0
  fpc : DWord := 0
deriving DecidableEq, Repr

/-- A remote update request (R268 to R285). -/
structure RuReq where
  id : Nat
  cxid : Nat
  gid : Nat
  tid : Nat
  core : Nat
  part : Nat
  grp : Nat
  lane : Nat
  slot : Nat
  /-- The definition its slot held at issue (R266). -/
  defn : List Word
  va : DWord
  b : Nat
  off : Nat
  pay : List Word
  /-- ROPR with its pending result, or ROP counted under an operation. -/
  ropr : Bool
  pend : Nat
  op : Nat
  ord : Nat
  scope : Nat
  /-- It has its tokens and its permit, and is on its way (R414, R432). -/
  sent : Bool := false
  /-- Refused by its home with a wait hint: when, the hint, and how often (R433). -/
  refused : Option (Nat × Nat) := none
  refusals : Nat := 0
  admitted : Bool := false
  /-- Admission order at its home unit (R276). -/
  at_ : Nat := 0
  applied : Bool := false
  fmask : Nat := 0
  cause : Nat := 0
  wr : Bool := false
  /-- Data words returned (R270). -/
  out : List Word := []
  /-- Buffer places of the granule's lines: as they translate at issue, then as the home unit finds them; none where
  faulted (R272, R281). -/
  lines : List (Option (Nat × Nat)) := []
  /-- Contexts whose frames the translations of its lines open to its context (R371). -/
  opens : List (List Nat) := []
  /-- The request it was merged into, and the payload of the requests merged here (R263). -/
  into : Option Nat := none
  acc : Option (List Word) := none
  /-- Ticket of a .sc request (R279). -/
  ticket : Option Nat := none
  /-- When it was admitted, in units of `ref252` (R448). -/
  admittedAt : Nat := 0
  /-- Its group was stopped without save: its faults are not logged (R285). -/
  quiet : Bool := false
  /-- It came over a device link (R447). -/
  outside : Bool := false
deriving DecidableEq, Repr

/-- An RDEF between reading its record and completing (R266). -/
structure RdefOp where
  id : Nat
  cxid : Nat
  gid : Nat
  slot : Nat
  defn : List Word
  status : Word
  /-- Threads and pending results that receive the status. -/
  dst : List (Nat × Nat)
deriving DecidableEq, Repr

/-- A transfer record in progress (R288 to R297). -/
structure BtRec where
  addr : DWord
  w : List Word
  shape : List Word := []
  extent : Nat
  /-- Chunks landed so far. -/
  landed : List Nat := []
  /-- Writes of at most 128 bytes performed ahead of the landing of their chunk: the chunk, and the place of the write in it
(R300). -/
  pieces : List (Nat × Nat) := []
  /-- Aligned 8-byte units of the source read so far, with their contents (R299), and page index entries: page and entry
(R294). -/
  units : List (DWord × DWord) := []
  ents : List (Nat × DWord) := []
  /-- Tokens that chunks which have not landed have paid (R414). -/
  paid : List (Nat × Nat) := []
  /-- Every page of its destination and completion word has been found in a space that R291 allows. -/
  checked : Bool := false
deriving DecidableEq, Repr

/-- A block-transfer operation (R287). -/
structure BtOp where
  id : Nat
  gid : Nat
  cxid : Nat
  bid : Nat
  core : Nat
  ch : Nat
  /-- The threads that issued it. -/
  tids : List Nat := []
  /-- Next record of the chain; TCOPY carries its record itself. -/
  ptr : DWord
  tcopy : Option (List Word) := none
  started : Bool := false
  cur : Option BtRec := none
  /-- The failed check that stops the chain (R298). -/
  fault : Option Nat := none
  faddr : DWord := 0
  /-- The access that failed writes. -/
  fwr : Bool := false
  stop : Bool := false
  /-- Held for a block save (R300), or waiting for a pager (R298). -/
  held : Bool := false
  waits : Bool := false
deriving DecidableEq, Repr

/-- An accepted matrix operation with its captured operands (R236, R246). -/
structure MxOp where
  id : Nat
  gid : Nat
  cxid : Nat
  bid : Nat
  core : Nat
  part : Nat
  half : Nat
  acc : Nat
  pairing : Nat
  kg : Nat
  /-- Threads and the words of A they captured, then their exponent bytes by k-group. -/
  a : List (Nat × List Word)
  ea : List (Nat × List Nat)
  ms : BitVec 128
  mma : Bool
  /-- Scratchpad bytes, with their threads, of the group's stores that precede the instruction and are not performed
  (R237). -/
  ovl : List (Nat × Host.Cell) := []
  /-- The PC of the unit, for the record of an error (R240). -/
  fpc : DWord := 0
  started : Bool := false
  next : Nat := 0
  /-- When it began, or its last step was written (R252). -/
  at_ : Nat := 0
deriving DecidableEq, Repr

/-- The power ramp of a brick array (Table 10-1); unlisted arrays are COLD. -/
inductive RampSt where
  | cold | rampUp | hot | rampDown
deriving DecidableEq, Repr

/-- Ramp state, when it was entered, clk the ramp-up takes, and the MBURST window's end (R242, R251). -/
structure Ramp where
  core : Nat
  part : Nat
  st : RampSt
  since : Nat
  upFor : Nat
  window : Nat
deriving DecidableEq, Repr

/-- Where a message stands (R309); at first its instruction waits at issue for a permit (R432). -/
inductive MsgSt where
  | issue
  | fabric
  | queued
  | running (gid : Nat)
  /-- Complete for its AMSG, while its handler group still has work in engines and units (R113). -/
  | left (gid : Nat)
  | finished
deriving DecidableEq, Repr

/-- An active message (R308, R309). -/
structure Msg where
  id : Nat
  cxid : Nat
  /-- Sending group and grid, and its operation on cnt.am. -/
  gid : Nat
  gr : Nat
  op : Nat
  core : Nat
  h : Nat
  pay : List Word
  sender : Word
  st : MsgSt := .issue
  at_ : Nat := 0
  /-- The sending thread, whose messages to one core start in issue order. -/
  tid : Nat
  /-- Writes of its handler group, once that has finished (R109). -/
  eff : List Nat := []
deriving DecidableEq, Repr

/-- Frame states (Table 17-9). -/
inductive FrameSt where
  | owned | freed | scrubbing | clean
deriving DecidableEq, Repr

/-- A frame ownership entry (Table 17-9); unlisted frames are CLEAN and owned by the root (R370).
`order` is the order in which frames became FREED, `before` the requests they wait for (R373). -/
structure Frame where
  b : Nat
  f : Nat
  st : FrameSt
  owner : Nat
  next : Nat := 0
  order : Nat := 0
  before : Nat := 0
deriving DecidableEq, Repr

/-- Buffer kinds (Table 17-8). -/
inductive BufKind where
  | hbm | cxl | flash | peer
deriving DecidableEq, Repr

/-- A buffer-table entry (Table 17-8). -/
structure Buf where
  idx : Nat
  kind : BufKind
  /-- Rights ceiling r, w, x. -/
  r : Bool
  w : Bool
  x : Bool
  gcode : Nat
  size : Nat
  base : Nat
  port : Nat
  bown : Nat
  /-- Channels of chmask in ascending order. -/
  chans : List Nat
deriving DecidableEq, Repr

/-- One hop of a composed walk: context, address in it, leaf size, dsc (R362). -/
structure Hop where
  cxid : Nat
  va : Nat
  size : Nat
  dsc : Bool
deriving DecidableEq, Repr

/-- A composed translation of a page (R362, R364). -/
structure XEnt where
  cxid : Nat
  page : Nat
  size : Nat
  b : Nat
  off : Nat
  r : Bool
  w : Bool
  x : Bool
  hops : List Hop
  /-- Every leaf that its walk used, those of table reads among them (R365), and the places of the entries it read in tables
  that a parent maps (R362). -/
  via : List Hop := []
  reads : List (Nat × Nat) := []
  /-- The owner CXID that tags the lines of the frame (R372). -/
  owner : Nat
deriving DecidableEq, Repr

/-- A cached non-leaf entry of a walk of a context: its address, its word, and the leaves that reading it used (R364). -/
structure WalkEnt where
  cxid : Nat
  va : Nat
  e : Nat
  via : List Hop := []
deriving DecidableEq, Repr

/-- A lane's last-page register: context and page; it refers to the composed entry of the two (R364). Lanes are
numbered in the core. -/
structure LastPage where
  core : Nat
  lane : Nat
  cxid : Nat
  page : Nat
deriving DecidableEq, Repr

/-- A line in an L1, or in a fused cluster's L1 under its first core (R91 to R93). What a load may find in it is said by
the history of writes. -/
structure L1Copy where
  core : Nat
  tag : Nat
  b : Nat
  line : Nat
deriving DecidableEq, Repr

/-- A line held in an L2 slice (R92, R416). -/
structure L2Line where
  slice : Nat
  b : Nat
  line : Nat
  tag : Nat
  filler : Nat
  way : Nat
  dirty : Bool
deriving DecidableEq, Repr

/-- A write-back of an L2 line that covers a thread's stores numbered below `upto` (R212). -/
structure WriteBack where
  gid : Nat
  tid : Nat
  b : Nat
  line : Nat
  tag : Nat
  upto : Nat
  /-- CCTL.wbi: the line then goes. -/
  inv : Bool
deriving DecidableEq, Repr

/-- A hard partition (Table 19-5). -/
structure PartRec where
  i : Nat
  cxid : Nat := 0
  vfcnt : Nat := 0
  vfnq : Nat := 0
  vffirst : Nat := 0
  clus : BitVec 48 := 0
  slices : BitVec 128 := 0
  chans : BitVec 256 := 0
  cxlm : BitVec 2 := 0
  links : BitVec 16 := 0
  ugrp : BitVec 32 := 0
deriving DecidableEq, Repr

/-- TDISP states (Table 21-3). -/
inductive Tdi where
  | unlocked | locked | run | error
deriving DecidableEq, Repr

/-- A virtual function (R393, R412, R441 to R444). -/
structure Vf where
  n : Nat
  cxid : Option Nat := none
  /-- An FLR is in progress: the contexts it removed (R391). -/
  flr : Option (List Nat) := none
  tdi : Tdi := .unlocked
  stream : Nat := 0
  dbg : Bool := false
  /-- Frozen-set registers written, by offset (R442), and the set as captured at lock (R443). -/
  regs : List (Nat × Word) := []
  frozen : List (Nat × Word) := []
deriving DecidableEq, Repr

/-- A device-link port (R446). -/
structure Link where
  port : Nat
  verified : Bool
  up : Bool
deriving DecidableEq, Repr

/-- An ingress entry (Table 21-7). -/
structure Ingress where
  port : Nat
  idx : Nat
  r : Bool
  w : Bool
  x : Bool
  cxid : Nat
  b : Nat
deriving DecidableEq, Repr

/-- An MSI-X table entry: function, vector, mask and pending bit (R439). -/
structure Msix where
  fn : Nat
  vec : Nat
  masked : Bool
  pba : Bool
deriving DecidableEq, Repr

/-- What the fuses hold (R449, R450): hashes of the two keys that sign firmware, the rollback counter, and the secret that identity
keys derive from. -/
structure Fuses where
  ed : List Word := []
  mldsa : List Word := []
  rollback : Nat := 0
  secret : List Word := []
deriving DecidableEq, Repr

/-- An answer to a request from outside: over a device-link port, or to the host; a trap code, 0 for none, and data (R94, R447). -/
structure PortAns where
  port : Option Nat
  code : Nat := 0
  data : List Byte := []
deriving DecidableEq, Repr

/-- What the host reaches through the physical function, and what Monarch boots from (R438, R440, R449, R450). -/
structure HostIf where
  /-- Host-written words of the physical function's configuration space and of its SR-IOV capability, by offset (R438). -/
  bars : List (Nat × Word) := []
  sriov : List (Nat × Word) := []
  /-- Command area of the management mailbox by offset, and GO (R440). -/
  area : List (Nat × Word) := []
  go : Bool := false
  /-- The firmware image that runs. -/
  image : FwImage := {}
  fuses : Fuses := {}
  /-- The last answer to a request of a peer or the host (R447). -/
  ans : Option PortAns := none
deriving DecidableEq, Repr

/-- Kick state of one queue of a kick page: the low-half latch and the status bits (R402). Page 0 is the root's,
1 + i that of partition i, 32 + n that of VF n (R401). -/
structure KickQ where
  page : Nat
  q : Nat
  latch : Option Word := none
  bad : Bool := false
  ovf : Bool := false
deriving DecidableEq, Repr

/-- A flash erase block: write pointer, erasure in progress, erase count (R427, R428). -/
structure FlashBlk where
  blk : Nat
  wp : Nat
  erasing : Bool
  count : Nat
deriving DecidableEq, Repr

/-- Activations of a row by a tenant in the current window (R419). -/
structure RowCount where
  ch : Nat
  row : Nat
  tenant : Nat
  n : Nat
  /-- The window of 2^25 clk in which they were counted. -/
  win : Nat
  /-- The threshold at which a throttle event took place, if one did. -/
  fired : Nat := 0
deriving DecidableEq, Repr

/-- A tenant sub-queue held by a throttle event (R419). -/
structure RowHold where
  ch : Nat
  bank : Nat
  tenant : Nat
  til : Nat
deriving DecidableEq, Repr

/-- A debug attachment: target and trap mask (R397). -/
structure Attach where
  who : Option Nat
  cxid : Nat
  mask : BitVec 32
deriving DecidableEq, Repr

/-- A register command that waits for pending results (R398). -/
structure DbgHold where
  cmd : DbgCmd
  wr : Bool
  since : Nat
deriving DecidableEq, Repr

/-- The run in progress on a partition (R36), the unit in progress in it and the words it holds. -/
structure Run where
  core : Nat
  part : Nat
  gid : Nat
  tids : List Nat
  pfx : Pfx := {}
  /-- Words of the unit already taken, and words of the run. -/
  off : Nat := 0
  words : Nat := 0
  start : Nat := 0
  /-- Set by the debugger's STEP: the run ends after one unit (R397). -/
  single : Bool := false
  /-- How many of the newest writes to a word of code its next fetch misses, where it may (R198). -/
  age : Nat := 0
  /-- Strict-debug mode when the run began (R340). -/
  sdbg : Bool := false
deriving DecidableEq, Repr

/-- Where a soft error that strikes a group is detected (Tables 6-2 and 18-7): a v register of a thread, an s register, a word
of the block's scratchpad, a line of a buffer in its L1, a unit or path that holds no stored word, or its accumulator store. -/
inductive ErrSite where
  | vreg (tid r : Nat)
  | sreg (r : Nat)
  | pad (word : Nat)
  | l1 (b line : Nat)
  | path
  | tile
deriving DecidableEq, Repr

/-- What fails without striking a group (Table 18-7, R394): a sector of an L2 line, a flash page, what the save region holds
of a block, the context engine or one of its tables, or an atom in a CXL memory device. -/
inductive Failure where
  | sector (k i : Nat)
  | page (p : Nat)
  | saved (bid : Nat)
  | tables
  /-- A memory device behind a CXL port answers a request with poison (R430). -/
  | device (id : Nat)
deriving DecidableEq, Repr

/-- One entry of the model's own agenda: what happens next in the device (notes/assumptions/2.md). -/
inductive Turn where
  /-- An event of the opcode table takes place. -/
  | ev (i : Instr)
  /-- The run of a partition issues its next word. -/
  | issue (core part : Nat)
  /-- The arithmetic clock advances. -/
  | pass (n : Nat)
  /-- A soft error is detected in a group, at a place (R122, R394). -/
  | detect (gid : Nat) (site : ErrSite)
  /-- A part of the device fails (R394). -/
  | fail (what : Failure)
  /-- A load request misses the k newest writes to its bytes, and a partition's next fetch those to its word, as far as they
  may (R91, R99, R198). -/
  | missLoad (id k : Nat)
  | missFetch (core part k : Nat)
  /-- A cached line copy, composed translation or cached fill is dropped (R91, R364). -/
  | evictL1 (k : Nat)
  | evictTlb (k : Nat)
  /-- The non-leaf entries of a walk of an address by a context are kept (R364). -/
  | keepWalk (cx va : Nat)
  /-- The debug port tries its held register command again (R398). -/
  | held
  /-- A copy performs one write of at most 128 bytes ahead of the landing of its chunk (R300). -/
  | copy (op chunk piece : Nat)
  /-- The context engine performs an operation (R344). -/
  | context (op : Nat)
  /-- Monarch takes up the command in the mailbox (R440). -/
  | mailbox
  /-- A TRAPRET takes effect once its stores are performed (R117, R383). -/
  | trapret (gid tid : Nat)
deriving DecidableEq, Repr

/-- The state of the device. -/
structure State where
  clk : Nat
  /-- Time since cold reset in 1/252 of a reference tick of 0.8 ns (R8, R57). -/
  ref252 : Nat
  /-- Arithmetic clock in steps of 0.125 GHz: 10 is 1.25 GHz (R8, R453). -/
  freq : Nat
  service : Service
  ctxs : List Ctx
  grids : List Grid
  blocks : List Block
  groups : List Group
  runs : List Run
  /-- Partitions that a unit occupies: core, partition and the clk from which the next may issue (R193, R229). -/
  busy : List (Nat × Nat × Nat)
  /-- The partition whose run is issuing: the unit that exec executes. -/
  cur : Option (Nat × Nat)
  mem : List Host.Cell
  /-- Writes to memory and scratchpads that loads may still miss, newest first (R91, R99). -/
  hist : List Wr
  /-- Writes of threads that preceded an .sc fence (R103). -/
  scSeen : List Nat
  poison : List Nat
  bufs : List Buf
  frames : List Frame
  tlb : List XEnt
  /-- Cached non-leaf entries of walks (R364). -/
  walks : List WalkEnt
  lastPages : List LastPage
  l1 : List L1Copy
  l2 : List L2Line
  /-- Write-backs that wait for stores of their threads (R212). -/
  wbs : List WriteBack
  fused : List Nat
  reqs : List Req
  /-- Operations on their way to the context engine (R344). -/
  ctxops : List CtxReq
  rus : List RuReq
  rdefs : List RdefOp
  bts : List BtOp
  mxs : List MxOp
  ramps : List Ramp
  msgs : List Msg
  traps : List Trap
  recs : List TrapRec
  parts : List PartRec
  vfs : List Vf
  vfEnable : Bool
  /-- 0 was written to VF Enable and an FLR it started has not completed (R393). -/
  vfClearing : Bool
  links : List Link
  ingress : List Ingress
  msix : List Msix
  /-- Interrupt messages sent to the host, newest first: function and vector. -/
  irqs : List (Nat × Nat)
  kicks : List KickQ
  kerr : List Nat
  /-- Registers of the physical function, and what Monarch boots from (R438, R440, R449, R450). -/
  hostif : HostIf
  /-- The management mailbox's last answer: answer word, then data words (R440). -/
  answer : List Word
  /-- The last TDISP or attestation response over SPDM: 0, or 1 for an error response, then its words (R443, R450). -/
  spdm : List Word
  /-- Host-written words of MSI-X table entries: function, offset in BAR 0, value (R438). -/
  mmio : List (Nat × Nat × Word)
  flash : List FlashBlk
  /-- HROW_CTL per channel where it differs from reset: channel, thresh, hold (R419). -/
  hrow : List (Nat × Nat × Nat)
  rows : List RowCount
  holds : List RowHold
  saveBytes : Nat
  /-- A context has been created since cold reset (R385, command 0x0E). -/
  anyNew : Bool
  attach : List Attach
  /-- Trap records posted to the debugger, oldest first (R397). -/
  dbgEvents : List (List Word)
  dbgAnswer : List Word
  /-- Further answers of 32 bytes that carry the rest of a trap record (R397). -/
  dbgNext : List (List Word)
  dbgHold : Option DbgHold
  /-- Corrected and uncorrectable errors counted by Monarch, by structure (R395). -/
  errs : List (Nat × Nat × Nat)
  /-- Device errors and conditions Monarch has reported to the host (R389, R394, R430, R435, R453). -/
  reports : List Nat
  /-- Context the dispatcher of each die served last (R407). -/
  served : List Nat
  /-- Next ticket of the global sequencer (R103). -/
  ticket : Nat
  /-- Number of the next operation, request or record; the model's own. -/
  nextId : Nat
  /-- Counter of free values; the model's own. -/
  free : Nat
  /-- What happens next in the device; the model's own. -/
  agenda : List Turn
deriving DecidableEq, Repr

/-- The root context after cold reset: every core, way and budget of the device, running on the cores
of die 0 (R334, R451). Its budgets and queue count are the model's (notes/assumptions/5.md). -/
def rootCtx : Ctx where
  cxid := 0
  parent := 0
  level := 0
  state := .running
  nq := 64
  cores := BitVec.ofNat 192 (2 ^ 192 - 1)
  fbud := 2 ^ 32 - 1
  cxbud := 65535
  qbud := 65535
  wmask := 0xFFFF
  trate := 65535
  tburst := 65535
  runset := BitVec.ofNat 192 (2 ^ 96 - 1)
  tokens := 64 * 64 * 65535

/-- The device right after a cold reset whose firmware verified: chrysalis mode (R451, R452)
(DESIGN CHOICE, notes/assumptions/5.md). -/
def State.reset : State where
  clk := 0
  ref252 := 0
  freq := 5
  service := .chrysalis
  ctxs := [rootCtx]
  grids := []
  blocks := []
  groups := []
  runs := []
  busy := []
  cur := none
  mem := []
  hist := []
  scSeen := []
  poison := []
  bufs := []
  frames := []
  tlb := []
  walks := []
  lastPages := []
  l1 := []
  l2 := []
  wbs := []
  fused := []
  reqs := []
  ctxops := []
  rus := []
  rdefs := []
  bts := []
  mxs := []
  ramps := []
  msgs := []
  traps := []
  recs := []
  parts := []
  vfs := []
  vfEnable := false
  vfClearing := false
  links := []
  ingress := []
  msix := []
  irqs := []
  kicks := []
  kerr := []
  hostif := {}
  answer := []
  spdm := []
  mmio := []
  flash := []
  hrow := []
  rows := []
  holds := []
  saveBytes := 16 * 2 ^ 30
  anyNew := false
  attach := []
  dbgEvents := []
  dbgAnswer := []
  dbgNext := []
  dbgHold := none
  errs := []
  reports := []
  served := [0, 0]
  ticket := 0
  nextId := 1
  free := 0
  agenda := []

end Sys2Proof.Machine
end

