-- ==== Sys2Proof/Machine/Mem.lean ====
section
/-! DEFINITION. Memory as sorted cells in one canonical form: addresses strictly rising, no cell equal
to zero, which is what an unlisted address reads as (R28, R370, R373, R426). Scratchpad allocations use
the same form. Device addresses of the four buffer kinds lie in one number space. -/

namespace Sys2Proof.Machine

/-- A memory: cells of an address and a byte. -/
abbrev Memory := List Host.Cell

/-- What an unlisted address reads as: zero (R28, R370, R426; notes/assumptions/4.md). -/
def Memory.fill : Byte := 0

/-- The canonical form. -/
abbrev Memory.wf (m : Memory) : Prop :=
  m.Pairwise (fun a b => a.1 < b.1) ∧ ∀ c ∈ m, c.2 ≠ Memory.fill

/-- Read one byte. -/
def Memory.get : Memory → Nat → Byte
  | [], _ => Memory.fill
  | (k, b) :: r, a => if k = a then b else Memory.get r a

/-- Insert a cell before the first higher address. -/
def Memory.ins (a : Nat) (b : Byte) : Memory → Memory
  | [] => [(a, b)]
  | (k, c) :: r => if a < k then (a, b) :: (k, c) :: r else (k, c) :: Memory.ins a b r

/-- Write one byte, keeping the canonical form. -/
def Memory.put (m : Memory) (a : Nat) (b : Byte) : Memory :=
  let r := m.filter fun c => c.1 != a
  if b = Memory.fill then r else Memory.ins a b r

/-- Read n bytes from an address upward. -/
def Memory.getN (m : Memory) (a : Nat) : Nat → List Byte
  | 0 => []
  | n + 1 => m.get a :: Memory.getN m (a + 1) n

/-- Write bytes from an address upward. -/
def Memory.putN (m : Memory) (a : Nat) : List Byte → Memory
  | [] => m
  | b :: bs => Memory.putN (m.put a b) (a + 1) bs

/-- Make n bytes zero from an address upward: one pass, as a scrub or an erase does. -/
def Memory.zero (m : Memory) (a n : Nat) : Memory := m.filter fun c => c.1 < a || a + n ≤ c.1

/-- Bytes of one HBM channel: 1.5 GiB (R422). -/
def chanBytes : Nat := 0x60000000

/-- Device address of a byte of a channel. -/
def hbmAddr (ch off : Nat) : Nat := ch * chanBytes + off

/-- Start of the flash tier in the device address space. -/
def flashBase : Nat := 2 ^ 60

/-- Start of a CXL port's memory range in the device address space. -/
def cxlBase (port : Nat) : Nat := 2 ^ 72 * (port + 1)

/-- Device addresses that exist: 256 channels, 2^42 bytes of flash, the ranges of two CXL ports
(R422, R426, R429). -/
def addrExists (a : Nat) : Bool :=
  a < 256 * chanBytes || (flashBase ≤ a && a < flashBase + 2 ^ 42) || (2 ^ 72 ≤ a && a < 3 * 2 ^ 72)

end Sys2Proof.Machine
end

