-- ==== Sys2Proof/Machine/Order.lean ====
section
/-! DEFINITION. What loads may miss: scope instances (R95), releases and acquires (R101, R102, R105), .sc fences
(R103), and reading a location as it was before its newest writes (R89, R91, R99). Memory holds the newest value of every
location; `State.hist` holds what the writes replaced, newest first. -/

namespace Sys2Proof.Machine

/-! ## Scopes -/

/-- Whether the scope instance of an agent contains another (Table 5-3). -/
def scopeHas (scope : Nat) (x y : Agent) : Bool :=
  match scope with
  | 0 => x.gid == y.gid
  | 1 => x.gid == y.gid || (x.bid != 0 && x.bid == y.bid)
  | 2 => x.gid != 0 && y.gid != 0 && x.core / 2 == y.core / 2
  | 3 => x.gid != 0 && y.gid != 0 && x.core / 4 == y.core / 4
  | 4 => !x.outside && !y.outside
  | _ => true

/-- Order with an acquire part (R96). -/
def acqOrd (n : Nat) : Bool := n == 1 || decide (3 ≤ n)

/-- Order with a release part (R96). -/
def relOrd (n : Nat) : Bool := decide (2 ≤ n)

/-- A thread of a group as an agent. -/
def Group.agent (g : Group) (t : Nat) : Agent := { gid := g.gid, tid := t, bid := g.bid, core := g.core }

/-- An operation of an engine as an agent: it counts as its issuing group (R95). -/
def Group.engine (g : Group) : Agent := g.agent 64

/-! ## What threads know -/

/-- Union of lists without repeats. -/
def union (a b : List Nat) : List Nat := a ++ b.filter fun x => !a.contains x

/-- Two parts of knowledge together. -/
def Known.join (a b : Known) : Known :=
  { base := max a.base b.base, hb := union a.hb b.hb, rd := union a.rd b.rd, low := union a.low b.low,
    eff := union a.eff b.eff, fences := a.fences ++ b.fences }

/-- What a thread knows at its event numbered q: what its earlier events brought. -/
def View.at_ (v : View) (q : Nat) : Known :=
  ((v.filter fun e => decide (e.1 ≤ q)).map Prod.snd).foldl Known.join {}

/-- The part of some knowledge that other knowledge does not hold yet. -/
def Known.beyond (k c : Known) : Known :=
  { base := if k.base ≤ c.base then 0 else k.base, hb := k.hb.filter (!c.hb.contains ·), rd := k.rd.filter (!c.rd.contains ·),
    low := k.low.filter (!c.low.contains ·), eff := k.eff.filter (!c.eff.contains ·),
    fences := k.fences.filter (!c.fences.contains ·) }

/-- An event numbered q brings knowledge: what earlier events have brought already is not noted again. -/
def View.add (v : View) (q : Nat) (k : Known) : View :=
  let new := k.beyond (v.at_ q)
  if new = {} then v else v ++ [(q, new)]

/-- Every write so far happens before what follows. -/
def State.allWrites (s : State) : Known := { base := s.nextId }

/-- Whether a thread may not miss a write at a point (R99, R103). -/
def Known.sees (k : Known) (id : Nat) : Bool :=
  decide (id < k.base) || k.hb.contains id || k.rd.contains id || k.low.contains id

/-- What two releases cover together. -/
def Rel.merge (a b : Rel) : Rel := { a with base := max a.base b.base, hb := union a.hb b.hb }

/-- What an acquire of a release brings. -/
def Rel.known (r : Rel) : Known := { base := r.base, hb := r.hb }

/-- A write by its number, while the history holds it. -/
def State.wr? (s : State) (id : Nat) : Option Wr := s.hist.find? fun w => w.id == id

/-- Writes of a thread's requests numbered below `upto` that have been performed: a request's number is its writes' `op`. -/
def ownWrites (s : State) (gid tid upto : Nat) : List Nat :=
  (s.hist.filter fun w => w.who.gid == gid && w.who.tid == tid && decide (w.op < upto)).map Wr.id

/-- The writes that a thread has read from agents of its scope instance (R102). -/
def seenIn (s : State) (k : Known) (scope : Nat) (who : Agent) : List Wr :=
  k.rd.filterMap fun i => (s.wr? i).bind fun w => if scopeHas scope who w.who then some w else none

/-- The release that an event numbered q of a thread makes at a scope: what happens before it, its thread's own earlier
writes, effects of completed engine work (R109), and by cumulativity the writes it has read from agents of its scope
instance with all that happens before those (R102). -/
def release (s : State) (v : View) (who : Agent) (q scope : Nat) : Rel :=
  let k := v.at_ q
  let ws := seenIn s k scope who
  { scope := scope, who := who, base := ws.foldl (fun n w => max n w.pre.base) k.base
    hb := union (union (union k.hb k.eff) (ownWrites s who.gid who.tid q))
      (ws.foldl (fun h w => union (union h [w.id]) w.pre.hb) []) }

/-- What an acquire at a scope gets from a write that it reads (R101): each release that the write carries whose instance
contains the acquirer and whose maker the acquirer's instance contains, and then the write itself. -/
def acquired (who : Agent) (scope : Nat) (w : Wr) : Known :=
  let rs := w.rels.filter fun r => scopeHas r.scope r.who who && scopeHas scope who r.who
  if rs.isEmpty then {} else (rs.map Rel.known).foldl Known.join { hb := [w.id] }

/-- What an acquire fence numbered q brings: the loads before it acquire what they have read (R101). -/
def acqFence (s : State) (v : View) (who : Agent) (q scope : Nat) : Known :=
  ((v.at_ q).rd.filterMap fun i => (s.wr? i).map (acquired who scope)).foldl Known.join {}

/-- What a release fence leaves: the thread's later writes carry its release, which covers the loads before it also where they
return after it, since no store is visible before them (R101, R104). -/
def relFence (q scope : Nat) : Known := { fences := [(q, scope)] }

/-- The releases that a write of a thread carries: its own, and those of the fences before it (R101). -/
def carried (s : State) (v : View) (who : Agent) (q : Nat) (own : List Rel) : List Rel :=
  own ++ (v.at_ q).fences.map fun e => release s v who e.1 e.2

/-- What happens before a write of a thread that carries releases: what the thread knows, and what those cover (R102). -/
def before (v : View) (q : Nat) (rels : List Rel) : Known :=
  (rels.map Rel.known).foldl Known.join { base := (v.at_ q).base, hb := (v.at_ q).hb }

/-! ## Locations -/

/-- A run of bytes of a buffer, or of a block's scratchpad. -/
structure Loc where
  blk : Option Nat := none
  b : Nat := 0
  off : Nat
  n : Nat
deriving DecidableEq, Repr

/-- Whether a write touches a location. -/
def Wr.meets (w : Wr) (l : Loc) : Bool :=
  w.blk == l.blk && w.b == l.b && decide (w.off < l.off + l.n ∧ l.off < w.off + w.old.length)

/-- Writes to a location, newest first. -/
def State.writes (s : State) (l : Loc) : List Wr := s.hist.filter fun w => w.meets l

/-- A location's bytes as they were before a write. -/
def Wr.undo (w : Wr) (l : Loc) (bytes : List Byte) : List Byte :=
  bytes.mapIdx fun i y => if decide (w.off ≤ l.off + i ∧ l.off + i < w.off + w.old.length)
    then w.old.getD (l.off + i - w.off) 0 else y

/-- Run time of a context. -/
def State.ranOf (s : State) (cx : Nat) : Nat := ((s.ctxs.find? fun x => x.cxid == cx).map Ctx.ran).getD 0

/-- Whether a load of a context may still miss a write for its age: 4,096 clk of the context's run time (R91). -/
def Wr.recent (s : State) (cx : Nat) (w : Wr) : Bool :=
  decide (s.ranOf cx ≤ ((w.ran.find? fun e => e.1 == cx).map Prod.snd).getD 0 + 4096)

/-- How many of at most k newest writes to a location a load misses: none from the first on that it may not miss. -/
def missable (ok : Wr → Bool) : Nat → List Wr → Nat
  | 0, _ => 0
  | _, [] => 0
  | k + 1, w :: ws => if ok w then missable ok k ws + 1 else 0

/-- Writes whose bytes a load returns: of each byte not yet found, the newest. -/
def sources : List Nat → List Wr → List Wr
  | _, [] => []
  | bytes, w :: ws =>
    let hit (o : Nat) : Bool := decide (w.off ≤ o ∧ o < w.off + w.old.length)
    if bytes.any hit then w :: sources (bytes.filter fun o => !hit o) ws else sources bytes ws

/-- A location read before its k newest writes: its bytes and the writes they come from. -/
def readBefore (s : State) (l : Loc) (k : Nat) (bytes : List Byte) : List Byte × List Wr :=
  let ws := s.writes l
  ((ws.take k).foldl (fun y w => w.undo l y) bytes, sources ((List.range l.n).map (l.off + ·)) (ws.drop k))

/-- What a load brings that has read from writes, with an order and scope (R99, R101); a write of an application brings
all its writes (R278). -/
def readFrom (s : State) (who : Agent) (ord scope : Nat) (ws : List Wr) : Known :=
  let mates := s.hist.filter fun w => w.whole && ws.any fun x => x.whole && x.op == w.op
  let k : Known := { rd := union (ws.map Wr.id) (mates.map Wr.id) }
  if ord == 1 || decide (3 ≤ ord) then (ws.map (acquired who scope)).foldl Known.join k else k

/-! ## Writes -/

/-- How a write is made: by whom, for which operation, and the releases it carries. -/
structure By where
  who : Agent := {}
  op : Nat := 0
  rels : List Rel := []
  /-- What happens before it (R102). -/
  pre : Known := {}
  whole : Bool := false
  /-- A read-modify-write goes on with the release sequence of the write it reads (R101). -/
  rmw : Bool := false
deriving DecidableEq, Repr

/-- Record a write that is being performed, with the bytes that stand there (R99). -/
def State.logWrite (s : State) (by_ : By) (l : Loc) (old : List Byte) : State :=
  let head := if by_.rmw then (match s.writes l with
    | w :: _ => w.rels
    | [] => []) else []
  { s with
    nextId := s.nextId + 1
    hist := { id := s.nextId, blk := l.blk, b := l.b, off := l.off, old := old, who := by_.who, op := by_.op,
              whole := by_.whole, pre := by_.pre
              rels := by_.rels ++ head, ran := s.ctxs.map fun x => (x.cxid, x.ran) } :: s.hist }

/-- Forget what writes to a range of a buffer replaced: no later load finds it (R374). -/
def forget (s : State) (b o n : Nat) : State :=
  { s with hist := s.hist.filter fun w => !w.meets { b := b, off := o, n := n } }

/-- Writes that an engine's operation has performed. -/
def effects (s : State) (op : Nat) : List Nat := (s.hist.filter fun w => w.op == op).map Wr.id

end Sys2Proof.Machine
end

