-- ==== Sys2Proof/Machine/Xlate.lean ====
section
/-! DEFINITION. Looking up and updating the parts of the state, composed translation (R359 to R364), the
buffer and ownership checks of R371, token buckets (R414), and placement on channels and slices (R369). -/

namespace Sys2Proof.Machine

/-! ## Parts of the state -/

/-- A live or killed context by CXID. -/
def State.ctx? (s : State) (c : Nat) : Option Ctx := s.ctxs.find? fun x => x.cxid == c
/-- A group: resident, or saved with its block. -/
def State.grp? (s : State) (g : Nat) : Option Group :=
  match s.groups.find? fun x => x.gid == g with
  | some x => some x
  | none => s.blocks.findSome? fun b => b.saved.bind fun gs => gs.find? fun x => x.gid == g
/-- A block. -/
def State.blk? (s : State) (b : Nat) : Option Block := s.blocks.find? fun x => x.bid == b
/-- A grid. -/
def State.grid? (s : State) (g : Nat) : Option Grid := s.grids.find? fun x => x.gr == g
/-- A valid buffer-table entry. -/
def State.buf? (s : State) (b : Nat) : Option Buf := s.bufs.find? fun x => x.idx == b
/-- Change one context. -/
def State.updCtx (s : State) (c : Nat) (f : Ctx → Ctx) : State :=
  { s with ctxs := s.ctxs.map fun x => if x.cxid == c then f x else x }
/-- Change a group among groups. -/
def updGroups (g : Nat) (f : Group → Group) (gs : List Group) : List Group :=
  gs.map fun x => if x.gid == g then f x else x
/-- Change one group, resident or saved with its block (R62). -/
def State.updGrp (s : State) (g : Nat) (f : Group → Group) : State :=
  if s.groups.any fun x => x.gid == g then { s with groups := updGroups g f s.groups }
  else { s with blocks := s.blocks.map fun b => { b with saved := b.saved.map (updGroups g f) } }
/-- Change one block. -/
def State.updBlk (s : State) (b : Nat) (f : Block → Block) : State :=
  { s with blocks := s.blocks.map fun x => if x.bid == b then f x else x }
/-- Change one grid. -/
def State.updGrid (s : State) (g : Nat) (f : Grid → Grid) : State :=
  { s with grids := s.grids.map fun x => if x.gr == g then f x else x }
/-- Change a thread of a group, by its index. -/
def Group.updThr (g : Group) (t : Nat) (f : Thread → Thread) : Group :=
  { g with threads := g.threads.modify t f }
/-- Change the threads whose index is in a list. -/
def Group.updThrs (g : Group) (ts : List Nat) (f : Thread → Thread) : Group :=
  { g with threads := g.threads.mapIdx fun i t => if ts.contains i then f t else t }
/-- Change the threads whose index is in a list, each by its index. -/
def Group.updThrs' (g : Group) (ts : List Nat) (f : Nat → Thread → Thread) : Group :=
  { g with threads := g.threads.mapIdx fun i t => if ts.contains i then f i t else t }
/-- Change one thread. -/
def State.updThr (s : State) (g t : Nat) (f : Thread → Thread) : State := s.updGrp g fun x => x.updThr t f
/-- A fresh number for an operation, request or record. -/
def State.fresh (s : State) : Nat × State := (s.nextId, { s with nextId := s.nextId + 1 })

/-! ## The context tree -/

/-- A context and its ancestors up to the root, nearest first; fuel bounds the depth (R334). -/
def ancestors (s : State) : Nat → Nat → List Nat
  | 0, _ => []
  | n + 1, c =>
    match s.ctx? c with
    | none => []
    | some x => if x.level = 0 then [c] else c :: ancestors s n x.parent

/-- Whether d is c or one of its descendants. -/
def inSubtree (s : State) (c d : Nat) : Bool := (ancestors s 9 d).contains c

/-- The live contexts of a subtree, its top included. -/
def subtree (s : State) (c : Nat) : List Ctx :=
  s.ctxs.filter fun x => x.state != .killed && inSubtree s c x.cxid

/-- The level-2 ancestor that is a context's tenant, or the context itself (R419). -/
def tenant (s : State) (c : Nat) : Nat :=
  match (ancestors s 9 c).filter (fun x => ((s.ctx? x).map Ctx.level).getD 0 == 2) with
  | t :: _ => t
  | [] => c

/-- The level-1 ancestor's CXID, if any. -/
def levelOne (s : State) (c : Nat) : Option Nat :=
  (ancestors s 9 c).find? fun x => ((s.ctx? x).map Ctx.level).getD 0 == 1

/-- The RUNSET of a context: its run set within its parent's, for a running chain, together with cores
whose vacate has not ended (R347, R340). -/
def runsetOf (s : State) : Nat → Nat → BitVec 192
  | 0, _ => 0
  | n + 1, c =>
    match s.ctx? c with
    | none => 0
    | some x =>
      if x.level = 0 then x.runset
      else if x.state == .running || x.state == .stopping then (x.runset ||| x.vacating) &&& runsetOf s n x.parent
      else x.vacating &&& runsetOf s n x.parent

/-- RUNSET with the depth of the tree as fuel. -/
def State.runset (s : State) (c : Nat) : BitVec 192 := runsetOf s 9 c

/-- Cores on which new blocks and groups of a context may be placed: the run set without cores being
vacated, while the context runs (R347, R403). -/
def placeSet (s : State) (c : Nat) : BitVec 192 :=
  match s.ctx? c with
  | some x => if x.state == .running then x.runset &&& s.runset c &&& ~~~x.vacating else 0
  | none => 0

/-- Whether a context runs on a core. -/
def runsOn (s : State) (c core : Nat) : Bool := (s.runset c).getLsbD core

/-! ## Tokens (R413, R414) -/

/-- The contexts whose buckets a request of a context draws on: itself and its ancestors below the root (R414). -/
def payers (s : State) (cx : Nat) : List Nat :=
  (ancestors s 9 cx).filter fun c => c == cx || ((s.ctx? c).map Ctx.level).getD 0 != 0

/-- Whether every bucket on a chain holds k tokens. -/
def hasTokens (s : State) (cx k : Nat) : Bool :=
  (payers s cx).all fun c => decide (64 * k ≤ ((s.ctx? c).map Ctx.tokens).getD 0)

/-- Take k tokens from every bucket on a chain. -/
def takeTokens (s : State) (cx k : Nat) : State :=
  let ps := payers s cx
  { s with ctxs := s.ctxs.map fun x => if ps.contains x.cxid then { x with tokens := x.tokens - 64 * k } else x }

/-! ## Frames -/

/-- The ownership entry of a frame; unlisted frames are CLEAN and owned by the root (R370). -/
def State.frame (s : State) (b f : Nat) : Frame :=
  match s.frames.find? fun x => x.b == b && x.f == f with
  | some x => x
  | none => { b := b, f := f, st := .clean, owner := 0 }

/-- Set a frame's entry. -/
def State.setFrame (s : State) (x : Frame) : State :=
  let rest := s.frames.filter fun y => !(y.b == x.b && y.f == x.f)
  { s with frames := if x.st == .clean && x.owner == 0 then rest else x :: rest }

/-! ## Placement -/

/-- A buffer's interleave granule (Table 17-8). -/
def granuleBytes (b : Buf) : Nat := 2 ^ (8 + b.gcode)

/-- The device channel of a byte of an HBM buffer (R369). -/
def chanOf (b : Buf) (o : Nat) : Nat := b.chans.getD ((o / granuleBytes b) % b.chans.length) 0

/-- The device address of a byte of a buffer (R369); none for a peer's memory. -/
def place (b : Buf) (o : Nat) : Option Nat :=
  match b.kind with
  | .hbm =>
    let g := granuleBytes b
    let q := o / g
    some (hbmAddr (chanOf b o) (b.base + (q / b.chans.length) * g + o % g))
  | .cxl => some (cxlBase b.port + b.base + o)
  | .flash => some (flashBase + b.base + o)
  | .peer => none

/-- The home slice of a byte of a buffer (R18, R369); a peer's lines home on the peer. -/
def homeSlice (b : Buf) (o : Nat) : Nat :=
  match b.kind with
  | .hbm => chanOf b o / 2
  | .cxl => 64 * b.port + (o / 128) % 64
  | .flash => (o / 128) % 128
  | .peer => 0

/-- Read n bytes of a buffer, each where the interleave places it; bytes of a peer device are free
values. -/
def State.readBuf (s : State) (b o : Nat) : Nat → List Byte
  | 0 => []
  | n + 1 =>
    (match s.buf? b with
     | some x => match place x o with
       | some a => Memory.get s.mem a
       | none => Config.peerByte s.free o
     | none => 0) :: State.readBuf s b (o + 1) n

/-- Whether a buffer is a peer's behind a port that carries no traffic (R448). -/
def peerDown (s : State) (b : Nat) : Bool :=
  match s.buf? b with
  | some x => x.kind == .peer && !s.links.any fun l => l.port == x.port && l.up
  | none => false

/-- Whether a buffer is a peer's. -/
def isPeer (s : State) (b : Nat) : Bool := (s.buf? b).map Buf.kind == some .peer

/-- Write bytes of a buffer; bytes of a peer leave the device. -/
def State.writeBuf (s : State) (b o : Nat) : List Byte → State
  | [] => s
  | y :: ys =>
    (match s.buf? b with
     | some x => match place x o with
       | some a => { s with mem := Memory.put s.mem a y }
       | none => s
     | none => s).writeBuf b (o + 1) ys

/-- Whether any byte of a range of a buffer is poisoned (R395): poison is kept per 32-byte atom. -/
def State.poisoned (s : State) (b o n : Nat) : Bool :=
  match s.buf? b with
  | some x => (List.range n).any fun i => match place x (o + i) with
    | some a => s.poison.contains (a / 32)
    | none => false
  | none => false

/-- Count an error of a structure: 0 HBM4E, 1 L2, 2 flash, 3 the save region, 4 the context engine and its tables (R395)
(DESIGN CHOICE, notes/assumptions/33.md). -/
def countErr (s : State) (k : Nat) (uncorrectable : Bool) : State :=
  let old := ((s.errs.find? fun e => e.1 == k).map fun e => e.2).getD (0, 0)
  let new := if uncorrectable then (old.1, old.2 + 1) else (old.1 + 1, old.2)
  { s with errs := (k, new) :: s.errs.filter fun e => e.1 != k }

/-- Perform a write of bytes of one atom in their coherence order (R99). A write of a whole 32-byte atom clears its
poison; a partial write of a poisoned atom is lost, leaves it poisoned and is counted (R395, R423). -/
def State.writeMem (s : State) (b o : Nat) (bytes : List Byte) (by_ : By := {}) : State :=
  match s.buf? b with
  | some x =>
    match place x o with
    | some a =>
      if bytes.length != 32 && s.poison.contains (a / 32) then countErr s 0 true
      else
        let s := s.logWrite by_ { b := b, off := o, n := bytes.length } (s.readBuf b o bytes.length)
        (if bytes.length == 32 then { s with poison := s.poison.filter fun p => p != a / 32 } else s).writeBuf b o bytes
    | none => s
  | none => s

/-- Perform writes of a record's bytes, atom by atom (R395). -/
def State.writeAtoms (s : State) (b o : Nat) (by_ : By := {}) : List (List Byte) → State
  | [] => s
  | y :: ys => (s.writeMem b o y by_).writeAtoms b (o + y.length) by_ ys

/-- Perform a write to a scratchpad allocation (R86, R99). -/
def State.writePad (s : State) (bid o : Nat) (bytes : List Byte) (by_ : By := {}) : State :=
  match s.blk? bid with
  | none => s
  | some k =>
    let s := s.logWrite by_ { blk := some bid, off := o, n := bytes.length } (Memory.getN k.pad o bytes.length)
    s.updBlk bid fun k => { k with
      pad := Memory.putN k.pad o bytes
      sus := k.sus.filter fun w => !decide (o ≤ 4 * w ∧ 4 * w + 4 ≤ o + bytes.length) }

/-! ## Composed translation -/

/-- A failed translation or check: the cause, where it arises, its address there, whether it arose in a
table read of an ancestor, and its place in the check order of R206. -/
structure XFault where
  cause : Cause
  cxid : Nat
  va : DWord
  walk : Bool := false
  rank : Nat
  /-- Places of the table entries that the walk has read in tables that a parent maps. -/
  reads : List (Nat × Nat) := []
  /-- The address of the data that an engine was accessing, in its own context's space (R298). -/
  data : Option DWord := none
deriving DecidableEq, Repr

/-- Rights an access needs (R371). -/
structure Need where
  r : Bool := false
  w : Bool := false
  x : Bool := false
deriving DecidableEq, Repr

/-- Rights of loads, stores, atomics and fetches. -/
def Need.load : Need := { r := true }
/-- A store. -/
def Need.store : Need := { w := true }
/-- An atomic or remote opcode. -/
def Need.rmw : Need := { r := true, w := true }
/-- An instruction fetch. -/
def Need.fetch : Need := { x := true }

/-- What a walk yields (R362). -/
structure XRes where
  b : Nat
  off : Nat
  r : Bool
  w : Bool
  x : Bool
  size : Nat
  hops : List Hop
  /-- Every leaf that the walk used, and the places of the entries it read in tables that a parent maps. -/
  via : List Hop
  reads : List (Nat × Nat)
deriving DecidableEq, Repr

/-- A table entry as a walk reads it: its word, the leaves that the read used, and the places read. -/
structure TabRead where
  e : Nat
  via : List Hop := []
  reads : List (Nat × Nat) := []
deriving DecidableEq, Repr

/-- The leaf that a walk ends at, its stage, and what the walk used. -/
structure Leaf where
  e : Nat
  stage : Nat
  via : List Hop
  reads : List (Nat × Nat)
deriving DecidableEq, Repr

/-- Index into the table of a stage (Table 17-2). -/
def stageIdx (a stage : Nat) : Nat :=
  match stage with
  | 0 => bitsOf a 48 9
  | 1 => bitsOf a 39 9
  | 2 => bitsOf a 30 9
  | 3 => bitsOf a 21 9
  | _ => bitsOf a 16 5

/-- Bytes a leaf of a stage maps (Table 17-2). -/
def leafSize (stage : Nat) : Nat :=
  match stage with
  | 2 => 2 ^ 30
  | 3 => 2 ^ 21
  | _ => 2 ^ 16

/-- Malformed entries of R362, for a present entry at a stage of a context of a level. -/
def malformed (e stage level : Nat) : Bool :=
  if bitOf e 1 then
    stage < 2 || bitsOf e 9 7 != 0 || bitsOf e 5 3 != 0 || (level ≥ 2 && bitsOf e 57 7 != 0) ||
      (stage == 2 && bitsOf e 16 14 != 0) || (stage == 3 && bitsOf e 16 5 != 0)
  else
    stage == 4 || bitsOf e 2 6 != 0 || (level ≥ 1 && bitsOf e 57 7 != 0) ||
      (stage ≤ 2 && bitsOf e 8 4 != 0)

/-- An address of 57 translated bits in canonical form (R84). -/
def ext57 (a : Nat) : DWord := (BitVec.ofNat 57 a).signExtend 64

/-- Walk the stages from a table address to the leaf entry. `rd` reads an entry; `via` and `reads` are what the walk has used so
far. -/
def walkStages (rd : Nat → Except XFault TabRead) (c : Ctx) (va : Nat) (via : List Hop) (reads : List (Nat × Nat)) :
    List Nat → Nat → Except XFault Leaf
  | [], _ => .error { cause := .protection, cxid := c.cxid, va := ext57 va, rank := 2, reads := reads }
  | stage :: more, t =>
    match rd (t + 8 * stageIdx va stage) with
    | .error f => .error { f with reads := reads ++ f.reads }
    | .ok x =>
      let via := via ++ x.via
      let reads := reads ++ x.reads
      if !bitOf x.e 0 then .error { cause := .pageFault, cxid := c.cxid, va := ext57 va, rank := 2, reads := reads }
      else if malformed x.e stage c.level then
        .error { cause := .protection, cxid := c.cxid, va := ext57 va, rank := 2, reads := reads }
      else if bitOf x.e 1 then .ok { e := x.e, stage := stage, via := via, reads := reads }
      else walkStages rd c va via reads more (x.e / 256 * 256)

/-- A partition's record for a context, if the context lies under a level-1 context that has one. -/
def partOf (s : State) (c : Nat) : Option PartRec :=
  match levelOne s c with
  | some l => s.parts.find? fun p => p.cxid == l
  | none => none

/-- Whether a context's partition holds the port a buffer names (R411). -/
def portHeld (s : State) (c : Nat) (b : Buf) : Bool :=
  match partOf s c with
  | none => true
  | some p => match b.kind with
    | .cxl => p.cxlm.getLsbD b.port
    | .peer => p.links.getLsbD b.port
    | _ => true

/-- The checks of R371 on a translated access: its fault cause and rank, if any. -/
def permit (s : State) (cx : Nat) (x : XEnt) (o size : Nat) (need : Need) : Option (Cause × Nat) :=
  match s.buf? x.b with
  | none => some (.protection, 3)
  | some b =>
    if !portHeld s cx b then some (.protection, 3)
    else if o + size > b.size * 65536 then some (.bounds, 4)
    else if (need.r && !(x.r && b.r)) || (need.w && !(x.w && b.w)) || (need.x && !(x.x && b.x)) ||
        (need.w && b.kind == .flash) then some (.protection, 5)
    else
      let f := s.frame x.b (o / 65536)
      let own := match b.kind with
        | .flash | .peer => b.bown
        | _ => f.owner
      let live := match b.kind with
        | .flash | .peer => true
        | _ => f.st == .owned || f.st == .clean
      if !live then some (.protection, 6)
      else if own == cx || x.hops.any (fun h => h.cxid == own && h.dsc) then none
      else some (.protection, 6)

/-- The owner CXID that tags the lines of an access (R372). -/
def ownerTag (s : State) (b o : Nat) : Nat :=
  match s.buf? b with
  | some x => match x.kind with
    | .flash | .peer => x.bown
    | _ => (s.frame b (o / 65536)).owner
  | none => 0

/-- Contexts whose frames a composed entry opens to its context: those on its chain whose own leaf has dsc set (R371). -/
def XEnt.opens (e : XEnt) : List Nat := (e.hops.filter Hop.dsc).map Hop.cxid

/-- The owner check of R371 made again at memory, for an access that its translation opened to a context. An access to a frame
that has been freed since is performed or abandoned (R374). -/
def reaches (s : State) (b o cx : Nat) (opens : List Nat) : Bool := ownerTag s b o == cx || opens.contains (ownerTag s b o)

/-- What fails at memory: a peer behind a link that is down, a peer's refusal, poison (R395, R447, R448). -/
def spotFault (s : State) (cx : Nat) (va : DWord) (b off n : Nat) : Option XFault :=
  if peerDown s b then some { cause := .peerAbsent, cxid := cx, va := va, rank := 9 }
  else if isPeer s b && Config.peerDenies s.free then some { cause := .protection, cxid := cx, va := va, rank := 9 }
  else if s.poisoned b off n then some { cause := .uncorrectable, cxid := cx, va := va, rank := 10 }
  else none

/-- A fault of a table read: it belongs to the translation (R206). -/
def XFault.ofTable (reads : List (Nat × Nat)) (f : XFault) : XFault := { f with walk := true, rank := 2, reads := reads }

/-- An entry of the root's table, read by its buffer reference. Its buffer is valid and holds the entry, as R371's first
check asks of an access (DEDUCED, notes/assumptions/7.md). -/
def rootEntry (s : State) (cx va t : Nat) : Except XFault TabRead :=
  let bad (c : Cause) : Except XFault TabRead := .error { cause := c, cxid := cx, va := ext57 va, walk := true, rank := 2 }
  match s.buf? (bitsOf t 44 20) with
  | none => bad .protection
  | some b =>
    if bitsOf t 0 44 + 8 > b.size * 65536 then bad .bounds
    else match spotFault s cx (ext57 va) (bitsOf t 44 20) (bitsOf t 0 44) 8 with
      | some f => .error (f.ofTable [])
      | none => .ok { e := leNat (s.readBuf (bitsOf t 44 20) (bitsOf t 0 44) 8) }

/-- A composed walk (R362) with the depth of the tree as fuel. A table entry is read as a load of the parent, which fails as one
(R448) (DEDUCED, notes/assumptions/7.md). -/
def xlate (s : State) : Nat → Nat → Nat → Except XFault XRes
  | 0, cx, va => .error { cause := .protection, cxid := cx, va := ext57 va, rank := 2 }
  | n + 1, cx, va =>
    match s.ctx? cx with
    | none => .error { cause := .protection, cxid := cx, va := ext57 va, rank := 2 }
    | some c =>
      let rd (t : Nat) : Except XFault TabRead :=
        if let some e := s.walks.find? fun e => e.cxid == cx && e.va == t then .ok { e := e.e, via := e.via }
        else if c.level = 0 then rootEntry s cx va t
        else
          match xlate s n c.parent t with
          | .error f => .error (f.ofTable f.reads)
          | .ok y =>
            let x : XEnt := { cxid := c.parent, page := 0, size := y.size, b := y.b, off := y.off, r := y.r, w := y.w, x := y.x,
                              hops := y.hops, owner := ownerTag s y.b y.off }
            match permit s c.parent x y.off 8 .load with
            | some (cause, k) =>
              .error (XFault.ofTable y.reads { cause := cause, cxid := c.parent, va := ext57 t, rank := k })
            | none => match spotFault s c.parent (ext57 t) y.b y.off 8 with
              | some f => .error (f.ofTable (y.reads ++ [(y.b, y.off)]))
              | none => .ok { e := leNat (s.readBuf y.b y.off 8), via := y.via, reads := y.reads ++ [(y.b, y.off)] }
      match walkStages rd c va [] [] [0, 1, 2, 3, 4] c.ptroot.toNat with
      | .error f => .error f
      | .ok l =>
        let e := l.e
        let z := leafSize l.stage
        let hop : Hop := { cxid := cx, va := va / z * z, size := z, dsc := bitOf e 8 }
        if c.level ≥ 2 then
          match xlate s n c.parent (e % 2 ^ 57 / 65536 * 65536 + va % z) with
          | .error f => .error { f with reads := l.reads ++ f.reads }
          | .ok y => .ok { b := y.b, off := y.off, r := bitOf e 2 && y.r, w := bitOf e 3 && y.w, x := bitOf e 4 && y.x,
                           size := min z y.size, hops := y.hops ++ [hop], via := (hop :: l.via ++ y.via).eraseDups
                           reads := (l.reads ++ y.reads).eraseDups }
        else
          .ok { b := bitsOf e 44 20, off := bitsOf e 16 28 * 65536 + va % z, r := bitOf e 2, w := bitOf e 3, x := bitOf e 4,
                size := z, hops := [hop], via := (hop :: l.via).eraseDups, reads := l.reads.eraseDups }

/-- The page of an address: 64 KiB within the 57 translated bits (R84, R360). -/
def pageOf (va : DWord) : Nat := va.toNat % 2 ^ 57 / 65536 * 65536

/-- The composed entry of an address: a cached one where the TLB holds it, else a walk (R364). -/
def compose (s : State) (cx : Nat) (va : DWord) : Except XFault XEnt :=
  match s.tlb.find? fun e => e.cxid == cx && e.page == pageOf va with
  | some e => .ok e
  | none =>
    match xlate s 9 cx (va.toNat % 2 ^ 57) with
    | .error f => .error f
    | .ok y => .ok { cxid := cx, page := pageOf va, size := y.size, b := y.b, off := y.off / 65536 * 65536, r := y.r, w := y.w,
                     x := y.x, hops := y.hops, via := y.via, reads := y.reads, owner := ownerTag s y.b y.off }

/-- Where an access lands: buffer, byte offset, owner tag and the composed entry used. -/
structure Spot where
  b : Nat
  off : Nat
  owner : Nat
  ent : XEnt
deriving DecidableEq, Repr

/-- The checks of a global access in the order of R206 after alignment: canonical form, translation,
then R371. -/
def gaccess (s : State) (cx : Nat) (va : DWord) (size : Nat) (need : Need) : Except XFault Spot :=
  if !canonical va then .error { cause := .protection, cxid := cx, va := va, rank := 1 }
  else
    match compose s cx va with
    | .error f => .error f
    | .ok e =>
      let o := e.off + va.toNat % 65536
      match permit s cx e o size need with
      | some (c, k) => .error { cause := c, cxid := cx, va := va, rank := k }
      | none => .ok { b := e.b, off := o, owner := e.owner, ent := e }

/-- The same with the alignment check first (R84, R206). -/
def gcheck (s : State) (cx : Nat) (va : DWord) (size : Nat) (need : Need) : Except XFault Spot :=
  if va.toNat % size ≠ 0 then .error { cause := .misaligned, cxid := cx, va := va, rank := 0 }
  else gaccess s cx va size need

/-- The first load or store to a CLEAN frame makes it OWNED by the same owner (R373). -/
def firstAccess (s : State) (b off : Nat) : State :=
  match s.buf? b with
  | some x =>
    if x.kind == .hbm || x.kind == .cxl then
      let f := s.frame b (off / 65536)
      if f.st == .clean then s.setFrame { f with st := .owned } else s
    else s
  | none => s

/-- Table entries have been read, each as a load (R362, R373). -/
def State.walked (s : State) (reads : List (Nat × Nat)) : State := reads.foldl (fun s e => firstAccess s e.1 e.2) s

/-- A composed entry that was used is cached, and the tables that its walk has read have been read (R362, R364)
(DESIGN CHOICE, notes/assumptions/10.md). -/
def cacheEnt (s : State) (e : XEnt) : State :=
  if s.tlb.contains e then s else { s.walked e.reads with tlb := e :: s.tlb }

/-- An engine's access at a permitted place: its entry is cached and the frame is owned
(DESIGN CHOICE, notes/assumptions/10.md). -/
def touch (s : State) (p : Spot) : State := firstAccess (cacheEnt s p.ent) p.b p.off

/-- What fails at memory at a place. -/
def placeFault (s : State) (cx : Nat) (va : DWord) (p : Spot) (n : Nat) : Option XFault := spotFault s cx va p.b p.off n

/-- The checks of a read that is made at once, and of what it finds at memory. -/
def loadAt (s : State) (cx : Nat) (va : DWord) (n : Nat) (need : Need := .load) : Except XFault Spot :=
  match gaccess s cx va n need with
  | .error f => .error f
  | .ok p => match placeFault s cx va p n with
    | some f => .error f
    | none => .ok p

/-- Read a record of n bytes at an address as loads of a context (n within one page). -/
def readRec (s : State) (cx : Nat) (va : DWord) (n : Nat) : Except XFault (List Word × Spot) :=
  match loadAt s cx va n with
  | .error f => .error f
  | .ok p => .ok (leWords (s.readBuf p.b p.off n), p)

/-- The checks of a write that is made at once. -/
def storeAt (s : State) (cx : Nat) (va : DWord) (n : Nat) : Except XFault Spot :=
  match gaccess s cx va n .store with
  | .error f => .error f
  | .ok p => match placeFault s cx va p 0 with
    | some f => .error f
    | none => .ok p

/-! ## Cached translations (R364) -/

/-- Remove composed entries, and empty the last-page registers that refer to one of them (R364, R366, R374). -/
def dropEnts (s : State) (p : XEnt → Bool) : State :=
  { s with
    tlb := s.tlb.filter fun e => !p e
    lastPages := s.lastPages.filter fun l => !s.tlb.any fun e => p e && e.cxid == l.cxid && e.page == l.page }

/-- Remove cached non-leaf entries. -/
def dropWalks (s : State) (p : WalkEnt → Bool) : State := { s with walks := s.walks.filter fun w => !p w }

/-- Stages of a walk from a table address that name a next table: their entries' addresses and the entries as read. -/
def walkPath (rd : Nat → Except XFault TabRead) (c : Ctx) (va : Nat) : List Nat → Nat → List (Nat × TabRead)
  | [], _ => []
  | stage :: more, t =>
    match rd (t + 8 * stageIdx va stage) with
    | .error _ => []
    | .ok x => if !bitOf x.e 0 || malformed x.e stage c.level || bitOf x.e 1 then []
      else (t + 8 * stageIdx va stage, x) :: walkPath rd c va more (x.e / 256 * 256)

/-- An entry of a context's table, as its walk reads it now (R362). -/
def tableEntry (s : State) (c : Ctx) (va t : Nat) : Except XFault TabRead :=
  if let some e := s.walks.find? fun e => e.cxid == c.cxid && e.va == t then .ok { e := e.e, via := e.via }
  else if c.level = 0 then rootEntry s c.cxid va t
  else match gaccess s c.parent (ext57 t) 8 .load with
    | .error f => .error f
    | .ok p => .ok { e := leNat (s.readBuf p.b p.off 8), via := p.ent.via, reads := p.ent.reads ++ [(p.b, p.off)] }

/-- Addresses and entries of the non-leaf entries on a context's walk of an address. -/
def pathOf (s : State) (cx va : Nat) : List (Nat × TabRead) :=
  match s.ctx? cx with
  | some c => walkPath (tableEntry s c va) c va [0, 1, 2, 3, 4] c.ptroot.toNat
  | none => []

/-- Virtual addresses of the 64 KiB pages that a context's own leaves map (R360): `rd` reads an entry. -/
def leafPages (rd : Nat → Except XFault TabRead) (c : Ctx) : List Nat → Nat → Nat → List Nat
  | [], _, _ => []
  | stage :: more, va, t =>
    (List.range (if stage = 4 then 32 else 512)).flatMap fun i =>
      let here := va + i * (leafSize 4 * (if stage = 4 then 1 else 32 * 512 ^ (3 - stage)))
      match rd (t + 8 * i) with
      | .error _ => []
      | .ok x =>
        if !bitOf x.e 0 || malformed x.e stage c.level then []
        else if bitOf x.e 1 then (List.range (leafSize stage / 65536)).map fun k => here + 65536 * k
        else leafPages rd c more here (x.e / 256 * 256)

/-- The pages of a context's address space. -/
def mappedPages (s : State) (cx : Nat) : List Nat :=
  match s.ctx? cx with
  | some c => leafPages (tableEntry s c 0) c [0, 1, 2, 3, 4] 0 c.ptroot.toNat
  | none => []

/-- The device keeps the non-leaf entries of a walk that it makes (R364). -/
def keepWalk (s : State) (cx va : Nat) : State :=
  let path := pathOf s cx va
  { s.walked (path.flatMap fun e => e.2.reads) with
    walks := path.map (fun e => { cxid := cx, va := e.1, e := e.2.e, via := e.2.via }) ++
      s.walks.filter fun w => !(w.cxid == cx && path.any fun e => e.1 == w.va) }

/-- A lane's last-page register holds the page it accessed (R364). -/
def setLastPage (s : State) (core lane cx : Nat) (va : DWord) : State :=
  { s with lastPages := ⟨core, lane, cx, pageOf va⟩ :: s.lastPages.filter fun l => !(l.core == core && l.lane == lane) }

end Sys2Proof.Machine
end

