-- ==== Sys2Proof/Machine/Ops.lean ====
section
/-! DEFINITION. The named operations over registers, regions, requests and completion counters, taking
an exception and returning from one (R42 to R55, R106, R115 to R126, R356, R376 to R384). -/

namespace Sys2Proof.Machine

/-! ## Registers -/

/-- Whether a word stands in a run of bytes, at a multiple of 4. -/
def wordIn (get : Nat → List Byte) (n : Nat) (x : Word) : Bool :=
  (List.range (n / 4)).any fun k => decide (BitVec.ofNat 32 (leNat (get (4 * k))) = x)

/-- Whether threads of a context could have read a word (R4): it stands in a register of its groups, in a scratchpad of
its blocks or in a page that it may read under R371, or stood in a register that one of its threads has freed
(DESIGN CHOICE, notes/assumptions/1.md). -/
def readable (s : State) (cx : Nat) (x : Word) : Bool :=
  let blocks := s.blocks.filter fun b => b.cxid == cx
  let groups := (s.groups.filter fun g => g.cxid == cx) ++ blocks.flatMap fun b => b.saved.getD []
  ((s.ctx? cx).any fun c => c.left.contains x) ||
    groups.any (fun g => (g.sreg.any fun e => e.2 == x) || g.threads.any fun th => th.v.any fun e => e.2 == x) ||
    blocks.any (fun b => wordIn (fun o => Memory.getN b.pad o 4) (2 * b.smem) x) ||
    s.tlb.any fun e => e.cxid == cx && (permit s cx e e.off 4 .load).isNone && wordIn (fun o => s.readBuf e.b (e.off + o) 4) 65536 x

/-- An unpredictable word for a context: a free choice among the words that it could have read, and zero (R4). -/
def unpredictable (s : State) (cx : Nat) (x : Word) : Word := if readable s cx x then x else 0

/-- A register of a thread: v below 96, s above, which is the same for every thread (R51, R52). An unmapped register
reads an unpredictable value (R55). -/
def rdReg (s : State) (g : Group) (t : Nat) (th : Thread) (r : Nat) : Word :=
  if r < 96 then (assoc r th.v).getD (unpredictable s g.cxid (Config.unmapped s.free (64 * g.gid + t) r))
  else (assoc (r - 96) g.sreg).getD (unpredictable s g.cxid (Config.unmapped s.free (64 * g.gid) r))

/-- Cancel pending landings into a register: a younger write wins (R43). -/
def cancelPend (r : Nat) (ps : List Pend) : List Pend :=
  ps.map fun p => { p with dsts := p.dsts.map fun d => if d = some r then none else d }

/-- Write a v register: it is mapped, no longer awaits a free, and older landings are cancelled. -/
def Thread.wrV (th : Thread) (r : Nat) (x : Word) : Thread :=
  { th with
    v := assocSet r x th.v, dead := th.dead.filter (· != r), pend := cancelPend r th.pend
    unsettled := th.unsettled.filter fun e => e.1 != r, sus := th.sus.filter (· != r)
    kept := if th.kept.contains r then [] else th.kept }

/-- Write an s register of a group; landings into it from any thread are cancelled (R43, R52). -/
def Group.wrS (g : Group) (r : Nat) (x : Word) : Group :=
  { g with
    sreg := assocSet (r - 96) x g.sreg
    sus := g.sus.filter (· != r)
    threads := g.threads.map fun th =>
      { th with pend := cancelPend r th.pend, unsettled := th.unsettled.filter fun e => e.1 != r,
                kept := if th.kept.contains r then [] else th.kept } }

/-- Register writes of one lane, in order. -/
abbrev LaneWrites := List (Nat × Word)

/-- Write the v registers among a lane's writes. -/
def Thread.wrAll (th : Thread) : LaneWrites → Thread
  | [] => th
  | (r, x) :: ws => (if r < 96 then th.wrV r x else th).wrAll ws

/-- Write the s registers among the writes of the lowest active lane (R52). -/
def Group.wrSAll (g : Group) : LaneWrites → Group
  | [] => g
  | (r, x) :: ws => (if r < 96 then g else g.wrS r x).wrSAll ws

/-- Write the results of the active lanes, given in ascending lane order: v registers in each lane,
s registers from the lowest lane of Active (R11, R52). -/
def Group.wrLanes (g : Group) (res : List (Nat × LaneWrites)) : Group :=
  let g' := { g with
    threads := g.threads.mapIdx fun i th => match assoc i res with
      | some ws => th.wrAll ws
      | none => th }
  match res with
  | [] => g'
  | (_, ws) :: _ => g'.wrSAll ws

/-- Predicate i of a thread; 15 reads true (R53). -/
def Thread.prd (th : Thread) (i : BitVec 4) : Bool := if i = 15 then true else th.p.getLsbD i.toNat

/-- Write predicate i of a thread; a write to 15 is discarded (R53). -/
def Thread.setP (th : Thread) (i : BitVec 4) (b : Bool) : Thread :=
  if i = 15 then th
  else { th with p := if b then th.p ||| ((1 : BitVec 12) <<< i.toNat)
                    else th.p &&& ~~~((1 : BitVec 12) <<< i.toNat) }

/-- Record last-use bits: the registers await their free at the next commit (R44). -/
def Thread.markDead (th : Thread) (rs : List Nat) : Thread :=
  { th with dead := th.dead ++ rs.filter fun r => !th.dead.contains r && (assoc r th.v).isSome }

/-! ## The unit in progress -/

/-- The unit that the current partition's run is executing. -/
structure Issue where
  core : Nat
  part : Nat
  gid : Nat
  grp : Group
  /-- Threads of the issue group, and those of them in Active (R11, R149). -/
  tids : List Nat
  act : List Nat
  /-- PC of the unit's first word and of the instruction word. -/
  upc : DWord
  ipc : DWord
  pfx : Pfx
deriving DecidableEq, Repr

/-- Thread t of a group, as plain data even where t is out of range. -/
def Group.thr (g : Group) (t : Nat) : Thread := g.threads.getD t { pc := 0, rpc := 0 }

/-- Whether a lane is in Active: a GUARD of this unit reads its predicate now, an earlier one keeps the
value it read (R149). -/
def laneOn (pfx : Pfx) (th : Thread) : Bool :=
  match pfx.guard with
  | some o => th.prd o.p != (o.neg == 1)
  | none => match th.guard with
    | some k => k.on
    | none => true

/-- The run of the partition that is issuing. -/
def State.run? (s : State) : Option Run :=
  match s.cur with
  | some (c, p) => s.runs.find? fun r => r.core == c && r.part == p
  | none => none

/-- The unit in progress: its group is resident. -/
def State.issue? (s : State) : Option Issue :=
  match s.run? with
  | none => none
  | some r =>
    match s.groups.find? fun x => x.gid == r.gid with
    | none => none
    | some g =>
      match r.tids with
      | [] => none
      | t0 :: _ =>
        let upc := (g.thr t0).pc
        some { core := r.core, part := r.part, gid := r.gid, grp := g, tids := r.tids,
               act := r.tids.filter fun t => laneOn r.pfx (g.thr t), upc := upc,
               ipc := upc + BitVec.ofNat 64 (4 * r.off), pfx := r.pfx }

/-- A register of an active lane. -/
def Issue.rd (u : Issue) (s : State) (t r : Nat) : Word := rdReg s u.grp t (u.grp.thr t) r

/-- A pair of an active lane (R9). -/
def Issue.rd64 (u : Issue) (s : State) (t r : Nat) : DWord := pairOf (u.rd s t r) (u.rd s t (r + 1))

/-- n registers of a lane from a field upward; an s field gives the same words to every lane. -/
def Issue.rdN (u : Issue) (s : State) (t r n : Nat) : List Word := (List.range n).map fun i => u.rd s t (r + i)

/-- The lowest lane of Active, for operands taken in the manner of R52. -/
def Issue.low (u : Issue) : Nat := u.act.headD 0

/-- Core lane of a thread (R26). -/
def Group.lane (g : Group) (t : Nat) : Nat := 64 * g.part + g.base + t

/-- Whether a group is a handler group, of a message or a trap (R49, R382). -/
def Group.isHandler (g : Group) : Bool :=
  match g.kind with
  | .handler _ => true
  | .trapHandler _ => true
  | _ => false

/-- Whether a group runs in supervisor mode (R336). -/
def Group.isSup (g : Group) : Bool :=
  match g.kind with
  | .supervisor => true
  | .trapHandler _ => true
  | _ => false

/-- Threads of a group that have not exited. -/
def Group.live (g : Group) : List Nat := (List.range g.threads.length).filter fun t => !(g.thr t).exited

/-- A thread is ready: not exited, not parked, not stopped, its group not held (chapter 2). -/
def Group.ready (g : Group) (t : Nat) : Bool :=
  let th := g.thr t
  g.hold.isNone && !th.exited && !th.stopped && th.park.isNone && th.settle.isNone

/-- A mask with the given thread bits. -/
def tmask (ts : List Nat) : DWord := ts.foldl (fun m t => m ||| (1 <<< t)) 0

/-- Threads whose bit is set in a mask. -/
def maskTids (w : Nat) (m : DWord) : List Nat := (List.range w).filter fun t => m.getLsbD t

/-! ## Completion counters (R60) -/

/-- Value of a group's counter for a class: 0 bt, 1 mx, 2 ru, 3 am. -/
def Group.cnt (g : Group) (cls : Nat) : Nat := (g.ops.filter fun o => o.cls == cls).length

/-- Retire completed operations in issue order per class. -/
def popOps : List Nat → List GOp → List GOp
  | _, [] => []
  | blocked, o :: os =>
    if o.done && !blocked.contains o.cls then popOps blocked os else o :: popOps (o.cls :: blocked) os

/-- Mark an operation of a group complete, with the writes it has performed, and retire in issue order. -/
def Group.opDone (g : Group) (id : Nat) (eff : List Nat) : Group :=
  let all := g.ops.map fun o => if o.id == id then { o with done := true, eff := eff } else o
  let left := popOps [] all
  let gone := all.filter fun o => !left.any fun x => x.id == o.id
  { g with
    ops := left
    effs := gone.foldl (fun e o => assocSet o.cls (union ((assoc o.cls e).getD []) o.eff) e) g.effs }

/-- Writes of the retired operations of a class. -/
def Group.effOf (g : Group) (cls : Nat) : List Nat := (assoc cls g.effs).getD []

/-! ## Caches and ordering as programs observe them -/

/-- The L1 that serves a core: its own, or the cluster's joint L1 under fusion (R93). -/
def l1Of (s : State) (core : Nat) : Nat := if s.fused.contains (core / 4) then core / 4 * 4 else core

/-- A thread's event numbered q brings it knowledge. -/
def Thread.learn (q : Nat) (k : Known) (th : Thread) : Thread := { th with view := th.view.add q k }

/-- Threads of a group come to know every write so far: what follows happens after them. -/
def learnAll (s : State) (gid : Nat) (ts : List Nat) : State :=
  s.updGrp gid fun g => g.updThrs ts (Thread.learn s.nextId s.allWrites)

/-- Drop the copies of a line in a core's L1. -/
def dropL1 (s : State) (core b line : Nat) : State :=
  { s with l1 := s.l1.filter fun c => !(c.core == l1Of s core && c.b == b && c.line == line) }

/-- Drop the lines of a range of a buffer from every L1 and L2, and what loads could still find of it. -/
def invalidateRange (s : State) (b o n : Nat) : State :=
  let gone (line : Nat) : Bool := o / 128 ≤ line && line * 128 < o + n
  forget { s with
    l1 := s.l1.filter fun c => !(c.b == b && gone c.line)
    l2 := s.l2.filter fun c => !(c.b == b && gone c.line) } b o n

/-! ## Regions (R106, R115 to R126) -/

/-- The requests that one buffered store makes at its commit: pieces of at most 8 bytes (R97, R106). -/
def storeReqs (g : Group) (t id : Nat) (b : BStore) : List Req :=
  let piece (k sz : Nat) (lo : Nat) (i : Nat) : Req :=
    { id := id + k, cxid := b.cxid, gid := g.gid, tid := t, core := g.core, kind := .store,
      va := b.va + BitVec.ofNat 64 lo, b := b.b, off := b.off + lo, owner := b.owner, size := sz,
      data := BitVec.ofNat 64 (b.data.toNat >>> (8 * lo)), ord := b.ord, scope := b.scope, pol := b.pol,
      stage := if b.glob then .waiting else .port, blk := if b.glob then none else some b.blk,
      inst := i, fpc := b.fpc, opens := b.opens, buffered := true }
  if b.size ≤ 8 then [piece 0 b.size 0 b.inst]
  else [piece 0 8 0 b.inst, piece 1 8 8 b.inst]

/-- Tickets of the global sequencer for .sc requests, in their order (R103). -/
def ticketed : Nat → List Req → List Req
  | _, [] => []
  | k, r :: rs => if r.ord = 4 then { r with ticket := some k } :: ticketed (k + 1) rs else r :: ticketed k rs

/-- Requests enter the memory system; those of order .sc take their tickets (R103). -/
def addTicketed (s : State) (rs : List Req) : State :=
  { s with reqs := s.reqs ++ ticketed s.ticket rs, ticket := s.ticket + (rs.filter fun r => r.ord == 4).length }

/-- Requests of a thread's buffered stores in program order, numbered from `id`. -/
def commitReqs (g : Group) (t : Nat) : Nat → List BStore → List Req
  | _, [] => []
  | id, b :: bs => storeReqs g t id b ++ commitReqs g t (id + 2) bs

/-- Words of the registers that a commit frees (R44). -/
def Thread.freed (th : Thread) : List Word := (th.v.filter fun e => th.dead.contains e.1).map Prod.snd

/-- A context's threads give up words that registers held: it could have read them (R4). -/
def State.leave (s : State) (cx : Nat) (ws : List Word) : State := s.updCtx cx fun c => { c with left := c.left ++ ws }

/-- A thread whose region has committed: no stores, its deferred frees taken (R44), ordinals zero
(R121), a new region open at `pc` (R115). -/
def Thread.committed (th : Thread) (pc : DWord) (rid : Nat) : Thread :=
  { th with stores := [], nst := 0, ord := 0, skip := 0, redo := false, rpc := pc, rid := rid, rguard := none
            v := th.v.filter fun e => !th.dead.contains e.1, dead := [] }

/-- Clear re-entry bits of threads; an empty mask returns the count to zero (R126). -/
def Group.clearRe (g : Group) (ts : List Nat) : Group :=
  let m := g.remask &&& ~~~tmask ts
  { g with remask := m, instar := if m = 0 then 0 else g.instar }

/-- Commit the open regions of threads of a group: their stores become requests in program order, and a
new region opens at `pc t` (R106, R115, R117). -/
def commit (s : State) (gid : Nat) (ts : List Nat) (pc : Nat → DWord) : State :=
  match s.grp? gid with
  | none => s
  | some g =>
    let total := (ts.map fun t => 2 * (g.thr t).stores.length).sum
    let rec go (id : Nat) : List Nat → List Req
      | [] => []
      | t :: r => commitReqs g t id (g.thr t).stores ++ go (id + 2 * (g.thr t).stores.length) r
    let id' := s.nextId + total
    let s' := { addTicketed s (go s.nextId ts) with nextId := id' }
    (s'.leave g.cxid (ts.flatMap fun t => (g.thr t).freed)).updGrp gid fun g => (Group.clearRe { g with
      threads := g.threads.mapIdx fun i th => if ts.contains i then th.committed (pc i) id' else th } ts)

/-- What a discard leaves of a thread: back at its region entry with the guard state of that point, held stores gone,
results issued in the region dropped, deferred frees cancelled, ordinal kept (R121, R124, R128). What the region had
written stands until it is written again; where it had read it before, R118 calls the value unpredictable
(DESIGN CHOICE, notes/assumptions/1.md). A thread whose region has committed at the instruction that it is parked at, or
whose effect it awaits, stays there (R117, R226). -/
def Thread.discarded (th : Thread) : Thread :=
  let keep := match th.park with
    | some (.resource _) => none
    | p => p
  { th with
    pc := th.rpc, stores := [], nst := 0, dead := [], park := keep, kept := [], guard := th.rguard, redo := true
    pend := th.pend.filter fun p => p.id < th.rid, starved := none, waited := 0
    -- a settle of the instruction that closed the last region goes on
    settle := th.settle.filter fun n => n ≤ th.rid }

/-- A thread whose region was discarded re-enters it: its kept ordinal becomes its skip count (R121). -/
def Thread.reentered (th : Thread) : Thread := if th.redo then { th with skip := th.ord, ord := 0, redo := false } else th

/-- End the run of a group, if one is in progress. -/
def endRun (s : State) (gid : Nat) : State :=
  { s with runs := s.runs.filter fun r => r.gid != gid }

/-- End the run of a partition. -/
def endRunAt (s : State) (core part : Nat) : State :=
  { s with runs := s.runs.filter fun r => !(r.core == core && r.part == part) }

/-! ## Raising a trap (R85, R123, R379, R380) -/

/-- What a failed check says of a trap. -/
structure TrapInfo where
  cause : Cause
  /-- Threads named by the lane mask. -/
  lanes : List Nat
  fpc : DWord
  faddr : DWord := 0
  cxid : Nat
  wr : Bool := false
  fetch : Bool := false
  walk : Bool := false
  /-- Places of the table entries that the failed walks have read. -/
  reads : List (Nat × Nat) := []
deriving DecidableEq, Repr

/-- Whether a cause ends the grid (Table 18-1). -/
def Cause.fatal : Cause → Bool
  | .regionFull => true
  | .uncorrectable => true
  | _ => false

/-- The grid that a trap of a group is fatal to: its own, or the sender's for a message handler (R310). -/
def fatalGrid (s : State) (g : Group) : Nat :=
  match g.kind with
  | .handler m => ((s.msgs.find? fun x => x.id == m).map Msg.gr).getD 0
  | .trapHandler _ => 0
  | _ => g.gr

/-- Mark a grid as ending with a cause; the first one stands (R384). -/
def markEnding (s : State) (gr code : Nat) : State :=
  s.updGrid gr fun x => { x with ending := some (x.ending.getD code) }

/-- Whether a trap of a group that arises in a context arises in a trap handler group of that context (R354, R363). -/
def inHandlerOf (g : Group) (cx : Nat) : Bool :=
  g.cxid == cx && (match g.kind with
    | .trapHandler _ => true
    | _ => false)

/-- A context and its ancestors with their trap masks (R355). -/
def masksOf (s : State) (cx : Nat) : List (Nat × BitVec 32) :=
  (ancestors s 9 cx).map fun c => (c, ((s.ctx? c).map Ctx.dmask).getD 0)

/-- The trap record that a group's threads raise (Table 18-2). -/
def mkTrap (s : State) (g : Group) (ti : TrapInfo) : Trap :=
  { id := s.nextId, cause := ti.cause, cxid := ti.cxid, cocoon := ti.cause == .pageFault,
    fatal := ti.cause.fatal, core := g.core, part := g.part, grp := g.g, wr := ti.wr, fetch := ti.fetch,
    walk := ti.walk, instar := g.instar, rpc := (g.thr (ti.lanes.headD 0)).rpc, fpc := ti.fpc,
    faddr := ti.faddr, lmask := tmask ti.lanes,
    blk := ((s.blk? g.bid).map Block.lin).getD 0, gid := g.gid, gr := fatalGrid s g,
    inHandler := inHandlerOf g ti.cxid, chain := masksOf s ti.cxid }

/-- A thread that has exited: its results dropped, its bits cleared by `exitThrs`. -/
def Thread.exit (th : Thread) : Thread :=
  { th with exited := true, stopped := false, park := none, settle := none, pend := [], stores := [],
            guard := none, ord := 0, skip := 0, redo := false }

/-- End threads of a group without commit: they leave every mask register (R45, R54), and their registers are free. -/
def exitThrs (s : State) (gid : Nat) (ts : List Nat) : State :=
  let s := match s.grp? gid with
    | some g => s.leave g.cxid (ts.flatMap fun t => (g.thr t).v.map Prod.snd)
    | none => s
  s.updGrp gid fun g => Group.clearRe (Group.updThrs { g with m := g.m.map fun m => m &&& ~~~tmask ts } ts
    Thread.exit) ts

/-- Release a trap record's binding (R382). -/
def unbind (s : State) (cx seq : Nat) : State :=
  { s with recs := s.recs.filter fun r => !(r.dest == cx && r.seq == seq) }

/-- Every thread of a group stops and its regions are discarded (R384). -/
def dropGroup (s : State) (g : Group) : State :=
  (endRun (exitThrs s g.gid g.live) g.gid).updGrp g.gid fun g => { g with hold := none }

/-- A list head that waited for a pager is read again (R405). -/
def QEntry.unwait : QEntry → QEntry
  | .host r a _ => .host r a false
  | .captured r g n ts k _ => .captured r g n ts k false

/-- The entries of a queue that waited for a pager are read again. -/
def Ctx.unwait (x : Ctx) (q : Nat) : Ctx :=
  { x with queues := x.queues.map fun e => if e.1 == q then (e.1, e.2.map QEntry.unwait) else e }

/-- The engine access that waits for the answer to a trap is made again (R298, R312, R315, R377, R405). -/
def unwaitSrc (s : State) (t : Trap) : State :=
  match t.src with
  | .bt op => { s with bts := s.bts.map fun b => if b.id == op then { b with waits := false } else b }
  | .queue c q => s.updCtx c fun x => x.unwait q
  | .grid gr => s.updGrid gr fun x => { x with waits := false }
  | .threads | .none | .ru _ => s

/-- End what a trap names (R384): the grid of its threads; for a precise trap of a handler group also that group
(R310), and with a trap handler group, which then goes without TRAPRET, what its own record names (R382). What an engine had accepted goes on
(DEDUCED, notes/assumptions/51.md). -/
def endTrapped : Nat → State → Trap → State
  | 0, s, t => unwaitSrc (markEnding s t.gr t.cause.code) t
  | n + 1, s, t =>
    let s := unwaitSrc (markEnding s t.gr t.cause.code) t
    if t.async then s
    else match s.grp? t.gid with
      | none => s
      | some g => match g.kind with
        | .handler _ => dropGroup s g
        | .trapHandler seq =>
          match s.recs.find? fun r => r.dest == g.cxid && r.seq == seq with
          | some r => endTrapped n (unbind (dropGroup s g) g.cxid seq) r.trap
          | none => dropGroup s g
        | _ => s

/-- A bound handler group that exits without TRAPRET acts as TRAPRET with end 1 (R382, R384)
(DEDUCED, notes/assumptions/51.md). -/
def handlerGone (s : State) (g : Group) : State :=
  match g.kind with
  | .trapHandler seq =>
    match s.recs.find? fun r => r.dest == g.cxid && r.seq == seq with
    | some r => endTrapped 8 (unbind s g.cxid seq) r.trap
    | none => s
  | _ => s

/-- Stop threads of a group with their regions open (R123). -/
def stopThreads (s : State) (gid : Nat) (ts : List Nat) : State :=
  s.updGrp gid fun g => g.updThrs ts fun th => { th with stopped := true }

/-- Take a precise trap: the one way in which a thread's unit takes an exception. The run ends. A page
fault sends the whole group to a cocoon frame (R376); a fatal cause ends the grid (R384); any other
cause stops the threads of the lane mask with their regions open and their stores held (R123). The
record waits for delivery (R354, R381). -/
def raise (s : State) (g : Group) (ti : TrapInfo) : State :=
  let tr := mkTrap s g ti
  let s := { s.walked ti.reads with nextId := s.nextId + 1, free := s.free + 1, traps := s.traps ++ [tr] }
  let s := endRun s g.gid
  if ti.cause = .pageFault then
    s.updGrp g.gid fun x => { x with hold := some ⟨.pageFault tr, false⟩ }
  else
    let s := stopThreads s g.gid ti.lanes
    if ti.cause.fatal then endTrapped 8 s tr else s

/-- Queue an asynchronous trap of a context: PCs, lane mask and block index zero (R380). -/
def raiseAsync (s : State) (cxid : Nat) (cause : Cause) (faddr : DWord) (eng : Bool) (g : Option Group)
    (src : TrapSrc) (detail : Nat) (walk wr : Bool) (gr : Nat) : State :=
  let tr : Trap := { id := s.nextId, cause := cause, cxid := cxid, async := true, eng := eng, walk := walk, wr := wr,
                     faddr := faddr, src := src, detail := detail,
                     core := (g.map Group.core).getD 0, part := (g.map Group.part).getD 0,
                     grp := (g.map Group.g).getD 0, gid := (g.map Group.gid).getD 0, gr := gr,
                     inHandler := g.any fun g => inHandlerOf g cxid, chain := masksOf s cxid }
  { s with nextId := s.nextId + 1, traps := s.traps ++ [tr] }

/-- Discard the open regions of threads of a group, which releases its latch (R122, R124, R126, R241). With `now` they
re-enter at once, but for those that a trap has stopped: they re-enter when they resume, as the threads of a group that is saved
do when it is restored (R121, R124). A discard that finds the count at 15 re-enters nothing: REENTRY_LIMIT names the threads of the
re-entry mask, and those and the threads that it strikes stop at their region entries (DEDUCED, notes/assumptions/13.md). -/
def discard (s : State) (gid : Nat) (ts : List Nat) (now : Bool := true) : State :=
  match s.grp? gid with
  | none => s
  | some g =>
    let ts := ts.filter fun t => !(g.thr t).exited
    if ts.isEmpty then s
    else
      let at_ := (g.thr (ts.headD 0)).pc
      let named := (List.range g.width).filter fun t => g.remask.getLsbD t && !(g.thr t).exited
      let all := if g.instar ≥ 15 then ts ++ named.filter fun t => !ts.contains t else ts
      let s := (endRun s gid).updGrp gid fun g => { g.updThrs all Thread.discarded with latch := none }
      if g.instar ≥ 15 then
        match s.grp? gid with
        | none => s
        | some g' => stopThreads (raise s g' { cause := .reentryLimit, lanes := named, fpc := at_, cxid := g.cxid }) gid all
      else s.updGrp gid fun g =>
        { (if now then g.updThrs (ts.filter fun t => !(g.thr t).stopped) Thread.reentered else g) with
          remask := g.remask ||| tmask ts, instar := g.instar + 1 }

/-! ## Releasing parked threads -/

/-- Whether an operation of a thread numbered below `upto` is on its way to the context engine, which acts as .ar for the
thread: what comes after waits for it (R101, R344). -/
def atEngine (s : State) (gid tid upto : Nat) : Bool :=
  s.ctxops.any fun r => r.gid == gid && r.tids.contains tid && decide (r.id < upto)

/-- Requests of a thread numbered below `upto` that are not performed, its acquiring ROPRs that are not applied, tile words that
an AREAD of it still waits for, and operations of the context engine: what a release has to cover (R88, R99, R105, R111). -/
def uncovered (s : State) (gid tid upto : Nat) : Bool :=
  (s.reqs.any fun r => r.gid == gid && r.tid == tid && r.id < upto && !r.performed) || atEngine s gid tid upto ||
    (s.rus.any fun r => r.gid == gid && r.tid == tid && decide (r.id < upto) && r.ropr && !r.applied && acqOrd r.ord) ||
    (s.grp? gid).any fun g => (g.thr tid).pend.any fun p => decide (p.id < upto) && p.tile.isSome && p.words.any Option.isNone

/-- Whether every request of a group numbered below `upto` is performed: what a release of the whole group has
to cover before an engine acts for it (R107). -/
def covered (s : State) (gid upto : Nat) : Bool :=
  (s.reqs.all fun r => r.gid != gid || decide (upto ≤ r.id) || r.performed) &&
    s.ctxops.all fun r => r.gid != gid || decide (upto ≤ r.id)

/-- A thread released at the instruction after the one it is parked at. -/
def Thread.release (th : Thread) : Thread := { th with park := none, waited := 0, starved := none }

/-- Release threads of a group as one path. -/
def releaseThrs (s : State) (gid : Nat) (ts : List Nat) : State :=
  s.updGrp gid fun g => g.updThrs ts Thread.release

/-- How a write of a thread numbered q is made, with releases of its own (R101, R102). -/
def Group.writeBy (s : State) (g : Group) (t q : Nat) (own : List Rel) : By :=
  let v := (g.thr t).view
  let rels := carried s v (g.agent t) q own
  { who := g.agent t, op := q, rels := rels, pre := before v q rels }

/-- What the events of threads of a group before their number q release at a scope, together (R105). -/
def releaseOf (s : State) (g : Group) (ts : List Nat) (q scope : Nat) : Rel :=
  (ts.map fun t => release s (g.thr t).view (g.agent t) q scope).foldl Rel.merge { scope := scope, who := g.agent 0 }

/-- JWAIT release of R35 on every mask register of a group: when every non-exited thread enrolled in
m[k] is parked at a JWAIT on k, and what they released is performed (R105), all threads parked there go on together,
acquire it, and their bits are cleared. -/
def jwaitRelease (s : State) (g : Group) : Group :=
  (List.range 8).foldl (fun g k =>
    let parked := g.live.filter fun t => (g.thr t).park == some (.jwait k)
    let m := g.m.getD k 0
    let missing := g.live.any fun t => m.getLsbD t && !parked.contains t
    if parked.isEmpty || missing || parked.any (fun t => uncovered s g.gid t s.nextId) then g
    else
      let r := releaseOf s g parked s.nextId 0
      (Group.updThrs { g with m := g.m.set k (m &&& ~~~tmask parked) } parked fun th =>
        (th.learn s.nextId r.known).release)) g

/-- Settle release: every covered result has landed; a read of it is then settled (R42). -/
def settleRelease (th : Thread) : Thread :=
  match th.settle with
  | some upto =>
    if th.pend.any (fun p => p.id < upto) then th
    else { th with settle := none, waited := 0, unsettled := th.unsettled.filter fun e => decide (upto ≤ e.2.1) }
  | none => th

/-- WAIT release: the counter holds at most n. What the retired operations wrote happens before the releases that follow,
and with .acq before everything that follows (R109, R220). -/
def waitRelease (s : State) (g : Group) (th : Thread) : Thread :=
  match th.park with
  | some (.wait c n acq) =>
    if g.cnt c ≤ n then
      (th.learn s.nextId (if acq then { hb := g.effOf c } else { eff := g.effOf c })).release
    else th
  | _ => th

/-- Groups of a block. -/
def blockGroups (s : State) (bid : Nat) : List Group := s.groups.filter fun g => g.bid == bid

/-- Whether every thread of these groups that has not exited is in an arrival list, and every arrival
covers its committed stores (R105, R222). -/
def allArrived (s : State) (gs : List Group) (arr : List (Nat × Nat × Nat)) : Bool :=
  gs.all (fun g => g.live.all fun t => arr.any fun a => a.1 == g.gid && a.2.1 == t) &&
    arr.all fun a => !uncovered s a.1 a.2.1 a.2.2

/-- What the arrivals at a barrier release together at its scope, once what they cover is performed (R105). -/
def arrivals (s : State) (scope : Nat) (k : BarSt) : Rel :=
  k.arrived.foldl (fun r a => match s.grp? a.1 with
    | some g => r.merge (releaseOf s g [a.2.1] a.2.2 scope)
    | none => r) { scope := scope, who := {} }

/-- Release the threads of groups that wait at a barrier generation; they acquire what the arrivals released (R105). -/
def barRelease (gs : List Group) (s : State) (seen : Rel) (p : Park → Bool) : State :=
  gs.foldl (fun s g =>
    let ts := g.live.filter fun t => match (g.thr t).park with
      | some k => p k
      | none => false
    s.updGrp g.gid fun g => g.updThrs ts fun th => (th.learn s.nextId seen.known).release) s

/-- Words of a live-table entry (Table 18-6): its validity and rules (R388). -/
def liveOk (w : List Word) (smem : Nat) : Bool :=
  let n := bitsOf (wAt w 5) 0 3
  bitsOf (wAt w 4) 16 16 == 0 && bitsOf (wAt w 5) 3 28 == 0 && n ≤ 5 &&
  (List.range 5).all fun k =>
    let lo := wAt w (6 + 2 * k)
    let hi := wAt w (7 + 2 * k)
    if k < n then lo % 16 == 0 && hi % 16 == 0 && lo < hi && hi ≤ smem else lo == 0 && hi == 0

/-- The live-table entry idx of a block's kernel (R388): the entry, none where there is none, or an
error where it faults or breaks its rules. -/
def liveEntry (s : State) (b : Block) (idx : Nat) : Except Unit (Option (List Word)) :=
  match s.grid? b.gr with
  | none => .ok none
  | some gr =>
    let entry := dAt gr.lrec 2
    match readRec s b.cxid (entry - 8) 8 with
    | .error _ => .error ()
    | .ok (p, _) =>
      let base := dAt p 0
      if base = 0 then .ok none
      else
        match readRec s b.cxid (base + BitVec.ofNat 64 (64 * idx)) 64 with
        | .error _ => .error ()
        | .ok (w, _) =>
          if !bitOf (wAt w 5) 31 then .ok none
          else if liveOk w b.smem then .ok (some w) else .error ()

/-- The live-table entry by which a block leaves at a completed BAR.PE: under a graceful request, read once, when the barrier
completes; none where the block stays, as it does while its save finds the save region full (R224, R388, R389). -/
def leaveEntry (s : State) (b : Block) (idx : Nat) : Except Unit (Option (List Word)) :=
  if b.full || !(b.pre.any fun p => !p.urgent) then .ok none
  else if b.pe.isSome then .ok b.pe else liveEntry s b idx

/-- Complete one block barrier when its generation is complete; that of a saved block waits for its restore (R222, R224,
R226). The pre-emption barrier has
number 16; under a graceful request with a live-table entry the block stays for its save, and an entry that fails makes the
save urgent (R388). -/
def barComplete (s : State) (bid : Nat) (k : BarSt) : State :=
  let gs := blockGroups s bid
  if k.arrived.isEmpty || !allArrived s gs k.arrived || (s.blk? bid).any fun b => b.saved.isSome then s
  else
    match s.blk? bid with
    | none => s
    | some b =>
      match (if k.id == 16 then leaveEntry s b (k.idx.getD 0) else .ok none) with
      | .ok (some w) => s.updBlk bid fun b => { b with pe := some w }
      | e =>
        let seen := arrivals s 1 k
        let s := s.updBlk bid fun b => { b with
          pre := match e with
            | .error _ => b.pre.map fun p => { p with urgent := true }
            | _ => b.pre
          bars := b.bars.map fun x =>
            if x.id == k.id then { x with gen := k.gen + 1, arrived := [], idx := none, seen := seen } else x }
        barRelease gs s seen fun p => match p with
          | .bar i n => i == k.id && n == k.gen
          | .barw i n => i == k.id && n == k.gen
          | .barPe n => k.id == 16 && n == k.gen
          | _ => false

/-- Complete a cluster barrier (R225), unless a member is saved, whose threads are to arrive or are parked at it (R226). -/
def cbarComplete (s : State) (gr : Nat) (e : Nat × BarSt) : State :=
  let gs := s.groups.filter fun g => match s.blk? g.bid with
    | some x => x.gr == gr && x.gang == e.1
    | none => false
  if e.2.arrived.isEmpty || !allArrived s gs e.2.arrived ||
      s.blocks.any (fun b => b.gr == gr && b.gang == e.1 && b.saved.isSome) then s
  else
    let seen := arrivals s 3 e.2
    let s := s.updGrid gr fun x => { x with cbars := x.cbars.map fun y =>
      if y.1 == e.1 then (y.1, { y.2 with gen := e.2.gen + 1, arrived := [] }) else y }
    barRelease gs s seen fun p => match p with
      | .cbar n => n == e.2.gen
      | _ => false

/-- A group that holds no buffered store, and whose committed stores are all performed, holds no chunk (R120). -/
def freeChunks (s : State) (g : Group) : Group :=
  if g.held == 0 || g.threads.any (fun th => !th.stores.isEmpty) ||
      s.reqs.any (fun r => r.gid == g.gid && r.buffered && !r.performed) then g
  else { g with held := 0 }

/-- Write-backs take effect once the stores that they cover are performed: the slice's line is clean, or goes (R212). -/
def writeBacks (s : State) : State :=
  let due (w : WriteBack) : Bool :=
    !s.reqs.any fun r => r.gid == w.gid && r.tid == w.tid && r.id < w.upto && r.kind == .store && r.blk.isNone &&
      !r.performed && r.b == w.b && r.off / 128 == w.line
  let of (l : L2Line) (w : WriteBack) : Bool := due w && w.b == l.b && w.line == l.line && w.tag == l.tag
  { s with
    wbs := s.wbs.filter fun w => !due w
    l2 := (s.l2.filter fun l => !s.wbs.any fun w => w.inv && of l w).map fun l =>
      if s.wbs.any (of l) then { l with dirty := false } else l }

/-- Release every thread whose wait has ended: settles, WAIT, JWAIT and barriers. It runs inside every
step that changes what they wait for (R35, R42, R109, R222). -/
def wake (s : State) : State :=
  let go (g : Group) : Group :=
    freeChunks s (jwaitRelease s { g with threads := g.threads.map fun th => waitRelease s g (settleRelease th) })
  let s := writeBacks { s with groups := s.groups.map go }
  let s := s.blocks.foldl (fun s b => b.bars.foldl (fun s k => barComplete s b.bid k) s) s
  s.grids.foldl (fun s x => x.cbars.foldl (fun s e => cbarComplete s x.gr e) s) s

/-! ## Ending threads and grids (R45, R384) -/

/-- Operations of the sequencers go; their arrays count their idle time from now (R239, R242). -/
def dropMx (s : State) (p : MxOp → Bool) : State :=
  { s with
    mxs := s.mxs.filter fun m => !p m
    ramps := s.ramps.map fun r =>
      if r.st == .hot && s.mxs.any (fun m => p m && m.core == r.core && m.part == r.part) then { r with since := s.clk } else r }

/-- Stop every thread of a grid and discard its regions (R384 steps 1 to 3). -/
def endGrid (s : State) (gr : Nat) : State :=
  let s := s.updGrid gr fun x => { x with ended := true }
  let s := (s.groups.filter fun g => g.gr == gr).foldl dropGroup s
  -- blocks saved by pre-emption hold no running work
  { s with blocks := s.blocks.map fun b => if b.gr == gr then
      { b with saved := b.saved.map fun gs => gs.map fun g => g.updThrs g.live Thread.exit } else b }

/-- EXIT's effect on the threads of an issue group: commit, leave the masks, end (R45). -/
def exitEffect (s : State) (gid : Nat) (ts : List Nat) : State :=
  let s := commit s gid ts fun _ => 0
  let s := exitThrs s gid ts
  match s.grp? gid with
  | some g => wake (if g.live.isEmpty then handlerGone s g else s)
  | none => s

/-! ## Return from a trap (R356, R376) -/

/-- Checks of the resume address (R356). -/
def traprPcFault (pc : DWord) : Option Cause :=
  if pc.toNat % 4 ≠ 0 then some .misaligned
  else if !canonical pc then some .protection
  else none

/-- Resume stopped threads at a PC in their own context: held stores commit and a region opens there (R123); guard state
survives only at the faulting PC, and a later re-entry restores it (R128, R149). Each resumed thread acquires the handler's
release (R383). -/
def resumeAt (s : State) (gid : Nat) (ts : List Nat) (pc fpc : DWord) : State :=
  let s := commit s gid ts fun _ => pc
  let s := s.updGrp gid fun g => g.updThrs ts fun th =>
    { th with pc := pc, stopped := false, waited := 0, starved := none, park := none, settle := none,
              guard := if pc = fpc then th.guard else none, rguard := if pc = fpc then th.guard else none }
  learnAll s gid ts

/-- A stopped thread re-enters its region (R124, R126): nothing commits, so the count and the re-entry mask stay; a region not
yet discarded is. -/
def Thread.reenter (th : Thread) : Thread :=
  let th := if th.redo then th else th.discarded
  { th.reentered with pc := th.rpc, stopped := false, waited := 0, starved := none, settle := none, guard := th.rguard }

/-- Stopped threads re-enter their regions; each acquires the handler's release (R124, R383). -/
def reenterThrs (s : State) (gid : Nat) (ts : List Nat) : State :=
  if ts.isEmpty then s else learnAll (s.updGrp gid fun g => g.updThrs ts Thread.reenter) gid ts

/-- Resume the threads that a precise trap stopped at its TRAP_PC (R356); one whose region an event has discarded since the trap
continues from its region entry PC instead (R124) (DESIGN CHOICE, notes/assumptions/67.md). -/
def resumeThreads (s : State) (gid : Nat) (ts : List Nat) (pc fpc : DWord) : State :=
  match s.grp? gid with
  | none => s
  | some g =>
    let s := reenterThrs s gid (ts.filter fun t => (g.thr t).redo)
    let on := ts.filter fun t => !(g.thr t).redo
    if on.isEmpty then s else resumeAt s gid on pc fpc

/-- Whether a trap, delivered or not, names a thread of a group, or takes the group to a frame. -/
def trapNames (s : State) (gid t : Nat) : Bool :=
  let of (x : Trap) : Bool := x.gid == gid && !x.async && (x.cocoon || x.lmask.getLsbD t)
  s.traps.any of || s.recs.any fun r => of r.trap

/-- Resume the threads that REENTRY_LIMIT stopped: those that its record names and whose region entry is the resume address
re-enter their region, the others that it names go on there as after any precise trap (R126, R356); those that the discard struck
outside its record re-enter theirs (DEDUCED, notes/assumptions/13.md). -/
def resumeLimit (s : State) (gid : Nat) (ts : List Nat) (pc fpc : DWord) : State :=
  match s.grp? gid with
  | none => s
  | some g =>
    let back := ts.filter fun t => (g.thr t).rpc == pc
    let rest := ts.filter fun t => !back.contains t
    let lost := g.live.filter fun t => (g.thr t).stopped && (g.thr t).redo && !ts.contains t && !trapNames s gid t
    let s := reenterThrs s gid (back ++ lost)
    if rest.isEmpty then s else resumeAt s gid rest pc fpc

/-- Return from a trap whose record is r: with `fin` or a fatal cause the grid ends; a cocoon record has
its address walked again by COCOON_RESTORE; else the stopped threads resume at `pc` (R356, R376, R377,
R384). The caller releases the binding. -/
def trapReturn (s : State) (r : TrapRec) (fin : Bool) (pc : DWord) : State :=
  if fin || r.trap.fatal then
    endTrapped 8 s r.trap
  else if r.trap.async then unwaitSrc s r.trap
  else if r.trap.cocoon then s
  else
    match s.grp? r.trap.gid with
    | none => s
    | some g =>
      let ts := (maskTids g.width r.trap.lmask).filter fun t => (g.thr t).stopped
      if r.trap.cause == .reentryLimit then resumeLimit s r.trap.gid ts pc r.trap.fpc
      else resumeThreads s r.trap.gid ts pc r.trap.fpc

/-! ## MSI-X (R439) -/

/-- Raise an interrupt: sent at once, or left in the PBA while its entry is masked. Entries not written
are masked (notes/assumptions/5.md). -/
def sendIrq (s : State) (fn vec : Nat) : State :=
  match s.msix.find? fun m => m.fn == fn && m.vec == vec with
  | some m =>
    if m.masked then { s with msix := s.msix.map fun x =>
      if x.fn == fn && x.vec == vec then { x with pba := true } else x }
    else { s with irqs := (fn, vec) :: s.irqs }
  | none => { s with msix := ⟨fn, vec, true, true⟩ :: s.msix }

end Sys2Proof.Machine
end

