-- ==== Sys2Proof/Machine/TileOps.lean ====
section
/-! DEFINITION. Accumulator tiles (R58), element types and the group step of a matrix operation (R78 to R82,
R231 to R234). -/

namespace Sys2Proof.Machine

/-! ## Tiles -/

/-- A word of a tile; words not listed are zero (R58). -/
def Block.tile (b : Block) (half t row col : Nat) : Word :=
  match b.tiles.find? fun x => x.half == half && x.t == t && x.row == row && x.col == col with
  | some x => x.w
  | none => 0

/-- Write words of a row of a tile from a column. -/
def Block.setTile (b : Block) (half t row col : Nat) (ws : List Word) : Block :=
  let rest := b.tiles.filter fun x => !(x.half == half && x.t == t && x.row == row &&
    col ≤ x.col && decide (x.col < col + ws.length))
  { b with tiles := ((ws.mapIdx fun i w => (⟨half, t, row, col + i, w⟩ : TileWord)).filter fun x => x.w != 0) ++ rest }

/-- A tile's mode: 0 FP32, 1 INT32W, 2 INT32S (R58). -/
def Block.mode (b : Block) (half t : Nat) : Nat :=
  match b.modes.find? fun x => x.1 == half && x.2.1 == t with
  | some x => x.2.2
  | none => 0

/-- Clear a tile and set its mode (R247). -/
def Block.clearTile (b : Block) (half t mode : Nat) : Block :=
  let rest := b.modes.filter fun x => !(x.1 == half && x.2.1 == t)
  { b with
    tiles := b.tiles.filter fun x => !(x.half == half && x.t == t)
    modes := if mode = 0 then rest else (half, t, mode) :: rest }

/-! ## Element types and pairings (Tables 4-6 and 4-7) -/

/-- Element types of the brick array. -/
inductive ElTy where
  | i2 | i4 | i8 | n8 | e4m3 | e5m2 | bf16 | f16 | bx2 | bx4 | bx6 | bx8
deriving DecidableEq, Repr

/-- The types of A and B of a pairing (Table 4-7). -/
def pairTypes (p : Nat) : ElTy × ElTy :=
  match p with
  | 0 => (.i8, .i8) | 1 => (.i8, .i4) | 2 => (.i8, .i2) | 3 => (.i4, .i4) | 4 => (.i4, .i2)
  | 5 => (.i2, .i2) | 6 => (.n8, .i8) | 7 => (.e4m3, .e4m3) | 8 => (.e4m3, .e5m2)
  | 9 => (.e5m2, .e4m3) | 10 => (.e5m2, .e5m2) | 11 => (.bf16, .bf16) | 12 => (.bf16, .e4m3)
  | 13 => (.bf16, .bx4) | 14 => (.bf16, .bx8) | 15 => (.f16, .f16) | 16 => (.bx8, .bx8)
  | 17 => (.bx8, .bx4) | 18 => (.bx4, .bx4) | 19 => (.bx4, .bx2) | 20 => (.bx2, .bx2)
  | 21 => (.bx6, .bx6) | _ => (.e4m3, .bx4)

/-- Storage bits of an element (Table 4-7). -/
def ElTy.store : ElTy → Nat
  | .i2 | .bx2 => 2
  | .i4 | .bx4 => 4
  | .bf16 | .f16 => 16
  | _ => 8

/-- Whether a type is a BX type. -/
def ElTy.isBx : ElTy → Bool
  | .bx2 | .bx4 | .bx6 | .bx8 => true
  | _ => false

/-- Whether a pairing accumulates integers (Table 4-7). -/
def intPairing (p : Nat) : Bool := p ≤ 6

/-- Whether a pairing allows a tile mode (R80). -/
def pairMode (p mode : Nat) : Bool := if intPairing p then mode == 1 || mode == 2 else mode == 0

/-- The exact value of an element from its storage bits and its block exponent (R65, R72). -/
def elVal (ty : ElTy) (e x : Nat) : FVal :=
  match ty with
  | .i2 => ofIntF (signedOf x 2)
  | .i4 => ofIntF (signedOf x 4)
  | .i8 => ofIntF (signedOf x 8)
  | .n8 => ofIntF (x % 256)
  | .e4m3 => decF .e4m3 x
  | .e5m2 => decF .e5m2 x
  | .bf16 => decF .bf16 x
  | .f16 => decF .f16 x
  | .bx2 => bxVal 2 (signedOf x 2) e
  | .bx4 => bxVal 4 (signedOf x 4) e
  | .bx6 => bxVal 6 (signedOf x 6) e
  | .bx8 => bxVal 8 (signedOf x 8) e

/-- The integer value of an element of an integer type. -/
def elInt (ty : ElTy) (x : Nat) : Int :=
  match ty with
  | .i2 => signedOf x 2
  | .i4 => signedOf x 4
  | .n8 => (x % 256 : Nat)
  | _ => signedOf x 8

/-- One group step on a word: the old word plus 16 exact products, rounded or narrowed once by the mode
(R81, R82). A sum of zeros alone is -0 where every one of them is (DESIGN CHOICE, notes/assumptions/70.md). -/
def stepWord (ta tb : ElTy) (mode : Nat) (old : Word) (a : List Nat) (ea : Nat) (b : List Nat) (eb : Nat) : Word :=
  if mode = 0 then
    let prods := List.zipWith (fun x y => mulF (elVal ta ea x) (elVal tb eb y)) a b
    round32 .rn false (prods.foldl (addF .rn) (f32 old))
  else
    let s := (List.zipWith (fun x y => elInt ta x * elInt tb y) a b).foldl (· + ·) old.toInt
    if mode = 1 then wrap32 s else satI32 s

/-! ## Operand layout -/

/-- Number of k-groups of a kgc code. -/
def kgOf (kgc : BitVec 3) : Nat := 2 ^ kgc.toNat

/-- The value of words as one bit string, first word lowest. -/
def wordsNat (ws : List Word) : Nat := leNat (wordsBytes ws)

/-- Element c of a k-group held in a run of registers (R231). -/
def fieldA (ws : List Word) (sa c : Nat) : Nat := bitsOf (wordsNat ws) (c * sa) sa

/-- Registers of A per k-group (R231). -/
def aPer (p : Nat) : Nat := (pairTypes p).1.store / 2

/-- Exponent byte of A's k-group g for a lane: register and byte, after A's data, or where MXSC says (R232). -/
def aScaleReg (x : Pfx) (o : MXF) (g : Nat) : Nat × Nat :=
  match x.mxsc with
  | some m => (m.a.toNat + (m.byte.toNat + g) / 4, (m.byte.toNat + g) % 4)
  | none => (o.a.toNat + aPer o.pairing.toNat * kgOf o.kgc + g / 4, g % 4)

/-- Every register that an MMA or MLOOP reads: A, and its exponents for a BX type. -/
def aReads (x : Pfx) (o : MXF) : List Nat :=
  let p := o.pairing.toNat
  ((List.range (aPer p * kgOf o.kgc)).map fun i => o.a.toNat + i) ++
    (if (pairTypes p).1.isBx then ((List.range (kgOf o.kgc)).map fun g => (aScaleReg x o g).1).eraseDups else [])

/-- Bits of a type's significand (R78, R230). -/
def ElTy.sig : ElTy → Nat
  | .i2 | .bx2 => 2
  | .i4 | .bx4 | .e4m3 | .e5m2 => 4
  | .f16 => 16
  | _ => 8

/-- Products that a partition's array forms per clk for a pairing (R230, Table 10-10). -/
def macRate (p : Nat) : Nat := 256 * (16 / (pairTypes p).1.sig) * (16 / (pairTypes p).2.sig)

/-- The fewest clk of a step of m rows and n columns (R252). -/
def stepClk (p m n : Nat) : Nat := max 1 (m * n * 16 / macRate p)

/-- Fields of a stream register (Table 3-3). -/
def msBase (m : BitVec 128) : Nat := bitsOf m.toNat 64 32
/-- Offset of B's exponents. -/
def msSbase (m : BitVec 128) : Nat := bitsOf m.toNat 96 32
/-- Bytes per k-group. -/
def msKinc (m : BitVec 128) : Nat := bitsOf m.toNat 44 20
/-- Bytes between rows. -/
def msPitch (m : BitVec 128) : Nat := bitsOf m.toNat 24 20
/-- Valid bit. -/
def msValid (m : BitVec 128) : Bool := bitOf m.toNat 23
/-- Column count N. -/
def msCols (m : BitVec 128) : Nat := 16 * 2 ^ bitsOf m.toNat 0 2

end Sys2Proof.Machine
end

