-- ==== Sys2Proof/Machine/Operands.lean ====
section
/-! DEFINITION. What a unit's instruction is and whether it may execute: classes of instructions (R116,
R154), immediates under IMM (R150), BLOCK elements (R151) and the decoding checks of R155 in their
order. -/

namespace Sys2Proof

/-- The major opcode of an instruction word (Table 7-14); events have none. -/
def Instr.major : Instr → Nat
  | .iadd _ => 0x00
  | .isub _ => 0x01
  | .imul _ => 0x02
  | .imulhI32 _ => 0x03
  | .imulhN32 _ => 0x04
  | .imad _ => 0x05
  | .iminImaxI32 _ => 0x06
  | .iminImaxN32 _ => 0x07
  | .and _ => 0x08
  | .or _ => 0x09
  | .xor _ => 0x0A
  | .andn _ => 0x0B
  | .iadd64 _ => 0x0C
  | .isub64 _ => 0x0D
  | .bfx _ => 0x0E
  | .bfi _ => 0x0F
  | .shlImm _ | .shlReg _ => 0x10
  | .shrImm _ | .shrReg _ => 0x11
  | .sarImm _ | .sarReg _ => 0x12
  | .rotlImm _ | .rotlReg _ => 0x13
  | .iaddImm _ => 0x14
  | .andImm _ => 0x15
  | .orImm _ => 0x16
  | .xorImm _ => 0x17
  | .movi _ => 0x18
  | .movhi _ => 0x19
  | .lea _ => 0x1A
  | .isetpI32 _ => 0x1C
  | .isetpN32 _ => 0x1D
  | .fsetp _ => 0x1E
  | .plop _ | .ppack _ | .punpk _ | .cmov _ => 0x1F
  | .fadd _ => 0x20
  | .fsub _ => 0x21
  | .fmul _ => 0x22
  | .ffma _ => 0x23
  | .ffms _ => 0x24
  | .fnfma _ => 0x25
  | .fminFmax _ => 0x26
  | .fscb _ => 0x27
  | .hadd2Bf16 _ => 0x28
  | .hadd2F16 _ => 0x29
  | .hmul2Bf16 _ => 0x2A
  | .hmul2F16 _ => 0x2B
  | .hfma2Bf16 _ => 0x2C
  | .hfma2F16 _ => 0x2D
  | .hmin2Hmax2Bf16 _ => 0x2E
  | .hmin2Hmax2F16 _ => 0x2F
  | .not _ | .neg _ | .iabs _ | .popc _ | .clz _ | .brev _ | .sext8 _ | .sext16 _ | .zext8 _ |
    .zext16 _ => 0x30
  | .fneg _ | .fabs _ | .frint _ | .fexpx _ => 0x31
  | .cvt _ => 0x32
  | .rcpe _ | .rsqe _ | .ex2e _ | .lg2e _ | .sinpe _ | .cospe _ | .tanhe _ => 0x33
  | .bxq _ | .bxd _ => 0x34
  | .mov _ | .srd _ | .swr _ | .mskr _ | .mskw _ | .mskp _ | .pmsk _ => 0x35
  | .br _ => 0x38
  | .call _ => 0x39
  | .nop _ | .exit _ | .ret _ | .jidx _ | .brk _ => 0x3A
  | .trap _ => 0x3B
  | .jenr _ | .jwait _ => 0x3C
  | .ldB _ => 0x40
  | .ldH _ => 0x41
  | .ldW _ => 0x42
  | .ldD _ => 0x43
  | .ldQ _ => 0x44
  | .stB _ => 0x45
  | .stH _ => 0x46
  | .stW _ => 0x47
  | .stD _ => 0x48
  | .stQ _ => 0x49
  | .lds _ => 0x4A
  | .sts _ => 0x4B
  | .ldp _ => 0x4C
  | .stp _ => 0x4D
  | .tld _ | .tst _ => 0x4E
  | .prfL1 _ | .prfL2 _ | .cctlInv1 _ | .cctlInva _ | .cctlWb _ | .cctlWbi _ => 0x4F
  | .atomAdd _ => 0x50
  | .atomMin _ => 0x51
  | .atomMax _ => 0x52
  | .atomAnd _ | .atomOr _ | .atomXor _ | .atomXchg _ => 0x53
  | .atomCas _ | .stm _ => 0x54
  | .fence _ | .wait _ | .waita _ | .bar _ | .barPe _ | .bara _ | .barw _ | .cbar _ | .rgn _ |
    .rgncnt _ => 0x55
  | .shfl _ => 0x56
  | .voteAny _ | .voteAll _ | .voteBallot _ | .gredAdd _ | .gredMin _ | .gredMax _ => 0x57
  | .rdef _ => 0x58
  | .rop _ => 0x59
  | .ropr _ => 0x5A
  | .btxStart _ | .btxStat _ => 0x5B
  | .tcopy _ => 0x5C
  | .amtest _ => 0x5D
  | .amsg _ | .amh _ => 0x5E
  | .launch _ => 0x5F
  | .mma _ => 0x60
  | .mloop _ => 0x61
  | .mstr _ => 0x62
  | .aclr _ => 0x63
  | .aread _ => 0x64
  | .awrite _ => 0x65
  | .ast _ => 0x66
  | .ald _ => 0x67
  | .mburst _ => 0x68
  | .csrr _ => 0x70
  | .csrw _ => 0x71
  | .ctxNew _ | .ctxRun _ | .ctxStop _ | .ctxGrant _ | .ctxRevoke _ | .ctxKill _ | .ctxStat _ =>
    0x72
  | .trapret _ => 0x73
  | .tlbinvPage _ | .tlbinvCtx _ | .tlbinvSubtree _ => 0x74
  | .frmstat _ => 0x75
  | .guard _ => 0x78
  | .block _ => 0x79
  | .mod _ => 0x7A
  | .mxsc _ => 0x7B
  | .imm o => 0x7C + o.h.toNat
  | _ => 0x36

/-- The run-control field of an instruction word (R131). -/
def Instr.rc : Instr → BitVec 2
  | .iadd o | .isub o | .imul o | .imulhI32 o | .imulhN32 o | .imad o | .iminImaxI32 o |
    .iminImaxN32 o | .and o | .or o | .xor o | .andn o | .iadd64 o | .isub64 o | .bfx o | .bfi o |
    .fadd o | .fsub o | .fmul o | .ffma o | .ffms o | .fnfma o | .fminFmax o | .fscb o |
    .hadd2Bf16 o | .hadd2F16 o | .hmul2Bf16 o | .hmul2F16 o | .hfma2Bf16 o | .hfma2F16 o |
    .hmin2Hmax2Bf16 o | .hmin2Hmax2F16 o => o.rc
  | .shlImm o | .shrImm o | .sarImm o | .rotlImm o => o.rc
  | .shlReg o | .shrReg o | .sarReg o | .rotlReg o => o.rc
  | .iaddImm o | .andImm o | .orImm o | .xorImm o => o.rc
  | .movi o | .movhi o | .lea o => o.rc
  | .isetpI32 o | .isetpN32 o | .fsetp o => o.rc
  | .plop o => o.rc
  | .ppack o | .rgncnt o => o.rc
  | .punpk o | .swr o | .jidx o => o.rc
  | .cmov o => o.rc
  | .not o | .neg o | .iabs o | .popc o | .clz o | .brev o | .sext8 o | .sext16 o | .zext8 o |
    .zext16 o | .fneg o | .fabs o | .fexpx o | .rcpe o | .rsqe o | .ex2e o | .lg2e o | .sinpe o |
    .cospe o | .tanhe o | .mov o => o.rc
  | .frint o | .bxq o | .bxd o => o.rc
  | .cvt o => o.rc
  | .srd o => o.rc
  | .mskr o => o.rc
  | .mskw o => o.rc
  | .mskp o => o.rc
  | .pmsk o => o.rc
  | .br o | .call o => o.rc
  | .nop o | .exit o | .ret o | .brk o | .cctlInva o | .cbar o | .rgn o | .trapret o => o.rc
  | .trap o => o.rc
  | .jenr o | .jwait o => o.rc
  | .ldB o | .ldH o | .ldW o | .ldD o | .ldQ o | .stB o | .stH o | .stW o | .stD o | .stQ o =>
    o.rc
  | .lds o | .sts o => o.rc
  | .ldp o | .stp o => o.rc
  | .tld o | .tst o => o.rc
  | .prfL1 o | .prfL2 o | .cctlInv1 o | .cctlWb o | .cctlWbi o => o.rc
  | .atomAdd o | .atomMin o | .atomMax o => o.rc
  | .atomAnd o | .atomOr o | .atomXor o | .atomXchg o => o.rc
  | .atomCas o => o.rc
  | .stm o => o.rc
  | .fence o => o.rc
  | .wait o => o.rc
  | .waita o => o.rc
  | .bar o | .bara o | .barw o => o.rc
  | .barPe o => o.rc
  | .shfl o => o.rc
  | .voteAny o | .voteAll o => o.rc
  | .voteBallot o => o.rc
  | .gredAdd o | .gredMin o | .gredMax o => o.rc
  | .rdef o => o.rc
  | .rop o | .ropr o => o.rc
  | .btxStart o => o.rc
  | .btxStat o => o.rc
  | .tcopy o => o.rc
  | .amtest o => o.rc
  | .amsg o => o.rc
  | .amh o => o.rc
  | .launch o => o.rc
  | .mma o | .mloop o => o.rc
  | .mstr o => o.rc
  | .aclr o => o.rc
  | .aread o | .awrite o => o.rc
  | .ast o | .ald o => o.rc
  | .mburst o => o.rc
  | .csrr o => o.rc
  | .csrw o => o.rc
  | .ctxNew o | .frmstat o => o.rc
  | .ctxRun o | .ctxStop o | .ctxGrant o | .ctxRevoke o | .ctxStat o => o.rc
  | .ctxKill o => o.rc
  | .tlbinvPage o | .tlbinvCtx o | .tlbinvSubtree o => o.rc
  | _ => 0

/-- The region-closing instructions (Table 6-1). -/
def Instr.closing : Instr → Bool
  | .atomAdd _ | .atomMin _ | .atomMax _ | .atomAnd _ | .atomOr _ | .atomXor _ | .atomXchg _ |
    .atomCas _ | .stm _ | .rop _ | .ropr _ | .btxStart _ | .tcopy _ | .bar _ | .barPe _ | .bara _ |
    .barw _ | .cbar _ | .jwait _ | .wait _ | .waita _ | .amsg _ | .launch _ | .fence _ | .ctxNew _ |
    .ctxRun _ | .ctxStop _ | .ctxGrant _ | .ctxRevoke _ | .ctxKill _ | .ctxStat _ | .csrw _ |
    .tlbinvPage _ | .tlbinvCtx _ | .tlbinvSubtree _ => true
  | _ => false

/-- The control transfers (R196, R197). -/
def Instr.transfer : Instr → Bool
  | .br _ | .call _ | .ret _ | .jidx _ => true
  | _ => false

/-- RGN. -/
def Instr.isRgn : Instr → Bool
  | .rgn _ => true
  | _ => false

/-- The matrix instructions (chapter 10). -/
def Instr.matrix (i : Instr) : Bool := decide (0x60 ≤ i.major ∧ i.major ≤ 0x68)

/-- Instructions that end the run even where none of their threads stays parked: JWAIT (R201), MMA (R244),
AST and ALD (R249). -/
def Instr.endsRun : Instr → Bool
  | .jwait _ | .mma _ | .ast _ | .ald _ => true
  | _ => false

/-- Instructions that a GUARD range may hold (Table 7-27). -/
def Instr.takesGuard (i : Instr) : Bool :=
  match i with
  | .bxq _ | .jwait _ | .bar _ | .barPe _ | .bara _ | .barw _ | .cbar _ => false
  | _ => !i.matrix && !(0x70 ≤ i.major && i.major ≤ 0x75)

/-- Instructions that take BLOCK (Table 7-27). -/
def Instr.takesBlock (i : Instr) : Bool :=
  match i with
  | .cvt o => o.form == 0
  | .mov _ => true
  | _ => i.major ≤ 0x0B || i.major == 0x0E || i.major == 0x0F || (0x20 ≤ i.major && i.major ≤ 0x33)

/-- The majors that hold a minimum and a maximum (R134): their va and vb fields. -/
def Instr.minMaxFields : Instr → Option (BitVec 7 × BitVec 7)
  | .iminImaxI32 o | .iminImaxN32 o | .fminFmax o | .hmin2Hmax2Bf16 o | .hmin2Hmax2F16 o => some (o.a, o.b)
  | _ => none

/-- Instructions that take MOD rnd (Table 7-27). -/
def Instr.takesRnd (i : Instr) : Bool :=
  match i with
  | .fminFmax _ => false
  | .cvt o => o.dst == 0 || (3 ≤ o.dst.toNat && o.dst.toNat ≤ 6)
  | _ => 0x20 ≤ i.major && i.major ≤ 0x2D

/-- Instructions that take MOD ftz (Table 7-27). -/
def Instr.takesFtz (i : Instr) : Bool :=
  i.major == 0x1E || (0x20 ≤ i.major && i.major ≤ 0x2F) || (0x31 ≤ i.major && i.major ≤ 0x33)

/-- Whether an instruction takes a MOD sat code: 1 signed or floating, 2 unsigned (Table 7-27, R186, R249). The reserved
code 3 is no usat, so that CVT leaves it to step 5 of R155 (DEDUCED, notes/assumptions/47.md). -/
def Instr.takesSat (i : Instr) (sat : BitVec 2) : Bool :=
  match i with
  | .iadd _ | .isub _ | .imul _ | .imad _ | .iaddImm _ => true
  | .cvt _ => sat != 2
  | .ast _ => sat == 1
  | _ => false

/-- The kinds of access that orders distinguish (Table 5-4). -/
inductive OrdKind where
  | load | store | rmw | rop
deriving DecidableEq, Repr

/-- Accesses that take MOD order and scope (Table 7-27), and whether .sc is open to them (R214). -/
def Instr.ordKind : Instr → Option (OrdKind × Bool)
  | .ldB _ | .ldH _ | .ldW _ | .ldD _ | .ldQ _ => some (.load, true)
  | .stB _ | .stH _ | .stW _ | .stD _ | .stQ _ | .stm _ => some (.store, true)
  | .lds _ | .ldp _ => some (.load, false)
  | .sts _ | .stp _ => some (.store, false)
  | .atomAdd _ | .atomMin _ | .atomMax _ | .atomAnd _ | .atomOr _ | .atomXor _ | .atomXchg _ |
    .atomCas _ | .ropr _ => some (.rmw, true)
  | .rop _ => some (.rop, true)
  | _ => none

/-- Orders that each kind of access accepts (R96). -/
def OrdKind.accepts (k : OrdKind) (ord : Nat) : Bool :=
  match k with
  | .load => ord == 0 || ord == 1 || ord == 4
  | .store => ord == 0 || ord == 2 || ord == 4
  | .rmw => ord ≤ 4
  | .rop => ord == 0 || ord == 2 || ord == 4

/-- Instructions that take MOD cp; code 2 is illegal on all but TLD (R211, R215, R218). -/
def Instr.takesCp : Instr → Bool
  | .tld _ | .tst _ | .stm _ | .atomAdd _ | .atomMin _ | .atomMax _ | .atomAnd _ | .atomOr _ |
    .atomXor _ | .atomXchg _ | .atomCas _ => true
  | _ => false

/-- TLD alone takes the read-only policy by MOD. -/
def Instr.isTld : Instr → Bool
  | .tld _ => true
  | _ => false

/-- Pairings whose A type is a BX type (Table 4-7). -/
def bxPairing (p : Nat) : Bool := 16 ≤ p && p ≤ 21

/-- Instructions that take MXSC (R153). -/
def Instr.takesMxsc : Instr → Bool
  | .mma o | .mloop o => bxPairing o.pairing.toNat
  | _ => false

/-- The immediate operand of an instruction that takes IMM: its field's value, width and the combined
width after extension, signed or not (Table 7-25). -/
structure ImmField where
  val : Nat
  width : Nat
  signed : Bool
  /-- Bits the value must fit; none where every value does. -/
  fit : Option Nat
deriving DecidableEq, Repr

/-- The target field of an IMM prefixing word (Table 7-25). -/
def Instr.immField : Instr → Option ImmField
  | .iaddImm o => some ⟨o.imm.toNat, 9, true, some 32⟩
  | .andImm o | .orImm o | .xorImm o => some ⟨o.imm.toNat, 9, false, some 32⟩
  | .movi o => some ⟨o.imm.toNat, 16, true, some 32⟩
  | .lea o => some ⟨o.imm.toNat, 16, true, none⟩
  | .ldB o | .ldH o | .ldW o | .ldD o | .ldQ o | .stB o | .stH o | .stW o | .stD o | .stQ o =>
    some ⟨o.off.toNat, 7, true, none⟩
  | .prfL1 o | .prfL2 o | .cctlInv1 o | .cctlWb o | .cctlWbi o => some ⟨o.off.toNat, 7, true, none⟩
  | .cctlInva _ => some ⟨0, 7, true, none⟩
  | .lds o | .sts o => some ⟨o.off.toNat, 6, false, none⟩
  | .ldp o | .stp o => some ⟨o.off.toNat, 4, false, none⟩
  | _ => none

/-- The value of an immediate field under an IMM of the unit, if there is one (R150). -/
def ImmField.value (f : ImmField) (imm : Option (BitVec 25)) : Int :=
  match imm with
  | none => if f.signed then Machine.signedOf f.val f.width else (f.val : Int)
  | some h =>
    let x := h.toNat * 2 ^ f.width + f.val
    if f.signed then Machine.signedOf x (25 + f.width) else (x : Int)

/-- Whether a combined value fits its operand (Table 7-25). -/
def ImmField.fits (f : ImmField) (imm : Option (BitVec 25)) : Bool :=
  match f.fit with
  | none => true
  | some n =>
    let v := f.value imm
    if f.signed then decide (-(2 ^ (n - 1)) ≤ v ∧ v < 2 ^ (n - 1)) else decide (v < 2 ^ n)

/-- Instructions that a handler group must not execute (R49, R382); TCOPY's space is judged with its
operands (R305). -/
def Instr.notInHandler (i : Instr) : Bool :=
  match i with
  | .lds _ | .sts _ | .ldp _ | .stp _ | .tld _ | .tst _ | .bar _ | .barPe _ | .bara _ | .barw _ |
    .cbar _ | .btxStart _ | .amtest _ => true
  | _ => i.matrix

end Sys2Proof

namespace Sys2Proof.Machine

/-- The immediate of an instruction of a unit, zero where it has none (DEDUCED, notes/assumptions/24.md). -/
def immOf (i : Instr) (p : Pfx) : Int :=
  match i.immField with
  | some f => f.value p.imm
  | none => 0

/-! ## The checks of R155 -/

/-- Units from this one to the last of its GUARD range, 0 outside a range (R149) (DEDUCED, notes/assumptions/25.md). -/
def Issue.guardLeft (u : Issue) : Nat :=
  match u.pfx.guard with
  | some o => o.n.toNat + 1
  | none => (u.tids.map fun t => (((u.grp.thr t).guard.map GuardSt.left).getD 0)).foldl max 0

/-- Whether an instruction takes any field of MOD (Table 7-27). -/
def takesMod (i : Instr) : Bool :=
  i.takesRnd || i.takesFtz || i.takesSat 1 || i.takesCp || i.ordKind.isSome

/-- MOD before an instruction in none of its rows, and MOD fields that the instruction cannot take (R154)
(DEDUCED, notes/assumptions/47.md). -/
def modRefused (i : Instr) (o : MDF) : Bool :=
  !takesMod i || (o.rnd != 0 && !i.takesRnd) || (o.ftz == 1 && !i.takesFtz) || (o.sat != 0 && !i.takesSat o.sat) ||
    (o.cpv == 1 && !i.takesCp) || (o.ordv == 1 && i.ordKind.isNone)

/-- BLOCK on an instruction that cannot take it, an s destination under it (R151), or a minimum or
maximum that it leaves undecided (R163). Broadcasting vb has no effect where there is no vb field
(DESIGN CHOICE, notes/assumptions/47.md). -/
def blockRefused (i : Instr) (o : BLF) : Bool :=
  !i.takesBlock || i.uses.any (fun x => x.isWr && 96 ≤ x.reg) ||
    (o.bvb == 1 && (match i.minMaxFields with
      | some (a, b) => a == b
      | none => false))

/-- R155 step 3: a prefixing word or field that the instruction cannot take, or its place in a GUARD
range (DEDUCED, notes/assumptions/25.md). -/
def refused (i : Instr) (u : Issue) : Bool :=
  let p := u.pfx
  let n := u.guardLeft
  (n != 0 && !i.takesGuard) ||
  (i.isRgn && (p.guard.isSome || p.block.isSome || p.mod.isSome || p.mxsc.isSome || p.imm.isSome)) ||
  (decide (1 < n) && (i.closing || i.transfer || i.isRgn)) ||
  (match p.imm with
   | none => false
   | some _ => match i.immField with
     | none => true
     | some f => !f.fits p.imm) ||
  (match p.block with
   | none => false
   | some o => blockRefused i o) ||
  (match p.mod with
   | none => false
   | some o => modRefused i o) ||
  (p.mxsc.isSome && !i.takesMxsc)

/-- A BLOCK's element offsets, 8 × row + column in element order (R151); one element without BLOCK. -/
def Pfx.elems (p : Pfx) : List Nat :=
  match p.block with
  | none => [0]
  | some o => (List.range (o.h.toNat + 1)).flatMap fun r => (List.range (o.w.toNat + 1)).map fun c => 8 * r + c

/-- A register of an element: a v field is offset, an s field is not (R151). -/
def elemReg (r e : Nat) : Nat := if r < 96 then r + e else r

/-- The vb register of an element: unchanged under bvb (R151). -/
def Pfx.elemB (p : Pfx) (r e : Nat) : Nat :=
  match p.block with
  | some o => if o.bvb == 1 then r else elemReg r e
  | none => r

/-- Registers that an operand names over all elements. -/
def useRegs (p : Pfx) (x : RUse) : List Nat :=
  p.elems.flatMap fun e =>
    let b := if x.blk = 1 then elemReg x.reg e else if x.blk = 2 then p.elemB x.reg e else x.reg
    (List.range x.n).map fun k => b + k

/-- Registers of a kernel with n declared registers: s registers, and v registers below n (R51). -/
def regOk (n r : Nat) : Bool := if r < 96 then r < n else r < 128

/-- An operand's registers all exist: none passes from the v to the s numbers (R51). -/
def useInCount (p : Pfx) (n : Nat) (x : RUse) : Bool :=
  (useRegs p x).all fun r => regOk n r && (decide (x.reg < 96) == decide (r < 96))

/-- Registers of A and its exponents, which the operands of MMA and MLOOP name only in part (R231, R232). -/
def aRegs (p : Pfx) (i : Instr) : List Nat :=
  match i with
  | .mma o | .mloop o => aReads p o
  | _ => []

/-- CCTL.inva has no address: an IMM that makes its zero field another value is no encoding of it (R155, R212). -/
def invaBad (p : Pfx) (i : Instr) : Bool :=
  match i with
  | .cctlInva _ => p.imm.any fun x => x != 0
  | _ => false

/-- R155 step 5 for the instruction, its prefixing words and its registers, with R49 and R96
(DEDUCED, notes/assumptions/12.md). -/
def encodingBad (i : Instr) (u : Issue) : Bool :=
  let p := u.pfx
  let n := u.grp.nregs
  p.bad || !i.wf || !(i.uses.all (useInCount p n)) || invaBad p i ||
  !((aRegs p i).all fun r => decide (r < 96) && regOk n r) ||
  (match p.guard with
   | some o => !(Instr.guard o).wf
   | none => false) ||
  (match p.block with
   | some o => !(Instr.block o).wf
   | none => false) ||
  (match p.mod with
   | some o => !modOk o || (o.cpv == 1 && o.cp == 2 && !i.isTld) || (o.ordv == 1 && (match i.ordKind with
     | some (k, sc) => !k.accepts o.ord.toNat || (o.ord == 4 && !sc)
     | none => false))
   | none => false) ||
  (match p.mxsc with
   | some o => !(Instr.mxsc o).wf || !regOk n o.a.toNat
   | none => false) ||
  (u.grp.isHandler && i.notInHandler)

/-- The registers that an instruction reads in lane t (R118). -/
def Issue.reads (u : Issue) (i : Instr) (t : Nat) : List Nat :=
  ((i.uses.filter fun x => x.isRd && (!x.low || t == u.low)).flatMap fun x => useRegs u.pfx x) ++ aRegs u.pfx i

/-- Whether a thread has a long-latency result for a register that no settle has covered, in flight or landed (R42). -/
def Thread.unsettledReg (th : Thread) (r : Nat) : Bool :=
  (th.pend.any fun p => p.dsts.contains (some r)) || th.unsettled.any fun e => e.1 == r

/-- Whether a register of a thread holds or awaits a result that no settle has covered (R42)
(DEDUCED, notes/assumptions/52.md). -/
def pendingReg (g : Group) (t r : Nat) : Bool :=
  if r < 96 then (g.thr t).unsettledReg r else g.threads.any fun th => th.unsettledReg r

/-- Whether a register is unmapped: never written, or freed (R44, R55). -/
def unmappedReg (g : Group) (t r : Nat) : Bool :=
  if r < 96 then (assoc r (g.thr t).v).isNone else (assoc (r - 96) g.sreg).isNone

/-- Strict-debug mode, as it stood when the run began (R340): the lanes whose source registers fail, and the
cause (R42, R44, R55). A register that is both in flight and unmapped counts as in flight. -/
def strictRegs (rs : Nat → List Nat) (u : Issue) (s : State) : Option (Cause × List Nat) :=
  if (s.run?.map Run.sdbg).getD false then
    let un := u.act.filter fun t => (rs t).any fun r => pendingReg u.grp t r
    let dead := u.act.filter fun t => (rs t).any fun r => unmappedReg u.grp t r
    if !un.isEmpty then some (.unsettledRead, un)
    else if !dead.isEmpty then some (.deadRead, dead)
    else none
  else none

/-- The strict-debug check of the sources that an instruction's fields name (DEDUCED, notes/assumptions/52.md). -/
def strictBad (i : Instr) (u : Issue) (s : State) : Option (Cause × List Nat) := strictRegs (u.reads i) u s

/-- Decoding checks of the instruction that ends a unit, in the order of R155, then the register checks
of strict-debug mode: the trap to raise, if any (DEDUCED, notes/assumptions/12.md)
(DEDUCED, notes/assumptions/23.md). -/
def illegal (i : Instr) (u : Issue) (s : State) : Option TrapInfo :=
  let ti (c : Cause) (pc : DWord) (ls : List Nat) : TrapInfo :=
    { cause := c, lanes := ls, fpc := pc, cxid := u.grp.cxid }
  if refused i u then some (ti .illegalPfx u.ipc u.tids)
  else if 0x70 ≤ i.major && i.major ≤ 0x75 && !u.grp.isSup then some (ti .privileged u.upc u.tids)
  else if encodingBad i u then some (ti .illegalOp u.upc u.tids)
  else
    match strictBad i u s with
    | some (c, ls) => some (ti c u.upc ls)
    | none => none

end Sys2Proof.Machine
end

