-- ==== Sys2Proof/Machine/Unit.lean ====
section
/-! DEFINITION. Executing the instruction of a unit: its checks, its effect, the advance of its threads,
guard ranges, run control and the ends of runs (R36, R42, R117, R127, R149), and issue costs (R193,
R229). -/

namespace Sys2Proof.Machine

/-- What an instruction's own effect answers: the next state, a precise trap, or what it has to wait for, at which its threads
park until it can issue (R36, R60, R120). -/
inductive Res where
  | ok (s : State)
  | trap (ti : TrapInfo)
  | retry (w : Wait)
deriving DecidableEq, Repr

/-- The guard state of a thread after a unit (R149): a GUARD of the unit guards the units that remain of
its range, an earlier one has one unit fewer left. -/
def Thread.nextGuard (pfx : Pfx) (th : Thread) : Option GuardSt :=
  match pfx.guard with
  | some o => if o.n = 0 then none else some ⟨o.p, o.neg == 1, o.n.toNat, laneOn pfx th⟩
  | none => match th.guard with
    | some k => if k.left ≤ 1 then none else some { k with left := k.left - 1 }
    | none => none

/-- Last-use registers that a unit's sources name (R44). -/
def Issue.lastUses (u : Issue) (i : Instr) : List Nat :=
  ((i.uses.filter RUse.last).flatMap fun x => useRegs u.pfx x).filter (· < 96)

/-- The threads of the issue group pass the unit: to the next word, with their guard ranges one unit
shorter and last uses of active lanes recorded. -/
def advance (i : Instr) (u : Issue) (s : State) : State :=
  s.updGrp u.gid fun g => g.updThrs' u.tids fun t th =>
    { (if u.act.contains t then th.markDead (u.lastUses i) else th) with
      pc := u.ipc + 4, guard := th.nextGuard u.pfx }

/-- Park the active threads that asked for a settle until their results have landed (R42). -/
def settleThreads (u : Issue) (s : State) : State :=
  s.updGrp u.gid fun g => g.updThrs u.act fun th =>
    if th.exited then th else settleRelease { th with settle := some s.nextId }

/-- Whether the run ends with this unit (R36). -/
def runEnds (i : Instr) (u : Issue) (r : Run) (s : State) : Bool :=
  i.rc != 0 || i.transfer || i.endsRun || decide (24 ≤ r.words + r.off + 1) || r.single ||
    (match s.grp? u.gid with
     | some g => u.tids.any fun t => !g.ready t
     | none => true)

/-- A matrix instruction of a group takes the partition's latch from the others (R241). -/
def releaseLatches (u : Issue) (s : State) : State :=
  { s with groups := s.groups.map fun g =>
      if g.core == u.core && g.part == u.part && g.gid != u.gid then { g with latch := none } else g }

/-- After the effect: run control, and the end or the continuation of the run. A closing instruction's
own results belong to the region that it opened (R117). -/
def finish (i : Instr) (u : Issue) (s : State) : State :=
  let s := if i.closing then s.updGrp u.gid fun g => g.updThrs u.tids fun th => { th with rid := s.nextId }
           else s
  let s := if i.rc = 2 then settleThreads u s else s
  let s := if i.matrix then releaseLatches u s else s
  let s := if i.rc = 3 then s.updGrp u.gid fun g => { g with yielded := true } else s
  let s := s.updGrp u.gid fun g => g.updThrs u.tids fun th => { th with waited := 0, starved := none }
  let s := { s with free := s.free + 1 }
  match s.run? with
  | none => s
  | some r =>
    if runEnds i u r s then
      let s := endRunAt s u.core u.part
      if r.single then s.updGrp u.gid fun g => g.updThrs u.tids fun th =>
        if th.exited || th.park.isSome then th else { th with stopped := true }
      else s
    else
      { s with runs := s.runs.map fun x => if x.core == u.core && x.part == u.part then
          { x with pfx := {}, off := 0, words := x.words + x.off + 1 } else x }

/-- Park the active threads of the unit until a full resource frees an entry; the unit issues again for them (R36). The
threads that the guard has switched off do not park: the unit has passed them, with none of its effect (R117, R119). -/
def parkResource (i : Instr) (eff : Issue → State → Res) (w : Wait) (u : Issue) (s : State) : State :=
  let off := u.tids.filter fun t => !u.act.contains t
  let v := { u with tids := off, act := [] }
  let s := match off, eff v (advance i v s) with
    | [], _ => s
    | _, .ok s' => finish i v s'
    | _, .trap ti => raise s u.grp ti
    | _, .retry _ => s
  (endRunAt s u.core u.part).updGrp u.gid fun g => g.updThrs u.act fun th => { th with park := some (.resource w) }

/-- Execute the instruction of the unit in progress: the checks of R155 first, then its own effect on
the state in which its threads have passed the unit. A trap leaves the unit unperformed. Without a unit
in progress nothing happens (DEDUCED, notes/assumptions/23.md). -/
def execUnit (i : Instr) (eff : Issue → State → Res) (s : State) : Host.Outcome State Fault Refusal :=
  match s.issue? with
  | none => .next s
  | some u =>
    match illegal i u s with
    | some ti => .next (raise s u.grp ti)
    | none =>
      match eff u (advance i u s) with
      | .ok s' => .next (finish i u s')
      | .trap ti => .next (raise s u.grp ti)
      | .retry w => .next (parkResource i eff w u s)

/-- The trap information of a unit's own precise trap. -/
def Issue.ti (u : Issue) (c : Cause) (ls : List Nat) (faddr : DWord := 0) (wr : Bool := false) : TrapInfo :=
  { cause := c, lanes := ls, fpc := u.upc, faddr := faddr, cxid := u.grp.cxid, wr := wr }

/-- Write each active lane's results (R11, R52). -/
def writeLanes (u : Issue) (s : State) (f : Nat → LaneWrites) : State :=
  s.updGrp u.gid fun g => g.wrLanes (u.act.map fun t => (t, f t))

/-- Change each active thread. -/
def updAct (u : Issue) (s : State) (f : Nat → Thread → Thread) : State :=
  s.updGrp u.gid fun g => g.updThrs' u.act f

/-- Write one predicate in each active lane (R53). -/
def writePreds (u : Issue) (s : State) (p : BitVec 4) (f : Nat → Bool) : State :=
  updAct u s fun t th => th.setP p (f t)

/-- Commit the regions of the threads of a closing unit, guarded lanes included (R117). -/
def closeRegion (u : Issue) (s : State) : State := commit s u.gid u.tids fun _ => u.ipc + 4

/-! ## Issue cost -/

/-- Clk that one instruction of a family costs (Tables 8-17 and 9-12, R247) (DEDUCED, notes/assumptions/22.md). -/
def baseCost : Instr → Nat
  | .imul _ | .imulhI32 _ | .imulhN32 _ | .imad _ | .iadd64 _ | .isub64 _ | .lea _ | .bxq _ | .shfl _ => 2
  | .cvt o => if o.form = 2 then 2 else 1
  | .gredAdd _ | .gredMin _ | .gredMax _ | .aclr _ => 4
  | _ => 1

/-- Issue clk of the unit's instruction for its issue group: an SFU estimate takes 16 lanes per clk, a
BLOCK h × w times the cost of its instruction (R193). Prefixing words cost nothing of their own. -/
def issueCost (i : Instr) (u : Issue) : Nat :=
  if 0x78 ≤ i.major then 0
  else (if i.major = 0x33 then max 1 (u.grp.width / 16) else baseCost i) * u.pfx.elems.length

/-- Distinct 128-byte lines, or scratchpad rows of 128 bytes, that an execution's accesses touch, for each destination
(R229) (DEDUCED, notes/assumptions/22.md). -/
def linesTouched (s s' : State) (gid : Nat) : Nat :=
  let asked := (s'.reqs.filter fun r => r.gid == gid && decide (s.nextId ≤ r.inst)).map fun r => (r.sub, r.blk, r.b, r.off / 128)
  let held := match s'.grp? gid with
    | some g => g.threads.flatMap fun th => (th.stores.filter fun b => decide (s.nextId ≤ b.inst)).map fun b =>
        (0, if b.glob then none else some b.blk, b.b, b.off / 128)
    | none => []
  (asked ++ held).eraseDups.length

end Sys2Proof.Machine
end

