-- ==== Sys2Proof/Machine/Flags.lean ====
section
/-! DEFINITION. Predicate computations: the conditions of the compares (R172, R173) and the predicate
logic (R174). -/

namespace Sys2Proof.Machine

/-- An integer condition: eq, ne, lt, le, gt, ge in code order (R172). -/
def intCond (c : BitVec 3) (x y : Int) : Bool :=
  match c.toNat with
  | 0 => x == y
  | 1 => x != y
  | 2 => decide (x < y)
  | 3 => decide (x ≤ y)
  | 4 => decide (y < x)
  | _ => decide (y ≤ x)

/-- A binary32 condition on two operands already read through In (Table 8-8). -/
def floatCond (c : BitVec 3) (x y : FVal) : Bool :=
  let nan := x == .nan || y == .nan
  match c.toNat with
  | 0 => !nan && eqF x y
  | 1 => nan || !eqF x y
  | 2 => !nan && ltF x y
  | 3 => !nan && (ltF x y || eqF x y)
  | 4 => !nan && ltF y x
  | 5 => !nan && (ltF y x || eqF x y)
  | 6 => !nan
  | _ => nan

/-- Predicate logic of PLOP: and, or, xor (R174). -/
def plopOf (op : BitVec 2) (x y : Bool) : Bool :=
  match op.toNat with
  | 0 => x && y
  | 1 => x || y
  | _ => x != y

end Sys2Proof.Machine
end

