-- ==== Sys2Proof/Machine/IntArith.lean ====
section
/-! DEFINITION. Integer arithmetic, logic, shifts, immediates and integer unary operations (R164 to R171,
R181). -/

namespace Sys2Proof.Machine

/-! ## Shared operand forms -/

/-- MOD's sat code: 0 none, 1 signed or floating, 2 unsigned (R152). -/
def Pfx.sat (p : Pfx) : Nat := (p.mod.map fun o => o.sat.toNat).getD 0

/-- A three-register operation on a, b and the destination's old value, over the elements of BLOCK. -/
def threeReg (o : TR) (f : Pfx → Word → Word → Word → Word) (u : Issue) (s : State) : Res :=
  .ok (writeLanes u s fun t => u.pfx.elems.map fun e =>
    let d := elemReg o.d.toNat e
    (d, f u.pfx (u.rd s t (elemReg o.a.toNat e)) (u.rd s t (u.pfx.elemB o.b.toNat e)) (u.rd s t d)))

/-- A one-source operation of the class format, over the elements of BLOCK. -/
def oneReg (d a : BitVec 7) (f : Pfx → Word → Word) (u : Issue) (s : State) : Res :=
  .ok (writeLanes u s fun t => u.pfx.elems.map fun e =>
    (elemReg d.toNat e, f u.pfx (u.rd s t (elemReg a.toNat e))))

/-- Finish of R164: wrap, or form F from signed or unsigned values and clamp. -/
def intFinish (f : Int → Int → Int → Int) (p : Pfx) (a b d : Word) : Word :=
  match p.sat with
  | 1 => satI32 (f a.toInt b.toInt d.toInt)
  | 2 => satN32 (f a.toNat b.toNat d.toNat)
  | _ => wrap32 (f a.toInt b.toInt d.toInt)

/-- A 64-bit operation on aligned pairs (R166). -/
def pairReg (o : TR) (f : DWord → DWord → DWord) (u : Issue) (s : State) : Res :=
  .ok (writeLanes u s fun t =>
    let x := f (u.rd64 s t o.a.toNat) (u.rd64 s t o.b.toNat)
    [(o.d.toNat, pairLo x), (o.d.toNat + 1, pairHi x)])

/-- The minimum or maximum that the order of the encoded fields selects (R134). -/
def minMax {α : Type} (o : TR) (mn mx same : α) : α :=
  if o.a.toNat < o.b.toNat then mn else if o.b.toNat < o.a.toNat then mx else same

/-! ## Three-register integer operations (R164 to R167) -/

/-- IADD (R164). -/
def execIadd (o : TR) (s : State) : Host.Outcome State Fault Refusal :=
  execUnit (.iadd o) (threeReg o (intFinish fun a b _ => a + b)) s

/-- ISUB (R164). -/
def execIsub (o : TR) (s : State) : Host.Outcome State Fault Refusal :=
  execUnit (.isub o) (threeReg o (intFinish fun a b _ => a - b)) s

/-- IMUL (R164). -/
def execImul (o : TR) (s : State) : Host.Outcome State Fault Refusal :=
  execUnit (.imul o) (threeReg o (intFinish fun a b _ => a * b)) s

/-- IMULH.i32: the high half of the signed product (R164). -/
def execImulhI32 (o : TR) (s : State) : Host.Outcome State Fault Refusal :=
  execUnit (.imulhI32 o) (threeReg o fun _ a b _ => wrap32 ((a.toInt * b.toInt) / 2 ^ 32)) s

/-- IMULH.n32: the high half of the unsigned product (R164). -/
def execImulhN32 (o : TR) (s : State) : Host.Outcome State Fault Refusal :=
  execUnit (.imulhN32 o) (threeReg o fun _ a b _ => BitVec.ofNat 32 ((a.toNat * b.toNat) / 2 ^ 32)) s

/-- IMAD: a × b plus the destination (R164). -/
def execImad (o : TR) (s : State) : Host.Outcome State Fault Refusal :=
  execUnit (.imad o) (threeReg o (intFinish fun a b d => a * b + d)) s

/-- Signed minimum of two words. -/
def minI (a b : Word) : Word := if a.slt b then a else b
/-- Signed maximum of two words. -/
def maxI (a b : Word) : Word := if a.slt b then b else a
/-- Unsigned minimum of two words. -/
def minN (a b : Word) : Word := if a.ult b then a else b
/-- Unsigned maximum of two words. -/
def maxN (a b : Word) : Word := if a.ult b then b else a

/-- IMIN.i32 and IMAX.i32 (R165). -/
def execIminImaxI32 (o : TR) (s : State) : Host.Outcome State Fault Refusal :=
  execUnit (.iminImaxI32 o) (threeReg o fun _ a b _ => minMax o (minI a b) (maxI a b) a) s

/-- IMIN.n32 and IMAX.n32 (R165). -/
def execIminImaxN32 (o : TR) (s : State) : Host.Outcome State Fault Refusal :=
  execUnit (.iminImaxN32 o) (threeReg o fun _ a b _ => minMax o (minN a b) (maxN a b) a) s

/-- AND (R164). -/
def execAnd (o : TR) (s : State) : Host.Outcome State Fault Refusal :=
  execUnit (.and o) (threeReg o fun _ a b _ => a &&& b) s

/-- OR (R164). -/
def execOr (o : TR) (s : State) : Host.Outcome State Fault Refusal :=
  execUnit (.or o) (threeReg o fun _ a b _ => a ||| b) s

/-- XOR (R164). -/
def execXor (o : TR) (s : State) : Host.Outcome State Fault Refusal :=
  execUnit (.xor o) (threeReg o fun _ a b _ => a ^^^ b) s

/-- ANDN: a AND NOT b (R164). -/
def execAndn (o : TR) (s : State) : Host.Outcome State Fault Refusal :=
  execUnit (.andn o) (threeReg o fun _ a b _ => a &&& ~~~b) s

/-- IADD64 (R166). -/
def execIadd64 (o : TR) (s : State) : Host.Outcome State Fault Refusal :=
  execUnit (.iadd64 o) (pairReg o fun a b => a + b) s

/-- ISUB64 (R166). -/
def execIsub64 (o : TR) (s : State) : Host.Outcome State Fault Refusal :=
  execUnit (.isub64 o) (pairReg o fun a b => a - b) s

/-- Position and length of the field that vb describes; it never passes bit 31 (R167). -/
def bfPosLen (b : Word) : Nat × Nat :=
  let pos := bitsOf b.toNat 0 5
  (pos, min (bitsOf b.toNat 8 6) (32 - pos))

/-- BFX's result (R167). -/
def bfxOf (a b : Word) : Word :=
  let (pos, len) := bfPosLen b
  if len = 0 then 0
  else
    let f := bitsOf a.toNat pos len
    if bitOf b.toNat 16 then wrap32 (signedOf f len) else BitVec.ofNat 32 f

/-- BFI's result: the low bits of a in the field of d (R167). -/
def bfiOf (a b d : Word) : Word :=
  let (pos, len) := bfPosLen b
  let m : Word := BitVec.ofNat 32 ((2 ^ len - 1) * 2 ^ pos)
  (d &&& ~~~m) ||| ((a <<< pos) &&& m)

/-- BFX (R167). -/
def execBfx (o : TR) (s : State) : Host.Outcome State Fault Refusal :=
  execUnit (.bfx o) (threeReg o fun _ a b _ => bfxOf a b) s

/-- BFI (R167). -/
def execBfi (o : TR) (s : State) : Host.Outcome State Fault Refusal :=
  execUnit (.bfi o) (threeReg o fun _ a b d => bfiOf a b d) s

/-! ## Shifts (R168) -/

/-- SHL by an amount of any size (Table 8-6). -/
def shlOf (a : Word) (k : Nat) : Word := if k < 32 then a <<< k else 0
/-- SHR by an amount of any size. -/
def shrOf (a : Word) (k : Nat) : Word := if k < 32 then a >>> k else 0
/-- SAR by an amount of any size. -/
def sarOf (a : Word) (k : Nat) : Word := a.sshiftRight (min k 31)
/-- ROTL by an amount taken modulo 32. -/
def rotlOf (a : Word) (k : Nat) : Word := a.rotateLeft (k % 32)

/-- A shift by an immediate amount (R135). -/
def shiftImm (o : SI) (f : Word → Nat → Word) (u : Issue) (s : State) : Res :=
  .ok (writeLanes u s fun t => [(o.d.toNat, f (u.rd s t o.a.toNat) o.k.toNat)])

/-- A shift by a register amount (R135). -/
def shiftReg (o : SR) (f : Word → Nat → Word) (u : Issue) (s : State) : Res :=
  .ok (writeLanes u s fun t => [(o.d.toNat, f (u.rd s t o.a.toNat) (u.rd s t o.k.toNat).toNat)])

/-- SHL, immediate (R168). -/
def execShlImm (o : SI) (s : State) : Host.Outcome State Fault Refusal :=
  execUnit (.shlImm o) (shiftImm o shlOf) s

/-- SHL, register (R168). -/
def execShlReg (o : SR) (s : State) : Host.Outcome State Fault Refusal :=
  execUnit (.shlReg o) (shiftReg o shlOf) s

/-- SHR, immediate (R168). -/
def execShrImm (o : SI) (s : State) : Host.Outcome State Fault Refusal :=
  execUnit (.shrImm o) (shiftImm o shrOf) s

/-- SHR, register (R168). -/
def execShrReg (o : SR) (s : State) : Host.Outcome State Fault Refusal :=
  execUnit (.shrReg o) (shiftReg o shrOf) s

/-- SAR, immediate (R168). -/
def execSarImm (o : SI) (s : State) : Host.Outcome State Fault Refusal :=
  execUnit (.sarImm o) (shiftImm o sarOf) s

/-- SAR, register (R168). -/
def execSarReg (o : SR) (s : State) : Host.Outcome State Fault Refusal :=
  execUnit (.sarReg o) (shiftReg o sarOf) s

/-- ROTL, immediate (R168). -/
def execRotlImm (o : SI) (s : State) : Host.Outcome State Fault Refusal :=
  execUnit (.rotlImm o) (shiftImm o rotlOf) s

/-- ROTL, register (R168). -/
def execRotlReg (o : SR) (s : State) : Host.Outcome State Fault Refusal :=
  execUnit (.rotlReg o) (shiftReg o rotlOf) s

/-! ## Immediate operations (R169 to R171) -/

/-- IADD with an immediate; under usat the immediate keeps its signed value (R169). -/
def iaddImmOf (p : Pfx) (a : Word) (k : Int) : Word :=
  match p.sat with
  | 1 => satI32 (a.toInt + k)
  | 2 => satN32 ((a.toNat : Int) + k)
  | _ => wrap32 (a.toInt + k)

/-- An operation on a register and the unit's immediate. -/
def immReg (i : Instr) (o : IM) (f : Pfx → Word → Int → Word) (u : Issue) (s : State) : Res :=
  .ok (writeLanes u s fun t => [(o.d.toNat, f u.pfx (u.rd s t o.a.toNat) (immOf i u.pfx))])

/-- IADD, immediate (R169). -/
def execIaddImm (o : IM) (s : State) : Host.Outcome State Fault Refusal :=
  execUnit (.iaddImm o) (immReg (.iaddImm o) o iaddImmOf) s

/-- AND, immediate (R169). -/
def execAndImm (o : IM) (s : State) : Host.Outcome State Fault Refusal :=
  execUnit (.andImm o) (immReg (.andImm o) o fun _ a k => a &&& wrap32 k) s

/-- OR, immediate (R169). -/
def execOrImm (o : IM) (s : State) : Host.Outcome State Fault Refusal :=
  execUnit (.orImm o) (immReg (.orImm o) o fun _ a k => a ||| wrap32 k) s

/-- XOR, immediate (R169). -/
def execXorImm (o : IM) (s : State) : Host.Outcome State Fault Refusal :=
  execUnit (.xorImm o) (immReg (.xorImm o) o fun _ a k => a ^^^ wrap32 k) s

/-- MOVI (R170). -/
def execMovi (o : WI) (s : State) : Host.Outcome State Fault Refusal :=
  execUnit (.movi o) (fun u s => .ok (writeLanes u s fun _ =>
    [(o.d.toNat, wrap32 (immOf (.movi o) u.pfx))])) s

/-- MOVHI (R170). -/
def execMovhi (o : WI) (s : State) : Host.Outcome State Fault Refusal :=
  execUnit (.movhi o) (fun u s => .ok (writeLanes u s fun _ =>
    [(o.d.toNat, BitVec.ofNat 32 (o.imm.toNat * 2 ^ 16))])) s

/-- LEA: the address of the LEA word plus four times the word offset (R171). -/
def execLea (o : WI) (s : State) : Host.Outcome State Fault Refusal :=
  execUnit (.lea o) (fun u s =>
    let x : DWord := u.ipc + BitVec.ofInt 64 (4 * immOf (.lea o) u.pfx)
    .ok (writeLanes u s fun _ => [(o.d.toNat, pairLo x), (o.d.toNat + 1, pairHi x)])) s

/-! ## Integer unary operations (R181) -/

/-- Number of set bits. -/
def popcOf (a : Word) : Word := BitVec.ofNat 32 ((List.range 32).filter fun i => a.getLsbD i).length

/-- Number of leading zero bits, 32 for zero. -/
def clzOf (a : Word) : Word := BitVec.ofNat 32 (if a = 0 then 32 else 31 - Nat.log2 a.toNat)

/-- The word with its bits in reverse order. -/
def brevOf (a : Word) : Word := a.reverse

/-- NOT (R181). -/
def execNot (o : CL) (s : State) : Host.Outcome State Fault Refusal :=
  execUnit (.not o) (oneReg o.d o.a fun _ a => ~~~a) s

/-- NEG (R181). -/
def execNeg (o : CL) (s : State) : Host.Outcome State Fault Refusal :=
  execUnit (.neg o) (oneReg o.d o.a fun _ a => wrap32 (-a.toInt)) s

/-- IABS (R181). -/
def execIabs (o : CL) (s : State) : Host.Outcome State Fault Refusal :=
  execUnit (.iabs o) (oneReg o.d o.a fun _ a => wrap32 a.toInt.natAbs) s

/-- POPC (R181). -/
def execPopc (o : CL) (s : State) : Host.Outcome State Fault Refusal :=
  execUnit (.popc o) (oneReg o.d o.a fun _ a => popcOf a) s

/-- CLZ (R181). -/
def execClz (o : CL) (s : State) : Host.Outcome State Fault Refusal :=
  execUnit (.clz o) (oneReg o.d o.a fun _ a => clzOf a) s

/-- BREV (R181). -/
def execBrev (o : CL) (s : State) : Host.Outcome State Fault Refusal :=
  execUnit (.brev o) (oneReg o.d o.a fun _ a => brevOf a) s

/-- SEXT8 (R181). -/
def execSext8 (o : CL) (s : State) : Host.Outcome State Fault Refusal :=
  execUnit (.sext8 o) (oneReg o.d o.a fun _ a => wrap32 (signedOf a.toNat 8)) s

/-- SEXT16 (R181). -/
def execSext16 (o : CL) (s : State) : Host.Outcome State Fault Refusal :=
  execUnit (.sext16 o) (oneReg o.d o.a fun _ a => wrap32 (signedOf a.toNat 16)) s

/-- ZEXT8 (R181). -/
def execZext8 (o : CL) (s : State) : Host.Outcome State Fault Refusal :=
  execUnit (.zext8 o) (oneReg o.d o.a fun _ a => a &&& 0xFF) s

/-- ZEXT16 (R181). -/
def execZext16 (o : CL) (s : State) : Host.Outcome State Fault Refusal :=
  execUnit (.zext16 o) (oneReg o.d o.a fun _ a => a &&& 0xFFFF) s

end Sys2Proof.Machine
end

