-- ==== Sys2Proof/Machine/FloatArith.lean ====
section
/-! DEFINITION. Binary32 and packed 16-bit arithmetic, float unary operations and the special-function
estimates (R177 to R184, R189). -/

namespace Sys2Proof.Machine

/-- The rounding mode of the unit: MOD rnd when set, else nearest even (R161). -/
def Pfx.rnd (p : Pfx) : Rnd :=
  match p.mod with
  | none => .rn
  | some o => match o.rnd.toNat with
    | 2 => .rz
    | 3 => .ru
    | 4 => .rd
    | _ => .rn

/-- Whether MOD ftz is set. -/
def Pfx.ftz (p : Pfx) : Bool :=
  match p.mod with
  | none => false
  | some o => o.ftz == 1

/-- In of R161 for a binary32 operand of the unit. -/
def Pfx.in32 (p : Pfx) (w : Word) : FVal := inF .f32 p.ftz w.toNat

/-- Out of R161: round under the unit's mode, flush under ftz, canonical NaN. -/
def Pfx.out32 (p : Pfx) (x : FVal) : Word := round32 p.rnd p.ftz x

/-- A binary32 operation: In, the exact value, Out (R177). -/
def float3 (f : Rnd → FVal → FVal → FVal → FVal) (p : Pfx) (a b d : Word) : Word :=
  p.out32 (f p.rnd (p.in32 a) (p.in32 b) (p.in32 d))

/-- FADD (R177). -/
def execFadd (o : TR) (s : State) : Host.Outcome State Fault Refusal :=
  execUnit (.fadd o) (threeReg o (float3 fun m a b _ => addF m a b)) s

/-- FSUB (R177). -/
def execFsub (o : TR) (s : State) : Host.Outcome State Fault Refusal :=
  execUnit (.fsub o) (threeReg o (float3 fun m a b _ => addF m a b.neg)) s

/-- FMUL (R177). -/
def execFmul (o : TR) (s : State) : Host.Outcome State Fault Refusal :=
  execUnit (.fmul o) (threeReg o (float3 fun _ a b _ => mulF a b)) s

/-- FFMA: a × b + c, rounded once (R177). -/
def execFfma (o : TR) (s : State) : Host.Outcome State Fault Refusal :=
  execUnit (.ffma o) (threeReg o (float3 fun m a b c => fmaF m a b c)) s

/-- FFMS: a × b − c (R177). -/
def execFfms (o : TR) (s : State) : Host.Outcome State Fault Refusal :=
  execUnit (.ffms o) (threeReg o (float3 fun m a b c => fmaF m a b c.neg)) s

/-- FNFMA: −(a × b) + c (R177). -/
def execFnfma (o : TR) (s : State) : Host.Outcome State Fault Refusal :=
  execUnit (.fnfma o) (threeReg o (float3 fun m a b c => addF m (mulF a b).neg c)) s

/-- FMIN and FMAX (R178). -/
def execFminFmax (o : TR) (s : State) : Host.Outcome State Fault Refusal :=
  execUnit (.fminFmax o) (threeReg o fun p a b _ =>
    let x := p.in32 a
    let y := p.in32 b
    round32 .rn p.ftz (minMax o (minF x y) (maxF x y) x)) s

/-- a × 2^n exactly (R179). -/
def scaleF (n : Int) : FVal → FVal
  | .fin s m e => .fin s m (e + n)
  | x => x

/-- FSCB: vb is a signed integer and is not read through In (R179). -/
def execFscb (o : TR) (s : State) : Host.Outcome State Fault Refusal :=
  execUnit (.fscb o) (threeReg o fun p a b _ => p.out32 (scaleF b.toInt (p.in32 a))) s

/-! ## Packed 16-bit arithmetic (R180) -/

/-- Both halves of a packed operation in a 16-bit format, each rounded on its own. -/
def packed (fmt : Fmt) (rnd : Pfx → Rnd) (f : Rnd → FVal → FVal → FVal → FVal) (p : Pfx) (a b d : Word) : Word :=
  let half (i : Nat) : Nat :=
    roundF fmt (rnd p) false p.ftz (f (rnd p) (inF fmt p.ftz (bitsOf a.toNat (16 * i) 16))
      (inF fmt p.ftz (bitsOf b.toNat (16 * i) 16)) (inF fmt p.ftz (bitsOf d.toNat (16 * i) 16)))
  BitVec.ofNat 32 (half 0 + half 1 * 2 ^ 16)

/-- HADD2.bf16 (R180). -/
def execHadd2Bf16 (o : TR) (s : State) : Host.Outcome State Fault Refusal :=
  execUnit (.hadd2Bf16 o) (threeReg o (packed .bf16 Pfx.rnd fun m a b _ => addF m a b)) s

/-- HADD2.f16 (R180). -/
def execHadd2F16 (o : TR) (s : State) : Host.Outcome State Fault Refusal :=
  execUnit (.hadd2F16 o) (threeReg o (packed .f16 Pfx.rnd fun m a b _ => addF m a b)) s

/-- HMUL2.bf16 (R180). -/
def execHmul2Bf16 (o : TR) (s : State) : Host.Outcome State Fault Refusal :=
  execUnit (.hmul2Bf16 o) (threeReg o (packed .bf16 Pfx.rnd fun _ a b _ => mulF a b)) s

/-- HMUL2.f16 (R180). -/
def execHmul2F16 (o : TR) (s : State) : Host.Outcome State Fault Refusal :=
  execUnit (.hmul2F16 o) (threeReg o (packed .f16 Pfx.rnd fun _ a b _ => mulF a b)) s

/-- HFMA2.bf16 (R180). -/
def execHfma2Bf16 (o : TR) (s : State) : Host.Outcome State Fault Refusal :=
  execUnit (.hfma2Bf16 o) (threeReg o (packed .bf16 Pfx.rnd fun m a b c => fmaF m a b c)) s

/-- HFMA2.f16 (R180). -/
def execHfma2F16 (o : TR) (s : State) : Host.Outcome State Fault Refusal :=
  execUnit (.hfma2F16 o) (threeReg o (packed .f16 Pfx.rnd fun m a b c => fmaF m a b c)) s

/-- HMIN2.bf16 and HMAX2.bf16 (R180). -/
def execHmin2Hmax2Bf16 (o : TR) (s : State) : Host.Outcome State Fault Refusal :=
  execUnit (.hmin2Hmax2Bf16 o) (threeReg o (packed .bf16 (fun _ => .rn) fun _ a b _ =>
    minMax o (minF a b) (maxF a b) a)) s

/-- HMIN2.f16 and HMAX2.f16 (R180). -/
def execHmin2Hmax2F16 (o : TR) (s : State) : Host.Outcome State Fault Refusal :=
  execUnit (.hmin2Hmax2F16 o) (threeReg o (packed .f16 (fun _ => .rn) fun _ a b _ =>
    minMax o (minF a b) (maxF a b) a)) s

/-! ## Float unary operations (R182 to R184) -/

/-- FNEG (R182). -/
def execFneg (o : CL) (s : State) : Host.Outcome State Fault Refusal :=
  execUnit (.fneg o) (oneReg o.d o.a fun p a => round32 .rn p.ftz (p.in32 a).neg) s

/-- FABS (R182). -/
def execFabs (o : CL) (s : State) : Host.Outcome State Fault Refusal :=
  execUnit (.fabs o) (oneReg o.d o.a fun p a => round32 .rn p.ftz (p.in32 a).abs) s

/-- The rounding direction in FRINT's sub field (R139). -/
def frintMode (m : BitVec 2) : Rnd :=
  match m.toNat with
  | 0 => .rn
  | 1 => .rz
  | 2 => .ru
  | _ => .rd

/-- FRINT (R183). -/
def execFrint (o : CLM) (s : State) : Host.Outcome State Fault Refusal :=
  execUnit (.frint o) (oneReg o.d o.a fun p a => BitVec.ofNat 32 (frint (frintMode o.sub) p.ftz a.toNat)) s

/-- FEXPX (R184). -/
def execFexpx (o : CL) (s : State) : Host.Outcome State Fault Refusal :=
  execUnit (.fexpx o) (oneReg o.d o.a fun p a => fexpx p.ftz a.toNat) s

end Sys2Proof.Machine
end

