-- ==== Sys2Proof/Machine/LaunchRec.lean ====
section
/-! DEFINITION. The launch record (Table 12-11), its checks (Table 12-13), and whether a block or a grid
fits (R26 to R30, R41). -/

namespace Sys2Proof.Machine

/-- Kernel entry. -/
def lrEntry (r : List Word) : DWord := dAt r 2
/-- Next record of a host list. -/
def lrNext (r : List Word) : DWord := dAt r 0
/-- X. -/
def lrX (r : List Word) : Nat := wAt r 4
/-- Y. -/
def lrY (r : List Word) : Nat := bitsOf (wAt r 5) 0 16
/-- Z. -/
def lrZ (r : List Word) : Nat := bitsOf (wAt r 5) 16 16
/-- Blocks of the grid. -/
def lrBlocks (r : List Word) : Nat := lrX r * lrY r * lrZ r
/-- Group width. -/
def lrWidth (r : List Word) : Nat := 16 * 2 ^ bitsOf (wAt r 6) 30 2
/-- Groups per block. -/
def lrGroups (r : List Word) : Nat := bitsOf (wAt r 6) 24 6 + 1
/-- Declared register count. -/
def lrRegs (r : List Word) : Nat := 16 + 8 * bitsOf (wAt r 6) 20 4
/-- Accumulator tiles per block. -/
def lrAcc (r : List Word) : Nat := bitsOf (wAt r 6) 14 6
/-- Gang size; 1 without gangs. -/
def lrGang (r : List Word) : Nat := bitsOf (wAt r 6) 12 2 + 1
/-- Paired blocks. -/
def lrPaired (r : List Word) : Bool := bitOf (wAt r 6) 11
/-- CORESIDENT. -/
def lrCores (r : List Word) : Bool := bitOf (wAt r 6) 10
/-- L1 fusion requested. -/
def lrFuse (r : List Word) : Bool := bitOf (wAt r 6) 9
/-- Completion interrupt. -/
def lrIrq (r : List Word) : Bool := bitOf (wAt r 6) 8
/-- Scratchpad bytes per block. -/
def lrSmem (r : List Word) : Nat := wAt r 7
/-- Dependence word address. -/
def lrDaddr (r : List Word) : DWord := dAt r 8
/-- Dependence value. -/
def lrDval (r : List Word) : Nat := wAt r 10
/-- Dependence condition: 0 none, 1 equal, 2 at least. -/
def lrDcond (r : List Word) : Nat := bitsOf (wAt r 11) 30 2
/-- MSI-X vector. -/
def lrVec (r : List Word) : Nat := bitsOf (wAt r 11) 0 11
/-- Completion word address. -/
def lrCaddr (r : List Word) : DWord := dAt r 12
/-- Completion value. -/
def lrCval (r : List Word) : Word := r.getD 14 0
/-- Status word address. -/
def lrSaddr (r : List Word) : DWord := dAt r 16
/-- Argument word i. -/
def lrArg (r : List Word) (i : Nat) : Word := r.getD (24 + i) 0

/-- Groups of one kernel that an empty partition holds (R26, R27, Table 2-2). -/
def partCapacity (w n : Nat) : Nat := 64 / w * min 32 (1024 / n)

/-- Groups of a block that go to partition p, for G groups on one core (R26, R29). -/
def groupsIn (g p : Nat) : Nat := (g + 3 - p) / 4

/-- Blocks of a record that an empty core holds, a paired block counting its half (R26 to R29). -/
def coreCapacity (r : List Word) : Nat :=
  let g := if lrPaired r then lrGroups r / 2 else lrGroups r
  let cap := partCapacity (lrWidth r) (lrRegs r)
  let byPart := ([0, 1, 2, 3].map fun p => if groupsIn g p = 0 then 1024 else cap / groupsIn g p).foldl min 1024
  let bySmem := if lrSmem r = 0 then 1024 else 0x80000 / lrSmem r
  let byAcc := if lrAcc r = 0 then 1024 else 48 / lrAcc r
  min byPart (min bySmem byAcc)

/-- Cores that unit k of a cluster takes: pairs, gangs or single cores (R29, R30). -/
def unitCores (r : List Word) (cl : Nat) : List (List Nat) :=
  let c := 4 * cl
  if lrPaired r then [[c, c + 1], [c + 2, c + 3]]
  else match lrGang r with
    | 1 => [[c], [c + 1], [c + 2], [c + 3]]
    | 2 => [[c, c + 1], [c + 2, c + 3]]
    | 3 => [[c, c + 1, c + 2]]
    | _ => [[c, c + 1, c + 2, c + 3]]

/-- Blocks of a record that a core set holds when empty (R41). -/
def setCapacity (r : List Word) (cores : BitVec 192) : Nat :=
  let us := (List.range 48).flatMap fun cl =>
    (unitCores r cl).filter fun u => u.all fun c => cores.getLsbD c
  us.length * coreCapacity r * lrGang r

/-- Row RESERVED of Table 12-13. -/
def lrReserved (r : List Word) : Bool :=
  bitsOf (wAt r 6) 30 2 == 3 || bitsOf (wAt r 6) 0 8 != 0 || lrDcond r == 3 ||
    bitsOf (wAt r 11) 11 19 != 0 || wAt r 15 != 0 ||
    ([18, 19, 20, 21, 22, 23].any fun i => wAt r i != 0) ||
    ((lrDcond r == 0) != (lrDaddr r == 0)) || (!lrIrq r && lrVec r != 0)

/-- Row SHAPE of Table 12-13. -/
def lrShapeBad (r : List Word) : Bool :=
  lrX r == 0 || lrY r == 0 || lrZ r == 0 || decide (2 ^ 32 - 1 < lrBlocks r) ||
    decide (10 < bitsOf (wAt r 6) 20 4) || decide (48 < lrAcc r) || decide (0x80000 < lrSmem r) ||
    lrSmem r % 256 != 0 ||
    ([lrEntry r, lrDaddr r, lrCaddr r, lrSaddr r].any fun a => a.toNat % 4 != 0 || !canonical a)

/-- The checks of Table 12-13 on a record for queue q of a context, in order; 0 is QUEUED. -/
def launchCheck (c : Ctx) (q : Nat) (r : List Word) : Nat :=
  if lrReserved r then 0x20
  else if lrShapeBad r then 0x21
  else if lrPaired r && lrGroups r % 2 == 1 then 0x22
  else if (lrGang r != 1 && lrPaired r) || lrBlocks r % lrGang r != 0 then 0x23
  else if coreCapacity r == 0 || (lrCores r && decide (setCapacity r c.cores < lrBlocks r)) then 0x24
  else if c.nq ≤ q then 0x25
  else 0

end Sys2Proof.Machine
end

