-- ==== Sys2Proof/Machine/Move.lean ====
section
/-! DEFINITION. Compares, predicate logic and moves: ISETP, FSETP, the predicate family, MOV, the special
registers and the mask moves (R172 to R176, R190 to R192, R202). -/

namespace Sys2Proof.Machine

/-! ## Compares and predicates -/

/-- ISETP.i32 (R172). -/
def execIsetpI32 (o : CP) (s : State) : Host.Outcome State Fault Refusal :=
  execUnit (.isetpI32 o) (fun u s => .ok (writePreds u s o.pd fun t =>
    intCond o.cond (u.rd s t o.a.toNat).toInt (u.rd s t o.b.toNat).toInt)) s

/-- ISETP.n32 (R172). -/
def execIsetpN32 (o : CP) (s : State) : Host.Outcome State Fault Refusal :=
  execUnit (.isetpN32 o) (fun u s => .ok (writePreds u s o.pd fun t =>
    intCond o.cond (u.rd s t o.a.toNat).toNat (u.rd s t o.b.toNat).toNat)) s

/-- FSETP (R173). -/
def execFsetp (o : CP) (s : State) : Host.Outcome State Fault Refusal :=
  execUnit (.fsetp o) (fun u s => .ok (writePreds u s o.pd fun t =>
    floatCond o.cond (u.pfx.in32 (u.rd s t o.a.toNat)) (u.pfx.in32 (u.rd s t o.b.toNat)))) s

/-- PLOP (R174). -/
def execPlop (o : PLF) (s : State) : Host.Outcome State Fault Refusal :=
  execUnit (.plop o) (fun u s => .ok (writePreds u s o.pd fun t =>
    let th := u.grp.thr t
    plopOf o.op (th.prd o.pa != (o.na == 1)) (th.prd o.pb != (o.nb == 1)))) s

/-- PPACK (R175). -/
def execPpack (o : PPF) (s : State) : Host.Outcome State Fault Refusal :=
  execUnit (.ppack o) (fun u s => .ok (writeLanes u s fun t =>
    [(o.d.toNat, (u.grp.thr t).p.setWidth 32)])) s

/-- PUNPK (R175). -/
def execPunpk (o : SWF) (s : State) : Host.Outcome State Fault Refusal :=
  execUnit (.punpk o) (fun u s => .ok (updAct u s fun t th =>
    { th with p := (u.rd s t o.a.toNat).setWidth 12 })) s

/-- CMOV: the lanes whose predicate holds write, the others keep vd (R176). -/
def execCmov (o : CMF) (s : State) : Host.Outcome State Fault Refusal :=
  execUnit (.cmov o) (fun u s => .ok (s.updGrp u.gid fun g => g.wrLanes
    (u.act.map fun t =>
      (t, if (u.grp.thr t).prd o.p != (o.neg == 1) then [(o.d.toNat, u.rd s t o.a.toNat)] else [])))) s

/-! ## Moves -/

/-- MOV (R190). -/
def execMov (o : CL) (s : State) : Host.Outcome State Fault Refusal :=
  execUnit (.mov o) (oneReg o.d o.a fun _ a => a) s

/-- A 32-bit special register of a thread (Table 3-2). -/
def special (u : Issue) (s : State) (t n : Nat) : Word :=
  let g := u.grp
  let b := s.blk? g.bid
  let lin := (b.map Block.lin).getD 0
  let r := ((s.grid? g.gr).map Grid.lrec).getD []
  let inBlock : Bool := b.isSome
  let x : Nat := match n with
    | 0x00 => g.lane t
    | 0x01 => g.g * g.width + t
    | 0x02 => g.g
    | 0x03 => if inBlock then lin % lrX r else 0
    | 0x04 => if inBlock then lin / lrX r % lrY r else 0
    | 0x05 => if inBlock then lin / (lrX r * lrY r) else 0
    | 0x06 => if inBlock then lrBlocks r else 0
    | 0x07 => g.core
    | 0x08 => (b.map Block.rank).getD 0
    | 0x09 => g.width
    | _ => g.cxid
  BitVec.ofNat 32 x

/-- Reference ticks since the last cold reset (R57). -/
def State.refTicks (s : State) : DWord := BitVec.ofNat 64 (s.ref252 / 252)

/-- SRD (R191). -/
def execSrd (o : SDF) (s : State) : Host.Outcome State Fault Refusal :=
  execUnit (.srd o) (fun u s => .ok (writeLanes u s fun t =>
    if o.n = 0x0A then [(o.d.toNat, pairLo s.refTicks), (o.d.toNat + 1, pairHi s.refTicks)]
    else if o.n = 0x0C then
      [(o.d.toNat, pairLo (u.grp.thr t).lr), (o.d.toNat + 1, pairHi (u.grp.thr t).lr)]
    else [(o.d.toNat, special u s t o.n.toNat)])) s

/-- SWR to sr.lr (R192). -/
def execSwr (o : SWF) (s : State) : Host.Outcome State Fault Refusal :=
  execUnit (.swr o) (fun u s => .ok (updAct u s fun t th => { th with lr := u.rd64 s t o.a.toNat })) s

/-! ## Mask moves (R202) -/

/-- Mask register k of a group. -/
def Group.mask (g : Group) (k : BitVec 3) : DWord := g.m.getD k.toNat 0

/-- Set mask register k of the unit's group. -/
def setMask (u : Issue) (s : State) (k : BitVec 3) (x : DWord) : State :=
  s.updGrp u.gid fun g => { g with m := g.m.set k.toNat x }

/-- MSKR (R202). -/
def execMskr (o : MRF) (s : State) : Host.Outcome State Fault Refusal :=
  execUnit (.mskr o) (fun u s => .ok (writeLanes u s fun _ =>
    [(o.d.toNat, pairLo (u.grp.mask o.k)), (o.d.toNat + 1, pairHi (u.grp.mask o.k))])) s

/-- MSKW: the value of the lowest lane of Active, bits from the width upward zero (R202). -/
def execMskw (o : MWF) (s : State) : Host.Outcome State Fault Refusal :=
  execUnit (.mskw o) (fun u s => match u.act with
    | [] => .ok s
    | t :: _ => .ok (wake (setMask u s o.k (u.rd64 s t o.a.toNat &&& tmask (List.range u.grp.width))))) s

/-- MSKP (R202). -/
def execMskp (o : MPF) (s : State) : Host.Outcome State Fault Refusal :=
  execUnit (.mskp o) (fun u s => .ok (writePreds u s o.pd fun t => (u.grp.mask o.k).getLsbD t)) s

/-- PMSK: bits of threads outside Active keep their values (R202). -/
def execPmsk (o : PMF) (s : State) : Host.Outcome State Fault Refusal :=
  execUnit (.pmsk o) (fun u s =>
    let on := u.act.filter fun t => (u.grp.thr t).prd o.pa
    .ok (wake (setMask u s o.k ((u.grp.mask o.k &&& ~~~tmask u.act) ||| tmask on)))) s

end Sys2Proof.Machine
end

