-- ==== Sys2Proof/Machine/Control.lean ====
section
/-! DEFINITION. Control transfer, EXIT, traps by instruction, rejoin masks, votes, shuffles and group
reductions (R196 to R205). -/

namespace Sys2Proof.Machine

/-! ## Control transfer (R196, R197) -/

/-- Whether a lane takes a branch (R196). -/
def branchTaken (o : BRF) (th : Thread) : Bool := th.prd o.p != (o.neg == 1)

/-- The target of a branch: the branch word's address plus four times the signed offset. -/
def branchTarget (u : Issue) (o : BRF) : DWord := u.ipc + BitVec.ofInt 64 (4 * signedOf o.off.toNat 18)

/-- BR (R196). -/
def execBr (o : BRF) (s : State) : Host.Outcome State Fault Refusal :=
  execUnit (.br o) (fun u s => .ok (updAct u s fun t th =>
    if branchTaken o (u.grp.thr t) then { th with pc := branchTarget u o } else th)) s

/-- CALL: a taken lane also writes its link (R196). -/
def execCall (o : BRF) (s : State) : Host.Outcome State Fault Refusal :=
  execUnit (.call o) (fun u s => .ok (updAct u s fun t th =>
    if branchTaken o (u.grp.thr t) then { th with pc := branchTarget u o, lr := u.ipc + 4 } else th)) s

/-- Jump every active lane to a target of its own, after the checks of all of them (R197)
(DEDUCED, notes/assumptions/28.md). -/
def jumpLanes (u : Issue) (s : State) (tgt : Nat → DWord) : Res :=
  let mis := u.act.filter fun t => (tgt t).toNat % 4 != 0
  let non := u.act.filter fun t => !canonical (tgt t)
  match mis, non with
  | t :: ts, _ => .trap (u.ti .misaligned (t :: ts) (tgt t))
  | [], t :: ts => .trap (u.ti .protection (t :: ts) (tgt t))
  | [], [] => .ok (updAct u s fun t th => { th with pc := tgt t })

/-- RET (R197). -/
def execRet (o : RCF) (s : State) : Host.Outcome State Fault Refusal :=
  execUnit (.ret o) (fun u s => jumpLanes u s fun t => (u.grp.thr t).lr) s

/-- JIDX (R197). -/
def execJidx (o : SWF) (s : State) : Host.Outcome State Fault Refusal :=
  execUnit (.jidx o) (fun u s => jumpLanes u s fun t => u.rd64 s t o.a.toNat) s

/-! ## NOP, EXIT, TRAP and BRK (R199, R200) -/

/-- NOP (R199). -/
def execNop (o : RCF) (s : State) : Host.Outcome State Fault Refusal :=
  execUnit (.nop o) (fun _ s => .ok s) s

/-- EXIT (R45, R199). -/
def execExit (o : RCF) (s : State) : Host.Outcome State Fault Refusal :=
  execUnit (.exit o) (fun u s => .ok (exitEffect s u.gid u.act)) s

/-- TRAP: SOFTWARE with the immediate as faulting address (R200). -/
def execTrap (o : TPF) (s : State) : Host.Outcome State Fault Refusal :=
  execUnit (.trap o) (fun u s =>
    if u.act.isEmpty then .ok s else .trap (u.ti .software u.act (o.imm.setWidth 64))) s

/-- BRK: BREAKPOINT (R200). -/
def execBrk (o : RCF) (s : State) : Host.Outcome State Fault Refusal :=
  execUnit (.brk o) (fun u s => if u.act.isEmpty then .ok s else .trap (u.ti .breakpoint u.act)) s

/-! ## Rejoin masks (R35, R201) -/

/-- JENR: set the active threads' bits; threads parked at JWAIT on the mask wait for them (R35). -/
def execJenr (o : KF) (s : State) : Host.Outcome State Fault Refusal :=
  execUnit (.jenr o) (fun u s => .ok (wake (setMask u s o.k (u.grp.mask o.k ||| tmask u.act)))) s

/-- JWAIT: enrolled threads park after their regions commit; the others pass (R35, R201). -/
def execJwait (o : KF) (s : State) : Host.Outcome State Fault Refusal :=
  execUnit (.jwait o) (fun u s =>
    let enrolled := u.act.filter fun t => (u.grp.mask o.k).getLsbD t
    let other := u.grp.live.any fun t => (u.grp.thr t).park == some (.jwait o.k.toNat) &&
      (u.grp.mask o.k).getLsbD t && (u.grp.thr t).pc != u.ipc + 4
    if !enrolled.isEmpty && other then .trap (u.ti .barrierMismatch enrolled)
    else
      let s := closeRegion u s
      let s := s.updGrp u.gid fun g => g.updThrs enrolled fun th => { th with park := some (.jwait o.k.toNat) }
      .ok (wake s)) s

/-! ## Votes (R203) -/

/-- VOTE.any (R203). -/
def execVoteAny (o : VTF) (s : State) : Host.Outcome State Fault Refusal :=
  execUnit (.voteAny o) (fun u s => .ok (writePreds u s o.pd fun _ =>
    u.act.any fun t => (u.grp.thr t).prd o.pa)) s

/-- VOTE.all (R203). -/
def execVoteAll (o : VTF) (s : State) : Host.Outcome State Fault Refusal :=
  execUnit (.voteAll o) (fun u s => .ok (writePreds u s o.pd fun _ =>
    u.act.all fun t => (u.grp.thr t).prd o.pa)) s

/-- VOTE.ballot (R203). -/
def execVoteBallot (o : VBF) (s : State) : Host.Outcome State Fault Refusal :=
  execUnit (.voteBallot o) (fun u s =>
    let x := tmask (u.act.filter fun t => (u.grp.thr t).prd o.pa)
    .ok (writeLanes u s fun _ => [(o.d.toNat, pairLo x), (o.d.toNat + 1, pairHi x)])) s

/-! ## Shuffle (R204) -/

/-- The source thread of a shuffle, for thread t and operand n. -/
def shflSource (mode : BitVec 2) (t n : Nat) : Int :=
  match mode.toNat with
  | 0 => n
  | 1 => (t : Int) - n
  | 2 => (t : Int) + n
  | _ => ((t ^^^ n : Nat) : Int)

/-- SHFL: a source outside the group or outside Active gives the thread's own value (R204). -/
def execShfl (o : SHF) (s : State) : Host.Outcome State Fault Refusal :=
  execUnit (.shfl o) (fun u s => .ok (writeLanes u s fun t =>
    let src := shflSource o.mode t (u.rd s t o.b.toNat).toNat
    let from_ := if 0 ≤ src ∧ src < u.grp.width ∧ u.act.contains src.toNat then src.toNat else t
    [(o.d.toNat, u.rd s from_ o.a.toNat)])) s

/-! ## Group reductions (R205) -/

/-- One level of the fixed tree: adjacent values combined, an absent one giving the other unchanged, a NaN too (R205)
(DEDUCED, notes/assumptions/70.md). -/
def gredLevel (f : Word → Word → Word) : List (Option Word) → List (Option Word)
  | x :: y :: r => (match x, y with
      | some a, some b => some (f a b)
      | some a, none => some a
      | none, b => b) :: gredLevel f r
  | l => l

/-- The levels of the tree, by fuel. -/
def gredTree (f : Word → Word → Word) : Nat → List (Option Word) → Option Word
  | 0, l => (l.headD none)
  | n + 1, l => if l.length ≤ 1 then l.headD none else gredTree f n (gredLevel f l)

/-- The reduction over the threads of the group, by thread index (R205). -/
def gred (o : GRF) (f : BitVec 2 → Word → Word → Word) (u : Issue) (s : State) : Res :=
  let xs := (List.range u.grp.width).map fun t =>
    if u.act.contains t then some (u.rd s t o.a.toNat) else none
  let x := (gredTree (f o.ty) 7 xs).getD 0
  .ok (writeLanes u s fun _ => [(o.d.toNat, x)])

/-- GRED.add's Combine (Table 9-3). -/
def gredAddOf (ty : BitVec 2) (a b : Word) : Word :=
  if ty = 2 then round32 .rn false (addF .rn (f32 a) (f32 b)) else a + b

/-- GRED.min's Combine (Table 9-3). -/
def gredMinOf (ty : BitVec 2) (a b : Word) : Word :=
  if ty = 2 then round32 .rn false (minF (f32 a) (f32 b)) else if ty = 1 then minN a b else minI a b

/-- GRED.max's Combine (Table 9-3). -/
def gredMaxOf (ty : BitVec 2) (a b : Word) : Word :=
  if ty = 2 then round32 .rn false (maxF (f32 a) (f32 b)) else if ty = 1 then maxN a b else maxI a b

/-- GRED.add (R205). -/
def execGredAdd (o : GRF) (s : State) : Host.Outcome State Fault Refusal :=
  execUnit (.gredAdd o) (gred o gredAddOf) s

/-- GRED.min (R205). -/
def execGredMin (o : GRF) (s : State) : Host.Outcome State Fault Refusal :=
  execUnit (.gredMin o) (gred o gredMinOf) s

/-- GRED.max (R205). -/
def execGredMax (o : GRF) (s : State) : Host.Outcome State Fault Refusal :=
  execUnit (.gredMax o) (gred o gredMaxOf) s

end Sys2Proof.Machine
end

