-- ==== Sys2Proof/Machine/Permits.lean ====
section
/-! DEFINITION. Request permits: which requests of a core hold one of a slice's six (R273, R432). -/

namespace Sys2Proof.Machine

/-- The home slice of a request's bytes; none for scratchpad. -/
def Req.home (s : State) (r : Req) : Option Nat :=
  if r.blk.isSome then none else (s.buf? r.b).map fun b => homeSlice b r.off

/-- The home slice of a remote update's first line. -/
def ruSlice (s : State) (r : RuReq) : Nat := ((s.buf? r.b).map fun b => homeSlice b r.off).getD 0

/-- The slice whose permit a message to a core takes (R432). -/
def msgSlice (core : Nat) : Nat := 64 * (core / 96) + core % 64

/-- Core of a message's sender (Table 2-5). -/
def Msg.from_ (m : Msg) : Nat := bitsOf m.sender.toNat 16 8

/-- Whether two pieces leave their core as one request: of one execution and destination, to one line (R229, R414, R432). -/
def Req.mate (r x : Req) : Bool :=
  x.gid == r.gid && x.inst == r.inst && x.sub == r.sub && (x.kind == .load) == (r.kind == .load) && x.blk == r.blk && x.b == r.b &&
    x.off / 128 == r.off / 128

/-- What the pieces of one request have in common. -/
def Req.line (r : Req) : Nat × Nat × Nat × Bool × Nat × Nat := (r.gid, r.inst, r.sub, r.kind == .load, r.b, r.off / 128)

/-- Requests of a core that hold a permit of a slice: from their way on to the reply, an ROP's to its acknowledgement, a message's
to its place in its queue (R273, R432). Requests to a peer's memory, whose home slice lies on the peer,
take permits of slice 0 (DESIGN CHOICE, notes/assumptions/62.md). -/
def permits (s : State) (core slice : Nat) : Nat :=
  ((s.reqs.filter fun r => r.core == core && r.stage != .waiting && r.home s == some slice).map Req.line).eraseDups.length +
  (s.rus.filter fun r => r.core == core && r.sent && (r.ropr || !r.applied) && ruSlice s r == slice).length +
  (s.msgs.filter fun m => m.st == .fabric && m.from_ == core && msgSlice m.core == slice).length

/-- Whether a core holds a free permit for the home slice of a place (R432). -/
def permitFree (s : State) (core b off : Nat) : Bool :=
  match s.buf? b with
  | some x => decide (permits s core (homeSlice x off) < 6)
  | none => true

/-- Whether an instruction of a thread still waits at issue: for tokens or a permit of a request or a message of it (R414,
R432) (DEDUCED, notes/assumptions/60.md). -/
def issueWaits (s : State) (gid tid : Nat) : Bool :=
  s.reqs.any (fun r => r.gid == gid && r.tid == tid && r.stage == .waiting) ||
    s.rus.any (fun r => r.gid == gid && r.tid == tid && !r.sent) || s.msgs.any fun m => m.gid == gid && m.tid == tid && m.st == .issue

end Sys2Proof.Machine
end

