-- ==== Sys2Proof/Machine/ReqOps.lean ====
section
/-! DEFINITION. Shared operations of the memory instructions: long-latency results (R42), the checks of all
lanes before any access (R85, R206), scratchpad places (R86, R87), requests (R97, R106), and buffered
stores with their limits (R119, R120). -/

namespace Sys2Proof.Machine

/-! ## Long-latency results -/

/-- Where a lane's result lands: an s register takes the lowest lane's (R52). -/
def Issue.landing (u : Issue) (t r : Nat) : Option Nat := if r < 96 || t == u.low then some r else none

/-- Number of the pending result that an active lane gets from this unit. -/
def Issue.pendId (u : Issue) (s : State) (t : Nat) : Nat := s.nextId + u.act.idxOf t

/-- Give each active lane a pending long-latency result: its destination registers, and the words that
are known already (R42). A destination that the same instruction marked for last use is not freed (R44). -/
def addPends (u : Issue) (s : State) (f : Nat → List Nat × List (Option Word)) (mem eng : Bool := false) : State :=
  let s' := updAct u s fun t th => { th with
    dead := th.dead.filter fun r => !(f t).1.contains r
    pend := th.pend ++ [{ id := u.pendId s t, dsts := (f t).1.map (u.landing t), words := (f t).2, fpc := u.upc, mem := mem, eng := eng }] }
  { s' with nextId := s.nextId + u.act.length }

/-! ## Order, scope and policy of a unit -/

/-- Order and scope: MOD's where it sets them, else relaxed at .dev (R96). -/
def Pfx.ord (p : Pfx) : Nat × Nat :=
  match p.mod with
  | some o => if o.ordv = 1 then (o.ord.toNat, o.scope.toNat) else (0, 4)
  | none => (0, 4)

/-- Cache policy set by MOD cp (R152). -/
def Pfx.cp (p : Pfx) : Nat :=
  match p.mod with
  | some o => if o.cpv = 1 then o.cp.toNat else 0
  | none => 0

/-! ## Checks over lanes -/

/-- The place of a failed check in the order of checks. A translation tests for an absent entry before it tests for a malformed
one, as R206 lists them (DEDUCED, notes/assumptions/11.md). -/
def XFault.order (f : XFault) : Nat := 32 * f.rank + (if f.cause == .pageFault then 0 else f.cause.code)

/-- The trap of failed checks: the cause of the first check in the order, the lanes that failed it, and
the address of the lowest of them (R85). -/
def failTrap (u : Issue) (wr : Bool) (fs : List (Nat × XFault)) : TrapInfo :=
  let k := (fs.map fun x => x.2.order).foldl min 9999
  match fs.filter fun x => x.2.order == k with
  | [] => u.ti .protection []
  | (t, f) :: r =>
    { cause := f.cause, lanes := t :: r.map Prod.fst, fpc := u.upc, faddr := f.va, cxid := f.cxid,
      wr := wr && !f.walk, walk := f.walk, reads := fs.flatMap fun x => x.2.reads }

/-- Check every lane; the places of all of them, or the trap (R85) (DEDUCED, notes/assumptions/11.md). -/
def checkLanes {α : Type} (u : Issue) (wr : Bool) (ls : List Nat) (f : Nat → Except XFault α) :
    Except TrapInfo (List (Nat × α)) :=
  let rs := ls.map fun t => (t, f t)
  let bad := rs.filterMap fun x => match x.2 with
    | .error e => some (x.1, e)
    | .ok _ => none
  if bad.isEmpty then .ok (rs.filterMap fun x => match x.2 with
    | .ok p => some (x.1, p)
    | .error _ => none)
  else .error (failTrap u wr bad)

/-- Where one lane's access lands: global, or in a block's scratchpad. -/
structure Acc where
  va : DWord
  b : Nat
  off : Nat
  owner : Nat
  blk : Option Nat
  ent : Option XEnt
deriving DecidableEq, Repr

/-- A global place. -/
def Acc.ofSpot (va : DWord) (p : Spot) : Acc :=
  { va := va, b := p.b, off := p.off, owner := p.owner, blk := none, ent := some p.ent }

/-- A lane's global access, checked in the order of R206. -/
def accGlobal (u : Issue) (s : State) (va : DWord) (size : Nat) (need : Need) : Except XFault Acc :=
  match gcheck s u.grp.cxid va size need with
  | .error f => .error f
  | .ok p => .ok (Acc.ofSpot va p)

/-- Bytes of a block's scratchpad: doubled for a paired block (R29, R86). -/
def Block.size (b : Block) : Nat := if b.paired then 2 * b.smem else b.smem

/-- A scratchpad failure. -/
def padFault (u : Issue) (c : Cause) (o rank : Nat) : XFault :=
  { cause := c, cxid := u.grp.cxid, va := BitVec.ofNat 64 o, rank := rank }

/-- A lane's access to its own block's scratchpad (R86, R209). -/
def accPad (u : Issue) (s : State) (o size : Nat) : Except XFault Acc :=
  match s.blk? u.grp.bid with
  | none => .error (padFault u .protection o 1)
  | some b =>
    if o % size ≠ 0 then .error (padFault u .misaligned o 0)
    else if o + size > b.size then .error (padFault u .protection o 1)
    else .ok { va := BitVec.ofNat 64 o, b := 0, off := o, owner := 0, blk := some b.bid, ent := none }

/-- The member of a block's gang with a rank, while it has not left the gang: a thread of it, resident or saved with its
block, has not exited (R46). -/
def gangMember (s : State) (b : Block) (r : Nat) : Option Block :=
  s.blocks.find? fun x => x.gr == b.gr && x.gang == b.gang && x.rank == r &&
    ((s.groups.any fun g => g.bid == x.bid && !g.live.isEmpty) || (x.saved.getD []).any fun g => !g.live.isEmpty)

/-- Blocks of the gang of a block's grid. -/
def gangSize (s : State) (b : Block) : Nat := ((s.grid? b.gr).map fun g => lrGang g.lrec).getD 1

/-- A lane's access to a gang peer's scratchpad, in the order of R87. -/
def accPeer (u : Issue) (s : State) (rank o size : Nat) : Except XFault Acc :=
  match s.blk? u.grp.bid with
  | none => .error (padFault u .protection o 1)
  | some b =>
    if o % size ≠ 0 then .error (padFault u .misaligned o 0)
    else if gangSize s b ≤ rank then .error (padFault u .protection o 1)
    else if o + size > b.size then .error (padFault u .protection o 2)
    else if gangSize s b = 1 then
      .ok { va := BitVec.ofNat 64 o, b := 0, off := o, owner := 0, blk := some b.bid, ent := none }
    else match gangMember s b rank with
      | none => .error (padFault u .peerAbsent o 3)
      | some x => .ok { va := BitVec.ofNat 64 o, b := 0, off := o, owner := 0, blk := some x.bid, ent := none }

/-- Cache the composed entries that the lanes' accesses used, and set the lanes' last-page registers (R364). -/
def cacheAccs (u : Issue) (s : State) (as : List (Nat × Acc)) : State :=
  as.foldl (fun s a => match a.2.ent with
    | some e => setLastPage (cacheEnt s e) u.core (u.grp.lane a.1) u.grp.cxid a.2.va
    | none => s) s

/-! ## Requests -/

/-- The single-copy-atomic pieces of an access (R97): offsets and sizes (DEDUCED, notes/assumptions/60.md). -/
def pieces (size : Nat) : List (Nat × Nat) := if size ≤ 8 then [(0, size)] else [(0, 8), (8, 8)]

/-- Bytes of a piece that the thread's own buffered stores hold: for each the youngest store that covers
it (R106). The mask has a bit per byte. -/
def fwdBytes (th : Thread) (a : Acc) (lo n : Nat) : Nat × DWord :=
  (List.range n).foldl (fun acc i =>
    let o := a.off + lo + i
    match th.stores.reverse.find? fun b => (match a.blk with
        | some k => !b.glob && b.blk == k
        | none => b.glob && b.b == a.b) && b.off ≤ o && o < b.off + b.size with
    | some b => (acc.1 ||| (1 <<< i),
        acc.2 ||| BitVec.ofNat 64 ((bitsOf b.data.toNat (8 * (o - b.off)) 8) <<< (8 * i)))
    | none => acc) (0, 0)

/-- A request of a lane for one piece of an access. -/
def mkReq (u : Issue) (kind : ReqKind) (t : Nat) (a : Acc) (lo n ord scope pol inst : Nat) : Req :=
  { id := 0, cxid := u.grp.cxid, gid := u.gid, tid := t, core := u.core, kind := kind,
    va := a.va + BitVec.ofNat 64 lo, b := a.b, off := a.off + lo, owner := a.owner, size := n,
    ord := ord, scope := scope, pol := pol, stage := if a.blk.isSome then .port else .waiting,
    inst := inst, blk := a.blk, fpc := u.upc, opens := (a.ent.map XEnt.opens).getD [] }

/-- Add requests, numbering them in order; those of order .sc take their tickets (R103). -/
def addReqs (s : State) (rs : List Req) : State :=
  { addTicketed s (rs.mapIdx fun i r => { r with id := s.nextId + i }) with nextId := s.nextId + rs.length }

/-- Load requests of the lanes for `size` bytes each: their results go to the lanes' pending results of
this unit, which were numbered from `pid` (DEDUCED, notes/assumptions/60.md). -/
def loadReqs (u : Issue) (pid size ord scope pol inst : Nat) (as : List (Nat × Acc)) : List Req :=
  as.flatMap fun x => (pieces size).map fun p =>
    let fw := fwdBytes (u.grp.thr x.1) x.2 p.1 p.2
    { mkReq u .load x.1 x.2 p.1 p.2 ord scope pol inst with
      fwd := fw.1, data := fw.2, pend := pid + u.act.idxOf x.1, word := p.1 / 4 }

/-- Registers of an access of a size (Table 9-6). -/
def sizeRegs (size : Nat) : Nat := if size ≤ 4 then 1 else size / 4

/-- Load `size` bytes per lane into registers from d: pending results, then the requests (R42, R206). -/
def startLoads (u : Issue) (s : State) (d size pol : Nat) (as : List (Nat × Acc)) : State :=
  let (ord, scope) := u.pfx.ord
  let n := sizeRegs size
  let s := cacheAccs u s as
  let pid := s.nextId
  let s := addPends u s (fun t => ((List.range n).map fun k => d + k,
    (List.range n).map fun _ => if as.any (fun x => x.1 == t) then none else some 0)) true
  addReqs s (loadReqs u pid size ord scope pol s.nextId as)

/-! ## Buffered stores -/

/-- Register data of a store of a size: the low bytes of one register, or a pair, or a quad (Table 9-6). -/
def storeData (u : Issue) (s : State) (t r size : Nat) : BitVec 128 :=
  let ws := u.rdN s t r (sizeRegs size)
  BitVec.ofNat 128 (leNat (wordsBytes ws) % 2 ^ (8 * size))

/-- Whether a group is the oldest of those that hold chunks in its partition, by age (R37, R120). -/
def oldestHolder (s : State) (g : Group) : Bool :=
  s.groups.all fun x => x.held == 0 || x.core != g.core || x.part != g.part ||
    decide (g.born < x.born) || (g.born == x.born && decide (g.g ≤ x.g))

/-- Chunks in use in a group's partition. -/
def chunksUsed (s : State) (g : Group) : Nat :=
  ((s.groups.filter fun x => x.core == g.core && x.part == g.part).map fun x => ceilDiv x.held 1024).sum

/-- Bytes of a group's buffered stores: those of open regions, and those committed and not performed (R120). -/
def bytesHeld (s : State) (g : Group) : Nat :=
  (g.threads.map fun th => (th.stores.map BStore.size).sum).sum +
    ((s.reqs.filter fun r => r.gid == g.gid && r.buffered && !r.performed).map Req.size).sum

/-- The most bytes that a group's chunks have held, with more to come: chunks go back all together (R120). -/
def chunkNeed (s : State) (g : Group) (bytes : Nat) : Nat := max g.held (bytesHeld s g + bytes)

/-- Whether a group can take the chunks for more bytes: 64 per partition, the last 8 for the oldest
holder alone (R120). -/
def chunkRoom (s : State) (g : Group) (bytes : Nat) : Bool :=
  let more := ceilDiv (chunkNeed s g bytes) 1024 - ceilDiv g.held 1024
  let limit := if decide (0 < g.held) && oldestHolder s g then 64 else 56
  more == 0 || decide (chunksUsed s g + more ≤ limit)

/-- A store instruction of the unit: the lanes' checks, REGION_FULL at a ninth store (DEDUCED, notes/assumptions/26.md),
room in the region store buffer for every active lane, then one buffered store per writing lane and one counted store per thread (R119, R120). -/
def bufferStores (u : Issue) (s : State) (size pol : Nat) (data : Nat → BitVec 128)
    (accs : Except TrapInfo (List (Nat × Acc))) : Res :=
  let full := u.tids.filter fun t => decide (8 ≤ (u.grp.thr t).nst)
  match accs with
  | .error ti => .trap ti
  | .ok as =>
    if !full.isEmpty then .trap (u.ti .regionFull full 0 true)
    else if !chunkRoom s u.grp (u.act.length * size) then .retry (.bytes (u.act.length * size))
    else
      let (ord, scope) := u.pfx.ord
      let s := cacheAccs u s as
      .ok ((s.updGrp u.gid fun g => { g with
        held := chunkNeed s u.grp (u.act.length * size)
        threads := g.threads.mapIdx fun t th =>
          if u.tids.contains t then
            { th with
              nst := th.nst + 1
              stores := th.stores ++ (as.filter fun x => x.1 == t).map fun x =>
                { glob := x.2.blk.isNone, cxid := u.grp.cxid, va := x.2.va, b := x.2.b, off := x.2.off,
                  owner := x.2.owner, opens := (x.2.ent.map XEnt.opens).getD [], blk := x.2.blk.getD 0, size := size, data := data t,
                  ord := ord, scope := scope, pol := pol, inst := s.nextId, fpc := u.upc } }
          else th }) |> fun s => { s with nextId := s.nextId + 1 })

end Sys2Proof.Machine
end

