-- ==== Sys2Proof/Machine/RuProg.lean ====
section
/-! DEFINITION. Remote update definitions (R255 to R256), the checks of RDEF (R265) and the micro-op machine
of a home unit (R257 to R262). -/

namespace Sys2Proof.Machine

/-! ## The definition record (Tables 11-1 and 11-2) -/

/-- Granule code: 0 ELEM, 1 SECTOR, 2 LINE, 3 TILE. -/
def ruGran (d : List Word) : Nat := bitsOf (wAt d 0) 30 2
/-- The tlines field. -/
def ruTlines (d : List Word) : Nat := bitsOf (wAt d 0) 26 4
/-- Lines of the granule. -/
def ruLines (d : List Word) : Nat := if ruGran d = 3 then ruTlines d + 1 else 1
/-- Place: 0 L2, 1 BASE, 2 EITHER. -/
def ruPlace (d : List Word) : Nat := bitsOf (wAt d 0) 24 2
/-- Order class: 0 COMMUTATIVE, 1 COMBINE, 2 ORDERED. -/
def ruClass (d : List Word) : Nat := bitsOf (wAt d 0) 22 2
/-- Fault mode PER_LINE. -/
def ruPerLine (d : List Word) : Bool := bitOf (wAt d 0) 21
/-- Return: 0 none, 1 old value, 2 new value, 3 status word. -/
def ruRet (d : List Word) : Nat := bitsOf (wAt d 0) 19 2
/-- Payload bytes. -/
def ruPsize (d : List Word) : Nat := bitsOf (wAt d 0) 11 8
/-- Micro-ops. -/
def ruNops (d : List Word) : Nat := bitsOf (wAt d 0) 5 6
/-- Micro-ops of the combine program. -/
def ruCcount (d : List Word) : Nat := bitsOf (wAt d 1) 26 6
/-- Payload type (Table 11-3). -/
def ruPtype (d : List Word) : Nat := bitsOf (wAt d 1) 22 4
/-- Software tag. -/
def ruTag (d : List Word) : Word := d.getD 2 0
/-- Micro-op i. -/
def ruOp (d : List Word) (i : Nat) : Nat := wAt d (16 + i)
/-- Constant n. -/
def ruK (d : List Word) (n : Nat) : Word := d.getD (48 + n) 0
/-- Alignment of a request's address, and the bytes of a granule (Table 11-4). -/
def ruAlign (d : List Word) : Nat := match ruGran d with | 0 => 4 | 1 => 32 | _ => 128
/-- Bytes of a granule in its one line, or of a whole line. -/
def ruBytes (d : List Word) : Nat := if ruGran d = 3 then 128 * ruLines d else ruAlign d
/-- The places of a request's bytes: buffer, first byte and length, a line each for a TILE. -/
def RuReq.places (r : RuReq) : List (Nat × Nat × Nat) :=
  if ruGran r.defn = 3 then r.lines.filterMap fun l => l.map fun e => (e.1, e.2, 128) else [(r.b, r.off, ruAlign r.defn)]

/-- Whether a request's granule has bytes in a range of a buffer. -/
def RuReq.covers (r : RuReq) (b off n : Nat) : Bool :=
  r.places.any fun e => e.1 == b && decide (e.2.1 < off + n ∧ off < e.2.1 + e.2.2)

/-- Whether a request's granule has bytes in the lines of a range of a buffer. -/
def RuReq.coversLine (r : RuReq) (b off n : Nat) : Bool :=
  r.covers b (off / 128 * 128) ((off + n + 127) / 128 * 128 - off / 128 * 128)

/-- Data words that ROPR returns (R270). -/
def ruDataWords (d : List Word) : Nat :=
  if ruRet d = 3 then 0 else match ruGran d with | 0 => 1 | 1 => 8 | _ => 32
/-- The first granule lane of an address (Table 11-4). -/
def ruG0 (d : List Word) (a : Nat) : Nat := match ruGran d with
  | 0 => a % 128 / 4
  | 1 => 8 * (a % 128 / 32)
  | _ => 0
/-- Number of granule lanes. -/
def ruGn (d : List Word) : Nat := match ruGran d with | 0 => 1 | 1 => 8 | _ => 32

/-! ## Micro-op fields (Table 11-5) -/

/-- Operation. -/
def moOp (x : Nat) : Nat := bitsOf x 27 5
/-- Destination. -/
def moD (x : Nat) : Nat := bitsOf x 24 3
/-- Operand a. -/
def moA (x : Nat) : Nat := bitsOf x 20 4
/-- Operand b. -/
def moB (x : Nat) : Nat := bitsOf x 16 4
/-- Operand c. -/
def moC (x : Nat) : Nat := bitsOf x 12 4
/-- Line index. -/
def moLine (x : Nat) : Nat := bitsOf x 8 4
/-- Modifier. -/
def moMod (x : Nat) : Nat := bitsOf x 6 2

/-- Fields a micro-op uses: d, a, b, c, line, then the largest mod allowed (Table 11-6). -/
def moUses (op : Nat) : Bool × Bool × Bool × Bool × Bool × Nat :=
  match op with
  | 1 => (true, true, false, false, false, 0)
  | 2 | 3 | 5 | 6 | 7 | 8 | 9 | 10 | 11 | 12 | 15 | 17 => (true, true, true, false, false, 0)
  | 4 => (true, true, true, true, false, 0)
  | 13 | 14 => (false, true, true, false, false, 2)
  | 16 => (true, true, false, false, false, 1)
  | 18 => (true, true, false, false, false, 0)
  | 19 => (true, false, false, false, true, 0)
  | 20 => (false, true, false, false, true, 0)
  | 21 => (false, false, false, false, true, 0)
  | _ => (false, false, false, false, false, 0)

/-- RESERVED for one micro-op. -/
def moReserved (x : Nat) : Bool :=
  let (d, a, b, c, l, m) := moUses (moOp x)
  let opnd (used : Bool) (v : Nat) : Bool := if used then v == 6 || v == 7 else v != 0
  bitsOf x 0 6 != 0 || decide (22 ≤ moOp x) || (if d then decide (4 ≤ moD x) else moD x != 0) ||
    opnd a (moA x) || opnd b (moB x) || opnd c (moC x) || (!l && moLine x != 0) || decide (m < moMod x)

/-- Whether a micro-op reads the payload view P. -/
def moReadsP (x : Nat) : Bool :=
  let (_, a, b, c, _, _) := moUses (moOp x)
  (a && moA x == 4) || (b && moB x == 4) || (c && moC x == 4)

/-- TYPES for one micro-op of the main program; CVTFB counts as floating. -/
def moTypeBad (ptype x : Nat) : Bool :=
  let op := moOp x
  let cmp := op == 13 || op == 14
  let float := (2 ≤ op && op ≤ 6) || op == 17 || (cmp && moMod x == 0)
  let int := (7 ≤ op && op ≤ 12) || (cmp && moMod x != 0)
  if op = 16 then moA x != 4 || ptype != 3
  else if op = 18 then moA x != 4 || ptype != 4
  else moReadsP x && ((float && ptype != 0 && ptype != 1) || (int && ptype != 0 && ptype != 2))

/-! ## The checks of RDEF (Table 11-8) -/

/-- The status word of a check that failed at an index; 0xFF names the header or the constants. -/
def ruStatus (code idx : Nat) : Word := BitVec.ofNat 32 (idx * 256 + code)

/-- The first index of a program that satisfies a test. -/
def firstOp (lo hi : Nat) (f : Nat → Bool) : Option Nat := ((List.range hi).drop lo).find? f

/-- Header and constants of row RESERVED. -/
def ruHeaderReserved (d : List Word) : Bool :=
  bitsOf (wAt d 0) 0 5 != 0 || bitsOf (wAt d 1) 0 22 != 0 || ruPlace d == 3 || ruClass d == 3 ||
    decide (5 ≤ ruPtype d) || ((ruGran d == 3) != (ruTlines d != 0)) ||
    ((List.range 13).any fun i => wAt d (3 + i) != 0) || ((List.range 8).any fun i => wAt d (56 + i) != 0)

/-- The rows of Table 11-8 as checks in order: code and the failing index, if any. -/
def ruChecks (d : List Word) : List (Nat × Option Nat) :=
  let n := ruNops d
  let main := n - ruCcount d
  let op (i : Nat) : Nat := moOp (ruOp d i)
  let hdr (b : Bool) : Option Nat := if b then some 0xFF else none
  let retvs := (List.range n).filter fun i => op i == 21
  [ (0x10, hdr (ruHeaderReserved d)),
    (0x10, firstOp 0 32 fun i => if i < n then moReserved (ruOp d i) else ruOp d i != 0),
    (0x11, hdr (n == 0 || decide (32 < n) || decide (n ≤ ruCcount d) || decide (128 < ruPsize d) || ruPsize d % 4 != 0)),
    (0x11, firstOp 0 n fun i => op i == 18 && decide (ruPsize d < 36)),
    (0x12, firstOp 0 main fun i => moTypeBad (ruPtype d) (ruOp d i)),
    (0x13, firstOp 0 n fun i => 19 ≤ op i && op i ≤ 21 && decide (ruLines d ≤ moLine (ruOp d i))),
    (0x14, firstOp 0 n fun i => op i == 20 && (List.range i).any fun j =>
      op j == 20 && moLine (ruOp d j) == moLine (ruOp d i)),
    (0x15, if ruRet d == 0 || ruRet d == 3 then retvs.head? else retvs[1]?),
    (0x16, hdr (if ruClass d == 1 then ruCcount d == 0 || ruRet d != 0 else ruCcount d != 0)),
    (0x16, firstOp main n fun i => [16, 18, 19, 20, 21].contains (op i)),
    (0x17, hdr (ruGran d == 3 && decide (2 < ruLines d) && ruPlace d != 1)) ]

/-- The status word of RDEF for a record: DONE, CLEARED, or the first failed check (R265). -/
def rdefStatus (d : List Word) : Word :=
  if d.all (· == 0) then 1
  else match (ruChecks d).findSome? fun c => c.2.map fun i => (c.1, i) with
    | some (code, i) => ruStatus code i
    | none => 0

/-! ## The micro-op machine (R257 to R262) -/

/-- A line of 32 lanes of 32 bits. -/
abbrev Line := List Word

/-- Lane l of a line. -/
def Line.at_ (x : Line) (l : Nat) : Word := x.getD l 0

/-- The zero line Z. -/
def zLine : Line := List.replicate 32 0

/-- A line computed lane by lane. -/
def mkLine (f : Nat → Word) : Line := (List.range 32).map f

/-- The state of an application: working copies, temporaries and Q (R257). -/
structure RuM where
  w : List Line
  t : List Line
  q : List Bool
deriving DecidableEq, Repr

/-- The fixed inputs of an application: the definition, the payload view P, the payload words, and g0. -/
structure RuIn where
  d : List Word
  p : Line
  pay : List Word
  g0 : Nat
deriving DecidableEq, Repr

/-- The payload view of payload words (Table 11-4). -/
def ruView (d : List Word) (a : Nat) (pay : List Word) : Line :=
  let g0 := ruG0 d a
  mkLine fun l => if g0 ≤ l ∧ l < g0 + ruGn d ∧ l - g0 < ruPsize d / 4 then pay.getD (l - g0) 0 else 0

/-- An operand line (R259). -/
def ruOperand (x : RuIn) (m : RuM) (c : Nat) : Line :=
  if c ≤ 3 then m.t.getD c zLine
  else if c = 4 then x.p
  else if c = 5 then zLine
  else mkLine fun _ => ruK x.d (c - 8)

/-- Byte k of the payload, zero beyond psize. -/
def ruByte (x : RuIn) (k : Nat) : Nat :=
  if k < ruPsize x.d then bitsOf (wAt x.pay (k / 4)) (8 * (k % 4)) 8 else 0

/-- The comparison of CMPLT and CMPEQ by type (R261). -/
def ruCmp (lt : Bool) (ty : Nat) (a b : Word) : Bool :=
  match ty with
  | 0 => if lt then ltF (f32 a) (f32 b) else eqF (f32 a) (f32 b)
  | 1 => if lt then a.slt b else a == b
  | _ => if lt then a.ult b else a == b

/-- CVTBF: element e of a bfloat16 payload, widened (Table 11-6). -/
def ruCvtBf (x : RuIn) (e : Int) : Word :=
  if e < 0 ∨ ruPsize x.d < 2 * e.toNat + 2 then 0
  else round32 .rn false (decF .bf16 (ruByte x (2 * e.toNat) + 256 * ruByte x (2 * e.toNat + 1)))

/-- CVTBX: element e of a bx8 payload, dequantised (Table 11-6). -/
def ruCvtBx (x : RuIn) (e : Int) : Word :=
  if e < 0 ∨ 32 ≤ e then 0
  else round32 .rn false (bxVal 8 (signedOf (ruByte x e.toNat) 8) (ruByte x (32 + e.toNat / 16)))

/-- The arithmetic of a micro-op in one lane, for those that combine a, b and c lane by lane. -/
def ruLane (op : Nat) (a b c : Word) : Word :=
  match op with
  | 2 => round32 .rn false (addF .rn (f32 a) (f32 b))
  | 3 => round32 .rn false (mulF (f32 a) (f32 b))
  | 4 => round32 .rn false (fmaF .rn (f32 a) (f32 b) (f32 c))
  | 5 => round32 .rn false (minF (f32 a) (f32 b))
  | 6 => round32 .rn false (maxF (f32 a) (f32 b))
  | 7 => a + b
  | 8 => a &&& b
  | 9 => a ||| b
  | 10 => a ^^^ b
  | 11 => if 32 ≤ b.toNat then 0 else a <<< b.toNat
  | 12 => if 32 ≤ b.toNat then 0 else a >>> b.toNat
  | 17 => BitVec.ofNat 32 (roundF .bf16 .rn false false (f32 a) + 65536 * roundF .bf16 .rn false false (f32 b))
  | _ => a

/-- Execute one micro-op (R260). -/
def ruExec (x : RuIn) (m : RuM) (u : Nat) : RuM :=
  let op := moOp u
  let a := ruOperand x m (moA u)
  let b := ruOperand x m (moB u)
  let c := ruOperand x m (moC u)
  let set (y : Line) : RuM := { m with t := m.t.set (moD u) y }
  match op with
  | 0 => m
  | 13 => { m with q := (List.range 32).map fun l => ruCmp true (moMod u) (a.at_ l) (b.at_ l) }
  | 14 => { m with q := (List.range 32).map fun l => ruCmp false (moMod u) (a.at_ l) (b.at_ l) }
  | 15 => set (mkLine fun l => if m.q.getD l true then a.at_ l else b.at_ l)
  | 16 => set (mkLine fun l => ruCvtBf x ((l : Int) - x.g0 + 32 * (moMod u % 2 : Nat)))
  | 18 => set (mkLine fun l => ruCvtBx x ((l : Int) - x.g0))
  | 19 => set (m.w.getD (moLine u) zLine)
  | 20 => { m with w := m.w.set (moLine u) a }
  | 21 => m
  | _ => set (mkLine fun l => ruLane op (a.at_ l) (b.at_ l) (c.at_ l))

/-- The main program (R262). -/
def ruMain (x : RuIn) (w : List Line) : RuM :=
  ((List.range (ruNops x.d - ruCcount x.d)).map (ruOp x.d)).foldl (ruExec x)
    { w := w, t := List.replicate 4 zLine, q := List.replicate 32 true }

/-- The payload of two requests merged by the combine program: P is the earlier payload's view and T0 the
later one's (R263). -/
def ruCombine (d : List Word) (a : Nat) (p1 p2 : List Word) : List Word :=
  let x : RuIn := { d := d, p := ruView d a p1, pay := p1, g0 := ruG0 d a }
  let n := ruNops d
  let m := (((List.range n).drop (n - ruCcount d)).map (ruOp d)).foldl (ruExec x)
    { w := [], t := [ruView d a p2, zLine, zLine, zLine], q := List.replicate 32 true }
  (List.range (ruPsize d / 4)).map fun i => (m.t.getD 0 zLine).at_ (x.g0 + i)

/-- Whether an STL of the main program names a line. -/
def ruStores (d : List Word) (i : Nat) : Bool :=
  (List.range (ruNops d - ruCcount d)).any fun k => moOp (ruOp d k) == 20 && moLine (ruOp d k) == i

/-- The return line (R262). -/
def ruRetLine (d : List Word) : Nat :=
  match (List.range (ruNops d - ruCcount d)).find? fun k => moOp (ruOp d k) == 21 with
  | some k => moLine (ruOp d k)
  | none => 0

end Sys2Proof.Machine
end

