-- ==== Sys2Proof/Machine/MemAccess.lean ====
section
/-! DEFINITION. Loads, stores, tile accesses, prefetches and cache control (R206 to R212), and the shape
record (R301). -/

namespace Sys2Proof.Machine

/-! ## Global loads and stores (R207, R208) -/

/-- The address of a lane: the base pair plus the scaled offset, modulo 2^64 (R206). -/
def globalVa (i : Instr) (u : Issue) (s : State) (b : BitVec 7) (size t : Nat) : DWord :=
  u.rd64 s t b.toNat + BitVec.ofInt 64 (immOf i u.pfx * size)

/-- A global load of `size` bytes per lane (R207). -/
def loadGlobal (i : Instr) (o : ME) (size : Nat) (u : Issue) (s : State) : Res :=
  match checkLanes u false u.act fun t => accGlobal u s (globalVa i u s o.b size t) size .load with
  | .error ti => .trap ti
  | .ok as => .ok (startLoads u s o.t.toNat size o.cp.toNat as)

/-- A global store of `size` bytes per lane (R207) (DEDUCED, notes/assumptions/26.md). -/
def storeGlobal (i : Instr) (o : ME) (size : Nat) (u : Issue) (s : State) : Res :=
  bufferStores u s size o.cp.toNat (fun t => storeData u s t o.t.toNat size)
    (checkLanes u true u.act fun t => accGlobal u s (globalVa i u s o.b size t) size .store)

/-- LD.b (R207). -/
def execLdB (o : ME) (s : State) : Host.Outcome State Fault Refusal :=
  execUnit (.ldB o) (loadGlobal (.ldB o) o 1) s

/-- LD.h (R207). -/
def execLdH (o : ME) (s : State) : Host.Outcome State Fault Refusal :=
  execUnit (.ldH o) (loadGlobal (.ldH o) o 2) s

/-- LD.w (R207). -/
def execLdW (o : ME) (s : State) : Host.Outcome State Fault Refusal :=
  execUnit (.ldW o) (loadGlobal (.ldW o) o 4) s

/-- LD.d (R207). -/
def execLdD (o : ME) (s : State) : Host.Outcome State Fault Refusal :=
  execUnit (.ldD o) (loadGlobal (.ldD o) o 8) s

/-- LD.q (R207). -/
def execLdQ (o : ME) (s : State) : Host.Outcome State Fault Refusal :=
  execUnit (.ldQ o) (loadGlobal (.ldQ o) o 16) s

/-- ST.b (R207). -/
def execStB (o : ME) (s : State) : Host.Outcome State Fault Refusal :=
  execUnit (.stB o) (storeGlobal (.stB o) o 1) s

/-- ST.h (R207). -/
def execStH (o : ME) (s : State) : Host.Outcome State Fault Refusal :=
  execUnit (.stH o) (storeGlobal (.stH o) o 2) s

/-- ST.w (R207). -/
def execStW (o : ME) (s : State) : Host.Outcome State Fault Refusal :=
  execUnit (.stW o) (storeGlobal (.stW o) o 4) s

/-- ST.d (R207). -/
def execStD (o : ME) (s : State) : Host.Outcome State Fault Refusal :=
  execUnit (.stD o) (storeGlobal (.stD o) o 8) s

/-- ST.q (R207). -/
def execStQ (o : ME) (s : State) : Host.Outcome State Fault Refusal :=
  execUnit (.stQ o) (storeGlobal (.stQ o) o 16) s

/-! ## Scratchpad (R209, R210) -/

/-- A lane's scratchpad offset, with no wrap at 2^32 (R209). -/
def padOff (i : Instr) (u : Issue) (s : State) (o : BitVec 7) (size t : Nat) : Nat :=
  (u.rd s t o.toNat).toNat + (immOf i u.pfx).toNat * size

/-- LDS (R209). -/
def execLds (o : LSF) (s : State) : Host.Outcome State Fault Refusal :=
  execUnit (.lds o) (fun u s =>
    let n := widthBytes o.w
    match checkLanes u false u.act fun t => accPad u s (padOff (.lds o) u s o.o n t) n with
    | .error ti => .trap ti
    | .ok as => .ok (startLoads u s o.t.toNat n 0 as)) s

/-- STS (R209). -/
def execSts (o : LSF) (s : State) : Host.Outcome State Fault Refusal :=
  execUnit (.sts o) (fun u s =>
    let n := widthBytes o.w
    bufferStores u s n 0 (fun t => storeData u s t o.t.toNat n)
      (checkLanes u true u.act fun t => accPad u s (padOff (.sts o) u s o.o n t) n)) s

/-- LDP (R210). -/
def execLdp (o : LPF) (s : State) : Host.Outcome State Fault Refusal :=
  execUnit (.ldp o) (fun u s =>
    let n := widthBytes o.w
    match checkLanes u false u.act fun t => accPeer u s o.rank.toNat (padOff (.ldp o) u s o.o n t) n with
    | .error ti => .trap ti
    | .ok as => .ok (startLoads u s o.t.toNat n 0 as)) s

/-- STP (R210). -/
def execStp (o : LPF) (s : State) : Host.Outcome State Fault Refusal :=
  execUnit (.stp o) (fun u s =>
    let n := widthBytes o.w
    bufferStores u s n 0 (fun t => storeData u s t o.t.toNat n)
      (checkLanes u true u.act fun t => accPeer u s o.rank.toNat (padOff (.stp o) u s o.o n t) n)) s

/-! ## Records read by a thread -/

/-- Bytes that a thread's own stores put over n bytes of a buffer: committed ones still on their way, then
buffered ones (R102, R106). -/
def ownOver (s : State) (u : Issue) (t b off : Nat) (bytes : List Byte) : List Byte :=
  let sent := (s.reqs.filter fun r => r.gid == u.gid && r.tid == t && r.kind == .store && !r.performed &&
    r.blk.isNone && r.b == b).map fun r => (r.off, r.size, r.data.toNat)
  let held := ((u.grp.thr t).stores.filter fun x => x.glob && x.b == b).map fun x => (x.off, x.size, x.data.toNat)
  let all := (sent ++ held).reverse
  bytes.mapIdx fun i y => match all.find? fun e => e.1 ≤ off + i && off + i < e.1 + e.2.1 with
    | some e => BitVec.ofNat 8 (bitsOf e.2.2 (8 * (off + i - e.1)) 8)
    | none => y

/-- Whether an access of a thread that takes effect when it issues has to wait: for an acquire of the thread that has
not been performed (R102). -/
def acquiring (s : State) (gid tid : Nat) : Bool :=
  (s.reqs.any fun r => r.gid == gid && r.tid == tid && !r.performed && acqOrd r.ord && r.kind != .store) ||
    (s.rus.any fun r => r.gid == gid && r.tid == tid && r.ropr && !r.applied && acqOrd r.ord) || atEngine s gid tid s.nextId

/-- Whether an atomic or a remote update of a thread on these bytes has not been performed yet (R102, R272). -/
def ownRmw (s : State) (gid tid b off n : Nat) : Bool :=
  (s.reqs.any fun r => r.gid == gid && r.tid == tid && !r.performed && r.blk.isNone && r.b == b &&
    (match r.kind with | .rmw .. => true | _ => false) && decide (r.off < off + n ∧ off < r.off + r.size)) ||
  s.rus.any fun r => r.gid == gid && r.tid == tid && !r.applied && r.covers b off n

/-- A record of n bytes read as loads of a thread: the words and the place, or the failed check; none while an access of
its own that has to come first is on its way, a bucket lacks a token for each sector, or the slice a permit (R102, R272,
R395, R414, R432, R448). The
loads find the newest writes (DESIGN CHOICE, notes/assumptions/59.md). -/
def readOwn (u : Issue) (s : State) (t : Nat) (va : DWord) (n : Nat) :
    Except XFault (Option (List Word × Spot)) :=
  match loadAt s u.grp.cxid va n with
  | .error f => .error f
  | .ok p =>
    if ownRmw s u.gid t p.b p.off n || acquiring s u.gid t || !hasTokens s u.grp.cxid (n / 32) ||
        !permitFree s u.core p.b p.off then .ok none
    else .ok (some (leWords (ownOver s u t p.b p.off (s.readBuf p.b p.off n)), p))

/-- A record was read at a place: its tokens are taken (R414), its entry is cached, its frame is owned (R373), the core's L1
keeps no older copy of its lines, and the thread has read the writes that it found (R99). -/
def readTouch (u : Issue) (s : State) (p : Spot) (n : Nat) : State :=
  let s := touch (takeTokens s u.grp.cxid (n / 32)) p
  let s := (List.range (ceilDiv n 128)).foldl (fun s k => dropL1 s u.core p.b (p.off / 128 + k)) s
  let ws := (readBefore s { b := p.b, off := p.off, n := n } 0 []).2
  s.updThr u.gid u.low (Thread.learn s.nextId (readFrom s (u.grp.agent u.low) 0 4 ws))

/-! ## The shape record and tile accesses (R211, R301) -/

/-- Dimension count. -/
def shD (w : List Word) : Nat := bitsOf (wAt w 2) 28 3
/-- Element size. -/
def shZ (w : List Word) : Nat := 2 ^ bitsOf (wAt w 2) 25 3
/-- Permit bit. -/
def shPermit (w : List Word) : Bool := bitOf (wAt w 2) 31
/-- Extent of a dimension. -/
def shE (w : List Word) (i : Nat) : Nat := wAt w (3 + i)
/-- Stride of a dimension. -/
def shSt (w : List Word) (i : Nat) : Nat := wAt w (8 + i)
/-- Box size of a dimension. -/
def shB (w : List Word) (i : Nat) : Nat := bitsOf (wAt w (13 + i / 2)) (16 * (i % 2)) 16

/-- The rules of R301 that TLD and TST check: fields, dimension count, size code, multiples of z
(DEDUCED, notes/assumptions/27.md). -/
def shapeOk (w : List Word) : Bool :=
  let d := shD w
  decide (1 ≤ d ∧ d ≤ 5) && decide (bitsOf (wAt w 2) 25 3 ≤ 4) && bitsOf (wAt w 2) 0 25 == 0 &&
  bitsOf (wAt w 15) 16 16 == 0 && (dAt w 0).toNat % shZ w == 0 &&
  (List.range 5).all fun i =>
    if i < d then shSt w i % shZ w == 0 else shE w i == 0 && shSt w i == 0 && shB w i == 0

/-- Whether n registers from one upward exist, none of them past the v registers into the s registers (R51). -/
def regsOk (declared r n : Nat) : Bool :=
  (List.range n).all fun k => regOk declared (r + k) && (decide (r < 96) == decide (r + k < 96))

/-- The shape record of a tile access, with the checks that depend on it, in the order alignment, access,
record, registers (DEDUCED, notes/assumptions/27.md). -/
def tileShape (u : Issue) (s : State) (o : TLF) (wr : Bool) : Except Res (List Word × Spot) :=
  let a := u.rd64 s u.low o.s.toNat
  if a.toNat % 64 ≠ 0 then .error (.trap (u.ti .misaligned u.act a))
  else match readOwn u s u.low a 64 with
    | .error f => .error (.trap (failTrap u false (u.act.map fun t => (t, f))))
    | .ok none => .error (.retry (.record u.low a 64))
    | .ok (some (w, p)) =>
      let regs := sizeRegs (shZ w)
      if !shapeOk w then .error (.trap (u.ti .btFault u.act a wr))
      else if o.t.toNat % regs ≠ 0 ∨ !regsOk u.grp.nregs o.t.toNat regs ∨ !regsOk u.grp.nregs o.c.toNat (shD w) then
        .error (.trap (u.ti .illegalOp u.act))
      else match strictRegs (fun _ => ((List.range (shD w)).map fun k => o.c.toNat + k) ++
          (if wr then (List.range regs).map fun k => o.t.toNat + k else [])) u s with
        | some (c, ls) => .error (.trap (u.ti c ls))
        | none => .ok (w, p)

/-- Coordinate i of a lane. -/
def tileCoord (u : Issue) (s : State) (o : TLF) (t i : Nat) : Nat := (u.rd s t (o.c.toNat + i)).toNat

/-- Whether a lane's coordinates lie inside the extents. -/
def tileInside (u : Issue) (s : State) (o : TLF) (w : List Word) (t : Nat) : Bool :=
  (List.range (shD w)).all fun i => decide (tileCoord u s o t i < shE w i)

/-- The element address of a lane. -/
def tileVa (u : Issue) (s : State) (o : TLF) (w : List Word) (t : Nat) : DWord :=
  dAt w 0 + BitVec.ofNat 64 ((List.range (shD w)).map fun i => tileCoord u s o t i * shSt w i).sum

/-- TLD (R211). Table 9-5 and R211 make its element a global access, where Table 1-4 lists the tile accesses among those
that reach scratchpad; the model follows R211 (DESIGN CHOICE, notes/assumptions/62.md). -/
def execTld (o : TLF) (s : State) : Host.Outcome State Fault Refusal :=
  execUnit (.tld o) (fun u s =>
    if u.act.isEmpty then .ok s
    else match tileShape u s o false with
    | .error r => r
    | .ok (w, p) =>
      let out := u.act.filter fun t => !tileInside u s o w t
      if !out.isEmpty && !shPermit w then .trap (u.ti .tileOob out)
      else match checkLanes u false (u.act.filter fun t => tileInside u s o w t) fun t =>
          accGlobal u s (tileVa u s o w t) (shZ w) .load with
        | .error ti => .trap ti
        | .ok as => .ok (startLoads u (readTouch u s p 64) o.t.toNat (shZ w) u.pfx.cp as)) s

/-- TST (R211). -/
def execTst (o : TLF) (s : State) : Host.Outcome State Fault Refusal :=
  execUnit (.tst o) (fun u s =>
    if u.act.isEmpty then bufferStores u s 1 0 (fun _ => 0) (.ok [])
    else match tileShape u s o true with
    | .error r => r
    | .ok (w, p) =>
      let out := u.act.filter fun t => !tileInside u s o w t
      if !out.isEmpty && !shPermit w then .trap (u.ti .tileOob out 0 true)
      else bufferStores u (readTouch u s p 64) (shZ w) u.pfx.cp (fun t => storeData u s t o.t.toNat (shZ w))
        (checkLanes u true (u.act.filter fun t => tileInside u s o w t) fun t =>
          accGlobal u s (tileVa u s o w t) (shZ w) .store)) s

/-! ## Prefetch and cache control (R212) -/

/-- The place of the line that a lane addresses, where its own load would be permitted. -/
def lineOf (i : Instr) (o : CCF) (u : Issue) (s : State) (t : Nat) : Option Spot :=
  match gaccess s u.grp.cxid (BitVec.ofNat 64
      ((globalVa i u s o.b 128 t).toNat / 128 * 128)) 1 .load with
  | .ok p => some p
  | .error _ => none

/-- Drop all but the n newest of the lines that a test picks, newest first. -/
def keepNewest {α : Type} (p : α → Bool) : Nat → List α → List α
  | _, [] => []
  | n, x :: xs => if p x then (match n with
      | 0 => keepNewest p 0 xs
      | k + 1 => x :: keepNewest p k xs) else x :: keepNewest p n xs

/-- Fill a line into a core's L1; the older copy goes (R91, R92). An L1 holds 256 KiB, a joint one 1 MiB (R15, R93); the
line filled longest ago makes room (DESIGN CHOICE, notes/assumptions/61.md). -/
def fillL1 (s : State) (core b off owner : Nat) : State :=
  match s.buf? b with
  | some x =>
    if x.kind == .peer then s
    else
      let k := l1Of s core
      let s := dropL1 s core b (off / 128)
      let c : L1Copy := { core := k, tag := owner, b := b, line := off / 128 }
      { s with l1 := keepNewest (fun c => c.core == k) (if s.fused.contains (core / 4) then 8192 else 2048) (c :: s.l1) }
  | none => s

/-- Fill a line into its home slice for a context: into a way of the context's way mask, none where the
mask is empty (R94, R416), and none in a slice that its partition does not hold (R411). A line that is held stays. A slice
holds 1.5 MiB in 16 ways, 768 lines in each (R15). Which of the permitted ways a fill takes is the model's choice: the lowest with
room, else the lowest of the mask, where the line filled longest ago makes room (DESIGN CHOICE, notes/assumptions/61.md). -/
def fillL2 (s : State) (cx b off owner : Nat) : State :=
  match s.buf? b, s.ctx? cx with
  | some x, some c =>
    let k := homeSlice x off
    let foreign := match partOf s cx with
      | some p => !p.slices.getLsbD k
      | none => false
    if x.kind == .peer || foreign || s.l2.any (fun l => l.b == b && l.line == off / 128 && l.tag == owner) then s
    else
      let ways := bitsSet 16 c.wmask.toNat
      let used (w : Nat) : Nat := (s.l2.filter fun l => l.slice == k && l.way == w).length
      match (ways.find? fun w => decide (used w < 768)).orElse fun _ => ways.head? with
      | none => s
      | some w =>
        let l : L2Line := { slice := k, b := b, line := off / 128, tag := owner, filler := cx, way := w, dirty := false }
        { s with l2 := keepNewest (fun l => l.slice == k && l.way == w) 768 (l :: s.l2) }
  | _, _ => s

/-- Do something with the line of each active lane; a line that is absent or denied is left alone. -/
def eachLine (i : Instr) (o : CCF) (f : State → Nat → Spot → State) (u : Issue) (s : State) : Res :=
  .ok (wake (u.act.foldl (fun s' t => match lineOf i o u s t with
    | some p => f (cacheEnt s' p.ent) t p
    | none => s') s))

/-- PRF.l1 (R212) (DEDUCED, notes/assumptions/30.md). -/
def execPrfL1 (o : CCF) (s : State) : Host.Outcome State Fault Refusal :=
  execUnit (.prfL1 o) (fun u s => eachLine (.prfL1 o) o (fun s _ p =>
    fillL1 (fillL2 s u.grp.cxid p.b p.off p.owner) u.core p.b p.off p.owner) u s) s

/-- PRF.l2 (R212) (DEDUCED, notes/assumptions/30.md). -/
def execPrfL2 (o : CCF) (s : State) : Host.Outcome State Fault Refusal :=
  execUnit (.prfL2 o) (fun u s => eachLine (.prfL2 o) o (fun s _ p =>
    fillL2 s u.grp.cxid p.b p.off p.owner) u s) s

/-- CCTL.inv1 (R212). -/
def execCctlInv1 (o : CCF) (s : State) : Host.Outcome State Fault Refusal :=
  execUnit (.cctlInv1 o) (fun u s => eachLine (.cctlInv1 o) o (fun s _ p =>
    dropL1 s u.core p.b (p.off / 128)) u s) s

/-- Whether a context's own lookup hits a line of an L1 (R92): the tag is its own, or the line's frame is one that a page
of its address space reaches (R364). -/
def hits (s : State) (cx : Nat) (c : L1Copy) : Bool :=
  c.tag == cx || (s.tlb.any fun e => e.cxid == cx && e.b == c.b && e.off / 65536 == c.line / 512) ||
    (mappedPages s cx).any fun va => match compose s cx (ext57 va) with
      | .ok e => e.b == c.b && e.off / 65536 == c.line / 512
      | .error _ => false

/-- CCTL.inva: the lines of the core's L1 that the context's lookups can hit (R212). -/
def execCctlInva (o : RCF) (s : State) : Host.Outcome State Fault Refusal :=
  execUnit (.cctlInva o) (fun u s => .ok (if u.act.isEmpty then s else
    { s with l1 := s.l1.filter fun c => !(c.core == l1Of s u.core && hits s u.grp.cxid c) })) s

/-- The slice's line of a lane is to be written back, for the stores that the thread has committed (R212). -/
def writeBack (u : Issue) (inv : Bool) (s : State) (t : Nat) (p : Spot) : State :=
  { s with wbs := s.wbs ++ [{ gid := u.gid, tid := t, b := p.b, line := p.off / 128, tag := p.owner, upto := s.nextId, inv := inv }] }

/-- CCTL.wb: the slice's line is written back (R212). -/
def execCctlWb (o : CCF) (s : State) : Host.Outcome State Fault Refusal :=
  execUnit (.cctlWb o) (fun u s => eachLine (.cctlWb o) o (writeBack u false) u s) s

/-- CCTL.wbi: the slice's line is written back and goes (R212). -/
def execCctlWbi (o : CCF) (s : State) : Host.Outcome State Fault Refusal :=
  execUnit (.cctlWbi o) (fun u s => eachLine (.cctlWbi o) o (writeBack u true) u s) s

end Sys2Proof.Machine
end

