-- ==== Sys2Proof/Machine/Atomic.lean ====
section
/-! DEFINITION. Atomics and the multicast store (R215 to R218). -/

namespace Sys2Proof.Machine

/-- Operation codes of read-modify-writes: addition, minimum and maximum by type, then bitwise. -/
def rmwAdd : Nat := 0
/-- First minimum code. -/
def rmwMin : Nat := 4
/-- First maximum code. -/
def rmwMax : Nat := 8
/-- First bitwise code: and, or, xor, exchange. -/
def rmwBit : Nat := 12
/-- Compare and swap. -/
def rmwCas : Nat := 16

/-- The new value that a read-modify-write of `size` bytes writes over a, if it writes (Table 9-9, R217). -/
def rmwNew (op size : Nat) (a b c : DWord) : Option DWord :=
  let w (x : Word) : DWord := x.setWidth 64
  let a32 := pairLo a
  let b32 := pairLo b
  match op with
  | 0 | 1 => some (w (a32 + b32))
  | 2 => some (w (round32 .rn false (addF .rn (f32 a32) (f32 b32))))
  | 3 => some (a + b)
  | 4 => some (w (minI a32 b32))
  | 5 => some (w (minN a32 b32))
  | 6 => some (w (round32 .rn false (minF (f32 a32) (f32 b32))))
  | 7 => some (if a.slt b then a else b)
  | 8 => some (w (maxI a32 b32))
  | 9 => some (w (maxN a32 b32))
  | 10 => some (w (round32 .rn false (maxF (f32 a32) (f32 b32))))
  | 11 => some (if a.slt b then b else a)
  | 12 => some (a &&& b)
  | 13 => some (a ||| b)
  | 14 => some (a ^^^ b)
  | 15 => some b
  | _ => if (if size = 4 then a32 == b32 else a == b) then some (if size = 4 then w (pairLo c) else c) else none

/-- A 32-bit or 64-bit operand. -/
def operand (u : Issue) (s : State) (t r size : Nat) : DWord :=
  if size = 4 then (u.rd s t r).setWidth 64 else u.rd64 s t r

/-- One read-modify-write per lane: the checks, the commit, then the requests whose old values return to
vd (R215). -/
def atomic (d ap size op : Nat) (b c : Nat → DWord) (u : Issue) (s : State) : Res :=
  let va (t : Nat) : DWord := u.rd64 s t (2 * ap)
  match checkLanes u true u.act fun t => accGlobal u s (va t) size .rmw with
  | .error ti => .trap ti
  | .ok as =>
    let s := closeRegion u (cacheAccs u s as)
    let n := sizeRegs size
    let pid := s.nextId
    let s := addPends u s (fun _ => ((List.range n).map fun k => d + k, (List.range n).map fun _ => none)) true
    let (ord, scope) := u.pfx.ord
    .ok (addReqs s (as.map fun x =>
      { mkReq u (.rmw op (b x.1) (c x.1)) x.1 x.2 0 size ord scope u.pfx.cp s.nextId with
        pend := pid + u.act.idxOf x.1 }))

/-- An ATOM form of the typed majors: .i32, .n32, .f32, .i64 (R216). -/
def atomTyped (base : Nat) (o : ATF) (u : Issue) (s : State) : Res :=
  let size := if o.t = 3 then 8 else 4
  atomic o.d.toNat o.ap.toNat size (base + o.t.toNat) (fun t => operand u s t o.b.toNat size) (fun _ => 0) u s

/-- A bitwise ATOM form of 32 or 64 bits (R216). -/
def atomBits (k : Nat) (o : ATB) (u : Issue) (s : State) : Res :=
  let size := if o.x = 1 then 8 else 4
  atomic o.d.toNat o.ap.toNat size (rmwBit + k) (fun t => operand u s t o.b.toNat size) (fun _ => 0) u s

/-- ATOM.add (R216). -/
def execAtomAdd (o : ATF) (s : State) : Host.Outcome State Fault Refusal :=
  execUnit (.atomAdd o) (atomTyped rmwAdd o) s

/-- ATOM.min (R216). -/
def execAtomMin (o : ATF) (s : State) : Host.Outcome State Fault Refusal :=
  execUnit (.atomMin o) (atomTyped rmwMin o) s

/-- ATOM.max (R216). -/
def execAtomMax (o : ATF) (s : State) : Host.Outcome State Fault Refusal :=
  execUnit (.atomMax o) (atomTyped rmwMax o) s

/-- ATOM.and (R216). -/
def execAtomAnd (o : ATB) (s : State) : Host.Outcome State Fault Refusal :=
  execUnit (.atomAnd o) (atomBits 0 o) s

/-- ATOM.or (R216). -/
def execAtomOr (o : ATB) (s : State) : Host.Outcome State Fault Refusal :=
  execUnit (.atomOr o) (atomBits 1 o) s

/-- ATOM.xor (R216). -/
def execAtomXor (o : ATB) (s : State) : Host.Outcome State Fault Refusal :=
  execUnit (.atomXor o) (atomBits 2 o) s

/-- ATOM.xchg (R216). -/
def execAtomXchg (o : ATB) (s : State) : Host.Outcome State Fault Refusal :=
  execUnit (.atomXchg o) (atomBits 3 o) s

/-- ATOM.cas: comparand, then new value (R217). -/
def execAtomCas (o : CAF) (s : State) : Host.Outcome State Fault Refusal :=
  execUnit (.atomCas o) (fun u s =>
    let size := if o.t = 1 then 8 else 4
    atomic o.d.toNat o.ap.toNat size rmwCas (fun t => operand u s t o.b.toNat size)
      (fun t => operand u s t (o.b.toNat + size / 4) size) u s) s

/-! ## STM (R218) -/

/-- A destination's failure in STM's own order: misalignment, PROTECTION of form, MULTI_DENY, absent page. A destination
whose buffer entry is not valid, or whose port the context's partition does not hold, counts as denied: R218 puts it in
no class (DEDUCED, notes/assumptions/29.md). -/
def stmFault (s : State) (f : XFault) (cx : Nat) (va : DWord) : XFault :=
  let flash := match compose s cx va with
    | .ok e => ((s.buf? e.b).map fun b => b.kind == .flash).getD false
    | .error _ => false
  if f.cause == .misaligned then { f with rank := 0 }
  else if f.cause == .pageFault then { f with rank := 3 }
  else if f.walk || f.rank ≤ 2 || flash then { f with cause := .protection, rank := 1 }
  else { f with cause := .multiDeny, rank := 2 }

/-- STM: every destination of every lane is checked, the region commits, then the writes, those of destination 0 first (R218)
(DEDUCED, notes/assumptions/29.md). -/
def execStm (o : STF) (s : State) : Host.Outcome State Fault Refusal :=
  execUnit (.stm o) (fun u s =>
    let size := widthBytes o.w
    let n := o.n.toNat + 1
    let va (t k : Nat) : DWord := u.rd64 s t (2 * (o.ap.toNat + k))
    let all := u.act.flatMap fun t => (List.range n).map fun k => (t, k)
    let rs := all.map fun x => (x, match accGlobal u s (va x.1 x.2) size .store with
      | .ok a => Except.ok a
      | .error f => .error (stmFault s f u.grp.cxid (va x.1 x.2)))
    let bad := rs.filterMap fun x => match x.2 with
      | .error f => some (x.1.1, f)
      | .ok _ => none
    let ok := rs.filterMap fun x => match x.2 with
      | .ok a => some (x.1, a)
      | .error _ => none
    if !bad.isEmpty then
      let ti := failTrap u true bad
      .trap { ti with lanes := ti.lanes.eraseDups }
    else
      let s := closeRegion u (cacheAccs u s (ok.map fun x => (x.1.1, x.2)))
      let (ord, scope) := u.pfx.ord
      .ok (addReqs s ((List.range n).flatMap fun k => (ok.filter fun x => x.1.2 == k).flatMap fun x =>
        (pieces size).map fun p =>
          { mkReq u .store x.1.1 x.2 p.1 p.2 ord scope u.pfx.cp s.nextId with
            sub := k
            data := BitVec.ofNat 64 ((storeData u s x.1.1 o.b.toNat size).toNat >>> (8 * p.1)) }))) s

end Sys2Proof.Machine
end

