-- ==== Sys2Proof/Machine/CodeFetch.lean ====
section
/-! DEFINITION. Flash under erasure (R426, R427), and fetching an instruction word (R84, R127, R198, R395, R414). -/

namespace Sys2Proof.Machine

/-! ## Flash (R426, R427) -/

/-- The flash page of a byte of a FLASH buffer. -/
def flashPage (b : Buf) (o : Nat) : Nat := (b.base + o) / 4096

/-- Whether a byte of a buffer lies in an erase block under erasure. -/
def erasing (s : State) (b o : Nat) : Bool :=
  match s.buf? b with
  | some x => x.kind == .flash && s.flash.any fun k => k.erasing && k.blk == flashPage x o / 256
  | none => false

/-- Bytes that a load of a line gets: a line of a block under erasure reads as its old bytes or as zero (R427). -/
def loadBytes (s : State) (b o n : Nat) : List Byte :=
  if erasing s b o && !Config.eraseOld s.free (o / 128) then List.replicate n 0 else s.readBuf b o n

/-! ## Fetching -/

/-- A failed fetch: it stops the threads of the path (R127, R380). In the context's own space the faulting address is that of
the unit, as its PC (R198); a failure in an ancestor's tables reports the address there (R363)
(DEDUCED, notes/assumptions/28.md). -/
def Issue.fetchTrap (u : Issue) (f : XFault) : TrapInfo :=
  { cause := f.cause, lanes := u.tids, fpc := u.upc, faddr := if f.cxid = u.grp.cxid then u.upc else f.va, cxid := f.cxid,
    fetch := true, walk := f.walk }

/-- The bytes of a word of code at a place, before up to `age` of the newest writes, of those numbered from `first` on that a
fetch may miss (R198); code in flash under erasure reads as R427 says. -/
def codeBytes (s : State) (p : Spot) (age first : Nat) : List Byte :=
  let l : Loc := { b := p.b, off := p.off, n := 4 }
  let new := loadBytes s p.b p.off 4
  if erasing s p.b p.off then new
  else (readBefore s l (missable (fun w => decide (first ≤ w.id)) age (s.writes l)) new).1

/-- The word at an address, read as a fetch of a context: aligned, translated with the right x, and without poison. -/
def fetchWord (s : State) (cx : Nat) (pc : DWord) (age : Nat := 0) (first : Nat := 0) : Except XFault (Word × Spot) :=
  match gcheck s cx pc 4 .fetch with
  | .error f => .error f
  | .ok p => match placeFault s cx pc p 4 with
    | some f => .error f
    | none => match bytesWord (codeBytes s p age first) with
      | some w => .ok (w, p)
      | none => .error { cause := .protection, cxid := cx, va := pc, rank := 9 }

/-- The number from which on writes were made after the first block of a group's grid had started (R198). -/
def codeFrom (s : State) (g : Group) : Nat :=
  match s.grid? g.gr with
  | some x => x.first
  | none => g.born

/-- The word that a run fetches for the unit in progress. -/
def fetchUnit (s : State) (r : Run) (u : Issue) : Except XFault (Word × Spot) :=
  fetchWord s u.grp.cxid u.ipc r.age (codeFrom s u.grp)

/-- Whether a word of code is in the core's L1 (R92). -/
def fetchHit (s : State) (u : Issue) (p : Spot) : Bool :=
  s.l1.any fun c => c.core == l1Of s u.core && c.tag == p.owner && c.b == p.b && c.line == p.off / 128

/-- Whether a fetch is admitted: it hits L1, or the buckets hold a token for its sector (R414). -/
def fetchPaid (s : State) (u : Issue) (p : Spot) : Bool := fetchHit s u p || hasTokens s u.grp.cxid 1

/-- A run that fetches a word: its 32 clk count from its first issue (R36), and its next fetch misses no write. -/
def Run.began (clk : Nat) (r : Run) : Run := { r with age := 0, start := if r.words == 0 && r.off == 0 then clk else r.start }

/-- The state after a fetch: it has paid and filled its line where it missed L1, its frame is owned (R373). -/
def fetched (s : State) (u : Issue) (p : Spot) : State :=
  let s' := touch s p
  let s' := if fetchHit s u p then s' else
    let s' := takeTokens s' u.grp.cxid 1
    if erasing s p.b p.off then s' else fillL1 s' u.core p.b p.off p.owner
  { s' with runs := s'.runs.map fun r => if r.core == u.core && r.part == u.part then r.began s.clk else r }

end Sys2Proof.Machine
end

