-- ==== Sys2Proof/Machine/Message.lean ====
section
/-! DEFINITION. AMSG, AMH and LAUNCH as issued (R307, R308, R313). Delivery and dispatch are events. -/

namespace Sys2Proof.Machine

/-! ## Active messages -/

/-- The identity of a group in v1 of a handler group (Table 2-5). -/
def senderWord (g : Group) : Word := BitVec.ofNat 32 (g.core * 65536 + g.part * 256 + g.g)

/-- Handler table entry h of a context: register count and code address; none where empty (R307). -/
def handlerEntry (s : State) (cx h : Nat) : Option (Nat × DWord) :=
  (s.ctx? cx).bind fun c => assoc h c.handlers

/-- One lane's checks of AMSG, in order: the target core and the payload words (R308). -/
def amsgCheck (u : Issue) (s : State) (h v : Nat) (w : Nat) : Except XFault (Nat × Nat) :=
  let nw := bitsOf w 16 5
  let bad (c : Cause) (k : Nat) : Except XFault (Nat × Nat) := .error { cause := c, cxid := u.grp.cxid, va := 0, rank := k }
  if bitsOf w 8 8 ≠ 0 ∨ bitsOf w 21 11 ≠ 0 ∨ 16 < nw ∨ (handlerEntry s u.grp.cxid h).isNone ∨
      !((List.range nw).all fun i => regOk u.grp.nregs (v + i) && (decide (v < 96) == decide (v + i < 96))) then bad .illegalOp 0
  else if !(((s.ctx? u.grp.cxid).map fun c => c.cores.getLsbD (bitsOf w 0 8)).getD false) then bad .protection 1
  else .ok (bitsOf w 0 8, nw)

/-- AMSG: the checks of all lanes, the commit, then one message per lane counted once on cnt.am (R308). -/
def execAmsg (o : MSF) (s : State) : Host.Outcome State Fault Refusal :=
  execUnit (.amsg o) (fun u s =>
    if u.act.isEmpty then .ok (closeRegion u s)
    else
      let h := o.h.toNat
      let v := o.v.toNat
      match checkLanes u false u.act fun t => amsgCheck u s h v (u.rd s t o.c.toNat).toNat with
      | .error ti => .trap ti
      | .ok as =>
        match strictRegs (fun t => (List.range ((assoc t as).map Prod.snd |>.getD 0)).map fun i => v + i) u s with
        | some (c, ls) => .trap (u.ti c ls)
        | none =>
          if u.grp.cnt 3 == 65535 then .retry (.counter 3)
          else
            let s := closeRegion u s
            let op := s.nextId
            let ms : List Msg := as.mapIdx fun i x =>
              { id := op + 1 + i, cxid := u.grp.cxid, gid := u.gid, gr := u.grp.gr, op := op, core := x.2.1, h := h,
                pay := u.rdN s x.1 v x.2.2, sender := senderWord u.grp, tid := x.1 }
            let s := { s with msgs := s.msgs ++ ms, nextId := op + 1 + ms.length }
            .ok (s.updGrp u.gid fun g => { g with ops := g.ops ++ [⟨op, 3, false, []⟩] })) s

/-- Write a handler table entry; count 0 empties it (R307). -/
def setHandler (s : State) (cx h count : Nat) (code : DWord) : State :=
  s.updCtx cx fun c =>
    let hs := if count = 0 then assocDel h c.handlers else assocSet h (count, code) c.handlers
    { c with handlers := hs }

/-- Whether messages of a context that name an entry, admitted to a queue before stamp `upto`, still wait for
their handler groups (R307). -/
def amhBlocked (s : State) (cx h upto : Nat) : Bool :=
  s.msgs.any fun m => m.cxid == cx && m.h == h && (m.st == .queued || m.st == .fabric) && m.at_ != 0 && decide (m.at_ < upto)

/-- Let the AMH of one thread write its entry and go on, once its messages have started. -/
def amhRelease (gid cx : Nat) (s : State) (t : Nat) : State :=
  match (s.grp? gid).bind fun g => (g.thr t).park with
  | some (.amh h upto count code) =>
    if amhBlocked s cx h upto then s
    else (setHandler s cx h count code).updThr gid t Thread.release
  | _ => s

/-- Release every AMH whose messages have started (R307). -/
def amhWake (s : State) : State :=
  s.groups.foldl (fun s g => g.live.foldl (amhRelease g.gid g.cxid) s) s

/-- AMH (R307): the lowest lane's entry; every active thread parks until earlier messages have started. -/
def execAmh (o : AHF) (s : State) : Host.Outcome State Fault Refusal :=
  execUnit (.amh o) (fun u s =>
    if u.act.isEmpty then .ok s
    else
      let n := (u.rd s u.low o.c.toNat).toNat
      let a := u.rd64 s u.low o.v.toNat
      if !(n == 0 || (16 ≤ n && n ≤ 96 && n % 8 == 0)) then .trap (u.ti .illegalOp u.act)
      else if a.toNat % 4 ≠ 0 then .trap (u.ti .misaligned u.act a)
      else if !canonical a then .trap (u.ti .protection u.act a)
      else .ok (amhWake (updAct u s fun _ th => { th with park := some (.amh o.h.toNat s.nextId n a) }))) s

/-! ## LAUNCH -/

/-- Entries of a launch queue (R400). -/
def queueOf (c : Ctx) (q : Nat) : List QEntry := (assoc q c.queues).getD []

/-- Whether a launch queue holds its 1,024 entries (R400). -/
def queueFull (s : State) (cx q : Nat) : Bool := (s.ctx? cx).any fun c => decide (1024 ≤ (queueOf c q).length)

/-- Append an entry to a launch queue. -/
def pushQueue (s : State) (cx q : Nat) (e : QEntry) : State :=
  s.updCtx cx fun c => { c with queues := assocSet q (queueOf c q ++ [e]) c.queues }

/-- LAUNCH: the lowest lane's record is read, checked and appended; every active lane receives the status
(R313, R314). -/
def execLaunch (o : LNF) (s : State) : Host.Outcome State Fault Refusal :=
  execUnit (.launch o) (fun u s =>
    if u.act.isEmpty then .ok (closeRegion u s)
    else
      let a := u.rd64 s u.low (2 * o.ap.toNat)
      if a.toNat % 128 ≠ 0 then .trap (u.ti .misaligned u.act a)
      else match readOwn u s u.low a 128, s.ctx? u.grp.cxid with
        | .error f, _ => .trap (failTrap u false (u.act.map fun t => (t, f)))
        | .ok (some (w, p)), some c =>
          let q := o.q.toNat
          let st := launchCheck c q w
          if st == 0 && queueFull s u.grp.cxid q then .retry (.queue q)
          else
            let s := closeRegion u (readTouch u s p 128)
            let rel := releaseOf s ((s.grp? u.gid).getD u.grp) u.act s.nextId 4
            let upto := s.nextId
            let s := addPends u s fun _ => ([o.d.toNat], [some (BitVec.ofNat 32 st)])
            .ok (if st = 0 then pushQueue s u.grp.cxid q (.captured w u.gid upto u.act rel false) else s)
        | _, _ => .retry (.record u.low a 128)) s

end Sys2Proof.Machine
end

