-- ==== Sys2Proof/Machine/CtxTree.lean ====
section
/-! DEFINITION. What the context engine does to the tree: commitments (R339), the freeing of frames (R374),
vacating cores, stopping, resuming and killing subtrees (R347 to R352, R387), and images (R353). -/

namespace Sys2Proof.Machine

/-! ## Commitments (R339, R375) -/

/-- Live children of a context. -/
def children (s : State) (c : Nat) : List Ctx :=
  s.ctxs.filter fun x => x.parent == c && x.cxid != c && x.level != 0 && x.state != .killed

/-- Frames of a buffer that count for ownership: HBM and CXL alone (R375). -/
def Buf.counted (b : Buf) : Bool := b.kind == .hbm || b.kind == .cxl

/-- Whether a listed frame counts for a context: its owner, or its receiver while it is freed (R375). -/
def Frame.countsFor (f : Frame) (c : Nat) : Bool :=
  match f.st with
  | .owned | .clean => f.owner == c
  | _ => f.next == c

/-- Frames of HBM and CXL buffers that count for a context; the root counts every frame that is not listed as another's (R375). -/
def fown (s : State) (c : Nat) : Nat :=
  let fs := s.frames.filter fun f => ((s.buf? f.b).map Buf.counted).getD false
  if c = 0 then ((s.bufs.filter Buf.counted).map Buf.size).sum - (fs.filter fun f => !f.countsFor 0).length
  else (fs.filter fun f => f.countsFor c).length

/-- The frame commitment of Table 16-3. -/
def fcommit (s : State) (c : Nat) : Nat := fown s c + ((children s c).map Ctx.fbud).sum
/-- The context commitment. -/
def cxcommit (s : State) (c : Nat) : Nat := ((children s c).map fun x => 1 + x.cxbud).sum
/-- The queue commitment. -/
def qcommit (s : State) (c : Ctx) : Nat := c.nq + ((children s c.cxid).map Ctx.qbud).sum
/-- The token-rate commitment. -/
def tcommit (s : State) (c : Nat) : Nat := ((children s c).map Ctx.trate).sum

/-- The first resource of a list of tests that fails: its detail number (R343). -/
def firstFail : List (Nat × Bool) → Option Nat
  | [] => none
  | (n, ok) :: r => if ok then firstFail r else some n

/-- Capacity of a token bucket in 1/64 tokens (R413). -/
def bucketCap (tburst : Nat) : Nat := 64 * 64 * max 1 tburst

/-! ## Frames (R373, R374) -/

/-- Remove the composed entries that reach a frame (R374). -/
def dropFrameEnts (s : State) (b f : Nat) : State := dropEnts s fun e => e.b == b && e.off / 65536 == f

/-- Discard every open region with a buffered store that satisfies a test: thread by thread (R366, R374). -/
def discardWhere (s : State) (p : BStore → Bool) : State :=
  s.groups.foldl (fun s g =>
    let ts := g.live.filter fun t => (g.thr t).stores.any p
    if ts.isEmpty then s else discard s g.gid ts) s

/-- Free a frame towards a receiver: its entries go and regions that hold stores to it are discarded; scrub
order and the accesses to wait for are noted (R373, R374). -/
def freeFrame (next : Nat) (s : State) (x : Frame) : State :=
  let s := s.setFrame { x with st := .freed, next := next, order := s.nextId, before := s.nextId }
  let s := dropFrameEnts { s with nextId := s.nextId + 1 } x.b x.f
  discardWhere s fun y => y.glob && y.b == x.b && y.off / 65536 == x.f

/-- Free every frame of an HBM or CXL buffer whose owner satisfies a test (R456). A frame on its way to such an owner goes to the
receiver. -/
def freeFrames (s : State) (p : Nat → Bool) (next : Nat) : State :=
  let s : State := { s with
    frames := s.frames.map fun f =>
      if (f.st == .freed || f.st == .scrubbing) && p f.next then { f with next := next } else f }
  (s.frames.filter fun f => (f.st == .owned || f.st == .clean) && p f.owner &&
    ((s.buf? f.b).map Buf.counted).getD false).foldl (freeFrame next) s

/-- Move a frame's ownership within a grant: lines and entries go, the state stays (Table 17-10). Accesses translated
before are checked again at memory (R371). -/
def giveFrame (owner : Nat) (s : State) (x : Frame) : State :=
  invalidateRange (dropFrameEnts (s.setFrame { x with owner := owner }) x.b x.f) x.b (x.f * 65536) 65536

/-- Pass FLASH and PEER buffers of removed owners to a receiver: the entries that reach them and the lines tagged with the old
owner go (R372, R456). -/
def passBufs (s : State) (p : Nat → Bool) (next : Nat) : State :=
  let mine (b : Buf) : Bool := !b.counted && p b.bown
  let gone := (s.bufs.filter mine).map Buf.idx
  dropEnts { s with
    bufs := s.bufs.map fun b => if mine b then { b with bown := next } else b
    l1 := s.l1.filter fun c => !gone.contains c.b
    l2 := s.l2.filter fun l => !gone.contains l.b } fun e => gone.contains e.b

/-! ## Blocks on cores -/

/-- Cores that a block occupies. -/
def Block.cores (b : Block) : List Nat := if b.paired then [b.core, b.core + 1] else [b.core]

/-- A block that is placed. -/
def Block.placed (b : Block) : Bool := b.saved.isNone

/-- Placed blocks of a context. -/
def placedOf (s : State) (c : Nat) : List Block := s.blocks.filter fun b => b.cxid == c && b.placed

/-- Blocks that one vacate takes as a unit with b: its gang, or its whole CORESIDENT grid (R390). -/
def sameUnit (s : State) (b x : Block) : Bool :=
  x.bid == b.bid || (b.gr != 0 && x.gr == b.gr && (match s.grid? b.gr with
    | some g => lrCores g.lrec || (decide (1 < lrGang g.lrec) && x.gang == b.gang)
    | none => false))

/-- Ask placed blocks to leave their cores. Handler groups are always saved urgently (R390); an urgent
request stands over a graceful one (R345). -/
def askLeave (s : State) (bs : List Nat) (urgent : Bool) (deadline : Option Nat) : State :=
  { s with
    blocks := s.blocks.map fun b =>
      if bs.contains b.bid && b.placed then
        let h := s.groups.any fun g => g.bid == b.bid && g.isHandler
        let was := (b.pre.map Pre.urgent).getD false
        { b with pre := some ⟨urgent || h || was, deadline⟩ }
      else b }

/-- The clk at which a graceful deadline expires. -/
def deadlineAt (s : State) (n : Nat) : Option Nat := if n = 0 then none else some (s.clk + n)

/-- Cores that placed blocks of contexts occupy. -/
def coresOf (bs : List Block) : BitVec 192 := (bs.flatMap Block.cores).foldl (fun m k => m ||| ((1 : BitVec 192) <<< k)) 0

/-- Cores that placed blocks of a context occupy. -/
def busyCores (s : State) (c : Nat) : BitVec 192 := coresOf (placedOf s c)

/-- Cores that placed blocks of a context and its descendants occupy. -/
def busyTree (s : State) (c : Nat) : BitVec 192 := coresOf (s.blocks.filter fun b => inSubtree s c b.cxid && b.placed)

/-- Vacate cores of one context by spatial pre-emption: they leave its run set, and its blocks on them are asked to leave. While
blocks of its subtree are on them, they run on (R347, R351, R390). -/
def vacate (s : State) (c : Nat) (cores : BitVec 192) (urgent : Bool) (deadline : Option Nat) (revoked : Bool) : State :=
  let hit := (placedOf s c).filter fun b => b.cores.any fun k => cores.getLsbD k
  let unit := (s.blocks.filter fun x => x.cxid == c && hit.any fun b => sameUnit s b x).map Block.bid
  let busy := coresOf hit
  let tree := busyTree s c
  let s := askLeave s unit urgent deadline
  s.updCtx c fun x =>
    { x with
      runset := x.runset &&& ~~~cores
      vacating := x.vacating ||| (tree &&& cores)
      revoking := if revoked then x.revoking ||| (busy &&& cores) else x.revoking
      pendVacate := x.pendVacate || (revoked && busy &&& cores != 0) }

/-! ## Stopping and resuming -/

/-- Descendants that an ancestor's stop stopped return with their parents, on their former run sets within
the parents' (R349). One pass per level. -/
def resumeLevel (s : State) (lvl : Nat) : State :=
  { s with
    ctxs := s.ctxs.map fun x =>
      if x.level == lvl && x.state == .stopped && x.byAncestor then
        match s.ctx? x.parent with
        | some p =>
          let r := x.runset &&& p.runset
          if p.state == .running && r != 0 then { x with state := .running, runset := r, byAncestor := false } else x
        | none => x
      else x }

/-- Resume descendants, from the top of the tree downwards. -/
def resumeTree (s : State) : State := [2, 3, 4, 5, 6, 7].foldl resumeLevel s

/-- A stopping context without placed blocks is STOPPED; the cores on which blocks of its descendants still go to their saves are
vacated with them (R348). A core that no block occupies any more is vacated (R347, R351). A descendant that becomes STOPPED when
its parent already runs again returns with it (R349) (DEDUCED, notes/assumptions/68.md). -/
def settleStops (s : State) : State :=
  resumeTree { s with
    ctxs := s.ctxs.map fun x =>
      let busy := busyCores s x.cxid
      { x with
        state := if x.state == .stopping && busy == 0 then .stopped else x.state
        byRevoke := x.byRevoke && busy != 0
        vacating := (if x.state == .stopping && busy == 0 then x.vacating ||| x.runset else x.vacating) &&& busyTree s x.cxid
        revoking := x.revoking &&& busy } }

/-- Begin to stop one context. -/
def beginStop (urgent : Bool) (deadline : Option Nat) (top : Nat) (s : State) (x : Ctx) : State :=
  let s := askLeave s ((placedOf s x.cxid).map Block.bid) urgent deadline
  s.updCtx x.cxid fun y => { y with state := .stopping, byAncestor := y.cxid != top }

/-- Stop a context and its running descendants by one kind (R348, R349). A context that is stopping already
only becomes urgent. -/
def stopTree (s : State) (c : Nat) (urgent : Bool) (deadline : Nat) : State :=
  let go := (subtree s c).filter fun x => x.state == .running || x.cxid == c
  settleStops (go.foldl (beginStop urgent (deadlineAt s deadline) c) s)

/-- Make a stopping subtree's blocks urgent (Table 16-9). -/
def hurryTree (s : State) (c : Nat) : State :=
  let bs := (s.blocks.filter fun b => inSubtree s c b.cxid && b.placed && b.pre.isSome).map Block.bid
  askLeave s bs true none

/-! ## Stopping without save (R352, R391) -/

/-- Whether a request stands for what a commit has done, which nothing undoes (R122): a store or an atomic to memory. -/
def Req.stands (r : Req) : Bool := r.blk.isNone && r.kind != .load && !r.performed

/-- Remove the running work of contexts: groups, blocks, grids, loads, and engine work (R239, R285, R300, R352). What their
commits have sent to memory is still performed (R122), and what a home unit has admitted is applied, and not logged (R285). -/
def dropWork (s : State) (p : Nat → Bool) : State :=
  { dropMx s (fun m => p m.cxid) with
    groups := s.groups.filter fun g => !p g.cxid
    blocks := s.blocks.filter fun b => !p b.cxid
    grids := s.grids.filter fun g => !p g.cxid
    runs := s.runs.filter fun r => !s.groups.any fun g => g.gid == r.gid && p g.cxid
    reqs := s.reqs.filter fun r => !p r.cxid || r.stands
    ctxops := s.ctxops.filter fun r => !p r.cxid
    rus := (s.rus.filter fun r => !p r.cxid || (r.admitted && !r.applied)).map fun r => if p r.cxid then { r with quiet := true } else r
    rdefs := s.rdefs.filter fun r => !p r.cxid
    bts := s.bts.filter fun b => !p b.cxid
    msgs := s.msgs.filter fun m => !p m.cxid
    traps := s.traps.filter fun t => !p t.cxid
    recs := s.recs.filter fun r => !p r.dest }

/-- Stop a subtree without save and give its frames and buffers to a receiver; functions that it served have no context any
more, and what it filled in ways being swept goes (R352, R391, R412, R417). -/
def killTree (s : State) (top next : Nat) : State :=
  let dead := (subtree s top).map Ctx.cxid
  let p (c : Nat) : Bool := dead.contains c
  let s := dropWork s p
  let s := freeFrames s p next
  let s := passBufs s p next
  let s : State := { s with
    ctxs := s.ctxs.map fun x => if p x.cxid then
      { x with
        state := .killed, runset := 0, vacating := 0, queues := [], rops := [], handlers := [], slice := none,
        pendBits := 0, pendVacate := false, revoking := 0, byRevoke := false, sweepWays := 0, sweepUpto := 0, wantSup := false } else x
    parts := s.parts.map fun x => if p x.cxid then { x with cxid := 0 } else x
    vfs := s.vfs.map fun v => if v.cxid.any p then { v with cxid := none } else v
    l2 := s.l2.filter fun l => !(p l.filler && (s.ctx? l.filler).any fun x => x.sweepWays.getLsbD l.way)
    attach := s.attach.filter fun a => !p a.cxid }
  wake (dropWalks (dropEnts s fun e => p e.cxid) fun w => p w.cxid)

/-- Abandon the engine work of groups that stop without save: transfers, matrix operations, definitions, and remote updates
that are not admitted (R239, R285, R300). Their operations are no longer counted, but for messages and for remote updates that
are still to be applied. -/
def abandon (s : State) (gids : List Nat) : State :=
  let rus := (s.rus.filter fun r => !gids.contains r.gid || r.admitted).map fun r => if gids.contains r.gid then { r with quiet := true } else r
  { dropMx s (fun m => gids.contains m.gid) with
    bts := s.bts.filter fun o => !gids.contains o.gid
    rdefs := s.rdefs.filter fun r => !gids.contains r.gid
    rus := rus
    groups := s.groups.map fun g => if gids.contains g.gid then
      { g with ops := g.ops.filter fun o => o.cls == 3 || (o.cls == 2 && rus.any fun r => r.op == o.id) } else g }

/-- Stop the groups on given cores of a context without save; each grid that had a block there ends with
CTX_BUDGET (R351). -/
def evictNsv (s : State) (c : Nat) (cores : BitVec 192) : State :=
  let bs := (placedOf s c).filter fun b => b.cores.any fun k => cores.getLsbD k
  let s := bs.foldl (fun s b => if b.gr = 0 then s else markEnding s b.gr Cause.ctxBudget.code) s
  let gs := s.groups.filter fun g => bs.any fun b => b.bid == g.bid
  gs.foldl (fun s g =>
    let s := endRun (exitThrs s g.gid g.live) g.gid
    match s.grp? g.gid with
    | some g' => handlerGone s g'
    | none => s) (abandon s (gs.map Group.gid))

/-! ## Images (R338, R353) -/

/-- Words of a 192-bit core mask. -/
def maskWords (m : BitVec 192) : List Word := (List.range 6).map fun i => m.extractLsb' (32 * i) 32

/-- A 192-bit core mask from six words of a record. -/
def maskAt (r : List Word) (k : Nat) : BitVec 192 :=
  BitVec.ofNat 192 ((List.range 6).map fun i => wAt r (k + i) * 2 ^ (32 * i)).sum

/-- State codes of Table 16-8. -/
def CtxState.code : CtxState → Nat
  | .created => 0 | .running => 1 | .stopping => 2 | .stopped => 3 | .killed => 4

/-- Whether a revocation's vacate or sweep is unfinished in a context's subtree (R351). -/
def revPending (s : State) (c : Nat) : Bool :=
  (subtree s c).any fun x => x.pendVacate || x.sweepWays != 0

/-- A context's image: descriptor words 0 to 20, then the run state (Tables 16-2 and 16-11). -/
def ctxImage (s : State) (x : Ctx) : List Word :=
  [BitVec.ofNat 32 (x.cxid * 65536 + x.parent),
   BitVec.ofNat 32 (x.level * 2 ^ 29 + (if x.sdbg then 2 ^ 28 else 0) + x.nq * 2 ^ 13)] ++
  maskWords x.cores ++
  [BitVec.ofNat 32 x.fbud, BitVec.ofNat 32 (x.cxbud * 65536 + x.qbud), x.wmask.setWidth 32,
   BitVec.ofNat 32 (x.trate * 65536 + x.tburst), x.dmask, 0,
   pairLo x.ptroot, pairHi x.ptroot, pairLo x.tvec, pairHi x.tvec, pairLo x.sentry, pairHi x.sentry,
   BitVec.ofNat 32 (x.sgw * 2 ^ 30 + x.src8 * 2 ^ 26),
   BitVec.ofNat 32 ((if revPending s x.cxid then 8 else 0) + x.state.code),
   BitVec.ofNat 32 (fown s x.cxid), BitVec.ofNat 32 (fcommit s x.cxid)] ++
  maskWords (if x.state == .killed then 0 else s.runset x.cxid) ++ [0, 0]

end Sys2Proof.Machine
end

