-- ==== Sys2Proof/Machine/Time.lean ====
section
/-! DEFINITION. The passing of time (R8, R57): what the arithmetic clock advances in threads and contexts
(R38, R221, R347, R413), and L1 fusion's report (R93). -/

namespace Sys2Proof.Machine

/-! ## L1 fusion (R93) -/

/-- Cores of a cluster. -/
def clusterOf (k : Nat) : List Nat := [4 * k, 4 * k + 1, 4 * k + 2, 4 * k + 3]

/-- Whether a context is in the way of fusion for a grid's context on a cluster: it runs there; an ancestor, whose RUNSET
holds every core of its descendants' (R347), only where it has a group itself (R93) (DEDUCED, notes/assumptions/64.md). -/
def inWay (s : State) (k cx : Nat) (x : Ctx) : Bool :=
  x.cxid != cx && x.state != .killed &&
    (if inSubtree s x.cxid cx then s.groups.any fun g => g.cxid == x.cxid && g.core / 4 == k && !g.live.isEmpty
     else (clusterOf k).any fun c => runsOn s x.cxid c)

/-- Whether a cluster meets the conditions of fusion for a grid: it holds a block there, and its cores run only the grid's
context. -/
def fusable (s : State) (k : Nat) : Bool :=
  let here := s.blocks.filter fun b => b.placed && b.core / 4 == k
  here.any fun b =>
    ((s.grid? b.gr).map fun g => lrFuse g.lrec).getD false && (clusterOf k).all (runsOn s b.cxid) &&
      !s.ctxs.any (inWay s k b.cxid)

/-- Note in the grids that asked for fusion that it is out of effect where they hold a block (R93, R312). -/
def noteFusion (s : State) : State :=
  { s with
    grids := s.grids.map fun g =>
      if lrFuse g.lrec && !g.nofuse &&
          s.blocks.any (fun b => b.gr == g.gr && b.placed && !s.fused.contains (b.core / 4)) then
        { g with nofuse := true } else g }

/-- L1_FUSION_CHANGE: a cluster starts or ends fusion, and its four L1s are invalidated (R93). -/
def execL1FusionChange (clu : Nat) (s : State) : Host.Outcome State Fault Refusal :=
  let want := fusable s clu
  if want == s.fused.contains clu then .next s
  else
    .next { s with
      fused := if want then clu :: s.fused else s.fused.filter (· != clu)
      l1 := s.l1.filter fun c => c.core / 4 != clu }

/-! ## Clock -/

/-- What n clk do to a context: while it runs its run time counts (R91) and its slice counts down (R347); its bucket fills
(R413). -/
def Ctx.tick (s : State) (n : Nat) (x : Ctx) : Ctx :=
  { x with
    ran := if s.runset x.cxid != 0 then x.ran + n else x.ran
    slice := x.slice.map fun k => if x.state == .running && s.runset x.cxid != 0 then k - n else k
    tokens := min (bucketCap x.tburst) (x.tokens + x.trate * n) }

/-- What n clk from clk on do to a thread whose context runs on its core: ready time, after a fairness period of which its
path is starved, and WAITA's timeout (R38, R221). -/
def Thread.tick (clk per n : Nat) (ready : Bool) (th : Thread) : Thread :=
  match th.park with
  | some (.waita ne v a (some l) f p) => { th with park := some (.waita ne v a (some (l - n)) f p) }
  | _ =>
    if ready then
      let w := th.waited + n
      { th with waited := w, starved := if th.starved.isNone && decide (per ≤ w) then some (clk + (per - th.waited)) else th.starved }
    else th

/-- What n clk do to a group whose context runs on its core: ready time counts from a thread's last issue (R38). -/
def Group.tick (s : State) (n : Nat) (g : Group) : Group :=
  if runsOn s g.cxid g.core then { g with threads := g.threads.mapIdx fun t th => th.tick s.clk g.fper n (g.ready t) } else g

/-- Steps of the arithmetic clock in 0.125 GHz, never zero. -/
def State.steps (s : State) : Nat := max 1 s.freq

/-- The arithmetic clock advances by n (R8): reference ticks of 0.8 ns pass at 1.25 GHz (R57). -/
def tick (n : Nat) (s : State) : State :=
  if n = 0 then s
  else
    noteFusion { s with
      clk := s.clk + n
      busy := s.busy.filter fun b => decide (s.clk + n < b.2.2)
      ref252 := s.ref252 + n * 2520 / s.steps
      ctxs := s.ctxs.map (Ctx.tick s n)
      groups := s.groups.map (Group.tick s n) }

end Sys2Proof.Machine
end

