-- ==== Sys2Proof/Machine/Place.lean ====
section
/-! DEFINITION. Placing groups and blocks: lane runs, slots and registers (R26, R27), scratchpad and tiles (R28),
paired blocks, gangs and CORESIDENT grids (R29 to R31, R41), and the save region (R385). -/

namespace Sys2Proof.Machine

/-! ## Groups -/

/-- Groups on a partition with a thread that has not exited: those that hold lanes and registers (R45). -/
def residents (s : State) (core part : Nat) : List Group :=
  s.groups.filter fun g => g.core == core && g.part == part && !g.live.isEmpty

/-- Whether two lane runs of a partition overlap. -/
def lanesMeet (b w b' w' : Nat) : Bool := decide (b < b' + w' ∧ b' < b + w)

/-- Whether a run of w lanes from b and a slot are free for a group of n registers (R26, R27). -/
def placeOk (rs : List Group) (b w slot n : Nat) : Bool :=
  let near := rs.filter fun g => lanesMeet b w g.base g.width
  near.all (fun g => g.slot != slot) &&
    (List.range w).all fun l =>
      decide (((near.filter fun g => lanesMeet (b + l) 1 g.base g.width).map Group.nregs).sum + n ≤ 1024)

/-- The runs and slots that a group of width w and n registers may take in a partition (R26, R27). -/
def places (s : State) (core part w n : Nat) : List (Nat × Nat) :=
  let rs := residents s core part
  (List.range (64 / w)).flatMap fun k =>
    ((List.range 32).filter fun slot => placeOk rs (w * k) w slot n).map fun slot => (w * k, slot)

/-- One of the places, by a free choice (R26) (DESIGN CHOICE, notes/assumptions/15.md). -/
def choose (l : List (Nat × Nat)) (pick : Nat) : Option (Nat × Nat) := l[pick % max 1 l.length]?

/-- Bytes of a group's cocoon frame (R385). -/
def frameBytes (w n : Nat) : Nat := 4096 + 4 * n * w

/-- Bytes of a saved block: its frames, scratchpad and tiles (R389) (DESIGN CHOICE, notes/assumptions/14.md). -/
def saveSize (b : Block) (gs : List Group) : Nat :=
  (gs.map fun g => frameBytes g.width g.nregs).sum + b.size + (if b.paired then 2 else 1) * b.acc * 16384

/-- Bytes of the save region in use: frames reserved by resident groups, and saved blocks (R385). -/
def saveUsed (s : State) : Nat :=
  ((s.groups.filter fun g => !g.live.isEmpty).map fun g => frameBytes g.width g.nregs).sum +
    (s.blocks.filterMap fun b => b.saved.map (saveSize b)).sum

/-- Place one group, if the partition and the save region have room; one that was saved keeps its lanes (R57). -/
def addGroup (core part : Nat) (lane : Option Nat) (pick : Nat) (g : Group) (s : State) : Option State :=
  let free := (places s core part g.width g.nregs).filter fun x => lane.all fun b => b == x.1
  if s.saveBytes < saveUsed s + frameBytes g.width g.nregs then none
  else (choose free pick).map fun x =>
    { s with groups := s.groups ++ [{ g with core := core, part := part, base := x.1, slot := x.2 }] }

/-- Place groups one after the other, each by its own digit of the choice. -/
def addGroups : List (Group × Nat × Nat × Option Nat) → Nat → State → Option State
  | [], _, s => some s
  | (g, core, part, lane) :: r, pick, s => (addGroup core part lane (pick % 128) g s).bind (addGroups r (pick / 128))

/-- The fairness period of a context in clk: 256 × (fper + 1) (R38, R340). -/
def fairPeriod (s : State) (cx : Nat) : Nat := 256 * ((((s.ctx? cx).map Ctx.fper).getD 3) + 1)

/-! ## Blocks -/

/-- Scratchpad and tiles in use on a core (R28). -/
def padUsed (s : State) (core : Nat) : Nat :=
  ((s.blocks.filter fun b => b.placed && b.cores.contains core).map Block.smem).sum
/-- Tiles in use on a core. -/
def accUsed (s : State) (core : Nat) : Nat :=
  ((s.blocks.filter fun b => b.placed && b.cores.contains core).map Block.acc).sum

/-- Core and partition of group g of a block of n groups (R26, R29). -/
def groupHome (b : Block) (n g : Nat) : Nat × Nat :=
  if b.paired && n / 2 ≤ g then (b.core + 1, (g - n / 2) % 4) else (b.core, g % 4)

/-- The cores of each block of a unit that starts at a core: one after the other for a gang (R29, R30). -/
def unitOk (r : List Word) (core : Nat) : Bool :=
  if lrPaired r then core % 2 == 0
  else match lrGang r with
    | 1 => true
    | 2 => core % 2 == 0
    | _ => core % 4 == 0

/-- A saved group as it is placed again: its threads re-enter the regions that were discarded (R121), but for stopped ones and
those of a group in a frame; the words that it is restored to have been written anew (Table 6-2). -/
def Group.restored (g : Group) : Group :=
  { g with
    sus := [], latch := none
    threads := g.threads.map fun th => 
      { (if th.stopped || g.hold.isSome then th else th.reentered) with sus := [], kept := [] } }

/-- A group as a dispatch places it, at an age (R37) and, when it is new, with its context's fairness period (R340). -/
def Group.placedAt (s : State) (old : Bool) (g : Group) : Group :=
  if old then { g.restored with born := s.nextId } else { g with born := s.nextId, fper := fairPeriod s g.cxid }

/-- Place one block with its groups on the core it names, within a set of cores. A block that is placed again counts its
age from then, and blocks placed in one dispatch step are of different ages, in the order of placement
(R37) (DESIGN CHOICE, notes/assumptions/15.md); its groups keep their partitions and lanes (R57). Its copies that are held (R300)
keep their slots on the channels of the core they were started from (DESIGN CHOICE, notes/assumptions/49.md). -/
def putBlock (set : BitVec 192) (b : Block) (gs : List Group) (pick : Nat) (s : State) : Option State :=
  if !(b.cores.all fun c => set.getLsbD c && decide (padUsed s c + b.smem ≤ 0x80000 ∧ accUsed s c + b.acc ≤ 48)) then none
  else
    let n := gs.length
    let old := b.saved.isSome
    let s' := { s with
      nextId := s.nextId + 1
      blocks := s.blocks.filter (fun x => x.bid != b.bid) ++ [{ b with saved := none, pre := none, pe := none, full := false, sus := [] }] }
    let home (g : Group) : Nat × Nat × Option Nat :=
      let h := groupHome b n g.g
      if old then (h.1, g.part, some g.base) else (h.1, h.2, none)
    addGroups (gs.map fun g => (g.placedAt s old, home g)) pick s'

/-- Place the blocks of a unit, each by its gang rank from one core (R30, R31). -/
def putUnit (set : BitVec 192) (core : Nat) : Nat → List (Block × List Group) → State → Option State
  | _, [], s => some s
  | pick, (b, gs) :: r, s =>
    (putBlock set { b with core := core + b.rank } gs pick s).bind (putUnit set core (pick / 128 ^ gs.length) r)

/-! ## New blocks of a grid -/

/-- A group of a grid at its first instruction (R50). -/
def newGroup (x : Grid) (bid gid g rid : Nat) : Group :=
  let e := lrEntry x.lrec
  { gid := gid, cxid := x.cxid, gr := x.gr, bid := bid, g := g, kind := if x.sup then .supervisor else .block,
    core := 0, part := 0, slot := 0, base := 0, width := lrWidth x.lrec, nregs := lrRegs x.lrec,
    threads := List.replicate (lrWidth x.lrec) { pc := e, rpc := e, rid := rid, view := View.add [] 0 x.seen },
    sreg := (List.range 32).map fun i => (i, if i < 8 then lrArg x.lrec i else 0) }

/-- Block number lin of a grid, with its groups; their numbers count from id. -/
def newBlock (x : Grid) (lin id : Nat) : Block × List Group :=
  let r := x.lrec
  ({ bid := id, gr := x.gr, cxid := x.cxid, lin := lin, core := 0, paired := lrPaired r, gang := lin / lrGang r,
     rank := lin % lrGang r, smem := lrSmem r, acc := lrAcc r },
   (List.range (lrGroups r)).map fun g => newGroup x id (id + 1 + g) g (id + 1 + lrGroups r))

/-- Numbers that a new block of a grid takes. -/
def blockIds (x : Grid) : Nat := lrGroups x.lrec + 1

/-- Blocks lin, lin + 1, … of a grid. -/
def newBlocks (x : Grid) : Nat → Nat → Nat → List (Block × List Group)
  | 0, _, _ => []
  | n + 1, lin, id => newBlock x lin id :: newBlocks x n (lin + 1) (id + blockIds x)

/-! ## The next unit of a context (R25, R407) -/

/-- Saved blocks of a context, with their groups. -/
def savedOf (s : State) (p : Block → Bool) : List (Block × List Group) :=
  (s.blocks.filter p).filterMap fun b => b.saved.map fun gs => (b, gs)

/-- The block with the lowest linear index (DEDUCED, notes/assumptions/49.md). -/
def firstSaved : List (Block × List Group) → Option (Block × List Group)
  | [] => none
  | b :: r => match firstSaved r with
    | none => some b
    | some x => if x.1.lin < b.1.lin then some x else some b

/-- Insert by ascending linear index. -/
def insLin (b : Block × List Group) : List (Block × List Group) → List (Block × List Group)
  | [] => [b]
  | x :: r => if b.1.lin ≤ x.1.lin then b :: x :: r else x :: insLin b r

/-- Whether every block of a block's unit that has not retired is saved (R390). -/
def unitSaved (s : State) (b : Block) : Bool := s.blocks.all fun y => !sameUnit s b y || y.saved.isSome

/-- What is placed next of one grid: whether it is new, and the blocks of the unit, saved ones first (R25, R31, R390). -/
def nextOfGrid (s : State) (x : Grid) : Option (Bool × List (Block × List Group)) :=
  match firstSaved (savedOf s fun b => b.gr == x.gr && unitSaved s b) with
  | some (b, _) => some (false, (savedOf s fun y => sameUnit s b y).foldr insLin [])
  | none =>
    if x.next < lrBlocks x.lrec && !(s.blocks.any fun b => b.gr == x.gr && b.saved.isSome) then
      let n := if lrCores x.lrec then lrBlocks x.lrec else lrGang x.lrec
      some (true, newBlocks x n x.next s.nextId)
    else none

/-- Whether a comes before b in dispatch order: by priority, then by the moment they left (R407). -/
def gridBefore (a b : Grid) : Bool := decide (b.q % 8 < a.q % 8) || (a.q % 8 == b.q % 8 && decide (a.leftAt ≤ b.leftAt))

/-- Insert a grid in dispatch order. -/
def insGrid (g : Grid) : List Grid → List Grid
  | [] => [g]
  | x :: r => if gridBefore g x then g :: x :: r else x :: insGrid g r

/-- Active grids of a context that may place blocks, in dispatch order. -/
def activeGrids (s : State) (cx : Nat) : List Grid :=
  (s.grids.filter fun g => g.cxid == cx && !g.sup && g.reject == 0 && g.ending.isNone && !g.ended).foldr insGrid []

/-- Whether a grid still has blocks to place: saved ones, or new ones. -/
def toPlace (s : State) (x : Grid) : Bool := decide (x.next < lrBlocks x.lrec) || s.blocks.any fun b => b.gr == x.gr && b.saved.isSome

/-- The unit a context places next: saved handler blocks, then those of its first grid that has any; a unit of it that is saved in
part holds the grids after it (R407) (DEDUCED, notes/assumptions/49.md). -/
def headUnit (s : State) (cx : Nat) : Option (Option Grid × Bool × List (Block × List Group)) :=
  match firstSaved (savedOf s fun b => b.cxid == cx && b.gr == 0) with
  | some b => some (none, false, [b])
  | none => match (activeGrids s cx).find? (toPlace s) with
    | some x => (nextOfGrid s x).map fun u => (some x, u)
    | none => none

/-- The blocks of a list by their gangs. -/
def byGang (us : List (Block × List Group)) : List (List (Block × List Group)) :=
  ((us.map fun u => u.1.gang).eraseDups).map fun j => us.filter fun u => u.1.gang == j

/-- The k-th of the results that a function has over a list. -/
def nthSome {α β : Type} (f : α → Option β) : List α → Nat → Option β
  | [], _ => none
  | a :: l, k => match f a, k with
    | none, _ => nthSome f l k
    | some b, 0 => some b
    | some _, k + 1 => nthSome f l k

/-- Place units one after the other, each on any of the cores that take it, by a free choice (R41). -/
def putAll (set : BitVec 192) (r : List Word) (cores : List Nat) :
    Nat → List (List (Block × List Group)) → State → Option State
  | _, [], s => some s
  | pick, u :: us, s =>
    match nthSome (fun c => if unitOk r c then putUnit set c (pick / 256) u s else none) cores (pick % 256) with
    | some s' => putAll set r cores (pick / 256 / 128 ^ (u.map fun b => b.2.length).sum) us s'
    | none => none

/-! ## Handlers that go first (R48, R382) -/

/-- Whether a message waits for its handler group on a core (R48). -/
def msgWaits (s : State) (core : Nat) : Bool :=
  s.msgs.any fun m => m.core == core && m.st == .queued && runsOn s m.cxid core

/-- The core on which a trap record's handler group is placed: where the trap arose, else the lowest of the run
set (R382). -/
def handlerCore (s : State) (r : TrapRec) : Option Nat :=
  let set := placeSet s r.dest
  if r.trap.gid != 0 && set.getLsbD r.trap.core then some r.trap.core
  else (List.range 192).find? fun c => set.getLsbD c

/-- Whether a trap record waits for its handler group on a core. -/
def trapWaits (s : State) (core : Nat) : Bool :=
  s.recs.any fun r => r.dest != 0 && r.bound.isNone && handlerCore s r == some core

/-- Cores on which no block is placed now, for handler groups that wait there. -/
def handlerCores (s : State) : List Nat :=
  (s.msgs.map Msg.core).filter (msgWaits s) ++
    (s.recs.filter fun r => r.dest != 0 && r.bound.isNone).filterMap (handlerCore s)

/-- Cores on which blocks of a context may be placed now: none where a handler group waits (R48, R382, R407). -/
def blockSet (s : State) (cx : Nat) : BitVec 192 :=
  (handlerCores s).foldl (fun m c => m &&& ~~~((1 : BitVec 192) <<< c)) (placeSet s cx)

/-- Place the next unit of a context from a core, by a free choice of places; its blocks then no longer wait. -/
def placeHead (s : State) (cx core pick : Nat) : Option State :=
  let set := blockSet s cx
  match headUnit s cx with
  | none => none
  | some (none, _, us) => if set.getLsbD core then putUnit set core pick us s else none
  | some (some x, new, us) =>
    if !set.getLsbD core then none
    else
      let s' : State := if new then { s with nextId := s.nextId + blockIds x * us.length } else s
      let placed :=
        if lrCores x.lrec then
          let all := (List.range 192).filter fun c => set.getLsbD c
          putAll set x.lrec (core :: all.filter (· != core)) pick (byGang us) s'
        else if unitOk x.lrec core then putUnit set core pick us s' else none
      placed.map fun t => if new then t.updGrid x.gr fun g =>
        { g with next := g.next + us.length, first := if g.next = 0 then t.nextId else g.first } else t

end Sys2Proof.Machine
end

