-- ==== Sys2Proof/Machine/Matrix.lean ====
section
/-! DEFINITION. The matrix instructions as issued: MMA, MLOOP, MSTR, ACLR, AREAD, AWRITE, AST, ALD and
MBURST (R121, R231 to R251). Their steps are events of the sequencer. -/

namespace Sys2Proof.Machine

/-- The tiles a group may name: its block's count (R58). -/
def Issue.accCount (u : Issue) (s : State) : Nat := ((s.blk? u.grp.bid).map Block.acc).getD 0

/-- The core half of a paired block that the group's core is (R29). -/
def Issue.half (u : Issue) (s : State) : Nat := ((s.blk? u.grp.bid).map fun b => u.core - b.core).getD 0

/-- The mode of a tile that the unit names. -/
def Issue.tileMode (u : Issue) (s : State) (acc : Nat) : Nat :=
  ((s.blk? u.grp.bid).map fun b => b.mode (u.half s) acc).getD 0

/-- Active threads that a tile-writing instruction is performed for: those without a skip count (R121). -/
def Issue.writers (u : Issue) : List Nat := u.act.filter fun t => (u.grp.thr t).skip == 0

/-- Threads whose ordinal the instruction would raise to 64 (R121) (DEDUCED, notes/assumptions/54.md). -/
def Issue.ordFull (u : Issue) : List Nat := u.act.filter fun t => decide (63 ≤ (u.grp.thr t).ord)

/-- Count a tile-writing instruction: every active thread's ordinal rises, a skip count falls (R121)
(DEDUCED, notes/assumptions/54.md). -/
def countTile (u : Issue) (s : State) : State :=
  updAct u s fun _ th => { th with ord := th.ord + 1, skip := th.skip - 1 }

/-- Whether an operation of the group on the tile has not completed, or an AREAD of the group still waits to read it:
what a later access of the tile waits for (R88, R237) (DEDUCED, notes/assumptions/32.md). -/
def tileBusy (u : Issue) (s : State) (acc : Nat) : Bool :=
  s.mxs.any (fun m => m.gid == u.gid && m.acc == acc) ||
    u.grp.threads.any fun th => th.pend.any fun p => match p.tile with
      | some r => r.t == acc
      | none => false

/-- A tile-writing instruction that acts at once: its counts, and its waits and effect for the threads that it is
performed for, if any (R121, R237). -/
def tileWrite (u : Issue) (s : State) (acc : Nat) (f : List Nat → State → State) : Res :=
  if !u.ordFull.isEmpty then .trap (u.ti .regionFull u.ordFull)
  else if u.writers.isEmpty then .ok (countTile u s)
  else if tileBusy u s acc then .retry (.tile acc)
  else .ok (f u.writers (countTile u s))

/-! ## MSTR, ACLR, AREAD, AWRITE, MBURST -/

/-- MSTR: the lowest lane's quad, with valid set (R243). -/
def execMstr (o : MQF) (s : State) : Host.Outcome State Fault Refusal :=
  execUnit (.mstr o) (fun u s =>
    if u.act.isEmpty then .ok s
    else
      let ws := u.rdN s u.low o.q.toNat 4
      let x : BitVec 128 := BitVec.ofNat 128 (wordsNat ws)
      if bitsOf x.toNat 0 2 = 3 ∨ bitsOf x.toNat 2 21 ≠ 0 then .trap (u.ti .illegalOp u.act)
      else if msBase x % 4 ≠ 0 ∨ msKinc x % 4 ≠ 0 ∨ msPitch x % 4 ≠ 0 then .trap (u.ti .misaligned u.act)
      else
        let y := x ||| ((1 : BitVec 128) <<< 23)
        .ok (s.updGrp u.gid fun g => if o.stream = 0 then { g with ms0 := y } else { g with ms1 := y })) s

/-- ACLR (R247). -/
def execAclr (o : ACF) (s : State) : Host.Outcome State Fault Refusal :=
  execUnit (.aclr o) (fun u s =>
    if u.accCount s ≤ o.acc.toNat then .trap (u.ti .illegalOp u.act)
    else tileWrite u s o.acc.toNat fun _ s =>
      s.updBlk u.grp.bid fun b => b.clearTile (u.half s) o.acc.toNat o.mode.toNat) s

/-- Have a pending result of a thread wait for tile words (R237) (DEDUCED, notes/assumptions/32.md). -/
def awaitTile (id : Nat) (r : TileRef) (th : Thread) : Thread :=
  { th with pend := th.pend.map fun p => if p.id == id then { p with tile := some r } else p }

/-- AREAD: words of each active row as a long-latency result, read once no MLOOP of the group on the tile
is outstanding (R237, R248). -/
def execAread (o : ARF) (s : State) : Host.Outcome State Fault Refusal :=
  execUnit (.aread o) (fun u s =>
    let acc := o.acc.toNat
    let n := 2 ^ o.cnt.toNat
    if u.accCount s ≤ acc then .trap (u.ti .illegalOp u.act)
    else
      let busy := tileBusy u s acc
      let s' := addPends u s fun t => ((List.range n).map fun i => o.v.toNat + i, (List.range n).map fun i =>
        if busy then none
        else (s.blk? u.grp.bid).map fun b => b.tile (u.half s) acc t (o.col.toNat + i))
      .ok (if busy then updAct u s' fun t th => awaitTile (u.pendId s t) ⟨u.grp.bid, u.half s, acc, t, o.col.toNat⟩ th
        else s')) s

/-- AWRITE (R248). -/
def execAwrite (o : ARF) (s : State) : Host.Outcome State Fault Refusal :=
  execUnit (.awrite o) (fun u s =>
    let acc := o.acc.toNat
    if u.accCount s ≤ acc then .trap (u.ti .illegalOp u.act)
    else tileWrite u s acc fun ts s => ts.foldl (fun s t => s.updBlk u.grp.bid fun b =>
      b.setTile (u.half s) acc t o.col.toNat (u.rdN s t o.v.toNat (2 ^ o.cnt.toNat))) s) s

/-- The ramp record of an array; unlisted arrays are COLD (R242). -/
def State.ramp (s : State) (core part : Nat) : Ramp :=
  (s.ramps.find? fun r => r.core == core && r.part == part).getD
    { core := core, part := part, st := .cold, since := 0, upFor := 0, window := 0 }

/-- Set a ramp record. -/
def State.setRamp (s : State) (r : Ramp) : State :=
  { s with ramps := r :: s.ramps.filter fun x => !(x.core == r.core && x.part == r.part) }

/-- Start the ramp-up of an array that is COLD or ramping down (Table 10-1). -/
def rampStart (s : State) (core part : Nat) : State :=
  let r := s.ramp core part
  match r.st with
  | .cold => s.setRamp { r with st := .rampUp, since := s.clk, upFor := 32 }
  | .rampDown => s.setRamp { r with st := .rampUp, since := s.clk, upFor := s.clk - r.since }
  | _ => s

/-- MBURST: open or extend the window and start the ramp (R251). -/
def execMburst (o : MBF) (s : State) : Host.Outcome State Fault Refusal :=
  execUnit (.mburst o) (fun u s =>
    if o.n == 0 || u.act.isEmpty then .ok s
    else
      let s := rampStart s u.core u.part
      let r := s.ramp u.core u.part
      .ok (s.setRamp { r with window := max r.window (s.clk + o.n.toNat) })) s

/-! ## MMA and MLOOP -/

/-- The stream register that the instruction names. -/
def Issue.stream (u : Issue) (b : BitVec 1) : BitVec 128 := if b = 0 then u.grp.ms0 else u.grp.ms1

/-- The end of the bytes of B and of its exponents (R245). -/
def footprint (o : MXF) (m : BitVec 128) : Nat :=
  let tb := (pairTypes o.pairing.toNat).2
  let kg := kgOf o.kgc
  let n := msCols m
  max (msBase m + (kg - 1) * msKinc m + 15 * msPitch m + n * tb.store / 8)
    (if tb.isBx then msSbase m + 64 * (kg - 1) + n else 0)

/-- The checks of an MMA or MLOOP at issue that follow decoding, in the order of R245. A footprint that leaves the
scratchpad is reported at the stream's base: the rule names no byte of it (DESIGN CHOICE, notes/assumptions/63.md). -/
def mxCheck (u : Issue) (s : State) (o : MXF) : Option TrapInfo :=
  let p := o.pairing.toNat
  let m := u.stream o.stream
  if p = 15 ∧ s.service ≠ .full then some (u.ti .illegalOp u.act)
  else if !msValid m then some (u.ti .illegalOp u.act)
  else if u.accCount s ≤ o.acc.toNat then some (u.ti .illegalOp u.act)
  else if !pairMode p (u.tileMode s o.acc.toNat) then some (u.ti .illegalOp u.act)
  else if ((s.blk? u.grp.bid).map Block.size).getD 0 < footprint o m then
    some (u.ti .protection u.act (BitVec.ofNat 64 (msBase m)))
  else if !u.ordFull.isEmpty then some (u.ti .regionFull u.ordFull)
  else none

/-- Scratchpad bytes of the group's block that its threads' stores hold and have not performed: committed ones on
their way, then buffered ones (R237) (DEDUCED, notes/assumptions/31.md). -/
def groupPadBytes (s : State) (g : Group) : List (Nat × Host.Cell) :=
  let sent := (s.reqs.filter fun r => r.gid == g.gid && r.kind == .store && !r.performed && r.blk == some g.bid).map
    fun r => (r.tid, r.off, r.size, r.data.toNat)
  let held := (g.threads.mapIdx fun t th => (th.stores.filter fun x => !x.glob && x.blk == g.bid).map
    fun x => (t, x.off, x.size, x.data.toNat)).flatten
  (sent ++ held).flatMap fun e => (List.range e.2.2.1).map fun i =>
    (e.1, e.2.1 + i, BitVec.ofNat 8 (bitsOf e.2.2.2 (8 * i) 8))

/-- Accept an operation into the partition's sequencer with its captured operands, for the threads that the
instruction is performed for (R236, R246). -/
def mxAccept (u : Issue) (s : State) (o : MXF) (mma : Bool) (ts : List Nat) : State :=
  let p := o.pairing.toNat
  let kg := kgOf o.kgc
  let op : MxOp :=
    { id := s.nextId, gid := u.gid, cxid := u.grp.cxid, bid := u.grp.bid, core := u.core, part := u.part,
      half := u.half s, acc := o.acc.toNat, pairing := p, kg := kg,
      a := ts.map fun t => (t, u.rdN s t o.a.toNat (aPer p * kg)),
      ea := if (pairTypes p).1.isBx then ts.map fun t => (t, (List.range kg).map fun g =>
          bitsOf (u.rd s t (aScaleReg u.pfx o g).1).toNat (8 * (aScaleReg u.pfx o g).2) 8) else [],
      ms := u.stream o.stream, mma := mma, ovl := groupPadBytes s u.grp, fpc := u.upc }
  rampStart { s with mxs := s.mxs ++ [op], nextId := s.nextId + 1 } u.core u.part

/-- Whether the sequencer's queue of 8 is full (R236). -/
def mxFull (u : Issue) (s : State) : Bool :=
  decide (8 ≤ (s.mxs.filter fun m => m.core == u.core && m.part == u.part).length)

/-- What a latch keeps for an operation: A, its type, its k-groups and its scale source (R241). -/
def latchKey (p : Pfx) (o : MXF) : Latch :=
  let ty := (pairTypes o.pairing.toNat).1
  { a := o.a.toNat, kgc := o.kgc.toNat, ty := ElTy.ctorIdx ty,
    sc := p.mxsc.map fun m => (m.a.toNat, m.byte.toNat) }

/-- Whether an operation takes its A from the partition's latch: the group's latch keeps just this A, none of its registers has
been written since in any thread that it captured, and it captured every thread that the operation is performed for (R241)
(DEDUCED, notes/assumptions/22.md). -/
def latchHit (u : Issue) (o : MXF) : Bool :=
  match u.grp.latch with
  | none => false
  | some l => { l with tids := [] } == latchKey u.pfx o && (l.tids ++ u.writers).all fun t => (u.grp.thr t).kept == aReads u.pfx o

/-- The latch after an operation: with reuse it keeps the A that was captured, else it is released (R241). -/
def setLatch (u : Issue) (o : MXF) (s : State) : State :=
  let keep := o.reuse == 1 && !u.writers.isEmpty
  s.updGrp u.gid fun g => { g with
    latch := if keep then some { latchKey u.pfx o with tids := u.writers } else none
    threads := g.threads.mapIdx fun t th => { th with kept := if keep && u.writers.contains t then aReads u.pfx o else [] } }

/-- Issue clk of the A read: one for four registers, one in all on a latch hit (R252). -/
def mxCost (u : Issue) (o : MXF) : Nat := if latchHit u o then 1 else max 1 (ceilDiv (aReads u.pfx o).length 4)

/-- MMA: the threads park until the operation's last tile write (R244). -/
def execMma (o : MXF) (s : State) : Host.Outcome State Fault Refusal :=
  execUnit (.mma o) (fun u s => match mxCheck u s o with
    | some ti => .trap ti
    | none =>
      if u.writers.isEmpty then .ok (setLatch u o (countTile u s))
      else if mxFull u s then .retry .sequencer
      else
        let id := s.nextId
        let s := setLatch u o (countTile u (mxAccept u s o true u.writers))
        .ok (s.updGrp u.gid fun g => g.updThrs u.writers fun th => { th with park := some (.mma id) })) s

/-- MLOOP: counted on cnt.mx; the group runs on (R244). -/
def execMloop (o : MXF) (s : State) : Host.Outcome State Fault Refusal :=
  execUnit (.mloop o) (fun u s => match mxCheck u s o with
    | some ti => .trap ti
    | none =>
      if u.writers.isEmpty then .ok (setLatch u o (countTile u s))
      else if mxFull u s then .retry .sequencer
      else if u.grp.cnt 1 == 65535 then .retry (.counter 1)
      else
        let id := s.nextId
        let s := setLatch u o (countTile u (mxAccept u s o false u.writers))
        .ok (s.updGrp u.gid fun g => { g with ops := g.ops ++ [⟨id, 1, false, []⟩] })) s

/-! ## AST and ALD (R249, R250) -/

/-- Bytes per element of a format code. -/
def astBytes (f : BitVec 3) : Nat := if f = 0 then 4 else if f = 1 ∨ f = 2 then 2 else 1

/-- Whether a format is legal for a tile mode (Table 10-8). -/
def astLegal (f : BitVec 3) (mode : Nat) : Bool := f == 0 || (if mode = 0 then f != 4 else f == 4)

/-- The floating format of a code. -/
def astFmt (f : BitVec 3) : Fmt := if f = 1 then .bf16 else if f = 2 then .f16 else .e4m3

/-- A tile word as AST writes it (Table 10-8) (DEDUCED, notes/assumptions/47.md). -/
def astOut (f : BitVec 3) (sat : Bool) (w : Word) : Nat :=
  if f = 0 then w.toNat
  else if f = 4 then (if sat then (clampI (-128) 127 w.toInt % 256).toNat else bitsOf w.toNat 0 8)
  else roundF (astFmt f) .rn sat false (f32 w)

/-- A word as ALD reads it (Table 10-8). -/
def aldIn (f : BitVec 3) (x : Nat) : Word :=
  if f = 0 then BitVec.ofNat 32 x
  else if f = 4 then wrap32 (signedOf x 8)
  else round32 .rn false (decF (astFmt f) x)

/-- The checks of AST and ALD in the order of their entry: the tile, each lane's alignment and bounds, then the format for the
tile's mode (R85, R249). -/
def astCheck (u : Issue) (s : State) (o : ASF) (wr : Bool) : Except TrapInfo (List (Nat × Acc)) :=
  if u.accCount s ≤ o.acc.toNat then .error (u.ti .illegalOp u.act)
  else match checkLanes u wr u.act fun t =>
      let a := (u.rd s t o.o.toNat).toNat
      if a % 16 ≠ 0 then .error (padFault u .misaligned a 0)
      else match s.blk? u.grp.bid with
        | none => .error (padFault u .protection a 1)
        | some b => if a + 64 * astBytes o.fmt > b.size then .error (padFault u .protection a 1)
          else .ok { va := BitVec.ofNat 64 a, b := 0, off := a, owner := 0, blk := some b.bid, ent := none } with
    | .error ti => .error ti
    | .ok as => if astLegal o.fmt (u.tileMode s o.acc.toNat) then .ok as else .error (u.ti .illegalOp u.act)

/-- Whether an AST or ALD of the active threads has to wait: for their scratchpad requests on the way, for loads before a
store (R104) and for an acquire (R102). -/
def padWaits (u : Issue) (s : State) (wr : Bool) : Bool :=
  (s.reqs.any fun r => r.gid == u.gid && u.act.contains r.tid && !r.performed &&
    (r.blk.isSome || (wr && r.kind != .store))) || u.act.any fun t => acquiring s u.gid t

/-- A row image that AST writes. -/
def astRow (u : Issue) (s : State) (o : ASF) (t : Nat) : List Byte :=
  (List.range 64).flatMap fun j => leBytes (astBytes o.fmt) (astOut o.fmt (u.pfx.sat == 1)
    (((s.blk? u.grp.bid).map fun b => b.tile (u.half s) o.acc.toNat t j).getD 0))

/-- A write that a thread makes at once. -/
def Issue.wrBy (u : Issue) (s : State) (t : Nat) : By := u.grp.writeBy s t s.nextId []

/-- AST: each active lane's whole row to scratchpad, outside the region store buffer (R249, R250). -/
def execAst (o : ASF) (s : State) : Host.Outcome State Fault Refusal :=
  execUnit (.ast o) (fun u s => match astCheck u s o true with
    | .error ti => .trap ti
    | .ok as =>
      if tileBusy u s o.acc.toNat then .retry (.tile o.acc.toNat)
      else if padWaits u s true then .retry (.pad true u.act)
      else .ok (wake (as.foldl (fun s x =>
        s.writePad u.grp.bid x.2.off (astRow u s o x.1) (u.wrBy s x.1)) s))) s

/-- The words of a row image as ALD reads them, the thread's buffered stores first (R106, R249). -/
def aldRow (u : Issue) (b : Block) (o : ASF) (x : Nat × Acc) : List Word :=
  let n := astBytes o.fmt
  (List.range 64).map fun j =>
    let fw := fwdBytes (u.grp.thr x.1) x.2 (j * n) n
    let raw := Memory.getN b.pad (x.2.off + j * n) n
    aldIn o.fmt (leNat (raw.mapIdx fun i y =>
      if fw.1.testBit i then BitVec.ofNat 8 (bitsOf fw.2.toNat (8 * i) 8) else y))

/-- A thread has read the newest writes to a row image (R99). -/
def aldLearn (u : Issue) (o : ASF) (s : State) (x : Nat × Acc) : State :=
  let l : Loc := { blk := some u.grp.bid, off := x.2.off, n := 64 * astBytes o.fmt }
  s.updThr u.gid x.1 (Thread.learn s.nextId (readFrom s (u.grp.agent x.1) 0 4 (readBefore s l 0 []).2))

/-- ALD: each active lane's whole row from scratchpad, the thread's buffered stores first (R249, R250). -/
def execAld (o : ASF) (s : State) : Host.Outcome State Fault Refusal :=
  execUnit (.ald o) (fun u s => match astCheck u s o false with
    | .error ti => .trap ti
    | .ok as =>
      if !u.writers.isEmpty && padWaits u s false then .retry (.pad false u.act)
      else tileWrite u s o.acc.toNat fun ts s => (as.filter fun x => ts.contains x.1).foldl (fun s x =>
        aldLearn u o (s.updBlk u.grp.bid fun b => b.setTile (u.half s) o.acc.toNat x.1 0 (aldRow u b o x)) x) s) s

end Sys2Proof.Machine
end

