-- ==== Sys2Proof/Machine/CtxOps.lean ====
section
/-! DEFINITION. The seven operations of the context engine (R342 to R353), shared by the CTX instructions and
the root's management commands. Each is one indivisible step; any code but DONE changes nothing (R343, R344). -/

namespace Sys2Proof.Machine

/-- An operation's answer: code, detail, value, the new state, and STAT's image. -/
structure CtxAns where
  code : Nat
  detail : Nat := 0
  value : Nat := 0
  st : State
  image : List Word := []
deriving DecidableEq, Repr

/-- The status word of R343. -/
def CtxAns.word (a : CtxAns) : Word := BitVec.ofNat 32 (a.value * 65536 + a.detail * 256 + a.code)

/-- A check that failed. -/
def ctxFail (s : State) (code : Nat) (detail : Nat := 0) : CtxAns := { code := code, detail := detail, st := s }

/-- The direct child of an issuer that a word names; upper bits name none (R342). -/
def childOf (s : State) (issuer vb : Nat) : Option Ctx :=
  if 65536 ≤ vb then none
  else (s.ctx? vb).bind fun x => if x.parent == issuer && x.level != 0 then some x else none

/-- Whether a word of a record range is non-zero. -/
def anyWord (r : List Word) (lo n : Nat) : Bool := (List.range n).any fun i => wAt r (lo + i) != 0

/-- Cores of a cluster mask (R13). -/
def clusterCores (clus : BitVec 48) : BitVec 192 :=
  BitVec.ofNat 192 (((List.range 48).filter fun k => clus.getLsbD k).map fun k => 15 * 2 ^ (4 * k)).sum

/-- Whether one set lies within another. -/
def within {n : Nat} (a b : BitVec n) : Bool := a &&& ~~~b == 0

/-- The record of partition i; all zero until it is written (R409). -/
def State.part (s : State) (i : Nat) : PartRec := (s.parts.find? fun p => p.i == i).getD { i := i }

/-- The lowest partition without a context whose clusters hold a core set (R411) (DEDUCED, notes/assumptions/48.md). -/
def partitionFor (s : State) (cores : BitVec 192) : Option Nat :=
  (List.range 20).find? fun i => (s.part i).cxid == 0 && within cores (clusterCores (s.part i).clus)

/-- The lowest free CXID (R335). -/
def freeCxid (s : State) : Option Nat :=
  ((List.range (s.ctxs.length + 1)).map (· + 1)).find? fun n => n < 65536 && (s.ctx? n).isNone

/-! ## CTX.NEW (R346) -/

/-- RESERVED of a descriptor (Table 16-2, R346). -/
def descReserved (r : List Word) : Bool :=
  wAt r 0 != 0 || bitsOf (wAt r 1) 29 3 != 0 || bitsOf (wAt r 1) 20 8 != 0 || bitsOf (wAt r 1) 0 13 != 0 ||
    decide (64 < bitsOf (wAt r 1) 13 7) || bitsOf (wAt r 10) 16 16 != 0 || bitsOf (wAt r 12) 26 6 != 0 ||
    bitOf (wAt r 12) 0 || wAt r 13 != 0 || wAt r 14 % 4096 != 0 || wAt r 16 % 4 != 0 || wAt r 18 % 4 != 0 ||
    bitsOf (wAt r 20) 30 2 == 3 || decide (10 < bitsOf (wAt r 20) 26 4) || bitsOf (wAt r 20) 0 26 != 0 || anyWord r 21 11

/-- The child that a descriptor makes. -/
def descCtx (r : List Word) (cxid parent level : Nat) : Ctx :=
  { cxid := cxid, parent := parent, level := level, state := .created, sdbg := bitOf (wAt r 1) 28,
    nq := bitsOf (wAt r 1) 13 7, cores := maskAt r 2, fbud := wAt r 8, cxbud := bitsOf (wAt r 9) 16 16,
    qbud := bitsOf (wAt r 9) 0 16, wmask := BitVec.ofNat 16 (wAt r 10), trate := bitsOf (wAt r 11) 16 16,
    tburst := bitsOf (wAt r 11) 0 16, dmask := r.getD 12 0, ptroot := dAt r 14, tvec := dAt r 16, sentry := dAt r 18,
    sgw := bitsOf (wAt r 20) 30 2, src8 := bitsOf (wAt r 20) 26 4, tokens := bucketCap (bitsOf (wAt r 11) 0 16) }

/-- The budget tests of a new child, by detail number (R339). -/
def newBudget (s : State) (i x : Ctx) : Option Nat :=
  firstFail [(1, within x.cores i.cores), (2, within x.wmask i.wmask),
    (3, decide (fcommit s i.cxid + x.fbud ≤ i.fbud)),
    (4, decide (cxcommit s i.cxid + 1 + x.cxbud ≤ i.cxbud)),
    (5, decide (qcommit s i + x.qbud ≤ i.qbud ∧ x.nq ≤ x.qbud)),
    (6, decide (tcommit s i.cxid + x.trate ≤ i.trate)), (7, decide (x.tburst ≤ i.tburst))]

/-- CTX.NEW (R346). -/
def ctxNew (s : State) (i : Ctx) (r : List Word) : CtxAns :=
  let x := descCtx r 0 i.cxid (i.level + 1)
  if descReserved r then ctxFail s 0x30
  else match newBudget s i x with
    | some d => ctxFail s 0x32 d
    | none =>
      if i.level = 7 then ctxFail s 0x33
      else match freeCxid s with
        | none => ctxFail s 0x34
        | some n =>
          let s' : State := { s with ctxs := s.ctxs ++ [{ x with cxid := n }], anyNew := true }
          if i.level = 0 then
            match partitionFor s x.cores with
            | none => ctxFail s 0x36
            | some k =>
              { code := 0, value := n,
                st := { s' with parts := { s.part k with cxid := n } :: s.parts.filter fun p => p.i != k } }
          else { code := 0, value := n, st := s' }

/-! ## CTX.RUN (R347) -/

/-- Whether a context has a live supervisor group (R337). -/
def supLive (s : State) (c : Nat) : Bool := s.grids.any fun g => g.cxid == c && g.sup && !g.ended

/-- Vacate descendants that run on cores that leave an ancestor's run set, each STOPPED where none remain. -/
def vacateBelow (s : State) (c : Nat) (cores : BitVec 192) (urgent : Bool) (deadline : Option Nat) : State :=
  let below := (subtree s c).filter fun x => x.cxid != c && x.state == .running && x.runset &&& cores != 0
  settleStops (below.foldl (fun s x =>
    if within x.runset cores then beginStop urgent deadline c s x
    else vacate s x.cxid cores urgent deadline false) s)

/-- CTX.RUN (R347). A child that stops because a revocation has emptied its core set answers CORES and BUSY before STATE, as
Table 16-16 has it (DEDUCED, notes/assumptions/64.md). -/
def ctxRun (s : State) (i : Ctx) (vb : Nat) (r : List Word) : CtxAns :=
  if bitsOf (wAt r 8) 1 31 ≠ 0 || anyWord r 9 7 then ctxFail s 0x30
  else match childOf s i.cxid vb with
    | none => ctxFail s 0x31
    | some x =>
      let set := maskAt r 0
      if x.state == .killed || (x.state == .stopping && !x.byRevoke) then ctxFail s 0x35
      else if set == 0 || !within set x.cores || !within set (s.runset i.cxid) then ctxFail s 0x36
      else if (subtree s x.cxid).any fun y => y.revoking &&& set != 0 then ctxFail s 0x38
      else if x.state == .stopping then ctxFail s 0x35
      else
        let urgent := bitOf (wAt r 8) 0
        let gone := if x.state == .running then x.runset &&& ~~~set else 0
        let s := if gone = 0 then s else
          vacateBelow (vacate s x.cxid gone urgent (deadlineAt s (wAt r 7)) false) x.cxid gone urgent (deadlineAt s (wAt r 7))
        let s := s.updCtx x.cxid fun y =>
          { y with
            state := .running, runset := set, vacating := y.vacating &&& (~~~set ||| busyCores s x.cxid), byAncestor := false, byRevoke := false, slice := if wAt r 6 = 0 then none else some (wAt r 6),
            sliceUrgent := urgent, deadline := wAt r 7, wantSup := x.sentry != 0 && !supLive s x.cxid }
        { code := 0, st := resumeTree s }

/-! ## CTX.STOP (R348) -/

/-- CTX.STOP with its kind word and deadline (R348, Table 16-9). -/
def ctxStop (s : State) (i : Ctx) (vb : Nat) (kind deadline : Nat) : CtxAns :=
  if 2 ≤ kind then ctxFail s 0x30
  else match childOf s i.cxid vb with
    | none => ctxFail s 0x31
    | some x => match x.state with
      | .killed => ctxFail s 0x35
      | .running => { code := 0, st := stopTree s x.cxid (kind == 1) deadline }
      | .stopping => { code := 0, st := if kind = 1 then hurryTree s x.cxid else s }
      | _ => { code := 0, st := s }

/-! ## CTX.GRANT and CTX.REVOKE (R350, R351) -/

/-- RESERVED common to both uses of a grant record (Table 16-10). -/
def grantReserved (r : List Word) : Bool :=
  bitsOf (wAt r 6) 18 14 != 0 || wAt r 11 != 0 || wAt r 15 != 0 || wAt r 12 % 65536 != 0

/-- Pages of a record's range as places in the issuer's space: none where unmapped. -/
def rangePlaces (s : State) (i : Ctx) (r : List Word) : List (Option XEnt) :=
  (List.range (wAt r 14)).map fun k =>
    let va := dAt r 12 + BitVec.ofNat 64 (65536 * k)
    if canonical va then (match compose s i.cxid va with
      | .ok e => some e
      | .error _ => none) else none

/-- The ownership entry of a range page, where its buffer has such entries. -/
def rangeFrame (s : State) (e : XEnt) : Option Frame :=
  (s.buf? e.b).bind fun b => if b.counted then some (s.frame e.b (e.off / 65536)) else none

/-- Whether a range page may be granted by an issuer: its frame is OWNED or CLEAN and the issuer's; a FLASH or
PEER page has to be the issuer's buffer and moves nothing (R350, R456). -/
def grantable (s : State) (i : Nat) (e : Option XEnt) : Bool :=
  match e with
  | none => false
  | some e => match rangeFrame s e, s.buf? e.b with
    | some f, _ => (f.st == .owned || f.st == .clean) && f.owner == i
    | none, some b => b.bown == i
    | none, none => false

/-- The tables that the walks of a range read have been read (R373). -/
def walkRange (s : State) (es : List (Option XEnt)) : State := s.walked ((es.filterMap id).flatMap XEnt.reads)

/-- Distinct frames of a range that satisfy a test. -/
def rangeFrames (s : State) (es : List (Option XEnt)) (p : Frame → Bool) : List Frame :=
  ((es.filterMap id).filterMap (rangeFrame s)).eraseDups.filter p

/-- The budget tests of a grant (R339, R350); cores of a level-1 context lie within its partition's clusters (R411). -/
def grantBudget (s : State) (i x : Ctx) (r : List Word) (moved : Nat) : Option Nat :=
  let f := wAt r 8
  let tb := bitsOf (wAt r 10) 0 16
  firstFail [(1, within (maskAt r 0) i.cores && (i.level != 0 || (partOf s x.cxid).all fun p => within (maskAt r 0) (clusterCores p.clus))), (2, within (BitVec.ofNat 16 (wAt r 6)) i.wmask),
    (3, decide (fcommit s i.cxid - moved + f ≤ i.fbud ∧ fcommit s x.cxid + wAt r 14 ≤ x.fbud + f)),
    (4, decide (cxcommit s i.cxid + bitsOf (wAt r 9) 16 16 ≤ i.cxbud)),
    (5, decide (qcommit s i + bitsOf (wAt r 9) 0 16 ≤ i.qbud)),
    (6, decide (tcommit s i.cxid + bitsOf (wAt r 10) 16 16 ≤ i.trate)),
    (7, tb == 0 || (decide (tb ≤ i.tburst) && (children s x.cxid).all fun y => decide (y.tburst ≤ tb)))]

/-- The child after a grant's sets and budgets. -/
def granted (x : Ctx) (r : List Word) : Ctx :=
  let tb := bitsOf (wAt r 10) 0 16
  let tburst := if tb = 0 then x.tburst else tb
  { x with
    cores := x.cores ||| maskAt r 0, wmask := x.wmask ||| BitVec.ofNat 16 (wAt r 6), fbud := x.fbud + wAt r 8,
    cxbud := x.cxbud + bitsOf (wAt r 9) 16 16, qbud := x.qbud + bitsOf (wAt r 9) 0 16,
    trate := x.trate + bitsOf (wAt r 10) 16 16, tburst := tburst, tokens := min x.tokens (bucketCap tburst),
    dmask := if bitOf (wAt r 6) 16 then r.getD 7 0 else x.dmask }

/-- CTX.GRANT (R350). -/
def ctxGrant (s : State) (i : Ctx) (vb : Nat) (r : List Word) : CtxAns :=
  if grantReserved r || bitOf (wAt r 6) 17 || (!bitOf (wAt r 6) 16 && wAt r 7 != 0) || bitsOf (wAt r 7) 26 6 != 0 ||
      bitOf (wAt r 7) 0 then ctxFail s 0x30
  else match childOf s i.cxid vb with
    | none => ctxFail s 0x31
    | some x =>
      let es := rangePlaces s i r
      let fs := rangeFrames s es fun f => (f.st == .owned || f.st == .clean) && f.owner == i.cxid
      match grantBudget s i x r fs.length with
      | some d => ctxFail s 0x32 d
      | none =>
        if x.state == .killed then ctxFail s 0x35
        else if !es.all (grantable s i.cxid) then ctxFail s 0x37
        else { code := 0, st := fs.foldl (giveFrame x.cxid) ((walkRange s es).updCtx x.cxid fun y => granted y r) }

/-- The budget tests of a revocation (R351, R375): amounts within the child's budgets above its commitments. -/
def revokeBudget (s : State) (x : Ctx) (r : List Word) (amount own : Nat) : Option Nat :=
  firstFail [(3, decide (fcommit s x.cxid - own + amount ≤ x.fbud)),
    (4, decide (cxcommit s x.cxid + bitsOf (wAt r 9) 16 16 ≤ x.cxbud)),
    (5, decide (qcommit s x + bitsOf (wAt r 9) 0 16 ≤ x.qbud)),
    (6, decide (tcommit s x.cxid + bitsOf (wAt r 10) 16 16 ≤ x.trate))]

/-- A message that has not started and whose core is not in a core set turns to the lowest core of the set; with an
empty set it is held for no core, written 255 (R309) (DEDUCED, notes/assumptions/50.md). -/
def Msg.redirect (cx : Nat) (cores : BitVec 192) (m : Msg) : Msg :=
  if m.cxid == cx && (m.st == .fabric || m.st == .queued) && !cores.getLsbD m.core then
    { m with core := ((List.range 192).find? fun c => cores.getLsbD c).getD 255, st := .fabric }
  else m

/-- Cores leave one context of the subtree, its run set included, by a vacate or without save; one whose core set becomes
empty is STOPPED, and one that still has cores goes on (R351). -/
def revokeCores (cores : BitVec 192) (nsv : Bool) (s : State) (x : Ctx) : State :=
  let left := x.cores &&& ~~~cores
  let s : State := { s with msgs := s.msgs.map (Msg.redirect x.cxid left) }
  let s := if nsv then evictNsv s x.cxid cores else vacate s x.cxid cores true none true
  s.updCtx x.cxid fun y =>
    { y with
      cores := left, runset := y.runset &&& ~~~cores
      state := if left == 0 && x.cores != 0 && (y.state == .running || y.state == .created) then .stopping else y.state
      byRevoke := y.byRevoke || (left == 0 && x.cores != 0 && y.state == .running) }

/-- Ways leave one context of the subtree and are to be swept; a mask that this empties is swept over all 16 ways, and the remote
updates issued until now drain (R275, R417, R418). -/
def revokeWays (ways : BitVec 16) (s : State) (x : Ctx) : State :=
  s.updCtx x.cxid fun y =>
    let emptied := y.wmask != 0 && y.wmask &&& ~~~ways == 0
    { y with
      wmask := y.wmask &&& ~~~ways
      sweepWays := if emptied then 0xFFFF else y.sweepWays ||| (y.wmask &&& ways)
      sweepUpto := if emptied then s.nextId else y.sweepUpto }

/-- CTX.REVOKE (R351). -/
def ctxRevoke (s : State) (i : Ctx) (vb : Nat) (r : List Word) : CtxAns :=
  if grantReserved r || bitOf (wAt r 6) 16 || wAt r 7 != 0 || bitsOf (wAt r 10) 0 16 != 0 then ctxFail s 0x30
  else match childOf s i.cxid vb with
    | none => ctxFail s 0x31
    | some x =>
      let tree := subtree s x.cxid
      let fs := rangeFrames s (rangePlaces s i r) fun f =>
        (f.st == .owned || f.st == .clean) && tree.any fun y => y.cxid == f.owner
      let own := (fs.filter fun f => f.owner == x.cxid).length
      let amount := max (wAt r 8) fs.length
      match revokeBudget s x r amount own with
      | some d => ctxFail s 0x32 d
      | none =>
        if x.state == .killed then ctxFail s 0x35
        else
          let s := fs.foldl (freeFrame i.cxid) (walkRange s (rangePlaces s i r))
          let s := s.updCtx x.cxid fun y =>
            { y with
              fbud := y.fbud - amount, cxbud := y.cxbud - bitsOf (wAt r 9) 16 16, qbud := y.qbud - bitsOf (wAt r 9) 0 16,
              trate := y.trate - bitsOf (wAt r 10) 16 16 }
          let s := tree.foldl (revokeCores (maskAt r 0) (bitOf (wAt r 6) 17)) s
          let s := tree.foldl (revokeWays (BitVec.ofNat 16 (wAt r 6))) s
          { code := 0, st := wake (settleStops s) }

/-! ## CTX.KILL and CTX.STAT (R352, R353) -/

/-- CTX.KILL (R352). -/
def ctxKill (s : State) (i : Ctx) (vb : Nat) : CtxAns :=
  match childOf s i.cxid vb with
  | none => ctxFail s 0x31
  | some x => if x.state == .killed then ctxFail s 0x35 else { code := 0, st := killTree s x.cxid i.cxid }

/-- CTX.STAT: the image and the state (R353). -/
def ctxStat (s : State) (i : Ctx) (vb : Nat) : CtxAns :=
  match childOf s i.cxid vb with
  | none => ctxFail s 0x31
  | some x => { code := 0, value := x.state.code, st := s, image := ctxImage s x }

/-! ## The engine (R344) -/

/-- Whether an operation of groups of some contexts is at the engine, or its status has not landed (R344). -/
def engineBusy (s : State) (p : Nat → Bool) : Bool :=
  (s.ctxops.any fun r => p r.cxid) || s.groups.any fun g => p g.cxid && g.threads.any fun th => th.pend.any Pend.eng

/-- Whether a KILL, or a REVOKE without save, of a subtree has to wait for an operation of one of its groups (R344). -/
def stopWaits (s : State) (issuer child : Nat) (nosave : Bool) : Bool :=
  nosave && (childOf s issuer child).isSome && engineBusy s (inSubtree s child)

/-- Whether an operation stops groups without save. -/
def CtxReq.noSave (r : CtxReq) : Bool :=
  match r.kind with
  | .kill => true
  | .revoke => bitOf (wAt r.w 6) 17
  | _ => false

/-- Whether an operation may be performed: it is .ar for its threads, so their earlier accesses are performed (R344). -/
def ctxReady (s : State) (r : CtxReq) : Bool :=
  r.tids.all (fun t => !uncovered s r.gid t r.id) && !stopWaits s r.cxid r.child r.noSave

/-- The step of an operation, on what it captured (R342). -/
def ctxStep (s : State) (i : Ctx) (r : CtxReq) : CtxAns :=
  match r.kind with
  | .new => ctxNew s i r.w
  | .run => ctxRun s i r.child r.w
  | .stop => ctxStop s i r.child (wAt r.w 0) (wAt r.w 1)
  | .grant => ctxGrant s i r.child r.w
  | .revoke => ctxRevoke s i r.child r.w
  | .kill => ctxKill s i r.child
  | .stat => ctxStat s i r.child

/-- STAT's image is stored at .dev as a store of the issuing thread; one that fails at memory stops the thread (R342, R448). -/
def storeImage (s : State) (r : CtxReq) (image : List Word) : State :=
  if image.isEmpty then s
  else match storeAt s r.cxid r.va 128, s.grp? r.gid with
    | .ok p, g =>
      let who : Agent := (g.map fun g => g.agent (r.tids.headD 0)).getD {}
      (touch s p).writeAtoms p.b p.off { who := who, op := r.id } ((List.range 4).map fun k => wordsBytes ((image.drop (8 * k)).take 8))
    | .error f, some g =>
      raise s g { cause := f.cause, lanes := [r.tids.headD 0], fpc := r.fpc, faddr := f.va, cxid := f.cxid, wr := !f.walk, walk := f.walk }
    | .error _, none => s

/-- The status of an operation: it is on its way to every lane that awaits it. -/
def Thread.status (r : CtxReq) (w : Word) (th : Thread) : Thread :=
  { th with pend := th.pend.map fun p =>
      if decide (r.id ≤ p.id ∧ p.id < r.id + r.tids.length) then { p with words := [some w] } else p }

/-- The engine performs an operation: one indivisible step, then the image and the status; what comes after it in its threads
happens after everything performed so far (R342, R344). -/
def runCtx (s : State) (r : CtxReq) : State :=
  let s : State := { s with ctxops := s.ctxops.filter fun x => x.id != r.id }
  match s.ctx? r.cxid with
  | none => s
  | some i =>
    let a := ctxStep s i r
    let s := storeImage a.st r a.image
    wake (s.updGrp r.gid fun g => g.updThrs r.tids fun th => (th.status r a.word).learn r.id s.allWrites)

/-- An operation that may be performed is. -/
def tryCtx (s : State) (r : CtxReq) : State := if ctxReady s r then runCtx s r else s

end Sys2Proof.Machine
end

