-- ==== Sys2Proof/Machine/Priv.lean ====
section
/-! DEFINITION. The privileged instructions (R340 to R342, R356, R357, R365). The mode check is among the
decoding checks of R155. -/

namespace Sys2Proof.Machine

/-! ## Control and status registers (Table 16-4) -/

/-- The trap record bound to a group: one that a running trap handler group has (R356, R382). -/
def boundRec (s : State) (g : Group) : Option TrapRec :=
  match g.kind with
  | .trapHandler seq => s.recs.find? fun r => r.dest == g.cxid && r.seq == seq && r.bound == some g.gid
  | _ => none

/-- The value of a CSR of a context, for a group; none where the number is not in Table 16-4. -/
def csrRead (s : State) (g : Group) (c : Ctx) (n : Nat) : Option Word :=
  let b := boundRec s g
  let w (x : Nat) : Option Word := some (BitVec.ofNat 32 x)
  let cores (m : BitVec 192) (i : Nat) : Option Word := some (m.extractLsb' (32 * i) 32)
  match n with
  | 0x000 => w (c.level * 2 ^ 29 + c.cxid)
  | 0x001 => w c.parent
  | 0x002 => w ((if c.sdbg then 2 ^ 31 else 0) + c.fper)
  | 0x003 => some c.dmask
  | 0x004 => some (pairLo c.tvec)
  | 0x005 => some (pairHi c.tvec)
  | 0x006 => some (pairLo c.rulogBase)
  | 0x007 => some (pairHi c.rulogBase)
  | 0x008 => some c.rulogSeq
  | 0x010 | 0x011 | 0x012 | 0x013 | 0x014 | 0x015 => cores c.cores (n - 0x010)
  | 0x016 | 0x017 | 0x018 | 0x019 | 0x01A | 0x01B => cores (s.runset c.cxid) (n - 0x016)
  | 0x020 => w c.fbud
  | 0x021 => w (fcommit s c.cxid)
  | 0x022 => w (c.cxbud * 65536 + c.qbud)
  | 0x023 => w c.nq
  | 0x024 => w c.wmask.toNat
  | 0x025 => w (c.trate * 65536 + c.tburst)
  | 0x030 => w ((b.map fun r => r.trap.cxid * 65536 + r.trap.cause.code).getD 0)
  | 0x031 => some (pairLo ((b.map TrapRec.ring).getD 0))
  | 0x032 => some (pairHi ((b.map TrapRec.ring).getD 0))
  | 0x033 => some (pairLo ((b.map TrapRec.pc).getD 0))
  | 0x034 => some (pairHi ((b.map TrapRec.pc).getD 0))
  | 0x035 => some ((b.map TrapRec.act).getD 0)
  | _ => none

/-- CSRR (R341). -/
def execCsrr (o : CRF) (s : State) : Host.Outcome State Fault Refusal :=
  execUnit (.csrr o) (fun u s => match (s.ctx? u.grp.cxid).bind fun c => csrRead s u.grp c o.csr.toNat with
    | none => .trap (u.ti .illegalOp u.act)
    | some x => .ok (writeLanes u s fun _ => [(o.r.toNat, x)])) s

/-- Change the bound trap record of a group. -/
def updBound (s : State) (g : Group) (f : TrapRec → TrapRec) : State :=
  match boundRec s g with
  | none => s
  | some b => { s with recs := s.recs.map fun r => if r.dest == b.dest && r.seq == b.seq then f r else r }

/-- Write a CSR: read-only registers and reserved bits ignore the write (R10, R340). -/
def csrWrite (s : State) (g : Group) (n : Nat) (x : Word) : State :=
  let upd (f : Ctx → Ctx) : State := s.updCtx g.cxid f
  match n with
  | 0x002 => upd fun c => { c with sdbg := bitOf x.toNat 31, fper := bitsOf x.toNat 0 8 }
  | 0x004 => upd fun c => { c with tvec := pairOf x (pairHi c.tvec) }
  | 0x005 => upd fun c => { c with tvec := pairOf (pairLo c.tvec) x }
  | 0x006 => upd fun c => { c with rulogBase := pairOf x (pairHi c.rulogBase) }
  | 0x007 => upd fun c => { c with rulogBase := pairOf (pairLo c.rulogBase) x }
  | 0x033 => updBound s g fun r => { r with pc := pairOf x (pairHi r.pc) }
  | 0x034 => updBound s g fun r => { r with pc := pairOf (pairLo r.pc) x }
  | 0x035 => updBound s g fun r => { r with act := x &&& 1 }
  | _ => s

/-- CSRW (R341). -/
def execCsrw (o : CWF) (s : State) : Host.Outcome State Fault Refusal :=
  execUnit (.csrw o) (fun u s =>
    let n := o.csr.toNat
    let x := u.rd s u.low o.r.toNat
    if ((s.ctx? u.grp.cxid).bind fun c => csrRead s u.grp c n).isNone then .trap (u.ti .illegalOp u.act)
    else if u.act.isEmpty then .ok (closeRegion u s)
    else if (n = 0x004 ∧ x.toNat % 4 ≠ 0) ∨ (n = 0x006 ∧ x.toNat % 4096 ≠ 0) then .trap (u.ti .misaligned u.act)
    else .ok (csrWrite (closeRegion u s) u.grp n x)) s

/-! ## Context operations as instructions (R342, R344) -/

/-- Send an operation to the context engine: the region commits, every active lane awaits the status, and the engine performs
the operation on what was captured, at once if nothing that it has to wait for is on its way (R117, R342, R344)
(DEDUCED, notes/assumptions/17.md). -/
def ctxUnit (d : BitVec 7) (kind : CtxKind) (u : Issue) (s : State) (child : Nat) (w : List Word) (va : DWord := 0) : Res :=
  let s := closeRegion u s
  let r : CtxReq :=
    { id := s.nextId, gid := u.gid, tids := u.act, cxid := u.grp.cxid, core := u.core, kind := kind, child := child, w := w,
      va := va, fpc := u.upc }
  let s := addPends u s (fun _ => ([d.toNat], [none])) false true
  .ok (tryCtx { s with ctxops := s.ctxops ++ [r] } r)

/-- Read a record of the lowest lane, aligned to its size (R342). -/
def ctxRecord (u : Issue) (s : State) (ap : BitVec 6) (n : Nat) (k : List Word → State → Res) : Res :=
  let a := u.rd64 s u.low (2 * ap.toNat)
  if u.act.isEmpty then .ok (closeRegion u s)
  else if a.toNat % n ≠ 0 then .trap (u.ti .misaligned u.act a)
  else match readOwn u s u.low a n with
    | .error f => .trap (failTrap u false (u.act.map fun t => (t, f)))
    | .ok none => .retry (.record u.low a n)
    | .ok (some (w, p)) => k w (readTouch u s p n)

/-- The child word of the lowest lane. -/
def Issue.child (u : Issue) (s : State) (b : BitVec 7) : Nat := (u.rd s u.low b.toNat).toNat

/-- CTX.NEW (R346). -/
def execCtxNew (o : CNF) (s : State) : Host.Outcome State Fault Refusal :=
  execUnit (.ctxNew o) (fun u s => ctxRecord u s o.ap 128 fun w s => ctxUnit o.d .new u s 0 w) s

/-- CTX.RUN (R347). -/
def execCtxRun (o : CBF) (s : State) : Host.Outcome State Fault Refusal :=
  execUnit (.ctxRun o) (fun u s => ctxRecord u s o.ap 64 fun w s => ctxUnit o.d .run u s (u.child s o.b) w) s

/-- CTX.STOP: the stop word is the pair itself (R348). -/
def execCtxStop (o : CBF) (s : State) : Host.Outcome State Fault Refusal :=
  execUnit (.ctxStop o) (fun u s =>
    if u.act.isEmpty then .ok (closeRegion u s)
    else ctxUnit o.d .stop u s (u.child s o.b) (u.rdN s u.low (2 * o.ap.toNat) 2)) s

/-- CTX.GRANT (R350). -/
def execCtxGrant (o : CBF) (s : State) : Host.Outcome State Fault Refusal :=
  execUnit (.ctxGrant o) (fun u s => ctxRecord u s o.ap 64 fun w s => ctxUnit o.d .grant u s (u.child s o.b) w) s

/-- CTX.REVOKE (R351). -/
def execCtxRevoke (o : CBF) (s : State) : Host.Outcome State Fault Refusal :=
  execUnit (.ctxRevoke o) (fun u s => ctxRecord u s o.ap 64 fun w s => ctxUnit o.d .revoke u s (u.child s o.b) w) s

/-- CTX.KILL (R352). -/
def execCtxKill (o : CKF) (s : State) : Host.Outcome State Fault Refusal :=
  execUnit (.ctxKill o) (fun u s =>
    if u.act.isEmpty then .ok (closeRegion u s) else ctxUnit o.d .kill u s (u.child s o.b) []) s

/-- CTX.STAT: its image is stored before the status lands (R342, R353). -/
def execCtxStat (o : CBF) (s : State) : Host.Outcome State Fault Refusal :=
  execUnit (.ctxStat o) (fun u s =>
    let a := u.rd64 s u.low (2 * o.ap.toNat)
    if u.act.isEmpty then .ok (closeRegion u s)
    else match gcheck s u.grp.cxid a 128 .store with
      | .error f => .trap (failTrap u true (u.act.map fun t => (t, f)))
      | .ok p => ctxUnit o.d .stat u (cacheEnt s p.ent) (u.child s o.b) [] a) s

/-! ## TRAPRET (R356) -/

/-- Whether a record's trap stopped threads whose group still exists, outside a cocoon frame (R356). -/
def needsPc (s : State) (r : TrapRec) : Bool :=
  !r.trap.async && !r.trap.cocoon && !r.trap.fatal && (s.grp? r.trap.gid).isSome

/-- The effect of a TRAPRET whose release is performed: the grid ends or the stopped threads resume, the binding is released,
and the issuing threads exit (R356, R383). -/
def endTrapret (gid : Nat) (ts : List Nat) (fin : Bool) (pc : DWord) (s : State) : State :=
  match (s.grp? gid).bind fun g => (boundRec s g).map fun r => (g, r) with
  | some (g, r) => exitEffect (unbind (trapReturn s r fin pc) g.cxid r.seq) gid ts
  | none => exitEffect s gid ts

/-- TRAPRET: its region commits, and it takes effect once the stores of that commit are performed (R117, R356, R383)
(DEDUCED, notes/assumptions/17.md). -/
def execTrapret (o : RCF) (s : State) : Host.Outcome State Fault Refusal :=
  execUnit (.trapret o) (fun u s => match boundRec s u.grp with
    | none => .trap (u.ti .illegalOp u.act)
    | some r =>
      let fin := r.act == 1
      match (if !fin && needsPc s r then traprPcFault r.pc else none) with
      | some c => .trap (u.ti c u.act r.pc)
      | none =>
        let s := closeRegion u s
        if u.act.all (fun t => !uncovered s u.gid t s.nextId) then .ok (endTrapret u.gid u.act fin r.pc s)
        else .ok (updAct u s fun _ th => { th with park := some (.trapret fin r.pc) })) s

/-- A TRAPRET that waits takes effect once its threads' stores are performed. -/
def trapretTurn (gid tid : Nat) (s : State) : State :=
  match s.grp? gid with
  | none => s
  | some g => match (g.thr tid).park with
    | some (.trapret fin pc) =>
      let ts := g.live.filter fun t => (g.thr t).park == some (.trapret fin pc)
      if ts.all fun t => !uncovered s gid t s.nextId then endTrapret gid ts fin pc s else s
    | _ => s

/-! ## TLBINV (R365) -/

/-- Check the pair of a TLBINV and park until TLBINV_COMPLETE runs its sequence (R365, R366)
(DEDUCED, notes/assumptions/16.md). -/
def tlbinv (kind : Nat) (o : TIF) (u : Issue) (s : State) : Res :=
  let x := u.rd64 s u.low (2 * o.ap.toNat)
  if u.act.isEmpty then .ok (closeRegion u s)
  else if kind ≠ 0 ∧ 65536 ≤ x.toNat then .trap (u.ti .illegalOp u.act)
  else if (if kind = 0 then !canonical x
      else !((subtree s u.grp.cxid).any fun c => c.cxid == x.toNat)) then .trap (u.ti .protection u.act x)
  else
    let s := closeRegion u s
    .ok (updAct u s fun _ th => { th with park := some (.tlbinv kind x s.nextId) })

/-- TLBINV.page (R365) (DEDUCED, notes/assumptions/16.md). -/
def execTlbinvPage (o : TIF) (s : State) : Host.Outcome State Fault Refusal :=
  execUnit (.tlbinvPage o) (tlbinv 0 o) s

/-- TLBINV.ctx (R365). -/
def execTlbinvCtx (o : TIF) (s : State) : Host.Outcome State Fault Refusal :=
  execUnit (.tlbinvCtx o) (tlbinv 1 o) s

/-- TLBINV.subtree (R365). -/
def execTlbinvSubtree (o : TIF) (s : State) : Host.Outcome State Fault Refusal :=
  execUnit (.tlbinvSubtree o) (tlbinv 2 o) s

/-! ## FRMSTAT (R357) -/

/-- State codes of Table 17-9. -/
def FrameSt.code : FrameSt → Nat
  | .owned => 1 | .freed => 2 | .scrubbing => 3 | .clean => 4

/-- The FRMSTAT word of an address for a context (Table 16-14). -/
def frmWord (s : State) (cx : Nat) (va : DWord) : Word :=
  match compose s cx va with
  | .error _ => 0
  | .ok e =>
    match s.buf? e.b with
    | none => 0
    | some b =>
      let f := s.frame e.b (e.off / 65536)
      let (st, own) := if b.counted then (f.st.code, f.owner) else (1, b.bown)
      let mine := inSubtree s cx own
      BitVec.ofNat 32 ((if mine then own * 65536 else 8) + st)

/-- FRMSTAT (R357). -/
def execFrmstat (o : CNF) (s : State) : Host.Outcome State Fault Refusal :=
  execUnit (.frmstat o) (fun u s =>
    let va (t : Nat) : DWord := u.rd64 s t (2 * o.ap.toNat)
    match u.act.filter fun t => !canonical (va t) with
    | t :: ts => .trap (u.ti .protection (t :: ts) (va t))
    | [] => .ok (addPends u s fun t => ([o.d.toNat], [some (frmWord s u.grp.cxid (va t))]))) s

end Sys2Proof.Machine
end

