-- ==== Sys2Proof/Machine/Remote.lean ====
section
/-! DEFINITION. RDEF, ROP and ROPR as issued (R264 to R272). The home units are events of RuEv. -/

namespace Sys2Proof.Machine

/-- RDEF: the lowest lane's record is read as loads of that thread, checked, and held until RDEF_COMPLETE;
every active lane receives the status (R264 to R266). -/
def execRdef (o : RDF) (s : State) : Host.Outcome State Fault Refusal :=
  execUnit (.rdef o) (fun u s =>
    if u.act.isEmpty then .ok s
    else
      let a := u.rd64 s u.low (2 * o.ap.toNat)
      if a.toNat % 256 ≠ 0 then .trap (u.ti .misaligned u.act a)
      else match readOwn u s u.low a 256 with
        | .error f => .trap (failTrap u false (u.act.map fun t => (t, f)))
        | .ok none => .retry (.record u.low a 256)
        | .ok (some (w, p)) =>
          let s := readTouch u s p 256
          let pid := s.nextId
          let s := addPends u s fun _ => ([o.d.toNat], [none])
          let r : RdefOp := { id := s.nextId, cxid := u.grp.cxid, gid := u.gid, slot := o.slot.toNat, defn := w,
                              status := rdefStatus w, dst := u.act.map fun t => (t, pid + u.act.idxOf t) }
          .ok { s with rdefs := s.rdefs ++ [r], nextId := s.nextId + 1 }) s

/-- Whether an RDEF of the context to the slot is unfinished: requests that name the slot park (R266). -/
def slotBusy (s : State) (cx slot : Nat) : Bool := s.rdefs.any fun r => r.cxid == cx && r.slot == slot

/-- The checks of one lane's request in the order of R269. -/
def ruLaneCheck (u : Issue) (s : State) (d : List Word) (a : DWord) : Except XFault Acc :=
  let bad (c : Cause) (k : Nat) : Except XFault Acc :=
    .error { cause := c, cxid := u.grp.cxid, va := a, rank := k }
  if a.toNat % ruAlign d ≠ 0 then bad .misaligned 0
  else if !canonical a then bad .protection 1
  else match compose s u.grp.cxid a with
    | .error f => .error { f with rank := 2 }
    | .ok e =>
      let off := e.off + a.toNat % 65536
      let kind := (s.buf? e.b).map Buf.kind
      let noWays := ((s.ctx? u.grp.cxid).map fun c => c.wmask == 0).getD false
      if !e.w || kind == some .flash then bad .protection 3
      else if ruPlace d == 1 && kind == some .cxl then bad .protection 4
      else if noWays && (ruPlace d == 0 || (ruPlace d == 2 && kind == some .cxl)) then bad .ruNocache 5
      else if ruGran d == 3 && decide (2 < ruLines d) && kind == some .hbm &&
          (match s.buf? e.b with
           | some b => off / granuleBytes b != (off + ruBytes d - 1) / granuleBytes b
           | none => false) then bad .tileSplit 6
      else .ok { va := a, b := e.b, off := off, owner := ownerTag s e.b off, blk := none, ent := some e }

/-- Registers that a remote opcode names from vp for a definition (R269). -/
def ruRegs (d : List Word) (ropr : Bool) : Nat :=
  if ropr then max (ruPsize d / 4) (ruDataWords d + 1) else ruPsize d / 4

/-- Where the lines of a request's granule lie, as they translate at issue. -/
def granuleAt (s : State) (cx : Nat) (d : List Word) (a : Acc) : List (Option (Nat × Nat)) :=
  (List.range (ruLines d)).map fun i => match compose s cx (a.va + BitVec.ofNat 64 (128 * i)) with
    | .ok e => some (e.b, (e.off + (a.va + BitVec.ofNat 64 (128 * i)).toNat % 65536) / 128 * 128)
    | .error _ => none

/-- ROP and ROPR: the checks of R269, the commit, then one request per active lane with its payload. -/
def remote (o : ROF) (ropr : Bool) (u : Issue) (s : State) : Res :=
  if u.act.isEmpty then .ok (closeRegion u s)
  else if slotBusy s u.grp.cxid o.slot.toNat then .retry (.slot o.slot.toNat)
  else match (s.ctx? u.grp.cxid).bind fun c => assoc o.slot.toNat c.rops with
    | none => .trap (u.ti .ruUndefined u.act)
    | some d =>
      let k := ruRegs d ropr
      let v := o.v.toNat
      let regs := (List.range k).map fun i => v + i
      if (ropr && ruRet d == 0) || !(regs.all fun r => regOk u.grp.nregs r && (decide (v < 96) == decide (r < 96)))
      then .trap (u.ti .illegalOp u.act)
      else match strictRegs (fun _ => regs.take (ruPsize d / 4)) u s with
        | some (c, ls) => .trap (u.ti c ls)
        | none =>
          match checkLanes u true u.act fun t => ruLaneCheck u s d (u.rd64 s t (2 * o.ap.toNat)) with
          | .error ti => .trap ti
          | .ok as =>
            if !ropr && u.grp.cnt 2 == 65535 then .retry (.counter 2)
            else
              let s := closeRegion u (cacheAccs u s as)
              let n := ruDataWords d
              let pid := s.nextId
              let s := if ropr then addPends u s fun _ =>
                  ((List.range (n + 1)).map fun i => v + i, (List.range (n + 1)).map fun _ => none)
                else s
              let op := s.nextId
              let (ord, scope) := u.pfx.ord
              let rs : List RuReq := as.mapIdx fun i x =>
                { id := op + 1 + i, cxid := u.grp.cxid, gid := u.gid, tid := x.1, core := u.core, part := u.part,
                  grp := u.grp.g, lane := u.grp.base + x.1, slot := o.slot.toNat, defn := d, va := x.2.va,
                  b := x.2.b, off := x.2.off, lines := granuleAt s u.grp.cxid d x.2,
                  ticket := if ord = 4 then some (s.ticket + i) else none, pay := u.rdN s x.1 v (ruPsize d / 4), ropr := ropr,
                  pend := pid + u.act.idxOf x.1, op := op, ord := ord, scope := scope }
              let s := { s with
                rus := s.rus ++ rs, nextId := op + 1 + rs.length
                ticket := if ord = 4 then s.ticket + rs.length else s.ticket }
              .ok (if ropr then s else s.updGrp u.gid fun g => { g with ops := g.ops ++ [⟨op, 2, false, []⟩] })

/-- ROP: counted on cnt.ru once per instruction (R268, R271). -/
def execRop (o : ROF) (s : State) : Host.Outcome State Fault Refusal :=
  execUnit (.rop o) (remote o false) s

/-- ROPR: its results are long-latency (R268, R270). -/
def execRopr (o : ROF) (s : State) : Host.Outcome State Fault Refusal :=
  execUnit (.ropr o) (remote o true) s

end Sys2Proof.Machine
end

