-- ==== Sys2Proof/Machine/TransferRec.lean ====
section
/-! DEFINITION. The transfer record (Table 12-1), its extents (R290) and the checks of R291. -/

namespace Sys2Proof.Machine

/-- Next record of the chain. -/
def btNext (w : List Word) : DWord := dAt w 0
/-- Ownership bit. -/
def btOwn (w : List Word) : Bool := bitOf (wAt w 2) 31
/-- Kind: 0 LINEAR, 1 TENSOR, 2 PAGELIST, 3 APPEND. -/
def btKind (w : List Word) : Nat := bitsOf (wAt w 2) 28 3
/-- Destination space: true for global. -/
def btGlob (w : List Word) : Bool := bitOf (wAt w 2) 27
/-- The arrival map is maintained. -/
def btMapv (w : List Word) : Bool := bitOf (wAt w 2) 26
/-- The completion word is written. -/
def btCwv (w : List Word) : Bool := bitOf (wAt w 2) 25
/-- The completion value is added. -/
def btCwm (w : List Word) : Bool := bitOf (wAt w 2) 24
/-- Cache policy of global destination writes. -/
def btCpol (w : List Word) : Nat := bitsOf (wAt w 2) 22 2
/-- Source, shape record or index array address. -/
def btSrc (w : List Word) : DWord := dAt w 4
/-- Destination. -/
def btDst (w : List Word) : DWord := dAt w 6
/-- Completion word address. -/
def btCaddr (w : List Word) : DWord := dAt w 8
/-- Completion value. -/
def btCval (w : List Word) : Word := w.getD 10 0
/-- Offset of the arrival map. -/
def btMapo (w : List Word) : Nat := wAt w 11
/-- Pages of a PAGELIST record. -/
def btPages (w : List Word) : Nat := bitsOf (wAt w 3) 8 8 + 1
/-- Bytes of a PAGELIST page. -/
def btPage (w : List Word) : Nat := 512 * 2 ^ bitsOf (wAt w 3) 0 4
/-- Origin k of a TENSOR record. -/
def btOrigin (w : List Word) (k : Nat) : Int := (if k = 0 then w.getD 3 0 else w.getD (11 + k) 0).toInt

/-- The destination extent of a record, with its shape record (R290). -/
def btExtent (w sh : List Word) : Nat :=
  match btKind w with
  | 1 => shZ sh * ((List.range (shD sh)).map (shB sh)).foldl (· * ·) 1
  | 2 => btPages w * btPage w
  | _ => wAt w 3

/-- Bytes of the arrival map of an extent: whole 64-bit words (R297). -/
def btMapBytes (x : Nat) : Nat := 8 * ceilDiv (ceilDiv x 512) 64

/-- Record fields that break Table 12-1, R290 or the rule on next (R291). An APPEND of no page breaks R290
(DESIGN CHOICE, notes/assumptions/38.md). -/
def btFieldsBad (w : List Word) : Bool :=
  let k := btKind w
  decide (4 ≤ k) || btCpol w == 2 || bitsOf (wAt w 2) 0 22 != 0 ||
    (k != 1 && ([12, 13, 14, 15].any fun i => wAt w i != 0)) ||
    (!btGlob w && wAt w 7 != 0) ||
    (k == 0 && wAt w 3 == 0) ||
    (k == 2 && (bitsOf (wAt w 3) 16 16 != 0 || bitsOf (wAt w 3) 4 4 != 0 || decide (7 < bitsOf (wAt w 3) 0 4))) ||
    (k == 3 && (wAt w 3 == 0 || wAt w 3 % 4096 != 0)) ||
    ((btNext w).toNat % 64 != 0 || !canonical (btNext w))

/-- Misalignment under R291, the shape record's apart. -/
def btMisaligned (w : List Word) : Bool :=
  (btKind w == 3 && ((btSrc w).toNat % 4096 != 0 || (btDst w).toNat % 4096 != 0)) ||
    (btKind w == 2 && (btSrc w).toNat % 8 != 0) ||
    (btCaddr w).toNat % 4 != 0 || btMapo w % 8 != 0

/-- A scratchpad destination or arrival map that leaves the block's allocation (R86, R291). -/
def btPadBad (w : List Word) (x size : Nat) : Bool :=
  (!btGlob w && decide (size < wAt w 6 + x)) || (btMapv w && decide (size < btMapo w + btMapBytes x))

/-- The kind of the buffer that an address lies in, where it translates. -/
def bufKindAt (s : State) (cx : Nat) (va : DWord) : Option BufKind :=
  if !canonical va then none
  else match compose s cx va with
    | .ok e => (s.buf? e.b).map Buf.kind
    | .error _ => none

/-- Kinds of the buffers that the pages of a range lie in, where they are present. -/
def bufKinds (s : State) (cx : Nat) (va : DWord) (n : Nat) : List BufKind :=
  (List.range (ceilDiv (va.toNat % 65536 + n) 65536)).filterMap fun k =>
    bufKindAt s cx (BitVec.ofNat 64 (va.toNat / 65536 * 65536 + 65536 * k))

/-- A destination of x bytes, or a completion word, with a byte in a space that R291 forbids, where its page is present. -/
def btSpaceBad (s : State) (cx : Nat) (w : List Word) (x : Nat) : Bool :=
  (if btKind w == 3 then !btGlob w || (bufKinds s cx (btDst w) x).any (· != .flash)
   else btGlob w && (bufKinds s cx (btDst w) x).any (· == .flash)) ||
    (btCwv w && (bufKinds s cx (btCaddr w) 4).any (· == .flash))

/-- The first page of a range that is absent: its fault. -/
def absentAt (s : State) (cx : Nat) (va : DWord) (n : Nat) : Option XFault :=
  (List.range (ceilDiv (va.toNat % 65536 + n) 65536)).findSome? fun k =>
    let a : DWord := if k = 0 then va else BitVec.ofNat 64 (va.toNat / 65536 * 65536 + 65536 * k)
    if !canonical a then none
    else match compose s cx a with
      | .ok _ => none
      | .error f => if f.cause = .pageFault then some f else none

/-- The first absent page of a record's global destination of x bytes, or of its completion word. -/
def btAbsent (s : State) (cx : Nat) (w : List Word) (x : Nat) : Option XFault :=
  match if btGlob w then absentAt s cx (btDst w) x else none with
  | some f => some f
  | none => if btCwv w then absentAt s cx (btCaddr w) 4 else none

/-- The rules of a shape record that a TENSOR record names (R291, R301). -/
def btShapeBad (w sh : List Word) : Bool :=
  btKind w == 1 && ((btSrc w).toNat % 64 != 0 || !shapeOk sh || decide (shD sh < 2) ||
    (List.range (shD sh)).any fun i => shB sh i == 0)

end Sys2Proof.Machine
end

