-- ==== Sys2Proof/Machine/Transfer.lean ====
section
/-! DEFINITION. BTX.START, BTX.STAT, TCOPY and AMTEST as issued (R302 to R306). The channels are events of
BtEv. -/

namespace Sys2Proof.Machine

/-- Operations of a channel of a core. -/
def channelOps (s : State) (core ch : Nat) : List BtOp := s.bts.filter fun b => b.core == core && b.ch == ch

/-- Whether a channel of 8 operations or the group's counter has no room (R60, R287). -/
def channelFull (u : Issue) (s : State) (ch : Nat) : Bool :=
  decide (8 ≤ (channelOps s u.core ch).length) || u.grp.cnt 0 == 65535

/-- Accept an operation on a channel, counted on cnt.bt, after the unit's region commits (R287, R302). -/
def startTransfer (u : Issue) (s : State) (ch : Nat) (ptr : DWord) (rec : Option (List Word)) : State :=
  let s := closeRegion u s
  let op : BtOp := { id := s.nextId, gid := u.gid, cxid := u.grp.cxid, bid := u.grp.bid, core := u.core, ch := ch,
                     tids := u.act, ptr := ptr, tcopy := rec }
  let s := { s with bts := s.bts ++ [op], nextId := s.nextId + 1 }
  s.updGrp u.gid fun g => { g with ops := g.ops ++ [⟨op.id, 0, false, []⟩] }

/-- BTX.START (R302). -/
def execBtxStart (o : BSF) (s : State) : Host.Outcome State Fault Refusal :=
  execUnit (.btxStart o) (fun u s =>
    if u.act.isEmpty then .ok (closeRegion u s)
    else
      let a := u.rd64 s u.low (2 * o.ap.toNat)
      match gcheck s u.grp.cxid a 64 .load with
      | .error f => .trap (failTrap u false (u.act.map fun t => (t, f)))
      | .ok p =>
        if channelFull u s o.ch.toNat then .retry (.channel o.ch.toNat)
        else .ok (startTransfer u (cacheEnt s p.ent) o.ch.toNat a none)) s

/-- BTX.STAT (R303). -/
def execBtxStat (o : BTF) (s : State) : Host.Outcome State Fault Refusal :=
  execUnit (.btxStat o) (fun u s =>
    let ch := o.ch.toNat
    let n := (s.bts.filter fun b => b.gid == u.gid && b.ch == ch).length
    .ok (writeLanes u s fun _ => [(o.d.toNat, BitVec.ofNat 32 (256 * u.grp.btc.getD ch 0 + n))])) s

/-- The record that the eight registers of a TCOPY spell (Table 12-7): next 0, cwm 1, cval 1
(DEDUCED, notes/assumptions/38.md). -/
def tcopyRec (r : List Word) : List Word :=
  let w0 := wAt r 0
  let tensor := bitsOf w0 28 3 == 1
  let half (k : Nat) : Word := wrap32 (signedOf (bitsOf (wAt r 1) (16 * k) 16) 16)
  let cwv := bitOf w0 25
  [0, 0, BitVec.ofNat 32 (2 ^ 31 + 2 ^ 24 + w0 % 2 ^ 31 / 2 ^ 22 * 2 ^ 22), if tensor then half 0 else r.getD 1 0,
   r.getD 2 0, r.getD 3 0, r.getD 4 0, r.getD 5 0, if cwv then r.getD 6 0 else 0, if cwv then r.getD 7 0 else 0,
   1, BitVec.ofNat 32 (8 * bitsOf w0 0 22), if tensor then half 1 else 0, 0, 0, 0]

/-- A reserved bit or value in the registers of a TCOPY (Table 12-7). The count's range is the channel's
(DEDUCED, notes/assumptions/38.md). -/
def tcopyReserved (r w : List Word) : Bool :=
  bitOf (wAt r 0) 31 || bitOf (wAt r 0) 24 || decide (4 ≤ btKind w) || btCpol w == 2 || (!btGlob w && wAt w 7 != 0) ||
    (btKind w == 2 && (bitsOf (wAt w 3) 16 16 != 0 || bitsOf (wAt w 3) 4 4 != 0 || decide (7 < bitsOf (wAt w 3) 0 4)))

/-- A non-canonical address among those that a record uses. -/
def btNonCanonical (w : List Word) : Bool :=
  !canonical (btSrc w) || (btGlob w && !canonical (btDst w)) || (btCwv w && !canonical (btCaddr w))

/-- The checks of TCOPY in the order of R305: the cause, if any. -/
def tcopyFault (u : Issue) (s : State) (r w : List Word) : Option Cause :=
  let size := ((s.blk? u.grp.bid).map Block.size).getD 0
  if tcopyReserved r w || (!btGlob w && u.grp.isHandler) then some .illegalOp
  else if btMisaligned w then some .misaligned
  else if btNonCanonical w || (btKind w != 1 && (btPadBad w (btExtent w []) size || btSpaceBad s u.grp.cxid w (btExtent w [])))
  then some .protection
  else none

/-- TCOPY (R304, R305). -/
def execTcopy (o : TCF) (s : State) : Host.Outcome State Fault Refusal :=
  execUnit (.tcopy o) (fun u s =>
    if u.act.isEmpty then .ok (closeRegion u s)
    else
      let r := u.rdN s u.low o.v.toNat 8
      let w := tcopyRec r
      match strictRegs (fun t => if t == u.low && btCwv w then [o.v.toNat + 6, o.v.toNat + 7] else []) u s with
      | some (c, ls) => .trap (u.ti c ls)
      | none =>
        match tcopyFault u s r w with
        | some c => .trap (u.ti c u.act (if c = .illegalOp then 0 else btDst w))
        | none =>
          if channelFull u s o.ch.toNat then .retry (.channel o.ch.toNat) else .ok (startTransfer u s o.ch.toNat 0 (some w))) s

/-- Bytes of a block's scratchpad as a thread reads them: its own stores that are on their way, then its
buffered ones, over what is performed (R102, R106). -/
def padBytesOf (s : State) (u : Issue) (t : Nat) (b : Block) (off n : Nat) : List Byte :=
  let sent := (s.reqs.filter fun r => r.gid == u.gid && r.tid == t && r.kind == .store && !r.performed &&
    r.blk == some b.bid).map fun r => (r.off, r.size, r.data.toNat)
  let held := ((u.grp.thr t).stores.filter fun x => !x.glob && x.blk == b.bid).map fun x => (x.off, x.size, x.data.toNat)
  let all := (sent ++ held).reverse
  (Memory.getN b.pad off n).mapIdx fun i y => match all.find? fun e => e.1 ≤ off + i && off + i < e.1 + e.2.1 with
    | some e => BitVec.ofNat 8 (bitsOf e.2.2 (8 * (off + i - e.1)) 8)
    | none => y

/-- A thread has read 8 bytes of its block's scratchpad as a relaxed load, and found the newest writes (R110, R306)
(DESIGN CHOICE, notes/assumptions/59.md). -/
def padRead (u : Issue) (s : State) (t off : Nat) : Known :=
  readFrom s (u.grp.agent t) 0 1 (readBefore s { blk := some u.grp.bid, off := off, n := 8 } 0 []).2

/-- AMTEST (R306): the read waits for an acquire of the thread that comes before it (R102). -/
def execAmtest (o : AMF) (s : State) : Host.Outcome State Fault Refusal :=
  execUnit (.amtest o) (fun u s =>
    match checkLanes u false u.act fun t => accPad u s (u.rd s t (2 * o.ap.toNat)).toNat 8 with
    | .error ti => .trap ti
    | .ok as =>
      let off (t : Nat) : Nat := ((assoc t as).map Acc.off).getD 0
      let word (t : Nat) : DWord := match s.blk? u.grp.bid with
        | some b => BitVec.ofNat 64 (leNat (padBytesOf s u t b (off t) 8))
        | none => 0
      if u.act.any fun t => acquiring s u.gid t then .retry (.acquire u.act)
      else
        .ok (updAct u s fun t th => (th.setP o.pd (word t &&& u.rd64 s t o.m.toNat == u.rd64 s t o.m.toNat)).learn s.nextId
          (padRead u s t (off t)))) s

end Sys2Proof.Machine
end

