-- ==== Sys2Proof/Machine/Waits.lean ====
section
/-! DEFINITION. When a parked instruction may issue again (R36), and which threads may issue (R34 to R38, R414, R432). -/

namespace Sys2Proof.Machine

/-- A group as an instruction of some of its threads sees it. -/
def Group.view (g : Group) (ts : List Nat) : Issue :=
  { core := g.core, part := g.part, gid := g.gid, grp := g, tids := ts, act := ts, upc := 0, ipc := 0, pfx := {} }

/-- Whether what an instruction of a group waits for has come (R36). -/
def waitOver (s : State) (g : Group) : Wait → Bool
  | .record t va n => match readOwn (g.view [t]) s t va n with
    | .ok none => false
    | _ => true
  | .acquire ts => !ts.any (acquiring s g.gid)
  | .channel ch => !channelFull (g.view []) s ch
  | .counter c => g.cnt c != 65535
  | .queue q => !queueFull s g.cxid q
  | .slot n => !slotBusy s g.cxid n
  | .tile a => !tileBusy (g.view []) s a
  | .sequencer => !mxFull (g.view []) s
  | .pad wr ts => !padWaits (g.view ts) s wr
  | .bytes n => chunkRoom s g n

/-- Threads whose instruction may go on are ready again (R36). -/
def Group.retry (s : State) (g : Group) : Group :=
  { g with threads := g.threads.map fun th => match th.park with
      | some (.resource w) => if waitOver s g w then th.release else th
      | _ => th }

/-- Every group with the threads whose instruction may go on ready again. -/
def retryAll (s : State) : State := { s with groups := s.groups.map (Group.retry s) }

/-- Whether a thread at an address may fetch its next word: the buckets hold a token, the word is in L1, or its fetch traps
(R414). -/
def mayFetch (s : State) (g : Group) (pc : DWord) : Bool :=
  hasTokens s g.cxid 1 || match fetchWord s g.cxid pc with
    | .ok (_, p) => fetchHit s (g.view []) p
    | .error _ => true

/-- Threads of a group that are ready. -/
def Group.readies (g : Group) : List Nat := (List.range g.threads.length).filter g.ready

/-- The ready threads of a group whose next instruction may issue: none of their requests and messages waits at issue, and
neither does their fetch (R414, R432) (DEDUCED, notes/assumptions/60.md). -/
def Group.mayIssue (s : State) (g : Group) : List Nat :=
  let ts := g.readies.filter fun t => !issueWaits s g.gid t
  let pcs := ((ts.map fun t => (g.thr t).pc).eraseDups).filter (mayFetch s g)
  ts.filter fun t => pcs.contains (g.thr t).pc

end Sys2Proof.Machine
end

