-- ==== Sys2Proof/Machine/Sched.lean ====
section
/-! DEFINITION. Arbitration, runs and long-latency results (R32 to R43), the dispatchers and the launch queues
(R45, R309 to R315, R337, R400 to R408). -/

namespace Sys2Proof.Machine

/-! ## Arbitration (R34 to R38) -/

/-- Whether a block of a group keeps it from issuing: an urgent pre-emption stops issue at once, unless the save has found the
save region full (R387, R389), and a block that leaves at a BAR.PE drains (R224). -/
def issueStopped (s : State) (g : Group) : Bool :=
  match s.blk? g.bid with
  | some b => (!b.full && (b.pre.map Pre.urgent).getD false) || b.pe.isSome
  | none => false

/-- Groups of a partition whose context runs on the core and that may issue. -/
def issuers (s : State) (core part : Nat) : List Group :=
  s.groups.filter fun g => g.core == core && g.part == part && g.hold.isNone && runsOn s g.cxid core && !issueStopped s g

/-- The moment at which the first starved path of some threads became starved (R38). -/
def Group.starvedAt (g : Group) (ts : List Nat) : Option Nat := (ts.filterMap fun t => (g.thr t).starved).min?

/-- The candidate path among threads of a group: its first starved path, else the lowest program counter (R34, R38). -/
def Group.pathOf (g : Group) (ts : List Nat) : List Nat :=
  let pick := match g.starvedAt ts with
    | some k => ts.find? fun t => (g.thr t).starved == some k
    | none => (ts.map fun t => (g.thr t).pc.toNat).min?.bind fun m => ts.find? fun t => (g.thr t).pc.toNat == m
  match pick with
  | some t => ts.filter fun i => (g.thr i).pc == (g.thr t).pc
  | none => []

/-- The candidate path of a group: that of the threads that may issue (R34). -/
def Group.candidate (s : State) (g : Group) : List Nat := g.pathOf (g.mayIssue s)

/-- Whether a goes before b in a partition: starved paths first, in the order they became so, then the older
block, then the lower group (R37). Of two paths that became starved at the same clk, that of the group placed first goes
first (DESIGN CHOICE, notes/assumptions/8.md). -/
def issueBefore (s : State) (a b : Group) : Bool :=
  let older := decide (a.born < b.born) || (a.born == b.born && decide (a.g ≤ b.g))
  match a.starvedAt (a.mayIssue s), b.starvedAt (b.mayIssue s) with
  | some x, some y => decide (x < y) || (x == y && older)
  | some _, none => true
  | none, some _ => false
  | none, none => older

/-- The group that goes first (DESIGN CHOICE, notes/assumptions/8.md). -/
def firstIssuer (s : State) : List Group → Option Group
  | [] => none
  | g :: r => match firstIssuer s r with
    | none => some g
    | some x => if issueBefore s g x then some g else some x

/-- The groups of a partition with a path that may issue, those threads ready again whose wait has ended (R36). -/
def contenders (s : State) (core part : Nat) : List Group :=
  ((issuers s core part).map (Group.retry s)).filter fun g => !(g.mayIssue s).isEmpty

/-- The group and path that a partition issues next (R36, R37): one that yielded only if there is no other. -/
def nextIssue (s : State) (core part : Nat) : Option Group :=
  let gs := contenders s core part
  match firstIssuer s (gs.filter fun g => !g.yielded) with
  | some g => some g
  | none => firstIssuer s gs

/-- A path wins its partition: a new fairness period counts from now (R340). -/
def Group.startRun (s : State) (g : Group) : Group := { g with fper := fairPeriod s g.cxid }

/-- ISSUE_ARBITRATION (R32 to R38): an idle partition starts the run of its next path
(DESIGN CHOICE, notes/assumptions/8.md). -/
def execIssueArbitration (core part : Nat) (s : State) : Host.Outcome State Fault Refusal :=
  if s.runs.any fun r => r.core == core && r.part == part then .next s
  else match nextIssue s core part with
    | none => .next s
    | some g =>
      let here (x : Group) : Bool := (issuers s core part).any fun y => y.gid == x.gid
      let run : Run :=
        { core := core, part := part, gid := g.gid, tids := g.candidate s, start := s.clk,
          sdbg := ((s.ctx? g.cxid).map Ctx.sdbg).getD false }
      .next { s with
        groups := s.groups.map fun x =>
          let x := if here x then { x.retry s with yielded := false } else x
          if x.gid == g.gid then x.startRun s else x
        runs := s.runs ++ [run] }

/-- Whether a run has used its 32 clk: from its first issue, or, while nothing of it has issued, from the moment it won its
partition. The unit it would issue now cannot issue in them, and a unit whose words are still coming in has not issued (R36);
the one unit of a STEP takes its time (R397) (DEDUCED, notes/assumptions/8.md). -/
def Run.timedOut (r : Run) (s : State) : Bool := !r.single && decide (r.start + 32 ≤ s.clk)

/-- RUN_TIME_LIMIT (R36): the run ends before a unit that cannot issue within 32 clk of the first. -/
def execRunTimeLimit (core part : Nat) (s : State) : Host.Outcome State Fault Refusal :=
  if s.runs.any fun r => r.core == core && r.part == part && r.timedOut s then .next (endRunAt s core part) else .next s

/-- PATH_STARVED (R38): a thread was ready for the fairness period without issuing. -/
def execPathStarved (gid tid : Nat) (s : State) : Host.Outcome State Fault Refusal :=
  match s.grp? gid with
  | none => .next s
  | some g =>
    if g.ready tid && (g.thr tid).starved.isNone && decide (g.fper ≤ (g.thr tid).waited) then
      .next (s.updThr gid tid fun th => { th with starved := some s.clk })
    else .next s

/-! ## Long-latency results (R42, R43) -/

/-- Drop older results on their way to a register: a younger one has landed (R43). -/
def cancelOlder (id : Nat) (rs : List Nat) (ps : List Pend) : List Pend :=
  ps.map fun p => if p.id < id then { p with dsts := p.dsts.map fun d => match d with
    | some r => if rs.contains r then none else some r
    | none => none } else p

/-- Write a landed result: v registers in the thread, s registers in the group, without touching younger results. No settle
covers it yet (R42). -/
def landWords (g : Group) (tid : Nat) (p : Pend) : Group :=
  let ws := (p.dsts.zip p.words).filterMap fun e => match e.1, e.2 with
    | some r, some w => some (r, w)
    | _, _ => none
  let rs := ws.map Prod.fst
  let hasS := rs.any fun r => decide (96 ≤ r)
  let thr (i : Nat) (th : Thread) : Thread :=
    if i = tid then
      { th with
        v := ws.foldl (fun v e => if e.1 < 96 then assocSet e.1 e.2 v else v) th.v
        unsettled := rs.map (fun r => (r, p.id, p.mem)) ++ th.unsettled.filter fun e => !rs.contains e.1
        sus := th.sus.filter fun r => !rs.contains r
        kept := if th.kept.any rs.contains then [] else th.kept
        pend := cancelOlder p.id rs (th.pend.filter fun q => q.id != p.id) }
    else if hasS then { th with pend := cancelOlder p.id (rs.filter fun r => decide (96 ≤ r)) th.pend }
    else th
  { g with
    threads := g.threads.mapIdx thr
    sus := g.sus.filter fun r => !rs.contains r
    sreg := ws.foldl (fun v e => if 96 ≤ e.1 then assocSet (e.1 - 96) e.2 v else v) g.sreg }

/-- Whether an AREAD's tile words are settled: no earlier operation of its group on the tile is unfinished (R88, R237). -/
def tileSettled (s : State) (g : Group) (p : Pend) : Bool :=
  match p.tile with
  | none => true
  | some x => !s.mxs.any fun m => m.gid == g.gid && m.bid == x.bid && m.half == x.half && m.acc == x.t && decide (m.id < p.id)

/-- The words of a pending result with an AREAD's tile words read now. -/
def readTile (s : State) (p : Pend) : Pend :=
  match p.tile with
  | none => p
  | some x =>
    let tiles := ((s.blk? x.bid).map Block.tiles).getD []
    let at_ (k : Nat) (y : TileWord) : Bool := y.half == x.half && y.t == x.t && y.row == x.row && y.col == x.col + k
    let ws := (List.range p.words.length).map fun k => some (((tiles.find? (at_ k)).map TileWord.w).getD 0)
    { p with words := ws }

/-- Structures beyond those of the memory system whose errors are counted (R395): the registers, the scratchpad, the L1s, the
paths and arithmetic units, the accumulators, the matrix arrays (DESIGN CHOICE, notes/assumptions/33.md). -/
def ErrSite.structure_ : ErrSite → Nat
  | .vreg .. | .sreg .. => 5
  | .pad .. => 6
  | .l1 .. => 7
  | .path => 8
  | .tile => 9

/-- A detected error that a region restart cures: the open regions of the group's threads are discarded
(R122, R394). -/
def softError (s : State) (g : Group) : State := wake (discard s g.gid g.live)

/-- LONG_LATENCY_RESULT (R42): a result lands; a failed reply raises its trap at the instruction that asked
(R395, R448); `err` marks an error on the return path (R122) (DESIGN CHOICE, notes/assumptions/18.md)
(DEDUCED, notes/assumptions/37.md). -/
def execLongLatencyResult (gid tid id : Nat) (err : Bool) (s : State) : Host.Outcome State Fault Refusal :=
  match s.grp? gid with
  | none => .next s
  | some g =>
    match (g.thr tid).pend.find? fun p => p.id == id with
    | none => .next s
    | some p =>
      match p.bad with
      | some c =>
        let s := s.updThr gid tid fun th => { th with pend := th.pend.filter fun q => q.id != id }
        .next (raise s g { cause := c, lanes := [tid], fpc := p.fpc, faddr := p.faddr, cxid := g.cxid })
      | none =>
        if (p.tile.isNone && p.words.any fun w => w.isNone) || !tileSettled s g p then .next s
        else if err then .next (softError (countErr s 8 true) g)
        else .next (wake (s.updGrp gid fun g => landWords g tid (readTile s p)))

/-! ## Block dispatch (R407) -/

/-- Whether a supervisor start of a context waits (R337). -/
def supWaits (s : State) (cx : Nat) : Bool :=
  ((s.ctx? cx).map Ctx.wantSup).getD false ||
    s.grids.any fun g => g.cxid == cx && g.sup && s.blocks.any fun b => b.gr == g.gr && b.saved.isSome

/-- Whether a context may place its next unit on some core of a die; its supervisor group goes first (R337, R407). -/
def readyOnDie (s : State) (cx die : Nat) : Bool :=
  !supWaits s cx && (List.range 96).any fun k =>
    let c := 96 * die + k
    (placeSet s cx).getLsbD c && (placeHead s cx c 0).isSome

/-- Insert a number in ascending order. -/
def insNat (n : Nat) : List Nat → List Nat
  | [] => [n]
  | x :: r => if n ≤ x then n :: x :: r else x :: insNat n r

/-- The contexts in turn order on a die: ascending from after the one served last (R407). -/
def turnOrder (s : State) (die : Nat) : List Nat :=
  let last := s.served.getD die 0
  let ids := (s.ctxs.filter fun x => x.state == .running).map Ctx.cxid
  let sorted := ids.foldr insNat []
  (sorted.filter fun c => decide (last < c)) ++ sorted.filter fun c => decide (c ≤ last)

/-- BLOCK_PLACE (R25 to R31, R407): the next unit of the context whose turn it is on the core's die is placed
(DESIGN CHOICE, notes/assumptions/15.md). -/
def execBlockPlace (cx core pick : Nat) (s : State) : Host.Outcome State Fault Refusal :=
  if supWaits s cx then .next s
  else if (turnOrder s (core / 96)).find? (fun c => readyOnDie s c (core / 96)) != some cx then .next s
  else match placeHead s cx core pick with
    | none => .next s
    | some s => .next (wake { amhWake s with served := s.served.set (core / 96) cx })

/-! ## Retirement (R45) -/

/-- Whether everything that a group issued has completed, and its threads have exited (R45). -/
def workDone (s : State) (g : Group) : Bool :=
  g.live.isEmpty && g.ops.isEmpty &&
    s.reqs.all (fun r => r.gid != g.gid || r.performed) && s.rus.all (fun r => r.gid != g.gid || r.applied) &&
    s.bts.all (fun b => b.gid != g.gid) && s.mxs.all (fun m => m.gid != g.gid) &&
    s.msgs.all (fun m => m.gid != g.gid) && s.rdefs.all (fun r => r.gid != g.gid) && s.ctxops.all (fun r => r.gid != g.gid) &&
    s.traps.all (fun t => t.gid != g.gid || t.async)

/-- Whether a group is finished: nothing of its own, nor a message that it handles, is left (R45). -/
def groupDone (s : State) (g : Group) : Bool := workDone s g && s.msgs.all fun m => m.st != .running g.gid

/-- Groups of a block, resident or saved. -/
def allGroups (s : State) (b : Block) : List Group := b.saved.getD (blockGroups s b.bid)

/-- What a LAUNCH of a group that goes released is fixed now: everything that it covers is performed (R107). -/
def QEntry.settled (s : State) (gs : List Group) : QEntry → QEntry
  | .captured r gid n ts k z => .captured r gid n ts (match gs.find? fun g => g.gid == gid with
      | some g => releaseOf s g ts n 4
      | none => k) z
  | e => e

/-- The launches of groups that go, in every queue. -/
def settleLaunches (s : State) (gs : List Group) : State :=
  { s with ctxs := s.ctxs.map fun x => { x with queues := x.queues.map fun e => (e.1, e.2.map (QEntry.settled s gs)) } }

/-- A message is complete: its AMSG waits for it no longer (R308). -/
def Msg.complete (m : Msg) : Bool := match m.st with
  | .finished => true
  | .left _ => true
  | _ => false

/-- The handler group of a message retires: nothing keeps the message (R45, R113). -/
def msgGone (s : State) (g : Group) : State :=
  let ms := s.msgs.map fun m => if m.st == .left g.gid then { m with st := .finished } else m
  { s with msgs := ms.filter fun m => m.st != .finished || ms.any fun x => x.op == m.op && !x.complete }

/-- BLOCK_RETIRE (R45): the block's scratchpad, tiles, slots and frames are released; a save that found the save
region full may then begin (R389). -/
def execBlockRetire (bid : Nat) (s : State) : Host.Outcome State Fault Refusal :=
  match s.blk? bid with
  | none => .next s
  | some b =>
    let gs := allGroups s b
    if gs.all (groupDone s) then
      let sup := gs.any fun g => g.kind == .supervisor
      let s := { settleLaunches s gs with
        groups := s.groups.filter fun g => g.bid != bid
        runs := s.runs.filter fun r => !gs.any fun g => g.gid == r.gid
        blocks := (s.blocks.filter fun x => x.bid != bid).map fun x => { x with full := false } }
      let s := gs.foldl msgGone s
      let s := if sup then { s with grids := s.grids.filter fun g => g.gr != b.gr } else s
      .next (wake (settleStops s))
    else .next s

/-! ## Launch queues (R405, R406) -/

/-- Whether the grids that left a queue are placed, rejected or ended (R406). -/
def predecessorsPlaced (s : State) (cx q : Nat) : Bool :=
  s.grids.all fun g => g.cxid != cx || g.q != q || g.sup || g.reject != 0 || g.ended || g.ending.isSome ||
    decide (lrBlocks g.lrec ≤ g.next)

/-- Whether a context dispatches: it runs on some core (R403). -/
def dispatches (s : State) (cx : Nat) : Bool :=
  ((s.ctx? cx).map Ctx.state == some .running) && s.runset cx != 0

/-- Replace a queue. -/
def setQueue (s : State) (cx q : Nat) (l : List QEntry) : State :=
  s.updCtx cx fun c => { c with
    queues := if l.isEmpty then assocDel q c.queues else assocSet q l c.queues
    pendBits := c.pendBits &&& ~~~((1 : DWord) <<< q) }

/-- A queue without the record at its head: a chain goes on at its next (R405). -/
def popQueue : List QEntry → List QEntry
  | [] => []
  | .captured .. :: r => r
  | .host _ n _ :: r => if n = 0 then r else .host none n false :: r

/-- Mark the head of a queue as waiting for a pager. -/
def waitHead : List QEntry → List QEntry
  | [] => []
  | .captured w g n ts k _ :: r => .captured w g n ts k true :: r
  | .host w a _ :: r => .host w a true :: r

/-- A grid from a record that leaves queue q; `reject` is a status code of Table 12-13. -/
def mkGrid (s : State) (cx q : Nat) (w : List Word) (reject : Nat) (seen : Known := {}) : State :=
  let g : Grid := { gr := s.nextId, cxid := cx, lrec := w, q := q, leftAt := s.nextId, reject := reject, seen := seen }
  { s with grids := s.grids ++ [g], nextId := s.nextId + 1 }

/-- Whether a CORESIDENT grid fits the run set in force now (R41). -/
def coresFit (s : State) (cx : Nat) (w : List Word) : Bool :=
  !lrCores w ||
    (let x : Grid := { gr := s.nextId, cxid := cx, lrec := w, q := 0, leftAt := 0 }
     let set := placeSet s cx
     let all := (List.range 192).filter fun c => set.getLsbD c
     (putAll set w all 0 (byGang (newBlocks x (lrBlocks w) 0 (s.nextId + 1))) s).isSome)

/-- Whether a dependence word satisfies its condition (R315). -/
def depHolds (w : List Word) (x : Nat) : Bool :=
  if lrDcond w = 1 then x == lrDval w else if lrDcond w = 2 then decide (lrDval w ≤ x) else true

/-- The head record of a queue. -/
def headRecord : List QEntry → Option (List Word)
  | .captured w .. :: _ => some w
  | .host (some w) _ _ :: _ => some w
  | _ => none

/-- Whether the head of a queue has to wait: for a pager, or for what its LAUNCH releases (R107, R405). -/
def headWaits (s : State) : List QEntry → Bool
  | .captured _ g n ts _ z :: _ => z || ts.any fun t => uncovered s g t n
  | .host _ _ z :: _ => z
  | [] => false

/-- Whether a trap of a source has not been delivered: its source is held until then (R381). -/
def trapHeld (s : State) (src : TrapSrc) : Bool := s.traps.any fun t => t.src == src

/-- What the head of a queue makes known to its grid: what its LAUNCH released (R107), or for a host list every write before
(R113). -/
def headSeen (s : State) : List QEntry → Known
  | .captured _ g n ts k _ :: _ => match s.grp? g with
    | some x => (releaseOf s x ts n 4).known
    | none => k.known
  | _ => s.allWrites

/-- A running context's dispatchers have examined a queue (R403). -/
def examined (s : State) (cx q : Nat) : State :=
  if dispatches s cx then s.updCtx cx fun c => { c with pendBits := c.pendBits &&& ~~~((1 : DWord) <<< q) } else s

/-- GRID_LEAVE_QUEUE (R315, R406): the head grid leaves once earlier ones are placed and its dependence holds. -/
def execGridLeaveQueue (cx q : Nat) (s : State) : Host.Outcome State Fault Refusal :=
  match s.ctx? cx with
  | none => .next s
  | some c =>
    let l := queueOf c q
    match headRecord l with
    | none => .next (examined s cx q)
    | some w =>
      if headWaits s l || !dispatches s cx || !predecessorsPlaced s cx q || trapHeld s (.queue cx q) then .next (examined s cx q)
      else if lrDcond w = 0 then
        if coresFit s cx w then .next (mkGrid (setQueue s cx q (popQueue l)) cx q w 0 (headSeen s l)) else .next (examined s cx q)
      else match loadAt s cx (lrDaddr w) 4 with
        | .error f =>
          let bad := f.cause == .pageFault
          let s := examined (raiseAsync (s.walked f.reads) f.cxid f.cause f.va true none (.queue cx q) 0 f.walk false 0) cx q
          if bad then .next (s.updCtx cx fun c => { c with queues := assocSet q (waitHead l) c.queues })
          else .next (mkGrid (setQueue s cx q (popQueue l)) cx q w 0x26)
        | .ok p =>
          let s := touch s p
          if depHolds w (leNat (s.readBuf p.b p.off 4)) && coresFit s cx w then
            -- the observation is an acquire at .sys
            let dep := readFrom s {} 1 5 (readBefore s { b := p.b, off := p.off, n := 4 } 0 []).2
            .next (mkGrid (setQueue s cx q (popQueue l)) cx q w 0 ((headSeen s l).join dep))
          else .next (examined s cx q)

/-- HOST_LIST_READ (R405): the next record of a host list is read once and checked. A fault of the record's own context names the
record's address, one that arises in an ancestor the address in that context (R363, R405). -/
def execHostListRead (cx q : Nat) (s : State) : Host.Outcome State Fault Refusal :=
  match s.ctx? cx with
  | none => .next s
  | some c =>
    match queueOf c q with
    | .host none a false :: r =>
      if !dispatches s cx || trapHeld s (.queue cx q) then .next (examined s cx q)
      else
        let drop (cause : Cause) (f : DWord) (cxid : Nat) (walk : Bool) : State :=
          setQueue (raiseAsync s cxid cause f true none (.queue cx q) 0 walk false 0) cx q r
        if !canonical a then .next (drop .protection a cx false)
        else if a.toNat % 128 ≠ 0 then .next (drop .misaligned a cx false)
        else if !hasTokens s cx 4 then .next (examined s cx q)
        else match readRec s cx a 128 with
          | .error f =>
            if f.cause = .pageFault then
              .next ((examined (raiseAsync (s.walked f.reads) f.cxid .pageFault f.va true none (.queue cx q) 0 f.walk false 0) cx q).updCtx cx fun c =>
                { c with queues := assocSet q (.host none a true :: r) c.queues })
            else .next (drop f.cause (if f.cxid = cx then a else f.va) f.cxid f.walk)
          | .ok (w, p) =>
            let s := takeTokens (touch s p) cx 4
            let st := launchCheck c q w
            if st = 0 then .next (setQueue s cx q (.host (some w) (lrNext w) false :: r))
            else .next (mkGrid (setQueue s cx q (popQueue (.host (some w) (lrNext w) false :: r))) cx q w st)
    | _ => .next (examined s cx q)

/-! ## The end of a grid (R312, R315, R384) -/

/-- The grid status word (Table 12-12). -/
def statusWord (g : Grid) : Word :=
  BitVec.ofNat 32 (g.reject * 65536 + g.ending.getD 0 * 256 + (if g.nofuse then 2 else 0) + 1)

/-- The function whose MSI-X table serves a context: 0 the PF, n + 1 VF n (R439). -/
def irqFn (s : State) (cx : Nat) : Nat :=
  match s.ctx? (tenant s cx) with
  | some x => if x.level = 2 then (match x.vf with
      | some n => n + 1
      | none => 0) else 0
  | none => 0

/-- Write one word of a grid as a store at .sys that releases every write of the grid (R113): the next state, and whether
the step is done. A word that is not aligned, as a rejected record may name one, is lost with its trap (R312). -/
def gridWord (s : State) (g : Grid) (va : DWord) (w : Word) : State × Bool :=
  if va = 0 then (s, true)
  else if va.toNat % 4 ≠ 0 then (raiseAsync s g.cxid .misaligned va true none (.grid g.gr) 0 false true 0, true)
  else match storeAt s g.cxid va 4 with
    | .ok p => ((touch s p).writeMem p.b p.off (leBytes 4 w.toNat) { rels := [{ scope := 5, who := {}, base := s.nextId }] }, true)
    | .error f =>
      if f.cause = .pageFault then
        ((raiseAsync (s.walked f.reads) f.cxid .pageFault f.va true none (.grid g.gr) 0 f.walk true 0).updGrid g.gr fun x => { x with waits := true }, false)
      else (raiseAsync (s.walked f.reads) f.cxid f.cause f.va true none (.grid g.gr) 0 f.walk (!f.walk) 0, true)

/-- Whether a grid is complete: rejected, or all its blocks placed or no more to be placed, and retired. -/
def gridDone (s : State) (g : Grid) : Bool :=
  !g.sup && (g.reject != 0 ||
    ((g.ended || (g.ending.isNone && decide (lrBlocks g.lrec ≤ g.next))) && !s.blocks.any fun b => b.gr == g.gr))

/-- GRID_COMPLETE (R312, R315): status word, then completion word, then the interrupt. -/
def execGridComplete (gr : Nat) (s : State) : Host.Outcome State Fault Refusal :=
  match s.grid? gr with
  | none => .next s
  | some g =>
    if g.waits || trapHeld s (.grid gr) || !gridDone s g then .next s
    else
      let first := if g.phase = 0 then gridWord s g (lrSaddr g.lrec) (statusWord g) else (s, true)
      if !first.2 then .next first.1
      else
        let s := first.1.updGrid gr fun x => { x with phase := max 1 g.phase }
        let second := if g.phase < 2 then gridWord s g (lrCaddr g.lrec) (lrCval g.lrec) else (s, true)
        if !second.2 then .next second.1
        else
          let s := second.1
          let s := if lrIrq g.lrec then sendIrq s (irqFn s g.cxid) (lrVec g.lrec) else s
          .next { s with grids := s.grids.filter fun x => x.gr != gr }

/-- GRID_END (R384): every thread of a grid that has an ending cause stops. -/
def execGridEnd (gr : Nat) (s : State) : Host.Outcome State Fault Refusal :=
  match s.grid? gr with
  | none => .next s
  | some g => if g.ending.isSome && !g.ended then .next (wake (endGrid s gr)) else .next s

/-! ## The supervisor (R337) -/

/-- The launch record that stands for a supervisor group's grid. -/
def supRecord (c : Ctx) : List Word :=
  (List.range 32).map fun i =>
    if i = 2 then pairLo c.sentry else if i = 3 then pairHi c.sentry else if i = 4 then 1
    else if i = 5 then 0x00010001 else if i = 6 then BitVec.ofNat 32 (c.sgw * 2 ^ 30 + c.src8 * 2 ^ 20) else 0

/-- SUPERVISOR_START (R337): a new or saved supervisor group goes to the lowest core of the run set that fits it. -/
def execSupervisorStart (cx pick : Nat) (s : State) : Host.Outcome State Fault Refusal :=
  match s.ctx? cx with
  | none => .next s
  | some c =>
    let set := placeSet s cx
    let go (us : List (Block × List Group)) (s : State) : Option State :=
      match (List.range 192).find? fun k => set.getLsbD k && (putUnit set k pick us s).isSome with
      | some k => if msgWaits s k || trapWaits s k then none else putUnit set k pick us s
      | none => none
    if set = 0 then .next s
    else if c.wantSup then
      let x : Grid := { gr := s.nextId, cxid := cx, lrec := supRecord c, q := 0, leftAt := s.nextId, next := 1, sup := true,
                         first := s.nextId, seen := s.allWrites }
      let s' : State := { s with grids := s.grids ++ [x], nextId := s.nextId + 1 + blockIds x }
      match go [newBlock x 0 (s.nextId + 1)] s' with
      | some t => .next (t.updCtx cx fun c => { c with wantSup := false })
      | none => .next s
    else match savedOf s fun b => b.cxid == cx && s.grids.any fun g => g.gr == b.gr && g.sup with
      | u :: _ => match go [u] s with
        | some t => .next (wake (amhWake t))
        | none => .next s
      | [] => .next s

/-! ## Active messages (R48, R309) -/

/-- Whether a message comes before another to the same core: of one thread in issue order, and the lanes of one AMSG in
ascending order (R309). -/
def Msg.before (x m : Msg) : Bool :=
  x.gid == m.gid && (x.tid == m.tid || x.op == m.op) && x.core == m.core && decide (x.id < m.id)

/-- Whether an earlier message has not started. -/
def msgBehind (s : State) (m : Msg) : Bool :=
  s.msgs.any fun x => x.before m && (x.st == .issue || x.st == .fabric || x.st == .queued)

/-- Whether an earlier one is still at issue or in the fabric. -/
def msgBehindFabric (s : State) (m : Msg) : Bool := s.msgs.any fun x => x.before m && (x.st == .issue || x.st == .fabric)

/-- Change one message. -/
def State.updMsg (s : State) (k : Nat) (f : Msg → Msg) : State :=
  { s with msgs := s.msgs.map fun x => if x.id == k then f x else x }

/-- Messages that occupy a core's queue: those of contexts that run there (R309). Messages that come back with their context may
bring it above 64: only admission is bounded (DESIGN CHOICE, notes/assumptions/50.md). -/
def queuedAt (s : State) (core : Nat) : Nat :=
  (s.msgs.filter fun x => x.core == core && x.st == .queued && runsOn s x.cxid core).length

/-- AM_ADMIT (R309, R432): a message that has a permit leaves for its core and then enters the core's queue of 64; one whose core
left the core set turns to the lowest core of the set. -/
def execAmAdmit (msg : Nat) (s : State) : Host.Outcome State Fault Refusal :=
  match s.msgs.find? fun m => m.id == msg with
  | none => .next s
  | some m =>
    let cores := ((s.ctx? m.cxid).map Ctx.cores).getD 0
    if m.st == .issue || m.st == .fabric || m.st == .queued then
      if !cores.getLsbD m.core then
        match (List.range 192).find? fun c => cores.getLsbD c with
        | some c => .next (s.updMsg msg fun x => { x with core := c, st := if m.st == .issue then .issue else .fabric })
        | none => .next s
      else if m.st == .issue then
        if permits s m.from_ (msgSlice m.core) < 6 && !s.msgs.any (fun x => x.op == m.op && decide (x.id < m.id) && x.st == .issue) then
          .next (s.updMsg msg fun x => { x with st := .fabric })
        else .next s
      else if m.st == .fabric && runsOn s m.cxid m.core && decide (queuedAt s m.core < 64) && !msgBehindFabric s m &&
          !uncovered s m.gid m.tid m.op then
        .next { (s.updMsg msg fun x => { x with st := .queued, at_ := if x.at_ = 0 then s.nextId else x.at_ }) with
          nextId := s.nextId + 1 }
      else .next s
    else .next s

/-- Writes of a group that have been performed. -/
def groupWrites (s : State) (gid : Nat) : List Nat := (s.hist.filter fun w => w.who.gid == gid).map Wr.id

/-- A message is complete, with what its handler group wrote; its AMSG completes with its last message (R108, R308). The message
stays until its handler group has retired: the sending block retires, and its grid completes, after the handler's own work (R45,
R113). -/
def msgDone (s : State) (m : Msg) : State :=
  let done (x : Msg) : Msg := match m.st with
    | .running gid => { x with st := .left gid, eff := groupWrites s gid }
    | _ => { x with st := .finished, eff := [] }
  let s := s.updMsg m.id done
  if s.msgs.all fun x => x.op != m.op || x.complete then
    let eff := (s.msgs.filter fun x => x.op == m.op).flatMap Msg.eff
    wake ({ s with msgs := s.msgs.filter fun x => x.op != m.op || x.st != MsgSt.finished }.updGrp m.gid fun g => g.opDone m.op eff)
  else s

/-- A width-16 handler group: registers as R48 and R382 give them, in a block of its own without storage. -/
def handlerGroup (s : State) (cx : Nat) (kind : GKind) (nregs : Nat) (pc : DWord) (v : Nat → List (Nat × Word))
    (sreg : List (Nat × Word)) (seen : Known) : Block × Group :=
  let id := s.nextId
  ({ bid := id, gr := 0, cxid := cx, lin := 0, core := 0, paired := false, gang := 0, rank := 0, smem := 0, acc := 0 },
   { gid := id + 1, cxid := cx, gr := 0, bid := id, g := 0, kind := kind, core := 0, part := 0, slot := 0, base := 0,
     width := 16, nregs := nregs, born := id, fper := fairPeriod s cx,
     threads := (List.range 16).map fun t => { pc := pc, rpc := pc, v := v t, rid := id + 2, view := View.add [] 0 seen },
     sreg := sreg })

/-- Place a handler group on a core, in any partition that has room (R48). -/
def putHandler (s : State) (core pick : Nat) (x : Block × Group) : Option State :=
  let s' : State := { s with blocks := s.blocks ++ [{ x.1 with core := core }], nextId := s.nextId + 3 }
  [0, 1, 2, 3].findSome? fun k => addGroup core ((pick + k) % 4) none (pick / 4) x.2 s'

/-- What the sender of a message released at its AMSG, which the handler's first instruction acquires (R112). -/
def senderKnown (s : State) (m : Msg) : Known :=
  match s.grp? m.gid with
  | some g => (releaseOf s g [m.tid] m.op 4).known
  | none => s.allWrites

/-- AM_HANDLER_START (R48, R309): a queued message starts its handler group, or completes where its entry is empty. -/
def execAmHandlerStart (msg pick : Nat) (s : State) : Host.Outcome State Fault Refusal :=
  match s.msgs.find? fun m => m.id == msg with
  | none => .next s
  | some m =>
    if m.st != .queued || !(placeSet s m.cxid).getLsbD m.core || msgBehind s m || trapWaits s m.core then .next s
    else match handlerEntry s m.cxid m.h with
      | none => .next (amhWake (msgDone s m))
      | some (n, code) =>
        let x := handlerGroup s m.cxid (.handler msg) n code (fun t => [(0, m.pay.getD t 0), (1, m.sender)]) []
          (senderKnown s m)
        match putHandler s m.core pick x with
        | none => .next s
        | some s => .next (amhWake (s.updMsg msg fun y => { y with st := .running x.2.gid }))

/-- AM_COMPLETE (R108, R308): the handler group has exited, and its committed stores are performed. -/
def execAmComplete (msg : Nat) (s : State) : Host.Outcome State Fault Refusal :=
  match s.msgs.find? fun m => m.id == msg with
  | none => .next s
  | some m => match m.st with
    | .running gid =>
      if ((s.grp? gid).map fun g => g.live.isEmpty && s.reqs.all fun r => r.gid != gid || r.performed).getD true then .next (msgDone s m)
      else .next s
    | _ => .next s

end Sys2Proof.Machine
end

