-- ==== Sys2Proof/Machine/TrapEv.lean ====
section
/-! DEFINITION. Delivery of trap records (R354, R380 to R383, R397), cocoon frames (R376, R386), and saves of
blocks (R387 to R390). -/

namespace Sys2Proof.Machine

/-! ## Delivery -/

/-- Whether a context takes no trap: its handler address is 0 or not canonical (R354). -/
def tvecInvalid (x : Ctx) : Bool := x.tvec == 0 || !canonical x.tvec

/-- The first context from a list upwards that takes a cause, under the trap masks listed; the root takes every one (R354). -/
def claimer (s : State) (code : Nat) : List (Nat × BitVec 32) → Nat
  | [] => 0
  | (c, m) :: r => match s.ctx? c with
    | none => claimer s code r
    | some x => if x.level = 0 then 0
      else if !m.getLsbD code || tvecInvalid x then claimer s code r
      else c

/-- The context that receives a trap (R354): a trap of a handler group starts its search at the parent. The masks are those of
the moment at which it arose (R355). -/
def receiver (s : State) (t : Trap) : Nat := claimer s t.cause.code (if t.inHandler then t.chain.drop 1 else t.chain)

/-- The 16 words of a trap record (Table 18-2). -/
def trapWords (t : Trap) (dest seq : Nat) : List Word :=
  let b (c : Bool) (k : Nat) : Nat := if c then 2 ^ k else 0
  [BitVec.ofNat 32 (t.cxid * 65536 + b t.async 11 + b t.cocoon 10 + b t.fatal 9 + b (dest != t.cxid) 8 + t.cause.code),
   BitVec.ofNat 32 (t.core * 2 ^ 24 + t.part * 2 ^ 22 + t.grp * 65536 + b t.eng 11 + b t.walk 10 + b t.fetch 9 + b t.wr 8 + t.instar),
   pairLo t.rpc, pairHi t.rpc, pairLo t.fpc, pairHi t.fpc, pairLo t.faddr, pairHi t.faddr, pairLo t.lmask, pairHi t.lmask,
   BitVec.ofNat 32 seq, BitVec.ofNat 32 t.blk, BitVec.ofNat 32 t.detail, 0, 0, 0]

/-- Write a record to a context's ring or log, as stores at .dev; a write that faults is lost (R283, R381). -/
def ringWrite (s : State) (dest : Nat) (a : DWord) (by_ : By) (w : List Word) : State :=
  if a = 0 then s
  else match storeAt s dest a 64 with
    | .ok p => (touch s p).writeAtoms p.b p.off by_ [wordsBytes (w.take 8), wordsBytes (w.drop 8)]
    | .error _ => s

/-- Whether a debugger has taken a cause of a trap's context (R397). -/
def attached (s : State) (t : Trap) : Bool := s.attach.any fun a => a.cxid == t.cxid && a.mask.getLsbD t.cause.code

/-- A group whose trap went to the debugger is resumed by it (DEDUCED, notes/assumptions/41.md). -/
def holdForDebugger (s : State) (t : Trap) : State :=
  if t.cocoon then s.updGrp t.gid fun g => { g with hold := g.hold.map fun h => { h with why := .debugger false } } else s

/-- Whether a trap may be delivered: its group is in its frame, and what its threads committed is performed (R383). -/
def deliverable (s : State) (t : Trap) : Bool :=
  (!t.cocoon || (match (s.grp? t.gid).bind Group.hold with
    | some h => h.saved
    | none => true)) && (t.async || s.reqs.all fun r =>
      r.gid != t.gid || !t.lmask.getLsbD r.tid || decide (t.id ≤ r.id) || r.kind == .load || r.performed)

/-- TRAP_DELIVERY (R354, R381): a record goes to its receiver's ring and queue, or to the debugger. -/
def execTrapDelivery (tr : Nat) (s : State) : Host.Outcome State Fault Refusal :=
  match s.traps.find? fun t => t.id == tr with
  | none => .next s
  | some t =>
    let inst := ((s.grp? t.gid).map Group.instar).getD t.instar
    let t := { t with instar := inst }
    if !deliverable s t then .next s
    else
      let left : State := { s with traps := s.traps.filter fun x => x.id != tr }
      if attached s t then
        .next (holdForDebugger { left with dbgEvents := s.dbgEvents ++ [trapWords t t.cxid 0] } t)
      else
        let dest := receiver s t
        match s.ctx? dest with
        | none => .next s
        | some x =>
          if 64 ≤ (s.recs.filter fun r => r.dest == dest).length then .next s
          else
            let ring := if x.rulogBase = 0 then 0 else x.rulogBase + BitVec.ofNat 64 (4096 + 64 * (x.trapSeq % 64))
            let r : TrapRec := { trap := t, dest := dest, seq := x.trapSeq, ring := ring, pc := t.fpc }
            let s := left.updCtx dest fun y => { y with trapSeq := y.trapSeq + 1 }
            let s := ringWrite { s with recs := s.recs ++ [r] } dest ring {} (trapWords t dest x.trapSeq)
            .next (if dest = 0 then sendIrq s 0 2047 else s)

/-- Records of a context that wait for a handler group, the lowest number first. -/
def nextRec (s : State) (cx : Nat) : Option TrapRec :=
  let rs := s.recs.filter fun r => r.dest == cx && r.bound.isNone
  ((rs.map TrapRec.seq).min?).bind fun k => rs.find? fun r => r.seq == k

/-- Trap handler groups of a context with a thread that has not exited, resident or saved. -/
def trapHandlers (s : State) (cx : Nat) : List Group :=
  (s.groups ++ s.blocks.flatMap fun b => b.saved.getD []).filter fun g => g.cxid == cx && !g.live.isEmpty && (match g.kind with
    | .trapHandler _ => true
    | _ => false)

/-- TRAP_HANDLER_START (R382, R383): the oldest waiting record starts its handler group; at most 8 run. -/
def execTrapHandlerStart (cx pick : Nat) (s : State) : Host.Outcome State Fault Refusal :=
  if cx = 0 || decide (8 ≤ (trapHandlers s cx).length) then .next s
  else match nextRec s cx, s.ctx? cx with
    | some r, some x => match handlerCore s r with
      | none => .next s
      | some core =>
        let w := trapWords r.trap cx r.seq
        let g := handlerGroup s cx (.trapHandler r.seq) 32 x.tvec (fun t => [(0, w.getD t 0)]) ((List.range 8).map fun i => (i, 0))
          s.allWrites
        match putHandler s core pick g with
        | none => .next s
        | some s => .next { s with recs := s.recs.map fun y =>
            if y.dest == cx && y.seq == r.seq then { y with bound := some g.2.gid } else y }
    | _, _ => .next s

/-! ## Cocoon frames (R376, R386) -/

/-- Whether every result issued before each thread's region entry has landed (R125). -/
def preLanded (g : Group) : Bool := g.live.all fun t => (g.thr t).pend.all fun p => decide ((g.thr t).rid ≤ p.id)

/-- Whether an MMA that threads of a group are parked at is unfinished (R238). -/
def mmaParked (s : State) (gid : Nat) : Bool := s.mxs.any fun m => m.gid == gid && m.mma

/-- Whether the requests of a group have been admitted and answered, and its remote updates are on their way (R386). -/
def answered (s : State) (gid : Nat) : Bool := s.reqs.all (fun r => r.gid != gid) && s.rus.all fun r => r.gid != gid || r.sent

/-- COCOON_SAVE (R386): the open regions are discarded once earlier results have landed and the group's requests are answered; the
group is in its frame. No save begins while an operation of the group is at the context engine (R390). -/
def execCocoonSave (gid : Nat) (s : State) : Host.Outcome State Fault Refusal :=
  match s.grp? gid with
  | none => .next s
  | some g => match g.hold with
    | some h =>
      if h.saved || !preLanded g || !answered s gid || mmaParked s gid || s.ctxops.any (fun r => r.gid == gid) then .next s
      else .next (wake ((discard s gid g.live false).updGrp gid fun g => { g with hold := some { h with saved := true } }))
    | none => .next s

/-- A thread restored from a frame: a WAITA's timeout starts again (R226). -/
def Thread.restored (th : Thread) : Thread :=
  match th.park with
  | some (.waita ne v a _ f p) => { th with park := some (.waita ne v a f f p), waited := 0 }
  | _ => { th with waited := 0, starved := none }

/-- A group leaves its frame: every thread that goes on re-enters its region (R121, R386); its registers have been written anew
(Table 6-2). With `stopped` the threads that other traps have stopped stay so. The threads that a pager served acquire what its
handler released (R383). -/
def leaveFrame (s : State) (gid : Nat) (stopped : Bool) : State :=
  let s := s.updGrp gid fun g => { g with
    hold := none, sus := []
    threads := g.threads.map fun th =>
      { (if th.stopped && stopped then th.restored else { th.restored.reentered with stopped := false }) with sus := [] } }
  wake (match s.grp? gid with
    | some g => learnAll s gid g.live
    | none => s)

/-- An uncorrectable error in the save region ends the grid of what it held (R379, R394). -/
def saveRegionError (s : State) (g : Group) : State :=
  let gr := fatalGrid s g
  let s := raiseAsync s g.cxid .uncorrectable 0 true (some g) .none 0 false false gr
  let s := { s with traps := s.traps.map fun t => if t.id + 1 == s.nextId then { t with fatal := true } else t }
  match g.kind with
  | .handler _ | .trapHandler _ => handlerGone (dropGroup (markEnding s gr Cause.uncorrectable.code) g) g
  | _ => markEnding s gr Cause.uncorrectable.code

/-- COCOON_RESTORE (R376, R386): the fault's address is walked again once its record is released, or the debugger
has resumed the group, unless its grid ends (R384); a walk that fails raises a new trap, from where it now arises (R354, R363).
`bad` marks an uncorrectable error in the frame. -/
def execCocoonRestore (gid : Nat) (bad : Bool) (s : State) : Host.Outcome State Fault Refusal :=
  match s.grp? gid with
  | none => .next s
  | some g => match g.hold with
    | some h =>
      if !h.saved || !(s.groups.any fun x => x.gid == gid) || ((s.grid? g.gr).any fun x => x.ending.isSome) then .next s
      else if bad then .next (countErr (saveRegionError s g) 3 true)
      else match h.why with
        | .debugger resumed => .next (if resumed then leaveFrame s gid false else s)
        | .pageFault tr =>
          if s.traps.any (fun t => t.id == tr.id) || s.recs.any (fun r => r.trap.id == tr.id) then .next s
          else match compose s tr.cxid tr.faddr with
            | .ok e => .next (leaveFrame (cacheEnt s e) gid true)
            | .error f =>
              let t := { tr with id := s.nextId, cause := f.cause, cxid := f.cxid, faddr := f.va, walk := tr.walk || f.walk
                                 inHandler := inHandlerOf g f.cxid, chain := masksOf s f.cxid }
              .next ({ s.walked f.reads with nextId := s.nextId + 1, traps := s.traps ++ [t] }.updGrp gid fun g =>
                { g with hold := some ⟨.pageFault t, true⟩ })
    | none => .next s

/-! ## Saves of blocks (R387 to R390) -/

/-- Scratchpad bytes that a live-table entry keeps (R388). -/
def liveRange (w : List Word) (a : Nat) : Bool :=
  (List.range (bitsOf (wAt w 5) 0 3)).any fun k => decide (wAt w (6 + 2 * k) ≤ a ∧ a < wAt w (7 + 2 * k))

/-- Whether a live-table entry keeps a tile. -/
def liveTile (w : List Word) (t : Nat) : Bool := if t < 32 then bitOf (wAt w 3) t else bitOf (wAt w 4) (t - 32)

/-- Whether a live-table entry keeps a v register. -/
def liveReg (w : List Word) (r : Nat) : Bool := bitOf (wAt w (r / 32)) (r % 32)

/-- The threads of a group after a graceful save: at the instruction after BAR.PE, already released, with the live
registers, what the barrier brings, and, as by a WAIT of each class, what the drained operations wrote (R61, R105, R109, R224). -/
def gracefulGroup (w : List Word) (q : Nat) (seen : Known) (g : Group) : Group :=
  { g with
    instar := 0, remask := 0
    threads := g.threads.map fun th =>
      if th.exited then th else { th.learn q (seen.join { eff := g.effs.flatMap Prod.snd }) with v := th.v.filter fun e => liveReg w e.1, park := none, waited := 0, starved := none } }

/-- The block after a graceful save: what the live-table entry keeps, and the next generation of its barrier. -/
def gracefulBlock (w : List Word) (b : Block) : Block :=
  { b with
    pad := b.pad.filter fun c => liveRange w c.1
    tiles := b.tiles.filter fun x => liveTile w x.t
    modes := b.modes.filter fun m => liveTile w m.2.1
    bars := b.bars.map fun k => if k.id == 16 then 
      { k with gen := k.gen + 1, arrived := [], idx := none } else k }

/-- Take a block off its cores: its groups go into the save region (R389). -/
def takeOff (s : State) (b : Block) (f : Group → Group) : State :=
  let gs := (blockGroups s b.bid).map fun g => { f g with latch := none }
  let s : State := { s with
    groups := s.groups.filter fun g => g.bid != b.bid
    runs := s.runs.filter fun r => !gs.any fun g => g.gid == r.gid
    blocks := s.blocks.map fun x => if x.bid == b.bid then { b with saved := some gs, pre := none, pe := none } else x }
  wake (settleStops s)

/-- Whether the save of a block has to wait for a copy: a record in progress that names scratchpad or a map (R300). -/
def padCopy (s : State) (b : Block) : Bool :=
  s.bts.any fun o => o.bid == b.bid && (match o.cur with
    | some r => !btGlob r.w || btMapv r.w
    | none => false)

/-- Whether the block's groups have no stores to scratchpad, and no results from before their regions, under way. -/
def saveQuiet (s : State) (b : Block) : Bool :=
  let gs := blockGroups s b.bid
  gs.all (fun g => preLanded g && (g.hold.map Hold.saved).getD true) && s.mxs.all (fun m => m.bid != b.bid) && !padCopy s b &&
    s.reqs.all (fun r => r.performed || r.blk != some b.bid) && s.ctxops.all fun r => !gs.any fun g => g.gid == r.gid

/-- BLOCK_SAVE (R389): graceful at a completed BAR.PE by the entry read there (R388), urgent at once. It is not begun where it
finds the save region full: Monarch reports it, and the block runs on until the save is tried again. -/
def execBlockSave (bid : Nat) (s : State) : Host.Outcome State Fault Refusal :=
  match s.blk? bid with
  | none => .next s
  | some b => match b.pre with
    | none => .next s
    | some p =>
      if !b.placed || b.full then .next s
      else
        let gs := blockGroups s bid
        let size := saveSize b gs
        let frames := ((gs.filter fun g => !g.live.isEmpty).map fun g => frameBytes g.width g.nregs).sum
        if s.saveBytes < saveUsed s - frames + size then
          .next (wake { s.updBlk bid (fun b => { b with full := true, pe := none }) with reports := s.reports ++ [1] })
        else if p.urgent then
          if !saveQuiet s b then .next s
          else
            let s := (gs.filter fun g => g.hold.isNone).foldl (fun s g => discard s g.gid g.live false) s
            match s.blk? bid with
            | some b => .next (takeOff s b fun g => { g with threads := g.threads.map Thread.restored })
            | none => .next s
        else match b.pe with
          | some w =>
            if gs.all (fun g => g.ops.isEmpty && g.hold.isNone) && saveQuiet s b then
              let seen := ((b.bars.find? fun k => k.id == 16).map fun k => (arrivals s 1 k).known).getD {}
              .next (takeOff s (gracefulBlock w b) (gracefulGroup w s.nextId seen))
            else .next s
          | none => .next s

/-- GRACEFUL_DEADLINE (R387): blocks not yet saved when the deadline expires are saved urgently. -/
def execGracefulDeadline (cx : Nat) (s : State) : Host.Outcome State Fault Refusal :=
  let due := (placedOf s cx).filter fun b => match b.pre with
    | some p => !p.urgent && (match p.deadline with
      | some k => decide (k ≤ s.clk)
      | none => false)
    | none => false
  if due.isEmpty then .next s else .next (askLeave s (due.map Block.bid) true none)

/-- SLICE_EXPIRY (R347): an expired slice stops the context by the kind and deadline of its run record. -/
def execSliceExpiry (cx : Nat) (s : State) : Host.Outcome State Fault Refusal :=
  match s.ctx? cx with
  | none => .next s
  | some x =>
    if x.state == .running && x.slice == some 0 then
      .next (stopTree (s.updCtx cx fun y => { y with slice := none }) cx x.sliceUrgent x.deadline)
    else .next s

/-- VACATE_COMPLETE (R351): the removed cores are vacated. -/
def execVacateComplete (cx : Nat) (s : State) : Host.Outcome State Fault Refusal :=
  match s.ctx? cx with
  | none => .next s
  | some x =>
    if x.pendVacate && x.revoking == 0 then .next (s.updCtx cx fun y => { y with pendVacate := false }) else .next s

/-- WAY_SWEEP_COMPLETE (R417, R418): the ways swept hold no line that the context filled; where its mask was emptied, the remote
updates that it issued before have drained too (R275). -/
def execWaySweepComplete (cx : Nat) (s : State) : Host.Outcome State Fault Refusal :=
  match s.ctx? cx with
  | none => .next s
  | some x =>
    if x.sweepWays == 0 || s.rus.any (fun r => r.cxid == cx && !r.applied && decide (r.id < x.sweepUpto)) then .next s
    else
      .next ({ s with l2 := s.l2.filter fun l => !(l.filler == cx && x.sweepWays.getLsbD l.way) }.updCtx cx fun y =>
        { y with sweepWays := 0, sweepUpto := 0 })

end Sys2Proof.Machine
end

