-- ==== Sys2Proof/Machine/FrameEv.lean ====
section
/-! DEFINITION. Frames and CXIDs (R335, R373), and the events that end FENCE, TLBINV and WAITA (R219, R221, R366). -/

namespace Sys2Proof.Machine

/-! ## Frames (R373) -/

/-- The die whose scrub engine serves a frame: that of the home slice of its first byte. R373 says only 'the frame's die',
also where the interleave spreads a frame over both (DESIGN CHOICE, notes/assumptions/62.md). -/
def frameDie (s : State) (b f : Nat) : Nat := ((s.buf? b).map fun x => homeSlice x (f * 65536) / 64).getD 0

/-- FRAME_SCRUB_START (R373): the frame that became FREED first on its die enters SCRUBBING. -/
def execFrameScrubStart (b f : Nat) (s : State) : Host.Outcome State Fault Refusal :=
  let x := s.frame b f
  if x.st != .freed || s.frames.any fun y => y.st == .freed && frameDie s y.b y.f == frameDie s b f && decide (y.order < x.order)
  then .next s
  else .next (s.setFrame { x with st := .scrubbing })

/-- Device address ranges of a frame: one for each interleave granule (R369). -/
def frameSegs (s : State) (b f : Nat) : List (Nat × Nat) :=
  match s.buf? b with
  | none => []
  | some x =>
    let n := min 65536 (granuleBytes x)
    (List.range (65536 / n)).filterMap fun k => (place x (f * 65536 + n * k)).map fun a => (a, n)

/-- Every byte of a frame becomes zero with good check bits, and its lines leave every cache (R373). -/
def scrub (s : State) (b f : Nat) : State :=
  let segs := frameSegs s b f
  let s : State := { s with
    mem := segs.foldl (fun m e => Memory.zero m e.1 e.2) s.mem
    poison := s.poison.filter fun p => !segs.any fun e => decide (e.1 ≤ 32 * p ∧ 32 * p < e.1 + e.2) }
  invalidateRange s b (f * 65536) 65536

/-- Whether an access translated before a frame was freed is under way (R374). -/
def frameBusy (s : State) (x : Frame) : Bool :=
  (s.reqs.any fun r => r.blk.isNone && !r.performed && r.b == x.b && r.off / 65536 == x.f && decide (r.id < x.before)) ||
    s.rus.any fun r => !r.applied && decide (r.id < x.before) &&
      ((r.b == x.b && r.off / 65536 == x.f) || r.lines.any fun l => match l with
        | some (b, o) => b == x.b && o / 65536 == x.f
        | none => false)

/-- FRAME_SCRUB_COMPLETE (R373): once earlier accesses have drained the frame is zeroed and CLEAN for its receiver. -/
def execFrameScrubComplete (b f : Nat) (s : State) : Host.Outcome State Fault Refusal :=
  let x := s.frame b f
  if x.st != .scrubbing || frameBusy s x then .next s
  else .next ((scrub s b f).setFrame { b := b, f := f, st := .clean, owner := x.next })

/-- Whether nothing holds a killed context's CXID any more (R335). -/
def cxidClear (s : State) (cx : Nat) : Bool :=
  s.frames.all (fun f => f.owner != cx) && s.bufs.all (fun b => b.counted || b.bown != cx) &&
    s.rus.all (fun r => r.cxid != cx || r.applied) && s.reqs.all (fun r => r.cxid != cx || r.performed) && s.vfs.all fun v => match v.flr with
      | some l => !l.contains cx
      | none => true

/-- CXID_RELEASE (R335): lines tagged with the CXID are invalidated and the CXID is free. Its killed children are nobody's
children from then on, whoever gets the CXID. -/
def execCxidRelease (cx : Nat) (s : State) : Host.Outcome State Fault Refusal :=
  match s.ctx? cx with
  | some x =>
    if x.state == .killed && cxidClear s cx then
      .next (dropWalks (dropEnts { s with
        ctxs := (s.ctxs.filter fun y => y.cxid != cx).map fun y => if y.parent == cx then { y with parent := 65536 } else y
        l1 := s.l1.filter fun c => c.tag != cx
        l2 := s.l2.filter fun l => l.tag != cx } fun e => e.cxid == cx) fun w => w.cxid == cx)
    else .next s
  | none => .next s

/-! ## FENCE and TLBINV -/

/-- Whether everything that the release part of a FENCE waits for is performed: stores, read-modify-writes and
write-backs of the thread (R219). -/
def performed (s : State) (gid tid upto : Nat) : Bool :=
  (s.reqs.all fun r => r.gid != gid || r.tid != tid || decide (upto ≤ r.id) || r.performed || r.kind == .load) &&
    !atEngine s gid tid upto && s.wbs.all fun w => w.gid != gid || w.tid != tid || decide (upto < w.upto)

/-- Whether everything that the acquire part waits for has returned and is written: loads and atomics (R219). -/
def returned (s : State) (gid tid upto : Nat) (th : Thread) : Bool :=
  th.pend.all (fun p => !p.mem || decide (upto ≤ p.id)) &&
    s.reqs.all fun r => r.gid != gid || r.tid != tid || decide (upto ≤ r.id) || r.performed || r.kind == .store

/-- Whether nothing of a lower ticket is outstanding: requests, remote updates and fences (R103). -/
def ticketNext (s : State) (k : Nat) : Bool :=
  let first (x : Option Nat) : Bool := x.any fun n => decide (n < k)
  !(s.reqs.any fun x => !x.performed && first x.ticket) && !(s.rus.any fun x => !x.applied && first x.ticket) &&
    !(s.groups.any fun g => g.live.any fun t => match (g.thr t).park with
      | some (.fence _ _ _ n) => first n
      | _ => false)

/-- What a FENCE brings its thread when it completes: what the loads before it acquire, a release that its later writes
carry, and for .sc the stores before earlier .sc fences (R101, R103). -/
def fenceKnown (s : State) (g : Group) (tid upto ord scope : Nat) : Known :=
  let v := (g.thr tid).view
  let acq : Known := if ord != 2 then acqFence s v (g.agent tid) upto scope else {}
  let rel : Known := if ord != 1 then relFence upto scope else {}
  (acq.join rel).join (if ord == 4 then { low := s.scSeen } else {})

/-- FENCE_COMPLETE (R103, R219): a fence of order .sc completes in the order of its ticket. -/
def execFenceComplete (gid tid : Nat) (s : State) : Host.Outcome State Fault Refusal :=
  match s.grp? gid with
  | none => .next s
  | some g => match (g.thr tid).park with
    | some (.fence upto ord scope ticket) =>
      if (ord != 1 && !performed s gid tid upto) || (ord != 2 && !returned s gid tid upto (g.thr tid)) ||
          !(ticket.all fun k => ticketNext s k) then .next s
      else
        let k := fenceKnown s g tid upto ord scope
        let s := if ord == 4 then { s with scSeen := union s.scSeen (ownWrites s gid tid upto) } else s
        -- the results that it waited for, of loads and atomics, are settled as by a settle
        .next (s.updThr gid tid fun th => { (th.learn upto k).release with
          unsettled := if ord != 2 then th.unsettled.filter fun e => !e.2.2 || decide (upto ≤ e.2.1) else th.unsettled })
    | _ => .next s

/-- Whether a leaf of a context translates an address. -/
def Hop.maps (cx : Nat) (x : DWord) (h : Hop) : Bool :=
  h.cxid == cx && decide (h.va ≤ x.toNat % 2 ^ 57 ∧ x.toNat % 2 ^ 57 < h.va + h.size)

/-- Whether a TLBINV of an issuer removes a cached entry (Table 17-6): for a page, one whose walk used the leaf, for a table read
too. -/
def tlbHit (s : State) (issuer kind : Nat) (x : DWord) (e : XEnt) : Bool :=
  match kind with
  | 0 => inSubtree s issuer e.cxid && e.via.any (Hop.maps issuer x)
  | 1 => e.cxid == x.toNat
  | _ => inSubtree s x.toNat e.cxid

/-- Whether a translation of an address went through an entry that is removed. -/
def viaRemoved (gone : List XEnt) (cx : Nat) (va : DWord) : Bool := gone.any fun e => e.cxid == cx && e.page == pageOf va

/-- Addresses of the lines of a remote update's granule. -/
def ruVas (r : RuReq) : List DWord := (List.range (ruLines r.defn)).map fun i => r.va + BitVec.ofNat 64 (128 * i)

/-- TLBINV_COMPLETE (R366): the thread's stores and every access translated through a removed entry are performed;
the composed and the non-leaf entries of Table 17-6 go, regions with such stores are discarded, and the thread goes on as an acquire. -/
def execTlbinvComplete (gid tid : Nat) (s : State) : Host.Outcome State Fault Refusal :=
  match s.grp? gid with
  | none => .next s
  | some g => match (g.thr tid).park with
    | some (.tlbinv kind x upto) =>
      let gone := s.tlb.filter (tlbHit s g.cxid kind x)
      if uncovered s gid tid upto ||
          (s.reqs.any fun r => r.blk.isNone && !r.performed && viaRemoved gone r.cxid r.va) ||
          (s.rus.any fun r => !r.applied && (ruVas r).any (viaRemoved gone r.cxid)) then .next s
      else
        let path := (pathOf s g.cxid (x.toNat % 2 ^ 57)).map Prod.fst
        let s := dropWalks (dropEnts s (tlbHit s g.cxid kind x)) fun w => match kind with
          | 0 => (w.cxid == g.cxid && path.contains w.va) || w.via.any (Hop.maps g.cxid x)
          | 1 => w.cxid == x.toNat
          | _ => inSubtree s x.toNat w.cxid
        let s := discardWhere s fun b => b.glob && viaRemoved gone b.cxid b.va
        .next (wake (learnAll (s.updThr gid tid Thread.release) gid [tid]))
    | _ => .next s

/-! ## WAITA (R221) -/

/-- The threads of a WAITA trap stand at its unit again, with their region entry there (R127, R221). -/
def backToWaita (s : State) (gid tid : Nat) : State :=
  s.updThr gid tid fun th => match th.park with
    | some (.waita _ _ _ _ _ upc) => { th with pc := upc, rpc := upc, park := none }
    | _ => th

/-- Whether a write of the thread's own to these bytes is not performed, a remote update included (R102, R272). -/
def ownPending (s : State) (gid tid b off n : Nat) : Bool :=
  (s.reqs.any fun r => r.gid == gid && r.tid == tid && r.blk.isNone && !r.performed && r.kind != .load && r.b == b &&
    decide (r.off < off + n ∧ off < r.off + r.size)) || ownRmw s gid tid b off n

/-- Raise a trap of threads of a group that are parked at one WAITA, at its own PC
(DEDUCED, notes/assumptions/53.md). -/
def waitaTrap (s : State) (gid : Nat) (ts : List Nat) (c : Cause) (f : DWord) (cx : Nat) (walk : Bool) : State :=
  let s := ts.foldl (fun s t => backToWaita s gid t) s
  match s.grp? gid with
  | some g => raise s g { cause := c, lanes := ts, fpc := (g.thr (ts.headD 0)).pc, faddr := f, cxid := cx, walk := walk }
  | none => s

/-- The word a thread's WAITA waits for, once its timeout has run out (DEDUCED, notes/assumptions/53.md). -/
def expiredAt (th : Thread) : Option DWord :=
  match th.park with
  | some (.waita _ _ va (some 0) _ _) => some va
  | _ => none

/-- Whether a group runs: its block is placed and its context runs on its core (R221, R226). -/
def Group.runs (s : State) (g : Group) : Bool :=
  s.groups.any (fun x => x.gid == g.gid) && runsOn s g.cxid g.core && g.hold.isNone

/-- WAITA_SATISFIED (R221): the word meets the condition; the load is an acquire at .sys. -/
def execWaitaSatisfied (gid tid : Nat) (s : State) : Host.Outcome State Fault Refusal :=
  match s.grp? gid with
  | none => .next s
  | some g => match (g.thr tid).park with
    | some (.waita ne val va _ _ _) =>
      if !g.runs s then .next s
      else match loadAt s g.cxid va 4 with
        | .error f => .next (waitaTrap (s.walked f.reads) gid [tid] f.cause f.va f.cxid f.walk)
        | .ok p =>
          if ownPending s gid tid p.b p.off 4 || acquiring s gid tid then .next s
          else
            let w : Word := BitVec.ofNat 32 (leNat (s.readBuf p.b p.off 4))
            let k := readFrom s (g.agent tid) 1 5 (readBefore s { b := p.b, off := p.off, n := 4 } 0 []).2
            if (w == val) != ne then
              .next (wake ((touch s p).updThr gid tid fun th => (th.learn s.nextId k).release))
            else .next s
    | _ => .next s

/-- Whether the word of a WAITA meets its condition, and has done so for longer than a load may miss a write: the thread has
observed it (R91, R221). -/
def waitaMet (s : State) (g : Group) (tid : Nat) : Bool :=
  match (g.thr tid).park with
  | some (.waita ne val va _ _ _) => match loadAt s g.cxid va 4 with
    | .error _ => false
    | .ok p => !ownPending s g.gid tid p.b p.off 4 && !acquiring s g.gid tid &&
        (s.writes { b := p.b, off := p.off, n := 4 }).all (fun w => !w.recent s g.cxid) &&
        (BitVec.ofNat 32 (leNat (s.readBuf p.b p.off 4)) == val) != ne
  | _ => false

/-- WATCHDOG (R221): the timeout of a WAITA has run out, for a thread and the threads of its group that wait at the same
WAITA with it; one that has observed its condition goes on instead (R91). -/
def execWatchdog (gid tid : Nat) (s : State) : Host.Outcome State Fault Refusal :=
  match s.grp? gid with
  | none => .next s
  | some g => match expiredAt (g.thr tid) with
    | some va =>
      if waitaMet s g tid then execWaitaSatisfied gid tid s
      else
        let ts := g.live.filter fun t => (expiredAt (g.thr t)).isSome && (g.thr t).pc == (g.thr tid).pc && !waitaMet s g t
        let va := (expiredAt (g.thr (ts.headD tid))).getD va
        if g.runs s then .next (waitaTrap s gid ts .watchdog va g.cxid false) else .next s
    | none => .next s

end Sys2Proof.Machine
end

