-- ==== Sys2Proof/Machine/MemSys.lean ====
section
/-! DEFINITION. What requests do in the memory system: order (R98 to R104, R272), performing at the point of
coherence (R91, R94, R395, R427), replies (R434, R448), and hot rows (R419). -/

namespace Sys2Proof.Machine

/-! ## Requests -/

/-- Change one request. -/
def State.updReq (s : State) (k : Nat) (f : Req → Req) : State :=
  { s with reqs := s.reqs.map fun r => if r.id == k then f r else r }

/-- The same bytes of the same memory. -/
def Req.meets (a b : Req) : Bool :=
  a.blk == b.blk && a.b == b.b && decide (a.off < b.off + b.size ∧ b.off < a.off + a.size)

/-- The same thread. -/
def Req.sameThr (a b : Req) : Bool := a.gid == b.gid && a.tid == b.tid

/-- Whether one ticket precedes another (R103). -/
def ticketFirst (x r : Option Nat) : Bool :=
  match x, r with
  | some a, some b => decide (a < b)
  | _, _ => false

/-- Whether an unperformed request has to be performed before a later one: by program order at one location, a
release, an acquire, a load before a store (R99, R101, R104), the lanes of one instruction, a multicast store's earlier
destinations first (R98, R218), or tickets at their home slice (R103) (DEDUCED, notes/assumptions/9.md). -/
def mustPrecede (s : State) (x r : Req) : Bool :=
  !x.performed && x.id != r.id &&
    ((x.sameThr r && decide (x.id < r.id) &&
        (x.meets r || relOrd r.ord || acqOrd x.ord || (x.kind == .load && r.kind != .load))) ||
      (x.inst == r.inst && x.gid == r.gid && decide (x.sub < r.sub ∨ (x.sub = r.sub ∧ x.tid < r.tid)) && x.meets r &&
        (x.kind != .load || r.kind != .load)) ||
      (ticketFirst x.ticket r.ticket && x.home s == r.home s))

/-- Whether a remote update goes to a base-die unit (Table 11-14). -/
def ruBase (s : State) (r : RuReq) : Bool :=
  (s.buf? r.b).map Buf.kind == some .hbm &&
    (ruPlace r.defn == 1 || (ruPlace r.defn == 2 && ((s.ctx? r.cxid).map fun c => c.wmask == 0).getD false))

/-- The home slices of a remote update's lines (R274). -/
def ruHomes (s : State) (r : RuReq) : List Nat :=
  ruSlice s r :: r.lines.filterMap fun l => l.bind fun e => (s.buf? e.1).map fun b => homeSlice b e.2

/-- Whether a remote update's ticket is next at the home slices of its lines (R103, R279). -/
def ruTurn (s : State) (r : RuReq) : Bool :=
  !(s.rus.any fun x => !x.applied && ticketFirst x.ticket r.ticket && (ruHomes s x).any (ruHomes s r).contains) &&
    !(s.reqs.any fun x => !x.performed && ticketFirst x.ticket r.ticket && (x.home s).any (ruHomes s r).contains)

/-- Whether a remote update covers bytes of a request. -/
def ruMeets (x : RuReq) (r : Req) : Bool := r.blk.isNone && x.covers r.b r.off r.size

/-- Whether a remote update has to be applied before a request: the thread's own earlier one on the same bytes (R272), or
any earlier one of its own that acquires (R279); one that arrived earlier at its home, which for a base-die unit holds
every access to its lines (R275, R277); or one of a lower ticket at the same home (R103). Outcomes
that Table 14-5 allows and R272 excludes do not occur (R324) (DEDUCED, notes/assumptions/66.md). -/
def ruPrecedes (s : State) (x : RuReq) (r : Req) : Bool :=
  !x.applied &&
    ((x.gid == r.gid && x.tid == r.tid && decide (x.id < r.id) && (ruMeets x r || (x.ropr && acqOrd x.ord))) ||
      (x.admitted && ruTurn s x && (r.arrived == 0 || decide (x.at_ < r.arrived)) && r.blk.isNone &&
        (if ruBase s x then x.coversLine r.b r.off r.size else ruMeets x r)) ||
      (ticketFirst x.ticket r.ticket && (r.home s).any (ruHomes s x).contains))

/-- Whether a request may take its place in coherence order now (DEDUCED, notes/assumptions/9.md). -/
def mayPerform (s : State) (r : Req) : Bool :=
  !(s.reqs.any fun x => mustPrecede s x r) && !(s.rus.any fun x => ruPrecedes s x r) && !atEngine s r.gid r.tid r.id

/-! ## Performing -/

/-- A load's value: memory's bytes, with the thread's own buffered bytes over them (R106). -/
def mergeFwd (r : Req) (bytes : List Byte) : DWord :=
  BitVec.ofNat 64 (leNat (bytes.mapIdx fun i y =>
    if (r.fwd >>> i) % 2 == 1 then BitVec.ofNat 8 (bitsOf r.data.toNat (8 * i) 8) else y))

/-- The value masked to a size in bytes. -/
def lowBytes (x : DWord) (n : Nat) : DWord := BitVec.ofNat 64 (x.toNat % 2 ^ (8 * n))

/-- The thread that made a request, as scope instances see it. -/
def Req.agent (s : State) (r : Req) : Agent :=
  match s.grp? r.gid with
  | some g => g.agent r.tid
  | none => { gid := r.gid, tid := r.tid, core := r.core }

/-- What a request's thread knows at it. -/
def Req.known (s : State) (r : Req) : Known :=
  match s.grp? r.gid with
  | some g => (g.thr r.tid).view.at_ r.id
  | none => {}

/-- The bytes of a request. -/
def Req.loc (r : Req) : Loc := { blk := r.blk, b := r.b, off := r.off, n := r.size }

/-- The number that the next write had when the first block of a request's grid was placed (R89). -/
def Req.gridStart (s : State) (r : Req) : Nat :=
  match (s.grp? r.gid).bind fun g => s.grid? g.gr with
  | some x => x.first
  | none => s.nextId

/-- Whether a load may miss a write: not its thread's own earlier one, not one that it knows (R99), and only for 4,096 clk
of its context's run time (R91); under the read-only hint, any one made since its grid's first block began, and none made
before (R89). -/
def mayMiss (s : State) (r : Req) (k : Known) (w : Wr) : Bool :=
  !(w.who.gid == r.gid && w.who.tid == r.tid && decide (w.op < r.id)) &&
    (if r.pol == 2 then decide (r.gridStart s ≤ w.id) else !k.sees w.id && w.recent s r.cxid)

/-- How many of the newest writes to its bytes a request misses: only a relaxed load misses any (R91). A read-only hint
beside an order of .acq or .sc changes nothing (DESIGN CHOICE, notes/assumptions/59.md). -/
def missed (s : State) (r : Req) : Nat :=
  if r.kind == .load && r.ord == 0 then missable (mayMiss s r (r.known s)) r.age (s.writes r.loc) else 0

/-- How a request's write is made: with the releases that it carries (R101). -/
def Req.by_ (s : State) (r : Req) (rmw : Bool) : By :=
  match s.grp? r.gid with
  | some g =>
    let own := if relOrd r.ord then [release s (g.thr r.tid).view (g.agent r.tid) r.id r.scope] else []
    { g.writeBy s r.tid r.id own with rmw := rmw }
  | none => { who := r.agent s, op := r.id, rmw := rmw }

/-- A request's thread has read from writes. -/
def learnRead (s : State) (r : Req) (ws : List Wr) : State :=
  s.updThr r.gid r.tid (Thread.learn r.id (readFrom s (r.agent s) r.ord r.scope ws))

/-- A request is performed with a value and a failure. -/
def Req.done (v : DWord) (bad : Option Cause) (r : Req) : Req :=
  { r with performed := true, stage := .done, val := v, bad := bad }

/-- A store of a thread is performed: matrix operations read its bytes from scratchpad from now on (R107, R237). -/
def dropOvl (s : State) (r : Req) : State :=
  { s with mxs := s.mxs.map fun m => if m.gid == r.gid && r.blk == some m.bid then
      let mine (l : List (Nat × Host.Cell)) (i : Nat) : List (Nat × Host.Cell) :=
        l.eraseP fun e => e.1 == r.tid && e.2.1 == r.off + i
      { m with ovl := (List.range r.size).foldl mine m.ovl }
    else m }

/-- Perform a scratchpad request on its block's allocation. -/
def performPad (s : State) (r : Req) (k : Nat) : State :=
  match s.blk? k with
  | none => s.updReq r.id (Req.done (mergeFwd r (List.replicate r.size 0)) none)
  | some b => match r.kind with
    | .store => ((dropOvl s r).writePad k r.off (leBytes r.size r.data.toNat) (r.by_ s false)).updReq r.id (Req.done 0 none)
    | _ =>
      let (bytes, ws) := readBefore s r.loc (missed s r) (Memory.getN b.pad r.off r.size)
      (learnRead s r ws).updReq r.id (Req.done (mergeFwd r bytes) none)

/-- Mark the slice's line of a byte as holding data newer than memory (R212). -/
def dirtyLine (s : State) (b off : Nat) : State :=
  { s with l2 := s.l2.map fun l => if l.b == b && l.line == off / 128 then { l with dirty := true } else l }

/-- Whether a store's request covers its whole atom: its pieces together (R423). -/
def wholeAtom (s : State) (r : Req) : Bool :=
  let ps := s.reqs.filter fun x => x.kind == .store && r.mate x && x.off / 32 == r.off / 32
  (List.range 32).all fun i => ps.any fun x => decide (x.off ≤ r.off / 32 * 32 + i ∧ r.off / 32 * 32 + i < x.off + x.size)

/-- An atom that is being written whole loses its poison (R395, R423). -/
def clearAtom (s : State) (b off : Nat) : State :=
  match (s.buf? b).bind fun x => place x off with
  | some a => { s with poison := s.poison.filter fun p => p != a / 32 }
  | none => s

/-- Perform a global request at the point of coherence: the frame is owned, the issuing core's older copy of the
line goes, and poison that is consumed fails the request (R91, R373, R395). The owner check is made again at memory: the frame
may have passed to another owner since the translation (R371) (DEDUCED, notes/assumptions/7.md). -/
def performMem (s : State) (r : Req) : State :=
  if !reaches s r.b r.off r.cxid r.opens then wake (s.updReq r.id (Req.done 0 (some .protection)))
  else
    let s := dropL1 (firstAccess s r.b r.off) r.core r.b (r.off / 128)
    let bad : Option Cause := if s.poisoned r.b r.off r.size then some .uncorrectable else none
    let s := { s with free := s.free + 1 }
    let new := loadBytes s r.b r.off r.size
    let (bytes, ws) := if erasing s r.b r.off then (new, []) else readBefore s r.loc (missed s r) new
    let old := BitVec.ofNat 64 (leNat bytes)
    let s := match r.kind with
      | .load => (learnRead s r ws).updReq r.id (Req.done (mergeFwd r bytes) bad)
      | .store =>
        let s := if wholeAtom s r then clearAtom s r.b r.off else s
        (dirtyLine (s.writeMem r.b r.off (leBytes r.size r.data.toNat) (r.by_ s false)) r.b r.off).updReq r.id (Req.done 0 none)
      | .rmw op b c =>
        let by_ := r.by_ s true
        let s' := if bad.isSome then s else match rmwNew op r.size old b c with
          | some x => dirtyLine (s.writeMem r.b r.off (leBytes r.size x.toNat) by_) r.b r.off
          | none => s
        (learnRead s' r ws).updReq r.id (Req.done old bad)
    wake (if r.kind == .load && r.pol != 1 && bad.isNone && !erasing s r.b r.off then fillL1 s r.core r.b r.off (ownerTag s r.b r.off) else s)

/-- Perform a request on a peer device: values are free, as is a refusal with PROTECTION; a link that is down gives
PEER_ABSENT (R17, R447, R448) (DESIGN CHOICE, notes/assumptions/39.md). -/
def performPeer (s : State) (r : Req) : State :=
  let bad : Option Cause := if peerDown s r.b then some .peerAbsent
    else if !reaches s r.b r.off r.cxid r.opens then some .protection
    else if Config.peerDenies s.free then some .protection else none
  let old : DWord := pairOf (Config.peerWord s.free 0) (Config.peerWord s.free 1)
  let s := dropL1 s r.core r.b (r.off / 128)
  let v : DWord := match r.kind with
    | .load => mergeFwd r (leBytes r.size old.toNat)
    | _ => lowBytes old r.size
  let s := { s with free := s.free + 1 }.updReq r.id (Req.done v bad)
  -- what a peer's memory releases is not known here: an acquire takes everything performed so far
  let s := if acqOrd r.ord && r.kind != .store then s.updThr r.gid r.tid (Thread.learn r.id s.allWrites) else s
  wake s

/-- Perform a request where it stands. -/
def perform (s : State) (r : Req) : State :=
  match r.blk with
  | some k => wake (performPad s r k)
  | none => if isPeer s r.b then performPeer s r else performMem s r

/-- Whether a relaxed load finds its line in the core's L1 (R91, R92). -/
def l1Hit (s : State) (r : Req) : Bool :=
  r.kind == .load && r.ord == 0 && r.blk.isNone &&
    s.l1.any fun c => c.core == l1Of s r.core && c.tag == r.owner && c.b == r.b && c.line == r.off / 128

/-! ## Replies -/

/-- Words of a request's answer, from its first word on (DEDUCED, notes/assumptions/37.md). -/
def replyWords (r : Req) (ws : List (Option Word)) : List (Option Word) :=
  let v := lowBytes r.val r.size
  let ws := ws.set r.word (some (pairLo v))
  if r.size = 8 then ws.set (r.word + 1) (some (pairHi v)) else ws

/-- Put an answer into the thread's pending result (R42); a failure stays there until the result would land. -/
def Thread.answer (r : Req) (th : Thread) : Thread :=
  { th with pend := th.pend.map fun p =>
      if p.id == r.pend then (match r.bad with
        | some c => { p with bad := some (p.bad.getD c), faddr := r.va }
        | none => { p with words := replyWords r p.words })
      else p }

/-- A reply arrives: results go to the pending result, and the failure of a store stops its thread (R434, R448). -/
def reply (s : State) (r : Req) : State :=
  let s := { s with reqs := s.reqs.filter fun x => x.id != r.id }
  match s.grp? r.gid with
  | none => s
  | some g => match r.kind, r.bad with
    | .store, some c =>
      if (g.thr r.tid).exited then s
      else wake (raise s g { cause := c, lanes := [r.tid], fpc := r.fpc, faddr := r.va, cxid := r.cxid, wr := true })
    | .store, none => wake s
    | _, _ => wake (s.updThr r.gid r.tid (Thread.answer r))

/-! ## Hot rows (R419) -/

/-- Threshold and hold of a channel (Table 19-6): 512 and 16 at reset; thresholds below 64 act as 64
(DESIGN CHOICE, notes/assumptions/20.md). -/
def hrowOf (s : State) (ch : Nat) : Nat × Nat :=
  match s.hrow.find? fun h => h.1 == ch with
  | some h => (max 64 h.2.1, h.2.2)
  | none => (512, 16)

/-- Count an activation of a row by a tenant; when the count reaches the threshold its sub-queue for the bank is held. The
refresh of the neighbouring rows and the turns of the sub-queues are times of the bank (R419) (DESIGN CHOICE,
notes/assumptions/20.md). -/
def activate (s : State) (ch bank row t : Nat) : State :=
  let win := s.clk / 2 ^ 25
  let old := s.rows.find? fun x => x.ch == ch && x.row == row && x.tenant == t && x.win == win
  let n := (old.map RowCount.n).getD 0 + 1
  let last := (old.map RowCount.fired).getD 0
  let rest := s.rows.filter fun x => !(x.ch == ch && x.row == row && x.tenant == t)
  let (thresh, hold) := hrowOf s ch
  let fire := decide (thresh ≤ n) && thresh != last
  { s with
    rows := { ch := ch, row := row, tenant := t, n := n, win := win, fired := if fire then thresh else last } :: rest
    holds := if fire && hold != 0 then ⟨ch, bank, t, s.clk + 64 * hold⟩ :: s.holds else s.holds }

/-- Whether a tenant's sub-queue for a bank is held. -/
def heldBank (s : State) (ch bank t : Nat) : Bool :=
  s.holds.any fun h => h.ch == ch && h.bank == bank && h.tenant == t

/-- The bank of an address of a channel (R419) (DESIGN CHOICE, notes/assumptions/20.md). -/
def bankOf (a : Nat) : Nat := a % chanBytes / 1024 % 16

/-- Where an engine's or a unit's access to a line reaches an HBM channel: the channel and its address, unless a slice holds the
line (R419). -/
def channelOf (s : State) (b off : Nat) : Option (Nat × Nat) :=
  match s.buf? b with
  | some x => if x.kind != .hbm || s.l2.any (fun l => l.b == b && l.line == off / 128) then none
    else (place x off).map fun a => (chanOf x off, a)
  | none => none

/-- Whether accesses of a context to lines wait for a throttled bank (R419). -/
def linesHeld (s : State) (cx : Nat) (ls : List (Nat × Nat)) : Bool :=
  ls.any fun e => (channelOf s e.1 e.2).any fun c => heldBank s c.1 (bankOf c.2) (tenant s cx)

/-- Accesses of a context to lines activate their rows (R419). -/
def activateLines (s : State) (cx : Nat) (ls : List (Nat × Nat)) : State :=
  ls.foldl (fun s e => match channelOf s e.1 e.2 with
    | some c => activate s c.1 (bankOf c.2) (c.2 % chanBytes / 1024) (tenant s cx)
    | none => s) s

end Sys2Proof.Machine
end

