-- ==== Sys2Proof/Machine/BtEv.lean ====
section
/-! DEFINITION. The block-transfer channels at work (R287 to R300, R428). -/

namespace Sys2Proof.Machine

/-- Change one operation. -/
def State.updBt (s : State) (k : Nat) (f : BtOp → BtOp) : State :=
  { s with bts := s.bts.map fun b => if b.id == k then f b else b }

/-- The operation. -/
def State.bt? (s : State) (k : Nat) : Option BtOp := s.bts.find? fun b => b.id == k

/-- A record stops at a failed check: its code, the address for the trap record, and whether the access that failed writes. For a
TCOPY that is rejected before any access the address is 0 (R298) (DESIGN CHOICE, notes/assumptions/38.md). -/
def btFail (s : State) (k code : Nat) (f : DWord) (wr : Bool := false) : State :=
  s.updBt k fun b => { b with fault := some code, faddr := f, fwr := wr }

/-- The grid that a trap of an operation names: that of the issuing group (R356, R384). -/
def btGrid (s : State) (o : BtOp) : Nat := ((s.grp? o.gid).map (fatalGrid s)).getD 0

/-- An engine access failed: an absent page waits and raises PAGE_FAULT; any other failure faults the record, at the data address
for a TCOPY (R298, R377). -/
def btXFault (s : State) (o : BtOp) (f : XFault) (wr : Bool) : State :=
  let s := s.walked f.reads
  if f.cause = .pageFault then
    (raiseAsync s f.cxid .pageFault f.va true (s.grp? o.gid) (.bt o.id) 0 f.walk (wr && !f.walk) (btGrid s o)).updBt o.id fun b =>
      { b with waits := true }
  else btFail s o.id f.cause.code (if o.tcopy.isSome then f.data.getD f.va else o.ptr) (wr && !f.walk)

/-- Whether earlier operations of the channel have started, and what the instruction releases is performed (R107, R287). -/
def btMayStart (s : State) (o : BtOp) : Bool :=
  s.bts.all (fun x => x.core != o.core || x.ch != o.ch || decide (o.id ≤ x.id) || x.started) &&
    o.tids.all fun t => !uncovered s o.gid t o.id

/-- Whether records that name a block's storage are held: it is being saved urgently, or is not placed, and its grid goes on (R300,
R384, R389). -/
def btHolds (s : State) (o : BtOp) : Bool :=
  match s.blk? o.bid with
  | some b => (b.saved.isSome || (!b.full && (b.pre.map Pre.urgent).getD false)) && !((s.grid? b.gr).any fun x => x.ending.isSome)
  | none => false

/-- Scratchpad bytes of the operation's block (R86). -/
def btPad (s : State) (o : BtOp) : Nat := ((s.blk? o.bid).map Block.size).getD 0

/-- Take up a record with its shape record: the checks of R291, then the record is in progress. -/
def btTake (s : State) (o : BtOp) (w sh : List Word) : State :=
  let x := btExtent w sh
  if btShapeBad w sh || btPadBad w x (btPad s o) || (btMapv w && decide (2 ^ 22 < x)) || btSpaceBad s o.cxid w x then
    btFail s o.id 0x12 o.ptr
  else if btHolds s o && (!btGlob w || btMapv w) then s
  else
    let r : BtRec := { addr := o.ptr, w := w, shape := sh, extent := x, checked := (btAbsent s o.cxid w x).isNone }
    s.updBt o.id fun b => { b with started := true, cur := some r }

/-- Whether a free permit stands ready for an engine's access to the line of an address (R432). -/
def lineFree (s : State) (o : BtOp) (a : DWord) : Bool :=
  match gaccess s o.cxid a 1 {} with
  | .ok p => permitFree s o.core p.b p.off
  | .error _ => true

/-- Whether a record at an address may be read now: two tokens and a permit (R414, R432). -/
def mayRead (s : State) (o : BtOp) (a : DWord) : Bool := hasTokens s o.cxid 2 && lineFree s o a

/-- Check a record's fields, and read the shape record of a TENSOR; none while that has to wait. -/
def btCheck (s : State) (o : BtOp) (w : List Word) : Option State :=
  if btFieldsBad w || btMisaligned w then some (btFail s o.id 0x12 o.ptr)
  else if btKind w = 1 then
    if (btSrc w).toNat % 64 ≠ 0 then some (btFail s o.id 0x12 o.ptr)
    else if !mayRead s o (btSrc w) then none
    else match readRec s o.cxid (btSrc w) 64 with
      | .error f => some (btXFault s o { f with data := some (btSrc w) } false)
      | .ok (sh, p) => some (btTake (takeTokens (touch s p) o.cxid 2) o w sh)
  else some (btTake s o w [])

/-- BT_RECORD_START (R288 to R291): the next owned record of the chain is read and checked. -/
def execBtRecordStart (op : Nat) (s : State) : Host.Outcome State Fault Refusal :=
  match s.bt? op with
  | none => .next s
  | some o =>
    if o.cur.isSome || o.fault.isSome || o.stop || o.waits || !btMayStart s o then .next s
    else match o.tcopy with
      | some w => .next ((btCheck s o w).getD s)
      | none =>
        if o.ptr = 0 then .next (s.updBt op fun b => { b with stop := true, started := true })
        else if !mayRead s o o.ptr then .next s
        else match readRec s o.cxid o.ptr 64 with
          | .error f => .next (btXFault s o f false)
          | .ok (w, p) =>
            let t := takeTokens (touch s p) o.cxid 2
            if !btOwn w then .next (t.updBt op fun b => { b with stop := true, started := true })
            else .next ((btCheck t o w).getD s)

/-! ## Sources -/

/-- The page of a PAGELIST record that a destination byte belongs to. -/
def btPageOf (r : BtRec) (i : Nat) : Nat := i / btPage r.w

/-- Source of one destination byte: the address of its source byte, or none for a zero (R292 to R295). Entries of the page
index have been read. -/
def btSource (r : BtRec) (i : Nat) : Option DWord :=
  let w := r.w
  match btKind w with
  | 1 =>
    let z := shZ r.shape
    let d := shD r.shape
    let (_, cs) := (List.range d).foldl (fun a k => (a.1 / max 1 (shB r.shape k), a.2 ++ [a.1 % max 1 (shB r.shape k)])) (i / z, [])
    let c (k : Nat) : Int := btOrigin w k + (cs.getD k 0 : Nat)
    if (List.range d).all fun k => decide (0 ≤ c k ∧ c k < (shE r.shape k : Nat)) then
      some (dAt r.shape 0 + BitVec.ofNat 64 (((List.range d).map fun k => (c k).toNat * shSt r.shape k).sum + i % z))
    else none
  | 2 =>
    let e := (assoc (btPageOf r i) r.ents).getD 1
    if e = 1 then none else some (e + BitVec.ofNat 64 (i % btPage w))
  | _ => some (btSrc w + BitVec.ofNat 64 i)

/-- The aligned 8-byte unit that a byte lies in. -/
def unitOf (a : DWord) : DWord := BitVec.ofNat 64 (a.toNat / 8 * 8)

/-- Read the page index entry of a page, once for the record (R294): a relaxed 8-byte load. -/
def readEntry (s : State) (o : BtOp) (r : BtRec) (j : Nat) : Except XFault (State × BtRec) :=
  if btKind r.w ≠ 2 ∨ (assoc j r.ents).isSome = true then .ok (s, r)
  else match loadAt s o.cxid (btSrc r.w + BitVec.ofNat 64 (8 * j)) 8 with
    | .error f => .error { f with data := some (btSrc r.w + BitVec.ofNat 64 (8 * j)) }
    | .ok p =>
      let e : DWord := BitVec.ofNat 64 (leNat (s.readBuf p.b p.off 8))
      if e ≠ 1 ∧ e.toNat % 128 ≠ 0 then .error { cause := .misaligned, cxid := o.cxid, va := e, rank := 0 }
      else .ok (touch s p, { r with ents := (j, e) :: r.ents })

/-- Read the units of source bytes that the record has not read yet, each at once (R299): loads of the context. A failure names the
first byte that the record needs of the unit (R298). -/
def readUnits (s : State) (o : BtOp) (r : BtRec) : List DWord → Except XFault (State × BtRec)
  | [] => .ok (s, r)
  | x :: as =>
    let a := unitOf x
    if r.units.any fun x => x.1 == a then readUnits s o r as
    else match loadAt s o.cxid a 8 with
      | .error f => .error { f with data := some x, va := if f.walk || f.cxid != o.cxid then f.va else x }
      | .ok p =>
        let x : DWord := BitVec.ofNat 64 (leNat (loadBytes s p.b p.off 8))
        readUnits (touch s p) o { r with units := (a, x) :: r.units } as

/-- Values of n destination bytes from a place in the extent, with the record's reads up to there. -/
def btBytes (s : State) (o : BtOp) (r : BtRec) (i n : Nat) : Except XFault (State × BtRec × List Byte) :=
  match readEntry s o r (btPageOf r i) with
  | .error f => .error f
  | .ok (s, r) =>
    let as := (List.range n).map fun k => btSource r (i + k)
    match readUnits s o r (as.filterMap id) with
    | .error f => .error f
    | .ok (s, r) => .ok (s, r, as.map fun a => match a with
      | none => 0
      | some a => BitVec.ofNat 8 (bitsOf (((r.units.find? fun x => x.1 == unitOf a).map Prod.snd).getD 0).toNat (8 * (a.toNat % 8)) 8))

/-! ## Writes -/

/-- Bytes in chunk c of an extent (R297). -/
def chunkLen (x c : Nat) : Nat := min 512 (x - 512 * c)

/-- Chunks of an extent. -/
def chunkCount (x : Nat) : Nat := ceilDiv x 512

/-- Runs of at most m bytes into which a run is cut at multiples of m: their offsets in it and lengths. -/
def cuts (m a n : Nat) : List (Nat × Nat) :=
  (List.range (ceilDiv (a % m + n) m)).map fun k =>
    let lo := m * k - a % m
    (lo, min n (m * (k + 1) - a % m) - lo)

/-- The place of a chunk in its destination space. -/
def chunkDst (r : BtRec) (c : Nat) : Nat := (if btGlob r.w then (btDst r.w).toNat else wAt r.w 6) + 512 * c

/-- What the threads that issued an operation released with it (R107). -/
def btStart (s : State) (o : BtOp) : Rel :=
  match s.grp? o.gid with
  | some g => releaseOf s g o.tids o.id 4
  | none => { scope := 4, who := {} }

/-- How the engine makes the writes of an operation: after what its issue released (R95, R107). -/
def BtOp.by_ (s : State) (o : BtOp) : By :=
  { who := { gid := o.gid, tid := 64, bid := o.bid, core := o.core }, op := o.id, pre := (btStart s o).known }

/-- What a write of an operation releases: what its issuing threads released (R107), and all that it has written itself. -/
def btRel (s : State) (o : BtOp) (scope : Nat) : Rel :=
  let start := btStart s o
  { scope := scope, who := (o.by_ s).who, base := start.base, hb := union start.hb (effects s o.id) }

/-- The places of the atoms of a run of global bytes, each checked as a store of the context: with its bytes. -/
def btPlaces (s : State) (o : BtOp) (va : DWord) (ys : List Byte) : Except XFault (List (Spot × List Byte)) :=
  (cuts 32 va.toNat ys.length).foldl (fun acc e => match acc with
    | .error f => .error f
    | .ok ps => match storeAt s o.cxid (va + BitVec.ofNat 64 e.1) e.2 with
      | .error f => .error { f with data := some (va + BitVec.ofNat 64 e.1) }
      | .ok p => .ok (ps ++ [(p, (ys.drop e.1).take e.2)])) (.ok [])

/-- Perform one write of a chunk: `e` is its offset and length in the chunk (R300). A poisoned atom that is written whole loses
its poison (R395, R423). -/
def btPiece (s : State) (o : BtOp) (r : BtRec) (c : Nat) (e : Nat × Nat) : Except (XFault × Bool) (State × BtRec) :=
  match btBytes s o r (512 * c + e.1) e.2 with
  | .error f => .error (f, false)
  | .ok (s, r, ys) =>
    if btGlob r.w then
      match btPlaces s o (btDst r.w + BitVec.ofNat 64 (512 * c + e.1)) ys with
      | .error f => .error (f, true)
      | .ok ps => .ok (ps.foldl (fun s x => (touch s x.1).writeMem x.1.b x.1.off x.2 (o.by_ s)) s, r)
    else .ok (s.writePad o.bid (chunkDst r c + e.1) ys (o.by_ s), r)

/-- Perform writes of a chunk one after the other; those before a failed one stay. -/
def btPieces (s : State) (o : BtOp) (c : Nat) : BtRec → List (Nat × Nat) → State × BtRec × Option (XFault × Bool)
  | r, [] => (s, r, none)
  | r, e :: es =>
    if r.pieces.contains (c, e.1) then btPieces s o c r es
    else match btPiece s o r c e with
      | .error f => (s, r, some f)
      | .ok (s, r) => btPieces s o c { r with pieces := (c, e.1) :: r.pieces } es

/-- The writes of a chunk, none across a multiple of 128 bytes of the destination. -/
def chunkCuts (r : BtRec) (c : Nat) : List (Nat × Nat) := cuts 128 (chunkDst r c) (chunkLen r.extent c)

/-- The record of an operation after reads and writes. -/
def State.setRec (s : State) (o : BtOp) (r : BtRec) : State := s.updBt o.id fun b => { b with cur := some r }

/-- Set an arrival bit in the block's scratchpad: an OR that releases the operation's writes at .blk (R297). -/
def setArrival (s : State) (o : BtOp) (w : List Word) (c : Nat) : State :=
  if !btMapv w then s
  else
    let a := btMapo w + c / 8
    match s.blk? o.bid with
    | none => s
    | some b => s.writePad o.bid a [Memory.get b.pad a ||| (1 <<< (c % 8))] { o.by_ s with rels := [btRel s o 1], rmw := true }

/-- Arrival bits of chunks. -/
def setArrivals (s : State) (o : BtOp) (w : List Word) (cs : List Nat) : State := cs.foldl (fun s c => setArrival s o w c) s

/-- The flash page of an APPEND and its erase block's state (R428). -/
def appendOk (s : State) (p : Spot) : Bool :=
  match s.buf? p.b with
  | none => false
  | some b =>
    let page := flashPage b p.off
    let k := (s.flash.find? fun k => k.blk == page / 256).getD ⟨page / 256, 0, false, 0⟩
    !k.erasing && page % 256 == k.wp

/-- Whether a line of a buffer lies in a flash page (R426). -/
def lineInPage (s : State) (b line page : Nat) : Bool :=
  match s.buf? b with
  | some x => x.kind == .flash && flashPage x (128 * line) == page
  | none => false

/-- A flash page is written: its bytes, without poison, and the write pointer; no cache keeps its lines, through whichever buffer
(R395, R428). -/
def appendPage (s : State) (p : Spot) (ys : List Byte) : State :=
  match s.buf? p.b with
  | none => s
  | some b =>
    let page := flashPage b p.off
    let k := (s.flash.find? fun k => k.blk == page / 256).getD ⟨page / 256, 0, false, 0⟩
    let s := s.writeBuf p.b p.off ys
    { s with
      flash := { k with wp := k.wp + 1 } :: s.flash.filter fun x => x.blk != page / 256
      poison := s.poison.filter fun x => !decide ((flashBase + 4096 * page) / 32 ≤ x ∧ x < (flashBase + 4096 * page) / 32 + 128)
      hist := s.hist.filter fun w => !(w.blk.isNone && lineInPage s w.b (w.off / 128) page)
      l1 := s.l1.filter fun c => !lineInPage s c.b c.line page
      l2 := s.l2.filter fun c => !lineInPage s c.b c.line page }

/-- The place of an APPEND page: checked as a store of the context would be, but for the write right of its FLASH buffer, which
no such buffer has (R295, R371, Table 17-8) (DEDUCED, notes/assumptions/62.md). -/
def appendPlace (s : State) (o : BtOp) (va : DWord) : Except XFault Spot :=
  match gaccess s o.cxid va 4096 {} with
  | .error f => .error f
  | .ok p =>
    if ((s.buf? p.b).map Buf.kind) != some .flash || !p.ent.w then
      .error { cause := .protection, cxid := o.cxid, va := va, rank := 5 }
    else .ok p

/-- Mark chunks as landed. -/
def btLanded (s : State) (o : BtOp) (cs : List Nat) : State :=
  s.updBt o.id fun b => { b with cur := b.cur.map fun r => { r with landed := r.landed ++ cs } }

/-- A whole page of an APPEND lands with its last chunk. -/
def landPage (s : State) (o : BtOp) (r : BtRec) (c : Nat) : State :=
  let k := c / 8
  let group := (List.range 8).map fun i => 8 * k + i
  if !(group.all fun i => i == c || r.landed.contains i) then btLanded s o [c]
  else
    let va := btDst r.w + BitVec.ofNat 64 (4096 * k)
    match btBytes s o r (4096 * k) 4096 with
    | .error f => btXFault s o f false
    | .ok (s, r, ys) => match appendPlace s o va with
      | .error f => btXFault (s.setRec o r) o f true
      | .ok p =>
        if appendOk s p then
          wake (setArrivals (btLanded (appendPage (cacheEnt (s.setRec o r) p.ent) p ys) o [c]) o r.w group)
        else btXFault (s.setRec o r) o { cause := .protection, cxid := o.cxid, va := va, rank := 9 } true

/-- A chunk of another record lands: what remains of its writes is performed, then its arrival bit is set (R297). -/
def landChunk (s : State) (o : BtOp) (r : BtRec) (c : Nat) : State :=
  match btPieces s o c r (chunkCuts r c) with
  | (s, r, some f) => btXFault (s.setRec o r) o f.1 f.2
  | (s, r, none) => wake (setArrival (btLanded (s.setRec o r) o [c]) o r.w c)

/-- Sectors of memory that a chunk reads of its source; a hole has none (R414). -/
def chunkReads (r : BtRec) (c : Nat) : Nat :=
  ((List.range (chunkLen r.extent c)).filterMap fun k => (btSource r (512 * c + k)).map fun a => a.toNat / 32).eraseDups.length

/-- Sectors that a chunk writes to memory (R414). -/
def chunkWrites (r : BtRec) (c : Nat) : Nat := if btGlob r.w then (cuts 32 (chunkDst r c) (chunkLen r.extent c)).length else 0

/-- Tokens that a chunk takes: its reads and its writes, each counted on its own (R414) (DESIGN CHOICE,
notes/assumptions/60.md). -/
def chunkTokens (r : BtRec) (c : Nat) : Nat := chunkReads r c + chunkWrites r c

/-- Addresses of the lines of memory that a chunk reads and writes. -/
def chunkLines (r : BtRec) (c : Nat) : List DWord :=
  let src := ((List.range (chunkLen r.extent c)).filterMap fun k => (btSource r (512 * c + k)).map fun a => a.toNat / 128).eraseDups
  let dst := if btGlob r.w then (cuts 128 (chunkDst r c) (chunkLen r.extent c)).map fun e => (chunkDst r c + e.1) / 128 else []
  (src ++ dst).map fun k => BitVec.ofNat 64 (128 * k)

/-- Places of those lines, where they translate. -/
def chunkSpots (s : State) (o : BtOp) (r : BtRec) (c : Nat) : List (Nat × Nat) :=
  (chunkLines r c).filterMap fun a => match gaccess s o.cxid a 1 {} with
    | .ok p => some (p.b, p.off)
    | .error _ => none

/-- Whether a chunk of an operation may be written now. -/
def chunkDue (o : BtOp) (r : BtRec) (c : Nat) : Bool :=
  o.fault.isNone && !o.waits && !r.landed.contains c && decide (c < chunkCount r.extent)

/-- What stands before the first write of a record whose destination was not all present when it was taken up: the spaces of
R291, with the pages that are absent resolved; the state of a check that fails or waits. -/
def btUnchecked (s : State) (o : BtOp) (r : BtRec) : Option State :=
  if r.checked then none
  else if btSpaceBad s o.cxid r.w r.extent then some (btFail s o.id 0x12 o.ptr)
  else (btAbsent s o.cxid r.w r.extent).map fun f => btXFault s o f true

/-- A chunk before its first access: the record's checks, its page index entry, its tokens, and its permits and banks at
the lines it touches (R291, R294, R414, R419, R432). A chunk that owes more than the smallest bucket holds pays in parts
(DESIGN CHOICE, notes/assumptions/60.md). The state stands where the chunk does not go on. -/
def chunkStart (s : State) (o : BtOp) (r : BtRec) (c : Nat) : Except State (State × BtRec) :=
  match btUnchecked s o r with
  | some t => .error t
  | none => match readEntry s o { r with checked := true } (btPageOf r (512 * c)) with
    | .error f => .error (btXFault s o f false)
    | .ok (t, q) =>
      let paid := (assoc c q.paid).getD 0
      let entry := q.ents.length - r.ents.length
      let owes := chunkTokens q c + entry - paid
      if !hasTokens s o.cxid (min owes 64) || !(chunkLines q c).all (lineFree s o) || linesHeld s o.cxid (chunkSpots s o q c) then .error s
      else if 64 < owes then .error ((takeTokens t o.cxid 64).setRec o { q with paid := assocSet c (paid + 64 - entry) q.paid })
      else .ok (activateLines (takeTokens t o.cxid owes) o.cxid (chunkSpots s o q c), { q with paid := assocSet c (paid + owes - entry) q.paid })

/-- BT_CHUNK_LANDED (R292 to R297): a chunk's bytes are performed and its arrival bit is set. -/
def execBtChunkLanded (op chunk : Nat) (s : State) : Host.Outcome State Fault Refusal :=
  match s.bt? op with
  | none => .next s
  | some o => match o.cur with
    | none => .next s
    | some r =>
      if !chunkDue o r chunk then .next s
      else match chunkStart s o r chunk with
        | .error t => .next t
        | .ok (s, r) =>
          let s : State := { s with free := s.free + 1 }
          .next (if btKind r.w = 3 then landPage s o r chunk else landChunk s o r chunk)

/-- One write of a chunk is performed ahead of its landing (R300). -/
def copyTurn (op chunk piece : Nat) (s : State) : State :=
  match s.bt? op with
  | none => s
  | some o => match o.cur with
    | none => s
    | some r =>
      if !chunkDue o r chunk || btKind r.w == 3 then s
      else match chunkStart s o r chunk with
        | .error t => t
        | .ok (s, r) => match btPieces { s with free := s.free + 1 } o chunk r (((chunkCuts r chunk).drop piece).take 1) with
          | (s, r, some f) => btXFault (s.setRec o r) o f.1 f.2
          | (s, r, none) => s.setRec o r

/-! ## Accesses that fail on their way (R430, R448) -/

/-- The first access of an operation that is still to be made and lies in a buffer of a kind: its address, the place of its write in
the record if it writes, or nothing for a read. -/
def btNextIn (s : State) (o : BtOp) (kind : BufKind) : Option (DWord × Option (Nat × Nat)) :=
  let inKind (a : DWord) : Bool := match gaccess s o.cxid a 1 {} with
    | .ok p => (s.buf? p.b).map Buf.kind == some kind
    | .error _ => false
  match o.cur with
  | none => if !o.stop && o.tcopy.isNone && o.ptr != 0 && inKind o.ptr then some (o.ptr, none) else none
  | some r =>
    ((List.range (chunkCount r.extent)).filter fun c => !r.landed.contains c).findSome? fun c =>
      match ((List.range (chunkLen r.extent c)).filterMap fun k => btSource r (512 * c + k)).find? inKind with
      | some a => some (a, none)
      | none => if !btGlob r.w then none
        else ((chunkCuts r c).filter fun e => !r.pieces.contains (c, e.1)).findSome? fun e =>
          let a : DWord := BitVec.ofNat 64 (chunkDst r c + e.1)
          if inKind a then some (a, some (c, e.1)) else none

/-- An operation's access to a peer has no answer: its record is faulted (R298, R448). No time of an engine's access is kept
(DESIGN CHOICE, notes/assumptions/39.md). -/
def btPeerFail (s : State) (o : BtOp) : State :=
  if o.fault.isSome || o.waits then s
  else match btNextIn s o .peer with
    | some (a, w) => btXFault s o { cause := .peerAbsent, cxid := o.cxid, va := a, rank := 9, data := some a } w.isSome
    | none => s

/-- An operation's access to a CXL line is not completed: a read is poisoned, a write is dropped and reported (R298, R430). -/
def btCxlFail (s : State) (o : BtOp) : State :=
  if o.fault.isSome || o.waits then s
  else match btNextIn s o .cxl with
    | some (a, none) => btXFault s o { cause := .uncorrectable, cxid := o.cxid, va := a, rank := 10, data := some a } false
    | some (_, some e) =>
      { s.updBt o.id (fun b => { b with cur := b.cur.map fun r => { r with pieces := e :: r.pieces } }) with reports := s.reports ++ [2] }
    | none => s

/-! ## The end of a record -/

/-- Places of the completion word and of the word that holds the ownership bit, checked before either is written. -/
def btEndPlaces (s : State) (o : BtOp) (r : BtRec) : Except XFault (Option Spot × Option Spot) :=
  let cw : Except XFault (Option Spot) :=
    if !btCwv r.w then .ok none
    else match (if btCwm r.w then loadAt s o.cxid (btCaddr r.w) 4 .rmw else storeAt s o.cxid (btCaddr r.w) 4) with
      | .ok p => .ok (some p)
      | .error f => .error { f with data := some (btCaddr r.w) }
  match cw with
  | .error f => .error f
  | .ok c =>
    if o.tcopy.isSome then .ok (c, none)
    else match storeAt s o.cxid (r.addr + 8) 4 with
      | .ok p => .ok (c, some p)
      | .error f => .error f

/-- Write the completion word: the value, or the sum, as a release at .dev that covers the record (R110, R296). -/
def writeCompletion (s : State) (o : BtOp) (w : List Word) (p : Option Spot) : State :=
  match p with
  | none => s
  | some p =>
    let old := leNat (s.readBuf p.b p.off 4)
    let x := if btCwm w then (old + (btCval w).toNat) % 2 ^ 32 else (btCval w).toNat
    (touch s p).writeMem p.b p.off (leBytes 4 x) { o.by_ s with rels := [btRel s o 4], rmw := btCwm w }

/-- BT_RECORD_COMPLETE (R288, R296): the completion word is written, then the ownership bit is cleared. -/
def execBtRecordComplete (op : Nat) (s : State) : Host.Outcome State Fault Refusal :=
  match s.bt? op with
  | none => .next s
  | some o => match o.cur with
    | none => .next s
    | some r =>
      if o.fault.isSome || o.waits || !((List.range (chunkCount r.extent)).all fun c => r.landed.contains c) then .next s
      else match btEndPlaces s o r with
        | .error f => .next (btXFault s o f true)
        | .ok (c, own) =>
          let s := writeCompletion { s with free := s.free + 1 } o r.w c
          let s := match own with
            | some p => (touch s p).writeMem p.b p.off (leBytes 4 (wAt r.w 2 % 2 ^ 31)) (o.by_ s)
            | none => s
          let next := btNext r.w
          .next (s.updBt op fun b => { b with cur := none, ptr := next, stop := b.tcopy.isSome || next == 0 })

/-- BT_RECORD_FAULT (R298): the chain stops, the cause is kept for BTX.STAT, and BT_FAULT goes to the context. -/
def execBtRecordFault (op : Nat) (s : State) : Host.Outcome State Fault Refusal :=
  match s.bt? op with
  | none => .next s
  | some o => match o.fault with
    | none => .next s
    | some code =>
      let s := s.updGrp o.gid fun g => { g with btc := g.btc.set o.ch code }
      let s := raiseAsync s o.cxid .btFault o.faddr true (s.grp? o.gid) (.bt op) code false o.fwr (btGrid s o)
      .next (s.updBt op fun b => { b with fault := none, cur := none, stop := true, started := true })

/-- BT_OPERATION_COMPLETE (R108, R288): the operation retires from cnt.bt in issue order, once a trap that it raised is delivered
(R381). -/
def execBtOperationComplete (op : Nat) (s : State) : Host.Outcome State Fault Refusal :=
  match s.bt? op with
  | none => .next s
  | some o =>
    if o.stop && o.fault.isNone && !trapHeld s (.bt op) then
      .next (wake ({ s with bts := s.bts.filter fun b => b.id != op }.updGrp o.gid fun g => g.opDone op (effects s op)))
    else .next s

end Sys2Proof.Machine
end

