-- ==== Sys2Proof/Machine/Sfu.lean ====
section
/-! DEFINITION. The seven special-function estimates (R76, R77, R189). The special operands, the exact
cases and the table beyond 2^20 are computed. Everywhere else the device answers some value inside the
bound of Table 4-4: the free estimate of Config where it lies inside, else a reference value computed
here in fixed point, which does (notes/assumptions/6.md). -/

namespace Sys2Proof.Machine

/-- Fraction bits of the fixed-point reference arithmetic. -/
def sfuBits : Nat := 96

/-- ln 2 in fixed point. -/
def fxLn2 : Nat := 54916777467707473351141471128
/-- pi in fixed point. -/
def fxPi : Nat := 248902613312231085230521944622
/-- 1 in fixed point. -/
def fxOne : Nat := 2 ^ 96

/-- Terms of the series of e^z from the term number k on, for z below 1. -/
def fxExpTerms (z : Nat) : Nat → Nat → Nat → Nat
  | 0, _, _ => 0
  | fuel + 1, k, t => t + fxExpTerms z fuel (k + 1) (t * z / fxOne / k)

/-- 2^y for y in [0, 1), in fixed point. -/
def fxExp2 (y : Nat) : Nat := fxExpTerms (y * fxLn2 / fxOne) 30 1 fxOne

/-- Bits of log2 of a fixed-point number in [1, 2), by repeated squaring. -/
def fxLog2Bits : Nat → Nat → Nat → Nat
  | 0, _, acc => acc
  | fuel + 1, m, acc =>
    let q := m * m / fxOne
    if q ≥ 2 * fxOne then fxLog2Bits fuel (q / 2) (2 * acc + 1) else fxLog2Bits fuel q (2 * acc)

/-- Alternating series of sine or cosine from a first term: each step multiplies by z^2/(k(k+1)). -/
def fxTrigTerms (z2 : Nat) : Nat → Nat → Int → Int
  | 0, _, _ => 0
  | fuel + 1, k, t => t + fxTrigTerms z2 fuel (k + 2) (-(t * z2 / fxOne / (k * (k + 1))))

/-- sin(pi y) for y in [0, 1/2], in fixed point. -/
def fxSinPi (y : Nat) : Int :=
  let z := y * fxPi / fxOne
  fxTrigTerms (z * z / fxOne) 16 2 z

/-- A magnitude m * 2^e in fixed point, for e at least -96 after scaling; bits below are dropped. -/
def toFx (m : Nat) (e : Int) : Nat :=
  if e + 96 ≥ 0 then m <<< (e + 96).toNat else roundShift .rz false m (-(e + 96)).toNat

/-- sin(pi x) for |x| = m * 2^e, with the sign of x left out. -/
def sinPiAbs (m : Nat) (e : Int) : Int :=
  -- |x| mod 2, exact for the part above 2^-96
  let y := (if e ≥ 2 then 0 else toFx m e) % (2 * fxOne)
  let half := y / fxOne
  let r := y % fxOne
  let r' := if 2 * r > fxOne then fxOne - r else r
  let v := fxSinPi r'
  if half = 1 then -v else v

/-- The dyadic value of a fixed-point integer. -/
def ofFx (x : Int) : FVal := .fin (x < 0) x.natAbs (-96)

/-- 2^40 - 1: a bound of 2^-n is taken as this times 2^-(n + 40), which leaves room for the error of the reference. -/
def sfuEdge : Nat := 2 ^ 40 - 1

/-- Reference value and tolerance of an estimate at a finite non-special operand. -/
def sfuRef (fn : Nat) (s : Bool) (m : Nat) (e : Int) : FVal × FVal :=
  let top : Int := (Nat.log2 m : Int) + e
  match fn with
  | 0 =>
    -- 1/x with 80 bits below the leading one
    let q := 2 ^ (Nat.log2 m + 80) / m
    let v : FVal := .fin s q (-(Nat.log2 m : Int) - 80 - e)
    if top > 126 ∨ (top = 126 ∧ m ≠ 2 ^ Nat.log2 m) then (v, .fin false sfuEdge (-179))
    else (v, mulF v.abs (.fin false sfuEdge (-53)))
  | 1 =>
    -- x = m * 2^e; scale m so that the exponent is even, then the root of 2^160 / m
    let m' := if e % 2 = 0 then m else 2 * m
    let e' := if e % 2 = 0 then e else e - 1
    let k := Nat.log2 m'
    let n := 2 ^ (2 * ((k + 1) / 2) + 120) / m'
    let rec root : Nat → Nat → Nat
      | 0, x => x
      | fuel + 1, x => let y := (x + n / x) / 2; if y < x then root fuel y else x
    let v : FVal := .fin false (root 80 (2 ^ 62)) (-(((k + 1) / 2 : Nat) : Int) - 60 - e' / 2)
    (v, mulF v (.fin false sfuEdge (-53)))
  | 2 =>
    -- 2^x: integer part and fraction of x
    let ip := intF .rd s m e
    let fr := (if s then (fxOne - toFx m e % fxOne) % fxOne else toFx m e % fxOne)
    let ip := if s ∧ fr = 0 ∧ ip + 1 = 0 ∧ top < -96 then 0 else ip
    let v : FVal := .fin false (fxExp2 fr) (ip - 96)
    let tol : FVal :=
      if top < 0 ∨ (top = 0 ∧ m = 2 ^ Nat.log2 m) then .fin false sfuEdge (-62)
      else if ip < -126 then .fin false 1 (-148)
      else mulF v (.fin false sfuEdge (-61))
    (v, tol)
  | 3 =>
    let k := Nat.log2 m
    let f := fxLog2Bits 64 (if k ≤ 96 then m <<< (96 - k) else m >>> (k - 96)) 0
    let x : Int := top * 2 ^ 64 + f
    let v : FVal := .fin (x < 0) x.natAbs (-64)
    let inside := top = -1 ∨ top = 0 ∨ (top = 1 ∧ m = 2 ^ k)
    (v, if inside then .fin false sfuEdge (-62) else mulF v.abs (.fin false sfuEdge (-61)))
  | 4 =>
    let v := sinPiAbs m e
    (ofFx (if s then -v else v), .fin false sfuEdge (-60))
  | 5 =>
    -- cos(pi x) = sin(pi (|x| + 1/2))
    let y := ((if e ≥ 2 then 0 else toFx m e) + fxOne / 2) % (2 * fxOne)
    (ofFx (sinPiAbs y (-96)), .fin false sfuEdge (-60))
  | _ =>
    -- tanh: for large |x| the bound holds at 1
    if top ≥ 4 then (.fin s 1 0, .fin false sfuEdge (-54))
    else
      let a := toFx m e * 2 * fxOne / fxLn2
      let ex := (fxExp2 (a % fxOne)) <<< (a / fxOne)
      let v := (ex - fxOne) * fxOne / (ex + fxOne)
      (ofFx (if s then -(v : Int) else v), .fin false sfuEdge (-54))

/-- Whether |x - y| ≤ tol. -/
def near (x y tol : FVal) : Bool := !ltF tol (addF .rn x y.neg).abs

/-- Whether a candidate keeps the limits that Table 4-4 adds to the bound: the sign and magnitude of a
RCPE below the normal range, [0, 2^-126] of a small EX2E, and magnitude at most 1. -/
def sfuLimits (fn : Nat) (s : Bool) (m : Nat) (e : Int) (r : FVal) : Bool :=
  let top : Int := (Nat.log2 m : Int) + e
  match fn with
  | 0 => r.sign == s && (top < 126 || (top == 126 && m == 2 ^ Nat.log2 m) ||
      !ltF (.fin false 1 0) (mulF r (.fin s m e)))
  | 2 => !r.sign && (!(s && top ≥ 6 && intF .rd s m e < -126) || !ltF (.fin false 1 (-126)) r)
  | 4 | 5 | 6 => !ltF (.fin false 1 0) r.abs
  | _ => true

/-- What a result is written as: a NaN is the canonical one (R66), and under FTZ a subnormal a zero of its sign (R68). -/
def sfuOut (ftz : Bool) (w : Word) : Word :=
  if (decF .f32 w.toNat).isNan then 0x7FC00000 else if ftz && isSub .f32 w.toNat then w &&& 0x80000000 else w

/-- An estimate by its bound: the free estimate where it keeps the bound, else the rounded reference. Where no binary32 value
keeps it, as 1/x lies above the format, the value is free (R76) (DESIGN CHOICE, notes/assumptions/6.md). -/
def sfuBound (fn : Nat) (s : Bool) (m : Nat) (e : Int) (c : Word) : Word :=
  let (ref, tol) := sfuRef fn s m e
  let cv := decF .f32 c.toNat
  let r : Word := BitVec.ofNat 32 (roundF .f32 (if fn = 0 then .rz else .rn) false false ref)
  if cv.isNan = false ∧ (∀ b, cv ≠ .inf b) ∧ near cv ref tol ∧ sfuLimits fn s m e cv then c
  else if fn = 0 ∧ !near (decF .f32 r.toNat) ref tol then c else r

/-- The estimate of function fn (0 RCPE to 6 TANHE) at a binary32 operand. The sign of COSPE's zero beyond 2^20 is free, as
is EX2E at and below -256 among the three values within 2^-148 of it (DESIGN CHOICE, notes/assumptions/6.md). -/
def sfu (fn : Nat) (ftz : Bool) (w : Word) : Word :=
  let nan : Word := 0x7FC00000
  let pinf : Word := 0x7F800000
  let one : Word := 0x3F800000
  let c := Config.estimate fn w
  match inF .f32 ftz w.toNat with
  | .nan => nan
  | .inf s =>
    match fn with
    | 0 => if s then 0x80000000 else 0
    | 1 => if s then nan else 0
    | 2 => if s then 0 else pinf
    | 3 => if s then nan else pinf
    | 4 | 5 => nan
    | _ => if s then 0xBF800000 else one
  | .fin s m e =>
    if m = 0 then
      match fn with
      | 0 | 1 => if s then 0xFF800000 else pinf
      | 2 | 5 => one
      | 3 => 0xFF800000
      | _ => if s then 0x80000000 else 0
    else if s ∧ (fn = 1 ∨ fn = 3) then nan
    else
      let top : Int := (Nat.log2 m : Int) + e
      let isInt := e ≥ 0 || m % 2 ^ (-e).toNat == 0
      let out (x : FVal) : Word := BitVec.ofNat 32 (roundF .f32 .rn false ftz x)
      if fn = 2 ∧ !s ∧ top ≥ 7 then pinf
      else if fn = 2 ∧ s ∧ top ≥ 8 then sfuOut ftz (if c.toNat ≤ 2 then c else 0)
      else if fn = 2 ∧ isInt ∧ intF .rn s m e ≥ -126 then out (.fin false 1 (intF .rn s m e))
      else if fn = 3 ∧ m = 2 ^ Nat.log2 m then out (ofIntF top)
      else if fn = 4 ∧ isInt then (if s then 0x80000000 else 0)
      else if (fn = 4 ∨ fn = 5) ∧ (top ≥ 20 ∧ ¬(top = 20 ∧ m = 2 ^ Nat.log2 m)) then
        let r := out (sfuRef fn s m e).1
        if r = 0 then c &&& 0x80000000 else r
      else sfuOut ftz (sfuBound fn s m e c)

end Sys2Proof.Machine
end

