-- ==== Sys2Proof/Machine/Convert.lean ====
section
/-! DEFINITION. Conversions (R70, R71, R140, R185, R186), the block floating-point helpers (R187, R188) and
the special-function estimates (R189). -/

namespace Sys2Proof.Machine

/-- The floating format of a conversion type code (Table 7-17). -/
def cvtFmt (c : BitVec 3) : Option Fmt :=
  match c.toNat with
  | 0 => some .f32
  | 3 => some .bf16
  | 4 => some .f16
  | 5 => some .e4m3
  | 6 => some .e5m2
  | _ => none

/-- The value of a conversion source (Table 4-3). -/
def cvtIn (c : BitVec 3) (ftz : Bool) (w : Nat) : FVal :=
  match cvtFmt c with
  | some f => inF f ftz w
  | none => if c.toNat = 1 then ofIntF (signedOf w 32) else ofIntF (w % 2 ^ 32)

/-- The pattern a conversion writes: rounded under the mode, or toward zero and clamped for an integer
destination (Table 4-3, R186). -/
def cvtOut (c : BitVec 3) (p : Pfx) (x : FVal) : Nat :=
  match cvtFmt c with
  | some f => roundF f p.rnd (p.sat == 1) p.ftz x
  | none =>
    if c.toNat = 1 then (wrap32 (toIntF .rz (-(2 ^ 31)) (2 ^ 31 - 1) x)).toNat
    else (toIntF .rz 0 (2 ^ 32 - 1) x).toNat

/-- One value converted. -/
def cvtOne (o : CVF) (p : Pfx) (w : Nat) : Nat := cvtOut o.dst p (cvtIn o.src p.ftz w)

/-- A conversion's results from the words of its source registers: single, packs and unpacks (R140). -/
def cvtWords (o : CVF) (p : Pfx) (ws : List Word) : List Word :=
  let n := if o.form = 1 then 2 else if o.form = 2 then 4 else 1
  let bits := 32 / n
  let srcW := cvtBytes o.src * 8
  if n = 1 then [BitVec.ofNat 32 (cvtOne o p (bitsOf (wAt ws 0) 0 srcW))]
  else if cvtBytes o.src = 4 then
    [BitVec.ofNat 32 ((List.range n).foldl (fun acc i => acc + cvtOne o p (wAt ws i) * 2 ^ (bits * i)) 0)]
  else (List.range n).map fun i => BitVec.ofNat 32 (cvtOne o p (bitsOf (wAt ws 0) (bits * i) bits))

/-- CVT (R185). -/
def execCvt (o : CVF) (s : State) : Host.Outcome State Fault Refusal :=
  execUnit (.cvt o) (fun u s => .ok (writeLanes u s fun t => u.pfx.elems.flatMap fun e =>
    let ws := cvtWords o u.pfx (u.rdN s t (elemReg o.a.toNat e) (cvtSrcRegs o))
    ws.mapIdx fun i w => (elemReg o.d.toNat e + i, w))) s

/-- Mantissa width of a BX code: .bx2, .bx4, .bx6, .bx8 (Table 7-16). -/
def bxWidth (m : BitVec 2) : Nat := 2 + 2 * m.toNat

/-- BXQ's result for a thread: its aligned block of 16 threads, absent threads as zero (R187). -/
def bxqOf (u : Issue) (s : State) (o : CLM) (t : Nat) : Word :=
  let m := bxWidth o.sub
  let j := t / 16 * 16
  let xs := (List.range 16).map fun i =>
    if u.act.contains (j + i) then f32 (u.rd s (j + i) o.a.toNat) else .fin false 0 0
  let q := bxQuant m xs
  let mant := ((q.2.getD (t % 16) 0) % 256).toNat
  BitVec.ofNat 32 (mant + q.1 * 256)

/-- BXQ (R187). -/
def execBxq (o : CLM) (s : State) : Host.Outcome State Fault Refusal :=
  execUnit (.bxq o) (fun u s => .ok (writeLanes u s fun t => [(o.d.toNat, bxqOf u s o t)])) s

/-- BXD (R188). -/
def execBxd (o : CLM) (s : State) : Host.Outcome State Fault Refusal :=
  execUnit (.bxd o) (oneReg o.d o.a fun _ a =>
    let m := bxWidth o.sub
    round32 .rn false (bxVal m (signedOf a.toNat m) (bitsOf a.toNat 8 8))) s

/-- An estimate: a long-latency result per lane, for every element of BLOCK (R161, R189). -/
def estimate (fn : Nat) (o : CL) (u : Issue) (s : State) : Res :=
  .ok (addPends u s fun t =>
    (u.pfx.elems.map fun e => elemReg o.d.toNat e,
     u.pfx.elems.map fun e => some (sfu fn u.pfx.ftz (u.rd s t (elemReg o.a.toNat e)))))

/-- RCPE (R189). -/
def execRcpe (o : CL) (s : State) : Host.Outcome State Fault Refusal := execUnit (.rcpe o) (estimate 0 o) s

/-- RSQE (R189). -/
def execRsqe (o : CL) (s : State) : Host.Outcome State Fault Refusal := execUnit (.rsqe o) (estimate 1 o) s

/-- EX2E (R189). -/
def execEx2e (o : CL) (s : State) : Host.Outcome State Fault Refusal := execUnit (.ex2e o) (estimate 2 o) s

/-- LG2E (R189). -/
def execLg2e (o : CL) (s : State) : Host.Outcome State Fault Refusal := execUnit (.lg2e o) (estimate 3 o) s

/-- SINPE (R189). -/
def execSinpe (o : CL) (s : State) : Host.Outcome State Fault Refusal := execUnit (.sinpe o) (estimate 4 o) s

/-- COSPE (R189). -/
def execCospe (o : CL) (s : State) : Host.Outcome State Fault Refusal := execUnit (.cospe o) (estimate 5 o) s

/-- TANHE (R189). -/
def execTanhe (o : CL) (s : State) : Host.Outcome State Fault Refusal := execUnit (.tanhe o) (estimate 6 o) s

end Sys2Proof.Machine
end

