-- ==== Sys2Proof/Machine/MemEv.lean ====
section
/-! DEFINITION. The events of the memory system: admission, slices, channels, replies, patrol, timeouts and erasure
(R413, R414, R419 to R434, R448). -/

namespace Sys2Proof.Machine

/-- Whether a request has been refused and is to be sent again (R433). -/
def Req.refused (r : Req) : Bool := match r.stage with
  | .refused .. => true
  | _ => false

/-- Whether an earlier request of the thread to the same line has been refused: until it is taken, later ones stay behind it
(R276, R433). -/
def behindRefused (s : State) (r : Req) : Bool :=
  s.reqs.any fun x => x.sameThr r && decide (x.id < r.id) && x.blk.isNone && !r.mate x && x.b == r.b &&
    x.off / 128 == r.off / 128 && (x.refused || (decide (0 < x.refusals) && x.stage == .sent))

/-- Whether an earlier request of the thread still waits at issue, or one to the same line is to be sent again (R432, R433). -/
def heldBehind (s : State) (r : Req) : Bool :=
  behindRefused s r || s.reqs.any fun x => x.sameThr r && decide (x.id < r.id) && x.blk.isNone && !r.mate x && x.stage == .waiting

/-- The pieces that leave with a waiting one, and the sectors that they move (R414). -/
def leaving (s : State) (r : Req) : List Req := s.reqs.filter fun x => r.mate x && x.stage == .waiting && !heldBehind s x

/-- Tokens of a request: its distinct sectors. -/
def reqTokens (s : State) (r : Req) : Nat := ((leaving s r).map fun x => x.off / 32).eraseDups.length

/-- Change one remote update request. -/
def State.updRu (s : State) (k : Nat) (f : RuReq → RuReq) : State :=
  { s with rus := s.rus.map fun r => if r.id == k then f r else r }

/-- A remote update request. -/
def State.ru? (s : State) (k : Nat) : Option RuReq := s.rus.find? fun r => r.id == k

/-- Tokens of a remote update (R414). -/
def ruTokens (d : List Word) : Nat := match ruGran d with
  | 2 => 4
  | 3 => 4 * ruLines d
  | _ => 1

/-- A remote update takes its tokens and a permit of its first line's home slice and leaves (R273, R414, R432). -/
def sendRu (s : State) (r : RuReq) : State :=
  let early := s.rus.any fun x => x.op == r.op && decide (x.id < r.id) && !x.sent
  if r.sent || early || !hasTokens s r.cxid (ruTokens r.defn) || decide (6 ≤ permits s r.core (ruSlice s r)) then s
  else (takeTokens s r.cxid (ruTokens r.defn)).updRu r.id fun r => { r with sent := true }

/-- REQUEST_ADMISSION (R414, R432): a load that finds its line in L1 is served there; any other request takes its
tokens and a permit and leaves, with every piece of its execution to the line. -/
def execRequestAdmission (id : Nat) (s : State) : Host.Outcome State Fault Refusal :=
  match s.reqs.find? fun r => r.id == id with
  | none => match s.ru? id with
    | some r => .next (sendRu s r)
    | none => .next s
  | some r =>
    if r.stage != .waiting || heldBehind s r then .next s
    else if l1Hit s r then .next (if mayPerform s r then perform s r else s)
    else
      let slice := (r.home s).getD 0
      if !hasTokens s r.cxid (reqTokens s r) || decide (6 ≤ permits s r.core slice) then .next s
      else
        let go := (leaving s r).map Req.id
        .next { takeTokens s r.cxid (reqTokens s r) with
          reqs := s.reqs.map fun x => if go.contains x.id then { x with stage := .sent, admittedAt := s.ref252 } else x }

/-- A request arrives at its home slice: it takes its place in the order of arrivals (R277). -/
def arriveReq (s : State) (id : Nat) : State :=
  { s with nextId := s.nextId + 1 }.updReq id fun r => { r with arrived := s.nextId }

/-- SLICE_REQUEST_ADMIT (R94, R433): the home slice refuses the request with a hint, or takes a piece of it: a line it holds
is served there, any other goes on to a channel or a port. A remote update may be refused as well; RU_ADMIT takes it. -/
def execSliceRequestAdmit (id hint : Nat) (s : State) : Host.Outcome State Fault Refusal :=
  match s.reqs.find? fun r => r.id == id with
  | none => match s.ru? id with
    | some r => .next (if r.sent && !r.admitted && r.refused.isNone && decide (1 ≤ hint ∧ hint ≤ 15 ∧ r.refusals < 16) then
        s.updRu id fun r => { r with refused := some (s.clk, hint), refusals := r.refusals + 1 } else s)
    | none => .next s
  | some r =>
    if r.stage != .sent || behindRefused s r then .next s
    else if 1 ≤ hint ∧ hint ≤ 15 ∧ r.refusals < 16 then
      .next { s with
        reqs := s.reqs.map fun x =>
          if r.mate x && x.stage == .sent then { x with stage := .refused s.clk hint, refusals := x.refusals + 1 } else x }
    else if !mayPerform s r then .next s
    else if isPeer s r.b then .next ((arriveReq s id).updReq id fun r => { r with stage := .port })
    else if s.l2.any fun l => l.b == r.b && l.line == r.off / 128 && l.tag == r.owner then .next (perform s r)
    else
      let hbm := (s.buf? r.b).map Buf.kind == some .hbm
      .next ((arriveReq s id).updReq id fun r => { r with stage := if hbm then .chan else .port })

/-- REQUEST_RETRY (R433): a refused request is sent again, no earlier than 8 clk for each unit of its hint. -/
def execRequestRetry (id : Nat) (s : State) : Host.Outcome State Fault Refusal :=
  match s.reqs.find? fun r => r.id == id with
  | none => match (s.ru? id).bind RuReq.refused with
    | some (since, hint) => .next (if since + 8 * hint ≤ s.clk then s.updRu id fun r => { r with refused := none } else s)
    | none => .next s
  | some r => match r.stage with
    | .refused since hint =>
      if since + 8 * hint ≤ s.clk then
        .next { s with reqs := s.reqs.map fun x => if r.mate x && x.stage == r.stage then { x with stage := .sent } else x }
      else .next s
    | _ => .next s

/-- 50 µs in the units of the device's time (R430, R448). -/
def fiftyMicros : Nat := 62500 * 252

/-- Whether a request to a peer or to a CXL port has had no answer for 50 µs: it completes as R430 and R448 say. -/
def outOfTime (s : State) (r : Req) : Bool :=
  r.blk.isNone && decide (r.admittedAt + fiftyMicros ≤ s.ref252) &&
    (isPeer s r.b || (s.buf? r.b).map Buf.kind == some .cxl)

/-- MEMORY_REPLY (R434): a request at a port or a scratchpad is performed and answered; one that is performed is
answered. -/
def execMemoryReply (id : Nat) (s : State) : Host.Outcome State Fault Refusal :=
  match s.reqs.find? fun r => r.id == id with
  | none => .next s
  | some r => match r.stage with
    | .done => .next (reply s r)
    | .port =>
      if !mayPerform s r || outOfTime s r then .next s
      else
        let s := perform s r
        let s := if r.blk.isNone && !isPeer s r.b then fillL2 s r.cxid r.b r.off r.owner else s
        match s.reqs.find? fun r => r.id == id with
        | some r => .next (reply s r)
        | none => .next s
    | _ => .next s

/-- Poison an atom. -/
def poisonAt (s : State) (a : Nat) : State := { s with poison := if s.poison.contains a then s.poison else a :: s.poison }

/-- An uncorrectable error in an atom poisons it (R394, R423). -/
def poisonAtom (s : State) (a : Nat) : State := countErr (poisonAt s a) 0 true

/-- CHANNEL_ACCESS (R419, R425): the channel performs an access to an atom of a row of the bank that it lies in; the slice keeps
the line. An address that no channel has is a fault (DESIGN CHOICE, notes/assumptions/57.md). -/
def execChannelAccess (id bank : Nat) (ecc : Bool) (s : State) : Host.Outcome State Fault Refusal :=
  match s.reqs.find? fun r => r.id == id with
  | none => .next s
  | some r => match s.buf? r.b with
    | none => .next s
    | some b => match place b r.off with
      | none => .next s
      | some a =>
        let ch := chanOf b r.off
        let t := tenant s r.cxid
        if r.stage != .chan || bank % 16 != bankOf a || !mayPerform s r || heldBank s ch (bank % 16) t then .next s
        else if !addrExists a || decide (chanBytes ≤ a - ch * chanBytes) then .fault .noSuchAddress
        else
          let s := activate s ch (bank % 16) (a % chanBytes / 1024) t
          let s := if ecc then poisonAtom s (a / 32) else s
          .next (fillL2 (perform s r) r.cxid r.b r.off r.owner)

/-- HROW_WINDOW_END (R419): the counts of a channel's windows of 2^25 clk that have ended are dropped. -/
def execHrowWindowEnd (ch : Nat) (s : State) : Host.Outcome State Fault Refusal :=
  .next { s with rows := s.rows.filter fun x => x.ch != ch || decide (s.clk / 2 ^ 25 ≤ x.win) }

/-- HROW_HOLD_END (R419): a throttled sub-queue's hold is over. -/
def execHrowHoldEnd (ch bank cx : Nat) (s : State) : Host.Outcome State Fault Refusal :=
  .next { s with
    holds := s.holds.filter fun h => !(h.ch == ch && h.bank == bank && h.tenant == cx && decide (h.til ≤ s.clk)) }

/-- PATROL_READ (R424): an atom of a channel is read; an error that cannot be corrected poisons it. Stacks 4 to 7 are there in full
service only (R451)
(DESIGN CHOICE, notes/assumptions/57.md). -/
def execPatrolRead (ch atom : Nat) (ecc : Bool) (s : State) : Host.Outcome State Fault Refusal :=
  if 256 ≤ ch ∨ chanBytes / 32 ≤ atom then .fault .noSuchAddress
  else if s.service != .full && decide (128 ≤ ch) then .next s
  else .next (if ecc then poisonAtom s (hbmAddr ch 0 / 32 + atom) else s)

/-- A request to a CXL port that is not completed, or is answered with poison: a read returns poison, a write is dropped and
reported (R430). -/
def cxlFail (s : State) (r : Req) : State :=
  let bad : Option Cause := if r.kind == .store then none else some .uncorrectable
  let s := s.updReq r.id fun r => { r with performed := true, stage := .done, bad := bad }
  wake (if r.kind == .store then { s with reports := s.reports ++ [2] } else s)

/-- A remote update's request at its home fails in every line (R281, R430, R448)
(DESIGN CHOICE, notes/assumptions/39.md). -/
def ruDown (c : Cause) (s : State) (k : Nat) : State :=
  { s with rus := s.rus.map fun r => if r.id == k then { r with
      lines := r.lines.map fun _ => none
      fmask := 2 ^ ruLines r.defn - 1
      cause := c.code } else r }

/-- A remote update's outstanding peer request completes with PEER_ABSENT in every line. -/
def ruPeerFail (s : State) (k : Nat) : State := ruDown .peerAbsent s k

/-- A grid's word that is to be written lies in a buffer of a kind (R312). -/
def wordIn? (s : State) (g : Grid) (kind : BufKind) : Option DWord :=
  let a := if g.phase = 0 then lrSaddr g.lrec else lrCaddr g.lrec
  if !gridDone s g || decide (2 ≤ g.phase) || a = 0 then none
  else match gaccess s g.cxid a 4 .store with
    | .ok p => if (s.buf? p.b).map Buf.kind == some kind then some a else none
    | .error _ => none

/-- The write of a grid's word has no answer: it is lost, and the grid goes on as if it had been written (R312, R430, R448). -/
def gridFail (s : State) (g : Grid) (kind : BufKind) : State :=
  match wordIn? s g kind with
  | none => s
  | some a =>
    let s := s.updGrid g.gr fun x => { x with phase := x.phase + 1 }
    if kind == .peer then raiseAsync s g.cxid .peerAbsent a true none (.grid g.gr) 0 false true 0
    else { s with reports := s.reports ++ [2] }

/-- A WAITA's load of a word in a buffer of a kind fails, for the threads of a group that wait at one WAITA for it (R395, R448). -/
def waitaFail (s : State) (g : Group) (kind : BufKind) : State :=
  let at_ (t : Nat) : Option DWord := match (g.thr t).park with
    | some (.waita _ _ va ..) => match gaccess s g.cxid va 4 .load with
      | .ok p => if (s.buf? p.b).map Buf.kind == some kind then some va else none
      | .error _ => none
    | _ => none
  match g.live.find? fun t => (at_ t).isSome with
  | none => s
  | some t0 =>
    let ts := g.live.filter fun t => (at_ t).isSome && (g.thr t).pc == (g.thr t0).pc
    if g.runs s then waitaTrap s g.gid ts (if kind == .peer then .peerAbsent else .uncorrectable) ((at_ t0).getD 0) g.cxid false else s

/-- What fails where an access of an engine, a grid or a WAITA to a kind of buffer has no answer: the operation, grid or group of that
number. -/
def outsideFail (s : State) (id : Nat) (kind : BufKind) : State :=
  match s.bt? id with
  | some o => if kind == .peer then btPeerFail s o else btCxlFail s o
  | none => match s.grid? id with
    | some g => gridFail s g kind
    | none => match s.grp? id with
      | some g => waitaFail s g kind
      | none => s

/-- CXL_TIMEOUT (R430): a request of a thread or of a unit was not completed within 50 µs, or an access of an engine. -/
def execCxlTimeout (id : Nat) (s : State) : Host.Outcome State Fault Refusal :=
  match s.reqs.find? fun r => r.id == id with
  | none => match s.ru? id with
    | some r => .next (if r.admitted && !r.applied && (s.buf? r.b).map Buf.kind == some .cxl && decide (r.admittedAt + fiftyMicros ≤ s.ref252)
        then ruDown .uncorrectable s id else s)
    | none => .next (outsideFail s id .cxl)
  | some r =>
    if r.stage != .port || r.blk.isSome || (s.buf? r.b).map Buf.kind != some .cxl ||
        decide (s.ref252 < r.admittedAt + fiftyMicros) then .next s
    else .next (cxlFail s r)

/-- A memory device behind a CXL port answers a request with poison (R430). -/
def cxlPoison (s : State) (id : Nat) : State :=
  match s.reqs.find? fun r => r.id == id with
  | some r => if r.stage == .port && r.blk.isNone && (s.buf? r.b).map Buf.kind == some .cxl && r.kind != .store && mayPerform s r
      then cxlFail s r else s
  | none => match s.ru? id with
    | some r => if r.admitted && !r.applied && (s.buf? r.b).map Buf.kind == some .cxl then ruDown .uncorrectable s id else s
    | none => outsideFail s id .cxl

/-- A peer request completes with PEER_ABSENT (R448). -/
def peerFail (s : State) (id : Nat) : State :=
  wake (s.updReq id fun r => { r with performed := true, stage := .done, bad := some .peerAbsent })

/-- LINK_TIMEOUT (R448): a peer request, of a thread, of a remote update unit or of an engine, had no answer within 50 µs. -/
def execLinkTimeout (id : Nat) (s : State) : Host.Outcome State Fault Refusal :=
  match s.reqs.find? fun r => r.id == id with
  | none => match s.rus.find? fun r => r.id == id with
    | some r => .next (if r.admitted && !r.applied && isPeer s r.b && decide (r.admittedAt + fiftyMicros ≤ s.ref252)
        then ruPeerFail s id else s)
    | none => .next (outsideFail s id .peer)
  | some r =>
    if r.stage == .port && r.blk.isNone && isPeer s r.b && decide (r.admittedAt + fiftyMicros ≤ s.ref252) then
      .next (peerFail s id)
    else .next s

/-- Whether a line of a cache belongs to a flash erase block (R427). -/
def lineInBlock (s : State) (b line blk : Nat) : Bool :=
  match s.buf? b with
  | some x => x.kind == .flash && flashPage x (128 * line) / 256 == blk
  | none => false

/-- FLASH_ERASE_COMPLETE (R427): the lines go, every page is ERASED and reads as zero, and wp is 0.
The last block of a command answers it. -/
def execFlashEraseComplete (blk : Nat) (s : State) : Host.Outcome State Fault Refusal :=
  if s.flash.any fun k => k.blk == blk && k.erasing then
    let a := flashBase + blk * 2 ^ 20
    let last := !s.flash.any fun k => k.erasing && k.blk != blk
    let s := { s with hist := s.hist.filter fun w => !(w.blk.isNone && lineInBlock s w.b (w.off / 128) blk) }
    .next { s with
      answer := if last then [0] else s.answer
      mem := Memory.zero s.mem a (2 ^ 20)
      poison := s.poison.filter fun p => !decide (a ≤ 32 * p ∧ 32 * p < a + 2 ^ 20)
      l1 := s.l1.filter fun c => !lineInBlock s c.b c.line blk
      l2 := s.l2.filter fun c => !lineInBlock s c.b c.line blk
      flash := s.flash.map fun k => if k.blk == blk then { k with erasing := false, wp := 0, count := k.count + 1 } else k }
  else .next s

end Sys2Proof.Machine
end

