-- ==== Sys2Proof/Machine/RuEv.lean ====
section
/-! DEFINITION. The home units of remote updates at work (R262, R263, R266, R270 to R285). -/

namespace Sys2Proof.Machine

/-- Two requests whose granules share bytes. -/
def RuReq.meets (x r : RuReq) : Bool := r.places.any fun e => x.covers e.1 e.2.1 e.2.2

/-- The channel of a request's first line. -/
def ruChan (s : State) (r : RuReq) : Nat := ((s.buf? r.b).map fun b => chanOf b r.off).getD 0

/-- Requests that a request's unit holds (R286): a slice unit has room for 64, a base-die unit for 32. -/
def ruRoom (s : State) (r : RuReq) : Bool :=
  let held := s.rus.filter fun x => x.admitted && !x.applied
  if isPeer s r.b then true
  else if ruBase s r then decide ((held.filter fun x => ruBase s x && ruChan s x == ruChan s r).length < 32)
  else decide ((held.filter fun x => !ruBase s x && ruSlice s x == ruSlice s r).length < 64)

/-- Whether an earlier request holds a later one at its core: one of the same thread to the same bytes until it is applied
(R272), one of a lower lane of the instruction until it has arrived (R276), an acquire of the same thread (R279). -/
def ruBefore (x r : RuReq) : Bool :=
  x.gid == r.gid && decide (x.id < r.id) &&
    ((x.tid == r.tid && !x.applied && (x.meets r || (x.ropr && acqOrd x.ord))) || (x.op == r.op && !x.admitted && x.meets r))

/-- The checks of one line at the home unit: its place, or the code of Table 11-16 (R281). -/
def ruLine (s : State) (r : RuReq) (i : Nat) : Except Nat Spot :=
  let n := min 128 (ruBytes r.defn)
  match gaccess s r.cxid (r.va + BitVec.ofNat 64 (128 * i)) n .rmw with
  | .error f => .error f.cause.code
  | .ok p =>
    if peerDown s p.b then .error Cause.peerAbsent.code
    else if isPeer s p.b && Config.peerDenies s.free then .error Cause.protection.code
    else .ok p

/-- Fault mask of a list of line results. -/
def faultMask (xs : List Bool) : Nat := (xs.mapIdx fun i b => if b then 2 ^ i else 0).sum

/-- The line of a place: its first byte. -/
def lineOff (o : Nat) : Nat := o / 128 * 128

/-- What a request has to wait for at its core before it enters its home unit: earlier accesses of its thread, which a release
covers (R107, R272), and earlier requests (R272, R276, R279), a refused one of its thread to the granule among them (R433). -/
def ruEarlier (s : State) (r : RuReq) : Bool :=
  (s.reqs.any fun x => x.gid == r.gid && x.tid == r.tid && decide (x.id < r.op) && !x.performed) || atEngine s r.gid r.tid r.id ||
    s.rus.any fun x => ruBefore x r

/-- RU_ADMIT (R273 to R276, R281): the request enters its home unit, which checks every line; requests of order .sc enter in the
order of their tickets (R103, R279).
An ROP or ROPR is a release of its thread, so the thread's earlier accesses are performed (R107, R272)
(DEDUCED, notes/assumptions/42.md). -/
def execRuAdmit (rid : Nat) (s : State) : Host.Outcome State Fault Refusal :=
  match s.ru? rid with
  | none => .next s
  | some r =>
    if r.admitted || !r.sent || r.refused.isSome || ruEarlier s r || !ruRoom s r || !(r.ticket.isNone || ruTurn s r) then .next s
    else
      let ls := (List.range (ruLines r.defn)).map (ruLine s r)
      let good := ls.filterMap fun x => match x with
        | .ok p => some p
        | .error _ => none
      let cause := (ls.findSome? fun x => match x with
        | .error c => some c
        | .ok _ => none).getD 0
      let s := good.foldl touch s
      let s := if ruBase s r then good.foldl (fun s p =>
          { s with l2 := s.l2.filter fun c => !(c.b == p.b && c.line == p.off / 128) }) s else s
      let r' : RuReq := { r with
        admitted := true, at_ := s.nextId, cause := cause, admittedAt := s.ref252
        lines := ls.map fun x => match x with
          | .ok p => some (p.b, lineOff p.off)
          | .error _ => none
        opens := ls.map fun x => match x with
          | .ok p => p.ent.opens
          | .error _ => []
        fmask := faultMask (ls.map fun x => match x with
          | .ok _ => false
          | .error _ => true) }
      .next ({ s with nextId := s.nextId + 1, free := s.free + 1 }.updRu rid fun _ => r')

/-- Whether an earlier-arrived request holds a later one back (R277): every one before an ORDERED request; else one
of another slot, of the same thread, or of a lower lane of the same instruction. -/
def ruHolds (x r : RuReq) : Bool :=
  x.id != r.id && x.admitted && !x.applied && decide (x.at_ < r.at_) && x.meets r &&
    (ruClass r.defn == 2 || x.cxid != r.cxid || x.slot != r.slot || (x.gid == r.gid && (x.tid == r.tid || x.op == r.op)))

/-- The payload a request carries: that of the requests merged here, or its own. -/
def RuReq.payload (r : RuReq) : List Word := r.acc.getD r.pay

/-- Whether a request may take part in a merge (R263). -/
def mergeable (r : RuReq) : Bool :=
  r.admitted && !r.applied && r.into.isNone && !r.ropr && r.ord == 0 && ruClass r.defn == 1 && r.fmask == 0

/-- RU_COMBINE (R263): the later request joins the earlier one; P is the earlier payload and T0 the later one. -/
def execRuCombine (r1 r2 : Nat) (s : State) : Host.Outcome State Fault Refusal :=
  match s.ru? r1, s.ru? r2 with
  | some a, some b =>
    let between := s.rus.any fun x => ruHolds x b && x.id != a.id && x.into != some a.id
    if mergeable a && mergeable b && a.cxid == b.cxid && a.slot == b.slot && a.b == b.b && a.off == b.off &&
        decide (a.at_ < b.at_) && !between then
      let p := ruCombine a.defn a.va.toNat a.payload b.payload
      let s := (s.updRu r1 fun r => { r with acc := some p }).updRu r2 fun r => { r with into := some r1 }
      -- requests merged into the later one come along
      .next { s with rus := s.rus.map fun r => if r.into == some r2 then { r with into := some r1 } else r }
    else .next s
  | _, _ => .next s

/-! ## Application -/

/-- The words of a line, zero where it is faulted (R257). -/
def ruRead (s : State) (l : Option (Nat × Nat)) : Line :=
  match l with
  | none => zLine
  | some (b, o) => leWords (s.readBuf b o 128)

/-- Write the granule lanes of a line back (R262), a sector at a time. -/
def ruWrite (by_ : By) (d : List Word) (g0 : Nat) (s : State) (l : Option (Nat × Nat)) (x : Line) : State :=
  match l with
  | none => s
  | some (b, o) => (s.writeAtoms b (o + 4 * g0) by_ (atoms (wordsBytes ((x.drop g0).take (ruGn d))))) |> fun s => dirtyLine s b o

/-- The requests that one application makes: a request and those merged into it (R111, R263). -/
def ruParts (s : State) (r : RuReq) : List RuReq := r :: s.rus.filter fun x => x.into == some r.id

/-- The releases that a request's write carries: its own, and those of the fences before it (R101, R111). -/
def ruRels (s : State) (r : RuReq) : List Rel :=
  match s.grp? r.gid with
  | some g =>
    let v := (g.thr r.tid).view
    carried s v (g.agent r.tid) r.id (if relOrd r.ord then [release s v (g.agent r.tid) r.id r.scope] else [])
  | none => []

/-- What happens before a request's write: all that precedes the instruction in its thread (R107). -/
def ruPre (s : State) (r : RuReq) : Known :=
  match s.grp? r.gid with
  | some g => (release s (g.thr r.tid).view (g.agent r.tid) r.id 4).known
  | none => {}

/-- How a request's application writes: as one read-modify-write of its issuing thread, which is that of every request that it
merges (R95, R111, R278). -/
def ruBy (s : State) (r : RuReq) : By :=
  let rs := ruParts s r
  { who := ((s.grp? r.gid).map Group.engine).getD { outside := r.outside }, op := r.id, rels := rs.flatMap (ruRels s)
    pre := (rs.map (ruPre s)).foldl Known.join {}, whole := true, rmw := true }

/-- What an application found and did: lines with their faults, the cause, the words returned and the state. -/
structure RuDone where
  s : State
  fmask : Nat
  cause : Nat
  wr : Bool
  out : List Word
deriving DecidableEq, Repr

/-- What a line fails with when it is read: its owner no longer lets the context reach it (R3, R371), or it is poisoned (R282). -/
def ruLineFault (s : State) (r : RuReq) (i : Nat) (e : Nat × Nat) : Option Nat :=
  if !reaches s e.1 e.2 r.cxid (r.opens.getD i []) then some Cause.protection.code
  else if s.poisoned e.1 e.2 128 then some Cause.uncorrectable.code else none

/-- One application (R262, R282): a line that fails is faulted when it is read; ALL_OR_NONE with a fault runs and
writes nothing; PER_LINE writes the lines that are not faulted. The cause is that of the first faulted line. -/
def ruApplication (s : State) (r : RuReq) : RuDone :=
  let d := r.defn
  let fails := r.lines.mapIdx fun i l => l.bind (ruLineFault s r i)
  let lines := (r.lines.zip fails).map fun e => if e.2.isSome then none else e.1
  let fresh := (List.range lines.length).find? fun i => (fails.getD i none).isSome
  let old := (List.range lines.length).find? fun i => (r.lines.getD i none).isNone
  let cause := match fresh, old with
    | some i, some k => if i < k then ((fails.getD i none).getD 0) else r.cause
    | some i, none => (fails.getD i none).getD 0
    | none, _ => r.cause
  let fmask := faultMask (lines.map Option.isNone)
  let g0 := ruG0 d r.va.toNat
  let zeros := List.replicate (ruDataWords d) (0 : Word)
  if fmask != 0 && !ruPerLine d then { s := s, fmask := fmask, cause := cause, wr := false, out := zeros }
  else
    let w := lines.map (ruRead s)
    let m := ruMain { d := d, p := ruView d r.va.toNat r.payload, pay := r.payload, g0 := g0 } w
    let idx := (List.range lines.length).filter fun i => ruStores d i && (lines.getD i none).isSome
    let s' := idx.foldl (fun s' i => ruWrite (ruBy s r) d g0 s' (lines.getD i none) (m.w.getD i zLine)) s
    let rl := ruRetLine d
    let ret := if ruRet d == 1 then w.getD rl zLine else m.w.getD rl zLine
    let barred := idx.isEmpty && (List.range lines.length).any (ruStores d)
    let out := if (lines.getD rl none).isNone || barred then zeros else (ret.drop g0).take (ruDataWords d)
    { s := s', fmask := fmask, cause := cause, wr := !idx.isEmpty, out := out }

/-- The 16 words of a fault log entry (Table 11-17). -/
def logWords (r : RuReq) (seq : Word) : List Word :=
  let first := ((List.range 16).find? fun i => r.fmask.testBit i).getD 0
  let faddr := BitVec.ofNat 64 (lineOff r.va.toNat + 128 * first)
  [pairLo r.va, pairHi r.va,
   BitVec.ofNat 32 (r.part * 2 ^ 30 + r.grp * 2 ^ 24 + r.lane * 2 ^ 18 + r.slot * 2 ^ 13 + (if r.wr then 1 else 0)),
   BitVec.ofNat 32 (r.fmask * 65536 + r.cause * 256 + r.core),
   ruTag r.defn, seq, pairLo faddr, pairHi faddr] ++
  (List.range 8).map fun i => if 4 * i < ruPsize r.defn then r.pay.getD i 0 else 0

/-- Whether an RU_FAULT of a context is pending (R284). -/
def ruFaultPending (s : State) (cx : Nat) : Bool :=
  s.traps.any (fun t => t.cxid == cx && t.cause == .ruFault) ||
    s.recs.any fun r => r.trap.cxid == cx && r.trap.cause == .ruFault && r.bound.isNone && r.dest != 0

/-- The request whose application applies a request: its own, or that of the one it was merged into. -/
def RuReq.app (r : RuReq) : Nat := r.into.getD r.id

/-- How a log entry is written: as a release at .dev of what precedes the request in its thread and of its application (R283). -/
def ruLogBy (s : State) (r : RuReq) : By :=
  let k := ruPre s r
  let who := ((s.grp? r.gid).map Group.engine).getD {}
  { who := who, op := r.app, rels := [{ scope := 4, who := who, base := k.base, hb := union k.hb (effects s r.app) }], pre := k }

/-- Log a faulted ROP request and raise RU_FAULT unless one is pending; nothing of what was stopped without save is logged (R283,
R284, R285). -/
def ruLog (s : State) (r : RuReq) : State :=
  match s.ctx? r.cxid with
  | none => s
  | some c =>
    if c.state == .killed || r.quiet then s
    else
      let seq := c.rulogSeq
      let a := if c.rulogBase = 0 then 0 else c.rulogBase + BitVec.ofNat 64 (64 * (seq.toNat % 64))
      let s := s.updCtx r.cxid fun c => { c with rulogSeq := seq + 1 }
      let s := ringWrite s r.cxid a (ruLogBy s r) (logWords r seq)
      if ruFaultPending s r.cxid then s
      else
        let g := s.grp? r.gid
        raiseAsync s r.cxid .ruFault a true g (.ru r.op) 0 false false ((g.map (fatalGrid s)).getD 0)

/-- A request and those merged into it have been applied: each takes the outcome, and each faulted ROP is logged. -/
def ruSettle (s : State) (r : RuReq) (x : RuDone) : State :=
  let mine := s.rus.filter fun y => y.id == r.id || y.into == some r.id
  mine.foldl (fun s y =>
    let y : RuReq := { y with applied := true, fmask := x.fmask, cause := x.cause, wr := x.wr, out := x.out }
    let s := s.updRu y.id fun _ => y
    if x.fmask != 0 && !y.ropr then ruLog s y else s) s

/-- Whether an access that arrived earlier at the home slice holds an application back (R277). -/
def reqHolds (x : Req) (r : RuReq) : Bool :=
  !x.performed && x.arrived != 0 && decide (x.arrived < r.at_) && ruMeets r x

/-- What an application brings its thread: for an ROPR, the writes that it reads, acquired by its order; its own later
accesses follow it (R111, R272, R279). -/
def ruLearn (s : State) (r : RuReq) : State :=
  let ws := r.places.flatMap fun e => (readBefore s { b := e.1, off := e.2.1, n := e.2.2 } 0 []).2
  match s.grp? r.gid with
  | some g =>
    let k : Known := if r.ropr then readFrom s (g.agent r.tid) r.ord r.scope ws else {}
    s.updThr r.gid r.tid (Thread.learn r.id k)
  | none => s

/-- What its application wrote happens before the later accesses that its threads make to its bytes (R272). -/
def ruOwn (s : State) (r : RuReq) : State :=
  (s.rus.filter fun y => y.app == r.id).foldl (fun s y =>
    s.updThr y.gid y.tid (Thread.learn y.id { rd := effects s r.id })) s

/-- Places of the lines of a request that are not faulted. -/
def RuReq.places' (r : RuReq) : List (Nat × Nat) := r.lines.reduceOption

/-- Whether a peer's answer to a request is out of time: it completes as R448 says. -/
def ruLate (s : State) (r : RuReq) : Bool :=
  isPeer s r.b && decide (r.admittedAt + fiftyMicros ≤ s.ref252) && r.cause != Cause.peerAbsent.code

/-- The lines of a slice unit's request are in its slice (R275). -/
def ruFill (s : State) (r : RuReq) : State :=
  if ruBase s r then s else r.places'.foldl (fun s e => fillL2 s r.cxid e.1 e.2 (ownerTag s e.1 e.2)) s

/-- RU_APPLY (R262, R277, R278, R282): the granule is read, computed and written in one step
(DEDUCED, notes/assumptions/42.md). -/
def execRuApply (rid : Nat) (s : State) : Host.Outcome State Fault Refusal :=
  match s.ru? rid with
  | none => .next s
  | some r =>
    if !r.admitted || r.applied || r.into.isSome || s.rus.any (fun x => ruHolds x r) || s.reqs.any (fun x => reqHolds x r) ||
        !ruTurn s r || ruLate s r || linesHeld s r.cxid r.places' then .next s
    else
      let s := activateLines (ruLearn s r) r.cxid r.places'
      let x := ruApplication s r
      let s := r.places'.foldl (fun s e => dropL1 s r.core e.1 (e.2 / 128)) { x.s with free := x.s.free + 1 }
      let s := ruFill (ruOwn (ruSettle s r x) r) r
      -- what a stopped context left behind is not reported
      .next (wake { s with rus := s.rus.filter fun y => !y.applied || (s.grp? y.gid).isSome })

/-- ROP_COMPLETE (R108, R271): every lane's request is applied or logged, and the operation retires from cnt.ru, once a trap that
it raised is delivered (R381). -/
def execRopComplete (op : Nat) (s : State) : Host.Outcome State Fault Refusal :=
  match s.rus.find? fun r => r.op == op && !r.ropr with
  | none => .next s
  | some r =>
    if s.rus.any (fun x => x.op == op && !x.ropr && !x.applied) || trapHeld s (.ru op) then .next s
    else
      let eff := (s.rus.filter fun x => x.op == op && !x.ropr).foldl (fun l x => union l (effects s x.app)) []
      .next (wake ({ s with rus := s.rus.filter fun x => x.op != op || x.ropr }.updGrp r.gid fun g => g.opDone op eff))

/-- The status word of a remote update (Table 11-12). -/
def ruStatusWord (r : RuReq) : Word := BitVec.ofNat 32 (r.fmask * 65536 + r.cause * 256 + (if r.wr then 1 else 0))

/-- Words arrive in a pending result of a thread. -/
def arriveWords (s : State) (gid tid pid : Nat) (ws : List Word) : State :=
  s.updThr gid tid fun th => { th with pend := th.pend.map fun p => if p.id == pid then { p with words := ws.map some } else p }

/-- ROPR_RESULT (R270): data words and the status word arrive. -/
def execRoprResult (rid : Nat) (s : State) : Host.Outcome State Fault Refusal :=
  match s.ru? rid with
  | none => .next s
  | some r =>
    if !r.applied || !r.ropr then .next s
    else
      let s := arriveWords s r.gid r.tid r.pend (r.out ++ [ruStatusWord r])
      .next (wake { s with rus := s.rus.filter fun x => x.id != rid })

/-- RDEF_COMPLETE (R265, R266): earlier requests to the slot and earlier definitions of it are finished; a record
that passed is installed, a clearing one empties the slot, and every lane's status arrives. -/
def execRdefComplete (id : Nat) (s : State) : Host.Outcome State Fault Refusal :=
  match s.rdefs.find? fun r => r.id == id with
  | none => .next s
  | some r =>
    let early := s.rus.any fun x => x.cxid == r.cxid && x.slot == r.slot && decide (x.id < r.id) && !x.applied
    let first := s.rdefs.any fun x => x.cxid == r.cxid && x.slot == r.slot && decide (x.id < r.id)
    if early || first then .next s
    else
      let s := s.updCtx r.cxid fun c =>
        if r.status = 0 then { c with rops := assocSet r.slot r.defn c.rops }
        else if r.status = 1 then { c with rops := assocDel r.slot c.rops } else c
      let s := r.dst.foldl (fun s d => arriveWords s r.gid d.1 d.2 [r.status]) s
      .next (wake { s with rdefs := s.rdefs.filter fun x => x.id != id })

end Sys2Proof.Machine
end

