-- ==== Sys2Proof/Machine/HostEv.lean ====
section
/-! DEFINITION. What the host, the links and the board do to the device: virtual functions and TDISP (R391 to R393,
R412, R438 to R444), kick pages (R401 to R404), links (R446 to R448), boot (R449 to R451) and power (R453). -/

namespace Sys2Proof.Machine

/-! ## Stopping every context (R394, R435, R453) -/

/-- Every context stops without save, and Monarch reports a device error: the work goes, and every context is STOPPED, the root
among them (DEDUCED, notes/assumptions/36.md). -/
def stopAll (s : State) (code : Nat) : State :=
  let s := dropWork s fun _ => true
  wake { s with
    ctxs := s.ctxs.map fun x =>
      if x.state == .killed || x.state == .created then x
      else { x with state := .stopped, vacating := 0, revoking := 0, byRevoke := false, pendVacate := false, slice := none, byAncestor := false, wantSup := false }
    reports := s.reports ++ [code] }

/-! ## Virtual functions (R391 to R393, R412) -/

/-- A virtual function; unlisted ones are as after reset. -/
def State.vfAt (s : State) (n : Nat) : Vf := (s.vfs.find? fun v => v.n == n).getD { n := n }

/-- Replace a virtual function. -/
def State.setVf (s : State) (v : Vf) : State := { s with vfs := v :: s.vfs.filter fun x => x.n != v.n }

/-- The partition a virtual function is bound to, with its level-1 context (R412). -/
def vfPart (s : State) (n : Nat) : Option PartRec :=
  s.parts.find? fun p => decide (p.vffirst ≤ n ∧ n < p.vffirst + p.vfcnt) && p.cxid != 0

/-- The root creates a level-2 context for a virtual function (R412), under a level-1 context that lives and whose budgets
admit it (R339) (DEDUCED, notes/assumptions/65.md). -/
def newVfCtx (s : State) (n : Nat) : State :=
  match vfPart s n, freeCxid s with
  | some p, some k =>
    let x : Ctx := { cxid := k, parent := p.cxid, level := 2, state := .created, nq := p.vfnq, qbud := p.vfnq,
                     tokens := bucketCap 0, vf := some n }
    match s.ctx? p.cxid with
    | some i =>
      if i.state == .killed || (newBudget s i x).isSome then s
      else { s with ctxs := s.ctxs ++ [x] }.setVf { s.vfAt n with cxid := some k }
    | none => s
  | _, _ => s

/-- Steps 2 to 4 of an FLR: once no operation of the subtree is at the context engine (R344), the subtree stops without
save, and its frames and buffers go to the level-1 parent (R391). -/
def flrStop (s : State) (n : Nat) : State :=
  let v := s.vfAt n
  match v.cxid.bind s.ctx? with
  | some x =>
    if engineBusy s (inSubtree s x.cxid) then s
    else if x.state == .killed then s.setVf { v with cxid := none }
    else
      let gone := (subtree s x.cxid).map Ctx.cxid
      (killTree s x.cxid x.parent).setVf { v with cxid := none, flr := some gone }
  | none => s.setVf { v with cxid := none }

/-- Start an FLR of a virtual function: its kick page stops, and its subtree as soon as R344 lets it; a locked or running
TDI enters ERROR (R391, R443). -/
def startFlr (s : State) (n : Nat) : State :=
  let v := s.vfAt n
  let tdi : Tdi := match v.tdi with
    | .locked | .run => .error
    | t => t
  flrStop (s.setVf { v with flr := some (v.flr.getD []), tdi := tdi }) n

/-- FLR (R391): ignored for a function that does not exist. -/
def execFlr (vf : Nat) (s : State) : Host.Outcome State Fault Refusal :=
  if !s.vfEnable || decide (384 ≤ vf) then .next s else .next (startFlr s vf)

/-- Whether a unit or the memory still writes for contexts that an FLR has removed (R391). -/
def stillWrites (s : State) (gone : List Nat) : Bool :=
  (s.rus.any fun r => gone.contains r.cxid && !r.applied) ||
    s.reqs.any fun r => gone.contains r.cxid && r.blk.isNone && !r.performed

/-- FLR_COMPLETE (R391, R393): nothing writes for the subtree any more; the function gets a new context, and VF Enable
reads 0 once the last FLR that its clearing started has completed. An FLR that waits for the context engine goes on
to its stop first. -/
def execFlrComplete (vf : Nat) (s : State) : Host.Outcome State Fault Refusal :=
  match (s.vfAt vf).flr with
  | none => .next s
  | some gone =>
    if (s.vfAt vf).cxid.isSome then .next (flrStop s vf)
    else if stillWrites s gone then .next s
    else
      let s := newVfCtx (s.setVf { s.vfAt vf with flr := none }) vf
      let last := s.vfClearing && s.vfs.all fun v => v.flr.isNone
      .next (if last then { s with vfEnable := false, vfClearing := false } else s)

/-- VF Enable is set: every bound function without a context gets one; ignored while it reads 1 (R393, R412). -/
def enableVfs (s : State) : State :=
  if s.vfEnable then s
  else
    let ns := s.parts.flatMap fun p => (List.range p.vfcnt).map fun i => p.vffirst + i
    { (ns.foldl (fun s n => if (s.vfAt n).cxid.isSome then s else newVfCtx s n) s) with vfEnable := true }

/-- VF Enable is cleared: an FLR of every enabled function; it reads 1 until they have completed (R393, R443). -/
def disableVfs (s : State) : State :=
  if !s.vfEnable then s
  else
    let ns := (s.vfs.filter fun v => v.cxid.isSome || v.tdi != .unlocked || v.flr.isSome).map Vf.n
    let s := ns.foldl startFlr s
    if s.vfs.all fun v => v.flr.isNone then { s with vfEnable := false } else { s with vfClearing := true }

/-- VF_ENABLE_SET (R393, R412). -/
def execVfEnableSet (s : State) : Host.Outcome State Fault Refusal :=
  .next (if s.service == .recovery then s else enableVfs s)

/-- VF_ENABLE_CLEAR (R393). -/
def execVfEnableClear (s : State) : Host.Outcome State Fault Refusal := .next (disableVfs s)

/-! ## TDISP (R441 to R444) -/

/-- A response over SPDM; an error response changes nothing else, and in recovery there is none (R449). -/
def respond (s : State) (ok : Bool) (ws : List Word) : State :=
  if s.service == .recovery then s else { s with spdm := (if ok then 0 else 1) :: ws }

/-- Whether a function takes a request: one with the T bit only over the selective stream that its TDI is bound to, while it is in
RUN; any other is an unsupported request (R441) (DESIGN CHOICE, notes/assumptions/44.md). -/
def teeTaken (s : State) (fn : Nat) : Option Nat → Bool
  | none => true
  | some st => fn != 0 && (s.vfAt (fn - 1)).tdi == .run && (s.vfAt (fn - 1)).stream == st

/-- Functions whose TDI is locked or running. -/
def lockedVfs (s : State) : List Nat := (s.vfs.filter fun v => v.tdi == .locked || v.tdi == .run).map Vf.n

/-- A write to the frozen set of a locked or running TDI takes effect in the register, and the TDI goes to ERROR with an
FLR (R443). In ERROR it is dropped (DEDUCED, notes/assumptions/44.md). -/
def frozenWrite (s : State) (n : Nat) (put : State → State) : State :=
  match (s.vfAt n).tdi with
  | .error => s
  | .unlocked => put s
  | _ => startFlr (put s) n

/-- VFs that port 0 presents, and where the first and the next one lie (R438). -/
def totalVfs : Nat := 384

/-- Offset of the control register with VF Enable in the SR-IOV capability (PRESUMED, notes/assumptions/69.md). -/
def sriovControl : Nat := 0x08

/-- A word of the SR-IOV capability as the host reads it: VF Enable, TotalVFs 384, First VF Offset 1 and VF Stride 1, at the places
that PCI Express gives them (R393, R438) (PRESUMED, notes/assumptions/69.md). -/
def sriovRead (s : State) (off : Nat) : Word :=
  if off = sriovControl then ((assoc off s.hostif.sriov).getD 0 &&& 0xFFFFFFFE) ||| (if s.vfEnable then 1 else 0)
  else if off = 0x0C then BitVec.ofNat 32 (totalVfs * 65536 + totalVfs)
  else if off = 0x14 then 0x00010001
  else (assoc off s.hostif.sriov).getD 0

/-- A write to the SR-IOV capability, which every TDI's frozen set holds: VF Enable set or cleared acts; every locked or running TDI
goes to ERROR with an FLR (R393, R442, R443). -/
def sriovWrite (s : State) (off : Nat) (val : Word) : State :=
  let t := { s with hostif := { s.hostif with sriov := assocSet off val s.hostif.sriov } }
  let t := if off = sriovControl then (if val.getLsbD 0 then enableVfs t else disableVfs t) else t
  (lockedVfs s).foldl startFlr t

/-- FROZEN_SET_WRITE (R442, R443): to the physical function's SR-IOV capability (function 0), or to the configuration space of VF
fn - 1. -/
def execFrozenSetWrite (fn off : Nat) (val : Word) (s : State) : Host.Outcome State Fault Refusal :=
  if s.service == .recovery then .next s
  else if fn = 0 then .next (sriovWrite s off val)
  else if !s.vfEnable || decide (384 < fn) then .next s
  else .next (frozenWrite s (fn - 1) fun s => s.setVf { s.vfAt (fn - 1) with regs := assocSet off val (s.vfAt (fn - 1)).regs })

/-- The frozen set of a function as it stands: its configuration registers by offset, the SR-IOV capability from 0x8000 on, and its
MSI-X entries' words, those of vector control among them, by their offset in BAR 0 from 0x10000 on (R442). -/
def frozenSet (s : State) (vf : Nat) : List (Nat × Word) :=
  (s.vfAt vf).regs ++ s.hostif.sriov.map (fun e => (0x8000 + e.1, e.2)) ++
    [(0x8000 + sriovControl, sriovRead s sriovControl)] ++
    ((s.mmio.filter fun e => e.1 == vf + 1).map fun e => (0x10000 + e.2.1, e.2.2)) ++
    (s.msix.filter fun m => m.fn == vf + 1).map fun m => (0x10000 + 16 * m.vec + 12, BitVec.ofNat 32 m.masked.toNat)

/-- LOCK_INTERFACE_REQUEST (R441, R443): the frozen set is captured and the TDI is bound to a stream; it waits for an FLR of the
function to complete (DEDUCED, notes/assumptions/44.md). -/
def execLockInterfaceRequest (vf stream : Nat) (dbg : Bool) (s : State) : Host.Outcome State Fault Refusal :=
  let v := s.vfAt vf
  if !s.vfEnable || decide (384 ≤ vf) || decide (64 ≤ stream) || v.tdi != .unlocked then .next (respond s false [])
  else if v.flr.isSome then .next s
  else .next (respond (s.setVf { v with tdi := .locked, stream := stream, dbg := dbg, frozen := frozenSet s vf }) true [])

/-- START_INTERFACE_REQUEST (R443). -/
def execStartInterfaceRequest (vf : Nat) (s : State) : Host.Outcome State Fault Refusal :=
  let v := s.vfAt vf
  if v.tdi == .locked then .next (respond (s.setVf { v with tdi := .run }) true []) else .next (respond s false [])

/-- STOP_INTERFACE_REQUEST (R443): it waits for an FLR of the function to complete
(DEDUCED, notes/assumptions/44.md). -/
def execStopInterfaceRequest (vf : Nat) (s : State) : Host.Outcome State Fault Refusal :=
  let v := s.vfAt vf
  if v.tdi == .unlocked then .next (respond s false [])
  else if v.flr.isSome then .next s
  else .next (respond (s.setVf { v with tdi := .unlocked, dbg := false }) true [])

/-! ## Measurements and signatures (R444, R450) -/

/-- The SHA-384 value over a message. -/
def sha384 (msg : List Word) : List Word := (List.range 12).map (Config.sha384 msg)

/-- The firmware measurement: the digest of the image that runs (R450). -/
def measurement (s : State) : List Word := sha384 s.hostif.image.body

/-- Both signatures of the device over the same words: 64 bytes of Ed25519 and 3,309 of ML-DSA-65 (R450). -/
def signatures (s : State) (msg : List Word) : List Word :=
  let sign (alg n : Nat) : List Word := (List.range n).map (Config.signature alg s.hostif.fuses.secret (measurement s) msg s.free)
  sign 0 16 ++ sign 1 828

/-- The public keys of the device's identity, 32 bytes of Ed25519 and 1,952 of ML-DSA-65, which its fused secret and its measurement
give (R450). -/
def identityKeys (s : State) : List Word :=
  let key (alg n : Nat) : List Word := (List.range n).map (Config.identityKey alg s.hostif.fuses.secret (measurement s))
  key 0 8 ++ key 1 488

/-- The identity certificate: both keys with both signatures over them (R450). -/
def identityCert (s : State) : List Word := identityKeys s ++ signatures s (identityKeys s)

/-- The digest of an interface report: over the measurement and the frozen set as captured at lock (R444). -/
def digestWords (s : State) (v : Vf) : List Word :=
  sha384 (measurement s ++ v.frozen.flatMap fun e => [BitVec.ofNat 32 e.1, e.2])

/-- GET_DEVICE_INTERFACE_REPORT (R444): three ranges as BAR, size and flags (1: MSI-X table and PBA, 2: non-TEE memory),
then the measurement digest. The layout is the model's (notes/assumptions/34.md). -/
def execGetDeviceInterfaceReport (vf : Nat) (s : State) : Host.Outcome State Fault Refusal :=
  let v := s.vfAt vf
  if v.tdi == .locked || v.tdi == .run then
    .next (respond s true ([0, 65536, 1, 2, 4096, 0, 4, 4096, 2] ++ digestWords s v))
  else .next (respond s false [])

/-- IDE_INTEGRITY_FAILURE (R443): every TDI locked or running on the stream goes to ERROR with an FLR. -/
def execIdeIntegrityFailure (stream : Nat) (s : State) : Host.Outcome State Fault Refusal :=
  let hit := (s.vfs.filter fun v => (v.tdi == .locked || v.tdi == .run) && v.stream == stream).map Vf.n
  .next (hit.foldl startFlr s)

/-- An attestation report: the measurement and both signatures over it (R450) (DESIGN CHOICE, notes/assumptions/34.md). -/
def attestation (s : State) : List Word := measurement s ++ signatures s (measurement s)

/-- SPDM_ATTESTATION_REQUEST (R450). -/
def execSpdmAttestationRequest (s : State) : Host.Outcome State Fault Refusal :=
  .next { respond s true (attestation s) with free := s.free + 1 }

/-! ## Kick pages (R401 to R404) -/

/-- The context of a kick page and whether the page takes writes: not during an FLR, nor while its TDI is in ERROR
(R391, R443) (DESIGN CHOICE, notes/assumptions/55.md). -/
def pageCtx (s : State) (page : Nat) : Option Nat :=
  if s.service == .recovery then none
  else if page = 0 then some 0
  else if page ≤ 20 then (if (s.part (page - 1)).cxid = 0 then none else some (s.part (page - 1)).cxid)
  else if 32 ≤ page then
    let v := s.vfAt (page - 32)
    if v.flr.isSome || v.tdi == .error then none else v.cxid
  else none

/-- The function behind a kick page (R401). -/
def pageFn (page : Nat) : Nat := if 32 ≤ page then page - 31 else 0

/-- Whether a write to a register of a queue is dropped: no such queue, no context, or a request with the T bit that the function
does not take (R402, R441). -/
def kickDropped (s : State) (page : HostAt) (q : Nat) : Bool :=
  decide (64 ≤ q) || (pageCtx s page.n).isNone || !teeTaken s (pageFn page.n) page.tee

/-- The live context of a kick page. -/
def pageLive (s : State) (page : Nat) : Option Ctx :=
  ((pageCtx s page).bind s.ctx?).bind fun x => if x.state == .killed then none else some x

/-- Kick state of a queue of a page. -/
def State.kick (s : State) (page q : Nat) : KickQ :=
  (s.kicks.find? fun k => k.page == page && k.q == q).getD { page := page, q := q }

/-- Replace the kick state of a queue. -/
def State.setKick (s : State) (k : KickQ) : State :=
  { s with kicks := k :: s.kicks.filter fun x => !(x.page == k.page && x.q == k.q) }

/-- A kick (R402, R403): a host list joins queue q, or the kick is dropped with a status bit. -/
def kick (s : State) (page q : Nat) (a : DWord) : State :=
  let s := s.setKick { s.kick page q with latch := none }
  match pageLive s page with
  | none => s
  | some x =>
    let l := (assoc q x.queues).getD []
    if x.nq ≤ q then { s with kerr := if s.kerr.contains page then s.kerr else page :: s.kerr }
    else if a.toNat % 128 ≠ 0 || !canonical a then s.setKick { s.kick page q with bad := true }
    else if 1024 ≤ l.length then s.setKick { s.kick page q with ovf := true }
    else
      let idle := s.runset x.cxid == 0
      s.updCtx x.cxid fun c => { c with
        queues := assocSet q (l ++ [.host none a false]) c.queues
        pendBits := if idle then c.pendBits ||| ((1 : DWord) <<< q) else c.pendBits }

/-- QKICK_WRITE: a 64-bit write (R402). -/
def execQkickWrite (page : HostAt) (q : Nat) (val : DWord) (s : State) : Host.Outcome State Fault Refusal :=
  if kickDropped s page q then .next s else .next (kick s page.n q val)

/-- QKICK_LOW_WRITE: the low half is latched (R402). -/
def execQkickLowWrite (page : HostAt) (q : Nat) (val : Word) (s : State) : Host.Outcome State Fault Refusal :=
  if kickDropped s page q then .next s else .next (s.setKick { s.kick page.n q with latch := some val })

/-- QKICK_HIGH_WRITE: a kick with the latched low half; nothing with an empty latch (R402). -/
def execQkickHighWrite (page : HostAt) (q : Nat) (val : Word) (s : State) : Host.Outcome State Fault Refusal :=
  if kickDropped s page q then .next s
  else match (s.kick page.n q).latch with
    | some lo => .next (kick s page.n q (pairOf lo val))
    | none => .next s

/-- SENTRY_WRITE (R404). -/
def execSentryWrite (page : HostAt) (val : DWord) (s : State) : Host.Outcome State Fault Refusal :=
  if !teeTaken s (pageFn page.n) page.tee then .next s
  else match pageLive s page.n with
  | some x => .next (s.updCtx x.cxid fun c => { c with sentry := val })
  | none => .next s

/-- SCFG_WRITE (R404): sgw 11 and src8 above 10 are ignored. -/
def execScfgWrite (page : HostAt) (val : Word) (s : State) : Host.Outcome State Fault Refusal :=
  let sgw := bitsOf val.toNat 30 2
  let src8 := bitsOf val.toNat 26 4
  match pageLive s page.n with
  | some x =>
    if sgw = 3 ∨ 10 < src8 ∨ teeTaken s (pageFn page.n) page.tee = false then .next s
    else .next (s.updCtx x.cxid fun c => { c with sgw := sgw, src8 := src8 })
  | none => .next s

/-! ## Other registers (R10, R438, R439) -/

/-- The kick page that a function's BAR 2 offset lies in (R401, R438); the offset lies in the BAR
(DESIGN CHOICE, notes/assumptions/55.md). -/
def pageOfBar (fn off : Nat) : Nat := if fn = 0 then off / 4096 % 32 else 31 + fn

/-- A write of one word to a kick page register that has no event of its own: the W1C bits (Tables 19-2, 19-3). -/
def kickPageWrite (s : State) (page off : Nat) (val : Word) : State :=
  if 0x400 ≤ off ∧ off < 0x500 then
    let k := s.kick page ((off - 0x400) / 4)
    s.setKick { k with ovf := k.ovf && !val.getLsbD 30, bad := k.bad && !val.getLsbD 29 }
  else if off = 0x600 ∧ val.getLsbD 4 then { s with kerr := s.kerr.filter (· != page) }
  else s

/-- Unmask or mask an MSI-X entry; unmasking sends a pending message (R439), unless `quiet`. -/
def maskEntry (s : State) (fn vec : Nat) (masked quiet : Bool) : State :=
  let e := (s.msix.find? fun m => m.fn == fn && m.vec == vec).getD ⟨fn, vec, true, false⟩
  let rest := s.msix.filter fun m => !(m.fn == fn && m.vec == vec)
  let send := e.pba && !masked && !quiet
  { s with
    msix := ⟨fn, vec, masked, e.pba && !send⟩ :: rest
    irqs := if send then (fn, vec) :: s.irqs else s.irqs }

/-- A write to an MSI-X table word: the vector control word masks, the others are held (R438). -/
def msixWrite (fn off : Nat) (val : Word) (quiet : Bool) (s : State) : State :=
  if off % 16 = 12 then maskEntry s fn (off / 16) (val.getLsbD 0) quiet
  else { s with mmio := (fn, off, val) :: s.mmio.filter fun e => !(e.1 == fn && e.2.1 == off) }

/-- Under a function's access rules: entries of a locked TDI belong to the frozen set (R442). A message that such a
write would release is not sent before ERROR. -/
def msixEntryWrite (s : State) (fn : Nat) (put : Bool → State → State) : State :=
  if fn = 0 then put false s else frozenWrite s (fn - 1) (put ((s.vfAt (fn - 1)).tdi != .unlocked))

/-- Sizes of a function's BARs (Table 21-1). -/
def barSize (fn bar : Nat) : Nat := match fn, bar with
  | 0, 2 => 131072
  | 0, _ => 65536
  | _, 0 => 65536
  | _, _ => 4096

/-- A BAR register of a function as the host reads it: the address written, down to the BAR's size, with the bits of a 64-bit
prefetchable BAR; the other BARs read as zero (R438). Registers lie at 0x10 + 4k of configuration space
(PRESUMED, notes/assumptions/69.md). -/
def barRegister (s : State) (fn k : Nat) : Word :=
  let w := (assoc (0x10 + 4 * k) (if fn = 0 then s.hostif.bars else (s.vfAt (fn - 1)).regs)).getD 0
  if 6 ≤ k then 0
  else if k % 2 = 1 then w
  else BitVec.ofNat 32 (w.toNat / barSize fn k * barSize fn k + 0xC)

/-- Whether Monarch is at work on a management command: GO reads 1 (R440). -/
def goReads (s : State) : Bool := s.hostif.go || s.flash.any FlashBlk.erasing

/-- A word of a kick page as a host read returns it: write-only and reserved fields read zero (R10, Tables 19-1 to 19-3). -/
def kickPageRead (s : State) (page off : Nat) : Word :=
  let half (d : DWord) : Word := d.extractLsb' (if off % 8 = 4 then 32 else 0) 32
  match (pageCtx s page).bind s.ctx? with
  | none => 0
  | some x =>
    if off = 0x200 ∨ off = 0x204 then half x.pendBits
    else if 0x400 ≤ off ∧ off < 0x500 then
      let q := (off - 0x400) / 4
      let k := s.kick page q
      BitVec.ofNat 32 ((decide (q < x.nq)).toNat * 2 ^ 31 + k.ovf.toNat * 2 ^ 30 + k.bad.toNat * 2 ^ 29 +
        ((assoc q x.queues).getD []).length)
    else if off = 0x600 then
      BitVec.ofNat 32 ((s.kerr.contains page).toNat * 16 + (s.runset x.cxid != 0).toNat * 8 + x.state.code)
    else if off = 0x700 ∨ off = 0x704 then half x.sentry
    else if off = 0x708 then BitVec.ofNat 32 (x.sgw * 2 ^ 30 + x.src8 * 2 ^ 26)
    else 0

/-- A word of a function's MSI-X table or pending bits (R438, R439). -/
def msixRead (s : State) (fn off : Nat) : Word :=
  let ent (vec : Nat) : Msix := (s.msix.find? fun m => m.fn == fn && m.vec == vec).getD ⟨fn, vec, true, false⟩
  if off < 0x8000 then
    if off % 16 = 12 then BitVec.ofNat 32 (ent (off / 16)).masked.toNat
    else ((s.mmio.find? fun e => e.1 == fn && e.2.1 == off).map fun e => e.2.2).getD 0
  else if off < 0x8100 then
    BitVec.ofNat 32 (((List.range 32).map fun k => (ent (8 * (off - 0x8000) + k)).pba.toNat * 2 ^ k).sum)
  else 0

/-- What a host read of an aligned word of a BAR returns, where the spec says (R10, R401, R438 to R440, R443, R449): `none`
for the recovery and debug mailboxes, whose read values it does not give; the command area reads as written
(DESIGN CHOICE, notes/assumptions/43.md). -/
def barRead (s : State) (fn bar off : Nat) : Option Word :=
  if s.service == .recovery then (if fn = 0 ∧ bar = 4 then none else some 0)
  else if fn ≠ 0 ∧ (s.vfAt (fn - 1)).tdi = .error then some 0
  else match bar with
    | 0 => some (msixRead s fn off)
    | 2 => some (if fn = 0 ∨ off < 4096 then kickPageRead s (pageOfBar fn off) (off % 4096) else 0)
    | 4 =>
      if fn ≠ 0 ∨ (0x1000 ≤ off ∧ off < 0x2000) then none
      else if off < 0x400 then some ((assoc off s.hostif.area).getD 0)
      else if off < 0x800 then some (s.answer.getD ((off - 0x400) / 4) 0)
      else if off = 0x800 then some (BitVec.ofNat 32 (goReads s).toNat)
      else some 0
    | _ => some 0

/-- MSIX_UNMASK (R439). -/
def execMsixUnmask (fn : HostAt) (vec : Nat) (s : State) : Host.Outcome State Fault Refusal :=
  if s.service == .recovery || !teeTaken s fn.n fn.tee || decide (2048 ≤ vec) || decide (384 < fn.n) || (fn.n != 0 && !s.vfEnable) then .next s
  else .next (msixEntryWrite s fn.n fun quiet s => maskEntry s fn.n vec false quiet)

/-! ## Host and peer accesses (R94, R447) -/

/-- The host or a peer device: a member of .sys alone (R94, R95). -/
def outsideBy : By := { who := { outside := true } }

/-- Answer a request of a peer, or of the host. -/
def answerPort (s : State) (port : Option Nat) (code : Nat) (data : List Byte) : State :=
  { s with hostif := { s.hostif with ans := some { port := port, code := code, data := data } } }

/-- An access to a buffer that does not come from a context, performed at the point of coherence: a CLEAN frame is OWNED from then
on (R94, R373) (DEDUCED, notes/assumptions/56.md). -/
def performOutside (s : State) (b off : Nat) (port : Option Nat) (op : PeerOp) (bytes : List Byte) : State :=
  let s := firstAccess s b off
  match op with
  | .read n =>
    if s.poisoned b off n then answerPort s port Cause.uncorrectable.code []
    else answerPort { s with free := s.free + 1 } port 0 (loadBytes s b off n)
  | .write => wake (answerPort (s.writeAtoms b off outsideBy (atoms bytes)) port 0 [])
  | .atomic op n b' c =>
    let old := s.readBuf b off n
    if s.poisoned b off n then answerPort s port Cause.uncorrectable.code []
    else
      let t := match rmwNew op n (BitVec.ofNat 64 (leNat old)) b' c with
        | some x => s.writeMem b off (leBytes n x.toNat) { outsideBy with rmw := true }
        | none => s
      wake (answerPort t port 0 old)
  | .remote .. => s

/-- HOST_MEMORY_ACCESS (R94): eight bytes of a buffer of this device's memory, read or written at the point of coherence
(DESIGN CHOICE, notes/assumptions/21.md). -/
def execHostMemoryAccess (b off : Nat) (wr : Bool) (data : DWord) (s : State) : Host.Outcome State Fault Refusal :=
  match s.buf? b with
  | none => .next s
  | some x =>
    if off % 8 ≠ 0 ∨ x.size * 65536 < off + 8 ∨ x.kind = .peer ∨ (wr = true ∧ x.kind = .flash) ∨ s.service = .recovery then .next s
    else .next (performOutside s b off none (if wr then .write else .read 8) (leBytes 8 data.toNat))

/-- The translation that an ingress entry stands for: its buffer, with the rights of its ceiling (R447). -/
def Ingress.ent (e : Ingress) (s : State) (off : Nat) : XEnt :=
  { cxid := e.cxid, page := 0, size := 0, b := e.b, off := off, r := e.r, w := e.w, x := e.x, hops := [], owner := ownerTag s e.b off }

/-- Bytes that a request over a link takes, and whether it is one that the fabric carries: a piece of a 128-byte line, an atomic
word of 4 or 8 bytes, or a granule (R446) (DESIGN CHOICE, notes/assumptions/40.md). -/
def peerShape (off : Nat) (bytes : List Byte) : PeerOp → Option (Nat × Need)
  | .read n => if 0 < n ∧ off % 128 + n ≤ 128 then some (n, .load) else none
  | .write => if 0 < bytes.length ∧ off % 128 + bytes.length ≤ 128 then some (bytes.length, .store) else none
  | .atomic _ n _ _ => if (n = 4 ∨ n = 8) ∧ off % n = 0 then some (n, .rmw) else none
  | .remote d _ => if off % ruAlign d = 0 then some (min 128 (ruBytes d), .rmw) else none

/-- A remote update that a peer has sent: the checks of R281 on its lines, as those of the entry's context. -/
def peerUpdate (s : State) (e : Ingress) (off : Nat) (d pay : List Word) : RuReq :=
  let ls : List (Option (Nat × Nat)) := (List.range (ruLines d)).map fun i =>
    if (permit s e.cxid (e.ent s (off + 128 * i)) (off + 128 * i) (min 128 (ruBytes d)) .rmw).isNone then some (e.b, lineOff (off + 128 * i))
    else none
  { id := s.nextId, cxid := e.cxid, gid := s.nextId, tid := 0, core := 0, part := 0, grp := 0, lane := 0, slot := 32, defn := d,
    va := BitVec.ofNat 64 off, b := e.b, off := off, pay := pay, ropr := true, pend := 0, op := s.nextId, ord := 0, scope := 5,
    sent := true, admitted := true, at_ := s.nextId, cause := Cause.protection.code, fmask := faultMask (ls.map Option.isNone),
    lines := ls, opens := ls.map fun _ => [ownerTag s e.b off], outside := true }

/-- A remote update that a peer has sent is applied as one of its home unit's requests, once those that came before it are, and its
words go back (R262, R273, R277, R447). -/
def performPeerUpdate (s : State) (port : Nat) (e : Ingress) (off : Nat) (d pay : List Word) : State :=
  let r := peerUpdate s e off d pay
  if s.rus.any fun x => ruHolds x r then s
  else
    let x := ruApplication (r.places'.foldl (fun s p => firstAccess s p.1 p.2) s) r
    let s := { x.s with nextId := s.nextId + 1, free := x.s.free + 1 }
    wake (answerPort (ruFill s r) (some port) x.cause (wordsBytes (x.out ++ [ruStatusWord { r with fmask := x.fmask, cause := x.cause, wr := x.wr }])))

/-- PEER_REQUEST (R446, R447): an entry of the port that exports the buffer checks the request as an access by its context; one that
matches no entry or fails its check is answered with PROTECTION (DESIGN CHOICE, notes/assumptions/40.md). -/
def execPeerRequest (port b off : Nat) (op : PeerOp) (data : List Byte) (s : State) : Host.Outcome State Fault Refusal :=
  if !(s.links.any fun l => l.port == port && l.up) then .next s
  else match peerShape off data op with
    | none => .next s
    | some (n, need) =>
      let deny := answerPort s (some port) Cause.protection.code []
      match s.ingress.find? fun e => e.port == port && e.b == b with
      | none => .next deny
      | some e => if (permit s e.cxid (e.ent s off) off n need).isSome then .next deny
        else match op with
          | .remote d pay => .next (performPeerUpdate s port e off d pay)
          | op => .next (performOutside s b off (some port) op data)

/-! ## Links (R446, R448) -/

/-- Device-link ports in service (R451). -/
def portPresent (s : State) (port : Nat) : Bool :=
  match s.service with
  | .recovery => false
  | .chrysalis => decide (port < 8)
  | .full => decide (port < 16)

/-- LINK_UP (R446): a port carries traffic once the peer's certificate has verified. -/
def execLinkUp (port : Nat) (verified : Bool) (s : State) : Host.Outcome State Fault Refusal :=
  if !portPresent s port then .next s
  else .next { s with links := ⟨port, verified, verified⟩ :: s.links.filter fun l => l.port != port }

/-- Whether a buffer is a peer's behind a port. -/
def behind (s : State) (port b : Nat) : Bool :=
  match s.buf? b with
  | some x => x.kind == .peer && x.port == port
  | none => false

/-- LINK_DOWN (R448): the requests that wait for the peer complete with PEER_ABSENT. -/
def execLinkDown (port : Nat) (s : State) : Host.Outcome State Fault Refusal :=
  let s : State := { s with links := s.links.map fun l => if l.port == port then { l with up := false } else l }
  let rs := (s.reqs.filter fun r => r.blk.isNone && r.stage == .port && behind s port r.b).map Req.id
  let us := (s.rus.filter fun r => r.admitted && !r.applied && behind s port r.b).map RuReq.id
  .next (us.foldl ruPeerFail (rs.foldl peerFail s))

/-! ## Boot and power (R449, R451, R453, R435) -/

/-- Whether the boot ROM accepts a firmware image: both signatures verify against the key hashes in fuses, and the version is not
below the rollback counter (R449). -/
def bootAccepts (f : Fuses) (img : FwImage) : Bool :=
  Config.verifies 0 f.ed img.body img.ed && Config.verifies 1 f.mldsa img.body img.mldsa && decide (f.rollback ≤ img.version)

/-- The device after a cold reset with an image: only what outlasts power stays, which is fuses, flash and the memory behind the CXL
ports; the model's own counters and agenda go on. An image that is not accepted is not run, and the device offers the recovery
mailbox alone (R449, R451). -/
def coldState (s : State) (img : FwImage) : State :=
  let ok := bootAccepts s.hostif.fuses img
  { State.reset with
    service := if ok then .chrysalis else .recovery
    hostif := { fuses := s.hostif.fuses, image := if ok then img else {} }
    mem := s.mem.filter fun c => decide (flashBase ≤ c.1)
    poison := s.poison.filter fun p => decide (flashBase ≤ 32 * p)
    flash := s.flash.map fun k => { k with erasing := false }
    free := s.free
    agenda := s.agenda }

/-- COLD_RESET (R449, R451): with the image that the boot ROM finds. -/
def execColdReset (img : FwImage) (s : State) : Host.Outcome State Fault Refusal := .next (coldState s img)

/-- RECOVERY_IMAGE (R449): the recovery mailbox takes an image, which is run if both checks accept it. -/
def execRecoveryImage (img : FwImage) (s : State) : Host.Outcome State Fault Refusal :=
  if s.service == .recovery && bootAccepts s.hostif.fuses img then .next (coldState s img) else .next s

/-- The highest arithmetic clock of the service offered, in steps of 0.125 GHz (R451, R452). -/
def topClock (s : State) : Nat := if s.service == .full then 10 else 5

/-- THERMAL_THROTTLE (R453): the clock goes one step down, never below 0.625 GHz, or one step up. -/
def execThermalThrottle (up : Bool) (s : State) : Host.Outcome State Fault Refusal :=
  .next { s with freq := if up then max s.freq (min (topClock s) (s.freq + 1)) else if s.freq ≤ 5 then s.freq else s.freq - 1 }

/-- THERMAL_STOP (R453): only at 0.625 GHz (DEDUCED, notes/assumptions/36.md). -/
def execThermalStop (s : State) : Host.Outcome State Fault Refusal :=
  if s.freq ≤ 5 then .next (stopAll s 5) else .next s

/-- BRIDGE_FAILURE (R435): the bridge is trained in full service only. -/
def execBridgeFailure (s : State) : Host.Outcome State Fault Refusal :=
  if s.service == .full then .next (stopAll s 4) else .next s

end Sys2Proof.Machine
end

