-- ==== Sys2Proof/Machine/Debug.lean ====
section
/-! DEFINITION. The debug port (R63, R396 to R398): its reach, its commands and its answers. One command is in
progress at a time: while a register command is held, the port takes no other. -/

namespace Sys2Proof.Machine

/-- Status codes of Table 18-10. -/
inductive DbgSt where
  | ok | busy | notStopped | noTarget | denied | badReg | fault | noEvent
deriving DecidableEq, Repr

/-- The code of a status. -/
def DbgSt.code : DbgSt → Nat
  | .ok => 0 | .busy => 1 | .notStopped => 2 | .noTarget => 3 | .denied => 4 | .badReg => 5 | .fault => 6 | .noEvent => 7

/-- The answer record: the command's fields with the status as op, and four data words (Table 18-8)
(DESIGN CHOICE, notes/assumptions/35.md). -/
def dbgRecord (c : DbgCmd) (st : DbgSt) (data : List Word) : List Word :=
  [BitVec.ofNat 32 (st.code * 2 ^ 24 + c.cls % 16 * 2 ^ 20 + c.cxid % 65536),
   BitVec.ofNat 32 (c.core % 256 * 2 ^ 24 + c.part % 4 * 2 ^ 22 + c.slot % 32 * 2 ^ 17 + c.run % 4 * 2 ^ 15 + c.thr % 64 * 512 + c.num % 512),
   pairLo c.addr, pairHi c.addr] ++ (List.range 4).map fun i => data.getD i 0

/-- Answer a command; a held command ends. -/
def dbgReply (s : State) (c : DbgCmd) (st : DbgSt) (data : List Word) : State :=
  { s with dbgAnswer := dbgRecord c st data, dbgNext := [], dbgHold := none }

/-- Whether a command lies within its port's reach: any context for the host, the context of the VF and its descendants
for the VF's driver; a locked TDI only with debug enabled (R396, R442) (DEDUCED, notes/assumptions/45.md). -/
def inReach (s : State) (c : DbgCmd) : Bool :=
  match c.who with
  | none => true
  | some n =>
    let v := s.vfAt n
    let open_ := v.tdi == .unlocked || v.dbg
    match v.cxid with
    | some k => open_ && inSubtree s k c.cxid
    | none => false

/-- Whether the port takes a command now: in service, outside ERROR, and no other command is held. -/
def portFree (s : State) (c : DbgCmd) : Bool :=
  s.service != .recovery && (match s.dbgHold with
    | some h => h.cmd == c
    | none => true) && (match c.who with
    | some n => s.vfEnable && (s.vfAt n).tdi != .error
    | none => true)

/-- Run a command on a live target within reach (DEDUCED, notes/assumptions/45.md). -/
def onTarget (c : DbgCmd) (s : State) (eff : Ctx → State → State) : Host.Outcome State Fault Refusal :=
  if !portFree s c then .next s
  else if !inReach s c then .next (dbgReply s c .denied [])
  else match s.ctx? c.cxid with
    | none => .next (dbgReply s c .noTarget [])
    | some x => if x.state == .killed then .next (dbgReply s c .noTarget []) else .next (eff x s)

/-- The group that a command names (Table 18-8). -/
def namedGroup (s : State) (c : DbgCmd) : Option Group :=
  s.groups.find? fun g => g.cxid == c.cxid && g.core == c.core && g.part == c.part && g.slot == c.slot && g.base == 16 * c.run

/-- Run a command on the group it names. -/
def onGroup (c : DbgCmd) (s : State) (eff : Group → State → State) : Host.Outcome State Fault Refusal :=
  onTarget c s fun _ s => match namedGroup s c with
    | some g => eff g s
    | none => dbgReply s c .noTarget []

/-! ## ATTACH, DETACH and EVENT -/

/-- ATTACH: bits [25:1] of the address word are the trap mask (R397). -/
def execAttach (c : DbgCmd) (s : State) : Host.Outcome State Fault Refusal :=
  onTarget c s fun _ s =>
    let m : BitVec 32 := BitVec.ofNat 32 (c.addr.toNat % 2 ^ 26 / 2 * 2)
    dbgReply { s with attach := ⟨c.who, c.cxid, m⟩ :: s.attach.filter fun a => !(a.who == c.who && a.cxid == c.cxid) } c .ok []

/-- DETACH: stopped threads stay stopped (R397). -/
def execDetach (c : DbgCmd) (s : State) : Host.Outcome State Fault Refusal :=
  onTarget c s fun _ s =>
    dbgReply { s with attach := s.attach.filter fun a => !(a.who == c.who && a.cxid == c.cxid) } c .ok []

/-- Whether a posted record lies within a port's reach. -/
def eventFor (s : State) (c : DbgCmd) (w : List Word) : Bool := inReach s { c with cxid := bitsOf (wAt w 0) 16 16 }

/-- A record in answers of 32 bytes, the last filled with zeros (R396). -/
def answersOf (ws : List Word) : List (List Word) :=
  (List.range ((ws.length + 7) / 8)).map fun k => (List.range 8).map fun i => ws.getD (8 * k + i) 0

/-- EVENT: the oldest posted trap record, four words in the answer's data and the others in the next answers (R397)
(DEDUCED, notes/assumptions/35.md). -/
def execEvent (c : DbgCmd) (s : State) : Host.Outcome State Fault Refusal :=
  onTarget c s fun _ s => match s.dbgEvents.find? (eventFor s c) with
    | none => dbgReply s c .noEvent []
    | some w =>
      let s := dbgReply { s with dbgEvents := s.dbgEvents.erase w } c .ok (w.take 4)
      { s with dbgNext := answersOf (w.drop 4) }

/-! ## HALT, RESUME, STEP and RESTART -/

/-- Stop threads of a group at the unit boundary: its run ends (R397). -/
def haltGroup (s : State) (g : Group) : State := stopThreads (endRun s g.gid) g.gid g.live

/-- Groups of a grid, resident or saved with their blocks. -/
def gridGroups (s : State) (gr : Nat) : List Group :=
  (s.groups ++ s.blocks.flatMap fun b => b.saved.getD []).filter fun x => x.gr == gr

/-- HALT: the named group, or its whole grid when thr is 63 and num 0x1FF (R397). -/
def execHalt (c : DbgCmd) (s : State) : Host.Outcome State Fault Refusal :=
  onGroup c s fun g s =>
    let all := c.thr == 63 && c.num == 0x1FF && g.gr != 0
    let gs := if all then gridGroups s g.gr else [g]
    dbgReply (gs.foldl haltGroup s) c .ok []

/-- RESUME: stopped threads run on, from their region entries where the regions were discarded (R121); a group in a frame for the debugger is restored (R376, R397)
(DEDUCED, notes/assumptions/41.md). -/
def execResume (c : DbgCmd) (s : State) : Host.Outcome State Fault Refusal :=
  onGroup c s fun g s =>
    dbgReply (s.updGrp g.gid fun g => { g with
      threads := g.threads.map fun th => { (if g.hold.isNone then th.reentered else th) with stopped := false, waited := 0 }
      hold := g.hold.map fun h => match h.why with
        | .debugger _ => { h with why := .debugger true }
        | _ => h }) c .ok []

/-- Threads of a group that could issue if the debugger let them. -/
def steppable (g : Group) : List Nat :=
  g.live.filter fun t => (g.thr t).park.isNone && (g.thr t).settle.isNone

/-- STEP: the candidate path gets a run of one unit; it waits while another run holds the partition (R397). -/
def execStep (c : DbgCmd) (s : State) : Host.Outcome State Fault Refusal :=
  onGroup c s fun g s =>
    let ts := g.pathOf (steppable g)
    if g.hold.isSome || ts.isEmpty then dbgReply s c .ok []
    else if s.runs.any fun r => r.core == g.core && r.part == g.part && r.gid != g.gid then s
    else
      let s := stopThreads (endRun s g.gid) g.gid g.live
      let s := s.updGrp g.gid fun g => (g.updThrs ts fun th => { th.reentered with stopped := false }).startRun s
      let sd := ((s.ctx? g.cxid).map Ctx.sdbg).getD false
      let r : Run := { core := g.core, part := g.part, gid := g.gid, tids := ts, start := s.clk, single := true, sdbg := sd }
      dbgReply { s with runs := s.runs ++ [r] } c .ok []

/-- RESTART: a cocoon save with the group stopped; RESUME re-enters each region (R397). -/
def execRestart (c : DbgCmd) (s : State) : Host.Outcome State Fault Refusal :=
  onGroup c s fun g s =>
    if g.hold.isSome then dbgReply s c .ok []
    else dbgReply ((endRun s g.gid).updGrp g.gid fun g => { g with hold := some ⟨.debugger false, false⟩ }) c .ok []

/-! ## RDREG and WRREG (R63, R398) -/

/-- The thread a register command names: it exists and is stopped, by a trap, by the debugger, or in a frame. -/
def dbgThread (g : Group) (c : DbgCmd) : Except DbgSt Thread :=
  if g.width ≤ c.thr ∨ (g.thr c.thr).exited = true then .error .noTarget
  else if !((g.thr c.thr).stopped || g.hold.isSome) then .error .notStopped
  else .ok (g.thr c.thr)

/-- Whether a class and number name a register: v below the declared count, 32 s registers, p, 8 m registers, PC, lr and
two stream registers (Table 18-8). -/
def regNamed (g : Group) (c : DbgCmd) : Bool :=
  match c.cls with
  | 0 => decide (c.num < g.nregs)
  | 1 => decide (c.num < 32)
  | 3 => decide (c.num < 8)
  | 6 => decide (c.num < 2)
  | 2 | 4 | 5 => true
  | _ => false

/-- Whether a result to the register is in flight: a group in its frame never waits (R398). -/
def regPending (g : Group) (c : DbgCmd) : Bool :=
  let inFrame := (g.hold.map Hold.saved).getD false
  let hits (r : Nat) (th : Thread) : Bool := th.pend.any fun p => p.dsts.contains (some r)
  !inFrame && (match c.cls with
    | 0 => hits c.num (g.thr c.thr)
    | 1 => g.threads.any (hits (96 + c.num))
    | _ => false)

/-- A stream register as the port reads it: without its valid bit, which the port neither reads nor writes (R63), and without
its reserved bits [22:2], which read as zero (R10, R59). -/
def msView (x : BitVec 128) : BitVec 128 := x &&& ~~~((0x3FFFFF : BitVec 128) <<< 2)

/-- The words of a register. -/
def regRead (s : State) (g : Group) (c : DbgCmd) : List Word :=
  let th := g.thr c.thr
  match c.cls with
  | 0 => [rdReg s g c.thr th c.num]
  | 1 => [rdReg s g c.thr th (96 + c.num)]
  | 2 => [th.p.setWidth 32]
  | 3 => [pairLo (g.m.getD c.num 0), pairHi (g.m.getD c.num 0)]
  | 4 => [pairLo th.pc, pairHi th.pc]
  | 5 => [pairLo th.lr, pairHi th.lr]
  | _ =>
    let x := msView (if c.num = 0 then g.ms0 else g.ms1)
    (List.range 4).map fun i => x.extractLsb' (32 * i) 32

/-- The data of a command as one 128-bit value. -/
def dbgData (c : DbgCmd) : BitVec 128 := BitVec.ofNat 128 ((List.range 4).map fun i => wAt c.data i * 2 ^ (32 * i)).sum

/-- A stream register after a write: its valid bit stays, and its reserved bits ignore the write. -/
def msPut (old x : BitVec 128) : BitVec 128 := msView x ||| (old &&& ((1 : BitVec 128) <<< 23))

/-- Write a register: a new PC commits the held stores, clears the guard state and opens a region there (R398). -/
def regWrite (s : State) (g : Group) (c : DbgCmd) : State :=
  let x := c.data.getD 0 0
  let y := dAt c.data 0
  match c.cls with
  | 0 => s.updThr g.gid c.thr fun th => th.wrV c.num x
  | 1 => s.updGrp g.gid fun g => g.wrS (96 + c.num) x
  | 2 => s.updThr g.gid c.thr fun th => { th with p := x.setWidth 12 }
  | 3 => wake (s.updGrp g.gid fun g => { g with m := g.m.set c.num y })
  | 4 => (commit s g.gid [c.thr] fun _ => y).updThr g.gid c.thr fun th => { th with pc := y, guard := none }
  | 5 => s.updThr g.gid c.thr fun th => { th with lr := y }
  | _ => s.updGrp g.gid fun g =>
      if c.num = 0 then { g with ms0 := msPut g.ms0 (dbgData c) } else { g with ms1 := msPut g.ms1 (dbgData c) }

/-- Whether the held command has been held for longer than 65,536 clk (R63, R398). -/
def holdOver (s : State) : Bool := s.dbgHold.any fun h => decide (h.since + 65536 < s.clk)

/-- A register command: checked, held while a result to the register is in flight, then performed; one that is held for too
long answers BUSY and writes nothing (R63, R398). -/
def regCommand (wr : Bool) (c : DbgCmd) (s : State) : Host.Outcome State Fault Refusal :=
  onGroup c s fun g s => match dbgThread g c with
    | .error e => dbgReply s c e []
    | .ok _ =>
      if !regNamed g c then dbgReply s c .badReg []
      else if holdOver s then dbgReply s c .busy []
      else if regPending g c then { s with dbgHold := some (s.dbgHold.getD { cmd := c, wr := wr, since := s.clk }) }
      else if wr then dbgReply (regWrite s g c) c .ok [] else dbgReply { s with free := s.free + 1 } c .ok (regRead s g c)

/-- RDREG (R397, R398). -/
def execRdreg (c : DbgCmd) (s : State) : Host.Outcome State Fault Refusal := regCommand false c s

/-- WRREG (R397, R398). -/
def execWrreg (c : DbgCmd) (s : State) : Host.Outcome State Fault Refusal := regCommand true c s

/-- DEBUG_HOLD_TIMEOUT: a command held longer than 65,536 clk answers BUSY (R398). -/
def execDebugHoldTimeout (s : State) : Host.Outcome State Fault Refusal :=
  match s.dbgHold with
  | some h => if holdOver s then .next (dbgReply s h.cmd .busy []) else .next s
  | none => .next s

/-! ## RDMEM and WRMEM (R397) -/

/-- The checks of a memory command, as those of a thread's access. -/
def dbgAccess (s : State) (c : DbgCmd) (need : Need) : Except Nat Spot :=
  match gcheck s c.cxid c.addr c.num need with
  | .error f => .error f.cause.code
  | .ok p => match placeFault s c.cxid c.addr p (if need.r then c.num else 0) with
    | some f => .error f.cause.code
    | none => .ok p

/-- A memory command: a size that is none of 1, 2, 4, 8, 16 names no access. -/
def memCommand (c : DbgCmd) (need : Need) (eff : Spot → State → State) (s : State) : Host.Outcome State Fault Refusal :=
  onTarget c s fun _ s =>
    if !([1, 2, 4, 8, 16].contains c.num) then dbgReply s c .badReg []
    else match dbgAccess s c need with
      | .error k => dbgReply s c .fault [BitVec.ofNat 32 k]
      | .ok p => eff p (touch s p)

/-- RDMEM: a load at .sys. -/
def execRdmem (c : DbgCmd) (s : State) : Host.Outcome State Fault Refusal :=
  memCommand c .load (fun p s =>
    let x : BitVec 128 := BitVec.ofNat 128 (leNat (loadBytes s p.b p.off c.num))
    dbgReply { s with free := s.free + 1 } c .ok ((List.range 4).map fun i => x.extractLsb' (32 * i) 32)) s

/-- WRMEM: a committed store at .sys. -/
def execWrmem (c : DbgCmd) (s : State) : Host.Outcome State Fault Refusal :=
  memCommand c .store (fun p s => dbgReply (wake (s.writeMem p.b p.off (leBytes c.num (dbgData c).toNat))) c .ok []) s

end Sys2Proof.Machine
end

