-- ==== Sys2Proof/Machine/Mgmt.lean ====
section
/-! DEFINITION. The management mailbox (R440): each command's effect and its answer. Commands run one at a time; a
command waits while an erase is unfinished. -/

namespace Sys2Proof.Machine

/-- Status codes of the answer word (R440). -/
def mDone : Nat := 0x00
/-- A rule of the cited chapter is broken. -/
def mRefused : Nat := 0x40
/-- The state does not allow the command yet. -/
def mBusy : Nat := 0x41

/-- Write an answer: its answer word, then data words. -/
def reply440 (s : State) (w : Nat) (data : List Word) : State := { s with answer := BitVec.ofNat 32 w :: data }

/-- No such code. -/
def mUnknown : Nat := 0x42

/-- Whether the mailbox takes a command: not in recovery, nor while another is at work. -/
def mgmtFree (s : State) : Bool := s.service != .recovery && !goReads s

/-- A command without context answer: refused or busy by tests in order, else its effect (R440)
(DEDUCED, notes/assumptions/43.md). -/
def command (s : State) (refused busy : Bool) (eff : State → State) : Host.Outcome State Fault Refusal :=
  if !mgmtFree s then .next s
  else if refused then .next (reply440 s mRefused [])
  else if busy then .next (reply440 s mBusy [])
  else .next (reply440 (eff s) mDone [])

/-! ## 0x01 to 0x07: context operations as the root -/

/-- Run a context operation as the root: the code of Table 16-7 in [15:8], the value in [31:16] (R440)
(DEDUCED, notes/assumptions/43.md). A command that takes groups off their cores without save waits while one of their
operations is at the context engine (R344). -/
def asRoot (s : State) (op : State → Ctx → CtxAns) : Host.Outcome State Fault Refusal :=
  if !mgmtFree s then .next s
  else match s.ctx? 0 with
    | none => .next s
    | some i =>
      let a := op s i
      let st := if a.code = 0 then mDone else mRefused
      .next (reply440 a.st (a.value * 65536 + a.code * 256 + st) a.image)

/-- ROOT_CTX_NEW (R346). -/
def execRootCtxNew (rec : List Word) (s : State) : Host.Outcome State Fault Refusal := asRoot s fun s i => ctxNew s i rec

/-- ROOT_CTX_RUN (R347). -/
def execRootCtxRun (child : Nat) (rec : List Word) (s : State) : Host.Outcome State Fault Refusal :=
  asRoot s fun s i => ctxRun s i child rec

/-- ROOT_CTX_STOP (R348). -/
def execRootCtxStop (child : Nat) (kind deadline : Word) (s : State) : Host.Outcome State Fault Refusal :=
  asRoot s fun s i => ctxStop s i child kind.toNat deadline.toNat

/-- ROOT_CTX_GRANT (R350). -/
def execRootCtxGrant (child : Nat) (rec : List Word) (s : State) : Host.Outcome State Fault Refusal :=
  asRoot s fun s i => ctxGrant s i child rec

/-- ROOT_CTX_REVOKE (R351). -/
def execRootCtxRevoke (child : Nat) (rec : List Word) (s : State) : Host.Outcome State Fault Refusal :=
  if stopWaits s 0 child (bitOf (wAt rec 6) 17) then .next s else asRoot s fun s i => ctxRevoke s i child rec

/-- ROOT_CTX_KILL (R352). -/
def execRootCtxKill (child : Nat) (s : State) : Host.Outcome State Fault Refusal :=
  if stopWaits s 0 child true then .next s else asRoot s fun s i => ctxKill s i child

/-- ROOT_CTX_STAT (R353). -/
def execRootCtxStat (child : Nat) (s : State) : Host.Outcome State Fault Refusal := asRoot s fun s i => ctxStat s i child

/-! ## 0x08 and 0x09 -/

/-- TRAPRET_COMMAND (R356, R382): a root-bound record ends its grid or resumes its threads; a PC that fails its check
keeps the binding. -/
def execTrapretCommand (seq : Nat) (pc : DWord) (fin : Bool) (s : State) : Host.Outcome State Fault Refusal :=
  match s.recs.find? fun r => r.dest == 0 && r.seq == seq with
  | none => command s true false id
  | some r =>
    let bad := !fin && !r.trap.async && !r.trap.cocoon && !r.trap.fatal && (s.grp? r.trap.gid).isSome && (traprPcFault pc).isSome
    command s bad false fun s => wake (unbind (trapReturn s r fin pc) 0 seq)

/-- WRITE_PTROOT (R359): the offset is a multiple of 4,096 in a valid buffer. -/
def execWritePtroot (val : DWord) (s : State) : Host.Outcome State Fault Refusal :=
  command s (bitsOf val.toNat 0 12 != 0 || (s.buf? (bitsOf val.toNat 44 20)).isNone) false fun s =>
    s.updCtx 0 fun c => { c with ptroot := val }

/-! ## 0x0A: buffer-table entries (R368, R369) -/

/-- Channels of the mask in words 8 to 15. -/
def maskChans (r : List Word) : List Nat := (List.range 256).filter fun c => bitOf (wAt r (8 + c / 32)) (c % 32)

/-- Kind of a buffer entry. -/
def bufKind (r : List Word) : BufKind := match bitsOf (wAt r 0) 29 2 with
  | 0 => .hbm
  | 1 => .cxl
  | 2 => .flash
  | _ => .peer

/-- The entry that a record describes. -/
def bufOf (idx : Nat) (r : List Word) : Buf :=
  { idx := idx, kind := bufKind r, r := bitOf (wAt r 0) 28, w := bitOf (wAt r 0) 27, x := bitOf (wAt r 0) 26,
    gcode := bitsOf (wAt r 0) 22 4, size := wAt r 1, base := (dAt r 2).toNat, port := bitsOf (wAt r 4) 28 4,
    bown := bitsOf (wAt r 4) 0 16, chans := maskChans r }

/-- Reserved fields, and fields that are zero for the entry's kind (Table 17-8) (DEDUCED, notes/assumptions/46.md). -/
def bufReserved (r : List Word) (b : Buf) : Bool :=
  bitsOf (wAt r 0) 0 22 != 0 || bitsOf (wAt r 4) 16 12 != 0 || anyWord r 5 3 || decide (8 < b.gcode) ||
    decide (b.size = 0 ∨ 2 ^ 28 < b.size) || (match b.kind with
      | .hbm => b.port != 0 || b.bown != 0 || b.chans.isEmpty || b.base % 65536 != 0 || b.size % b.chans.length != 0
      | .cxl => b.gcode != 0 || !b.chans.isEmpty || b.bown != 0 || decide (2 ≤ b.port)
      | .flash => b.gcode != 0 || !b.chans.isEmpty || b.port != 0 || b.w || b.base % 4096 != 0 ||
          decide (2 ^ 42 < b.base + b.size * 65536)
      | .peer => b.gcode != 0 || !b.chans.isEmpty || decide (2 ^ 20 ≤ b.base))

/-- Bytes an HBM buffer takes in each of its channels (R369). -/
def chanSpan (b : Buf) : Nat := b.size * 65536 / b.chans.length

/-- Whether two HBM buffers overlap in a channel (R369). -/
def bufOverlap (a b : Buf) : Bool :=
  a.kind == .hbm && b.kind == .hbm && a.chans.any (fun c => b.chans.contains c) &&
    decide (a.base < b.base + chanSpan b ∧ b.base < a.base + chanSpan a)

/-- Resources that the service does not offer, or that no channel has (R422, R451)
(DEDUCED, notes/assumptions/46.md). -/
def bufAbsent (s : State) (b : Buf) : Bool :=
  let half := s.service == .chrysalis
  match b.kind with
  | .hbm => decide (chanBytes < b.base + chanSpan b) || (half && b.chans.any fun c => decide (128 ≤ c))
  | .cxl => (half && b.port == 1) || decide (2 ^ 72 ≤ b.base + b.size * 65536)
  | .flash => half
  | .peer => half && decide (8 ≤ b.port)

/-- Whether the valid CXL entries would map more than 4 TiB together (R15, R429) (DEDUCED, notes/assumptions/46.md). -/
def cxlFull (s : State) (b : Buf) : Bool :=
  b.kind == .cxl &&
    decide (2 ^ 26 < b.size + ((s.bufs.filter fun x => x.kind == .cxl && x.idx != b.idx).map Buf.size).sum)

/-- WRITE_BUFFER_ENTRY (R368, R369): while every frame of the buffer is CLEAN or the root's. The command completes with
the equivalent of tlbinv.subtree on the root: accesses under way are performed, cached translations go, and regions
with buffered stores are discarded (R366). -/
def execWriteBufferEntry (idx : Nat) (rec : List Word) (s : State) : Host.Outcome State Fault Refusal :=
  let valid := bitOf (wAt rec 0) 31
  let b := bufOf idx rec
  let bad := decide (2 ^ 20 ≤ idx) || (valid && (bufReserved rec b || bufAbsent s b || cxlFull s b ||
    s.bufs.any fun x => x.idx != idx && bufOverlap x b))
  let held := s.frames.any fun f => f.b == idx && f.st != .clean && f.owner != 0
  if !bad && !held && mgmtFree s && ((s.reqs.any fun r => r.blk.isNone && !r.performed) || (s.rus.any fun r => !r.applied) || !s.ctxops.isEmpty) then .next s
  else command s bad held fun s =>
    let rest := s.bufs.filter fun x => x.idx != idx
    let s : State := { s with
      bufs := if valid then b :: rest else rest
      frames := if valid && (b.kind == .hbm || b.kind == .cxl) then s.frames else s.frames.filter fun f => f.b != idx
      tlb := []
      walks := []
      lastPages := []
      l1 := s.l1.filter fun c => c.b != idx
      l2 := s.l2.filter fun c => c.b != idx }
    wake (discardWhere s fun y => y.glob)

/-! ## 0x0B: partition records (R409, R410) -/

/-- The record's fields; its cxid is read-only (Table 19-5). -/
def partOfRec (i : Nat) (old : PartRec) (r : List Word) : PartRec :=
  let wide (k n : Nat) : Nat := ((List.range n).map fun j => wAt r (k + j) * 2 ^ (32 * j)).sum
  { i := i, cxid := old.cxid, vfcnt := bitsOf (wAt r 1) 16 9, vfnq := bitsOf (wAt r 1) 9 7, vffirst := bitsOf (wAt r 1) 0 9,
    clus := BitVec.ofNat 48 (wide 2 2), slices := BitVec.ofNat 128 (wide 4 4), chans := BitVec.ofNat 256 (wide 8 8),
    cxlm := BitVec.ofNat 2 (bitsOf (wAt r 16) 16 2), links := BitVec.ofNat 16 (wAt r 16), ugrp := BitVec.ofNat 32 (wAt r 17) }

/-- Whether two records share a resource or a virtual function (R410). -/
def partOverlap (a b : PartRec) : Bool :=
  a.clus &&& b.clus != 0 || a.slices &&& b.slices != 0 || a.chans &&& b.chans != 0 || a.cxlm &&& b.cxlm != 0 ||
    a.links &&& b.links != 0 || a.ugrp &&& b.ugrp != 0 ||
    decide (a.vfcnt ≠ 0 ∧ b.vfcnt ≠ 0 ∧ a.vffirst < b.vffirst + b.vfcnt ∧ b.vffirst < a.vffirst + a.vfcnt)

/-- The refusals of R410 on one record. -/
def partBad (s : State) (p : PartRec) (r : List Word) : Bool :=
  let group (g : Nat) : List Bool := (List.range 8).map fun k => p.chans.getLsbD (8 * g + k)
  let quota := match s.ctx? p.cxid with
    | some x => if p.cxid = 0 then none else some (x.qbud - x.nq)
    | none => none
  bitsOf (wAt r 0) 16 16 != 0 || bitsOf (wAt r 1) 25 7 != 0 || bitsOf (wAt r 3) 16 16 != 0 || bitsOf (wAt r 16) 18 14 != 0 ||
    anyWord r 18 14 || decide (64 < p.vfnq) || decide (384 < p.vffirst + p.vfcnt) ||
    ((List.range 32).any fun g => ((group g).all id) != p.ugrp.getLsbD g || ((group g).any id && !(group g).all id)) ||
    ((List.range 256).any fun c => p.chans.getLsbD c && !p.slices.getLsbD (c / 2)) ||
    (match quota with
      | some q => decide (q < p.vfnq * p.vfcnt)
      | none => false)

/-- Bits of resources that chrysalis mode lacks (R451). -/
def partAbsent (s : State) (p : PartRec) : Bool :=
  s.service == .chrysalis && (p.i != 0 || p.clus.toNat >>> 24 != 0 || p.slices.toNat >>> 64 != 0 ||
    p.chans.toNat >>> 128 != 0 || p.cxlm.getLsbD 1 || p.links.toNat >>> 8 != 0 || p.ugrp.toNat >>> 16 != 0)

/-- WRITE_PARTITION_RECORD (R409 to R411): only while the partition has no context, or a STOPPED one, whose cores stay in its
clusters. -/
def execWritePartitionRecord (i : Nat) (rec : List Word) (s : State) : Host.Outcome State Fault Refusal :=
  let old := s.part i
  let p := partOfRec i old rec
  let cores := ((s.ctx? old.cxid).map Ctx.cores).getD 0
  let short := old.cxid != 0 && (List.range 192).any fun c => cores.getLsbD c && !p.clus.getLsbD (c / 4)
  let bad := decide (20 ≤ i) || short || partBad s p rec || partAbsent s p || s.parts.any fun x => x.i != i && partOverlap x p
  let held := old.cxid != 0 && (s.ctx? old.cxid).map Ctx.state != some .stopped
  command s bad held fun s => { s with parts := p :: s.parts.filter fun x => x.i != i }

/-! ## 0x0C to 0x0F -/

/-- ERASE_FLASH_BLOCKS (R427): the blocks are under erasure from now on; the command is answered when the last one is
erased. -/
def execEraseFlashBlocks (first count : Nat) (s : State) : Host.Outcome State Fault Refusal :=
  let bad := decide (2 ^ 22 < first + count)
  if bad || s.service != .full || count = 0 then command s bad (s.service != .full) id
  else if !mgmtFree s then .next s
  else
    let old (k : Nat) : FlashBlk := (s.flash.find? fun b => b.blk == k).getD ⟨k, 0, false, 0⟩
    let news := (List.range count).map fun j => { old (first + j) with erasing := true }
    .next { s with
      answer := []
      flash := news ++ s.flash.filter fun b => !decide (first ≤ b.blk ∧ b.blk < first + count) }

/-- WRITE_HROW_CTL (R419). -/
def execWriteHrowCtl (ch : Nat) (val : Word) (s : State) : Host.Outcome State Fault Refusal :=
  command s (decide (256 ≤ ch) || (s.service == .chrysalis && decide (128 ≤ ch))) false fun s =>
    { s with hrow := (ch, bitsOf val.toNat 20 12, bitsOf val.toNat 0 16) :: s.hrow.filter fun h => h.1 != ch }

/-- SET_SAVE_REGION_SIZE (R385): only before the first CTX.NEW. -/
def execSetSaveRegionSize (bytes : Nat) (s : State) : Host.Outcome State Fault Refusal :=
  command s false s.anyNew fun s => { s with saveBytes := bytes }

/-- READ_ERROR_COUNTS (R395, R428): the corrected and uncorrectable counts of structure `sel`, and the erase count of
erase block `sel`. Corrected errors change no state, so their count is a free value (notes/assumptions/33.md). -/
def execReadErrorCounts (sel : Nat) (s : State) : Host.Outcome State Fault Refusal :=
  let e := ((s.errs.find? fun e => e.1 == sel).map fun e => e.2).getD (0, 0)
  let n := ((s.flash.find? fun b => b.blk == sel).map FlashBlk.count).getD 0
  if !mgmtFree s then .next s
  else .next { reply440 s mDone [BitVec.ofNat 32 (e.1 + Config.corrected sel s.free), BitVec.ofNat 32 e.2, BitVec.ofNat 32 n] with
    free := s.free + 1 }

/-! ## 0x10 to 0x12 -/

/-- PROMOTE (R452): from chrysalis mode to full service, with die 1 and its resources and the clock at 1.25 GHz. -/
def execPromote (s : State) : Host.Outcome State Fault Refusal :=
  command s (s.service != .chrysalis) (s.ctxs.any fun x => x.level != 0 && (x.state == .running || x.state == .stopping))
    fun s => { s with service := .full, freq := 10 }.updCtx 0 fun c => { c with runset := c.cores }

/-- GET_ATTESTATION_REPORT (R450). -/
def execGetAttestationReport (s : State) : Host.Outcome State Fault Refusal :=
  if !mgmtFree s then .next s
  else .next { reply440 s mDone (attestation s) with free := s.free + 1 }

/-- The entry of an ingress command (Table 21-7). -/
def ingressOf (r : List Word) : Ingress :=
  { port := bitsOf (wAt r 0) 28 4, idx := bitsOf (wAt r 0) 20 8, r := bitOf (wAt r 0) 18, w := bitOf (wAt r 0) 17,
    x := bitOf (wAt r 0) 16, cxid := bitsOf (wAt r 0) 0 16, b := bitsOf (wAt r 1) 0 20 }

/-- Whether a port is held by a partition to which a context does not belong (R447). -/
def portForeign (s : State) (port cx : Nat) : Bool :=
  s.parts.any fun p => p.links.getLsbD port && (p.cxid = 0 || levelOne s cx != some p.cxid)

/-- WRITE_INGRESS_ENTRY (R447): an entry written with valid 0 stops exporting its buffer. -/
def execWriteIngressEntry (rec : List Word) (s : State) : Host.Outcome State Fault Refusal :=
  let e := ingressOf rec
  let valid := bitOf (wAt rec 0) 19
  let rest := s.ingress.filter fun x => !(x.port == e.port && x.idx == e.idx)
  let live := ((s.ctx? e.cxid).map fun x => x.state != .killed).getD false
  let bad := bitsOf (wAt rec 1) 20 12 != 0 || anyWord rec 2 6 || !portPresent s e.port ||
    !live || portForeign s e.port e.cxid || rest.any fun x => x.port == e.port && x.b == e.b
  command s bad false fun s => { s with ingress := if valid then e :: rest else rest }

/-! ## The mailbox itself (R438, R440) -/

/-- A word of the command area (DESIGN CHOICE, notes/assumptions/43.md). -/
def areaWord (s : State) (k : Nat) : Word := (assoc (4 * k) s.hostif.area).getD 0

/-- The record of a command: the words of the area from the ninth on (DESIGN CHOICE, notes/assumptions/43.md). -/
def areaRec (s : State) : List Word := (List.range 32).map fun k => areaWord s (8 + k)

/-- The command that the area holds: its code in word 0, its operands in words 1 to 7, its record from word 8 on (Table 21-2)
(DESIGN CHOICE, notes/assumptions/43.md). -/
def mailCommand (s : State) : Host.Outcome State Fault Refusal :=
  let a (k : Nat) : Nat := (areaWord s k).toNat
  let d : DWord := pairOf (areaWord s 2) (areaWord s 3)
  let r := areaRec s
  match a 0 with
  | 0x01 => execRootCtxNew r s
  | 0x02 => execRootCtxRun (a 1) r s
  | 0x03 => execRootCtxStop (a 1) (areaWord s 2) (areaWord s 3) s
  | 0x04 => execRootCtxGrant (a 1) r s
  | 0x05 => execRootCtxRevoke (a 1) r s
  | 0x06 => execRootCtxKill (a 1) s
  | 0x07 => execRootCtxStat (a 1) s
  | 0x08 => execTrapretCommand (a 1) d (bitOf (a 4) 0) s
  | 0x09 => execWritePtroot d s
  | 0x0A => execWriteBufferEntry (a 1) r s
  | 0x0B => execWritePartitionRecord (a 1) r s
  | 0x0C => execEraseFlashBlocks (a 1) (a 2) s
  | 0x0D => execWriteHrowCtl (a 1) (areaWord s 2) s
  | 0x0E => execSetSaveRegionSize d.toNat s
  | 0x0F => execReadErrorCounts (a 1) s
  | 0x10 => execPromote s
  | 0x11 => execGetAttestationReport s
  | 0x12 => execWriteIngressEntry r s
  | _ => .next (reply440 s mUnknown [])

/-- Monarch takes up the command in the mailbox. While it has to wait, GO goes on to read 1 (R440). -/
def mailTurn (s : State) : Host.Outcome State Fault Refusal :=
  if !s.hostif.go || s.flash.any FlashBlk.erasing then .next s
  else match mailCommand { s with answer := [], hostif := { s.hostif with go := false } } with
    | .next t => .next (if t.answer.isEmpty && !t.flash.any FlashBlk.erasing then s else t)
    | o => o

/-- A write to a word of the physical function's BAR 4: the command area, unless GO reads 1, and GO (R440). -/
def mailWrite (s : State) (off : Nat) (val : Word) : Host.Outcome State Fault Refusal :=
  if goReads s then .next s
  else if off < 0x400 ∧ off % 4 = 0 then .next { s with hostif := { s.hostif with area := assocSet off val s.hostif.area } }
  else if off = 0x800 ∧ val.getLsbD 0 then mailTurn { s with answer := [], hostif := { s.hostif with go := true } }
  else .next s

/-- REGISTER_WRITE (R10, R438 to R441): a word written at an offset of a BAR, or of configuration space, for which `bar` is 6
(DESIGN CHOICE, notes/assumptions/69.md), acts under the register's
access code; one with the T bit is taken only where R441 says. -/
def execRegisterWrite (dst : HostAt) (bar off : Nat) (val : Word) (s : State) : Host.Outcome State Fault Refusal :=
  let fn := dst.n
  if s.service == .recovery || !teeTaken s fn dst.tee || decide (384 < fn) ||
      (fn != 0 && (!s.vfEnable || (s.vfAt (fn - 1)).tdi == .error)) then .next s
  else match bar with
    | 0 => if off < 0x8000 ∧ off % 4 = 0 then .next (msixEntryWrite s fn (msixWrite fn off val)) else .next s
    | 2 =>
      let page := pageOfBar fn off
      if off % 4 ≠ 0 ∨ barSize fn 2 ≤ off ∨ pageCtx s page = none then .next s
      else .next (kickPageWrite s page (off % 4096) val)
    | 4 => if fn = 0 then mailWrite s off val else .next s
    | 6 =>
      if fn = 0 then .next { s with hostif := { s.hostif with bars := assocSet off val s.hostif.bars } }
      else execFrozenSetWrite fn off val s
    | _ => .next s

end Sys2Proof.Machine
end

