-- ==== Sys2Proof/Machine/MxEv.lean ====
section
/-! DEFINITION. The matrix sequencers and the power ramp (R233 to R246, Table 10-1). -/

namespace Sys2Proof.Machine

/-- The operation at the head of a sequencer's queue: the one accepted first (R236). -/
def headMx (s : State) (core part : Nat) : Option MxOp := s.mxs.find? fun m => m.core == core && m.part == part

/-- Change one operation. -/
def State.updMx (s : State) (k : Nat) (f : MxOp → MxOp) : State :=
  { s with mxs := s.mxs.map fun m => if m.id == k then f m else m }

/-- Whether an AREAD of the group that came before still has to read the tile (R88, R237). -/
def areadWaits (s : State) (m : MxOp) : Bool :=
  ((s.grp? m.gid).map fun g => g.threads.any fun th => th.pend.any fun p => match p.tile with
    | some r => r.t == m.acc && r.half == m.half && decide (p.id < m.id)
    | none => false).getD false

/-- SEQUENCER_START (R236, R242): the next accepted operation begins on a HOT array. -/
def execSequencerStart (core part : Nat) (s : State) : Host.Outcome State Fault Refusal :=
  match headMx s core part with
  | none => .next s
  | some m =>
    if m.started || (s.ramp core part).st != .hot || areadWaits s m then .next s
    else .next (s.updMx m.id fun m => { m with started := true, at_ := s.clk })

/-- A scratchpad byte as an operation reads it: the group's own earlier stores over what is performed (R237)
(DEDUCED, notes/assumptions/31.md). -/
def mxByte (b : Block) (m : MxOp) (a : Nat) : Byte :=
  match m.ovl.reverse.find? fun c => c.2.1 == a with
  | some c => c.2.2
  | none => Memory.get b.pad a

/-- Element of B in row c of k-group g, column j (R233). -/
def bElem (b : Block) (m : MxOp) (g c j : Nat) : Nat :=
  let w := (pairTypes m.pairing).2.store
  let row := msBase m.ms + g * msKinc m.ms + c * msPitch m.ms
  let n := max 1 (w / 8)
  bitsOf (leNat ((List.range n).map fun i => mxByte b m (row + j * w / 8 + i))) (j * w % 8) w

/-- Exponent byte of column j in k-group g (R234). -/
def bExp (b : Block) (m : MxOp) (g j : Nat) : Nat :=
  if (pairTypes m.pairing).2.isBx then (mxByte b m (msSbase m.ms + 64 * g + j)).toNat else 0

/-- Words of a row of the tile after the group step of k-group g (R246). A mode that the pairing does not allow writes
unpredictable words (R4). -/
def mxRow (bad : Nat → Word) (b : Block) (m : MxOp) (g t : Nat) (a : List Word) : List Word :=
  let (ta, tb) := pairTypes m.pairing
  let mode := b.mode m.half m.acc
  let per := aPer m.pairing
  let mine := (a.drop (per * g)).take per
  let as := (List.range 16).map (fieldA mine ta.store)
  let ea := (((assoc t m.ea).getD []).getD g 0)
  (List.range (msCols m.ms)).map fun j =>
    if pairMode m.pairing mode then
      stepWord ta tb mode (b.tile m.half m.acc t j) as ea ((List.range 16).map fun c => bElem b m g c j) (bExp b m g j)
    else bad j

/-- One k-group of an operation on its block's tile, whose words are read and written in one step: no accumulation of another
sequencer is lost (R88, R237) (DESIGN CHOICE, notes/assumptions/70.md). -/
def mxStep (bad : Nat → Nat → Word) (m : MxOp) (b : Block) : Block :=
  m.a.foldl (fun b' e => b'.setTile m.half m.acc e.1 0 (mxRow (bad e.1) b m m.next e.1 e.2)) b

/-- Take an MMA back from the ordinals of the threads that await it, and let them go: where a discard has sent a thread
back meanwhile, from its skip count (R121, R240). -/
def uncount (id : Nat) (th : Thread) : Thread :=
  if th.park == some (.mma id) then
    if th.ord = 0 then { th with skip := th.skip - 1, park := none } else { th with ord := th.ord - 1, park := none }
  else th

/-- An error before the operation's first tile write: an MMA's group discards its regions, but for threads that a discard
has already sent back (R240). -/
def mxEarlyError (s : State) (m : MxOp) : State :=
  if m.mma then
    let back : List Nat := ((s.grp? m.gid).map fun g => g.live.filter fun t =>
      (g.thr t).park == some (.mma m.id) && (g.thr t).ord == 0).getD []
    let s := dropMx s fun x => x.id == m.id
    let s := s.updGrp m.gid fun g => { g with threads := g.threads.map (uncount m.id) }
    match s.grp? m.gid with
    | some g => wake (discard s m.gid (g.live.filter fun t => !back.contains t))
    | none => s
  else s.updMx m.id fun x => { x with started := false }

/-- An error from the first tile write on: UNCORRECTABLE, fatal to the grid (R122, R240). -/
def mxLateError (s : State) (m : MxOp) : State :=
  match s.grp? m.gid with
  | some g => raise s g { cause := .uncorrectable, lanes := m.a.map Prod.fst, fpc := m.fpc, cxid := g.cxid }
  | none => s

/-- MATRIX_STEP (R240, R246): one k-group is summed and written, once the clk that it takes at least have passed (R252);
`err` marks a detected error. -/
def execMatrixStep (core part : Nat) (err : Bool) (s : State) : Host.Outcome State Fault Refusal :=
  match headMx s core part with
  | none => .next s
  | some m =>
    let rows := ((s.grp? m.gid).map Group.width).getD 16
    if !m.started || decide (m.kg ≤ m.next) || decide (s.clk < m.at_ + stepClk m.pairing rows (msCols m.ms)) then .next s
    else if err && m.next == 0 then .next (mxEarlyError (countErr s 10 true) m)
    else
      let s := if err then mxLateError (countErr s 10 true) m else s
      let bad (t j : Nat) : Word := unpredictable s m.cxid (Config.badStep s.free t j)
      let s := (s.updBlk m.bid (mxStep bad m)).updMx m.id fun x => { x with next := x.next + 1, at_ := s.clk }
      .next { s with free := s.free + 1 }

/-- MATRIX_OP_COMPLETE (R108, R236, R244): the MMA's threads go on, or the MLOOP retires from cnt.mx. -/
def execMatrixOpComplete (core part : Nat) (s : State) : Host.Outcome State Fault Refusal :=
  match headMx s core part with
  | none => .next s
  | some m =>
    if !m.started || decide (m.next < m.kg) then .next s
    else
      let s := dropMx s fun x => x.id == m.id
      .next (wake (if m.mma then
          s.updGrp m.gid fun g => { g with
            threads := g.threads.map fun th => if th.park == some (.mma m.id) then th.release else th }
        else s.updGrp m.gid fun g => g.opDone m.id []))

/-- RAMPUP_DONE (Table 10-1). -/
def execRampupDone (core part : Nat) (s : State) : Host.Outcome State Fault Refusal :=
  let r := s.ramp core part
  if r.st == .rampUp && decide (r.since + r.upFor ≤ s.clk) then .next (s.setRamp { r with st := .hot, since := s.clk })
  else .next s

/-- RAMPDOWN_START (Table 10-1): 240 clk without an operation in progress and outside every MBURST window. -/
def execRampdownStart (core part : Nat) (s : State) : Host.Outcome State Fault Refusal :=
  let r := s.ramp core part
  if r.st == .hot && (headMx s core part).isNone && decide (max r.since r.window + 240 ≤ s.clk) then
    .next (s.setRamp { r with st := .rampDown, since := s.clk })
  else .next s

/-- RAMPDOWN_DONE (Table 10-1): after 16 clk the array is COLD. -/
def execRampdownDone (core part : Nat) (s : State) : Host.Outcome State Fault Refusal :=
  let r := s.ramp core part
  if r.st == .rampDown && decide (r.since + 16 ≤ s.clk) then .next (s.setRamp { r with st := .cold, since := s.clk })
  else .next s

end Sys2Proof.Machine
end

