-- ==== Sys2Proof/Machine/PfxWords.lean ====
section
/-! DEFINITION. The prefixing words and words that name no instruction (R148 to R155). A prefixing word is
recorded in the run; the instruction that ends the unit answers for it. -/

namespace Sys2Proof.Machine

/-- The trap of a word of the unit that is judged at its own PC (R148). -/
def Issue.pfxTrap (u : Issue) : TrapInfo :=
  { cause := .illegalPfx, lanes := u.tids, fpc := u.ipc, cxid := u.grp.cxid }

/-- Record a prefixing word of the unit in progress: a second one of its kind is refused (R148). -/
def pfxWord (twice : Pfx → Bool) (put : Pfx → Pfx) (s : State) : Host.Outcome State Fault Refusal :=
  match s.issue? with
  | none => .next s
  | some u =>
    if twice u.pfx then .next (raise s u.grp u.pfxTrap)
    else .next { s with runs := s.runs.map fun r =>
      if r.core == u.core && r.part == u.part then { r with pfx := put r.pfx, off := r.off + 1 } else r }

/-- Whether any thread of the path is inside a GUARD range (R149). -/
def inGuard (s : State) : Bool :=
  match s.issue? with
  | some u => u.tids.any fun t => (u.grp.thr t).guard.isSome
  | none => false

/-- GUARD (R149). -/
def execGuard (o : GDF) (s : State) : Host.Outcome State Fault Refusal :=
  pfxWord (fun p => p.guard.isSome || inGuard s) (fun p => { p with guard := some o }) s

/-- BLOCK (R151). -/
def execBlock (o : BLF) (s : State) : Host.Outcome State Fault Refusal :=
  pfxWord (fun p => p.block.isSome) (fun p => { p with block := some o }) s

/-- MOD (R152). -/
def execMod (o : MDF) (s : State) : Host.Outcome State Fault Refusal :=
  pfxWord (fun p => p.mod.isSome) (fun p => { p with mod := some o }) s

/-- MXSC (R153). -/
def execMxsc (o : MSC) (s : State) : Host.Outcome State Fault Refusal :=
  pfxWord (fun p => p.mxsc.isSome) (fun p => { p with mxsc := some o }) s

/-- IMM: its 25 bits are the low bits of its major followed by its payload (R150). -/
def execImm (o : IMF) (s : State) : Host.Outcome State Fault Refusal :=
  pfxWord (fun p => p.imm.isSome) (fun p => { p with imm := some (o.h ++ o.i) }) s

/-- A prefixing word with a reserved value: bits [24:23] are judged at once (R155 step 1), any other
reserved value at step 5, so the word is recorded with its unit marked. -/
def badPfxWord (w : Word) (s : State) : Host.Outcome State Fault Refusal :=
  if fieldNat w 23 2 ≠ 0 then pfxWord (fun _ => true) id s
  else match identify w with
    | some (.guard o) => pfxWord (fun p => p.guard.isSome || inGuard s) (fun p => { p with guard := some o, bad := true }) s
    | some (.block o) => pfxWord (fun p => p.block.isSome) (fun p => { p with block := some o, bad := true }) s
    | some (.mod o) => pfxWord (fun p => p.mod.isSome) (fun p => { p with mod := some o, bad := true }) s
    | some (.mxsc o) => pfxWord (fun p => p.mxsc.isSome) (fun p => { p with mxsc := some o, bad := true }) s
    | some (.imm o) => pfxWord (fun p => p.imm.isSome) (fun p => { p with imm := some (o.h ++ o.i), bad := true }) s
    | _ => pfxWord (fun _ => true) id s

/-- A word that is no legal encoding: a reserved prefixing word; a word that names no instruction, which is
judged before the prefixing words in front of it; or an instruction with a reserved value, which is judged
after them (R155). -/
def execIllegalWord (w : Word) (s : State) : Host.Outcome State Fault Refusal :=
  if isPfxWord w then badPfxWord w s
  else match s.issue? with
    | none => .next s
    | some u =>
      .next (raise s u.grp (match identify w with
        | none => u.ti .illegalOp u.tids
        | some i =>
          if refused i u then u.pfxTrap
          else if 0x70 ≤ i.major && i.major ≤ 0x75 && !u.grp.isSup then u.ti .privileged u.tids
          else u.ti .illegalOp u.tids))

end Sys2Proof.Machine
end

