-- ==== Sys2Proof/Machine/Sync.lean ====
section
/-! DEFINITION. Fences, waits, barriers and region markers (R219 to R228). -/

namespace Sys2Proof.Machine

/-- Park the active threads of a unit. -/
def parkAct (u : Issue) (s : State) (f : Nat → Park) : State :=
  updAct u s fun t th => { th with park := some (f t) }

/-! ## FENCE, WAIT and WAITA -/

/-- FENCE: commit, a ticket per thread for .sc, and a park that FENCE_COMPLETE ends (R219). -/
def execFence (o : FNF) (s : State) : Host.Outcome State Fault Refusal :=
  execUnit (.fence o) (fun u s =>
    let s := closeRegion u s
    let n := o.ord.toNat
    let s' := if n = 4 then { s with ticket := s.ticket + u.act.length } else s
    .ok (parkAct u s' fun t => .fence s.nextId n o.scope.toNat
      (if n = 4 then some (s.ticket + u.act.idxOf t) else none))) s

/-- WAIT: commit, then park until the group's counter holds at most n (R220). -/
def execWait (o : WTF) (s : State) : Host.Outcome State Fault Refusal :=
  execUnit (.wait o) (fun u s =>
    .ok (wake (parkAct u (closeRegion u s) fun _ => .wait o.cls.toNat o.n.toNat (o.acq == 1)))) s

/-- Clk of a WAITA timeout code (Table 7-21). -/
def waitaClk (c : BitVec 2) : Option Nat :=
  match c.toNat with
  | 0 => none
  | 1 => some 4096
  | 2 => some 65536
  | _ => some 1048576

/-- WAITA: each active lane's word is checked as a load; then commit, and a park that WAITA_SATISFIED or
WATCHDOG ends (R221). -/
def execWaita (o : WAF) (s : State) : Host.Outcome State Fault Refusal :=
  execUnit (.waita o) (fun u s =>
    let va (t : Nat) : DWord := u.rd64 s t (2 * o.ap.toNat)
    match checkLanes u false u.act fun t => accGlobal u s (va t) 4 .load with
    | .error ti => .trap ti
    | .ok as =>
      let s := closeRegion u (cacheAccs u s as)
      .ok (parkAct u s fun t =>
        .waita (o.ne == 1) (u.rd s t o.b.toNat) (va t) (waitaClk o.tmo) (waitaClk o.tmo) u.upc)) s

/-! ## Block barriers (R222 to R224) -/

/-- The state of a barrier of a block; an unlisted barrier is in generation 0 without arrivals. -/
def Block.bar (b : Block) (id : Nat) : BarSt :=
  (b.bars.find? fun k => k.id == id).getD { id := id, gen := 0, arrived := [] }

/-- Set the state of a barrier of a block. -/
def Block.setBar (b : Block) (k : BarSt) : Block :=
  { b with bars := k :: b.bars.filter fun x => x.id != k.id }

/-- The barrier state that the unit's block has before the unit. -/
def Issue.bar (u : Issue) (s : State) (id : Nat) : BarSt :=
  ((s.blk? u.grp.bid).map fun b => b.bar id).getD { id := id, gen := 0, arrived := [] }

/-- Arrive at a barrier of the block: each active thread, with the requests it has made so far (R105). -/
def arrive (u : Issue) (s : State) (id : Nat) (idx : Option Nat) : State :=
  s.updBlk u.grp.bid fun b => b.setBar { b.bar id with
    arrived := (b.bar id).arrived ++ u.act.map fun t => (u.gid, t, s.nextId)
    idx := idx.orElse fun _ => (b.bar id).idx }

/-- Whether a thread holds a BARA on id that no BARW has matched. -/
def heldBara (th : Thread) (id : Nat) : Option Nat := (th.bara.find? fun e => e.1 == id).map Prod.snd

/-- BAR: arrive and park until the generation completes (R222, R223). -/
def execBar (o : BIF) (s : State) : Host.Outcome State Fault Refusal :=
  execUnit (.bar o) (fun u s =>
    let id := o.id.toNat
    let bad := u.act.filter fun t => (heldBara (u.grp.thr t) id).isSome
    if !bad.isEmpty then .trap (u.ti .barrierMismatch bad)
    else
      let gen := (u.bar s id).gen
      let s := arrive u (closeRegion u s) id none
      .ok (wake (parkAct u s fun _ => .bar id gen))) s

/-- BARA: arrive and go on (R222, R223). -/
def execBara (o : BIF) (s : State) : Host.Outcome State Fault Refusal :=
  execUnit (.bara o) (fun u s =>
    let id := o.id.toNat
    let bad := u.act.filter fun t => (heldBara (u.grp.thr t) id).isSome
    if !bad.isEmpty then .trap (u.ti .barrierMismatch bad)
    else
      let gen := (u.bar s id).gen
      let s := arrive u (closeRegion u s) id none
      .ok (wake (updAct u s fun _ th => { th with bara := (id, gen) :: th.bara }))) s

/-- BARW: wait for the generation of the last BARA, or go on as an acquire (R222, R223). -/
def execBarw (o : BIF) (s : State) : Host.Outcome State Fault Refusal :=
  execUnit (.barw o) (fun u s =>
    let id := o.id.toNat
    let bad := u.act.filter fun t => (heldBara (u.grp.thr t) id).isNone
    if !bad.isEmpty then .trap (u.ti .barrierMismatch bad)
    else
      let k := u.bar s id
      let s := closeRegion u s
      .ok (updAct u s fun _ th =>
        let past := match heldBara th id with
          | some n => decide (n < k.gen)
          | none => true
        let th := { th with
          bara := th.bara.filter fun e => e.1 != id
          park := if past then none else some (.barw id ((heldBara th id).getD 0)) }
        if past then th.learn s.nextId k.seen.known else th)) s

/-- BAR.PE: arrive at the pre-emption barrier with a live-table index (R223, R224). -/
def execBarPe (o : BPF) (s : State) : Host.Outcome State Fault Refusal :=
  execUnit (.barPe o) (fun u s =>
    let idx := o.idx.toNat
    let k := u.bar s 16
    if k.idx.isSome && k.idx != some idx then .trap (u.ti .barrierMismatch u.act)
    else
      let s := arrive u (closeRegion u s) 16 (some idx)
      .ok (wake (parkAct u s fun _ => .barPe k.gen))) s

/-- CBAR: arrive at the gang's cluster barrier and park (R225). -/
def execCbar (o : RCF) (s : State) : Host.Outcome State Fault Refusal :=
  execUnit (.cbar o) (fun u s => match s.blk? u.grp.bid with
    | none => .ok s
    | some b =>
      let get (x : Grid) : BarSt :=
        (assoc b.gang x.cbars).getD { id := 0, gen := 0, arrived := [] }
      let gen := ((s.grid? b.gr).map fun x => (get x).gen).getD 0
      let s := closeRegion u s
      let s := s.updGrid b.gr fun x => { x with cbars := assocSet b.gang { get x with
        arrived := (get x).arrived ++ u.act.map fun t => (u.gid, t, s.nextId) } x.cbars }
      .ok (wake (parkAct u s fun _ => .cbar gen))) s

/-! ## Region markers (R227, R228) -/

/-- RGN: commit and open a region at the next instruction (R227). -/
def execRgn (o : RCF) (s : State) : Host.Outcome State Fault Refusal :=
  execUnit (.rgn o) (fun u s => .ok (closeRegion u s)) s

/-- RGNCNT: the instar count (R228). -/
def execRgncnt (o : PPF) (s : State) : Host.Outcome State Fault Refusal :=
  execUnit (.rgncnt o) (fun u s => .ok (writeLanes u s fun _ =>
    [(o.d.toNat, BitVec.ofNat 32 u.grp.instar)])) s

end Sys2Proof.Machine
end

