-- ==== Sys2Proof/Machine/Dispatch.lean ====
section
/-! DEFINITION. One arm per constructor of Instr: its meaning. -/

namespace Sys2Proof.Machine

def exec (i : Instr) (s : State) : Host.Outcome State Fault Refusal :=
  match i with
  | .iadd o => Sys2Proof.Machine.execIadd o s
  | .isub o => Sys2Proof.Machine.execIsub o s
  | .imul o => Sys2Proof.Machine.execImul o s
  | .imulhI32 o => Sys2Proof.Machine.execImulhI32 o s
  | .imulhN32 o => Sys2Proof.Machine.execImulhN32 o s
  | .imad o => Sys2Proof.Machine.execImad o s
  | .iminImaxI32 o => Sys2Proof.Machine.execIminImaxI32 o s
  | .iminImaxN32 o => Sys2Proof.Machine.execIminImaxN32 o s
  | .and o => Sys2Proof.Machine.execAnd o s
  | .or o => Sys2Proof.Machine.execOr o s
  | .xor o => Sys2Proof.Machine.execXor o s
  | .andn o => Sys2Proof.Machine.execAndn o s
  | .iadd64 o => Sys2Proof.Machine.execIadd64 o s
  | .isub64 o => Sys2Proof.Machine.execIsub64 o s
  | .bfx o => Sys2Proof.Machine.execBfx o s
  | .bfi o => Sys2Proof.Machine.execBfi o s
  | .shlImm o => Sys2Proof.Machine.execShlImm o s
  | .shlReg o => Sys2Proof.Machine.execShlReg o s
  | .shrImm o => Sys2Proof.Machine.execShrImm o s
  | .shrReg o => Sys2Proof.Machine.execShrReg o s
  | .sarImm o => Sys2Proof.Machine.execSarImm o s
  | .sarReg o => Sys2Proof.Machine.execSarReg o s
  | .rotlImm o => Sys2Proof.Machine.execRotlImm o s
  | .rotlReg o => Sys2Proof.Machine.execRotlReg o s
  | .iaddImm o => Sys2Proof.Machine.execIaddImm o s
  | .andImm o => Sys2Proof.Machine.execAndImm o s
  | .orImm o => Sys2Proof.Machine.execOrImm o s
  | .xorImm o => Sys2Proof.Machine.execXorImm o s
  | .movi o => Sys2Proof.Machine.execMovi o s
  | .movhi o => Sys2Proof.Machine.execMovhi o s
  | .lea o => Sys2Proof.Machine.execLea o s
  | .isetpI32 o => Sys2Proof.Machine.execIsetpI32 o s
  | .isetpN32 o => Sys2Proof.Machine.execIsetpN32 o s
  | .fsetp o => Sys2Proof.Machine.execFsetp o s
  | .plop o => Sys2Proof.Machine.execPlop o s
  | .ppack o => Sys2Proof.Machine.execPpack o s
  | .punpk o => Sys2Proof.Machine.execPunpk o s
  | .cmov o => Sys2Proof.Machine.execCmov o s
  | .fadd o => Sys2Proof.Machine.execFadd o s
  | .fsub o => Sys2Proof.Machine.execFsub o s
  | .fmul o => Sys2Proof.Machine.execFmul o s
  | .ffma o => Sys2Proof.Machine.execFfma o s
  | .ffms o => Sys2Proof.Machine.execFfms o s
  | .fnfma o => Sys2Proof.Machine.execFnfma o s
  | .fminFmax o => Sys2Proof.Machine.execFminFmax o s
  | .fscb o => Sys2Proof.Machine.execFscb o s
  | .hadd2Bf16 o => Sys2Proof.Machine.execHadd2Bf16 o s
  | .hadd2F16 o => Sys2Proof.Machine.execHadd2F16 o s
  | .hmul2Bf16 o => Sys2Proof.Machine.execHmul2Bf16 o s
  | .hmul2F16 o => Sys2Proof.Machine.execHmul2F16 o s
  | .hfma2Bf16 o => Sys2Proof.Machine.execHfma2Bf16 o s
  | .hfma2F16 o => Sys2Proof.Machine.execHfma2F16 o s
  | .hmin2Hmax2Bf16 o => Sys2Proof.Machine.execHmin2Hmax2Bf16 o s
  | .hmin2Hmax2F16 o => Sys2Proof.Machine.execHmin2Hmax2F16 o s
  | .not o => Sys2Proof.Machine.execNot o s
  | .neg o => Sys2Proof.Machine.execNeg o s
  | .iabs o => Sys2Proof.Machine.execIabs o s
  | .popc o => Sys2Proof.Machine.execPopc o s
  | .clz o => Sys2Proof.Machine.execClz o s
  | .brev o => Sys2Proof.Machine.execBrev o s
  | .sext8 o => Sys2Proof.Machine.execSext8 o s
  | .sext16 o => Sys2Proof.Machine.execSext16 o s
  | .zext8 o => Sys2Proof.Machine.execZext8 o s
  | .zext16 o => Sys2Proof.Machine.execZext16 o s
  | .fneg o => Sys2Proof.Machine.execFneg o s
  | .fabs o => Sys2Proof.Machine.execFabs o s
  | .frint o => Sys2Proof.Machine.execFrint o s
  | .fexpx o => Sys2Proof.Machine.execFexpx o s
  | .cvt o => Sys2Proof.Machine.execCvt o s
  | .rcpe o => Sys2Proof.Machine.execRcpe o s
  | .rsqe o => Sys2Proof.Machine.execRsqe o s
  | .ex2e o => Sys2Proof.Machine.execEx2e o s
  | .lg2e o => Sys2Proof.Machine.execLg2e o s
  | .sinpe o => Sys2Proof.Machine.execSinpe o s
  | .cospe o => Sys2Proof.Machine.execCospe o s
  | .tanhe o => Sys2Proof.Machine.execTanhe o s
  | .bxq o => Sys2Proof.Machine.execBxq o s
  | .bxd o => Sys2Proof.Machine.execBxd o s
  | .mov o => Sys2Proof.Machine.execMov o s
  | .srd o => Sys2Proof.Machine.execSrd o s
  | .swr o => Sys2Proof.Machine.execSwr o s
  | .mskr o => Sys2Proof.Machine.execMskr o s
  | .mskw o => Sys2Proof.Machine.execMskw o s
  | .mskp o => Sys2Proof.Machine.execMskp o s
  | .pmsk o => Sys2Proof.Machine.execPmsk o s
  | .br o => Sys2Proof.Machine.execBr o s
  | .call o => Sys2Proof.Machine.execCall o s
  | .nop o => Sys2Proof.Machine.execNop o s
  | .exit o => Sys2Proof.Machine.execExit o s
  | .ret o => Sys2Proof.Machine.execRet o s
  | .jidx o => Sys2Proof.Machine.execJidx o s
  | .brk o => Sys2Proof.Machine.execBrk o s
  | .trap o => Sys2Proof.Machine.execTrap o s
  | .jenr o => Sys2Proof.Machine.execJenr o s
  | .jwait o => Sys2Proof.Machine.execJwait o s
  | .ldB o => Sys2Proof.Machine.execLdB o s
  | .ldH o => Sys2Proof.Machine.execLdH o s
  | .ldW o => Sys2Proof.Machine.execLdW o s
  | .ldD o => Sys2Proof.Machine.execLdD o s
  | .ldQ o => Sys2Proof.Machine.execLdQ o s
  | .stB o => Sys2Proof.Machine.execStB o s
  | .stH o => Sys2Proof.Machine.execStH o s
  | .stW o => Sys2Proof.Machine.execStW o s
  | .stD o => Sys2Proof.Machine.execStD o s
  | .stQ o => Sys2Proof.Machine.execStQ o s
  | .lds o => Sys2Proof.Machine.execLds o s
  | .sts o => Sys2Proof.Machine.execSts o s
  | .ldp o => Sys2Proof.Machine.execLdp o s
  | .stp o => Sys2Proof.Machine.execStp o s
  | .tld o => Sys2Proof.Machine.execTld o s
  | .tst o => Sys2Proof.Machine.execTst o s
  | .prfL1 o => Sys2Proof.Machine.execPrfL1 o s
  | .prfL2 o => Sys2Proof.Machine.execPrfL2 o s
  | .cctlInv1 o => Sys2Proof.Machine.execCctlInv1 o s
  | .cctlInva o => Sys2Proof.Machine.execCctlInva o s
  | .cctlWb o => Sys2Proof.Machine.execCctlWb o s
  | .cctlWbi o => Sys2Proof.Machine.execCctlWbi o s
  | .atomAdd o => Sys2Proof.Machine.execAtomAdd o s
  | .atomMin o => Sys2Proof.Machine.execAtomMin o s
  | .atomMax o => Sys2Proof.Machine.execAtomMax o s
  | .atomAnd o => Sys2Proof.Machine.execAtomAnd o s
  | .atomOr o => Sys2Proof.Machine.execAtomOr o s
  | .atomXor o => Sys2Proof.Machine.execAtomXor o s
  | .atomXchg o => Sys2Proof.Machine.execAtomXchg o s
  | .atomCas o => Sys2Proof.Machine.execAtomCas o s
  | .stm o => Sys2Proof.Machine.execStm o s
  | .fence o => Sys2Proof.Machine.execFence o s
  | .wait o => Sys2Proof.Machine.execWait o s
  | .waita o => Sys2Proof.Machine.execWaita o s
  | .bar o => Sys2Proof.Machine.execBar o s
  | .barPe o => Sys2Proof.Machine.execBarPe o s
  | .bara o => Sys2Proof.Machine.execBara o s
  | .barw o => Sys2Proof.Machine.execBarw o s
  | .cbar o => Sys2Proof.Machine.execCbar o s
  | .rgn o => Sys2Proof.Machine.execRgn o s
  | .rgncnt o => Sys2Proof.Machine.execRgncnt o s
  | .shfl o => Sys2Proof.Machine.execShfl o s
  | .voteAny o => Sys2Proof.Machine.execVoteAny o s
  | .voteAll o => Sys2Proof.Machine.execVoteAll o s
  | .voteBallot o => Sys2Proof.Machine.execVoteBallot o s
  | .gredAdd o => Sys2Proof.Machine.execGredAdd o s
  | .gredMin o => Sys2Proof.Machine.execGredMin o s
  | .gredMax o => Sys2Proof.Machine.execGredMax o s
  | .rdef o => Sys2Proof.Machine.execRdef o s
  | .rop o => Sys2Proof.Machine.execRop o s
  | .ropr o => Sys2Proof.Machine.execRopr o s
  | .btxStart o => Sys2Proof.Machine.execBtxStart o s
  | .btxStat o => Sys2Proof.Machine.execBtxStat o s
  | .tcopy o => Sys2Proof.Machine.execTcopy o s
  | .amtest o => Sys2Proof.Machine.execAmtest o s
  | .amsg o => Sys2Proof.Machine.execAmsg o s
  | .amh o => Sys2Proof.Machine.execAmh o s
  | .launch o => Sys2Proof.Machine.execLaunch o s
  | .mma o => Sys2Proof.Machine.execMma o s
  | .mloop o => Sys2Proof.Machine.execMloop o s
  | .mstr o => Sys2Proof.Machine.execMstr o s
  | .aclr o => Sys2Proof.Machine.execAclr o s
  | .aread o => Sys2Proof.Machine.execAread o s
  | .awrite o => Sys2Proof.Machine.execAwrite o s
  | .ast o => Sys2Proof.Machine.execAst o s
  | .ald o => Sys2Proof.Machine.execAld o s
  | .mburst o => Sys2Proof.Machine.execMburst o s
  | .csrr o => Sys2Proof.Machine.execCsrr o s
  | .csrw o => Sys2Proof.Machine.execCsrw o s
  | .ctxNew o => Sys2Proof.Machine.execCtxNew o s
  | .ctxRun o => Sys2Proof.Machine.execCtxRun o s
  | .ctxStop o => Sys2Proof.Machine.execCtxStop o s
  | .ctxGrant o => Sys2Proof.Machine.execCtxGrant o s
  | .ctxRevoke o => Sys2Proof.Machine.execCtxRevoke o s
  | .ctxKill o => Sys2Proof.Machine.execCtxKill o s
  | .ctxStat o => Sys2Proof.Machine.execCtxStat o s
  | .trapret o => Sys2Proof.Machine.execTrapret o s
  | .tlbinvPage o => Sys2Proof.Machine.execTlbinvPage o s
  | .tlbinvCtx o => Sys2Proof.Machine.execTlbinvCtx o s
  | .tlbinvSubtree o => Sys2Proof.Machine.execTlbinvSubtree o s
  | .frmstat o => Sys2Proof.Machine.execFrmstat o s
  | .guard o => Sys2Proof.Machine.execGuard o s
  | .block o => Sys2Proof.Machine.execBlock o s
  | .mod o => Sys2Proof.Machine.execMod o s
  | .mxsc o => Sys2Proof.Machine.execMxsc o s
  | .imm o => Sys2Proof.Machine.execImm o s
  | .illegalWord w => Sys2Proof.Machine.execIllegalWord w s
  | .issueArbitration core part => Sys2Proof.Machine.execIssueArbitration core part s
  | .runTimeLimit core part => Sys2Proof.Machine.execRunTimeLimit core part s
  | .pathStarved gid tid => Sys2Proof.Machine.execPathStarved gid tid s
  | .longLatencyResult gid tid id err => Sys2Proof.Machine.execLongLatencyResult gid tid id err s
  | .blockPlace cx core pick => Sys2Proof.Machine.execBlockPlace cx core pick s
  | .blockRetire bid => Sys2Proof.Machine.execBlockRetire bid s
  | .gridLeaveQueue cx q => Sys2Proof.Machine.execGridLeaveQueue cx q s
  | .hostListRead cx q => Sys2Proof.Machine.execHostListRead cx q s
  | .gridComplete gr => Sys2Proof.Machine.execGridComplete gr s
  | .gridEnd gr => Sys2Proof.Machine.execGridEnd gr s
  | .supervisorStart cx pick => Sys2Proof.Machine.execSupervisorStart cx pick s
  | .amAdmit msg => Sys2Proof.Machine.execAmAdmit msg s
  | .amHandlerStart msg pick => Sys2Proof.Machine.execAmHandlerStart msg pick s
  | .amComplete msg => Sys2Proof.Machine.execAmComplete msg s
  | .trapDelivery tr => Sys2Proof.Machine.execTrapDelivery tr s
  | .trapHandlerStart cx pick => Sys2Proof.Machine.execTrapHandlerStart cx pick s
  | .cocoonSave gid => Sys2Proof.Machine.execCocoonSave gid s
  | .cocoonRestore gid bad => Sys2Proof.Machine.execCocoonRestore gid bad s
  | .blockSave bid => Sys2Proof.Machine.execBlockSave bid s
  | .gracefulDeadline cx => Sys2Proof.Machine.execGracefulDeadline cx s
  | .sliceExpiry cx => Sys2Proof.Machine.execSliceExpiry cx s
  | .vacateComplete cx => Sys2Proof.Machine.execVacateComplete cx s
  | .waySweepComplete cx => Sys2Proof.Machine.execWaySweepComplete cx s
  | .frameScrubStart b f => Sys2Proof.Machine.execFrameScrubStart b f s
  | .frameScrubComplete b f => Sys2Proof.Machine.execFrameScrubComplete b f s
  | .cxidRelease cx => Sys2Proof.Machine.execCxidRelease cx s
  | .btRecordStart op => Sys2Proof.Machine.execBtRecordStart op s
  | .btChunkLanded op chunk => Sys2Proof.Machine.execBtChunkLanded op chunk s
  | .btRecordComplete op => Sys2Proof.Machine.execBtRecordComplete op s
  | .btRecordFault op => Sys2Proof.Machine.execBtRecordFault op s
  | .btOperationComplete op => Sys2Proof.Machine.execBtOperationComplete op s
  | .sequencerStart core part => Sys2Proof.Machine.execSequencerStart core part s
  | .matrixStep core part err => Sys2Proof.Machine.execMatrixStep core part err s
  | .matrixOpComplete core part => Sys2Proof.Machine.execMatrixOpComplete core part s
  | .rampupDone core part => Sys2Proof.Machine.execRampupDone core part s
  | .rampdownStart core part => Sys2Proof.Machine.execRampdownStart core part s
  | .rampdownDone core part => Sys2Proof.Machine.execRampdownDone core part s
  | .ruAdmit rid => Sys2Proof.Machine.execRuAdmit rid s
  | .ruCombine r1 r2 => Sys2Proof.Machine.execRuCombine r1 r2 s
  | .ruApply rid => Sys2Proof.Machine.execRuApply rid s
  | .ropComplete op => Sys2Proof.Machine.execRopComplete op s
  | .roprResult rid => Sys2Proof.Machine.execRoprResult rid s
  | .rdefComplete id => Sys2Proof.Machine.execRdefComplete id s
  | .requestAdmission id => Sys2Proof.Machine.execRequestAdmission id s
  | .sliceRequestAdmit id hint => Sys2Proof.Machine.execSliceRequestAdmit id hint s
  | .requestRetry id => Sys2Proof.Machine.execRequestRetry id s
  | .memoryReply id => Sys2Proof.Machine.execMemoryReply id s
  | .channelAccess id bank ecc => Sys2Proof.Machine.execChannelAccess id bank ecc s
  | .hrowWindowEnd ch => Sys2Proof.Machine.execHrowWindowEnd ch s
  | .hrowHoldEnd ch bank cx => Sys2Proof.Machine.execHrowHoldEnd ch bank cx s
  | .patrolRead ch atom ecc => Sys2Proof.Machine.execPatrolRead ch atom ecc s
  | .cxlTimeout id => Sys2Proof.Machine.execCxlTimeout id s
  | .linkTimeout id => Sys2Proof.Machine.execLinkTimeout id s
  | .flashEraseComplete blk => Sys2Proof.Machine.execFlashEraseComplete blk s
  | .fenceComplete gid tid => Sys2Proof.Machine.execFenceComplete gid tid s
  | .tlbinvComplete gid tid => Sys2Proof.Machine.execTlbinvComplete gid tid s
  | .waitaSatisfied gid tid => Sys2Proof.Machine.execWaitaSatisfied gid tid s
  | .watchdog gid tid => Sys2Proof.Machine.execWatchdog gid tid s
  | .debugHoldTimeout => Sys2Proof.Machine.execDebugHoldTimeout s
  | .l1FusionChange clu => Sys2Proof.Machine.execL1FusionChange clu s
  | .flr vf => Sys2Proof.Machine.execFlr vf s
  | .flrComplete vf => Sys2Proof.Machine.execFlrComplete vf s
  | .coldReset img => Sys2Proof.Machine.execColdReset img s
  | .recoveryImage img => Sys2Proof.Machine.execRecoveryImage img s
  | .thermalThrottle up => Sys2Proof.Machine.execThermalThrottle up s
  | .thermalStop => Sys2Proof.Machine.execThermalStop s
  | .bridgeFailure => Sys2Proof.Machine.execBridgeFailure s
  | .linkUp port verified => Sys2Proof.Machine.execLinkUp port verified s
  | .linkDown port => Sys2Proof.Machine.execLinkDown port s
  | .peerRequest port b off op data => Sys2Proof.Machine.execPeerRequest port b off op data s
  | .hostMemoryAccess b off wr data => Sys2Proof.Machine.execHostMemoryAccess b off wr data s
  | .ideIntegrityFailure stream => Sys2Proof.Machine.execIdeIntegrityFailure stream s
  | .qkickWrite page q val => Sys2Proof.Machine.execQkickWrite page q val s
  | .qkickLowWrite page q val => Sys2Proof.Machine.execQkickLowWrite page q val s
  | .qkickHighWrite page q val => Sys2Proof.Machine.execQkickHighWrite page q val s
  | .sentryWrite page val => Sys2Proof.Machine.execSentryWrite page val s
  | .scfgWrite page val => Sys2Proof.Machine.execScfgWrite page val s
  | .vfEnableSet => Sys2Proof.Machine.execVfEnableSet s
  | .vfEnableClear => Sys2Proof.Machine.execVfEnableClear s
  | .msixUnmask fn vec => Sys2Proof.Machine.execMsixUnmask fn vec s
  | .frozenSetWrite fn off val => Sys2Proof.Machine.execFrozenSetWrite fn off val s
  | .registerWrite fn bar off val => Sys2Proof.Machine.execRegisterWrite fn bar off val s
  | .lockInterfaceRequest vf stream dbg => Sys2Proof.Machine.execLockInterfaceRequest vf stream dbg s
  | .startInterfaceRequest vf => Sys2Proof.Machine.execStartInterfaceRequest vf s
  | .stopInterfaceRequest vf => Sys2Proof.Machine.execStopInterfaceRequest vf s
  | .getDeviceInterfaceReport vf => Sys2Proof.Machine.execGetDeviceInterfaceReport vf s
  | .rootCtxNew rec => Sys2Proof.Machine.execRootCtxNew rec s
  | .rootCtxRun child rec => Sys2Proof.Machine.execRootCtxRun child rec s
  | .rootCtxStop child kind deadline => Sys2Proof.Machine.execRootCtxStop child kind deadline s
  | .rootCtxGrant child rec => Sys2Proof.Machine.execRootCtxGrant child rec s
  | .rootCtxRevoke child rec => Sys2Proof.Machine.execRootCtxRevoke child rec s
  | .rootCtxKill child => Sys2Proof.Machine.execRootCtxKill child s
  | .rootCtxStat child => Sys2Proof.Machine.execRootCtxStat child s
  | .trapretCommand seq pc fin => Sys2Proof.Machine.execTrapretCommand seq pc fin s
  | .writePtroot val => Sys2Proof.Machine.execWritePtroot val s
  | .writeBufferEntry idx rec => Sys2Proof.Machine.execWriteBufferEntry idx rec s
  | .writePartitionRecord n rec => Sys2Proof.Machine.execWritePartitionRecord n rec s
  | .eraseFlashBlocks first count => Sys2Proof.Machine.execEraseFlashBlocks first count s
  | .writeHrowCtl ch val => Sys2Proof.Machine.execWriteHrowCtl ch val s
  | .setSaveRegionSize bytes => Sys2Proof.Machine.execSetSaveRegionSize bytes s
  | .readErrorCounts sel => Sys2Proof.Machine.execReadErrorCounts sel s
  | .promote => Sys2Proof.Machine.execPromote s
  | .getAttestationReport => Sys2Proof.Machine.execGetAttestationReport s
  | .writeIngressEntry rec => Sys2Proof.Machine.execWriteIngressEntry rec s
  | .attach c => Sys2Proof.Machine.execAttach c s
  | .detach c => Sys2Proof.Machine.execDetach c s
  | .halt c => Sys2Proof.Machine.execHalt c s
  | .resume c => Sys2Proof.Machine.execResume c s
  | .step c => Sys2Proof.Machine.execStep c s
  | .restart c => Sys2Proof.Machine.execRestart c s
  | .rdreg c => Sys2Proof.Machine.execRdreg c s
  | .wrreg c => Sys2Proof.Machine.execWrreg c s
  | .rdmem c => Sys2Proof.Machine.execRdmem c s
  | .wrmem c => Sys2Proof.Machine.execWrmem c s
  | .event c => Sys2Proof.Machine.execEvent c s
  | .spdmAttestationRequest => Sys2Proof.Machine.execSpdmAttestationRequest s

end Sys2Proof.Machine
end

