-- ==== Sys2Proof/Machine/Fetch.lean ====
section
/-! DEFINITION. What an instruction word costs its run (R193, R229, R263, R286), and laying out a program for `State.withFetchWord`. -/

namespace Sys2Proof.Machine

/-! ## Issue clk -/

/-- Whether an instruction costs a clk for each line or row that it touches (Table 9-12). -/
def costsLines : Instr → Bool
  | .ldB _ | .ldH _ | .ldW _ | .ldD _ | .ldQ _ | .stB _ | .stH _ | .stW _ | .stD _ | .stQ _ | .lds _ | .sts _ | .ldp _ |
    .stp _ | .tld _ | .tst _ | .atomAdd _ | .atomMin _ | .atomMax _ | .atomAnd _ | .atomOr _ | .atomXor _ | .atomXchg _ |
    .atomCas _ | .stm _ => true
  | _ => false

/-- Issue clk of a word executed from s to s': an instruction's cost, a remote opcode's by its lanes and payload (R286), one
of AREAD and AWRITE by its words (R248), a matrix operation's by its A read (R252), a memory access's by its lines. -/
def turnCost (i : Instr) (u : Issue) (s s' : State) : Nat :=
  match i with
  | .rop o | .ropr o =>
    let d := ((s.ctx? u.grp.cxid).bind fun c => assoc o.slot.toNat c.rops).getD []
    max 1 (ceilDiv u.act.length 16) * (1 + ceilDiv (ruPsize d) 32)
  | .aread o | .awrite o => max 1 (2 ^ o.cnt.toNat / 2)
  | .mma o | .mloop o => mxCost u o
  | i => if costsLines i then max 1 (linesTouched s s' u.gid) else issueCost i u

/-! ## Laying out a program -/

/-- Bytes of a 64-bit table entry at an address. -/
def putEntry (m : Memory) (a e : Nat) : Memory := Memory.putN m a (leBytes 8 e)

/-- The address at which `withFetchWord` places its program, in the root's space and in buffer 0 (DESIGN CHOICE,
notes/assumptions/3.md). -/
def programPc : DWord := 0x20000

/-- Buffer 0 for a program: HBM, rights rwx, on channel 0 from its start, 16,384 frames (1 GiB). -/
def programBuf : Buf :=
  { idx := 0, kind := .hbm, r := true, w := true, x := true, gcode := 0, size := 16384, base := 0, port := 0, bown := 0, chans := [0] }

/-- Page tables of the root in buffer 0: the table of stage 0 at 0, of stage 1 at 0x1000, of stage 2 at 0x2000, and a
leaf of 1 GiB with rights r, w and x over the whole buffer (R361). -/
def programTables (m : Memory) : Memory :=
  putEntry (putEntry (putEntry m 0x0 0x1001) 0x1000 0x2001) 0x2000 0x1F

/-- A thread at the start of a program, every v register written with zero (DESIGN CHOICE, notes/assumptions/3.md). -/
def programThread : Thread :=
  { pc := programPc, rpc := programPc, v := (List.range 96).map fun r => (r, 0) }

/-- The group that runs a program: width 16, 96 registers, in supervisor mode, so that no instruction is refused for
its mode or its registers, and every s register written with zero (DESIGN CHOICE, notes/assumptions/3.md). -/
def programGroup : Group :=
  { gid := 1, cxid := 0, gr := 1, bid := 1, g := 0, kind := .supervisor, core := 0, part := 0, slot := 0, base := 0,
    width := 16, nregs := 96, threads := List.replicate 16 programThread,
    sreg := (List.range 32).map fun r => (r, 0) }

/-- The grid, block and run of that group. -/
def programGrid : Grid := { gr := 1, cxid := 0, lrec := List.replicate 32 0, q := 0, leftAt := 0, next := 1, sup := true }

/-- The block of the program's group. -/
def programBlock : Block :=
  { bid := 1, gr := 1, cxid := 0, lin := 0, core := 0, paired := false, gang := 0, rank := 0, smem := 4096, acc := 1 }

/-- The run that issues the program's first word. -/
def programRun (s : State) : Run := { core := 0, part := 0, gid := 1, tids := List.range 16, start := s.clk }

/-- The root while it runs a program: on core 0, with full buckets and the program's tables. -/
def programCtx (x : Ctx) : Ctx :=
  { x with ptroot := 0, state := .running, runset := x.runset ||| 1, tokens := bucketCap x.tburst }

/-- A state in which the root runs a program at `programPc` in the first partition of core 0, whose next step issues its
first word. Everything it does not need stays (DESIGN CHOICE, notes/assumptions/3.md). -/
def layProgram (s : State) (bytes : List Byte) : State :=
  { s with
    ctxs := s.ctxs.map fun x => if x.cxid == 0 then programCtx x else x
    bufs := programBuf :: s.bufs.filter fun b => b.idx != 0
    frames := s.frames.filter fun f => f.b != 0
    tlb := s.tlb.filter fun e => e.cxid != 0
    walks := s.walks.filter fun w => w.cxid != 0
    lastPages := s.lastPages.filter fun l => l.cxid != 0
    hist := s.hist.filter fun w => w.blk.isSome || w.b != 0
    l1 := s.l1.filter fun c => c.b != 0
    l2 := s.l2.filter fun l => l.b != 0
    poison := s.poison.filter fun k => decide (0x40000 ≤ 32 * k)
    mem := Memory.putN (programTables s.mem) programPc.toNat bytes
    grids := { programGrid with first := max 2 s.nextId } :: s.grids.filter fun g => g.gr != 1
    blocks := programBlock :: s.blocks.filter fun b => b.bid != 1
    groups := programGroup :: s.groups.filter fun g => g.gid != 1
    busy := s.busy.filter fun b => !(b.1 == 0 && b.2.1 == 0)
    runs := programRun s :: s.runs.filter fun r => !(r.core == 0 && r.part == 0)
    cur := some (0, 0)
    nextId := max 2 s.nextId
    agenda := .issue 0 0 :: s.agenda }

/-- The bytes of an instruction of nbits, as they lie in memory: its words little-endian, the first lowest (R9). -/
def tableBytes (nbits w : Nat) : List Byte := leBytes (max 4 (4 * ceilDiv nbits 32)) w

end Sys2Proof.Machine
end

