-- ==== Sys2Proof/Machine/Policy.lean ====
section
/-! DEFINITION. One turn of the device (notes/assumptions/2.md): an event, the issue of one word, the passing of time,
a detected error or the loss of a cached copy; and the turn the model takes when its agenda is empty. -/

namespace Sys2Proof.Machine

/-! ## Issuing a word -/

/-- A unit occupies its partition for n clk (R229). -/
def occupy (core part n : Nat) (s : State) : State :=
  if n = 0 then s
  else { s with busy := (core, part, s.clk + n) :: s.busy.filter fun b => !(b.1 == core && b.2.1 == part) }

/-- Whether a unit still occupies a partition. -/
def isBusy (s : State) (core part : Nat) : Bool :=
  s.busy.any fun b => b.1 == core && b.2.1 == part && decide (s.clk < b.2.2)

/-- Add the clk that a word costs its partition, by the state that its execution leaves, to an outcome. -/
def afterClk (core part : Nat) (cost : State → Nat) (o : Host.Outcome State Fault Refusal) : Host.Outcome State Fault Refusal :=
  match o with
  | .next s => .next (occupy core part (cost s) s)
  | .fault r => .fault r
  | .refused r => .refused r

/-- Issue the next word of the unit in progress: fetch, decode, execute, and the clk it costs. A fetch that misses L1 waits
for a token (R414). -/
def issueUnit (r : Run) (u : Issue) (s : State) : Host.Outcome State Fault Refusal :=
  match fetchUnit s r u with
  | .error f => .next (raise s u.grp (u.fetchTrap f))
  | .ok (w, p) =>
    if !fetchPaid s u p then .next s
    else
      let i := decode w
      afterClk u.core u.part (turnCost i u s) (exec i (fetched s u p))

/-- The run of a partition issues its next word, once the unit before it has taken its clk. A run past its 32 clk ends
instead (R36), as does one without threads and one whose context has stopped running on the core (R387, R408). -/
def issueWord (core part : Nat) (s : State) : Host.Outcome State Fault Refusal :=
  if isBusy s core part then .next s
  else
  let s : State := { s with cur := some (core, part) }
  match s.run?, s.issue? with
  | some r, some u =>
    if r.timedOut s || !(issuers s core part).any (fun g => g.gid == r.gid) then .next (endRunAt s core part)
    else issueUnit r u s
  | _, _ => .next (endRunAt s core part)

/-! ## Time -/

/-- Whether a partition stays occupied for n clk. -/
def busyThrough (s : State) (core part n : Nat) : Bool :=
  s.busy.any fun b => b.1 == core && b.2.1 == part && decide (s.clk + n ≤ b.2.2)

/-- Whether the run of a partition waits at admission for its fetch (R414). -/
def fetchWaits (s : State) (core part : Nat) : Bool :=
  let s : State := { s with cur := some (core, part) }
  match s.run?, s.issue? with
  | some r, some u => match fetchUnit s r u with
    | .ok (_, p) => !fetchPaid s u p
    | .error _ => false
  | _, _ => false

/-- Whether a refused request is sent again no later than it has to be: 64 clk after the time that its hint names (R433). -/
def resentInTime (s : State) (n : Nat) (r : Req) : Bool :=
  match r.stage with
  | .refused since hint => decide (s.clk + n ≤ since + 8 * hint + 64)
  | _ => true

/-- Whether the run of a partition stays within its 32 clk for n clk while it waits for its fetch (R36, R414). -/
def runWaits (s : State) (core part n : Nat) : Bool :=
  fetchWaits s core part && s.runs.any fun r => r.core == core && r.part == part && (r.single || decide (s.clk + n ≤ r.start + 32))

/-- The same for a remote update. -/
def ruResentInTime (s : State) (n : Nat) (r : RuReq) : Bool :=
  r.refused.all fun e => decide (s.clk + n ≤ e.1 + 8 * e.2 + 64)

/-- Whether n clk may pass: no partition stands idle while a thread that may issue in it has been ready for its fairness
period (R38, R39), and no refused request is overdue (R433) (DESIGN CHOICE, notes/assumptions/2.md). -/
def mayPass (s : State) (n : Nat) : Bool :=
  s.reqs.all (resentInTime s n) && s.rus.all (ruResentInTime s n) && s.groups.all fun g =>
    busyThrough s g.core g.part n || runWaits s g.core g.part n || !(issuers s g.core g.part).any (fun x => x.gid == g.gid) ||
      (g.mayIssue s).all fun t => decide ((g.thr t).waited + n ≤ g.fper)

/-- The arithmetic clock advances by n where it may; threads whose wait has ended are ready from now on (R36, R38). -/
def pass (n : Nat) (s : State) : State :=
  let s := retryAll s
  if mayPass s n then tick n s else s

/-! ## Cached copies that go -/

/-- Whether a composed entry is that of a page. -/
def XEnt.covers (e : XEnt) (cx : Nat) (va : DWord) : Bool := e.cxid == cx && e.page == pageOf va

/-- Whether a store on its way was translated through a composed entry (R366). -/
def entInUse (s : State) (e : XEnt) : Bool :=
  (s.groups.any fun g => g.threads.any fun th => th.stores.any fun b => b.glob && e.covers b.cxid b.va) ||
    (s.reqs.any fun r => r.blk.isNone && !r.performed && e.covers r.cxid r.va) ||
    s.rus.any fun r => !r.applied && (ruVas r).any (e.covers r.cxid)

/-- Drop a cached composed translation, unless a store on its way depends on it (R364). -/
def dropEnt (s : State) (k : Nat) : State :=
  match s.tlb[k]? with
  | some e => if entInUse s e then s else dropEnts s (· == e)
  | none => s

/-! ## Turns -/

/-- Whether an error at a place is UNCORRECTABLE: in the accumulator store each is; in a stored word, one that follows another
before the word is rewritten; a path stores nothing, and a line is fetched again. -/
def suspect (s : State) (g : Group) : ErrSite → Bool
  | .vreg t r => (g.thr t).sus.contains r
  | .sreg r => g.sus.contains r
  | .pad w => ((s.blk? g.bid).map fun b => b.sus.contains w).getD false
  | .l1 .. | .path => false
  | .tile => true

/-- Whether a group has a place: a mapped register of one of its threads, a word of its block's scratchpad. -/
def siteIn (s : State) (g : Group) : ErrSite → Bool
  | .vreg t r => g.live.contains t && ((g.thr t).v.any fun e => e.1 == r)
  | .sreg r => g.sreg.any fun e => e.1 == r
  | .pad w => ((s.blk? g.bid).map fun b => decide (4 * w < b.size)).getD false
  | .l1 b line => s.l1.any fun c => c.core == l1Of s g.core && c.b == b && c.line == line
  | .path => true
  | .tile => ((s.blk? g.bid).map fun b => b.acc != 0).getD false

/-- Remember that an error was detected at a place (Table 6-2). -/
def markSite (s : State) (g : Group) : ErrSite → State
  | .vreg t r => s.updThr g.gid t fun th => { th with sus := r :: th.sus }
  | .sreg r => s.updGrp g.gid fun x => { x with sus := r :: x.sus }
  | .pad w => { s with blocks := s.blocks.map fun b => if b.bid == g.bid then { b with sus := w :: b.sus } else b }
  | .l1 b line => dropL1 s g.core b line
  | .path | .tile => s

/-- An error is detected in a group: it discards the open regions and a line in L1 is fetched again, but one in the accumulator
store, or a second one in a stored register or scratchpad word that has not been rewritten since, is UNCORRECTABLE (R122,
R394, Tables 6-2 and 18-7) (DESIGN CHOICE, notes/assumptions/18.md). -/
def detect (gid : Nat) (site : ErrSite) (s : State) : State :=
  match s.grp? gid with
  | none => s
  | some g =>
    if g.live.isEmpty || g.hold.isSome || !siteIn s g site then s
    else if suspect s g site then
      raise (countErr s site.structure_ true) g { cause := .uncorrectable, lanes := g.live, fpc := (g.thr (g.live.headD 0)).pc, cxid := g.cxid }
    else softError (markSite (countErr s site.structure_ true) g site) g

/-- A part of the device fails (R394): a sector or a page is poisoned, the grid of a saved block ends, or every context stops
without save (DESIGN CHOICE, notes/assumptions/18.md). -/
def failTurn (what : Failure) (s : State) : State :=
  match what with
  | .sector k i => match s.l2[k]? with
    | some l => match (s.buf? l.b).bind fun b => place b (128 * l.line + 32 * (i % 4)) with
      | some a => countErr (poisonAt s (a / 32)) 1 true
      | none => s
    | none => s
  | .page p =>
    if p < 2 ^ 30 then countErr ((List.range 128).foldl (fun s k => poisonAt s ((flashBase + 4096 * p) / 32 + k)) s) 2 true else s
  | .saved bid => match s.blk? bid with
    | some b => match b.saved with
      | some (g :: _) => countErr (saveRegionError s g) 3 true
      | _ => s
    | none => s
  | .tables => countErr (stopAll s 3) 4 true
  | .device id => cxlPoison s id

/-- The register command that the debug port holds is tried again (R398). -/
def retryHeld (s : State) : Host.Outcome State Fault Refusal :=
  match s.dbgHold with
  | some h => regCommand h.wr h.cmd s
  | none => .next s

/-- One turn. Events are taken outside any unit: an instruction of the program runs only where it is fetched
(DESIGN CHOICE, notes/assumptions/2.md) (DESIGN CHOICE, notes/assumptions/58.md). -/
def runTurn (t : Turn) (s : State) : Host.Outcome State Fault Refusal :=
  match t with
  | .ev i => exec i { s with cur := none }
  | .issue core part => issueWord core part s
  | .pass n => .next (pass n s)
  | .detect gid site => .next (detect gid site s)
  | .fail what => .next (failTurn what s)
  | .missLoad id k => .next (s.updReq id fun r => { r with age := k })
  | .missFetch core part k => .next { s with
      runs := s.runs.map fun r => if r.core == core && r.part == part then { r with age := k } else r }
  | .evictL1 k => .next { s with l1 := s.l1.eraseIdx k }
  | .evictTlb k => .next (dropEnt s k)
  | .keepWalk cx va => .next (keepWalk s cx va)
  | .held => retryHeld s
  | .copy op chunk piece => .next (copyTurn op chunk piece s)
  | .context op => .next (match s.ctxops.find? fun r => r.id == op with
      | some r => tryCtx s r
      | none => s)
  | .trapret gid tid => .next (trapretTurn gid tid s)
  | .mailbox => mailTurn s

/-! ## The turn taken when the agenda is empty -/

/-- Landings of a thread's long-latency results. -/
def landings (gid t : Nat) (th : Thread) : List Instr := th.pend.map fun p => .longLatencyResult gid t p.id false

/-- Whether the results of a thread land at once: it waits. A thread that may issue goes on before its results land. -/
def landsNow (th : Thread) : Bool := th.park.isSome || th.settle.isSome || th.stopped

/-- Events of a thread. -/
def threadEvents (gid t : Nat) (th : Thread) : List Instr :=
  (if landsNow th then landings gid t th else []) ++ (match th.park with
    | some (.fence ..) => [.fenceComplete gid t]
    | some (.tlbinv ..) => [.tlbinvComplete gid t]
    | some (.waita ..) => [.waitaSatisfied gid t, .watchdog gid t]
    | _ => []) ++ (if th.waited = 0 then [] else [.pathStarved gid t])

/-- Events of a group. -/
def groupEvents (g : Group) : List Instr :=
  (g.threads.mapIdx fun t th => if th.exited then [] else threadEvents g.gid t th).flatten ++
    (if g.hold.isSome then [.cocoonSave g.gid, .cocoonRestore g.gid false] else [])

/-- Landings of the results of threads that may issue. -/
def lateLandings (s : State) : List Instr :=
  s.groups.flatMap fun g => (g.threads.mapIdx fun t th => if th.exited || landsNow th then [] else landings g.gid t th).flatten

/-- The bank of its channel that a request reaches (R419). -/
def Req.bank (s : State) (r : Req) : Nat := (((s.buf? r.b).bind fun b => place b r.off).map bankOf).getD 0

/-- Events of a memory request. -/
def requestEvents (s : State) (r : Req) : List Instr :=
  match r.stage with
  | .waiting => [.requestAdmission r.id]
  | .sent => [.sliceRequestAdmit r.id 0]
  | .refused .. => [.requestRetry r.id]
  | .chan => [.channelAccess r.id (r.bank s) false]
  | .port | .done => [.memoryReply r.id]

/-- Events of a remote update request. -/
def updateEvents (r : RuReq) : List Instr :=
  if !r.sent then [.requestAdmission r.id] else if r.refused.isSome then [.requestRetry r.id]
  else if !r.admitted then [.ruAdmit r.id] else if !r.applied then [.ruApply r.id]
  else if r.ropr then [.roprResult r.id] else [.ropComplete r.op]

/-- Events of a block-transfer operation. -/
def transferEvents (o : BtOp) : List Instr :=
  [.btRecordStart o.id, .btRecordFault o.id, .btRecordComplete o.id, .btOperationComplete o.id] ++ (match o.cur with
    | some r => match (List.range (chunkCount r.extent)).find? fun c => !r.landed.contains c with
      | some c => [.btChunkLanded o.id c]
      | none => []
    | none => [])

/-- Placements of a context's next block on the cores of its run set, those without groups first. -/
def placements (s : State) (cx : Nat) : List Instr :=
  if (headUnit s cx).isSome then
    let set := (List.range 192).filter fun c => (placeSet s cx).getLsbD c
    let used := s.groups.map Group.core
    (set.filter (!used.contains ·) ++ set.filter used.contains).map fun c => .blockPlace cx c 0
  else []

/-- Events of a queue of a context. -/
def queueEvents (cx q : Nat) : List Instr := [.gridLeaveQueue cx q, .hostListRead cx q]

/-- Events of a context's slice, run set, ways and number. -/
def runEvents (x : Ctx) : List Instr :=
  [.sliceExpiry x.cxid, .gracefulDeadline x.cxid, .vacateComplete x.cxid, .waySweepComplete x.cxid, .cxidRelease x.cxid]

/-- Handler and supervisor starts of a context. -/
def startEvents (x : Ctx) : List Instr := [.trapHandlerStart x.cxid 0, .supervisorStart x.cxid 0]

/-- Events of a context. -/
def contextEvents (s : State) (x : Ctx) : List Instr :=
  List.flatten [startEvents x, x.queues.flatMap fun q => queueEvents x.cxid q.1, placements s x.cxid, runEvents x]

/-- Events of a matrix operation. -/
def matrixEvents (m : MxOp) : List Instr :=
  [.matrixOpComplete m.core m.part, .sequencerStart m.core m.part, .matrixStep m.core m.part false]

/-- Events of a power ramp. -/
def rampEvents (r : Ramp) : List Instr := [.rampupDone r.core r.part, .rampdownDone r.core r.part, .rampdownStart r.core r.part]

/-- Events of a message. -/
def messageEvents (m : Msg) : List Instr := [.amAdmit m.id, .amHandlerStart m.id 0, .amComplete m.id]

/-- Events of a block. -/
def blockEvents (b : Block) : List Instr := [.blockRetire b.bid, .blockSave b.bid]

/-- Events of a grid. -/
def gridEvents (g : Grid) : List Instr := [.gridEnd g.gr, .gridComplete g.gr]

/-- Events of a frame. -/
def frameEvents (f : Frame) : List Instr :=
  match f.st with
  | .freed => [.frameScrubStart f.b f.f]
  | .scrubbing => [.frameScrubComplete f.b f.f]
  | _ => []

/-- Events of flash, functions, the debug port and the memory controllers. -/
def deviceEvents (s : State) : List Instr :=
  List.flatten [s.flash.map fun k => .flashEraseComplete k.blk, s.vfs.map fun v => .flrComplete v.n, [.debugHoldTimeout],
    s.holds.map fun h => .hrowHoldEnd h.ch h.bank h.tenant, s.rows.map fun r => .hrowWindowEnd r.ch,
    s.blocks.map fun b => .l1FusionChange (b.core / 4), s.fused.map .l1FusionChange]

/-- Definitions and traps that may go on, and runs past their time. -/
def pendingEvents (s : State) : List Instr :=
  List.flatten [s.runs.map fun r => .runTimeLimit r.core r.part, s.rdefs.map fun r => .rdefComplete r.id, s.traps.map fun t => .trapDelivery t.id]

/-- Every event of the device that may be due, but for results of threads that may issue, which land once in 1,024 clk
or when nothing issues: none of them comes from the host, a link or an error. -/
def candidates (s : State) : List Instr :=
  List.flatten [if s.clk % 1024 = 0 then lateLandings s else [], s.groups.flatMap groupEvents, s.reqs.flatMap (requestEvents s),
    s.rus.flatMap updateEvents, s.bts.flatMap transferEvents, s.mxs.flatMap matrixEvents, s.ramps.flatMap rampEvents,
    s.msgs.flatMap messageEvents, pendingEvents s, s.blocks.flatMap blockEvents, s.grids.flatMap gridEvents,
    s.ctxs.flatMap (contextEvents s), s.frames.flatMap frameEvents, deviceEvents s]

/-- Results that land because no unit is on its way. -/
def idleLandings (s : State) : List Instr := if s.busy.isEmpty then lateLandings s else []

/-- Whether an outcome is another state. -/
def changes (s : State) (o : Host.Outcome State Fault Refusal) : Bool :=
  match o with
  | .next t => decide (t ≠ s)
  | _ => false

/-- Whether an event changes the state. -/
def enabled (s : State) (i : Instr) : Bool := changes s (exec i s)

/-- Arbitration where a group is resident and no unit occupies the partition. -/
def arbitrations (s : State) : List Instr :=
  (s.groups.filter fun g => !isBusy s g.core g.part).map fun g => .issueArbitration g.core g.part

/-- Operations of the context engine, returns from traps and a held register command that may go on. -/
def engineTurns (s : State) : List Turn :=
  List.flatten [s.ctxops.map fun r => .context r.id,
    s.groups.flatMap fun g => ((g.threads.mapIdx fun t th => (t, th)).filter fun e => match e.2.park with
      | some (.trapret ..) => true
      | _ => false).map fun e => .trapret g.gid e.1,
    [.held, .mailbox]]

/-- The next turn of a device whose agenda is empty: the first event that is due, else what the engines hold, else the first
run that goes on, else the first arbitration, else the first result that may land, else one clk. -/
def nextTurn (s : State) : Turn :=
  match (candidates s).find? (enabled { s with cur := none }) with
  | some i => .ev i
  | none => match (engineTurns s).find? fun t => changes s (runTurn t s) with
    | some t => t
    | none => match s.runs.find? fun r => !isBusy s r.core r.part && !fetchWaits s r.core r.part with
      | some r => .issue r.core r.part
      | none => match (arbitrations s ++ idleLandings s).find? (enabled { s with cur := none }) with
        | some i => .ev i
        | none => .pass 1

/-- Where the next step fetches, if its turn is to issue a word and it does. -/
def nextFetch (s : State) : Option Spot :=
  match s.agenda.headD (nextTurn s) with
  | .issue c p =>
    let s : State := { s with cur := some (c, p) }
    match s.run?, s.issue? with
    | some r, some u =>
      if isBusy s c p || r.timedOut s || r.age != 0 || !(issuers s c p).any (fun g => g.gid == r.gid) then none
      else match fetchUnit s r u with
        | .ok (_, spot) => if fetchPaid s u spot && !erasing s spot.b spot.off then some spot else none
        | .error _ => none
    | _, _ => none
  | _ => none

end Sys2Proof.Machine
end

