-- ==== Sys2Proof/Machine/Step.lean ====
section
/-! DEFINITION. One step of the device: the first turn of its agenda, or the turn the model takes when the agenda is
empty (notes/assumptions/2.md). -/

namespace Sys2Proof.Machine

/-- One step (DESIGN CHOICE, notes/assumptions/2.md). -/
def step (s : State) : Host.Outcome State Fault Refusal :=
  match s.agenda with
  | t :: rest => runTurn t { s with agenda := rest }
  | [] => runTurn (nextTurn s) s

/-- The state with an instruction of the table stored where the next step fetches its word: at that place if the next
turn issues a word, else at the start of a program laid out for it (notes/assumptions/3.md). -/
def State.withFetchWord (s : State) (nbits w : Nat) : State :=
  match nextFetch s with
  | some p => s.writeBuf p.b p.off (tableBytes nbits w)
  | none => layProgram s (tableBytes nbits w)

end Sys2Proof.Machine
end

