-- ==== Sys2Proof/Safety.lean ====
section
/-! DEFINITION. What counts as a safe state and a safe step, and the words in which statements about units are made:
a unit that issues, what its threads are once it has passed, and what it leaves alone. -/

namespace Sys2Proof.Machine

/-- Memory and the scratchpads of all blocks are in canonical form. -/
abbrev State.Canonical (s : State) : Prop := Memory.wf s.mem ∧ ∀ b ∈ s.blocks, Memory.wf b.pad

/-- A step that neither faults nor is refused. -/
def SafeStep (s : State) : Prop := ∃ t, step s = .next t

/-! ## Units -/

/-- The unit `u` is in progress, and instruction `i` ends it with every decoding check passed (R155). -/
def Issues (i : Instr) (u : Issue) (s : State) : Prop := s.issue? = some u ∧ illegal i u s = none

/-- A thread of the unit's group once the unit has passed it: at the next word, with its last uses recorded and its guard
range one unit shorter (R44, R149). -/
def passed (i : Instr) (u : Issue) (k : Nat) (th : Thread) : Thread :=
  if u.tids.contains k then
    { (if u.act.contains k then th.markDead (u.lastUses i) else th) with pc := u.ipc + 4, guard := th.nextGuard u.pfx }
  else th

/-- A thread that differs from another only in what run control and the debugger's STEP leave in a thread of the unit:
its ready time, starvation, a settle and the results that it settles, and a stop (R36, R38, R42, R397). -/
def RunCtl (u : Issue) (k : Nat) (th th' : Thread) : Prop :=
  if u.tids.contains k then
    th' = { th with settle := th'.settle, stopped := th'.stopped, waited := th'.waited, starved := th'.starved,
                    unsettled := th'.unsettled } ∧ th'.unsettled.Sublist th.unsettled
  else th' = th

/-- Nothing but groups, runs and the counter of free values changes. -/
def OnlyUnit (s t : State) : Prop := t = { s with groups := t.groups, runs := t.runs, free := t.free }

/-- From s to t the unit's group becomes `G` of itself and its thread k becomes `F k` of itself, but for run control; no
other group changes, nor a run of another partition. -/
structure UnitDone (u : Issue) (s t : State) (G : Group → Group) (F : Nat → Thread → Thread) : Prop where
  others : ∀ n, n ≠ u.gid → t.grp? n = s.grp? n
  runs : ∀ r : Run, r.core ≠ u.core ∨ r.part ≠ u.part → (r ∈ t.runs ↔ r ∈ s.runs)
  group : ∃ g', t.grp? u.gid = some g' ∧ g' = { G u.grp with threads := g'.threads, yielded := g'.yielded } ∧
    g'.threads.length = u.grp.threads.length ∧
    ∀ k, k < u.grp.threads.length → RunCtl u k (F k (u.grp.thr k)) (g'.thr k)

/-! ## Results in registers -/

/-- The word that a list of register writes leaves in register r. -/
def written (ws : LaneWrites) (r : Nat) : Option Word := (ws.reverse.find? fun e => e.1 == r).map Prod.snd

/-- Register writes of lane k where the lanes `ls` write `w`. -/
def laneWrites (ls : List Nat) (w : Nat → LaneWrites) (k : Nat) : LaneWrites := if ls.contains k then w k else []

/-- Writes that reach the s registers: those of the lowest writing lane (R52). -/
def lowWrites (ls : List Nat) (w : Nat → LaneWrites) : LaneWrites := match ls with
  | [] => []
  | k :: _ => w k

/-- Whether a register of thread k is written, as v register by its lane or as s register by the lowest lane. -/
def hitReg (ls : List Nat) (w : Nat → LaneWrites) (k r : Nat) : Bool :=
  if r < 96 then (written (laneWrites ls w k) r).isSome else (written (lowWrites ls w) r).isSome

/-- The unit's results: lanes `ls` write `w`. Each written register has its new word, every other one its old word; a
register that is written awaits no free, no settle and no older result, and its stored word is new; nothing else of the
device changes (R11, R42, R43, R52). -/
structure LaneResults (i : Instr) (u : Issue) (ls : List Nat) (w : Nat → LaneWrites) (s t : State) : Prop where
  only : OnlyUnit s t
  others : ∀ n, n ≠ u.gid → t.grp? n = s.grp? n
  runs : ∀ r : Run, r.core ≠ u.core ∨ r.part ≠ u.part → (r ∈ t.runs ↔ r ∈ s.runs)
  group : ∃ g', t.grp? u.gid = some g' ∧
    g' = { u.grp with
      threads := g'.threads, sreg := g'.sreg, yielded := g'.yielded
      sus := u.grp.sus.filter fun r => decide (r < 96) || (written (lowWrites ls w) r).isNone } ∧
    g'.threads.length = u.grp.threads.length ∧
    (∀ r, assoc r g'.sreg = (written (lowWrites ls w) (96 + r)).or (assoc r u.grp.sreg)) ∧
    ∀ k, k < u.grp.threads.length →
      (∀ r, assoc r (g'.thr k).v =
        (if r < 96 then written (laneWrites ls w k) r else none).or (assoc r (u.grp.thr k).v)) ∧
      RunCtl u k
        { passed i u k (u.grp.thr k) with
          v := (g'.thr k).v
          dead := (passed i u k (u.grp.thr k)).dead.filter fun r => decide (96 ≤ r) || !hitReg ls w k r
          pend := (u.grp.thr k).pend.map fun p => { p with dsts := p.dsts.map fun d => match d with
            | some r => if hitReg ls w k r then none else some r
            | none => none }
          unsettled := (u.grp.thr k).unsettled.filter fun e => !hitReg ls w k e.1
          sus := (u.grp.thr k).sus.filter fun r => decide (96 ≤ r) || !hitReg ls w k r
          kept := if (u.grp.thr k).kept.any (hitReg ls w k) then [] else (u.grp.thr k).kept }
        (g'.thr k)

/-- The register writes of a three-register operation over the elements of BLOCK, from a, b and the destination's old
value (R151). -/
def threeWrites (o : TR) (f : Pfx → Word → Word → Word → Word) (u : Issue) (s : State) (t : Nat) : LaneWrites :=
  u.pfx.elems.map fun e => (elemReg o.d.toNat e, f u.pfx (u.rd s t (elemReg o.a.toNat e))
    (u.rd s t (u.pfx.elemB o.b.toNat e)) (u.rd s t (elemReg o.d.toNat e)))

/-- The register writes of a one-source operation over the elements of BLOCK (R151). -/
def oneWrites (d a : BitVec 7) (f : Pfx → Word → Word) (u : Issue) (s : State) (t : Nat) : LaneWrites :=
  u.pfx.elems.map fun e => (elemReg d.toNat e, f u.pfx (u.rd s t (elemReg a.toNat e)))

/-- The writes of a 64-bit value to a pair: the low word to the lower register (R9). -/
def pairWrites (d : BitVec 7) (x : DWord) : LaneWrites := [(d.toNat, pairLo x), (d.toNat + 1, pairHi x)]

/-- An integer under MOD sat: clamped to the signed range, to the unsigned range, or its low 32 bits (R164). -/
def underSat (p : Pfx) (signed unsigned : Int) (wrapped : Word) : Word :=
  if p.sat = 1 then BitVec.ofInt 32 (max (-(2 ^ 31)) (min (2 ^ 31 - 1) signed))
  else if p.sat = 2 then BitVec.ofInt 32 (max 0 (min (2 ^ 32 - 1) unsigned))
  else wrapped

/-- The number that a finite value is; 0 for the others. -/
def FVal.rat : FVal → ℚ
  | .fin s m e => (if s then -1 else 1) * m * 2 ^ e
  | _ => 0

/-- An exact value rounded to an integer in a mode (R67). -/
def toInteger (mode : Rnd) (x : ℚ) : Int :=
  let below : Int := ⌊x⌋
  let above : Int := ⌈x⌉
  match mode with
  | .rn => if 2 * x < below + above then below else if below + above < 2 * x then above
    else if below % 2 = 0 then below else above
  | .rz => if 0 ≤ x then below else above
  | .ru => above
  | .rd => below

/-- The value of a pattern of a conversion type, read under FTZ or not (R68, R70, Table 7-17). -/
def typedValue (ty : BitVec 3) (ftz : Bool) (w : Nat) : FVal :=
  let whole (x : Int) : FVal := .fin (decide (x < 0)) x.natAbs 0
  match ty.toNat with
  | 0 => inF .f32 ftz w
  | 1 => whole (BitVec.ofNat 32 w).toInt
  | 2 => whole (BitVec.ofNat 32 w).toNat
  | 3 => inF .bf16 ftz w
  | 4 => inF .f16 ftz w
  | 5 => inF .e4m3 ftz w
  | _ => inF .e5m2 ftz w

/-- The pattern of a conversion type for a value: a float is rounded once under MOD's fields, an integer is rounded toward
zero and clamped, NaN giving 0 (R70, R71, R186, Table 4-3). -/
def typedPattern (ty : BitVec 3) (p : Pfx) (x : FVal) : Nat :=
  let float (f : Fmt) : Nat := roundF f p.rnd (p.sat == 1) p.ftz x
  let whole (lo hi : Int) : Nat := (BitVec.ofInt 32 (match x with
    | .nan => 0
    | .inf neg => if neg then lo else hi
    | .fin .. => max lo (min hi (toInteger .rz x.rat)))).toNat
  match ty.toNat with
  | 0 => float .f32
  | 1 => whole (-(2 ^ 31)) (2 ^ 31 - 1)
  | 2 => whole 0 (2 ^ 32 - 1)
  | 3 => float .bf16
  | 4 => float .f16
  | 5 => float .e4m3
  | _ => float .e5m2

/-- Bits of a conversion type (Table 7-17). -/
def typedBits (ty : BitVec 3) : Nat := if ty.toNat ≤ 2 then 32 else if ty.toNat ≤ 4 then 16 else 8

/-- Node k of level n of the fixed tree over leaves: its two halves combined, an absent one giving the other (R205). -/
def treeOf (f : Word → Word → Word) : Nat → (Nat → Option Word) → Nat → Option Word
  | 0, x, k => x k
  | n + 1, x, k => match treeOf f n x (2 * k), treeOf f n x (2 * k + 1) with
    | some a, some b => some (f a b)
    | some a, none => some a
    | none, b => b

/-- Instruction i completes with the register writes `w` in every active lane. -/
def Computes (i : Instr) (w : Issue → State → Nat → LaneWrites) : Prop :=
  ∀ u s, Issues i u s → ∃ t, exec i s = .next t ∧ LaneResults i u u.act (w u s) s t

/-! ## Changes of threads -/

/-- Active threads become `f k` of themselves. -/
def onAct (u : Issue) (f : Nat → Thread → Thread) (k : Nat) (th : Thread) : Thread :=
  if u.act.contains k then f k th else th

/-- Instruction i, whose unit meets `ok`, completes: its active threads pass the unit and become `f` of themselves, and
nothing else changes. -/
def Transforms (i : Instr) (ok : Issue → State → Prop) (f : Issue → State → Nat → Thread → Thread) : Prop :=
  ∀ u s, Issues i u s → ok u s → ∃ t, exec i s = .next t ∧ OnlyUnit s t ∧
    UnitDone u s t id fun k th => onAct u (f u s) k (passed i u k th)

/-! ## Units with other effects

`Ends` gives the state in which the effect of a unit leaves the device; the end of the unit (R36) then makes the run go on
or end, and changes no more than run control. -/

/-- The effect of the unit that i ends leaves a state that meets `P`, and the unit ends there. -/
def Ends (i : Instr) (u : Issue) (s : State) (P : State → Prop) : Prop := ∃ t, exec i s = .next (finish i u t) ∧ P t

/-- The effect leaves a state that meets `P`; then every thread whose wait is over goes on, and the unit ends. -/
def EndsAwake (i : Instr) (u : Issue) (s : State) (P : State → Prop) : Prop :=
  ∃ t, exec i s = .next (finish i u (wake t)) ∧ P t

/-- The unit waits for `w`: its run ends and its active threads park where they are, to issue it again; threads
that the guard has switched off pass it (R36, R117). Where the guard switches none off, nothing else changes. -/
def Parks (i : Instr) (u : Issue) (s : State) (w : Wait) : Prop :=
  (∃ eff, (∀ s, exec i s = execUnit i eff s) ∧ exec i s = .next (parkResource i eff w u s)) ∧
  ((∀ k ∈ u.tids, k ∈ u.act) → exec i s = .next ((endRunAt s u.core u.part).updGrp u.gid fun g =>
    g.updThrs u.act fun th => { th with park := some (.resource w) }))

/-- From s to t the unit's group becomes `G` of itself, and its thread k, which has passed the unit, `f k` of itself; no
other group changes. -/
structure Acts (i : Instr) (u : Issue) (s t : State) (G : Group → Group) (f : Nat → Thread → Thread) : Prop where
  others : ∀ n, n ≠ u.gid → t.grp? n = s.grp? n
  group : ∃ g', t.grp? u.gid = some g' ∧ g' = { G u.grp with threads := g'.threads } ∧
    g'.threads.length = u.grp.threads.length ∧
    ∀ k, k < u.grp.threads.length → g'.thr k = f k (passed i u k (u.grp.thr k))

/-- A thread with a further long-latency result, numbered `id`, on its way to the registers `r.1`, whose words `r.2` may
be known already; the registers are no longer to be freed (R42, R44). `mem`: of a load or an atomic (R219); `eng`: of an
operation of the context engine (R344). -/
def pending (u : Issue) (id k : Nat) (r : List Nat × List (Option Word)) (mem eng : Bool) (th : Thread) : Thread :=
  { th with
    dead := th.dead.filter fun x => !r.1.contains x
    pend := th.pend ++ [{ id := id, fpc := u.upc, words := r.2, mem := mem, eng := eng,
                          dsts := r.1.map fun x => if x < 96 ∨ k = u.low then some x else none }] }

/-- Every active thread gets a further long-latency result, numbered from `n` on. -/
def allPending (u : Issue) (n : Nat) (r : Nat → List Nat × List (Option Word)) (mem eng : Bool := false) :
    Nat → Thread → Thread :=
  onAct u fun k => pending u (n + u.act.idxOf k) k (r k) mem eng

/-- Registers of a result of n words from d on that no word of is known yet. -/
def awaited (d n : Nat) (_ : Nat) : List Nat × List (Option Word) := ((List.range n).map (d + ·), List.replicate n none)

/-! ## Regions and requests -/

/-- From s to t frames change only as reads of table entries change them: a CLEAN frame that holds one is OWNED (R362, R373). -/
def TablesRead (s t : State) : Prop := ∃ l, t.frames = (s.walked l).frames

/-- What a store request does: its thread, address, size and data. -/
def Req.key (r : Req) : Nat × DWord × Nat × DWord := (r.tid, r.va, r.size, r.data)

/-- The thread, address and size of a request. -/
def Req.place (r : Req) : Nat × DWord × Nat := (r.tid, r.va, r.size)

/-- The stores that threads of the unit's group hold, in program order, in pieces of at most 8 bytes (R97, R106). -/
def heldStores (u : Issue) (ts : List Nat) : List (Nat × DWord × Nat × DWord) :=
  ts.flatMap fun k => (u.grp.thr k).stores.flatMap fun b => (pieces b.size).map fun p =>
    (k, b.va + BitVec.ofNat 64 p.1, p.2, BitVec.ofNat 64 (b.data.toNat >>> (8 * p.1)))

/-- A thread of the unit whose region has committed: it holds no store, its last uses are free, its counts are zero, and a
new region, numbered `n`, opens after the unit (R44, R115, R117). -/
def recommit (u : Issue) (n k : Nat) (th : Thread) : Thread :=
  if u.tids.contains k then
    { th with stores := [], nst := 0, ord := 0, skip := 0, redo := false, rpc := u.ipc + 4, rid := n, rguard := none,
              v := th.v.filter fun e => !th.dead.contains e.1, dead := [] }
  else th

/-- Words of the registers that a commit at the unit frees: those with a last use recorded by then (R44). -/
def freedWords (i : Instr) (u : Issue) : List Word := u.tids.flatMap fun k => (passed i u k (u.grp.thr k)).freed

/-- The unit's group once its region has committed: the re-entry bits of its threads are clear, and an empty re-entry
mask returns the count to zero (R126). -/
def reentered (u : Issue) (g : Group) : Group :=
  { g with remask := g.remask &&& ~~~tmask u.tids, instar := if g.remask &&& ~~~tmask u.tids = 0 then 0 else g.instar }

/-- What a commit makes of the stores that threads hold: requests of the group, not yet performed (R106, R117). -/
def FromHeld (u : Issue) (ts : List Nat) (rs : List Req) : Prop :=
  rs.map Req.key = heldStores u ts ∧ ∀ r ∈ rs, r.gid = u.gid ∧ r.kind = .store ∧ r.performed = false

/-- From s to t the unit's region commits, in a new region numbered `n`, and its threads then become `f k` of themselves,
its group `G` of itself; the requests are those of the held stores, followed by `more`. -/
def Commits (i : Instr) (u : Issue) (s t : State) (n : Nat) (more : List Req) (G : Group → Group)
    (f : Nat → Thread → Thread) : Prop :=
  Acts i u s t (fun g => G (reentered u g)) (fun k th => f k (recommit u n k th)) ∧
  ∃ rs, FromHeld u u.tids rs ∧ t.reqs = s.reqs ++ rs ++ more

/-- The device once the unit's region has committed, with the groups, requests and tickets that `t` has: only the words
of registers that the commit frees are gone besides (R44, R117). -/
def afterCommit (i : Instr) (u : Issue) (s t : State) (n : Nat) : State :=
  { s with groups := t.groups, reqs := t.reqs, ticket := t.ticket, ctxs := (s.leave u.grp.cxid (freedWords i u)).ctxs
           nextId := n }

/-- Requests of one kind that lanes make: to these places in this order, at MOD's order and scope, not yet performed. -/
def Made (u : Issue) (pol : Nat) (kind : Nat → ReqKind) (places : List (Nat × DWord × Nat)) (rs : List Req) : Prop :=
  rs.map Req.place = places ∧ ∀ r ∈ rs, r.gid = u.gid ∧ r.cxid = u.grp.cxid ∧ r.core = u.core ∧ r.kind = kind r.tid ∧
    (r.ord, r.scope) = u.pfx.ord ∧ r.pol = pol ∧ r.performed = false

/-- The pieces of at most 8 bytes of the places of lanes (R97). -/
def piecesOf (size : Nat) (as : List (Nat × Acc)) : List (Nat × DWord × Nat) :=
  as.flatMap fun x => (pieces size).map fun p => (x.1, x.2.va + BitVec.ofNat 64 p.1, p.2)

/-- A thread that holds one more store for each place of its own, counted once where the thread is of the unit (R106,
R119). -/
def holds (u : Issue) (size pol n : Nat) (data : Nat → BitVec 128) (as : List (Nat × Acc)) (k : Nat) (th : Thread) : Thread :=
  if u.tids.contains k then
    { th with
      nst := th.nst + 1
      stores := th.stores ++ (as.filter fun x => x.1 == k).map fun x =>
        { glob := x.2.blk.isNone, cxid := u.grp.cxid, va := x.2.va, b := x.2.b, off := x.2.off, owner := x.2.owner,
          opens := (x.2.ent.map XEnt.opens).getD [], blk := x.2.blk.getD 0, size := size, data := data k, ord := u.pfx.ord.1
          scope := u.pfx.ord.2, pol := pol, inst := n, fpc := u.upc } }
  else th

/-- The lowest active thread, which has read a record, and so the writes that it found; v: what it knows then (R99). -/
def hasRead (u : Issue) (v : View) (k : Nat) (th : Thread) : Thread := if k = u.low then { th with view := v } else th

/-- Traps of a unit's own precise trap: its cause and lanes, at the unit's first word, in the group's context. -/
def Takes (i : Instr) (u : Issue) (s : State) (c : Cause) (ls : List Nat) (faddr : DWord := 0) (wr : Bool := false) : Prop :=
  exec i s = .next (raise s u.grp { cause := c, lanes := ls, fpc := u.upc, faddr := faddr, cxid := u.grp.cxid, wr := wr })

/-- Active threads park. -/
def parked (u : Issue) (p : Nat → Park) : Nat → Thread → Thread := onAct u fun k th => { th with park := some (p k) }

/-! ## Micro-ops of remote updates -/

/-- The word that an arithmetic micro-op computes in one lane (R260, R261, Table 11-6). -/
def microWord (op : Nat) (a b c : Word) : Word :=
  let x : FVal := f32 a
  let y : FVal := f32 b
  match op with
  | 1 => a
  | 2 => round32 .rn false (addF .rn x y)
  | 3 => round32 .rn false (mulF x y)
  | 4 => round32 .rn false (fmaF .rn x y (f32 c))
  | 5 => round32 .rn false (minF x y)
  | 6 => round32 .rn false (maxF x y)
  | 7 => BitVec.ofNat 32 (a.toNat + b.toNat)
  | 8 => a &&& b
  | 9 => a ||| b
  | 10 => a ^^^ b
  | 11 => BitVec.ofNat 32 (a.toNat * 2 ^ b.toNat)
  | 12 => BitVec.ofNat 32 (a.toNat / 2 ^ b.toNat)
  | _ => BitVec.ofNat 16 (roundF .bf16 .rn false false y) ++ BitVec.ofNat 16 (roundF .bf16 .rn false false x)

/-- Bits of a payload: w of them from bit k on. -/
def payBits (x : RuIn) (k w : Nat) : Nat := ((x.pay.getD (k / 32) 0).extractLsb' (k % 32) w).toNat

/-- What lane l of the destination holds after a micro-op that writes a temporary (R260, Table 11-6). -/
def microLane (x : RuIn) (m : RuM) (u l : Nat) : Word :=
  let a := (ruOperand x m (moA u)).getD l 0
  let b := (ruOperand x m (moB u)).getD l 0
  let e : Int := l - x.g0
  match moOp u with
  | 15 => if m.q.getD l true then a else b
  | 16 => let k := e + 32 * (moMod u % 2 : Nat)
    if 0 ≤ k ∧ 2 * k + 2 ≤ ruPsize x.d then round32 .rn false (decF .bf16 (payBits x (16 * k.toNat) 16)) else 0
  | 18 => if 0 ≤ e ∧ e < 32 then round32 .rn false
      (bxVal 8 (signedOf (payBits x (8 * e.toNat) 8) 8) (payBits x (256 + 8 * (e.toNat / 16)) 8)) else 0
  | 19 => (m.w.getD (moLine u) zLine).getD l 0
  | op => microWord op a b ((ruOperand x m (moC u)).getD l 0)

/-- The comparison of CMPLT and CMPEQ in one lane, by type (R261). -/
def microTest (u : Nat) (a b : Word) : Bool :=
  let lt : Bool := match moMod u with
    | 0 => ltF (f32 a) (f32 b)
    | 1 => decide (a.toInt < b.toInt)
    | _ => decide (a.toNat < b.toNat)
  let eq : Bool := if moMod u = 0 then eqF (f32 a) (f32 b) else decide (a = b)
  if moOp u = 13 then lt else eq

/-- From m to n one micro-op has run: it changes one temporary, the predicate, one working copy of a line, or nothing (R257,
R260). -/
structure MicroOp (x : RuIn) (m : RuM) (u : Nat) (n : RuM) : Prop where
  nothing : moOp u = 0 ∨ moOp u = 21 → n = m
  temporary : (1 ≤ moOp u ∧ moOp u ≤ 12) ∨ (15 ≤ moOp u ∧ moOp u ≤ 19) → moD u < m.t.length → (moOp u = 18 → 36 ≤ ruPsize x.d) →
    n = { m with t := n.t } ∧ (∀ k, k ≠ moD u → n.t.getD k zLine = m.t.getD k zLine) ∧
      ∀ l < 32, (n.t.getD (moD u) zLine).getD l 0 = microLane x m u l
  predicate : moOp u = 13 ∨ moOp u = 14 → moMod u ≤ 2 → n = { m with q := n.q } ∧
    ∀ l < 32, n.q.getD l true = microTest u ((ruOperand x m (moA u)).getD l 0) ((ruOperand x m (moB u)).getD l 0)
  line : moOp u = 20 → moLine u < m.w.length → n = { m with w := n.w } ∧
    (∀ k, k ≠ moLine u → n.w.getD k zLine = m.w.getD k zLine) ∧ n.w.getD (moLine u) zLine = ruOperand x m (moA u)

/-- The inputs of a request's application. -/
def RuReq.input (r : RuReq) : RuIn :=
  { d := r.defn, p := ruView r.defn r.va.toNat r.payload, pay := r.payload, g0 := ruG0 r.defn r.va.toNat }

/-- A line of a request's granule, with its first byte, unless it is faulted in a mask. -/
def RuReq.lineAt (r : RuReq) (fmask i : Nat) : Option (Nat × Nat) := if fmask.testBit i then none else r.lines.getD i none

/-- The lines of an application at its start: as memory holds them, zero where they are faulted (R257). -/
def RuReq.start (r : RuReq) (s : State) (fmask : Nat) : List Line := (List.range r.lines.length).map fun i =>
  match r.lineAt fmask i with
  | some e => leWords (s.readBuf e.1 e.2 128)
  | none => zLine

/-- The state of an application once its main program has run (R262). -/
def RuReq.run (r : RuReq) (s : State) (fmask : Nat) : RuM :=
  ((List.range (ruNops r.defn - ruCcount r.defn)).map (ruOp r.defn)).foldl (ruExec r.input)
    { w := r.start s fmask, t := List.replicate 4 zLine, q := List.replicate 32 true }

/-- A line that an application writes: one that an STL names, not faulted (R262). -/
def RuReq.writes (r : RuReq) (fmask i : Nat) (e : Nat × Nat) : Prop :=
  i < r.lines.length ∧ r.lineAt fmask i = some e ∧ ∃ k < ruNops r.defn - ruCcount r.defn, moOp (ruOp r.defn k) = 20 ∧ moLine (ruOp r.defn k) = i

/-- The device address of byte k of the granule lanes of a line. -/
def RuReq.byteAt (r : RuReq) (s : State) (e : Nat × Nat) (k : Nat) : Option Nat :=
  (s.buf? e.1).bind fun b => place b (e.2 + 4 * ruG0 r.defn r.va.toNat + k)

end Sys2Proof.Machine
end

