-- ==== Sys2Proof/Certificates/Slice0/Obligations.lean ====
section
/-! DEFINITION. The statements for the provers. Each docstring names the rules of spec/ that the statement formalises. -/

open Sys2Proof Sys2Proof.Machine

/-! ## Integer instructions -/

/-- R164: IADD, ISUB, IMUL, IMULH.i32, IMULH.n32, IMAD, AND, OR, XOR and ANDN write these words in the active lanes, under
MOD sat where it applies, and change nothing else. -/
def Obligations.integerArithmeticResults : Prop := ∀ o : TR,
  Computes (.iadd o) (threeWrites o fun p a b _ => underSat p (a.toInt + b.toInt) ((a.toNat : Int) + b.toNat) (a + b)) ∧
  Computes (.isub o) (threeWrites o fun p a b _ => underSat p (a.toInt - b.toInt) ((a.toNat : Int) - b.toNat) (a - b)) ∧
  Computes (.imul o) (threeWrites o fun p a b _ => underSat p (a.toInt * b.toInt) ((a.toNat : Int) * b.toNat) (a * b)) ∧
  Computes (.imulhI32 o) (threeWrites o fun _ a b _ => BitVec.ofInt 32 (a.toInt * b.toInt / 2 ^ 32)) ∧
  Computes (.imulhN32 o) (threeWrites o fun _ a b _ => BitVec.ofNat 32 (a.toNat * b.toNat / 2 ^ 32)) ∧
  Computes (.imad o) (threeWrites o fun p a b d =>
    underSat p (a.toInt * b.toInt + d.toInt) ((a.toNat : Int) * b.toNat + d.toNat) (a * b + d)) ∧
  Computes (.and o) (threeWrites o fun _ a b _ => a &&& b) ∧
  Computes (.or o) (threeWrites o fun _ a b _ => a ||| b) ∧
  Computes (.xor o) (threeWrites o fun _ a b _ => a ^^^ b) ∧
  Computes (.andn o) (threeWrites o fun _ a b _ => a &&& ~~~b)

/-- R165, R134, R166: IMIN and IMAX write the smaller word where the va field is below the vb field, the larger one
where it is above, and the register's own value where the fields are equal; IADD64 and ISUB64 write the 64-bit result
modulo 2^64 to the pair vd. R167: with pos in bits [4:0] and len in bits [13:8] of vb, cut at bit 31, BFX writes the
field of va shifted down, its top copied upward where bit 16 of vb asks for sign extension; BFI writes the low bits of
va into that field of vd. -/
def Obligations.integerPairAndFieldResults : Prop :=
  (∀ o : TR,
    Computes (.iminImaxI32 o) (threeWrites o fun _ a b _ =>
      if o.a.toNat < o.b.toNat then (if a.toInt ≤ b.toInt then a else b)
      else if o.b.toNat < o.a.toNat then (if a.toInt ≤ b.toInt then b else a) else a) ∧
    Computes (.iminImaxN32 o) (threeWrites o fun _ a b _ =>
      if o.a.toNat < o.b.toNat then (if a.toNat ≤ b.toNat then a else b)
      else if o.b.toNat < o.a.toNat then (if a.toNat ≤ b.toNat then b else a) else a) ∧
    Computes (.iadd64 o) (fun u s t => pairWrites o.d (u.rd64 s t o.a.toNat + u.rd64 s t o.b.toNat)) ∧
    Computes (.isub64 o) (fun u s t => pairWrites o.d (u.rd64 s t o.a.toNat - u.rd64 s t o.b.toNat))) ∧
  ∀ o : TR,
    Computes (.bfx o) (threeWrites o fun _ a b _ =>
      let pos := b.toNat % 32
      let len := min (b.toNat / 2 ^ 8 % 64) (32 - pos)
      BitVec.ofFnLE fun i : Fin 32 =>
        if i.val < len then a.getLsbD (pos + i.val) else decide (0 < len) && b.getLsbD 16 && a.getLsbD (pos + len - 1)) ∧
    Computes (.bfi o) (threeWrites o fun _ a b d =>
      let pos := b.toNat % 32
      let len := min (b.toNat / 2 ^ 8 % 64) (32 - pos)
      BitVec.ofFnLE fun i : Fin 32 =>
        if pos ≤ i.val ∧ i.val < pos + len then a.getLsbD (i.val - pos) else d.getLsbD i.val)

/-- R168, Table 8-6: shifts by an immediate or a register amount of any size. R169 to R171, R150: the immediate
operations, with the immediate extended by an IMM word of the unit where there is one. -/
def Obligations.shiftAndImmediateResults : Prop :=
  ((∀ o : SI,
      Computes (.shlImm o) (fun u s t => [(o.d.toNat, BitVec.ofNat 32 ((u.rd s t o.a.toNat).toNat * 2 ^ o.k.toNat))]) ∧
      Computes (.shrImm o) (fun u s t => [(o.d.toNat, BitVec.ofNat 32 ((u.rd s t o.a.toNat).toNat / 2 ^ o.k.toNat))]) ∧
      Computes (.sarImm o) (fun u s t => [(o.d.toNat, BitVec.ofInt 32 ((u.rd s t o.a.toNat).toInt / 2 ^ o.k.toNat))]) ∧
      Computes (.rotlImm o) (fun u s t => [(o.d.toNat, (u.rd s t o.a.toNat).rotateLeft o.k.toNat)])) ∧
    ∀ o : SR,
      Computes (.shlReg o) (fun u s t => let a := u.rd s t o.a.toNat; let k := (u.rd s t o.k.toNat).toNat
        [(o.d.toNat, if k < 32 then BitVec.ofNat 32 (a.toNat * 2 ^ k) else 0)]) ∧
      Computes (.shrReg o) (fun u s t => let a := u.rd s t o.a.toNat; let k := (u.rd s t o.k.toNat).toNat
        [(o.d.toNat, if k < 32 then BitVec.ofNat 32 (a.toNat / 2 ^ k) else 0)]) ∧
      Computes (.sarReg o) (fun u s t => let a := u.rd s t o.a.toNat; let k := (u.rd s t o.k.toNat).toNat
        [(o.d.toNat, if k < 32 then BitVec.ofInt 32 (a.toInt / 2 ^ k) else if 0 ≤ a.toInt then 0 else 0xFFFFFFFF)]) ∧
      Computes (.rotlReg o) (fun u s t => let a := u.rd s t o.a.toNat; let k := (u.rd s t o.k.toNat).toNat
        [(o.d.toNat, a.rotateLeft (k % 32))])) ∧
  (∀ o : IM,
      Computes (.iaddImm o) (fun u s t => let a := u.rd s t o.a.toNat; let k := immOf (.iaddImm o) u.pfx
        [(o.d.toNat, underSat u.pfx (a.toInt + k) (a.toNat + k) (a + BitVec.ofInt 32 k))]) ∧
      Computes (.andImm o) (fun u s t =>
        [(o.d.toNat, u.rd s t o.a.toNat &&& BitVec.ofInt 32 (immOf (.andImm o) u.pfx))]) ∧
      Computes (.orImm o) (fun u s t =>
        [(o.d.toNat, u.rd s t o.a.toNat ||| BitVec.ofInt 32 (immOf (.orImm o) u.pfx))]) ∧
      Computes (.xorImm o) (fun u s t =>
        [(o.d.toNat, u.rd s t o.a.toNat ^^^ BitVec.ofInt 32 (immOf (.xorImm o) u.pfx))])) ∧
    (∀ o : WI,
      Computes (.movi o) (fun u _ _ => [(o.d.toNat, BitVec.ofInt 32 (immOf (.movi o) u.pfx))]) ∧
      Computes (.movhi o) (fun _ _ _ => [(o.d.toNat, o.imm ++ (0 : BitVec 16))]) ∧
      Computes (.lea o) (fun u _ _ => pairWrites o.d (u.ipc + BitVec.ofInt 64 (4 * immOf (.lea o) u.pfx)))) ∧
    ∀ (o : IM) (p : Pfx),
      immOf (.iaddImm o) p = (match p.imm with
        | some h => (h ++ o.imm).toInt
        | none => o.imm.toInt) ∧
      immOf (.andImm o) p = (match p.imm with
        | some h => ((h ++ o.imm).toNat : Int)
        | none => o.imm.toNat) ∧
      immOf (.orImm o) p = immOf (.andImm o) p ∧ immOf (.xorImm o) p = immOf (.andImm o) p ∧
      ∀ w : WI, immOf (.movi w) p = (match p.imm with
        | some h => (h ++ w.imm).toInt
        | none => w.imm.toInt) ∧ immOf (.lea w) p = immOf (.movi w) p

/-- R181, R190: NOT, NEG, IABS, POPC, CLZ, BREV, the extensions, and MOV. -/
def Obligations.integerUnaryResults : Prop := ∀ o : CL,
  Computes (.not o) (oneWrites o.d o.a fun _ a => ~~~a) ∧
  Computes (.neg o) (oneWrites o.d o.a fun _ a => 0 - a) ∧
  Computes (.iabs o) (oneWrites o.d o.a fun _ a => if a.toInt < 0 then 0 - a else a) ∧
  Computes (.popc o) (oneWrites o.d o.a fun _ a =>
    BitVec.ofNat 32 ((List.range 32).map fun i => if a.getLsbD i then 1 else 0).sum) ∧
  Computes (.clz o) (oneWrites o.d o.a fun _ a =>
    BitVec.ofNat 32 (((List.range 32).find? fun i => a.getLsbD (31 - i)).getD 32)) ∧
  Computes (.brev o) (oneWrites o.d o.a fun _ a => BitVec.ofFnLE fun i : Fin 32 => a.getLsbD (31 - i.val)) ∧
  Computes (.sext8 o) (oneWrites o.d o.a fun _ a => (a.setWidth 8).signExtend 32) ∧
  Computes (.sext16 o) (oneWrites o.d o.a fun _ a => (a.setWidth 16).signExtend 32) ∧
  Computes (.zext8 o) (oneWrites o.d o.a fun _ a => (a.setWidth 8).setWidth 32) ∧
  Computes (.zext16 o) (oneWrites o.d o.a fun _ a => (a.setWidth 16).setWidth 32) ∧
  Computes (.mov o) (oneWrites o.d o.a fun _ a => a)

/-! ## Floating-point instructions -/

/-- R161, R65, R67: sums and products of finite values are exact, and rounding a finite value no larger than the largest finite one to
binary32 gives a pattern whose value is at most half a unit of its last place away to nearest, and in the directed modes
less than one unit away and on the mode's side. -/
def Obligations.binary32RoundsOnce :  Prop :=
  (∀ m a b k c d j, (addF m (.fin a b k) (.fin c d j)).rat = (FVal.fin a b k).rat + (FVal.fin c d j).rat) ∧
  (∀ a b k c d j, (mulF (.fin a b k) (.fin c d j)).rat = (FVal.fin a b k).rat * (FVal.fin c d j).rat) ∧
  ∀ (s : Bool) (m : Nat) (e : Int) (mode : Rnd), 0 < m → |(FVal.fin s m e).rat| ≤ 2 ^ 128 - 2 ^ 104 →
    let x := (FVal.fin s m e).rat
    let y := (decF .f32 (roundF .f32 mode false false (.fin s m e))).rat
    let unit : ℚ := 2 ^ (max ((Nat.log2 m : Int) + e) (-126) - 23)
    (mode = .rn → 2 * |y - x| ≤ unit) ∧
    (mode = .rz → |y - x| < unit ∧ |y| ≤ |x|) ∧
    (mode = .rd → |y - x| < unit ∧ y ≤ x) ∧
    (mode = .ru → |y - x| < unit ∧ (x ≤ y))

/-- R161, R177, R179: the binary32 operations read their operands through In, form the exact value and round it once
through Out; FSCB scales by two to the power of its second operand. R180: a packed operation computes each 16-bit half
like the binary32 operation of its shape, rounded on its own. -/
def Obligations.binary32AndPackedResults : Prop :=
  (∀ o : TR,
    Computes (.fadd o) (threeWrites o fun p a b _ => p.out32 (addF p.rnd (p.in32 a) (p.in32 b))) ∧
    Computes (.fsub o) (threeWrites o fun p a b _ => p.out32 (addF p.rnd (p.in32 a) (p.in32 b).neg)) ∧
    Computes (.fmul o) (threeWrites o fun p a b _ => p.out32 (mulF (p.in32 a) (p.in32 b))) ∧
    Computes (.ffma o) (threeWrites o fun p a b d => p.out32 (addF p.rnd (mulF (p.in32 a) (p.in32 b)) (p.in32 d))) ∧
    Computes (.ffms o) (threeWrites o fun p a b d => p.out32 (addF p.rnd (mulF (p.in32 a) (p.in32 b)) (p.in32 d).neg)) ∧
    Computes (.fnfma o) (threeWrites o fun p a b d => p.out32 (addF p.rnd (mulF (p.in32 a) (p.in32 b)).neg (p.in32 d))) ∧
    Computes (.fminFmax o) (threeWrites o fun p a b _ =>
      let x := if o.a.toNat < o.b.toNat then minF (p.in32 a) (p.in32 b)
        else if o.b.toNat < o.a.toNat then maxF (p.in32 a) (p.in32 b) else p.in32 a
      round32 .rn p.ftz x) ∧
    Computes (.fscb o) (threeWrites o fun p a b _ => match p.in32 a with
      | .fin s m e => p.out32 (.fin s m (e + b.toInt))
      | x => p.out32 x)) ∧
  ∀ o : TR,
    let half (f : Fmt) (g : Pfx → FVal → FVal → FVal → FVal) (nr : Bool) (p : Pfx) (a b d : BitVec 16) : BitVec 16 :=
      BitVec.ofNat 16 (roundF f (if nr then .rn else p.rnd) false p.ftz
        (g p (inF f p.ftz a.toNat) (inF f p.ftz b.toNat) (inF f p.ftz d.toNat)))
    let both (f : Fmt) (nr : Bool) (g : Pfx → FVal → FVal → FVal → FVal) (p : Pfx) (a b d : Word) : Word :=
      half f g nr p (a.extractLsb' 16 16) (b.extractLsb' 16 16) (d.extractLsb' 16 16) ++
        half f g nr p (a.extractLsb' 0 16) (b.extractLsb' 0 16) (d.extractLsb' 0 16)
    let pick (x y : FVal) : FVal := if o.a.toNat < o.b.toNat then minF x y else if o.b.toNat < o.a.toNat then maxF x y else x
    Computes (.hadd2Bf16 o) (threeWrites o (both .bf16 false fun p a b _ => addF p.rnd a b)) ∧
    Computes (.hadd2F16 o) (threeWrites o (both .f16 false fun p a b _ => addF p.rnd a b)) ∧
    Computes (.hmul2Bf16 o) (threeWrites o (both .bf16 false fun _ a b _ => mulF a b)) ∧
    Computes (.hmul2F16 o) (threeWrites o (both .f16 false fun _ a b _ => mulF a b)) ∧
    Computes (.hfma2Bf16 o) (threeWrites o (both .bf16 false fun p a b d => addF p.rnd (mulF a b) d)) ∧
    Computes (.hfma2F16 o) (threeWrites o (both .f16 false fun p a b d => addF p.rnd (mulF a b) d)) ∧
    Computes (.hmin2Hmax2Bf16 o) (threeWrites o (both .bf16 true fun _ a b _ => pick a b)) ∧
    Computes (.hmin2Hmax2F16 o) (threeWrites o (both .f16 true fun _ a b _ => pick a b))

/-- R182 to R188: FNEG and FABS change the sign; FRINT writes the integral value in the direction of its mode, a zero with
the operand's sign; FEXPX writes floor(log2 |x|), or its two special words; CVT writes the pattern of the destination type
for the source's value, packing or unpacking two or four of them; BXQ quantises the aligned block of 16 threads that its
thread is in, the threads outside Active as zeros, to the smallest exponent that holds the largest magnitude; BXD writes
the rounded value of an element. -/
def Obligations.floatUnaryResults : Prop :=
  (∀ o : CL,
    Computes (.fneg o) (oneWrites o.d o.a fun p a => round32 .rn p.ftz (p.in32 a).neg) ∧
    Computes (.fabs o) (oneWrites o.d o.a fun p a => round32 .rn p.ftz (p.in32 a).abs) ∧
    Computes (.fexpx o) (oneWrites o.d o.a fun p a => match p.in32 a with
      | .fin s m e => if m = 0 then 0x80000000 else BitVec.ofInt 32 (Int.log 2 |(FVal.fin s m e).rat|)
      | _ => 0x7FFFFFFF)) ∧
  (∀ o : CLM,
    let mode : Rnd := match o.sub.toNat with
      | 0 => .rn
      | 1 => .rz
      | 2 => .ru
      | _ => .rd
    Computes (.frint o) (oneWrites o.d o.a fun p a => match p.in32 a with
      | .fin s m e => round32 .rn p.ftz (.fin s (toInteger mode (FVal.fin s m e).rat).natAbs 0)
      | x => round32 .rn p.ftz x) ∧
    let m : Nat := 2 + 2 * o.sub.toNat
    Computes (.bxq o) (fun u s t =>
      let x (i : Nat) : FVal :=
        let k := t / 16 * 16 + i
        if k ∈ u.act then decF .f32 (u.rd s k o.a.toNat).toNat else .fin false 0 0
      let some' (p : FVal → Bool) : Bool := (List.range 16).any fun i => p (x i)
      let scale (c : Nat) : ℚ := 2 ^ ((c : Int) - 127 - m + 2)
      let top : Int := 2 ^ (m - 1) - 1
      let large : ℚ := ((List.range 16).map fun i => |(x i).rat|).foldl max 0
      let exp : Nat := if some' (fun y => y == .inf true || y == .inf false) then 254
        else ((List.range 255).find? fun c => decide (toInteger .rn (large / scale c) ≤ top)).getD 254
      let mant : Int := match x (t % 16) with
        | .nan => 0
        | .inf neg => if neg then -top else top
        | y => max (-top) (min top (toInteger .rn (y.rat / scale exp)))
      [(o.d.toNat, if some' FVal.isNan then 0xFF00 else BitVec.ofNat 32 ((mant % 256).toNat + exp * 256))]) ∧
    Computes (.bxd o) (oneWrites o.d o.a fun _ a =>
      let mant : Int := (a.setWidth m).toInt
      let exp : Nat := (a.extractLsb' 8 8).toNat
      if exp = 0xFF then 0x7FC00000
      else round32 .rn false (.fin (decide (mant < 0)) mant.natAbs ((exp : Int) - 127 - m + 2)))) ∧
  ∀ o : CVF,
    Computes (.cvt o) (fun u s t => u.pfx.elems.flatMap fun e =>
      let one (w : Nat) : Nat := typedPattern o.dst u.pfx (typedValue o.src u.pfx.ftz w)
      let n := if o.form = 1 then 2 else if o.form = 2 then 4 else 1
      let part := 32 / n
      let reg (i : Nat) : Nat := (u.rd s t (elemReg o.a.toNat e + i)).toNat
      let d := elemReg o.d.toNat e
      if n = 1 then [(d, BitVec.ofNat 32 (one (reg 0 % 2 ^ typedBits o.src)))]
      else if typedBits o.src = 32 then
        [(d, BitVec.ofNat 32 ((List.range n).map fun i => one (reg i) * 2 ^ (part * i)).sum)]
      else (List.range n).map fun i => (d + i, BitVec.ofNat 32 (one (reg 0 / 2 ^ (part * i) % 2 ^ part))))

/-! ## Predicates, moves, masks and group operations -/

/-- R53, R172 to R174: ISETP, FSETP and PLOP write one predicate in each active lane, where a write changes that predicate
alone and a write to 15, which reads true, is discarded; comparisons of finite numbers are those of the rational numbers. -/
def Obligations.compareResults : Prop :=
  (∀ (th : Thread) (i j : BitVec 4) (b : Bool), i.toNat ≤ 11 ∨ i = 15 →
    ((th.setP i b).prd j = if j = 15 then true else if j = i then b else th.prd j) ∧
    th.setP i b = { th with p := (th.setP i b).p }) ∧
  (∀ o : CP,
    let test (x y : Int) : Bool := match o.cond.toNat with
      | 0 => x == y
      | 1 => x != y
      | 2 => decide (x < y)
      | 3 => decide (x ≤ y)
      | 4 => decide (x > y)
      | _ => decide (x ≥ y)
    let ftest (x y : FVal) : Bool := match o.cond.toNat with
      | 0 => !(x.isNan || y.isNan) && eqF x y
      | 1 => (x.isNan || y.isNan) || !eqF x y
      | 2 => !(x.isNan || y.isNan) && ltF x y
      | 3 => !(x.isNan || y.isNan) && (ltF x y || eqF x y)
      | 4 => !(x.isNan || y.isNan) && ltF y x
      | 5 => !(x.isNan || y.isNan) && (ltF y x || eqF x y)
      | 6 => !(x.isNan || y.isNan)
      | _ => x.isNan || y.isNan
    Transforms (.isetpI32 o) (fun _ _ => True) (fun u s k th =>
      th.setP o.pd (test (u.rd s k o.a.toNat).toInt (u.rd s k o.b.toNat).toInt)) ∧
    Transforms (.isetpN32 o) (fun _ _ => True) (fun u s k th =>
      th.setP o.pd (test (u.rd s k o.a.toNat).toNat (u.rd s k o.b.toNat).toNat)) ∧
    Transforms (.fsetp o) (fun _ _ => True) (fun u s k th =>
      th.setP o.pd (ftest (u.pfx.in32 (u.rd s k o.a.toNat)) (u.pfx.in32 (u.rd s k o.b.toNat))))) ∧
  (∀ o : PLF, Transforms (.plop o) (fun _ _ => True) fun u _ k th =>
    let x := (u.grp.thr k).prd o.pa ^^ (o.na == 1)
    let y := (u.grp.thr k).prd o.pb ^^ (o.nb == 1)
    th.setP o.pd (match o.op.toNat with
      | 0 => x && y
      | 1 => x || y
      | _ => x ^^ y)) ∧
  ∀ a b k c d j, (ltF (.fin a b k) (.fin c d j) = true ↔ (FVal.fin a b k).rat < (FVal.fin c d j).rat) ∧
    (eqF (.fin a b k) (.fin c d j) = true ↔ (FVal.fin a b k).rat = (FVal.fin c d j).rat)

/-- R175, R176, R192, R202, R203: predicates packed and unpacked, CMOV, the link register, mask bits as predicates, and
the votes any and all. -/
def Obligations.predicateAndMoveResults : Prop :=
  (∀ o : PPF, Computes (.ppack o) fun u _ t => [(o.d.toNat, (u.grp.thr t).p.setWidth 32)]) ∧
  (∀ o : CMF, Computes (.cmov o) fun u s k =>
    if (u.grp.thr k).prd o.p ^^ (o.neg == 1) then [(o.d.toNat, u.rd s k o.a.toNat)] else []) ∧
  (∀ o : SWF, Transforms (.punpk o) (fun _ _ => True) fun u s k th => { th with p := (u.rd s k o.a.toNat).setWidth 12 }) ∧
  (∀ o : SWF, Transforms (.swr o) (fun _ _ => True) fun u s k th => { th with lr := u.rd64 s k o.a.toNat }) ∧
  (∀ o : MPF, Transforms (.mskp o) (fun _ _ => True) fun u _ k th => th.setP o.pd ((u.grp.m.getD o.k.toNat 0).getLsbD k)) ∧
  ∀ o : VTF,
    Transforms (.voteAny o) (fun _ _ => True) (fun u _ _ th => th.setP o.pd (u.act.any fun t => (u.grp.thr t).prd o.pa)) ∧
    Transforms (.voteAll o) (fun _ _ => True) (fun u _ _ th => th.setP o.pd (u.act.all fun t => (u.grp.thr t).prd o.pa))

/-- R191, R56, Table 3-2: SRD writes a 32-bit special register to vd and a 64-bit one to the pair vd. -/
def Obligations.specialRegisterReads : Prop := ∀ o : SDF, Computes (.srd o) fun u s t =>
  let word (x : Nat) : LaneWrites := [(o.d.toNat, BitVec.ofNat 32 x)]
  let lr := ((s.grid? u.grp.gr).map Grid.lrec).getD []
  let coord (f : Nat → Nat) : LaneWrites := word (((s.blk? u.grp.bid).map fun b => f b.lin).getD 0)
  match o.n.toNat with
  | 0x00 => word (64 * u.grp.part + u.grp.base + t)
  | 0x01 => word (u.grp.g * u.grp.width + t)
  | 0x02 => word u.grp.g
  | 0x03 => coord fun n => n % lrX lr
  | 0x04 => coord fun n => n / lrX lr % lrY lr
  | 0x05 => coord fun n => n / (lrX lr * lrY lr)
  | 0x06 => coord fun _ => lrBlocks lr
  | 0x07 => word u.grp.core
  | 0x08 => word (((s.blk? u.grp.bid).map Block.rank).getD 0)
  | 0x09 => word u.grp.width
  | 0x0A => pairWrites o.d (BitVec.ofNat 64 (s.ref252 / 252))
  | 0x0C => pairWrites o.d (u.grp.thr t).lr
  | _ => word u.grp.cxid

/-- R202 to R205, R228, R303: mask registers and ballots as pairs, shuffles, the instar count and the status of a
channel. -/
def Obligations.groupReadResults : Prop :=
  (∀ o : MRF, Computes (.mskr o) fun u _ _ => pairWrites o.d (u.grp.m.getD o.k.toNat 0)) ∧
  (∀ o : VBF, Computes (.voteBallot o) fun u _ _ => pairWrites o.d
    (BitVec.ofFnLE fun i : Fin 64 => u.act.contains i.val && (u.grp.thr i.val).prd o.pa)) ∧
  (∀ o : SHF, Computes (.shfl o) fun u s t =>
    let n := (u.rd s t o.b.toNat).toNat
    let from' (src : Nat) : Word := if src < u.grp.width ∧ src ∈ u.act then u.rd s src o.a.toNat else u.rd s t o.a.toNat
    [(o.d.toNat, match o.mode.toNat with
      | 0 => from' n
      | 1 => if n ≤ t then from' (t - n) else u.rd s t o.a.toNat
      | 2 => from' (t + n)
      | _ => from' (t ^^^ n))]) ∧
  (∀ o : PPF, Computes (.rgncnt o) fun u _ _ => [(o.d.toNat, BitVec.ofNat 32 u.grp.instar)]) ∧
  ∀ o : BTF, Computes (.btxStat o) fun u s _ => [(o.d.toNat, BitVec.ofNat 32 (256 * u.grp.btc.getD o.ch.toNat 0 +
    s.bts.countP fun b => b.gid == u.gid && b.ch == o.ch.toNat))]

/-- R205: GRED combines the words of the active threads in the fixed tree over thread indices, by addition, minimum or
maximum of the type that the sub field gives, and writes the result in every active lane. -/
def Obligations.groupReductionResults : Prop := ∀ o : GRF,
  let leaf (u : Issue) (s : State) (t : Nat) : Option Word :=
    if t < u.grp.width ∧ t ∈ u.act then some (u.rd s t o.a.toNat) else none
  let out (f : Word → Word → Word) (u : Issue) (s : State) (_ : Nat) : LaneWrites :=
    [(o.d.toNat, (treeOf f 7 (leaf u s) 0).getD 0)]
  let f32op (f : FVal → FVal → FVal) (a b : Word) : Word :=
    BitVec.ofNat 32 (roundF .f32 .rn false false (f (decF .f32 a.toNat) (decF .f32 b.toNat)))
  let pick (i n : Word → Word → Word) (g : FVal → FVal → FVal) : Word → Word → Word :=
    match o.ty.toNat with
    | 1 => n
    | 2 => f32op g
    | _ => i
  let small (i : Instr) (f : Word → Word → Word) : Prop := ∀ u s, u.grp.width ≤ 64 → Issues i u s →
    ∃ t, exec i s = .next t ∧ LaneResults i u u.act (out f u s) s t
  small (.gredAdd o) (pick (· + ·) (· + ·) (addF .rn)) ∧
  small (.gredMin o) (pick (fun a b => if a.toInt ≤ b.toInt then a else b) (fun a b => if a.toNat ≤ b.toNat then a else b) minF) ∧
  small (.gredMax o) (pick (fun a b => if a.toInt ≤ b.toInt then b else a) (fun a b => if a.toNat ≤ b.toNat then b else a) maxF)

/-! ## Control transfer and run control -/

/-- R196, R197, R199: a branch moves the active threads whose predicate holds to the word offset from its own word,
CALL with the link; RET and JIDX move each active thread to its own aligned canonical target; where a lane has none they
trap as MISALIGNED for the lanes whose target is misaligned, else as PROTECTION for those whose target is not canonical;
NOP does nothing. R200, R85: TRAP and BRK raise SOFTWARE and BREAKPOINT precisely for the active threads,
TRAP with its immediate as the faulting address; without an active thread they do nothing. -/
def Obligations.controlTransferAndTraps : Prop :=
  ((∀ o : BRF,
      Transforms (.br o) (fun _ _ => True) (fun u _ k th => if (u.grp.thr k).prd o.p ^^ (o.neg == 1) then
        { th with pc := u.ipc + (o.off ++ (0 : BitVec 2)).signExtend 64 } else th) ∧
      Transforms (.call o) (fun _ _ => True) (fun u _ k th => if (u.grp.thr k).prd o.p ^^ (o.neg == 1) then
        { th with pc := u.ipc + (o.off ++ (0 : BitVec 2)).signExtend 64, lr := u.ipc + 4 } else th)) ∧
    (let jumps (i : Instr) (target : Issue → State → Nat → DWord) : Prop :=
      Transforms i (fun u s => ∀ k ∈ u.act, (target u s k).toNat % 4 = 0 ∧ canonical (target u s k) = true)
        (fun u s k th => { th with pc := target u s k }) ∧
      ∀ u s, Issues i u s →
        let odd := u.act.filter fun k => (target u s k).toNat % 4 != 0
        let far := u.act.filter fun k => !canonical (target u s k)
        (∀ k r, odd = k :: r → exec i s = .next (raise s u.grp (u.ti .misaligned (k :: r) (target u s k)))) ∧
        (∀ k r, odd = [] → far = k :: r → exec i s = .next (raise s u.grp (u.ti .protection (k :: r) (target u s k))))
    (∀ o : RCF, jumps (.ret o) fun u _ k => (u.grp.thr k).lr) ∧ ∀ o : SWF, jumps (.jidx o) fun u s k => u.rd64 s k o.a.toNat) ∧
    ∀ o : RCF, Transforms (.nop o) (fun _ _ => True) (fun _ _ _ th => th)) ∧
  (∀ (o : TPF) u s, Issues (.trap o) u s → u.act ≠ [] →
      exec (.trap o) s = .next (raise s u.grp { cause := .software, lanes := u.act, fpc := u.upc,
                                                faddr := o.imm.setWidth 64, cxid := u.grp.cxid })) ∧
    (∀ (o : RCF) u s, Issues (.brk o) u s → u.act ≠ [] →
      exec (.brk o) s = .next (raise s u.grp { cause := .breakpoint, lanes := u.act, fpc := u.upc, cxid := u.grp.cxid })) ∧
    (∀ o : TPF, Transforms (.trap o) (fun u _ => u.act = []) fun _ _ _ th => th) ∧
    ∀ o : RCF, Transforms (.brk o) (fun u _ => u.act = []) fun _ _ _ th => th

/-! ## Estimates and accesses -/

/-- R42, R161, R189: an estimate gives every active lane a long-latency result, the estimates of the elements of
BLOCK. R77, R68: the estimates of special operands, whatever Config.estimate answers; under FTZ a subnormal is read as
a zero of its sign. -/
def Obligations.estimateResults : Prop :=
  (∀ o : CL,
    let does (i : Instr) (fn : Nat) : Prop := ∀ u s, Issues i u s → Ends i u s fun t =>
      t = { s with groups := t.groups, nextId := s.nextId + u.act.length } ∧
      Acts i u s t id (allPending u s.nextId fun k => (u.pfx.elems.map fun e => elemReg o.d.toNat e,
        u.pfx.elems.map fun e => some (sfu fn u.pfx.ftz (u.rd s k (elemReg o.a.toNat e)))))
    does (.rcpe o) 0 ∧ does (.rsqe o) 1 ∧ does (.ex2e o) 2 ∧ does (.lg2e o) 3 ∧ does (.sinpe o) 4 ∧ does (.cospe o) 5 ∧
      does (.tanhe o) 6) ∧
  (∀ fn ftz (w : Word), fn ≤ 6 → (decF .f32 w.toNat).isNan = true → sfu fn ftz w = 0x7FC00000) ∧
    (∀ ftz, (List.range 7).map (fun fn => sfu fn ftz 0) =
      [0x7F800000, 0x7F800000, 0x3F800000, 0xFF800000, 0, 0x3F800000, 0]) ∧
    (∀ ftz, (List.range 7).map (fun fn => sfu fn ftz 0x80000000) =
      [0xFF800000, 0xFF800000, 0x3F800000, 0xFF800000, 0x80000000, 0x3F800000, 0x80000000]) ∧
    (∀ ftz, (List.range 7).map (fun fn => sfu fn ftz 0x7F800000) =
      [0, 0, 0x7F800000, 0x7F800000, 0x7FC00000, 0x7FC00000, 0x3F800000]) ∧
    (∀ ftz, (List.range 7).map (fun fn => sfu fn ftz 0xFF800000) =
      [0x80000000, 0x7FC00000, 0, 0x7FC00000, 0x7FC00000, 0x7FC00000, 0xBF800000]) ∧
    (∀ ftz (w : Word), w.getLsbD 31 = true → w ≠ 0x80000000 → (ftz = false ∨ w.extractLsb' 23 8 ≠ 0) →
      (decF .f32 w.toNat).isNan = false → sfu 1 ftz w = 0x7FC00000 ∧ sfu 3 ftz w = 0x7FC00000) ∧
    ∀ fn (w : Word), w.extractLsb' 23 8 = 0 → sfu fn true w = sfu fn true (w &&& 0x80000000)

/-- R42, R97, R206, R207, R209, R210: a load whose lanes all pass their checks gives every active lane a long-latency
result in the registers from vt on and makes the lanes' requests, each for its bytes and for the lane's result, and no
other effect but on translation caches, on frames as the table reads have it and, for an order of .sc, tickets; a lane that fails
traps the unit before any access. -/
def Obligations.loadsRequestTheirBytes : Prop :=
  let does (i : Instr) (d size pol : Nat) (place : Issue → State → Nat → Except XFault Acc) : Prop := ∀ u s, Issues i u s →
    (∀ as, checkLanes u false u.act (place u (advance i u s)) = .ok as → Ends i u s fun t => ∃ rs,
      t = { s with groups := t.groups, tlb := t.tlb, lastPages := t.lastPages, frames := t.frames, reqs := s.reqs ++ rs
                   ticket := t.ticket, nextId := s.nextId + u.act.length + rs.length } ∧ TablesRead s t ∧
      (u.pfx.ord.1 ≠ 4 → t.ticket = s.ticket) ∧
      Acts i u s t id (allPending u s.nextId (awaited d (sizeRegs size)) true) ∧
      Made u pol (fun _ => .load) (piecesOf size as) rs ∧
      ∀ r ∈ rs, r.pend = s.nextId + u.act.idxOf r.tid) ∧
    ∀ ti, checkLanes u false u.act (place u (advance i u s)) = .error ti → exec i s = .next (raise s u.grp ti)
  let glob (i : Instr) (o : ME) (size : Nat) : Prop := does i o.t.toNat size o.cp.toNat fun u s k =>
    accGlobal u s (u.rd64 s k o.b.toNat + BitVec.ofInt 64 (immOf i u.pfx * size)) size .load
  (∀ o : ME, glob (.ldB o) o 1 ∧ glob (.ldH o) o 2 ∧ glob (.ldW o) o 4 ∧ glob (.ldD o) o 8 ∧ glob (.ldQ o) o 16) ∧
  (∀ o : LSF, does (.lds o) o.t.toNat (widthBytes o.w) 0 fun u s k =>
    accPad u s ((u.rd s k o.o.toNat).toNat + (immOf (.lds o) u.pfx).toNat * widthBytes o.w) (widthBytes o.w)) ∧
  ∀ o : LPF, does (.ldp o) o.t.toNat (widthBytes o.w) 0 fun u s k =>
    accPeer u s o.rank.toNat ((u.rd s k o.o.toNat).toNat + (immOf (.ldp o) u.pfx).toNat * widthBytes o.w) (widthBytes o.w)

/-- R106, R119, R120, R207, R209, R210: a store is held by its thread until the region commits: memory and requests stay
as they are. A failed lane traps first, then a ninth store of a region as REGION_FULL; without room in the store buffer
the threads park and the unit issues again. -/
def Obligations.storesAreHeld : Prop :=
  let does (i : Instr) (r size pol : Nat) (place : Issue → State → Nat → Except XFault Acc) : Prop := ∀ u s, Issues i u s →
    (∀ as, checkLanes u true u.act (place u (advance i u s)) = .ok as →
      let full := u.tids.filter fun k => decide (8 ≤ (u.grp.thr k).nst)
      let bytes := u.act.length * size
      let room := chunkRoom (advance i u s) u.grp bytes
      (full = [] → room = true → Ends i u s fun t =>
        t = { s with groups := t.groups, tlb := t.tlb, lastPages := t.lastPages, frames := t.frames, nextId := s.nextId + 1 } ∧
        TablesRead s t ∧ Acts i u s t (fun g => { g with held := chunkNeed s u.grp bytes }) (holds u size pol s.nextId
          (fun k => BitVec.ofNat 128 (leNat (wordsBytes (u.rdN s k r (sizeRegs size))) % 2 ^ (8 * size))) as)) ∧
      (full ≠ [] → exec i s = .next (raise s u.grp { cause := .regionFull, lanes := full, fpc := u.upc,
                                                     cxid := u.grp.cxid, wr := true })) ∧
      (full = [] → room = false → Parks i u s (.bytes bytes))) ∧
    ∀ ti, checkLanes u true u.act (place u (advance i u s)) = .error ti → exec i s = .next (raise s u.grp ti)
  let glob (i : Instr) (o : ME) (size : Nat) : Prop := does i o.t.toNat size o.cp.toNat fun u s k =>
    accGlobal u s (u.rd64 s k o.b.toNat + BitVec.ofInt 64 (immOf i u.pfx * size)) size .store
  (∀ o : ME, glob (.stB o) o 1 ∧ glob (.stH o) o 2 ∧ glob (.stW o) o 4 ∧ glob (.stD o) o 8 ∧ glob (.stQ o) o 16) ∧
  (∀ o : LSF, does (.sts o) o.t.toNat (widthBytes o.w) 0 fun u s k =>
    accPad u s ((u.rd s k o.o.toNat).toNat + (immOf (.sts o) u.pfx).toNat * widthBytes o.w) (widthBytes o.w)) ∧
  ∀ o : LPF, does (.stp o) o.t.toNat (widthBytes o.w) 0 fun u s k =>
    accPeer u s o.rank.toNat ((u.rd s k o.o.toNat).toNat + (immOf (.stp o) u.pfx).toNat * widthBytes o.w) (widthBytes o.w)

/-- R84, R85, R206: the checks of all lanes come before any access: with every lane's place known the places are those of
the lanes, in order; else the trap carries the check that comes first among those that lanes failed, its lane mask is
exactly the lanes that failed that check, and its address that of the lowest of them. Within one step of R206 an absent
page is asked before the other causes. A global access fails first where it is misaligned, then where its address is not
canonical, then where its translation fails; one that passes has the place that the composed entry gives. -/
def Obligations.accessChecksInOrder : Prop := (∀ (u : Issue) (wr : Bool) (ls : List Nat) (f : Nat → Except XFault Acc),
  ls.Pairwise (· < ·) → (∀ k ∈ ls, ∀ x, f k = .error x → x.rank ≤ 99) →
  (∀ as, checkLanes u wr ls f = .ok as ↔ ls.map f = as.map (fun x => .ok x.2) ∧ as.map Prod.fst = ls) ∧
  ∀ ti, checkLanes u wr ls f = .error ti → ∃ k x, k ∈ ls ∧ f k = .error x ∧
    (∀ j ∈ ls, ∀ y, f j = .error y → x.order ≤ y.order) ∧
    (∀ j, j ∈ ti.lanes ↔ j ∈ ls ∧ ∃ y, f j = .error y ∧ y.order = x.order) ∧ k ∈ ti.lanes ∧ (∀ j ∈ ti.lanes, k ≤ j) ∧
    ti.lanes.Pairwise (· < ·) ∧ ti.cause = x.cause ∧ ti.faddr = x.va ∧ ti.fpc = u.upc ∧ ti.cxid = x.cxid ∧
    ti.wr = (wr && !x.walk)) ∧
  (∀ x y : XFault, (x.rank < y.rank → x.order < y.order) ∧ (x.order = y.order → x.rank = y.rank ∧ x.cause = y.cause) ∧
    (x.rank = y.rank → x.cause = .pageFault → x.order ≤ y.order)) ∧
  ∀ s cx (va : DWord) size need,
  (va.toNat % size ≠ 0 → ∃ f, gcheck s cx va size need = .error f ∧ f.cause = .misaligned ∧ f.va = va) ∧
  (va.toNat % size = 0 → canonical va = false → ∃ f, gcheck s cx va size need = .error f ∧ f.cause = .protection ∧ f.va = va) ∧
  ∀ p, gcheck s cx va size need = .ok p → va.toNat % size = 0 ∧ canonical va = true ∧
    ∃ e, compose s cx va = .ok e ∧ p.b = e.b ∧ p.off = e.off + va.toNat % 65536

/-- R216, R217, Table 9-9: the value that each operation code writes over the old one; a compare and swap writes its
new value where the old one equals its comparand, and else nothing. R215 to R217: an atomic whose lanes all pass
commits its region, then makes one request per lane that carries its operation and operands, with the old value on its
way to vd. -/
def Obligations.atomicResults : Prop :=
  (∀ (a b c : DWord),
    let lo (x : DWord) : Word := x.setWidth 32
    let w (x : Word) : Option DWord := some (x.setWidth 64)
    let f (g : FVal → FVal → FVal) : Option DWord :=
      w (BitVec.ofNat 32 (roundF .f32 .rn false false (g (decF .f32 (lo a).toNat) (decF .f32 (lo b).toNat))))
    (List.range 16).map (fun op => rmwNew op (if op % 4 = 3 ∧ op < 12 then 8 else 4) a b c) =
      [w (lo a + lo b), w (lo a + lo b), f (addF .rn), some (a + b),
       w (if (lo a).toInt < (lo b).toInt then lo a else lo b), w (if lo a < lo b then lo a else lo b), f minF,
       some (if a.toInt < b.toInt then a else b),
       w (if (lo a).toInt < (lo b).toInt then lo b else lo a), w (if lo a < lo b then lo b else lo a), f maxF,
       some (if a.toInt < b.toInt then b else a),
       some (a &&& b), some (a ||| b), some (a ^^^ b), some b] ∧
    rmwNew 16 4 a b c = (if lo a = lo b then w (lo c) else none) ∧
    rmwNew 16 8 a b c = (if a = b then some c else none)) ∧
  let does (i : Instr) (d ap size op : Nat) (b c : Issue → State → Nat → DWord) : Prop := ∀ u s, Issues i u s →
      (∀ as, checkLanes u true u.act (fun k => accGlobal u (advance i u s) (u.rd64 s k (2 * ap)) size .rmw) = .ok as →
        Ends i u s fun t => ∃ n rs,
          t = { afterCommit i u s t (n + u.act.length + rs.length) with
            tlb := t.tlb, lastPages := t.lastPages, frames := t.frames } ∧ TablesRead s t ∧
          Commits i u s t n rs id (allPending u n (awaited d (sizeRegs size)) true) ∧
          Made u u.pfx.cp (fun k => .rmw op (b u s k) (c u s k)) (as.map fun x => (x.1, x.2.va, size)) rs ∧
          ∀ r ∈ rs, r.pend = n + u.act.idxOf r.tid) ∧
      ∀ ti, checkLanes u true u.act (fun k => accGlobal u (advance i u s) (u.rd64 s k (2 * ap)) size .rmw) = .error ti →
        exec i s = .next (raise s u.grp ti)
    let val (u : Issue) (s : State) (size r k : Nat) : DWord := if size = 4 then (u.rd s k r).setWidth 64 else u.rd64 s k r
    let none' (_ : Issue) (_ : State) (_ : Nat) : DWord := 0
    (∀ o : ATF, let size := if o.t = 3 then 8 else 4
      does (.atomAdd o) o.d.toNat o.ap.toNat size (0 + o.t.toNat) (fun u s => val u s size o.b.toNat) none' ∧
      does (.atomMin o) o.d.toNat o.ap.toNat size (4 + o.t.toNat) (fun u s => val u s size o.b.toNat) none' ∧
      does (.atomMax o) o.d.toNat o.ap.toNat size (8 + o.t.toNat) (fun u s => val u s size o.b.toNat) none') ∧
    (∀ o : ATB, let size := if o.x = 1 then 8 else 4
      does (.atomAnd o) o.d.toNat o.ap.toNat size 12 (fun u s => val u s size o.b.toNat) none' ∧
      does (.atomOr o) o.d.toNat o.ap.toNat size 13 (fun u s => val u s size o.b.toNat) none' ∧
      does (.atomXor o) o.d.toNat o.ap.toNat size 14 (fun u s => val u s size o.b.toNat) none' ∧
      does (.atomXchg o) o.d.toNat o.ap.toNat size 15 (fun u s => val u s size o.b.toNat) none') ∧
    ∀ o : CAF, let size := if o.t = 1 then 8 else 4
      does (.atomCas o) o.d.toNat o.ap.toNat size 16 (fun u s => val u s size o.b.toNat)
        (fun u s => val u s size (o.b.toNat + size / 4))

/-- R218, R85: STM writes one value to several addresses of each lane: where every destination of every lane passes, the
region commits and then one store request goes to each destination in pieces of at most 8 bytes, first destinations first,
each a store of its lane with its value at the instruction's order, scope and policy, not yet performed, and nothing else
changes but translation caches, frames as the table reads have it and tickets; no store is held. Else the unit traps with
no effect: the check is the first in STM's order that a destination failed, the lanes are those with a destination that
failed it, and the address is that of the first such destination in lane order and then destination order; a misaligned
destination comes before every other failure. -/
def Obligations.multicastStore : Prop := ∀ (o : STF) u s, Issues (.stm o) u s →
  let size := widthBytes o.w
  let n := o.n.toNat + 1
  let va (k j : Nat) : DWord := u.rd64 s k (2 * (o.ap.toNat + j))
  let acc (k j : Nat) : Except XFault Acc := accGlobal u (advance (.stm o) u s) (va k j) size .store
  let fault (k j : Nat) : Option XFault := match acc k j with
    | .error f => some (stmFault (advance (.stm o) u s) f u.grp.cxid (va k j))
    | .ok _ => none
  ((∀ k ∈ u.act, ∀ j < n, ∃ a, acc k j = .ok a) → Ends (.stm o) u s fun t => ∃ m rs,
    t = { afterCommit (.stm o) u s t (m + rs.length) with tlb := t.tlb, lastPages := t.lastPages, frames := t.frames } ∧
    TablesRead s t ∧ Commits (.stm o) u s t m rs id (fun _ th => th) ∧
    Made u u.pfx.cp (fun _ => .store) (rs.map Req.place) rs ∧
    rs.map Req.key = (List.range n).flatMap fun j => u.act.flatMap fun k => (pieces size).map fun p =>
      (k, va k j + BitVec.ofNat 64 p.1, p.2, BitVec.ofNat 64
        ((BitVec.ofNat 128 (leNat (wordsBytes (u.rdN s k o.b.toNat (sizeRegs size))) % 2 ^ (8 * size))).toNat >>>
          (8 * p.1)))) ∧
  ((∃ k ∈ u.act, ∃ j < n, ∃ f, acc k j = .error f) → ∃ ti x, exec (.stm o) s = .next (raise s u.grp ti) ∧
    ti.fpc = u.upc ∧ ti.cause = x.cause ∧ ti.faddr = x.va ∧
    x.cause ∈ [Cause.misaligned, .protection, .multiDeny, .pageFault] ∧
    ((u.act.flatMap fun k => (List.range n).map fun j => fault k j).reduceOption.find? fun y => y.order == x.order) = some x ∧
    (∀ k ∈ u.act, ∀ j < n, ∀ y, fault k j = some y → x.order ≤ y.order) ∧ ti.lanes.Nodup ∧
    (∀ k, k ∈ ti.lanes ↔ k ∈ u.act ∧ ∃ j < n, ∃ y, fault k j = some y ∧ y.order = x.order) ∧
    ((∃ k ∈ u.act, ∃ j < n, (va k j).toNat % size ≠ 0) → x.cause = .misaligned))

/-! ## Masks, exit, fences, waits and barriers

`EndsAwake` states the device before every thread whose wait is over goes on; `waitsAreReleased` says what that adds. -/

/-- R35, R201, R202: JENR, MSKW and PMSK change their mask register alone: JENR sets the active threads' bits, MSKW writes the
lowest active lane's pair cut to the group's width, PMSK puts predicates into the active threads' bits. JWAIT commits
the unit's regions and parks the threads that are enrolled in its mask; a thread of the mask that waits for the same mask at
another instruction makes it a BARRIER_MISMATCH of the enrolled threads. -/
def Obligations.maskWritesAndRejoin : Prop :=
  let does (i : Instr) (k : BitVec 3) (bits : Issue → State → Nat → Bool) : Prop := ∀ u s, Issues i u s → u.act ≠ [] →
    EndsAwake i u s fun t => t = { s with groups := t.groups } ∧
      Acts i u s t (fun g => { g with m := g.m.set k.toNat (BitVec.ofFnLE fun j : Fin 64 => bits u s j.val) }) fun _ th => th
  let old (u : Issue) (k : BitVec 3) (j : Nat) : Bool := (u.grp.m.getD k.toNat 0).getLsbD j
  (∀ o : KF, does (.jenr o) o.k fun u _ j => old u o.k j || u.act.contains j) ∧
  (∀ o : MWF, does (.mskw o) o.k fun u s j => decide (j < u.grp.width) && (u.rd64 s u.low o.a.toNat).getLsbD j) ∧
  (∀ o : PMF, does (.pmsk o) o.k fun u _ j => if u.act.contains j then (u.grp.thr j).prd o.pa else old u o.k j) ∧
  (∀ o : MWF, Transforms (.mskw o) (fun u _ => u.act = []) fun _ _ _ th => th) ∧
  ∀ (o : KF) u s, Issues (.jwait o) u s →
  let enrolled := u.act.filter fun k => (u.grp.m.getD o.k.toNat 0).getLsbD k
  let elsewhere := ∃ k ∈ u.grp.live, (u.grp.thr k).park = some (.jwait o.k.toNat) ∧
    (u.grp.m.getD o.k.toNat 0).getLsbD k = true ∧ (u.grp.thr k).pc ≠ u.ipc + 4
  (enrolled = [] ∨ ¬elsewhere → EndsAwake (.jwait o) u s fun t => ∃ n,
    t = afterCommit (.jwait o) u s t n ∧
    Commits (.jwait o) u s t n [] id fun k th =>
      if enrolled.contains k then { th with park := some (.jwait o.k.toNat) } else th) ∧
  (enrolled ≠ [] → elsewhere → exec (.jwait o) s = .next (raise s u.grp { cause := .barrierMismatch, lanes := enrolled,
                                                                          fpc := u.upc, cxid := u.grp.cxid }))

/-- R45, R54, R117: EXIT commits the regions of the active threads, which then have exited, hold nothing and are in no
mask register; the others pass. In a group that still has threads nothing else changes, but for the words of registers
that are gone, tickets and threads whose wait is over. -/
def Obligations.exitEndsThreads : Prop := ∀ (o : RCF) u s, Issues (.exit o) u s → ∃ t0,
  (EndsAwake (.exit o) u s fun t => ∃ g', t0.grp? u.gid = some g' ∧ t = if g'.live = [] then handlerGone t0 g' else t0) ∧
  (∃ rs ws, FromHeld u u.act rs ∧ t0 = { s with
    groups := t0.groups, reqs := s.reqs ++ rs, nextId := t0.nextId, ticket := t0.ticket
    ctxs := (s.leave u.grp.cxid ws).ctxs }) ∧
  (∀ n, n ≠ u.gid → t0.grp? n = s.grp? n) ∧
  ∃ g', t0.grp? u.gid = some g' ∧
    g' = { u.grp with threads := g'.threads, m := u.grp.m.map (· &&& ~~~tmask u.act), remask := g'.remask,
                      instar := g'.instar } ∧
    g'.threads.length = u.grp.threads.length ∧
    ∀ k, k < u.grp.threads.length → if u.act.contains k then
        (g'.thr k).exited = true ∧ (g'.thr k).stores = [] ∧ (g'.thr k).pend = [] ∧ (g'.thr k).park = none
      else g'.thr k = passed (.exit o) u k (u.grp.thr k)

/-- R101, R103, R115, R219 to R221, R227: RGN commits; FENCE, WAIT and WAITA commit and park the active threads, FENCE.sc
with a ticket for each, WAITA after its lanes' words have passed as loads. -/
def Obligations.fencesAndWaits : Prop :=
  (∀ (o : RCF) u s, Issues (.rgn o) u s → Ends (.rgn o) u s fun t => ∃ n,
    t = afterCommit (.rgn o) u s t n ∧ Commits (.rgn o) u s t n [] id fun _ th => th) ∧
  (∀ (o : FNF) u s, Issues (.fence o) u s → Ends (.fence o) u s fun t => ∃ n k, s.ticket ≤ k ∧
    t = { afterCommit (.fence o) u s t n with ticket := if o.ord.toNat = 4 then k + u.act.length else k } ∧
    Commits (.fence o) u s t n [] id (parked u fun j =>
      .fence n o.ord.toNat o.scope.toNat (if o.ord.toNat = 4 then some (k + u.act.idxOf j) else none))) ∧
  (∀ (o : WTF) u s, Issues (.wait o) u s → EndsAwake (.wait o) u s fun t => ∃ n,
    t = afterCommit (.wait o) u s t n ∧
    Commits (.wait o) u s t n [] id (parked u fun _ => .wait o.cls.toNat o.n.toNat (o.acq == 1))) ∧
  ∀ (o : WAF) u s, Issues (.waita o) u s →
    let clk : Option Nat := match o.tmo.toNat with
      | 0 => none
      | 1 => some 4096
      | 2 => some 65536
      | _ => some 1048576
    let va (k : Nat) : DWord := u.rd64 s k (2 * o.ap.toNat)
    let words := checkLanes u false u.act fun k => accGlobal u (advance (.waita o) u s) (va k) 4 .load
    (∀ as, words = .ok as → Ends (.waita o) u s fun t => ∃ n,
      t = { afterCommit (.waita o) u s t n with tlb := t.tlb, lastPages := t.lastPages, frames := t.frames } ∧ TablesRead s t ∧
      Commits (.waita o) u s t n [] id (parked u fun k => .waita (o.ne == 1) (u.rd s k o.b.toNat) (va k) clk clk u.upc)) ∧
    ∀ ti, words = .error ti → exec (.waita o) s = .next (raise s u.grp ti)

/-- R222, R223, R225: BAR and BARA commit, arrive at a barrier of the block, in its current generation, and park or note the
arrival; BARW waits for the generation of its thread's BARA, which it uses up; a BARA held makes BAR and BARA a
BARRIER_MISMATCH of its threads, and the lack of one BARW. BAR.PE arrives with a live-table index, another one of the same
generation being a BARRIER_MISMATCH; CBAR arrives at the gang's barrier. -/
def Obligations.barrierArrivals : Prop :=
  let arrive (u : Issue) (n id : Nat) (idx : Option Nat) (bs : List Block) : List Block := bs.map fun b =>
    if b.bid = u.grp.bid then b.setBar { b.bar id with
      arrived := (b.bar id).arrived ++ u.act.map fun k => (u.gid, k, n), idx := idx.or (b.bar id).idx } else b
  let holders (u : Issue) (id : Nat) (yes : Bool) : List Nat :=
    u.act.filter fun k => ((u.grp.thr k).bara.any fun e => e.1 == id) == yes
  let mismatch (i : Instr) (u : Issue) (s : State) (ls : List Nat) : Prop :=
    exec i s = .next (raise s u.grp { cause := .barrierMismatch, lanes := ls, fpc := u.upc, cxid := u.grp.cxid })
  (∀ (o : BIF) u s, Issues (.bar o) u s → let id := o.id.toNat
    (holders u id true = [] → EndsAwake (.bar o) u s fun t => ∃ n,
      t = { afterCommit (.bar o) u s t n with blocks := arrive u n id none s.blocks } ∧
      Commits (.bar o) u s t n [] (fun g => g) (parked u fun _ => .bar id (u.bar s id).gen)) ∧
    (holders u id true ≠ [] → mismatch (.bar o) u s (holders u id true))) ∧
  (∀ (o : BIF) u s, Issues (.bara o) u s → let id := o.id.toNat
    (holders u id true = [] → EndsAwake (.bara o) u s fun t => ∃ n,
      t = { afterCommit (.bara o) u s t n with blocks := arrive u n id none s.blocks } ∧
      Commits (.bara o) u s t n [] (fun g => g) (onAct u fun _ th =>
        { th with bara := (id, (u.bar s id).gen) :: th.bara })) ∧
    (holders u id true ≠ [] → mismatch (.bara o) u s (holders u id true))) ∧
  (∀ (o : BIF) u s, Issues (.barw o) u s → let id := o.id.toNat
    (holders u id false = [] → Ends (.barw o) u s fun t => ∃ n,
      t = afterCommit (.barw o) u s t n ∧
      Commits (.barw o) u s t n [] (fun g => g) (onAct u fun k th =>
        let own := (u.grp.thr k).bara.find? fun e => e.1 == id
        let past := own.all fun e => decide (e.2 < (u.bar s id).gen)
        { th with
          bara := th.bara.filter fun e => e.1 != id
          park := if past then none else own.map fun e => .barw id e.2
          view := if past then th.view.add n (u.bar s id).seen.known else th.view })) ∧
    (holders u id false ≠ [] → mismatch (.barw o) u s (holders u id false))) ∧
  (∀ (o : BPF) u s, Issues (.barPe o) u s → let idx := o.idx.toNat
    ((u.bar s 16).idx = none ∨ (u.bar s 16).idx = some idx → EndsAwake (.barPe o) u s fun t => ∃ n,
      t = { afterCommit (.barPe o) u s t n with blocks := arrive u n 16 (some idx) s.blocks } ∧
      Commits (.barPe o) u s t n [] (fun g => g) (parked u fun _ => .barPe (u.bar s 16).gen)) ∧
    (∀ j, (u.bar s 16).idx = some j → j ≠ idx → mismatch (.barPe o) u s u.act)) ∧
  ∀ (o : RCF) u s b, Issues (.cbar o) u s → s.blk? u.grp.bid = some b →
    let bar (x : Grid) : BarSt :=
      (assoc b.gang x.cbars).getD { id := 0, gen := 0, arrived := [] }
    EndsAwake (.cbar o) u s fun t => ∃ n,
      t = { afterCommit (.cbar o) u s t n with grids := s.grids.map fun x => if x.gr = b.gr then
        { x with cbars := assocSet b.gang { bar x with
          arrived := (bar x).arrived ++ u.act.map fun k => (u.gid, k, n) } x.cbars } else x } ∧
      Commits (.cbar o) u s t n [] (fun g => g) (parked u fun _ => .cbar (((s.grid? b.gr).map fun x => (bar x).gen).getD 0))

/-- R35, R42, R109, R212, R222, R224: what follows a change that waits depend on, where groups have numbers of their own. It
changes threads, mask registers, chunk counts, barriers, the leaves of blocks whose BAR.PE is complete, and slices' lines
whose write-backs are due, which become clean or go, and nothing else; a thread that it lets go on is one that was settling
or parked, and goes on where it is; no thread parks; a settle ends once no result that it covers is on its way, and a
WAIT once its counter holds no more than its bound. -/
def Obligations.waitsAreReleased : Prop := ∀ s : State, (s.groups.map Group.gid).Nodup →
  wake s = { s with groups := (wake s).groups, blocks := (wake s).blocks, grids := (wake s).grids, l2 := (wake s).l2
                    wbs := (wake s).wbs } ∧
  (wake s).wbs.Sublist s.wbs ∧
  ((wake s).l2.map fun l => { l with dirty := false }).Sublist (s.l2.map fun l => { l with dirty := false }) ∧
  (wake s).groups.length = s.groups.length ∧ (wake s).blocks.length = s.blocks.length ∧
  (wake s).grids.length = s.grids.length ∧
  (∀ i (h : i < s.blocks.length) (h' : i < (wake s).blocks.length),
    let b' := (wake s).blocks[i]
    b' = { s.blocks[i] with bars := b'.bars, pre := b'.pre, pe := b'.pe }) ∧
  (∀ i (h : i < s.grids.length) (h' : i < (wake s).grids.length),
    let x' := (wake s).grids[i]
    x' = { s.grids[i] with cbars := x'.cbars }) ∧
  ∀ i (h : i < s.groups.length) (h' : i < (wake s).groups.length),
    let g := s.groups[i]
    let g' := (wake s).groups[i]
    g' = { g with threads := g'.threads, m := g'.m, held := g'.held } ∧
    g'.threads.length = g.threads.length ∧
    ∀ k, k < g.threads.length →
      let th := g.thr k
      let th' := g'.thr k
      th' = { th with park := th'.park, settle := th'.settle, waited := th'.waited, starved := th'.starved
                      unsettled := th'.unsettled, view := th'.view } ∧
      th'.park ∈ [none, th.park] ∧
      (∀ n, th.settle = some n → th'.settle = if th.pend.any fun p => decide (p.id < n) then some n else none) ∧
      (th.settle = none → th'.settle = none ∧ th'.unsettled = th.unsettled) ∧
      ∀ c n a, th.park = some (.wait c n a) → (th'.park = none ↔ g.cnt c ≤ n)

/-! ## Tiles, caches, transfers, messages, launches and remote updates -/

/-- R211, R301, R85: a TLD or TST whose shape record fails takes that trap, and one whose record waits parks; a lane outside
the extents traps as TILE_OOB where the record does not permit it; else a TLD requests the elements of the lanes inside and
gives zero to the others, and a TST holds the stores of the lanes inside alone. Without an active lane TLD does nothing, and
TST only counts as a store of its threads. -/
def Obligations.tileAccesses : Prop :=
  let outside (o : TLF) (u : Issue) (s : State) (w : List Word) : List Nat := u.act.filter fun k => !tileInside u s o w k
  let inside (o : TLF) (u : Issue) (s : State) (w : List Word) : List Nat := u.act.filter fun k => tileInside u s o w k
  let record (i : Instr) (o : TLF) (wr : Bool) : Prop := ∀ u s, Issues i u s → u.act ≠ [] →
    (∀ ti, tileShape u (advance i u s) o wr = .error (.trap ti) → exec i s = .next (raise s u.grp ti)) ∧
    ∀ w, tileShape u (advance i u s) o wr = .error (.retry w) → w = .record u.low (u.rd64 s u.low o.s.toNat) 64 ∧ Parks i u s w
  (∀ o : TLF, Transforms (.tld o) (fun u _ => u.act = []) fun _ _ _ th => th) ∧
  (∀ (o : TLF) u s, Issues (.tst o) u s → u.act = [] → (∀ k ∈ u.tids, (u.grp.thr k).nst < 8) →
    chunkRoom (advance (.tst o) u s) u.grp 0 = true → Ends (.tst o) u s fun t =>
      t = { s with groups := t.groups, nextId := s.nextId + 1 } ∧
      Acts (.tst o) u s t (fun g => { g with held := chunkNeed s u.grp 0 })
        fun k th => if u.tids.contains k then { th with nst := th.nst + 1 } else th) ∧
  (∀ o : TLF, record (.tld o) o false ∧ record (.tst o) o true) ∧
  (∀ (o : TLF) u s w p, Issues (.tld o) u s → u.act ≠ [] → let s' := advance (.tld o) u s
    tileShape u s' o false = .ok (w, p) →
    (outside o u s w ≠ [] → shPermit w = false → Takes (.tld o) u s .tileOob (outside o u s w)) ∧
    (outside o u s w = [] ∨ shPermit w = true → ∀ as,
      checkLanes u false (inside o u s w) (fun k => accGlobal u s' (tileVa u s o w k) (shZ w) .load) = .ok as →
      Ends (.tld o) u s fun t => ∃ rs v,
        t = { s with groups := t.groups, tlb := t.tlb, lastPages := t.lastPages, l1 := t.l1, frames := t.frames
                     ctxs := (takeTokens s u.grp.cxid 2).ctxs
                     reqs := s.reqs ++ rs, ticket := t.ticket, nextId := s.nextId + u.act.length + rs.length } ∧
        Acts (.tld o) u s t id (fun k th => allPending u s.nextId (fun k => ((List.range (sizeRegs (shZ w))).map (o.t.toNat + ·),
          List.replicate (sizeRegs (shZ w)) (if tileInside u s o w k then none else some 0))) true false k (hasRead u v k th)) ∧
        Made u u.pfx.cp (fun _ => .load) (piecesOf (shZ w) as) rs)) ∧
  (∀ (o : TLF) u s w p, Issues (.tst o) u s → u.act ≠ [] → let s' := advance (.tst o) u s
    tileShape u s' o true = .ok (w, p) →
    (outside o u s w ≠ [] → shPermit w = false → Takes (.tst o) u s .tileOob (outside o u s w) 0 true) ∧
    (outside o u s w = [] ∨ shPermit w = true → ∀ as,
      checkLanes u true (inside o u s w) (fun k => accGlobal u s' (tileVa u s o w k) (shZ w) .store) = .ok as →
      (∀ k ∈ u.tids, (u.grp.thr k).nst < 8) → chunkRoom s' u.grp (u.act.length * shZ w) = true →
      Ends (.tst o) u s fun t => ∃ v,
        t = { s with groups := t.groups, tlb := t.tlb, lastPages := t.lastPages, l1 := t.l1, frames := t.frames
                     ctxs := (takeTokens s u.grp.cxid 2).ctxs, nextId := s.nextId + 1 } ∧
        Acts (.tst o) u s t (fun g => { g with held := chunkNeed s u.grp (u.act.length * shZ w) })
          (fun k th => holds u (shZ w) u.pfx.cp s.nextId (fun k => storeData u s k o.t.toNat (shZ w)) as k (hasRead u v k th)))) ∧
  ∀ (o : TLF) u s w p wr, tileShape u s o wr = .ok (w, p) → (u.rd64 s u.low o.s.toNat).toNat % 64 = 0 ∧
    shapeOk w = true ∧ 1 ≤ shD w ∧ shD w ≤ 5 ∧ shZ w ≤ 16 ∧ o.t.toNat % sizeRegs (shZ w) = 0

/-- R212: prefetches and cache control change caches alone, and frames as their table reads do, and no thread but for passing the unit: CCTL.inv1 leaves no
copy of the lines in the core's L1, CCTL.inva none that the context's own tag or a cached entry of it reaches; once
no store of the thread to the line is on its way, CCTL.wb leaves its slice's line clean and CCTL.wbi leaves none. -/
def Obligations.cacheInstructions : Prop :=
  let does (i : Instr) (P : Issue → State → State → Prop) : Prop := ∀ u s, Issues i u s → EndsAwake i u s fun t =>
    t = { s with groups := t.groups, tlb := t.tlb, frames := t.frames, l1 := t.l1, l2 := t.l2, wbs := t.wbs } ∧ TablesRead s t ∧
    Acts i u s t id (fun _ th => th) ∧ P u s t
  let all (i : Instr) (o : CCF) (P : Issue → State → State → Nat → Spot → Prop) : Prop :=
    does i fun u s t => ∀ k ∈ u.act, ∀ p, lineOf i o u (advance i u s) k = some p → P u s t k p
  let quiet (u : Issue) (s : State) (k : Nat) (p : Spot) : Prop := ∀ r ∈ s.reqs, r.gid = u.gid → r.tid = k → r.kind = .store →
    r.performed = false → r.blk = none → r.b = p.b → r.off / 128 ≠ p.off / 128
  (∀ o : CCF,
    does (.prfL1 o) (fun _ s t => t.wbs = s.wbs) ∧
    does (.prfL2 o) (fun _ s t => t.l1 = s.l1 ∧ t.wbs = s.wbs) ∧
    all (.cctlInv1 o) o (fun u s t _ p => t.l2 = s.l2 ∧ t.wbs = s.wbs ∧ t.l1.Sublist s.l1 ∧
      ∀ c ∈ t.l1, c.core = l1Of s u.core → c.b = p.b → c.line ≠ p.off / 128) ∧
    all (.cctlWb o) o (fun u s t k p => t.l1 = s.l1 ∧ t.l2 = s.l2 ∧ (quiet u s k p →
      ∀ l ∈ (wake t).l2, l.b = p.b → l.line = p.off / 128 → l.tag = p.owner → l.dirty = false)) ∧
    all (.cctlWbi o) o (fun u s t k p => t.l1 = s.l1 ∧ t.l2 = s.l2 ∧ (quiet u s k p →
      ∀ l ∈ (wake t).l2, l.b = p.b → l.line = p.off / 128 → l.tag ≠ p.owner))) ∧
  ∀ (o : RCF) u s, Issues (.cctlInva o) u s → Ends (.cctlInva o) u s fun t =>
    t = { s with groups := t.groups, l1 := t.l1 } ∧ Acts (.cctlInva o) u s t id (fun _ th => th) ∧
    t.l1.Sublist s.l1 ∧ (∀ c ∈ s.l1, c.core ≠ l1Of s u.core → c ∈ t.l1) ∧
    (u.act ≠ [] → ∀ c ∈ t.l1, c.core = l1Of s u.core → c.tag ≠ u.grp.cxid ∧
      ∀ e ∈ s.tlb, e.cxid = u.grp.cxid → e.b = c.b → e.off / 65536 ≠ c.line / 512)

/-- R107, R287, R302 to R306: BTX.START and TCOPY that pass their checks commit and start one operation of their channel,
counted on cnt.bt; with a full channel or counter they wait; a failed check is a precise trap. Without an active lane they
commit. AMTEST tests the bits of each lane's word that its mask has set, as the thread sees the scratchpad; it waits for an
acquire of its threads. -/
def Obligations.transferInstructions : Prop :=
  let starts (i : Instr) (u : Issue) (s : State) (ch : Nat) (ptr : DWord) (rec : Option (List Word)) : Prop :=
    Ends i u s fun t => ∃ n,
      TablesRead s t ∧ t = { afterCommit i u s t (n + 1) with tlb := t.tlb, frames := t.frames, bts := s.bts ++
        [{ id := n, gid := u.gid, cxid := u.grp.cxid, bid := u.grp.bid, core := u.core, ch := ch, tids := u.act, ptr := ptr
           tcopy := rec }] } ∧
      Commits i u s t n [] (fun g => { g with ops := g.ops ++ [⟨n, 0, false, []⟩] }) fun _ th => th
  let commits (i : Instr) (u : Issue) (s : State) : Prop := Ends i u s fun t => ∃ n,
    t = afterCommit i u s t n ∧ Commits i u s t n [] id fun _ th => th
  (∀ (o : BSF) u s, Issues (.btxStart o) u s → let s' := advance (.btxStart o) u s
    let a := u.rd64 s u.low (2 * o.ap.toNat)
    (u.act = [] → commits (.btxStart o) u s) ∧
    (∀ p, u.act ≠ [] → gcheck s' u.grp.cxid a 64 .load = .ok p →
      (channelFull u s' o.ch.toNat = false → starts (.btxStart o) u s o.ch.toNat a none) ∧
      (channelFull u s' o.ch.toNat = true → Parks (.btxStart o) u s (.channel o.ch.toNat))) ∧
    ∀ f, u.act ≠ [] → gcheck s' u.grp.cxid a 64 .load = .error f →
      ∃ ti, exec (.btxStart o) s = .next (raise s u.grp ti) ∧ ti.cause = f.cause ∧ ti.fpc = u.upc) ∧
  (∀ (o : TCF) u s, Issues (.tcopy o) u s → let s' := advance (.tcopy o) u s
    let r := u.rdN s u.low o.v.toNat 8
    let strict := strictRegs (fun t => if t = u.low ∧ btCwv (tcopyRec r) then [o.v.toNat + 6, o.v.toNat + 7] else []) u s'
    (u.act = [] → commits (.tcopy o) u s) ∧
    (u.act ≠ [] → (∀ c ls, strict = some (c, ls) → Takes (.tcopy o) u s c ls) ∧ (strict = none →
      (tcopyFault u s' r (tcopyRec r) = none → channelFull u s' o.ch.toNat = false →
        starts (.tcopy o) u s o.ch.toNat 0 (some (tcopyRec r))) ∧
      (tcopyFault u s' r (tcopyRec r) = none → channelFull u s' o.ch.toNat = true → Parks (.tcopy o) u s (.channel o.ch.toNat)) ∧
      ∀ c, tcopyFault u s' r (tcopyRec r) = some c →
        Takes (.tcopy o) u s c u.act (if c = .illegalOp then 0 else btDst (tcopyRec r))))) ∧
  ∀ (o : AMF) u s, Issues (.amtest o) u s → let s' := advance (.amtest o) u s
    let off (k : Nat) : Nat := (u.rd s k (2 * o.ap.toNat)).toNat
    let words := checkLanes u false u.act (fun k => accPad u s' (off k) 8)
    (∀ ti, words = .error ti → exec (.amtest o) s = .next (raise s u.grp ti)) ∧
    ∀ as, words = .ok as → ((∃ k ∈ u.act, acquiring s' u.gid k = true) → Parks (.amtest o) u s (.acquire u.act)) ∧
      ((∀ k ∈ u.act, acquiring s' u.gid k = false) →
        ∃ (t : State) (kn : Nat → Known), exec (.amtest o) s = .next t ∧ OnlyUnit s t ∧ UnitDone u s t id fun k th => onAct u (fun k th =>
          let word : DWord := match s.blk? u.grp.bid with
            | some b => BitVec.ofNat 64 (leNat (padBytesOf s u k b (off k) 8))
            | none => 0
          (th.setP o.pd (word &&& u.rd64 s k o.m.toNat == u.rd64 s k o.m.toNat)).learn s.nextId (kn k)) k
            (passed (.amtest o) u k th))

/-- R307, R308: AMSG that passes its checks commits and sends one message per active lane, to the core, with the words
and the sender that the lane gives, all counted once on cnt.am, and waits while the counter is full; a failed check is a
precise trap, and without an active lane it commits. AMH gives each active thread the entry to write once earlier messages
have started, after the checks of the count and the address. R313, R314: LAUNCH with a readable record commits, gives every
active lane the status of its checks, and appends a record that passes to the queue; a full queue makes it wait; a
misaligned or failed record is a precise trap. -/
def Obligations.messagesAndLaunch : Prop :=
  let commits (i : Instr) (u : Issue) (s : State) : Prop := Ends i u s fun t => ∃ n,
    t = afterCommit i u s t n ∧ Commits i u s t n [] id fun _ th => th
  ((∀ (o : MSF) u s, Issues (.amsg o) u s → u.act ≠ [] →
      let lanes := checkLanes u false u.act (fun k =>
        amsgCheck u (advance (.amsg o) u s) o.h.toNat o.v.toNat (u.rd s k o.c.toNat).toNat)
      (∀ ti, lanes = .error ti → exec (.amsg o) s = .next (raise s u.grp ti)) ∧
      ∀ as, lanes = .ok as →
        let strict := strictRegs (fun k => (List.range ((assoc k as).map Prod.snd |>.getD 0)).map (o.v.toNat + ·)) u
          (advance (.amsg o) u s)
        (∀ c ls, strict = some (c, ls) → Takes (.amsg o) u s c ls) ∧
        (strict = none → u.grp.cnt 3 ≠ 65535 → Ends (.amsg o) u s fun t => ∃ n ms,
          t = { afterCommit (.amsg o) u s t (n + 1 + ms.length) with msgs := s.msgs ++ ms } ∧
          Commits (.amsg o) u s t n [] (fun g => { g with ops := g.ops ++ [⟨n, 3, false, []⟩] }) (fun _ th => th) ∧
          ms.map (fun m => (m.tid, m.core, m.pay)) = u.act.map (fun k => let w := (u.rd s k o.c.toNat).toNat
            (k, w % 256, u.rdN s k o.v.toNat (w / 2 ^ 16 % 32))) ∧
          ∀ m ∈ ms, m.cxid = u.grp.cxid ∧ m.gid = u.gid ∧ m.gr = u.grp.gr ∧ m.op = n ∧ m.h = o.h.toNat ∧ m.st = .issue ∧
            m.sender = BitVec.ofNat 32 (u.grp.core * 65536 + u.grp.part * 256 + u.grp.g)) ∧
        (strict = none → u.grp.cnt 3 = 65535 → Parks (.amsg o) u s (.counter 3))) ∧
    (∀ (o : MSF) u s, Issues (.amsg o) u s → u.act = [] → commits (.amsg o) u s) ∧
    (∀ (o : AHF) u s, Issues (.amh o) u s → u.act ≠ [] →
      let n := (u.rd s u.low o.c.toNat).toNat
      let a := u.rd64 s u.low o.v.toNat
      let count := n = 0 ∨ (16 ≤ n ∧ n ≤ 96 ∧ n % 8 = 0)
      (count → a.toNat % 4 = 0 → canonical a = true →
        ∃ t, exec (.amh o) s = .next (finish (.amh o) u (amhWake t)) ∧ t = { s with groups := t.groups } ∧
          Acts (.amh o) u s t id (parked u fun _ => .amh o.h.toNat s.nextId n a)) ∧
      (¬count → Takes (.amh o) u s .illegalOp u.act) ∧
      (count → a.toNat % 4 ≠ 0 → Takes (.amh o) u s .misaligned u.act a) ∧
      (count → a.toNat % 4 = 0 → canonical a = false → Takes (.amh o) u s .protection u.act a)) ∧
    ∀ o : AHF, Transforms (.amh o) (fun u _ => u.act = []) fun _ _ _ th => th) ∧
  ∀ (o : LNF) u s, Issues (.launch o) u s →
    let a := u.rd64 s u.low (2 * o.ap.toNat)
    let rec' := readOwn u (advance (.launch o) u s) u.low a 128
    (u.act = [] → commits (.launch o) u s) ∧
    (u.act ≠ [] → a.toNat % 128 ≠ 0 → Takes (.launch o) u s .misaligned u.act a) ∧
    (u.act ≠ [] → a.toNat % 128 = 0 → (∀ f, rec' = .error f →
        ∃ ti, exec (.launch o) s = .next (raise s u.grp ti) ∧ ti.cause = f.cause ∧ ti.fpc = u.upc) ∧
      (rec' = .ok none → Parks (.launch o) u s (.record u.low a 128)) ∧
      ∀ w p c, rec' = .ok (some (w, p)) → s.ctx? u.grp.cxid = some c →
        let st := launchCheck c o.q.toNat w
        (¬(st = 0 ∧ 1024 ≤ (queueOf c o.q.toNat).length) → Ends (.launch o) u s fun t => ∃ n v rel,
          let s' : State := { afterCommit (.launch o) u (takeTokens s u.grp.cxid 4) t (n + u.act.length) with
            tlb := t.tlb, lastPages := t.lastPages, l1 := t.l1, frames := t.frames }
          t = (if st = 0 then s'.updCtx u.grp.cxid (fun x =>
            { x with queues := assocSet o.q.toNat (queueOf x o.q.toNat ++ [.captured w u.gid n u.act rel false]) x.queues })
            else s') ∧
          Commits (.launch o) u s t n [] id (fun k th =>
            (allPending u n fun _ => ([o.d.toNat], [some (BitVec.ofNat 32 st)])) k (hasRead u v k th))) ∧
        (st = 0 → 1024 ≤ (queueOf c o.q.toNat).length → Parks (.launch o) u s (.queue o.q.toNat)))

/-- R264 to R266, R268 to R272: RDEF with a readable record holds it until it completes, with a status on its way to every
active lane; ROP and ROPR wait while an RDEF to their slot is unfinished, and trap as RU_UNDEFINED where the slot holds
nothing, as ILLEGAL_OP where the definition does not fit their registers, and on a failed check of a lane; else they commit
and make one request per active lane with its address and payload, ROP counted on cnt.ru, ROPR with its results on their way.
Without an active lane ROP and ROPR commit. -/
def Obligations.remoteUpdateInstructions : Prop :=
  (∀ (o : RDF) u s, Issues (.rdef o) u s → u.act ≠ [] → let a := u.rd64 s u.low (2 * o.ap.toNat)
    let rec' := readOwn u (advance (.rdef o) u s) u.low a 256
    (a.toNat % 256 ≠ 0 → Takes (.rdef o) u s .misaligned u.act a) ∧
    (a.toNat % 256 = 0 → (∀ f, rec' = .error f →
        ∃ ti, exec (.rdef o) s = .next (raise s u.grp ti) ∧ ti.cause = f.cause ∧ ti.fpc = u.upc) ∧
      (rec' = .ok none → Parks (.rdef o) u s (.record u.low a 256)) ∧
      ∀ w p, rec' = .ok (some (w, p)) → Ends (.rdef o) u s fun t => ∃ v,
        t = { s with
          groups := t.groups, tlb := t.tlb, l1 := t.l1, frames := t.frames, nextId := s.nextId + u.act.length + 1
          ctxs := (takeTokens s u.grp.cxid 8).ctxs
          rdefs := s.rdefs ++
            [{ id := s.nextId + u.act.length, cxid := u.grp.cxid, gid := u.gid, slot := o.slot.toNat, defn := w,
               status := rdefStatus w, dst := u.act.map fun k => (k, s.nextId + u.act.idxOf k) }] } ∧
        Acts (.rdef o) u s t id fun k th => (allPending u s.nextId (awaited o.d.toNat 1)) k (hasRead u v k th))) ∧
  (∀ o : RDF, Transforms (.rdef o) (fun u _ => u.act = []) fun _ _ _ th => th) ∧
  let asks (i : Instr) (o : ROF) (ropr : Bool) : Prop := ∀ u s, Issues i u s →
    (u.act = [] → Ends i u s fun t => ∃ n, t = afterCommit i u s t n ∧ Commits i u s t n [] id fun _ th => th) ∧
    (u.act ≠ [] → slotBusy s u.grp.cxid o.slot.toNat = true → Parks i u s (.slot o.slot.toNat)) ∧
    (u.act ≠ [] → slotBusy s u.grp.cxid o.slot.toNat = false →
      let slot := (s.ctx? u.grp.cxid).bind fun c => assoc o.slot.toNat c.rops
      (slot = none → Takes i u s .ruUndefined u.act) ∧ ∀ d, slot = some d →
        let fits := (ropr = true → ruRet d ≠ 0) ∧
          ∀ j < ruRegs d ropr, regOk u.grp.nregs (o.v.toNat + j) = true ∧ (o.v.toNat < 96 ↔ o.v.toNat + j < 96)
        let strict := strictRegs (fun _ => ((List.range (ruRegs d ropr)).map (o.v.toNat + ·)).take (ruPsize d / 4)) u (advance i u s)
        let lanes := checkLanes u true u.act (fun k => ruLaneCheck u (advance i u s) d (u.rd64 s k (2 * o.ap.toNat)))
        (¬fits → Takes i u s .illegalOp u.act) ∧
        (fits → (∀ c ls, strict = some (c, ls) → Takes i u s c ls) ∧ (strict = none →
          (∀ ti, lanes = .error ti → exec i s = .next (raise s u.grp ti)) ∧
          ∀ as, lanes = .ok as →
            (ropr = true ∨ u.grp.cnt 2 ≠ 65535 → Ends i u s fun t => ∃ n m rs,
              t = { afterCommit i u s t (m + 1 + rs.length) with
                tlb := t.tlb, lastPages := t.lastPages, frames := t.frames, rus := s.rus ++ rs } ∧ TablesRead s t ∧
              m = (if ropr then n + u.act.length else n) ∧
              Commits i u s t n [] (fun g => if ropr then g else { g with ops := g.ops ++ [⟨m, 2, false, []⟩] })
                (if ropr then allPending u n (awaited o.v.toNat (ruDataWords d + 1)) else fun _ th => th) ∧
              rs.map (fun r => (r.tid, r.va, r.pay)) =
                u.act.map (fun k => (k, u.rd64 s k (2 * o.ap.toNat), u.rdN s k o.v.toNat (ruPsize d / 4))) ∧
              ∀ r ∈ rs, r.cxid = u.grp.cxid ∧ r.gid = u.gid ∧ r.slot = o.slot.toNat ∧ r.defn = d ∧ r.ropr = ropr ∧ r.op = m ∧
                (r.ord, r.scope) = u.pfx.ord ∧ r.pend = n + u.act.idxOf r.tid ∧ r.applied = false) ∧
            (ropr = false → u.grp.cnt 2 = 65535 → Parks i u s (.counter 2)))))
  ∀ o : ROF, asks (.rop o) o false ∧ asks (.ropr o) o true

/-! ## Matrix instructions -/

/-- R121, R237, R243, R247, R248, R251: MSTR writes a stream register with its valid bit; ACLR clears a tile and sets its mode,
AWRITE writes words of the rows of the threads without a skip count, and both raise every active thread's ordinal, waiting
only where such a thread has to wait for the tile; where a thread's ordinal would reach 64 they trap as REGION_FULL for those
threads; AREAD gives each active lane words of its row; MBURST opens its window
and starts the ramp. A tile outside the block's count is ILLEGAL_OP. -/
def Obligations.tileInstructions : Prop :=
  let counted (u : Issue) : Nat → Thread → Thread := onAct u fun _ th => { th with ord := th.ord + 1, skip := th.skip - 1 }
  let writes (i : Instr) (acc : Nat) (P : Issue → State → Block → Block → Prop) : Prop := ∀ u s, Issues i u s →
    let full := u.act.filter fun k => decide (63 ≤ (u.grp.thr k).ord)
    (u.accCount s ≤ acc → Takes i u s .illegalOp u.act) ∧
    (acc < u.accCount s → full ≠ [] → Takes i u s .regionFull full) ∧
    (acc < u.accCount s → full = [] → u.writers ≠ [] → tileBusy u s acc = true → Parks i u s (.tile acc)) ∧
    (acc < u.accCount s → full = [] → (u.writers = [] ∨ tileBusy u s acc = false) → Ends i u s fun t =>
      t = { s with groups := t.groups, blocks := t.blocks } ∧ Acts i u s t id (counted u) ∧
      (∀ m, m ≠ u.grp.bid → t.blk? m = s.blk? m) ∧
      ∀ b, s.blk? u.grp.bid = some b → ∃ b', t.blk? u.grp.bid = some b' ∧
        b' = { b with tiles := b'.tiles, modes := b'.modes } ∧ P u s b b')
  (∀ (o : MQF) u s, Issues (.mstr o) u s → u.act ≠ [] →
    let x : BitVec 128 := BitVec.ofNat 128 (leNat (wordsBytes (u.rdN s u.low o.q.toNat 4)))
    let plain := x.extractLsb' 0 2 ≠ 3 ∧ x.extractLsb' 2 21 = 0
    let even := msBase x % 4 = 0 ∧ msKinc x % 4 = 0 ∧ msPitch x % 4 = 0
    (¬plain → Takes (.mstr o) u s .illegalOp u.act) ∧ (plain → ¬even → Takes (.mstr o) u s .misaligned u.act) ∧
    (plain → even →
      Ends (.mstr o) u s fun t => t = { s with groups := t.groups } ∧ Acts (.mstr o) u s t (fun g => if o.stream = 0 then
        { g with ms0 := x ||| (1#128 <<< 23) } else { g with ms1 := x ||| (1#128 <<< 23) }) fun _ th => th)) ∧
  (∀ o : MQF, Transforms (.mstr o) (fun u _ => u.act = []) fun _ _ _ th => th) ∧
  (∀ o : ACF, writes (.aclr o) o.acc.toNat fun u s b b' =>
    ∀ h t row col, if u.writers ≠ [] ∧ h = u.half s ∧ t = o.acc.toNat then
        b'.tile h t row col = 0 ∧ b'.mode h t = o.mode.toNat
      else b'.tile h t row col = b.tile h t row col ∧ b'.mode h t = b.mode h t) ∧
  (∀ o : ARF, writes (.awrite o) o.acc.toNat fun u s b b' =>
    b'.modes = b.modes ∧ ∀ h t row col,
      if h = u.half s ∧ t = o.acc.toNat ∧ u.writers.contains row ∧ o.col.toNat ≤ col ∧ col < o.col.toNat + 2 ^ o.cnt.toNat then
        b'.tile h t row col = u.rd s row (o.v.toNat + (col - o.col.toNat))
      else b'.tile h t row col = b.tile h t row col) ∧
  (∀ (o : ARF) u s, Issues (.aread o) u s → u.accCount s ≤ o.acc.toNat → Takes (.aread o) u s .illegalOp u.act) ∧
  (∀ (o : ARF) u s b, Issues (.aread o) u s → o.acc.toNat < u.accCount s → tileBusy u s o.acc.toNat = false →
    s.blk? u.grp.bid = some b → Ends (.aread o) u s fun t =>
      t = { s with groups := t.groups, nextId := s.nextId + u.act.length } ∧
      Acts (.aread o) u s t id (allPending u s.nextId fun k => ((List.range (2 ^ o.cnt.toNat)).map (o.v.toNat + ·),
        (List.range (2 ^ o.cnt.toNat)).map fun j => some (b.tile (u.half s) o.acc.toNat k (o.col.toNat + j))))) ∧
  (∀ (o : ARF) u s, Issues (.aread o) u s → o.acc.toNat < u.accCount s → tileBusy u s o.acc.toNat = true →
    Ends (.aread o) u s fun t =>
      t = { s with groups := t.groups, nextId := s.nextId + u.act.length } ∧
      Acts (.aread o) u s t id fun k th => onAct u (fun k => awaitTile (s.nextId + u.act.idxOf k)
          ⟨u.grp.bid, u.half s, o.acc.toNat, k, o.col.toNat⟩) k
        ((allPending u s.nextId (awaited o.v.toNat (2 ^ o.cnt.toNat))) k th)) ∧
  ∀ (o : MBF) u s, Issues (.mburst o) u s → Ends (.mburst o) u s fun t =>
    t = { s with groups := t.groups, ramps := t.ramps } ∧ Acts (.mburst o) u s t id (fun _ th => th) ∧
    if o.n = 0 ∨ u.act = [] then t.ramps = s.ramps
    else (t.ramp u.core u.part).window = max (s.ramp u.core u.part).window (s.clk + o.n.toNat) ∧
      (t.ramp u.core u.part).st ∈ [RampSt.rampUp, .hot] ∧
      ∀ c p, c ≠ u.core ∨ p ≠ u.part → t.ramp c p = s.ramp c p

/-- R121, R236, R241, R244 to R246: MMA and MLOOP trap as ILLEGAL_OP for a pairing that the device does not offer, a stream that
is not set, a tile outside the block's count or in another mode, as PROTECTION for a footprint outside the scratchpad, and as
REGION_FULL for the threads whose ordinal would reach 64, in this order. An MMA or MLOOP that passes its checks enters the sequencer's queue with the words of A
that the threads without a skip count hold; MMA parks them, MLOOP is counted on cnt.mx; a full queue or counter makes it wait,
and threads that all skip it are only counted; with reuse the group's latch keeps the A that was captured, else it is
released. -/
def Obligations.matrixInstructions : Prop :=
  let counted (u : Issue) : Nat → Thread → Thread := onAct u fun _ th => { th with ord := th.ord + 1, skip := th.skip - 1 }
  let enters (i : Instr) (o : MXF) (mma : Bool) : Prop := ∀ u s, Issues i u s → let s' := advance i u s
    let keep := o.reuse = 1 ∧ u.writers ≠ []
    let latched (g : Group) : Group := { g with latch := if keep then some { latchKey u.pfx o with tids := u.writers } else none }
    let kept (k : Nat) (th : Thread) : Thread := { counted u k th with
      kept := if keep ∧ u.writers.contains k then aReads u.pfx o else [] }
    let full := mxFull u s' = true ∨ (mma = false ∧ u.grp.cnt 1 = 65535)
    let p := o.pairing.toNat
    let m := u.stream o.stream
    let bad := (p = 15 ∧ s.service ≠ .full) ∨ msValid m = false ∨ u.accCount s ≤ o.acc.toNat ∨
      pairMode p (u.tileMode s o.acc.toNat) = false
    let fits := footprint o m ≤ ((s.blk? u.grp.bid).map Block.size).getD 0
    let spill := u.act.filter fun k => decide (63 ≤ (u.grp.thr k).ord)
    (bad → Takes i u s .illegalOp u.act) ∧
    (¬bad → ¬fits → Takes i u s .protection u.act (BitVec.ofNat 64 (msBase m))) ∧
    (¬bad → fits → spill ≠ [] → Takes i u s .regionFull spill) ∧
    (¬bad → fits → spill = [] → mxCheck u s' o = none) ∧
    (mxCheck u s' o = none → u.writers = [] → Ends i u s fun t =>
      t = { s with groups := t.groups } ∧ Acts i u s t latched kept) ∧
    (mxCheck u s' o = none → u.writers ≠ [] → full → Parks i u s (if mxFull u s' then .sequencer else .counter 1)) ∧
    (mxCheck u s' o = none → u.writers ≠ [] → ¬full →
      Ends i u s fun t => ∃ op : MxOp,
        t = { s with groups := t.groups, ramps := t.ramps, mxs := s.mxs ++ [op], nextId := s.nextId + 1 } ∧
        Acts i u s t (fun g => if mma then latched g else { latched g with ops := g.ops ++ [⟨s.nextId, 1, false, []⟩] })
          (fun k th => if mma ∧ u.writers.contains k then { kept k th with park := some (.mma s.nextId) } else kept k th) ∧
        op.id = s.nextId ∧ op.gid = u.gid ∧ op.core = u.core ∧ op.part = u.part ∧ op.acc = o.acc.toNat ∧
        op.pairing = o.pairing.toNat ∧ op.kg = 2 ^ o.kgc.toNat ∧ op.mma = mma ∧ op.started = false ∧ op.next = 0 ∧
        op.ms = (if o.stream = 0 then u.grp.ms0 else u.grp.ms1) ∧
        op.a = u.writers.map fun k => (k, u.rdN s k o.a.toNat ((pairTypes o.pairing.toNat).1.store / 2 * 2 ^ o.kgc.toNat)))
  ∀ o : MXF, enters (.mma o) o true ∧ enters (.mloop o) o false

/-- R102, R104, R121, R237, R249, R250: AST stores the active lanes' rows, converted by the format, at their scratchpad offsets in
lane order; ALD reads the rows of the threads without a skip count from there, the bytes that a store of the thread itself
holds from the newest such store. A failed check is a precise trap, an ordinal of ALD that would reach 64 being REGION_FULL, and what has to come first makes
them wait. -/
def Obligations.tileRowsToScratchpad : Prop :=
  (∀ (o : ASF) u s, Issues (.ast o) u s → let s' := advance (.ast o) u s
    (∀ ti, astCheck u s' o true = .error ti → exec (.ast o) s = .next (raise s u.grp ti)) ∧
    ∀ as b, astCheck u s' o true = .ok as → s.blk? u.grp.bid = some b →
      (tileBusy u s o.acc.toNat = true ∨ padWaits u s' true = true →
        Parks (.ast o) u s (if tileBusy u s o.acc.toNat then .tile o.acc.toNat else .pad true u.act)) ∧
      (tileBusy u s o.acc.toNat = false → padWaits u s' true = false → EndsAwake (.ast o) u s fun t =>
        t = { s with groups := t.groups, hist := t.hist, nextId := t.nextId, blocks := t.blocks } ∧
        (∀ m, m ≠ u.grp.bid → t.blk? m = s.blk? m) ∧
        ∃ b', t.blk? u.grp.bid = some b' ∧ b' = { b with pad := b'.pad, sus := b'.sus } ∧
        b'.pad = u.act.foldl (fun m k => Memory.putN m (u.rd s k o.o.toNat).toNat ((List.range 64).flatMap fun j =>
          leBytes (astBytes o.fmt) (astOut o.fmt (u.pfx.sat == 1) (b.tile (u.half s) o.acc.toNat k j)))) b.pad ∧
        Acts (.ast o) u s t id fun _ th => th)) ∧
  ∀ (o : ASF) u s, Issues (.ald o) u s → let s' := advance (.ald o) u s
    let n := astBytes o.fmt
    (∀ ti, astCheck u s' o false = .error ti → exec (.ald o) s = .next (raise s u.grp ti)) ∧
    let spill := u.act.filter fun k => decide (63 ≤ (u.grp.thr k).ord)
    (∀ as, astCheck u s' o false = .ok as → spill ≠ [] → (u.writers = [] ∨ padWaits u s' false = false) →
      Takes (.ald o) u s .regionFull spill) ∧
    ∀ as b, astCheck u s' o false = .ok as → s.blk? u.grp.bid = some b → spill = [] →
      (u.writers ≠ [] → padWaits u s' false = true ∨ tileBusy u s o.acc.toNat = true →
        Parks (.ald o) u s (if padWaits u s' false then .pad false u.act else .tile o.acc.toNat)) ∧
      (u.writers = [] ∨ (padWaits u s' false = false ∧ tileBusy u s o.acc.toNat = false) →
        Ends (.ald o) u s fun t => ∃ v : Nat → View, t = { s with groups := t.groups, blocks := t.blocks } ∧
          Acts (.ald o) u s t id (onAct u fun k th => { th with
            ord := th.ord + 1, skip := th.skip - 1, view := if u.writers.contains k then v k else th.view }) ∧
          ∃ b', t.blk? u.grp.bid = some b' ∧ b' = { b with tiles := b'.tiles } ∧
          ∀ h k row col, if h = u.half s ∧ k = o.acc.toNat ∧ u.writers.contains row ∧ col < 64 then
              let own (a : Nat) : Byte := match (u.grp.thr row).stores.reverse.find? fun x =>
                  !x.glob && x.blk == b.bid && decide (x.off ≤ a ∧ a < x.off + x.size) with
                | some x => BitVec.ofNat 8 (x.data.toNat / 2 ^ (8 * (a - x.off)))
                | none => Memory.get b.pad a
              b'.tile h k row col = aldIn o.fmt (leNat ((List.range n).map fun i =>
                own ((u.rd s row o.o.toNat).toNat + col * n + i)))
            else b'.tile h k row col = b.tile h k row col)

/-! ## Privileged instructions, prefixing words and the checks of a unit -/

/-- R340, R341: CSRR gives every active lane the register's word; CSRW commits and writes the lowest active lane's word,
where read-only registers and reserved bits keep their values, and without an active lane only commits; a number outside
Table 16-4 traps as ILLEGAL_OP, a misaligned TVEC or RULOG_BASE as MISALIGNED. -/
def Obligations.controlRegisterAccess : Prop :=
  let known (u : Issue) (s : State) (n : Nat) : Option Word := (s.ctx? u.grp.cxid).bind fun c => csrRead s u.grp c n
  let bad (i : Instr) (u : Issue) (s : State) (c : Cause) : Prop :=
    exec i s = .next (raise s u.grp { cause := c, lanes := u.act, fpc := u.upc, cxid := u.grp.cxid })
  (∀ (o : CRF) u s, Issues (.csrr o) u s →
    (∀ x, known u s o.csr.toNat = some x → ∃ t, exec (.csrr o) s = .next t ∧
      LaneResults (.csrr o) u u.act (fun _ => [(o.r.toNat, x)]) s t) ∧
    (known u s o.csr.toNat = none → bad (.csrr o) u s .illegalOp)) ∧
  (∀ (o : CWF) u s, Issues (.csrw o) u s → let x := u.rd s u.low o.r.toNat
    let odd := (o.csr.toNat = 4 ∧ x.toNat % 4 ≠ 0) ∨ (o.csr.toNat = 6 ∧ x.toNat % 4096 ≠ 0)
    (known u s o.csr.toNat = none → bad (.csrw o) u s .illegalOp) ∧
    (known u s o.csr.toNat ≠ none → u.act ≠ [] → odd → bad (.csrw o) u s .misaligned) ∧
    (known u s o.csr.toNat ≠ none → u.act = [] → Ends (.csrw o) u s fun t => ∃ n,
      t = afterCommit (.csrw o) u s t n ∧ Commits (.csrw o) u s t n [] id fun _ th => th) ∧
    (known u s o.csr.toNat ≠ none → u.act ≠ [] → ¬odd → Ends (.csrw o) u s fun t => ∃ n,
      t = { afterCommit (.csrw o) u s t n with ctxs := t.ctxs, recs := t.recs } ∧
      Commits (.csrw o) u s t n [] id (fun _ th => th) ∧
      t.ctxs = ((s.leave u.grp.cxid (freedWords (.csrw o) u)).ctxs.map fun c =>
        if c.cxid ≠ u.grp.cxid then c else match o.csr.toNat with
          | 2 => { c with sdbg := x.getLsbD 31, fper := x.toNat % 256 }
          | 4 => { c with tvec := c.tvec.extractLsb' 32 32 ++ x }
          | 5 => { c with tvec := x ++ c.tvec.extractLsb' 0 32 }
          | 6 => { c with rulogBase := c.rulogBase.extractLsb' 32 32 ++ x }
          | 7 => { c with rulogBase := x ++ c.rulogBase.extractLsb' 0 32 }
          | _ => c) ∧
        match boundRec s u.grp with
        | none => t.recs = s.recs
        | some b => t.recs = s.recs.map fun r => if r.dest = b.dest ∧ r.seq = b.seq then (match o.csr.toNat with
          | 0x33 => { r with pc := r.pc.extractLsb' 32 32 ++ x }
          | 0x34 => { r with pc := x ++ r.pc.extractLsb' 0 32 }
          | 0x35 => { r with act := x &&& 1 }
          | _ => r) else r))

/-- R117, R342 to R344, R346 to R353: a context instruction reads its record, commits, and sends its operation to the context
engine with what it captured, a status word awaited by every active lane; the engine performs the operation at once where
nothing that it has to wait for is on its way. A misaligned or failed record is a precise trap, and without an active lane
the instruction only commits. -/
def Obligations.contextInstructions : Prop :=
  let sends (i : Instr) (u : Issue) (s : State) (d : BitVec 7) (kind : CtxKind) (child : Nat) (w : List Word) (va : DWord)
      (tokens : Nat) (seen : View → Nat → Thread → Thread) : Prop :=
    Ends i u s fun t => ∃ n s0 v,
      let r : CtxReq := { id := n, gid := u.gid, tids := u.act, cxid := u.grp.cxid, core := u.core, kind := kind
                          child := child, w := w, va := va, fpc := u.upc }
      s0 = { afterCommit i u (takeTokens s u.grp.cxid tokens) s0 (n + u.act.length) with
        tlb := s0.tlb, l1 := s0.l1, frames := s0.frames, ctxops := s.ctxops ++ [r] } ∧
      Commits i u s s0 n [] id (fun k th => allPending u n (awaited d.toNat 1) false true k (seen v k th)) ∧
      t = if ctxReady s0 r = true then runCtx s0 r else s0
  let idle (i : Instr) : Prop := ∀ u s, Issues i u s → u.act = [] → Ends i u s fun t => ∃ n,
    t = afterCommit i u s t n ∧ Commits i u s t n [] id fun _ th => th
  let record (i : Instr) (ap : BitVec 6) (d : BitVec 7) (size : Nat) (kind : CtxKind) (child : Issue → State → Nat) : Prop :=
    idle i ∧ ∀ u s, Issues i u s → u.act ≠ [] → let a := u.rd64 s u.low (2 * ap.toNat)
      let rec' := readOwn u (advance i u s) u.low a size
      (a.toNat % size ≠ 0 → Takes i u s .misaligned u.act a) ∧
      (a.toNat % size = 0 → (∀ w p, rec' = .ok (some (w, p)) → sends i u s d kind (child u s) w 0 (size / 32) (hasRead u)) ∧
        (rec' = .ok none → Parks i u s (.record u.low a size)) ∧
        ∀ f, rec' = .error f → ∃ ti, exec i s = .next (raise s u.grp ti) ∧ ti.cause = f.cause ∧ ti.fpc = u.upc)
  let child (b : BitVec 7) (u : Issue) (s : State) : Nat := (u.rd s u.low b.toNat).toNat
  (∀ o : CNF, record (.ctxNew o) o.ap o.d 128 .new fun _ _ => 0) ∧
  (∀ o : CBF,
    record (.ctxRun o) o.ap o.d 64 .run (child o.b) ∧ record (.ctxGrant o) o.ap o.d 64 .grant (child o.b) ∧
    record (.ctxRevoke o) o.ap o.d 64 .revoke (child o.b) ∧
    idle (.ctxStop o) ∧ (∀ u s, Issues (.ctxStop o) u s → u.act ≠ [] → sends (.ctxStop o) u s o.d .stop (child o.b u s)
      (u.rdN s u.low (2 * o.ap.toNat) 2) 0 0 fun _ _ th => th) ∧
    idle (.ctxStat o) ∧ ∀ u s, Issues (.ctxStat o) u s → u.act ≠ [] → let a := u.rd64 s u.low (2 * o.ap.toNat)
      let place := gcheck (advance (.ctxStat o) u s) u.grp.cxid a 128 .store
      (∀ p, place = .ok p → sends (.ctxStat o) u s o.d .stat (child o.b u s) [] a 0 fun _ _ th => th) ∧
      ∀ f, place = .error f → ∃ ti, exec (.ctxStat o) s = .next (raise s u.grp ti) ∧ ti.cause = f.cause ∧ ti.fpc = u.upc) ∧
  ∀ o : CKF, idle (.ctxKill o) ∧ ∀ u s, Issues (.ctxKill o) u s → u.act ≠ [] →
    sends (.ctxKill o) u s o.d .kill (child o.b u s) [] 0 0 fun _ _ th => th

/-- R342, R344, R346 to R352: a context operation with any code but DONE changes nothing; a child that an operation names
has the issuer as its parent; CTX.NEW makes one context, a child of the issuer one level below it, within its budgets. The
engine performs at its turn an operation that may be performed, in one step, on what it captured alone; the operation then is
no longer at the engine. -/
def Obligations.contextEngineChecks : Prop := ∀ (s : State) (i : Ctx) (vb k d : Nat) (r : List Word),
  (∀ a ∈ [ctxNew s i r, ctxRun s i vb r, ctxStop s i vb k d, ctxGrant s i vb r, ctxRevoke s i vb r, ctxKill s i vb,
      ctxStat s i vb], a.code ≠ 0 → a.st = s) ∧
  (∀ a ∈ [ctxRun s i vb r, ctxStop s i vb k d, ctxGrant s i vb r, ctxRevoke s i vb r, ctxKill s i vb, ctxStat s i vb],
    a.code = 0 → vb < 65536 ∧ ∃ x, s.ctx? vb = some x ∧ x.parent = i.cxid ∧ x.level ≠ 0) ∧
  ((ctxNew s i r).code = 0 → ∃ x, (ctxNew s i r).st.ctxs = s.ctxs ++ [x] ∧ x.cxid = (ctxNew s i r).value ∧
    s.ctx? x.cxid = none ∧ 0 < x.cxid ∧ x.cxid < 65536 ∧ x.parent = i.cxid ∧ x.level = i.level + 1 ∧ i.level ≠ 7 ∧
    x.state = .created ∧ x.cores &&& ~~~i.cores = 0 ∧ x.wmask &&& ~~~i.wmask = 0 ∧ fcommit s i.cxid + x.fbud ≤ i.fbud ∧
    x.tburst ≤ i.tburst) ∧
  ∀ r ∈ s.ctxops, (s.ctxops.find? fun x => x.id == r.id) = some r → ctxReady s r = true →
    runTurn (.context r.id) s = .next (runCtx s r) ∧
    let s1 : State := { s with ctxops := s.ctxops.filter fun x => x.id != r.id }
    ∀ x, s.ctx? r.cxid = some x →
      let a := match r.kind with
        | .new => ctxNew s1 x r.w
        | .run => ctxRun s1 x r.child r.w
        | .stop => ctxStop s1 x r.child (wAt r.w 0) (wAt r.w 1)
        | .grant => ctxGrant s1 x r.child r.w
        | .revoke => ctxRevoke s1 x r.child r.w
        | .kill => ctxKill s1 x r.child
        | .stat => ctxStat s1 x r.child
      a.image = [] → runCtx s r = wake (a.st.updGrp r.gid fun g => g.updThrs r.tids fun th =>
        (th.status r (BitVec.ofNat 32 (a.value * 65536 + a.detail * 256 + a.code))).learn r.id a.st.allWrites)

/-- R117, R356, R357, R365, R366: TRAPRET without a bound record is ILLEGAL_OP; with one it commits and, unless the address it
is to resume at is misaligned or not canonical, returns from its trap, releases the binding and exits, at once or once what
its threads have committed is performed; TLBINV commits and parks until its invalidation is complete; FRMSTAT has the state
of each lane's frame on its way, or traps as PROTECTION for the lanes whose address is not canonical. -/
def Obligations.supervisorInstructions : Prop :=
  (∀ (o : RCF) u s, Issues (.trapret o) u s → let s' := advance (.trapret o) u s
    let at' (c : Cause) (f : DWord) : TrapInfo := { cause := c, lanes := u.act, fpc := u.upc, faddr := f, cxid := u.grp.cxid }
    (boundRec s' u.grp = none → exec (.trapret o) s = .next (raise s u.grp (at' .illegalOp 0))) ∧
    ∀ r, boundRec s' u.grp = some r →
      let wants := r.act ≠ 1 ∧ needsPc s' r = true
      (wants → r.pc.toNat % 4 ≠ 0 → exec (.trapret o) s = .next (raise s u.grp (at' .misaligned r.pc))) ∧
      (wants → r.pc.toNat % 4 = 0 → canonical r.pc = false →
        exec (.trapret o) s = .next (raise s u.grp (at' .protection r.pc))) ∧
      (¬wants ∨ (r.pc.toNat % 4 = 0 ∧ canonical r.pc = true) → Ends (.trapret o) u s fun t => ∃ n s0,
        s0 = afterCommit (.trapret o) u s s0 n ∧ Commits (.trapret o) u s s0 n [] id (fun _ th => th) ∧
        ((∀ k ∈ u.act, uncovered s0 u.gid k n = false) →
          t = exitEffect (unbind (trapReturn s0 r (r.act == 1) r.pc) u.grp.cxid r.seq) u.gid u.act) ∧
        ((∃ k ∈ u.act, uncovered s0 u.gid k n = true) →
          t = s0.updGrp u.gid fun g => g.updThrs u.act fun th => { th with park := some (.trapret (r.act == 1) r.pc) }))) ∧
  (let inv (i : Instr) (o : TIF) (kind : Nat) (ok : Issue → State → DWord → Prop) : Prop := ∀ u s, Issues i u s →
      let x := u.rd64 s u.low (2 * o.ap.toNat)
      (u.act = [] ∨ ok u s x → Ends i u s fun t => ∃ n, t = afterCommit i u s t n ∧
        Commits i u s t n [] id (parked u fun _ => .tlbinv kind x n)) ∧
      (u.act ≠ [] → ¬ok u s x → ∃ ti, exec i s = .next (raise s u.grp ti) ∧ ti.lanes = u.act ∧
        ti.cause = if kind ≠ 0 ∧ 65536 ≤ x.toNat then .illegalOp else .protection)
    ∀ o : TIF, inv (.tlbinvPage o) o 0 (fun _ _ x => canonical x = true) ∧
      inv (.tlbinvCtx o) o 1 (fun u s x => x.toNat < 65536 ∧ ∃ c ∈ subtree s u.grp.cxid, c.cxid = x.toNat) ∧
      inv (.tlbinvSubtree o) o 2 (fun u s x => x.toNat < 65536 ∧ ∃ c ∈ subtree s u.grp.cxid, c.cxid = x.toNat)) ∧
  ∀ (o : CNF) u s, Issues (.frmstat o) u s →
    let va (k : Nat) : DWord := u.rd64 s k (2 * o.ap.toNat)
    let far := u.act.filter fun k => !canonical (va k)
    (far = [] → Ends (.frmstat o) u s fun t => t = { s with groups := t.groups, nextId := s.nextId + u.act.length } ∧
      Acts (.frmstat o) u s t id (allPending u s.nextId fun k =>
        ([o.d.toNat], [some (frmWord (advance (.frmstat o) u s) u.grp.cxid (va k))]))) ∧
    ∀ k r, far = k :: r → Takes (.frmstat o) u s .protection (k :: r) (va k)

/-- R148 to R153, R155: a prefixing word is recorded in the run, IMM as 25 bits, and traps as ILLEGAL_PREFIX at its own
address where the unit has one of its kind already, GUARD also within a GUARD range, and any prefixing word where bits [24:23]
are not 00; a word that names no instruction traps as ILLEGAL_OP at the start of its unit. Neither changes anything else. -/
def Obligations.pfxWords : Prop :=
  let records (i : Instr) (twice : Issue → Prop) (put : Pfx → Pfx) : Prop := ∀ u s, s.issue? = some u →
    (¬twice u → exec i s = .next { s with runs := s.runs.map fun r =>
      if r.core = u.core ∧ r.part = u.part then { r with pfx := put r.pfx, off := r.off + 1 } else r }) ∧
    (twice u → exec i s = .next (raise s u.grp
      { cause := .illegalPfx, lanes := u.tids, fpc := u.ipc, cxid := u.grp.cxid }))
  (∀ o : GDF, records (.guard o) (fun u => u.pfx.guard ≠ none ∨ ∃ k ∈ u.tids, (u.grp.thr k).guard ≠ none)
    fun p => { p with guard := some o }) ∧
  (∀ o : BLF, records (.block o) (fun u => u.pfx.block ≠ none) fun p => { p with block := some o }) ∧
  (∀ o : MDF, records (.mod o) (fun u => u.pfx.mod ≠ none) fun p => { p with mod := some o }) ∧
  (∀ o : MSC, records (.mxsc o) (fun u => u.pfx.mxsc ≠ none) fun p => { p with mxsc := some o }) ∧
  (∀ o : IMF, records (.imm o) (fun u => u.pfx.imm ≠ none) fun p => { p with imm := some (o.h ++ o.i) }) ∧
  (∀ (w : Word) u s, 0x78 ≤ (w.extractLsb' 25 7).toNat → w.extractLsb' 23 2 ≠ 0 → s.issue? = some u →
    decode w = .illegalWord w ∧ exec (.illegalWord w) s = .next (raise s u.grp
      { cause := .illegalPfx, lanes := u.tids, fpc := u.ipc, cxid := u.grp.cxid })) ∧
  ∀ w u s, isPfxWord w = false → identify w = none → s.issue? = some u → exec (.illegalWord w) s = .next (raise s u.grp
    { cause := .illegalOp, lanes := u.tids, fpc := u.upc, cxid := u.grp.cxid })

/-- R155, R336: every instruction of a unit answers its first failed check by taking its trap: a prefixing word that it
cannot have, then its privilege, then its encoding, then the strict-debug checks. A privileged instruction of a group in
user mode traps as PRIVILEGED. A word of an instruction with a reserved value fails its encoding check after the two before. -/
def Obligations.unitChecksInOrder : Prop :=
  (∀ i : Instr, i.isWord = true → i.major < 0x78 → ∀ u s ti, s.issue? = some u → illegal i u s = some ti →
    exec i s = .next (raise s u.grp ti)) ∧
  (∀ w i u s, isPfxWord w = false → identify w = some i → s.issue? = some u →
    let ans (c : Cause) (pc : DWord) : Prop := exec (.illegalWord w) s = .next (raise s u.grp
      { cause := c, lanes := u.tids, fpc := pc, cxid := u.grp.cxid })
    let priv : Prop := 0x70 ≤ i.major ∧ i.major ≤ 0x75 ∧ u.grp.isSup = false
    (refused i u = true → ans .illegalPfx u.ipc) ∧ (refused i u = false → priv → ans .privileged u.upc) ∧
    (refused i u = false → ¬priv → ans .illegalOp u.upc)) ∧
  ∀ (i : Instr) (u : Issue) (s : State),
    let at' (c : Cause) (pc : DWord) : Option TrapInfo := some { cause := c, lanes := u.tids, fpc := pc, cxid := u.grp.cxid }
    (refused i u = true → illegal i u s = at' .illegalPfx u.ipc) ∧
    (refused i u = false → 0x70 ≤ i.major → i.major ≤ 0x75 → u.grp.isSup = false →
      illegal i u s = at' .privileged u.upc) ∧
    (refused i u = false → (i.major < 0x70 ∨ 0x75 < i.major ∨ u.grp.isSup = true) → encodingBad i u = true →
      illegal i u s = at' .illegalOp u.upc) ∧
    (∀ ti, illegal i u s = some ti → ti.cause ∈ [Cause.illegalPfx, .privileged, .illegalOp, .unsettledRead, .deadRead] ∧
      (ti.cause ∈ [Cause.unsettledRead, .deadRead] → (s.run?.map Run.sdbg) = some true)) ∧
    (u.grp.isHandler = true → i.notInHandler = true → illegal i u s ≠ none)

/-! ## Taking traps, and the ends of units -/

/-- R85, R123, R127, R376, R379 to R381, R384: taking a precise trap queues one record for delivery, which names the trap's
cause, its context, the group, the faulting PC and address, the region entry PC and the lane mask; it ends the group's run. A
page fault holds the whole group, and any other cause stops the threads of the lane mask; no register and no store that a
thread holds is lost. A fatal cause, REGION_FULL or UNCORRECTABLE, marks its grid as ending with that cause, the first one
standing, and ends the threads of a message handler; what they hold is not sent to memory. -/
def Obligations.preciseTrapEntry : Prop := ∀ (s : State) (g : Group) (ti : TrapInfo), s.grp? g.gid = some g →
  (∃ x ∈ s.groups, x.gid = g.gid) → let t := raise s g ti
  let fatal : Bool := decide (ti.cause = .regionFull ∨ ti.cause = .uncorrectable)
  (∃ tr, t.traps = s.traps ++ [tr] ∧ tr.id = s.nextId ∧ tr.cause = ti.cause ∧ tr.cxid = ti.cxid ∧ tr.fpc = ti.fpc ∧
    tr.faddr = ti.faddr ∧ tr.lmask = tmask ti.lanes ∧ tr.rpc = (g.thr (ti.lanes.headD 0)).rpc ∧ tr.instar = g.instar ∧
    tr.async = false ∧ tr.fatal = fatal ∧ tr.cocoon = decide (ti.cause = .pageFault) ∧ tr.gid = g.gid ∧ tr.core = g.core ∧
    tr.part = g.part ∧ tr.grp = g.g ∧ tr.wr = ti.wr ∧ tr.fetch = ti.fetch ∧ tr.walk = ti.walk) ∧
  (g.isHandler = false ∨ fatal = false →
    t = { s with groups := t.groups, runs := s.runs.filter (fun r => r.gid != g.gid), nextId := s.nextId + 1
                 free := s.free + 1, traps := t.traps, frames := (s.walked ti.reads).frames
                 grids := if fatal then s.grids.map fun x =>
                     if x.gr = g.gr then { x with ending := some (x.ending.getD ti.cause.code) } else x
                   else s.grids } ∧
    (∀ n, n ≠ g.gid → t.grp? n = s.grp? n) ∧
    ∃ g', t.grp? g.gid = some g' ∧ if ti.cause = .pageFault then
        g' = { g with hold := g'.hold } ∧ ∃ tr, g'.hold = some ⟨.pageFault tr, false⟩ ∧ t.traps = s.traps ++ [tr]
      else g' = g.updThrs ti.lanes fun th => { th with stopped := true }) ∧
  ∀ n, g.kind = .handler n → fatal = true →
    t = { s with groups := t.groups, runs := s.runs.filter (fun r => r.gid != g.gid), nextId := s.nextId + 1
                 free := s.free + 1, traps := t.traps, frames := (s.walked ti.reads).frames, ctxs := t.ctxs
                 grids := s.grids.map fun x => if x.gr = ((s.msgs.find? fun m => m.id == n).map Msg.gr).getD 0 then
                   { x with ending := some (x.ending.getD ti.cause.code) } else x } ∧
    (∀ n, n ≠ g.gid → t.grp? n = s.grp? n) ∧
    ∃ g', t.grp? g.gid = some g' ∧ ∀ k, k < g.threads.length → (g'.thr k).exited = true

/-- R123, R124, R128, R149, R356: returning from a precise trap whose threads are still stopped resumes those of its lane mask at
the resume address, in a new region there, with the stores that they held sent to memory in order, and the guard state kept only
at the faulting PC, for a re-entry of the region too. A thread whose region an event has discarded since the trap continues from
its region entry instead, with nothing committed and its ordinal as its skip count; log entry 67 says so of the two rules
that meet here. No other thread changes. -/
def Obligations.returnFromPreciseTrap : Prop := ∀ (s : State) (r : TrapRec) (g : Group) (pc : DWord),
  s.grp? r.trap.gid = some g → (∃ x ∈ s.groups, x.gid = g.gid) → g.gid = r.trap.gid → r.trap.fatal = false →
  r.trap.async = false → r.trap.cocoon = false → r.trap.cause ≠ .reentryLimit → let t := trapReturn s r false pc
  let back (k : Nat) : Bool := decide (k < g.width) && r.trap.lmask.getLsbD k && (g.thr k).stopped
  let on : List Nat := (List.range g.width).filter fun k => back k && !(g.thr k).redo
  (∃ ws, t = { s with groups := t.groups, reqs := t.reqs, nextId := t.nextId, ticket := t.ticket
                      ctxs := (s.leave g.cxid ws).ctxs }) ∧
  (∃ rs, t.reqs = s.reqs ++ rs ∧ (∀ r ∈ rs, r.gid = g.gid ∧ r.kind = .store ∧ r.performed = false) ∧
    rs.map Req.key = on.flatMap fun k => (g.thr k).stores.flatMap fun b => (pieces b.size).map fun p =>
      (k, b.va + BitVec.ofNat 64 p.1, p.2, BitVec.ofNat 64 (b.data.toNat >>> (8 * p.1)))) ∧
  (∀ n, n ≠ g.gid → t.grp? n = s.grp? n) ∧
  ∃ g', t.grp? g.gid = some g' ∧ g' = { g with threads := g'.threads, remask := g'.remask, instar := g'.instar } ∧
    g'.threads.length = g.threads.length ∧ ∀ k, k < g.threads.length → if back k then
      if (g.thr k).redo then
        g'.thr k = { g.thr k with
          pc := (g.thr k).rpc, skip := (g.thr k).ord, ord := 0, redo := false, stopped := false, waited := 0, starved := none
          settle := none, guard := (g.thr k).rguard, view := (g'.thr k).view }
      else
        (g'.thr k).pc = pc ∧ (g'.thr k).rpc = pc ∧ (g'.thr k).stopped = false ∧ (g'.thr k).stores = [] ∧
        (g'.thr k).park = none ∧ (g'.thr k).pend = (g.thr k).pend ∧ (g'.thr k).p = (g.thr k).p ∧
        (g'.thr k).lr = (g.thr k).lr ∧ (g'.thr k).guard = (if pc = r.trap.fpc then (g.thr k).guard else none) ∧
        (g'.thr k).rguard = (g'.thr k).guard ∧ (g'.thr k).ord = 0 ∧ (g'.thr k).skip = 0
    else g'.thr k = g.thr k

/-- R36, R42, R117, R241: the end of a unit: a closing unit's threads number their results from here on in the new region, run
control 2 has the active threads settle, run control 3 has the group yield, a matrix instruction takes the partition's latch
from the other groups; the run ends after a control transfer, a run control, 24 words or a debugger's step, and goes on
with the next word otherwise if all its threads are ready. -/
def Obligations.endOfUnit : Prop := ∀ (i : Instr) (u : Issue) (s : State) (g : Group),
  (s.groups.find? fun x => x.gid == u.gid) = some g → (∀ k ∈ u.act, k ∈ u.tids) → let t := finish i u s
  t = { s with groups := t.groups, runs := t.runs, free := s.free + 1 } ∧
  (i.matrix = false → ∀ n, n ≠ u.gid → t.grp? n = s.grp? n) ∧
  (i.matrix = true → ∀ x ∈ s.groups, x.gid ≠ u.gid →
    (if x.core = u.core ∧ x.part = u.part then { x with latch := none } else x) ∈ t.groups) ∧
  (∀ r ∈ s.runs, r.core ≠ u.core ∨ r.part ≠ u.part → r ∈ t.runs) ∧
  (∀ r, s.run? = some r → r.core = u.core → r.part = u.part →
    (i.rc ≠ 0 ∨ i.transfer = true ∨ i.endsRun = true ∨ r.single = true ∨ 24 ≤ r.words + r.off + 1 →
      ∀ x ∈ t.runs, x.core ≠ u.core ∨ x.part ≠ u.part)) ∧
  ∃ g', t.grp? u.gid = some g' ∧
    (∀ r ∈ s.runs, s.run? = some r → r.core = u.core → r.part = u.part → i.rc = 0 → i.transfer = false → i.endsRun = false →
      r.single = false → r.words + r.off + 1 < 24 → (∀ k ∈ u.tids, g'.ready k = true) →
      { r with pfx := {}, off := 0, words := r.words + r.off + 1 } ∈ t.runs) ∧ g' = { g with threads := g'.threads, yielded := g'.yielded } ∧
    (g'.yielded = true ↔ g.yielded = true ∨ i.rc = 3) ∧ g'.threads.length = g.threads.length ∧
    ∀ k, k < g.threads.length →
      (k ∉ u.tids → g'.thr k = g.thr k) ∧
      (k ∈ u.tids → g'.thr k = { g.thr k with
          rid := if i.closing then s.nextId else (g.thr k).rid, settle := (g'.thr k).settle, stopped := (g'.thr k).stopped
          unsettled := (g'.thr k).unsettled, waited := 0, starved := none }) ∧
      (i.rc = 2 → k ∈ u.act → (g.thr k).exited = false → (g'.thr k).settle =
        if (g.thr k).pend.any fun p => p.id < s.nextId then some s.nextId else none)

/-! ## Events of the device -/

/-- R34 to R38, R42, R43, R122: an idle partition, whose parked instructions are ready again once what they wait for has
come, starts a run of one path of a group with ready threads that may issue: of the first starved path, else of the older
block, else of the lower group, at the lowest program counter. A run that has used its 32 clk ends before a unit that has not
issued, and no other run does; a path that was ready for the fairness period in force for its group is starved; a landing
writes the words of its registers and no other register, a detected error restarts the open regions of the group instead, and a
failed reply traps at the unit that asked. -/
def Obligations.runsAndLandings : Prop :=
  (∀ (core part : Nat) (s : State), (∀ r ∈ s.runs, ¬(r.core = core ∧ r.part = part)) →
    (∃ g ∈ issuers s core part, (g.retry s).mayIssue s ≠ []) → ∃ t r g0 g p, exec (.issueArbitration core part) s = .next t ∧
      g0 ∈ issuers s core part ∧ g = g0.retry s ∧ t = { s with groups := t.groups, runs := s.runs ++ [r] } ∧
      t.groups = (s.groups.map fun x =>
        let y : Group := if (issuers s core part).any fun y => y.gid == x.gid then { x.retry s with yielded := false } else x
        if y.gid == g.gid then { y with fper := fairPeriod s y.cxid } else y) ∧
      r = { core := core, part := part, gid := g.gid, tids := r.tids, start := s.clk, sdbg := r.sdbg } ∧
      (∀ c, s.ctx? g.cxid = some c → r.sdbg = c.sdbg) ∧ r.tids ≠ [] ∧
      (∀ k ∈ g.mayIssue s, g.ready k = true) ∧
      (∀ k, k ∈ r.tids ↔ k ∈ g.mayIssue s ∧ (g.thr k).pc = p) ∧
      ((∀ k ∈ g.mayIssue s, (g.thr k).starved = none) → ∀ k ∈ g.mayIssue s, p.toNat ≤ (g.thr k).pc.toNat) ∧
      (∀ k ∈ g.mayIssue s, ∀ v, (g.thr k).starved = some v →
        ∃ j ∈ r.tids, ∃ w, (g.thr j).starved = some w ∧ w ≤ v) ∧
      ∀ h ∈ issuers s core part, (h.retry s).mayIssue s ≠ [] → (h.yielded = false ∨ g.yielded = true) →
        issueBefore s g (h.retry s) = true) ∧
  (∀ (s : State) (g : Group) (k : Nat), k < g.threads.length → (g.retry s).thr k =
    match (g.thr k).park with
    | some (.resource w) => if waitOver s g w then { g.thr k with park := none, waited := 0, starved := none } else g.thr k
    | _ => g.thr k) ∧
  (∀ (core part : Nat) (s : State),
    ((∃ r ∈ s.runs, r.core = core ∧ r.part = part ∧ r.single = false ∧ r.start + 32 ≤ s.clk) → exec (.runTimeLimit core part) s =
      .next { s with runs := s.runs.filter fun x => !(x.core == core && x.part == part) }) ∧
    ((∀ r ∈ s.runs, r.core = core → r.part = part → r.single = true ∨ s.clk < r.start + 32) →
      exec (.runTimeLimit core part) s = .next s)) ∧
  (∀ (s : State) (cx : Nat) (c : Ctx), s.ctx? cx = some c → fairPeriod s cx = 256 * (c.fper + 1)) ∧
  (∀ (gid tid : Nat) (s : State) (g : Group), s.grp? gid = some g → g.ready tid = true →
    (g.thr tid).starved = none → g.fper ≤ (g.thr tid).waited →
    exec (.pathStarved gid tid) s = .next (s.updThr gid tid fun th => { th with starved := some s.clk })) ∧
  (∀ (gid tid id : Nat) (s : State) (g : Group) (p : Pend), s.grp? gid = some g →
    (g.thr tid).pend.find? (fun q => q.id == id) = some p → p.bad = none → p.tile = none → (∀ w ∈ p.words, w ≠ none) →
    p.dsts.length = p.words.length → (p.dsts.filterMap fun d => d).Nodup →
    exec (.longLatencyResult gid tid id true) s = .next (wake (discard (countErr s 8 true) g.gid g.live)) ∧
    ∃ t, exec (.longLatencyResult gid tid id false) s = .next (wake t) ∧
      t = { s with groups := t.groups, blocks := t.blocks } ∧ (∀ n, n ≠ gid → t.grp? n = s.grp? n) ∧
      ∃ g', t.grp? gid = some g' ∧
        g' = { g with threads := g'.threads, sreg := g'.sreg, sus := g.sus.filter fun r => !p.dsts.contains (some r) } ∧
        g'.threads.length = g.threads.length ∧
        g'.thr tid = { g.thr tid with
          v := (g'.thr tid).v, pend := (g'.thr tid).pend
          unsettled := (p.dsts.filterMap fun d => d).map (fun r => (r, p.id, p.mem)) ++
            (g.thr tid).unsettled.filter fun e => !p.dsts.contains (some e.1)
          sus := (g.thr tid).sus.filter fun r => !p.dsts.contains (some r)
          kept := if (g.thr tid).kept.any fun r => p.dsts.contains (some r) then [] else (g.thr tid).kept } ∧
        (∀ q ∈ (g'.thr tid).pend, q.id ≠ id) ∧
        (∀ k, k ≠ tid → g'.thr k = { g.thr k with pend := (g'.thr k).pend }) ∧
        (∀ r w, (some r, some w) ∈ p.dsts.zip p.words →
          if r < 96 then assoc r (g'.thr tid).v = some w else assoc (r - 96) g'.sreg = some w) ∧
        (∀ r, some r ∉ p.dsts → if r < 96 then assoc r (g'.thr tid).v = assoc r (g.thr tid).v
          else assoc (r - 96) g'.sreg = assoc (r - 96) g.sreg)) ∧
  (∀ (gid tid id : Nat) (err : Bool) (s : State) (g : Group) (p : Pend) (c : Cause), s.grp? gid = some g →
    (g.thr tid).pend.find? (fun q => q.id == id) = some p → p.bad = some c →
    exec (.longLatencyResult gid tid id err) s =
      .next (raise (s.updThr gid tid fun th => { th with pend := th.pend.filter fun q => q.id != id }) g
        { cause := c, lanes := [tid], fpc := p.fpc, faddr := p.faddr, cxid := g.cxid }))

/-- R103, R219, R221, R366: FENCE, TLBINV and WAITA go on once what they wait for is there, and not before: a FENCE with a
release part once the thread's writes are performed, with an acquire part once its loads have returned, whose results are then settled, with .sc once no
lower ticket is outstanding; TLBINV once the accesses through removed entries are performed, and the entries are then gone;
a WAITA once the word that it loads meets its condition. A WAITA whose timeout has run out and that has not observed its
condition traps as WATCHDOG at its unit, with the address it waits at. -/
def Obligations.longWaitsEnd : Prop :=
  (∀ (gid tid upto ord scope : Nat) (ticket : Option Nat) (s : State) (g : Group), s.grp? gid = some g →
    (g.thr tid).park = some (.fence upto ord scope ticket) →
    let go := (ord ≠ 1 → performed s gid tid upto = true) ∧ (ord ≠ 2 → returned s gid tid upto (g.thr tid) = true) ∧
      ∀ k, ticket = some k → ticketNext s k = true
    (¬go → exec (.fenceComplete gid tid) s = .next s) ∧
    (go → exec (.fenceComplete gid tid) s = .next
      ({ s with scSeen := if ord = 4 then union s.scSeen (ownWrites s gid tid upto) else s.scSeen }.updThr gid tid fun th =>
        { (th.learn upto (fenceKnown s g tid upto ord scope)).release with
          unsettled := if ord = 2 then th.unsettled else th.unsettled.filter fun e => !e.2.2 || decide (upto ≤ e.2.1) }))) ∧
  (∀ (gid tid kind upto : Nat) (x : DWord) (s : State) (g : Group), s.grp? gid = some g →
    (g.thr tid).park = some (.tlbinv kind x upto) →
    let gone := s.tlb.filter (tlbHit s g.cxid kind x)
    let go := uncovered s gid tid upto = false ∧
      (∀ r ∈ s.reqs, r.blk = none → r.performed = false → viaRemoved gone r.cxid r.va = false) ∧
      ∀ r ∈ s.rus, r.applied = false → ∀ va ∈ ruVas r, viaRemoved gone r.cxid va = false
    (¬go → exec (.tlbinvComplete gid tid) s = .next s) ∧
    (go → ∃ t, t = dropWalks (dropEnts s (tlbHit s g.cxid kind x)) (fun w =>
        if kind = 0 then (w.cxid == g.cxid && ((pathOf s g.cxid (x.toNat % 2 ^ 57)).map Prod.fst).contains w.va) ||
          w.via.any (Hop.maps g.cxid x)
        else if kind = 1 then w.cxid == x.toNat else inSubtree s x.toNat w.cxid) ∧
      (∀ e, e ∈ t.tlb ↔ e ∈ s.tlb ∧ tlbHit s g.cxid kind x e = false) ∧
      exec (.tlbinvComplete gid tid) s = .next (wake (learnAll ((discardWhere t fun b =>
        b.glob && viaRemoved gone b.cxid b.va).updThr gid tid Thread.release) gid [tid])))) ∧
  (∀ (gid tid : Nat) (ne : Bool) (val : Word) (va upc : DWord) (left full : Option Nat) (s : State) (g : Group) (p : Spot),
    s.grp? gid = some g → (g.thr tid).park = some (.waita ne val va left full upc) → g.runs s = true → loadAt s g.cxid va 4 = .ok p → ownPending s gid tid p.b p.off 4 = false → acquiring s gid tid = false →
    let w : Word := BitVec.ofNat 32 (leNat (s.readBuf p.b p.off 4))
    ((if ne then w = val else w ≠ val) → exec (.waitaSatisfied gid tid) s = .next s) ∧
    ((if ne then w ≠ val else w = val) → exec (.waitaSatisfied gid tid) s = .next (wake ((touch s p).updThr gid tid fun th =>
      (th.learn s.nextId
        (readFrom s (g.agent tid) 1 5 (readBefore s { b := p.b, off := p.off, n := 4 } 0 []).2)).release)))) ∧
  ∀ (gid tid : Nat) (s : State) (g : Group), s.groups.find? (fun x => x.gid == gid) = some g → tid ∈ g.live →
    (expiredAt (g.thr tid)).isSome = true → g.runs s = true →
    let ts := g.live.filter fun t => (expiredAt (g.thr t)).isSome && (g.thr t).pc == (g.thr tid).pc && !waitaMet s g t
    (waitaMet s g tid = true → exec (.watchdog gid tid) s = exec (.waitaSatisfied gid tid) s) ∧ (waitaMet s g tid = false →
    ∃ t tr g', exec (.watchdog gid tid) s = .next t ∧ t.traps = s.traps ++ [tr] ∧ t.grp? gid = some g' ∧
      tr.cause = .watchdog ∧ tr.cxid = g.cxid ∧ tr.async = false ∧ tr.gid = g.gid ∧ tr.lmask = tmask ts ∧
      expiredAt (g.thr (ts.headD 0)) = some tr.faddr ∧
      (∀ ne v a l f upc, (g.thr (ts.headD 0)).park = some (.waita ne v a l f upc) → tr.fpc = upc) ∧
      (∀ k ∈ ts, ∀ ne v a l f upc, (g.thr k).park = some (.waita ne v a l f upc) →
        g'.thr k = { g.thr k with pc := upc, rpc := upc, park := none, stopped := true }) ∧
      ∀ k, k ∉ ts → g'.thr k = g.thr k)

/-- R25 to R28, R45, R48, R108, R308, R309, R337, R382, R384, R407, R432: the context whose turn it is has its next unit placed, on cores
of its run set where no handler group waits and within 512 KiB of scratchpad and 48 tiles of a core; a block whose groups are
done gives up its storage;
a grid with an ending cause has its threads end; the supervisor group goes to the lowest core that fits it; a message leaves for its core with one of 6 permits, is
admitted to a queue of 64, starts a group of width 16 with its payload in v0 and its sender in v1, and is done once that group
has exited and its stores are performed; a trap record starts a group of width 16 with 32 registers at TVEC, with the record's words in v0. -/
def Obligations.placementEvents : Prop :=
  (∀ (cx core pick : Nat) (s t : State), supWaits s cx = false →
    (turnOrder s (core / 96)).find? (fun c => readyOnDie s c (core / 96)) = some cx → placeHead s cx core pick = some t →
    exec (.blockPlace cx core pick) s = .next (wake { amhWake t with served := t.served.set (core / 96) cx }) ∧
    (∀ g ∈ t.groups, g ∈ s.groups ∨ ((placeSet s cx).getLsbD g.core = true ∧ g.core ∉ handlerCores s)) ∧
    ∀ k, padUsed t k ≤ max (padUsed s k) 0x80000 ∧ accUsed t k ≤ max (accUsed s k) 48) ∧
  (∀ (bid : Nat) (s : State) (b : Block), s.blk? bid = some b → (∀ g ∈ allGroups s b, groupDone s g = true) →
    let t := (allGroups s b).foldl msgGone { settleLaunches s (allGroups s b) with
      groups := s.groups.filter fun g => g.bid != bid
      runs := s.runs.filter fun r => !(allGroups s b).any fun g => g.gid == r.gid
      blocks := (s.blocks.filter fun x => x.bid != bid).map fun x => { x with full := false } }
    t = { s with groups := t.groups, runs := t.runs, blocks := t.blocks, ctxs := t.ctxs, msgs := t.msgs } ∧
    (∀ g ∈ t.groups, g.bid ≠ bid) ∧ (∀ x ∈ t.blocks, x.bid ≠ bid) ∧
    exec (.blockRetire bid) s = .next (wake (settleStops { t with
      grids := if (allGroups s b).any fun g => g.kind == .supervisor then s.grids.filter fun g => g.gr != b.gr else s.grids }))) ∧
  (∀ (gr : Nat) (s : State) (g : Grid), s.grid? gr = some g → g.ending ≠ none → g.ended = false →
    exec (.gridEnd gr) s = .next (wake (endGrid s gr))) ∧
  (∀ (cx pick k : Nat) (s t : State) (c : Ctx), s.ctx? cx = some c → placeSet s cx ≠ 0 → c.wantSup = true →
    let x : Grid := { gr := s.nextId, cxid := cx, lrec := supRecord c, q := 0, leftAt := s.nextId, next := 1, sup := true,
                       first := s.nextId, seen := s.allWrites }
    let us := [newBlock x 0 (s.nextId + 1)]
    let s1 : State := { s with grids := s.grids ++ [x], nextId := s.nextId + 1 + blockIds x }
    (∀ j < k, (placeSet s cx).getLsbD j = true → putUnit (placeSet s cx) j pick us s1 = none) → k < 192 →
    (placeSet s cx).getLsbD k = true → putUnit (placeSet s cx) k pick us s1 = some t →
    msgWaits s1 k = false → trapWaits s1 k = false →
    exec (.supervisorStart cx pick) s = .next (t.updCtx cx fun c => { c with wantSup := false })) ∧
  (∀ (cx pick k : Nat) (s t : State) (c : Ctx) (u : Block × List Group) (us : List (Block × List Group)),
    s.ctx? cx = some c → placeSet s cx ≠ 0 → c.wantSup = false →
    (savedOf s fun b => b.cxid == cx && s.grids.any fun g => g.gr == b.gr && g.sup) = u :: us →
    (∀ j < k, (placeSet s cx).getLsbD j = true → putUnit (placeSet s cx) j pick [u] s = none) → k < 192 →
    (placeSet s cx).getLsbD k = true → putUnit (placeSet s cx) k pick [u] s = some t →
    msgWaits s k = false → trapWaits s k = false → exec (.supervisorStart cx pick) s = .next (wake (amhWake t))) ∧
  (∀ (msg : Nat) (s : State) (m : Msg) (c : Ctx), s.msgs.find? (fun m => m.id == msg) = some m → s.ctx? m.cxid = some c →
    (m.st = .fabric → c.cores.getLsbD m.core = true → runsOn s m.cxid m.core = true → queuedAt s m.core < 64 →
      msgBehindFabric s m = false → uncovered s m.gid m.tid m.op = false → exec (.amAdmit msg) s = .next { s with
        nextId := s.nextId + 1
        msgs := s.msgs.map fun x => if x.id == msg then { x with st := .queued, at_ := if x.at_ = 0 then s.nextId else x.at_ } else x }) ∧
    (m.st = .issue → c.cores.getLsbD m.core = true → permits s m.from_ (msgSlice m.core) < 6 →
      (∀ x ∈ s.msgs, x.op = m.op → x.id < m.id → x.st ≠ .issue) → exec (.amAdmit msg) s = .next { s with
        msgs := s.msgs.map fun x => if x.id == msg then { x with st := .fabric } else x }) ∧
    ((m.st = .issue ∨ m.st = .fabric ∨ m.st = .queued) → c.cores.getLsbD m.core = false →
      ∀ k, (∀ j < k, c.cores.getLsbD j = false) → c.cores.getLsbD k = true → exec (.amAdmit msg) s = .next { s with
        msgs := s.msgs.map fun x => if x.id == msg then { x with core := k, st := if m.st = .issue then .issue else .fabric } else x })) ∧
  (∀ (msg pick : Nat) (s : State) (m : Msg), s.msgs.find? (fun m => m.id == msg) = some m → m.st = .queued →
    (placeSet s m.cxid).getLsbD m.core = true → msgBehind s m = false → trapWaits s m.core = false →
    (handlerEntry s m.cxid m.h = none → exec (.amHandlerStart msg pick) s = .next (amhWake (msgDone s m))) ∧
    ∀ n code, handlerEntry s m.cxid m.h = some (n, code) →
      (putHandler s m.core pick (handlerGroup s m.cxid (.handler msg) n code
        (fun t => [(0, m.pay.getD t 0), (1, m.sender)]) [] (senderKnown s m))).isSome = true →
      ∃ t g, exec (.amHandlerStart msg pick) s = .next (amhWake t) ∧ g ∈ t.groups ∧ g.kind = .handler msg ∧ g.core = m.core ∧
        g.cxid = m.cxid ∧ g.width = 16 ∧ g.nregs = n ∧ g.threads.length = 16 ∧
        t.msgs = (s.msgs.map fun y => if y.id == msg then { y with st := .running g.gid } else y) ∧
        ∀ k < 16, (g.thr k).pc = code ∧ (g.thr k).v = [(0, m.pay.getD k 0), (1, m.sender)]) ∧
  (∀ (msg gid : Nat) (s : State) (m : Msg), s.msgs.find? (fun m => m.id == msg) = some m → m.st = .running gid →
    (∀ g, s.grp? gid = some g → g.live = [] ∧ ∀ r ∈ s.reqs, r.gid = gid → r.performed = true) →
    exec (.amComplete msg) s = .next (msgDone s m)) ∧
  ∀ (cx pick core : Nat) (s : State) (r : TrapRec) (c : Ctx), cx ≠ 0 →
    (trapHandlers s cx).length < 8 → nextRec s cx = some r → s.ctx? cx = some c →
    handlerCore s r = some core → (putHandler s core pick (handlerGroup s cx (.trapHandler r.seq) 32 c.tvec
      (fun t => [(0, (trapWords r.trap cx r.seq).getD t 0)]) ((List.range 8).map fun i => (i, 0)) s.allWrites)).isSome = true →
    ∃ t g, exec (.trapHandlerStart cx pick) s = .next t ∧ g ∈ t.groups ∧ g.kind = .trapHandler r.seq ∧ g.core = core ∧
      g.cxid = cx ∧ g.width = 16 ∧ g.nregs = 32 ∧ g.threads.length = 16 ∧ (∀ i < 8, assoc i g.sreg = some 0) ∧
      (t.recs = s.recs.map fun y => if y.dest == cx && y.seq == r.seq then { y with bound := some g.gid } else y) ∧
      ∀ k < 16, (g.thr k).pc = c.tvec ∧ (g.thr k).v = [(0, (trapWords r.trap cx r.seq).getD k 0)]

/-- R312, R315, R400, R402 to R406, R441: the head grid of a queue leaves once earlier grids are placed and its dependence
word meets its condition, and a queue that has been examined keeps no pending bit; a host list's record is read once at
its head and is rejected with a status code where a check fails; a grid that is done has its status word written, then its completion word, then its interrupt sent; an aligned
canonical kick joins its queue, any other sets a status bit; SENTRY and SCFG writes reach the page's context. A request with the T bit that the page's function
does not take has none of these effects. -/
def Obligations.queueEvents : Prop :=
  (∀ (cx q : Nat) (s : State) (c : Ctx) (w : List Word), s.ctx? cx = some c →
    headRecord (queueOf c q) = some w → headWaits s (queueOf c q) = false → dispatches s cx = true →
    (predecessorsPlaced s cx q = false → exec (.gridLeaveQueue cx q) s = .next (s.updCtx cx fun c =>
      { c with pendBits := c.pendBits &&& ~~~((1 : DWord) <<< q) })) ∧
    (predecessorsPlaced s cx q = true → trapHeld s (.queue cx q) = false →
    (lrDcond w = 0 → coresFit s cx w = true →
      exec (.gridLeaveQueue cx q) s = .next (mkGrid (setQueue s cx q (popQueue (queueOf c q))) cx q w 0
        (headSeen s (queueOf c q)))) ∧
    ∀ p, lrDcond w ≠ 0 → loadAt s cx (lrDaddr w) 4 = .ok p →
      let x := leNat ((touch s p).readBuf p.b p.off 4)
      (lrDcond w = 1 → x = lrDval w) → (lrDcond w = 2 → lrDval w ≤ x) → coresFit (touch s p) cx w = true →
      exec (.gridLeaveQueue cx q) s = .next (mkGrid (setQueue (touch s p) cx q (popQueue (queueOf c q))) cx q w 0
        ((headSeen (touch s p) (queueOf c q)).join
          (readFrom (touch s p) {} 1 5 (readBefore (touch s p) { b := p.b, off := p.off, n := 4 } 0 []).2))))) ∧
  (∀ (cx q : Nat) (a : DWord) (s : State) (c : Ctx) (l : List QEntry) (w : List Word) (p : Spot), s.ctx? cx = some c →
    queueOf c q = .host none a false :: l → dispatches s cx = true → trapHeld s (.queue cx q) = false → canonical a = true → a.toNat % 128 = 0 →
    hasTokens s cx 4 = true → readRec s cx a 128 = .ok (w, p) →
    let s1 := takeTokens (touch s p) cx 4
    (launchCheck c q w = 0 →
      exec (.hostListRead cx q) s = .next (setQueue s1 cx q (.host (some w) (lrNext w) false :: l))) ∧
    (launchCheck c q w ≠ 0 → exec (.hostListRead cx q) s =
      .next (mkGrid (setQueue s1 cx q (if lrNext w = 0 then l else .host none (lrNext w) false :: l)) cx q w (launchCheck c q w)))) ∧
  (∀ (gr : Nat) (s s0 s1 s2 : State) (g : Grid), s.grid? gr = some g → g.waits = false → trapHeld s (.grid gr) = false →
    gridDone s g = true →
    let put (s : State) (va : DWord) (w : Word) (t : State) : Prop := (va = 0 ∧ t = s) ∨
      (va ≠ 0 ∧ va.toNat % 4 = 0 ∧ ∃ p, storeAt s g.cxid va 4 = .ok p ∧ t = (touch s p).writeMem p.b p.off (leBytes 4 w.toNat)
        { rels := [{ scope := 5, who := {}, base := s.nextId }] })
    (g.phase ≠ 0 → s0 = s) →
    (g.phase = 0 → put s (lrSaddr g.lrec) (BitVec.ofNat 32 (g.reject * 2 ^ 16 + (match g.ending with
      | some k => k
      | none => 0) * 2 ^ 8 + (if g.nofuse then 2 else 0) + 1)) s0) →
    s1 = s0.updGrid gr (fun x => { x with phase := max 1 g.phase }) → (2 ≤ g.phase → s2 = s1) →
    (g.phase < 2 → put s1 (lrCaddr g.lrec) (lrCval g.lrec) s2) →
    ∃ t, exec (.gridComplete gr) s = .next { t with grids := t.grids.filter fun x => x.gr != gr } ∧
      t = if lrIrq g.lrec then sendIrq s2 (irqFn s2 g.cxid) (lrVec g.lrec) else s2) ∧
  (∀ (page q : Nat) (val : DWord) (tee : Option Nat) (s : State) (x : Ctx), q < 64 → pageLive s page = some x →
    teeTaken s (pageFn page) tee = true →
    let s0 := s.setKick { s.kick page q with latch := none }
    let l := (assoc q x.queues).getD []
    (x.nq ≤ q → exec (.qkickWrite ⟨page, tee⟩ q val) s =
      .next { s0 with kerr := if s.kerr.contains page then s.kerr else page :: s.kerr }) ∧
    (q < x.nq → val.toNat % 128 ≠ 0 ∨ canonical val = false → exec (.qkickWrite ⟨page, tee⟩ q val) s =
      .next (s0.setKick { s0.kick page q with bad := true })) ∧
    (q < x.nq → val.toNat % 128 = 0 → canonical val = true → 1024 ≤ l.length → exec (.qkickWrite ⟨page, tee⟩ q val) s =
      .next (s0.setKick { s0.kick page q with ovf := true })) ∧
    (q < x.nq → val.toNat % 128 = 0 → canonical val = true → l.length < 1024 → exec (.qkickWrite ⟨page, tee⟩ q val) s =
      .next (s0.updCtx x.cxid fun c => { c with
        queues := assocSet q (l ++ [.host none val false]) c.queues
        pendBits := if s.runset x.cxid = 0 then c.pendBits ||| ((1 : DWord) <<< q) else c.pendBits }))) ∧
  (∀ (page q : Nat) (lo hi : Word) (tee : Option Nat) (s : State), q < 64 → pageCtx s page ≠ none →
    teeTaken s (pageFn page) tee = true →
    exec (.qkickLowWrite ⟨page, tee⟩ q lo) s = .next (s.setKick { s.kick page q with latch := some lo }) ∧
    ((s.kick page q).latch = some lo → ∃ t, exec (.qkickHighWrite ⟨page, tee⟩ q hi) s = .next t ∧
      exec (.qkickWrite ⟨page, tee⟩ q (pairOf lo hi)) s = .next t) ∧
    ((s.kick page q).latch = none → exec (.qkickHighWrite ⟨page, tee⟩ q hi) s = .next s)) ∧
  (∀ (page q : Nat) (val : DWord) (w : Word) (tee : Option Nat) (s : State), teeTaken s (pageFn page) tee = false →
    ∀ i ∈ [Instr.qkickWrite ⟨page, tee⟩ q val, .qkickLowWrite ⟨page, tee⟩ q w, .qkickHighWrite ⟨page, tee⟩ q w, .sentryWrite ⟨page, tee⟩ val,
      .scfgWrite ⟨page, tee⟩ w], exec i s = .next s) ∧
  ∀ (page : Nat) (val : DWord) (w : Word) (tee : Option Nat) (s : State) (x : Ctx), pageLive s page = some x →
    teeTaken s (pageFn page) tee = true →
    exec (.sentryWrite ⟨page, tee⟩ val) s = .next (s.updCtx x.cxid fun c => { c with sentry := val }) ∧
    (w.toNat / 2 ^ 30 ≠ 3 → w.toNat / 2 ^ 26 % 16 ≤ 10 → exec (.scfgWrite ⟨page, tee⟩ w) s =
      .next (s.updCtx x.cxid fun c => { c with sgw := w.toNat / 2 ^ 30, src8 := w.toNat / 2 ^ 26 % 16 })) ∧
    (w.toNat / 2 ^ 30 = 3 ∨ 10 < w.toNat / 2 ^ 26 % 16 → exec (.scfgWrite ⟨page, tee⟩ w) s = .next s)

/-- R347, R351, R354, R376, R380 to R383, R385 to R389, R417: a trap record goes to the first context from its own upwards
that takes its cause, with the next number of that context, into its ring and to its queue of 64, or to a debugger attached
for the cause; a group is saved into its frame with its open regions discarded, and leaves it once its fault's address
translates; a block that was asked to leave its cores is saved with its groups, gracefully at a completed BAR.PE with what
its live-table entry keeps, or urgently from its discarded regions, unless the save region is full, which is reported; an expired deadline makes a save urgent; an expired slice
stops its context; a vacate ends, and a way sweep once the remote updates issued under the old mask are applied. -/
def Obligations.trapAndSaveEvents : Prop :=
  (∀ (tr : Nat) (s : State) (t0 : Trap) (x : Ctx), s.traps.find? (fun t => t.id == tr) = some t0 →
    let t : Trap := { t0 with instar := ((s.grp? t0.gid).map Group.instar).getD t0.instar }
    deliverable s t = true →
    (attached s t = true → exec (.trapDelivery tr) s = .next (holdForDebugger { s with
      traps := s.traps.filter fun x => x.id != tr, dbgEvents := s.dbgEvents ++ [trapWords t t.cxid 0] } t)) ∧
    (attached s t = false → s.ctx? (receiver s t) = some x →
      (s.recs.filter fun r => r.dest == receiver s t).length < 64 →
      let ring : DWord := if x.rulogBase = 0 then 0 else x.rulogBase + BitVec.ofNat 64 (4096 + 64 * (x.trapSeq % 64))
      let s1 : State := { s with
        traps := s.traps.filter fun x => x.id != tr
        ctxs := s.ctxs.map fun y => if y.cxid == receiver s t then { y with trapSeq := y.trapSeq + 1 } else y
        recs := s.recs ++ [{ trap := t, dest := receiver s t, seq := x.trapSeq, ring := ring, pc := t.fpc }] }
      let s2 := ringWrite s1 (receiver s t) ring {} (trapWords t (receiver s t) x.trapSeq)
      exec (.trapDelivery tr) s = .next (if receiver s t = 0 then sendIrq s2 0 2047 else s2))) ∧
  (∀ (gid : Nat) (s : State) (g : Group) (h : Hold), s.grp? gid = some g → g.hold = some h → h.saved = false →
    (∀ k ∈ g.live, ∀ p ∈ (g.thr k).pend, (g.thr k).rid ≤ p.id) → (∀ m ∈ s.mxs, m.gid = gid → m.mma = false) →
    (∀ r ∈ s.reqs, r.gid ≠ gid) → (∀ r ∈ s.rus, r.gid = gid → r.sent = true) →
    (∀ r ∈ s.ctxops, r.gid ≠ gid) → exec (.cocoonSave gid) s = .next (wake ((discard s gid g.live false).updGrp gid fun g =>
      { g with hold := some { h with saved := true } }))) ∧
  (∀ (gid : Nat) (s : State) (g : Group) (h : Hold), s.groups.find? (fun x => x.gid == gid) = some g → g.hold = some h →
    h.saved = true → (∀ x, s.grid? g.gr = some x → x.ending = none) →
    exec (.cocoonRestore gid true) s = .next (countErr (saveRegionError s g) 3 true) ∧
    (h.why = .debugger true → exec (.cocoonRestore gid false) s = .next (leaveFrame s gid false)) ∧
    ∀ tr, h.why = .pageFault tr → (∀ t ∈ s.traps, t.id ≠ tr.id) → (∀ r ∈ s.recs, r.trap.id ≠ tr.id) →
      (∀ e, compose s tr.cxid tr.faddr = .ok e → exec (.cocoonRestore gid false) s = .next (leaveFrame (cacheEnt s e) gid true)) ∧
      ∀ f, compose s tr.cxid tr.faddr = .error f → ∃ t t', exec (.cocoonRestore gid false) s = .next t ∧
        t.traps = s.traps ++ [t'] ∧ t'.cause = f.cause ∧ t'.cxid = f.cxid ∧ t'.faddr = f.va ∧
        t'.chain = masksOf s f.cxid ∧ t'.inHandler = inHandlerOf g f.cxid ∧
        t = { s with nextId := s.nextId + 1, traps := t.traps, groups := t.groups, frames := (s.walked f.reads).frames } ∧
        t.groups = s.groups.map fun g => if g.gid == gid then { g with hold := some ⟨.pageFault t', true⟩ } else g) ∧
  (∀ (bid : Nat) (s : State) (b : Block) (p : Pre), s.blk? bid = some b → b.pre = some p → b.saved = none → b.full = false →
    let gs := blockGroups s bid
    let frames := ((gs.filter fun g => !g.live.isEmpty).map fun g => frameBytes g.width g.nregs).sum
    (s.saveBytes < saveUsed s - frames + saveSize b gs → exec (.blockSave bid) s = .next (wake { s with
      blocks := s.blocks.map fun x => if x.bid == bid then { x with full := true, pe := none } else x
      reports := s.reports ++ [1] })) ∧
    (saveUsed s - frames + saveSize b gs ≤ s.saveBytes → saveQuiet s b = true →
    (p.urgent = true → ∀ b', ((gs.filter fun g => g.hold.isNone).foldl (fun s g => discard s g.gid g.live false) s).blk? bid = some b' →
      exec (.blockSave bid) s = .next (takeOff ((gs.filter fun g => g.hold.isNone).foldl (fun s g => discard s g.gid g.live false) s) b'
        fun g => { g with threads := g.threads.map Thread.restored })) ∧
    ∀ w, p.urgent = false → b.pe = some w → (∀ g ∈ gs, g.ops = [] ∧ g.hold = none) →
      exec (.blockSave bid) s = .next (takeOff s (gracefulBlock w b) (gracefulGroup w s.nextId
        (((b.bars.find? fun k => k.id == 16).map fun k => (arrivals s 1 k).known).getD {}))))) ∧
  (∀ (cx : Nat) (s : State), let due := (s.blocks.filter fun b => b.cxid == cx && b.saved.isNone).filter fun b => match b.pre with
      | some ⟨false, some k⟩ => decide (k ≤ s.clk)
      | _ => false
    due ≠ [] → exec (.gracefulDeadline cx) s = .next { s with
      blocks := s.blocks.map fun b => if (due.map Block.bid).contains b.bid && b.saved.isNone then { b with pre := some ⟨true, none⟩ } else b }) ∧
  (∀ (cx : Nat) (s : State) (x : Ctx), s.ctx? cx = some x →
    (x.state = .running → x.slice = some 0 → exec (.sliceExpiry cx) s =
      .next (stopTree (s.updCtx cx fun y => { y with slice := none }) cx x.sliceUrgent x.deadline)) ∧
    (x.pendVacate = true → x.revoking = 0 → exec (.vacateComplete cx) s =
      .next (s.updCtx cx fun y => { y with pendVacate := false })) ∧
    (x.sweepWays ≠ 0 → (∀ r ∈ s.rus, r.cxid = cx → r.id < x.sweepUpto → r.applied = true) →
      exec (.waySweepComplete cx) s = .next { s with
        l2 := s.l2.filter fun l => !(l.filler == cx && x.sweepWays.getLsbD l.way)
        ctxs := s.ctxs.map fun y => if y.cxid == cx then { y with sweepWays := 0, sweepUpto := 0 } else y }))

/-- R288 to R299, R335, R373, R414: a channel takes up the next owned record of a chain, performs its chunks, each by writes that
keep within 128 bytes of the destination and cover it and then by its arrival bit, each chunk once the record's spaces are checked
and its tokens are there, and ends the record with its completion
word and then its ownership bit; a record that fails a check stops its chain with BT_FAULT; a finished chain retires. A freed frame is scrubbed in the order of its die, reads as
zero and goes CLEAN to its receiver; a killed context's number is released once nothing holds it. -/
def Obligations.transferAndFrameEvents : Prop :=
  (∀ (op : Nat) (s : State) (o : BtOp), s.bt? op = some o → o.cur = none → o.fault = none → o.stop = false →
    o.waits = false → btMayStart s o = true →
    (∀ w, o.tcopy = some w → exec (.btRecordStart op) s = .next ((btCheck s o w).getD s)) ∧
    (o.tcopy = none → o.ptr = 0 →
      exec (.btRecordStart op) s = .next (s.updBt op fun b => { b with stop := true, started := true })) ∧
    ∀ w p, o.tcopy = none → o.ptr ≠ 0 → mayRead s o o.ptr = true → readRec s o.cxid o.ptr 64 = .ok (w, p) →
      let s1 := takeTokens (touch s p) o.cxid 2
      (btOwn w = true → exec (.btRecordStart op) s = .next ((btCheck s1 o w).getD s)) ∧
      (btOwn w = false →
        exec (.btRecordStart op) s = .next (s1.updBt op fun b => { b with stop := true, started := true }))) ∧
  (∀ (op c : Nat) (s : State) (o : BtOp) (r : BtRec), s.bt? op = some o → o.cur = some r →
    o.fault = none → o.waits = false → c ∉ r.landed → c < chunkCount r.extent →
    (∀ t, chunkStart s o r c = .error t → exec (.btChunkLanded op c) s = .next t) ∧
    ∀ s0 q, chunkStart s o r c = .ok (s0, q) → let s1 : State := { s0 with free := s0.free + 1 }
      (btKind q.w = 3 → exec (.btChunkLanded op c) s = .next (landPage s1 o q c)) ∧
      (btKind q.w ≠ 3 → ∀ s2 r2,
        (btPieces s1 o c q (chunkCuts q c) = (s2, r2, none) → exec (.btChunkLanded op c) s =
          .next (wake (setArrival (btLanded (s2.setRec o r2) o [c]) o r2.w c))) ∧
        ∀ f wr, btPieces s1 o c q (chunkCuts q c) = (s2, r2, some (f, wr)) →
          exec (.btChunkLanded op c) s = .next (btXFault (s2.setRec o r2) o f wr))) ∧
  (∀ (s s0 : State) (o : BtOp) (r q : BtRec) (c : Nat), chunkStart s o r c = .ok (s0, q) →
    q = { r with ents := q.ents, paid := q.paid, checked := true } ∧ s0.mem = s.mem ∧ s0.blocks = s.blocks ∧ s0.bts = s.bts ∧
    s0.groups = s.groups ∧ (r.checked = false → btSpaceBad s o.cxid r.w r.extent = false)) ∧
  (∀ (r : BtRec) (c : Nat), (∀ i < chunkLen r.extent c, ∃ e ∈ chunkCuts r c, e.1 ≤ i ∧ i < e.1 + e.2) ∧
    ∀ e ∈ chunkCuts r c, e.1 + e.2 ≤ chunkLen r.extent c ∧
      ∀ i < e.2, (chunkDst r c + e.1 + i) / 128 = (chunkDst r c + e.1) / 128) ∧
  (∀ (s s1 : State) (o : BtOp) (r r1 : BtRec) (c : Nat) (e : Nat × Nat) (ys : List Byte),
    btBytes s o r (512 * c + e.1) e.2 = .ok (s1, r1, ys) →
    (btGlob r1.w = false → btPiece s o r c e = .ok (s1.writePad o.bid (chunkDst r1 c + e.1) ys (o.by_ s1), r1)) ∧
    ∀ ps, btGlob r1.w = true → btPlaces s1 o (btDst r1.w + BitVec.ofNat 64 (512 * c + e.1)) ys = .ok ps →
      btPiece s o r c e = .ok (ps.foldl (fun s x => (touch s x.1).writeMem x.1.b x.1.off x.2 (o.by_ s)) s1, r1)) ∧
  (∀ (op : Nat) (s s1 s2 : State) (o : BtOp) (r : BtRec), s.bt? op = some o → o.cur = some r → o.fault = none →
    o.waits = false → (∀ c < chunkCount r.extent, c ∈ r.landed) →
    let s0 : State := { s with free := s.free + 1 }
    (btCwv r.w = false → s1 = s0) →
    (btCwv r.w = true → ∃ p, (if btCwm r.w then loadAt s o.cxid (btCaddr r.w) 4 .rmw else storeAt s o.cxid (btCaddr r.w) 4) =
        .ok p ∧
      s1 = (touch s0 p).writeMem p.b p.off (leBytes 4 (if btCwm r.w
        then (leNat (s.readBuf p.b p.off 4) + (btCval r.w).toNat) % 2 ^ 32 else (btCval r.w).toNat))
        { o.by_ s0 with rels := [btRel s0 o 4], rmw := btCwm r.w }) →
    (o.tcopy ≠ none → s2 = s1) →
    (o.tcopy = none → ∃ p, storeAt s o.cxid (r.addr + 8) 4 = .ok p ∧
      s2 = (touch s1 p).writeMem p.b p.off (leBytes 4 (wAt r.w 2 % 2 ^ 31)) (o.by_ s1)) →
    exec (.btRecordComplete op) s = .next (s2.updBt op fun b =>
      { b with cur := none, ptr := btNext r.w, stop := b.tcopy.isSome || btNext r.w == 0 })) ∧
  (∀ (op code : Nat) (s : State) (o : BtOp), s.bt? op = some o → o.fault = some code → ∃ t tr,
    exec (.btRecordFault op) s = .next t ∧ t.traps = s.traps ++ [tr] ∧ tr.cause = .btFault ∧ tr.cxid = o.cxid ∧
      tr.async = true ∧ tr.eng = true ∧ tr.faddr = o.faddr ∧ tr.detail = code ∧ tr.wr = o.fwr ∧ tr.gr = btGrid s o ∧
      t.bts = (s.bts.map fun b =>
        if b.id == op then { b with fault := none, cur := none, stop := true, started := true } else b) ∧
      t = { s with groups := t.groups, blocks := t.blocks, nextId := s.nextId + 1, traps := t.traps, bts := t.bts } ∧
      (∀ n, n ≠ o.gid → t.grp? n = s.grp? n) ∧
      ∀ g, s.grp? o.gid = some g → t.grp? o.gid = some { g with btc := g.btc.set o.ch code }) ∧
  (∀ (op : Nat) (s : State) (o : BtOp), s.bt? op = some o → o.stop = true → o.fault = none →
    trapHeld s (.bt op) = false → exec (.btOperationComplete op) s =
      .next (wake ({ s with bts := s.bts.filter fun b => b.id != op }.updGrp o.gid fun g => g.opDone op (effects s op)))) ∧
  (∀ (b f : Nat) (s : State), (s.frame b f).st = .freed →
    (∀ y ∈ s.frames, y.st = .freed → frameDie s y.b y.f = frameDie s b f → (s.frame b f).order ≤ y.order) →
    exec (.frameScrubStart b f) s = .next (s.setFrame { s.frame b f with st := .scrubbing })) ∧
  (∀ (b f : Nat) (s : State), (s.frame b f).st = .scrubbing → frameBusy s (s.frame b f) = false →
    ∃ t, exec (.frameScrubComplete b f) s = .next t ∧
      t.frame b f = { b := b, f := f, st := .clean, owner := (s.frame b f).next } ∧
      t = { s with mem := t.mem, poison := t.poison, l1 := t.l1, l2 := t.l2, hist := t.hist, frames := t.frames } ∧
      (∀ x i, s.buf? b = some x → i < 65536 → granuleBytes x ≤ 65536 → x.base % 32 = 0 →
        ∀ a, place x (f * 65536 + i) = some a → Memory.get t.mem a = 0 ∧ a / 32 ∉ t.poison) ∧
      (∀ c ∈ t.l1, ¬(c.b = b ∧ c.line / 512 = f)) ∧ (∀ l ∈ t.l2, ¬(l.b = b ∧ l.line / 512 = f)) ∧
      ∀ a, (∀ e ∈ frameSegs s b f, a < e.1 ∨ e.1 + e.2 ≤ a) → Memory.get t.mem a = Memory.get s.mem a) ∧
  ∀ (cx : Nat) (s : State) (x : Ctx), s.ctx? cx = some x → x.state = .killed →
    (∀ f ∈ s.frames, f.owner ≠ cx) → (∀ b ∈ s.bufs, b.bown = cx → b.kind = .hbm ∨ b.kind = .cxl) →
    (∀ r ∈ s.rus, r.cxid = cx → r.applied = true) → (∀ r ∈ s.reqs, r.cxid = cx → r.performed = true) →
    (∀ v ∈ s.vfs, ∀ l, v.flr = some l → cx ∉ l) →
    ∃ t, exec (.cxidRelease cx) s = .next t ∧ t = { s with
        ctxs := t.ctxs, l1 := t.l1, l2 := t.l2, tlb := t.tlb, walks := t.walks, lastPages := t.lastPages } ∧
      t.ctxs = ((s.ctxs.filter fun y => y.cxid != cx).map fun y => if y.parent = cx then { y with parent := 65536 } else y) ∧
      (∀ c, c ∈ t.l1 ↔ c ∈ s.l1 ∧ c.tag ≠ cx) ∧ (∀ l, l ∈ t.l2 ↔ l ∈ s.l2 ∧ l.tag ≠ cx) ∧
      (∀ e, e ∈ t.tlb ↔ e ∈ s.tlb ∧ e.cxid ≠ cx) ∧ ∀ e, e ∈ t.walks ↔ e ∈ s.walks ∧ e.cxid ≠ cx

/-- R236 to R246, R251, R252, Table 10-1: on a HOT array the operation accepted first starts; each step, no sooner than its
clk after the one before, sums one k-group into the tile of its block; the operation ends with its last k-group, and its threads go on or its count retires; the array leaves
RAMPUP after its ramp, HOT after 240 clk without an operation and outside an MBURST window, both counted from its last, RAMPDOWN after 16 clk. -/
def Obligations.matrixEvents : Prop :=
  (∀ (core part : Nat) (s : State) (m : MxOp), s.mxs.find? (fun m => m.core == core && m.part == part) = some m →
    (m.started = false → (s.ramp core part).st = .hot → areadWaits s m = false →
      exec (.sequencerStart core part) s =
        .next { s with mxs := s.mxs.map fun x => if x.id == m.id then { x with started := true, at_ := s.clk } else x }) ∧
    let due := m.at_ + stepClk m.pairing (((s.grp? m.gid).map Group.width).getD 16) (msCols m.ms)
    (s.clk < due → ∀ err, exec (.matrixStep core part err) s = .next s) ∧
    (m.started = true → m.next < m.kg → due ≤ s.clk → exec (.matrixStep core part false) s = .next { s with
      free := s.free + 1
      blocks := s.blocks.map fun b =>
        if b.bid == m.bid then mxStep (fun t j => unpredictable s m.cxid (Config.badStep s.free t j)) m b else b
      mxs := s.mxs.map fun x => if x.id == m.id then { x with next := x.next + 1, at_ := s.clk } else x }) ∧
    (m.started = true → m.next = 0 → 0 < m.kg → due ≤ s.clk → m.mma = false → exec (.matrixStep core part true) s =
      .next { countErr s 10 true with mxs := s.mxs.map fun x => if x.id == m.id then { x with started := false } else x }) ∧
    (m.started = true → m.kg ≤ m.next →
      let s1 := dropMx s fun x => x.id == m.id
      (m.mma = false → exec (.matrixOpComplete core part) s = .next (wake (s1.updGrp m.gid fun g => g.opDone m.id []))) ∧
      (m.mma = true → exec (.matrixOpComplete core part) s = .next (wake (s1.updGrp m.gid fun g => { g with
        threads := g.threads.map fun th => if th.park = some (.mma m.id) then th.release else th }))))) ∧
  (∀ (bad : Nat → Nat → Word) (m : MxOp) (b : Block) (k j : Nat) (a : List Word), (m.a.map Prod.fst).Nodup → (k, a) ∈ m.a →
    j < msCols m.ms → pairMode m.pairing (b.mode m.half m.acc) = true →
    let per := aPer m.pairing
    (mxStep bad m b).tile m.half m.acc k j = stepWord (pairTypes m.pairing).1 (pairTypes m.pairing).2 (b.mode m.half m.acc)
      (b.tile m.half m.acc k j) ((List.range 16).map (fieldA ((a.drop (per * m.next)).take per) (pairTypes m.pairing).1.store))
      (((assoc k m.ea).getD []).getD m.next 0) ((List.range 16).map fun c => bElem b m m.next c j) (bExp b m m.next j)) ∧
  ∀ (core part : Nat) (s : State), let r := s.ramp core part
    (r.st = .rampUp → r.since + r.upFor ≤ s.clk →
      exec (.rampupDone core part) s = .next (s.setRamp { r with st := .hot, since := s.clk })) ∧
    (r.st = .hot → (∀ m ∈ s.mxs, ¬(m.core = core ∧ m.part = part)) → max r.since r.window + 240 ≤ s.clk →
      exec (.rampdownStart core part) s = .next (s.setRamp { r with st := .rampDown, since := s.clk })) ∧
    (r.st = .rampDown → r.since + 16 ≤ s.clk →
      exec (.rampdownDone core part) s = .next (s.setRamp { r with st := .cold, since := s.clk }))

/-- R257 to R263, R266, R270 to R285, R371: a remote update is admitted once its thread's earlier accesses are performed,
and its lines are checked; a request of a COMBINE slot joins an earlier one with the combined payload; an application reads,
computes and writes in one step what its lines allow: every micro-op has the result of Table 11-6, the lines that an STL names
take the granule lanes of their working copies, and no other byte of memory changes; an ROP retires with its last request, an
ROPR's words and status word arrive, a definition takes effect once earlier requests to its slot are applied. -/
def Obligations.remoteUpdateEvents : Prop :=
  (∀ (rid : Nat) (s : State) (r : RuReq), s.ru? rid = some r → r.admitted = false → r.sent = true → r.refused = none →
    (r.ticket = none ∨ ruTurn s r = true) → (∀ x ∈ s.reqs, x.gid = r.gid → x.tid = r.tid → x.id < r.op → x.performed = true) →
    atEngine s r.gid r.tid r.id = false → (∀ x ∈ s.rus, ruBefore x r = false) →
    ruRoom s r = true →
    ∃ t r', exec (.ruAdmit rid) s = .next t ∧
      t = { s with
        rus := s.rus.map fun x => if x.id == rid then r' else x, nextId := s.nextId + 1, free := s.free + 1, tlb := t.tlb,
        frames := t.frames, l2 := t.l2 } ∧
      r' = { r with
        admitted := true, at_ := s.nextId, admittedAt := s.ref252, cause := r'.cause, lines := r'.lines, opens := r'.opens
        fmask := r'.fmask } ∧
      r'.lines.length = ruLines r.defn ∧
      ∀ i < ruLines r.defn, match ruLine s r i with
        | .ok p => r'.lines[i]? = some (some (p.b, p.off / 128 * 128)) ∧ r'.opens[i]? = some p.ent.opens ∧ r'.fmask.testBit i = false
        | .error c => r'.lines[i]? = some none ∧ r'.fmask.testBit i = true ∧
            ((∀ j < i, r'.fmask.testBit j = false) → r'.cause = c)) ∧
  (∀ (r1 r2 : Nat) (s : State) (a b : RuReq), s.ru? r1 = some a → s.ru? r2 = some b → r1 ≠ r2 →
    mergeable a = true → mergeable b = true → a.cxid = b.cxid → a.slot = b.slot → a.b = b.b → a.off = b.off → a.at_ < b.at_ →
    (∀ x ∈ s.rus, ruHolds x b = true → x.id = a.id ∨ x.into = some a.id) →
    let both := ruCombine a.defn a.va.toNat a.payload b.payload
    exec (.ruCombine r1 r2) s = .next { s with rus := s.rus.map fun x =>
      { x with acc := if x.id == r1 then some both else x.acc, into := if x.id == r2 || x.into == some r2 then some r1 else x.into } }) ∧
  (∀ (rid : Nat) (s : State) (r : RuReq), s.ru? rid = some r → r.admitted = true → r.applied = false → r.into = none →
    (∀ x ∈ s.rus, ruHolds x r = false) → (∀ x ∈ s.reqs, reqHolds x r = false) → ruTurn s r = true →
    ruLate s r = false → linesHeld s r.cxid r.places' = false →
    let done := ruApplication (activateLines (ruLearn s r) r.cxid r.places') r
    ∃ t : State, exec (.ruApply rid) s = .next (wake { t with rus := t.rus.filter fun y => !y.applied || (t.grp? y.gid).isSome }) ∧
      (∀ y ∈ s.rus, y.id = rid ∨ y.into = some rid → ∃ z ∈ t.rus, z.id = y.id ∧ z.applied = true ∧
        z.fmask = done.fmask ∧ z.cause = done.cause ∧ z.wr = done.wr ∧
        z.out = done.out) ∧
      (done.fmask = 0 → t.mem = done.s.mem)) ∧
  (∀ (x : RuIn) (m : RuM) (u : Nat), MicroOp x m u (ruExec x m u)) ∧
  (∀ (s : State) (r : RuReq), 
    let done := ruApplication s r
    let stays (i : Nat) (e : Nat × Nat) : Bool := reaches s e.1 e.2 r.cxid (r.opens.getD i [])
    done.s = { s with
      mem := done.s.mem, poison := done.s.poison, l2 := done.s.l2, hist := done.s.hist, nextId := done.s.nextId
      errs := done.s.errs } ∧
    (ruPerLine r.defn = false → done.fmask ≠ 0 → done.s = s ∧ done.wr = false ∧ ∀ w ∈ done.out, w = 0) ∧
    (∀ i < r.lines.length, done.fmask.testBit i = match r.lines.getD i none with
      | none => true
      | some e => !stays i e || s.poisoned e.1 e.2 128) ∧
    (∀ i < r.lines.length, done.fmask.testBit i = true → (∀ j < i, done.fmask.testBit j = false) →
      done.cause = match r.lines.getD i none with
        | none => r.cause
        | some e => if stays i e then Cause.uncorrectable.code else Cause.protection.code) ∧
    (ruPerLine r.defn = true ∨ done.fmask = 0 →
      let g0 := ruG0 r.defn r.va.toNat
      let m := r.run s done.fmask
      let stores := ∃ i e, r.writes done.fmask i e
      (done.wr = true ↔ stores) ∧
      (∀ a, (∀ i e, r.writes done.fmask i e → ∀ k < 4 * ruGn r.defn, r.byteAt s e k ≠ some a) →
        Memory.get done.s.mem a = Memory.get s.mem a) ∧
      (∀ i e k a, r.writes done.fmask i e → k < 4 * ruGn r.defn → r.byteAt s e k = some a →
        (∀ j e' k', r.writes done.fmask j e' → k' < 4 * ruGn r.defn → r.byteAt s e' k' = some a → j = i ∧ k' = k) →
        Memory.get done.s.mem a = ((m.w.getD i zLine).getD (g0 + k / 4) 0).extractLsb' (8 * (k % 4)) 8) ∧
      (∀ e, r.lineAt done.fmask (ruRetLine r.defn) = some e →
        stores ∨ (∀ k < ruNops r.defn - ruCcount r.defn, moOp (ruOp r.defn k) ≠ 20) →
        done.out = (((if ruRet r.defn = 1 then r.start s done.fmask else m.w).getD (ruRetLine r.defn) zLine).drop g0).take
          (ruDataWords r.defn)))) ∧
  (∀ (op : Nat) (s : State) (r : RuReq), r ∈ s.rus → r.op = op → r.ropr = false → trapHeld s (.ru op) = false →
    (∀ x ∈ s.rus, x.op = op → x.ropr = false → x.applied = true ∧ x.gid = r.gid) →
    exec (.ropComplete op) s =
      .next (wake ({ s with rus := s.rus.filter fun x => x.op != op || x.ropr }.updGrp r.gid fun g => g.opDone op
        ((s.rus.filter fun (x : RuReq) => x.op == op && !x.ropr).foldl (fun l (x : RuReq) => union l (effects s x.app)) [])))) ∧
  (∀ (rid : Nat) (s : State) (r : RuReq), s.ru? rid = some r → r.applied = true → r.ropr = true →
    let word : Word := BitVec.ofNat 32 (r.fmask * 2 ^ 16 + r.cause * 2 ^ 8 + (if r.wr then 1 else 0))
    let s1 := s.updThr r.gid r.tid fun th =>
      { th with pend := th.pend.map fun p => if p.id == r.pend then { p with words := (r.out ++ [word]).map some } else p }
    exec (.roprResult rid) s = .next (wake { s1 with rus := s.rus.filter fun x => x.id != rid })) ∧
  ∀ (id : Nat) (s : State) (r : RdefOp), s.rdefs.find? (fun r => r.id == id) = some r →
    (∀ x ∈ s.rus, x.cxid = r.cxid → x.slot = r.slot → x.id < r.id → x.applied = true) →
    (∀ x ∈ s.rdefs, x.cxid = r.cxid → x.slot = r.slot → r.id ≤ x.id) → ∃ t, exec (.rdefComplete id) s = .next (wake t) ∧
      t = { s with ctxs := t.ctxs, groups := t.groups, blocks := t.blocks, rdefs := s.rdefs.filter fun x => x.id != id } ∧
      t.ctxs = (s.ctxs.map fun c => if c.cxid ≠ r.cxid then c else if r.status = 0 then { c with rops := assocSet r.slot r.defn c.rops }
        else if r.status = 1 then { c with rops := assocDel r.slot c.rops } else c) ∧
      (∀ n, n ≠ r.gid → t.grp? n = s.grp? n) ∧
      ∀ g, s.grp? r.gid = some g → ∃ g', t.grp? r.gid = some g' ∧ g' = { g with threads := g'.threads } ∧
        ∀ k, g'.thr k = { g.thr k with pend := (g.thr k).pend.map fun p =>
          if (k, p.id) ∈ r.dst then { p with words := [some r.status] } else p }

/-- R91, R94, R273, R414, R432 to R434: the pieces of one execution to one line that nothing holds take a token for each
sector and one permit of their slice and leave together, or a piece is served from a copy in its L1; a remote update takes its
granule's tokens and a permit and leaves after those of lower lanes; the slice refuses a request with a hint, after which it waits
8 clk for each unit, or serves a piece from a line it holds, or sends it on; the reply answers it. -/
def Obligations.requestEvents : Prop :=
  (∀ (id : Nat) (s : State) (r : Req), s.reqs.find? (fun r => r.id == id) = some r → r.stage = .waiting →
    heldBehind s r = false →
    (l1Hit s r = true → exec (.requestAdmission id) s = .next (if mayPerform s r then perform s r else s)) ∧
    (l1Hit s r = false →
      let goes (x : Req) : Prop := r.mate x = true ∧ x.stage = .waiting ∧ heldBehind s x = false
      ∃ sectors : List Nat, sectors.Nodup ∧ (∀ k, k ∈ sectors ↔ ∃ x ∈ s.reqs, goes x ∧ x.off / 32 = k) ∧
        (hasTokens s r.cxid sectors.length = true → permits s r.core ((r.home s).getD 0) < 6 →
          ∃ t, exec (.requestAdmission id) s = .next t ∧
            t = { s with
              reqs := t.reqs
              ctxs := s.ctxs.map fun x =>
                if (payers s r.cxid).contains x.cxid then { x with tokens := x.tokens - 64 * sectors.length } else x } ∧
            t.reqs.length = s.reqs.length ∧ ∀ (k : Nat) (x y : Req), s.reqs[k]? = some x → t.reqs[k]? = some y →
              ((∃ z ∈ s.reqs, goes z ∧ z.id = x.id) → y = { x with stage := .sent, admittedAt := s.ref252 }) ∧
              ((∀ z ∈ s.reqs, goes z → z.id ≠ x.id) → y = x)))) ∧
  (∀ (id hint : Nat) (s : State) (r : Req), s.reqs.find? (fun r => r.id == id) = some r → r.stage = .sent → behindRefused s r = false →
    (1 ≤ hint → hint ≤ 15 → r.refusals < 16 → exec (.sliceRequestAdmit id hint) s = .next { s with
      reqs := s.reqs.map fun x =>
        if (r.mate x ∧ x.stage = .sent) then { x with stage := .refused s.clk hint, refusals := x.refusals + 1 } else x }) ∧
    ((hint = 0 ∨ 16 ≤ r.refusals) → mayPerform s r = true → ∀ b, s.buf? r.b = some b →
      (b.kind = .peer → exec (.sliceRequestAdmit id hint) s = .next { s with
        nextId := s.nextId + 1
        reqs := s.reqs.map fun x => if x.id == id then { x with arrived := s.nextId, stage := .port } else x }) ∧
      (b.kind ≠ .peer → (∃ l ∈ s.l2, l.b = r.b ∧ l.line = r.off / 128 ∧ l.tag = r.owner) →
        exec (.sliceRequestAdmit id hint) s = .next (perform s r)) ∧
      (b.kind ≠ .peer → (∀ l ∈ s.l2, ¬(l.b = r.b ∧ l.line = r.off / 128 ∧ l.tag = r.owner)) →
        exec (.sliceRequestAdmit id hint) s = .next { s with
          nextId := s.nextId + 1
          reqs := s.reqs.map fun x => if x.id == id then { x with
            arrived := s.nextId, stage := if b.kind = .hbm then .chan else .port } else x }))) ∧
  (∀ (id : Nat) (s : State) (r : RuReq), (∀ x ∈ s.reqs, x.id ≠ id) → s.ru? id = some r →
    (r.sent = false → (∀ x ∈ s.rus, x.op = r.op → x.id < r.id → x.sent = true) → hasTokens s r.cxid (ruTokens r.defn) = true →
      permits s r.core (ruSlice s r) < 6 → exec (.requestAdmission id) s = .next { s with
        ctxs := s.ctxs.map fun x =>
          if (payers s r.cxid).contains x.cxid then { x with tokens := x.tokens - 64 * ruTokens r.defn } else x
        rus := s.rus.map fun x => if x.id == r.id then { x with sent := true } else x }) ∧
    (r.sent = true → r.admitted = false → r.refused = none → r.refusals < 16 → ∀ hint, 1 ≤ hint → hint ≤ 15 →
      exec (.sliceRequestAdmit id hint) s = .next { s with
        rus := s.rus.map fun x => if x.id == id then { x with refused := some (s.clk, hint), refusals := x.refusals + 1 } else x }) ∧
    ∀ since hint, r.refused = some (since, hint) → since + 8 * hint ≤ s.clk → exec (.requestRetry id) s =
      .next { s with rus := s.rus.map fun x => if x.id == id then { x with refused := none } else x }) ∧
  (∀ (id since hint : Nat) (s : State) (r : Req), s.reqs.find? (fun r => r.id == id) = some r →
    r.stage = .refused since hint → since + 8 * hint ≤ s.clk → exec (.requestRetry id) s = .next { s with
      reqs := s.reqs.map fun x => if (r.mate x ∧ x.stage = r.stage) then { x with stage := .sent } else x }) ∧
  (∀ (id : Nat) (s : State) (r : Req), s.reqs.find? (fun r => r.id == id) = some r →
    (r.stage = .done → exec (.memoryReply id) s = .next (reply s r)) ∧
    (r.stage = .port → mayPerform s r = true → outOfTime s r = false → ∃ r1, r1.id = id ∧ r1.performed = true ∧ exec (.memoryReply id) s =
      .next (reply (if r.blk.isNone && !isPeer s r.b then fillL2 (perform s r) r.cxid r.b r.off r.owner else perform s r) r1)) ∧
    (∀ g, r.stage = .done → s.grp? r.gid = some g → r.kind = .load → r.bad = none → exec (.memoryReply id) s =
      .next (wake (State.updThr { s with reqs := s.reqs.filter fun x => x.id != id } r.gid r.tid fun th =>
        { th with pend := th.pend.map fun p => if p.id == r.pend then { p with words := replyWords r p.words } else p }))))

/-- R91 to R93, R371, R395, R419, R424, R425, R427, R430, R448: a channel performs an access and counts the row; a load reads the
bytes of memory, which only a relaxed one may find as they were before some newest writes, a store writes them, an atomic does
both, poison that is read fails it and a store of a whole atom clears it, and an access whose frame has passed to an owner that
does not open it fails; counts, holds, patrol reads,
timeouts, erasures and L1 fusion have the effect the rules give. -/
def Obligations.memorySystemEvents : Prop :=
  (∀ (id bank : Nat) (ecc : Bool) (s : State) (r : Req) (b : Buf) (a : Nat), s.reqs.find? (fun r => r.id == id) = some r →
    s.buf? r.b = some b → place b r.off = some a → r.stage = .chan → mayPerform s r = true → bank % 16 = bankOf a →
    heldBank s (chanOf b r.off) (bank % 16) (tenant s r.cxid) = false →
    (addrExists a = false ∨ chanBytes ≤ a - chanOf b r.off * chanBytes →
      exec (.channelAccess id bank ecc) s = .fault .noSuchAddress) ∧
    (addrExists a = true → a - chanOf b r.off * chanBytes < chanBytes →
      let s1 := activate s (chanOf b r.off) (bank % 16) (a % chanBytes / 1024) (tenant s r.cxid)
      exec (.channelAccess id bank ecc) s =
        .next (fillL2 (perform (if ecc then poisonAtom s1 (a / 32) else s1) r) r.cxid r.b r.off r.owner))) ∧
  (∀ (id : Nat) (s : State) (r : Req), s.reqs.find? (fun x => x.id == r.id) = some r → r.id = id → r.blk = none →
    isPeer s r.b = false → erasing s r.b r.off = false →
    (reaches s r.b r.off r.cxid r.opens = false → perform s r = wake { s with
      reqs := s.reqs.map fun x => if x.id == id then Req.done 0 (some .protection) x else x }) ∧
    (reaches s r.b r.off r.cxid r.opens = true → ∃ t, perform s r = wake t ∧
      (r.kind = .load → t.mem = s.mem ∧ ∀ x ∈ t.reqs, x.id = id → x.performed = true ∧ x.stage = .done ∧
        (s.poisoned r.b r.off r.size = true → x.bad = some .uncorrectable) ∧
        (s.poisoned r.b r.off r.size = false → x.bad = none) ∧
        (∃ k, x.val = mergeFwd r (readBefore s r.loc k (s.readBuf r.b r.off r.size)).1) ∧
        (r.ord ≠ 0 → x.val = mergeFwd r (s.readBuf r.b r.off r.size))) ∧
      (r.kind = .store → let s1 := if wholeAtom s r then clearAtom s r.b r.off else s
        t.mem = (s1.writeMem r.b r.off (leBytes r.size r.data.toNat)).mem ∧
        ∀ x ∈ t.reqs, x.id = id → x.performed = true ∧ x.stage = .done ∧ x.bad = none) ∧
      ∀ op y z w, r.kind = .rmw op y z → s.poisoned r.b r.off r.size = false →
        rmwNew op r.size (BitVec.ofNat 64 (leNat (s.readBuf r.b r.off r.size))) y z = some w →
        t.mem = (s.writeMem r.b r.off (leBytes r.size w.toNat)).mem ∧ ∀ x ∈ t.reqs, x.id = id →
          x.performed = true ∧ x.bad = none ∧ x.val = BitVec.ofNat 64 (leNat (s.readBuf r.b r.off r.size)))) ∧
  (∀ (ch bank cx : Nat) (s : State),
    (∃ t, exec (.hrowWindowEnd ch) s = .next t ∧ t = { s with rows := t.rows } ∧
      ∀ x, x ∈ t.rows ↔ x ∈ s.rows ∧ (x.ch = ch → s.clk / 2 ^ 25 ≤ x.win)) ∧
    ∃ t, exec (.hrowHoldEnd ch bank cx) s = .next t ∧ t = { s with holds := t.holds } ∧
      ∀ h, h ∈ t.holds ↔ h ∈ s.holds ∧ ¬(h.ch = ch ∧ h.bank = bank ∧ h.tenant = cx ∧ h.til ≤ s.clk)) ∧
  (∀ (ch atom : Nat) (s : State),
    (256 ≤ ch ∨ 0x60000000 / 32 ≤ atom → ∀ ecc, exec (.patrolRead ch atom ecc) s = .fault .noSuchAddress) ∧
    (s.service ≠ .full → 128 ≤ ch → ch < 256 → atom < 0x60000000 / 32 → ∀ ecc, exec (.patrolRead ch atom ecc) s = .next s) ∧
    (ch < 128 ∨ (s.service = .full ∧ ch < 256) → atom < 0x60000000 / 32 → exec (.patrolRead ch atom false) s = .next s ∧
      ∃ t, exec (.patrolRead ch atom true) s = .next t ∧ t = { s with poison := t.poison, errs := t.errs } ∧
        ∀ k, k ∈ t.poison ↔ k ∈ s.poison ∨ 32 * k = 0x60000000 * ch + 32 * atom)) ∧
  (∀ (id : Nat) (s : State) (r : Req) (b : Buf), s.reqs.find? (fun r => r.id == id) = some r → r.stage = .port →
    r.blk = none → s.buf? r.b = some b → r.admittedAt + 62500 * 252 ≤ s.ref252 →
    (b.kind = .cxl → r.kind ≠ .store → exec (.cxlTimeout id) s = .next (wake { s with reqs := s.reqs.map fun x =>
      if x.id == id then { x with performed := true, stage := .done, bad := some .uncorrectable } else x })) ∧
    (b.kind = .cxl → r.kind = .store → exec (.cxlTimeout id) s = .next (wake { s with
      reports := s.reports ++ [2]
      reqs := s.reqs.map fun x => if x.id == id then { x with performed := true, stage := .done, bad := none } else x })) ∧
    (b.kind = .peer → exec (.linkTimeout id) s = .next (wake { s with reqs := s.reqs.map fun x =>
      if x.id == id then { x with performed := true, stage := .done, bad := some .peerAbsent } else x }))) ∧
  (∀ (blk : Nat) (s : State) (k : FlashBlk), k ∈ s.flash → k.blk = blk → k.erasing = true →
    ∃ t, exec (.flashEraseComplete blk) s = .next t ∧
      t = { s with answer := t.answer, mem := t.mem, poison := t.poison, l1 := t.l1, l2 := t.l2, flash := t.flash, hist := t.hist } ∧
      (t.flash = s.flash.map fun k =>
        if k.blk == blk then { k with erasing := false, wp := 0, count := k.count + 1 } else k) ∧
      (∀ a, Memory.get t.mem a = if 2 ^ 60 + blk * 2 ^ 20 ≤ a ∧ a < 2 ^ 60 + (blk + 1) * 2 ^ 20 then 0 else Memory.get s.mem a) ∧
      t.answer = if ∃ k ∈ s.flash, k.erasing = true ∧ k.blk ≠ blk then s.answer else [0]) ∧
  ∀ (clu : Nat) (s : State), fusable s clu ≠ s.fused.contains clu → ∃ t, exec (.l1FusionChange clu) s = .next t ∧
    t = { s with fused := t.fused, l1 := t.l1 } ∧ (∀ c, c ∈ t.l1 ↔ c ∈ s.l1 ∧ c.core / 4 ≠ clu) ∧
    ∀ k, k ∈ t.fused ↔ (k = clu ∧ fusable s clu = true) ∨ (k ∈ s.fused ∧ k ≠ clu)

/-- R391 to R393, R412, R441 to R444, R450: a function-level reset kills the function's subtree towards its parent, once no operation of
the subtree is at the context engine, and puts a locked or running interface into ERROR; its end, once nothing writes for the
subtree, gives the function a new context; VF Enable makes contexts and its clearing
resets the functions; a write to a locked frozen set ends in ERROR; the TDISP requests move between their states, and any
other request is an error response; a write to the SR-IOV capability ends every locked or running interface; an integrity
failure ends the interfaces of its stream; a report carries the digest of the firmware image or of what was locked. -/
def Obligations.virtualFunctionEvents : Prop :=
  (∀ (n : Nat) (s : State), s.vfEnable = true → n < 384 → ∃ t, exec (.flr n) s = .next t ∧
    (t.vfAt n).flr ≠ none ∧
    ((t.vfAt n).tdi = if (s.vfAt n).tdi = .locked ∨ (s.vfAt n).tdi = .run then .error else (s.vfAt n).tdi) ∧
    ((s.vfAt n).cxid = none → (t.vfAt n).cxid = none) ∧
    ∀ k x, (s.vfAt n).cxid = some k → s.ctx? k = some x →
      (engineBusy s (inSubtree s x.cxid) = true → (t.vfAt n).cxid = some k ∧ t = { s with vfs := t.vfs }) ∧
      (engineBusy s (inSubtree s x.cxid) = false → (t.vfAt n).cxid = none ∧ (x.state ≠ .killed →
        (t.vfAt n).flr = some ((subtree s x.cxid).map Ctx.cxid) ∧
        ∀ c ∈ (subtree s x.cxid).map Ctx.cxid,
          (∀ y ∈ t.ctxs, y.cxid = c → y.state = .killed ∧ y.runset = 0 ∧ y.queues = []) ∧
          (∀ g ∈ t.groups, g.cxid ≠ c) ∧ (∀ g ∈ t.grids, g.cxid ≠ c) ∧ ∀ b ∈ t.blocks, b.cxid ≠ c))) ∧
  (∀ (n : Nat) (s : State) (gone : List Nat), (s.vfAt n).flr = some gone →
    ((s.vfAt n).cxid ≠ none → exec (.flrComplete n) s = .next (flrStop s n)) ∧
    ((s.vfAt n).cxid = none → stillWrites s gone = true → exec (.flrComplete n) s = .next s) ∧
    ((s.vfAt n).cxid = none → (∀ r ∈ s.rus, r.cxid ∈ gone → r.applied = true) →
      (∀ r ∈ s.reqs, r.cxid ∈ gone → r.blk = none → r.performed = true) → ∃ t, exec (.flrComplete n) s = .next t ∧
      t = { s with ctxs := t.ctxs, vfs := t.vfs, vfEnable := t.vfEnable, vfClearing := t.vfClearing } ∧
      (t.vfAt n).flr = none ∧ (s.vfClearing = false → t.vfEnable = s.vfEnable) ∧
      (s.vfClearing = true → (∀ v ∈ t.vfs, v.flr = none) → t.vfEnable = false ∧ t.vfClearing = false) ∧
      ∀ p k i, vfPart s n = some p → freeCxid s = some k → s.ctx? p.cxid = some i → i.state ≠ .killed →
        let x : Ctx := { cxid := k, parent := p.cxid, level := 2, state := .created, nq := p.vfnq, qbud := p.vfnq
                         tokens := bucketCap 0, vf := some n }
        newBudget s i x = none → (t.vfAt n).cxid = some k ∧ t.ctxs = s.ctxs ++ [x])) ∧
  (∀ s : State, (s.vfEnable = false → s.service ≠ .recovery → exec .vfEnableSet s =
      .next { ((s.parts.flatMap fun p => (List.range p.vfcnt).map fun i => p.vffirst + i).foldl
        (fun s n => if (s.vfAt n).cxid.isSome then s else newVfCtx s n) s) with vfEnable := true }) ∧
    (s.vfEnable = true → exec .vfEnableSet s = .next s) ∧
    (s.vfEnable = false → exec .vfEnableClear s = .next s) ∧
    (s.vfEnable = true → ∃ t, t = ((s.vfs.filter fun v =>
        v.cxid.isSome || v.tdi != .unlocked || v.flr.isSome).map Vf.n).foldl startFlr s ∧
      exec .vfEnableClear s = .next (if t.vfs.all fun v => v.flr.isNone then { t with vfEnable := false }
        else { t with vfClearing := true }))) ∧
  (∀ (n off : Nat) (w : Word) (s : State), s.service ≠ .recovery →
    (s.vfEnable = true → n < 384 → let v := s.vfAt n
      let s1 := s.setVf { v with regs := assocSet off w v.regs }
      (v.tdi = .unlocked → exec (.frozenSetWrite (n + 1) off w) s = .next s1) ∧
      (v.tdi = .locked ∨ v.tdi = .run → exec (.frozenSetWrite (n + 1) off w) s = .next (startFlr s1 n)) ∧
      (v.tdi = .error → exec (.frozenSetWrite (n + 1) off w) s = .next s)) ∧
    (off ≠ 8 → exec (.frozenSetWrite 0 off w) s =
      .next (((s.vfs.filter fun v => v.tdi == .locked || v.tdi == .run).map Vf.n).foldl startFlr { s with
        hostif := { s.hostif with sriov := assocSet off w s.hostif.sriov } }))) ∧
  (∀ (n stream : Nat) (dbg : Bool) (s : State), s.service ≠ .recovery → let v := s.vfAt n
    let no : Host.Outcome State Fault Refusal := .next { s with spdm := [1] }
    let yes (v : Vf) : Host.Outcome State Fault Refusal := .next { s.setVf v with spdm := [0] }
    (s.vfEnable = true → n < 384 → stream < 64 → v.tdi = .unlocked →
      (v.flr = none → exec (.lockInterfaceRequest n stream dbg) s =
        yes { v with tdi := .locked, stream := stream, dbg := dbg, frozen := frozenSet s n }) ∧
      (v.flr ≠ none → exec (.lockInterfaceRequest n stream dbg) s = .next s)) ∧
    (v.tdi ≠ .unlocked → exec (.lockInterfaceRequest n stream dbg) s = no) ∧
    (v.tdi = .locked → exec (.startInterfaceRequest n) s = yes { v with tdi := .run }) ∧
    (v.tdi ≠ .locked → exec (.startInterfaceRequest n) s = no) ∧
    (v.tdi ≠ .unlocked → v.flr = none → exec (.stopInterfaceRequest n) s = yes { v with tdi := .unlocked, dbg := false }) ∧
    (v.tdi = .unlocked → exec (.stopInterfaceRequest n) s = no) ∧
    (v.tdi = .locked ∨ v.tdi = .run → ∃ w, w ≠ [] ∧ exec (.getDeviceInterfaceReport n) s = .next { s with
      spdm := 0 :: w ++ sha384 (measurement s ++ v.frozen.flatMap fun e => [BitVec.ofNat 32 e.1, e.2]) }) ∧
    (v.tdi = .unlocked ∨ v.tdi = .error → exec (.getDeviceInterfaceReport n) s = no)) ∧
  ∀ (stream : Nat) (s : State),
    exec (.ideIntegrityFailure stream) s =
      .next (((s.vfs.filter fun v => (v.tdi == .locked || v.tdi == .run) && v.stream == stream).map Vf.n).foldl startFlr s) ∧
    (s.service ≠ .recovery → ∃ w, w.length = 844 ∧
      exec .spdmAttestationRequest s = .next { s with spdm := 0 :: sha384 s.hostif.image.body ++ w, free := s.free + 1 }) ∧
    (s.service = .recovery → exec .spdmAttestationRequest s = .next { s with free := s.free + 1 })

/-- R10, R94, R402, R435, R438, R439, R441, R446 to R449, R451, R453: writes to the MSI-X table mask and unmask, and an unmasked
pending message is sent; W1C bits of a kick page clear; a request with the T bit is taken only in RUN and on the bound stream;
host and peer accesses are performed at the point of coherence, a peer's checked as those of its entry's context, and answered; a
link carries traffic once its peer has verified, and one that goes down answers PEER_ABSENT; a cold reset leaves the reset
state, with flash, fuses and the memory behind CXL, and runs an image that both signatures and the rollback counter allow; the clock steps between 0.625 GHz and its top; a thermal stop and a bridge
failure stop every context without save, and what their commits have sent to memory is still performed. -/
def Obligations.boardEvents : Prop :=
  (∀ (fn vec : Nat) (s : State), s.service ≠ .recovery → vec < 2048 →
    (fn = 0 ∨ (fn ≤ 384 ∧ s.vfEnable = true ∧ (s.vfAt (fn - 1)).tdi = .unlocked)) →
    let old := s.msix.find? fun m => m.fn == fn && m.vec == vec
    let rest := s.msix.filter fun m => !(m.fn == fn && m.vec == vec)
    let pba := (old.map Msix.pba).getD false
    let masks (i : Instr) (masked : Bool) : Prop := exec i s = .next { s with
      msix := ⟨fn, vec, masked, masked && pba⟩ :: rest
      irqs := if !masked && pba then (fn, vec) :: s.irqs else s.irqs }
    masks (.msixUnmask ⟨fn, none⟩ vec) false ∧ ∀ val : Word, masks (.registerWrite ⟨fn, none⟩ 0 (16 * vec + 12) val) (val.getLsbD 0) ∧
      ∀ off, off < 0x8000 → off % 4 = 0 → off % 16 ≠ 12 → exec (.registerWrite ⟨fn, none⟩ 0 off val) s =
        .next { s with mmio := (fn, off, val) :: s.mmio.filter fun e => !(e.1 == fn && e.2.1 == off) }) ∧
  (∀ (fn off : Nat) (val : Word) (tee : Option Nat) (s : State), s.service ≠ .recovery →
    (∀ st, tee = some st → fn ≠ 0 ∧ (s.vfAt (fn - 1)).tdi = .run ∧ (s.vfAt (fn - 1)).stream = st) → let page := if fn = 0 then off / 4096 else 31 + fn
    off < (if fn = 0 then 131072 else 4096) →
    (fn = 0 ∨ (fn ≤ 384 ∧ s.vfEnable = true ∧ (s.vfAt (fn - 1)).tdi ≠ .error)) → pageCtx s page ≠ none → off % 4 = 0 →
    (0x400 ≤ off % 4096 → off % 4096 < 0x500 → let k := s.kick page ((off % 4096 - 0x400) / 4)
      exec (.registerWrite ⟨fn, tee⟩ 2 off val) s =
        .next (s.setKick { k with ovf := k.ovf && !val.getLsbD 30, bad := k.bad && !val.getLsbD 29 })) ∧
    (off % 4096 = 0x600 → exec (.registerWrite ⟨fn, tee⟩ 2 off val) s =
      .next (if val.getLsbD 4 then { s with kerr := s.kerr.filter fun k => k != page } else s))) ∧
  (∀ (fn bar off st : Nat) (val : Word) (s : State),
    (fn = 0 ∨ (s.vfAt (fn - 1)).tdi ≠ .run ∨ (s.vfAt (fn - 1)).stream ≠ st) → exec (.registerWrite ⟨fn, some st⟩ bar off val) s = .next s) ∧
  (∀ (b off : Nat) (data : DWord) (s : State) (x : Buf), s.buf? b = some x → off % 8 = 0 → off + 8 ≤ x.size * 65536 →
    x.kind ≠ .peer → s.service ≠ .recovery →
    (s.poisoned b off 8 = false → erasing s b off = false → exec (.hostMemoryAccess b off false data) s =
      .next (answerPort { firstAccess s b off with free := s.free + 1 } none 0 (s.readBuf b off 8))) ∧
    (x.kind ≠ .flash → exec (.hostMemoryAccess b off true data) s =
      .next (wake (answerPort ((firstAccess s b off).writeMem b off (leBytes 8 data.toNat) outsideBy) none 0 [])))) ∧
  (∀ (port b off n : Nat) (need : Need) (op : PeerOp) (data : List Byte) (s : State), (∃ l ∈ s.links, l.port = port ∧ l.up = true) →
    peerShape off data op = some (n, need) →
    ((∀ e ∈ s.ingress, ¬(e.port = port ∧ e.b = b)) → exec (.peerRequest port b off op data) s = .next (answerPort s (some port) 0x05 [])) ∧
    ∀ e, s.ingress.find? (fun e => e.port == port && e.b == b) = some e →
      (permit s e.cxid (e.ent s off) off n need ≠ none → exec (.peerRequest port b off op data) s = .next (answerPort s (some port) 0x05 [])) ∧
      (permit s e.cxid (e.ent s off) off n need = none →
        let s1 := firstAccess s b off
        (op = .read n → s.poisoned b off n = false → erasing s b off = false → exec (.peerRequest port b off op data) s =
          .next (answerPort { s1 with free := s.free + 1 } (some port) 0 (s1.readBuf b off n))) ∧
        (op = .write → exec (.peerRequest port b off op data) s =
          .next (wake (answerPort (s1.writeAtoms b off outsideBy (atoms data)) (some port) 0 []))) ∧
        (∀ k x y w, op = .atomic k n x y → s.poisoned b off n = false →
          rmwNew k n (BitVec.ofNat 64 (leNat (s1.readBuf b off n))) x y = some w → exec (.peerRequest port b off op data) s =
            .next (wake (answerPort (s1.writeMem b off (leBytes n w.toNat) { outsideBy with rmw := true }) (some port) 0 (s1.readBuf b off n)))) ∧
        ∀ d pay, op = .remote d pay → let r := peerUpdate s e off d pay
          (∀ x ∈ s.rus, ruHolds x r = false) → let done := ruApplication (r.places'.foldl (fun s p => firstAccess s p.1 p.2) s) r
          ∃ t, exec (.peerRequest port b off op data) s = .next t ∧ t.mem = done.s.mem ∧ t.hostif.ans = some {
            port := some port, code := done.cause
            data := wordsBytes (done.out ++ [BitVec.ofNat 32 (done.fmask * 2 ^ 16 + done.cause * 2 ^ 8 + (if done.wr then 1 else 0))]) })) ∧
  (∀ (port : Nat) (verified : Bool) (s : State),
    ((s.service = .full ∧ port < 16) ∨ (s.service = .chrysalis ∧ port < 8) → exec (.linkUp port verified) s =
      .next { s with links := ⟨port, verified, verified⟩ :: s.links.filter fun l => l.port != port }) ∧
    ∃ t, exec (.linkDown port) s = .next t ∧ t.mem = s.mem ∧ (∀ l ∈ t.links, l.port = port → l.up = false) ∧
      (∀ r ∈ s.reqs, r.blk = none → r.stage = .port → behind s port r.b = true →
        ∀ x ∈ t.reqs, x.id = r.id → x.performed = true ∧ x.stage = .done ∧ x.bad = some .peerAbsent) ∧
      ∀ r ∈ s.rus, r.admitted = true → r.applied = false → behind s port r.b = true →
        ∀ x ∈ t.rus, x.id = r.id → x.cause = 0x0D ∧ (∀ l ∈ x.lines, l = none) ∧ x.fmask = 2 ^ ruLines x.defn - 1) ∧
  (∀ (s : State) (img : FwImage), let f := s.hostif.fuses
    let ok := Config.verifies 0 f.ed img.body img.ed && Config.verifies 1 f.mldsa img.body img.mldsa && decide (f.rollback ≤ img.version)
    let cold : State := { State.reset with
      service := if ok then .chrysalis else .recovery, free := s.free, agenda := s.agenda
      hostif := { fuses := f, image := if ok then img else {} }
      mem := s.mem.filter fun c => decide (2 ^ 60 ≤ c.1)
      poison := s.poison.filter fun p => decide (2 ^ 60 ≤ 32 * p)
      flash := s.flash.map fun k => { k with erasing := false } }
    exec (.coldReset img) s = .next cold ∧
    (s.service = .recovery → exec (.recoveryImage img) s = .next (if ok then cold else s)) ∧
    (s.service ≠ .recovery → exec (.recoveryImage img) s = .next s)) ∧
  ∀ s : State, let top := if s.service = .full then 10 else 5
    (s.freq ≤ top → exec (.thermalThrottle true) s = .next { s with freq := if s.freq < top then s.freq + 1 else s.freq }) ∧
    exec (.thermalThrottle false) s = .next { s with freq := if 5 < s.freq then s.freq - 1 else s.freq } ∧
    let stops (i : Instr) (code : Nat) : Prop := ∃ t, exec i s = .next t ∧ t.groups = [] ∧ t.blocks = [] ∧ t.grids = [] ∧
      (∀ r ∈ t.reqs, r ∈ s.reqs ∧ r.stands = true) ∧ t.bts = [] ∧ t.mxs = [] ∧ t.msgs = [] ∧ t.traps = [] ∧ t.recs = [] ∧ t.mem = s.mem ∧
      t.reports = s.reports ++ [code] ∧ t.ctxs.map Ctx.cxid = s.ctxs.map Ctx.cxid ∧
      ∀ x ∈ t.ctxs, x.state = .stopped ∨ x.state = .created ∨ x.state = .killed
    (s.freq ≤ 5 → stops .thermalStop 5) ∧ (s.service = .full → stops .bridgeFailure 4)

/-- R338, R346 to R353, R356, R359, R368, R369, R385, R395, R409 to R411, R419, R427, R440, R447, R450, R452: a mailbox command
outside recovery and outside an erase performs its effect and answers DONE; one that breaks a rule answers REFUSED, one that
comes too early BUSY, and neither changes anything else; a context command answers with the engine's code and value, a KILL
or a REVOKE without save only once no operation of the groups it takes is at the engine; GO runs the command that the command
area holds, and an unknown code answers UNKNOWN. -/
def Obligations.mailboxCommands : Prop := ∀ s : State, s.service ≠ .recovery → (∀ b ∈ s.flash, b.erasing = false) → s.hostif.go = false →
  let answers (i : Instr) (w : Nat) (t : State) : Prop := exec i s = .next { t with answer := [BitVec.ofNat 32 w] }
  (∀ (i : Ctx) (child : Nat) (kind deadline : Word) (r : List Word), s.ctx? 0 = some i →
    ∀ x ∈ [(Instr.rootCtxNew r, ctxNew s i r, false), (.rootCtxRun child r, ctxRun s i child r, false),
        (.rootCtxStop child kind deadline, ctxStop s i child kind.toNat deadline.toNat, false),
        (.rootCtxGrant child r, ctxGrant s i child r, false),
        (.rootCtxRevoke child r, ctxRevoke s i child r, stopWaits s 0 child (bitOf (wAt r 6) 17)),
        (.rootCtxKill child, ctxKill s i child, stopWaits s 0 child true), (.rootCtxStat child, ctxStat s i child, false)],
      let a : CtxAns := x.2.1
      let w : Word := BitVec.ofNat 32 (a.value * 2 ^ 16 + a.code * 2 ^ 8 + (if a.code = 0 then 0 else 0x40))
      exec x.1 s = if x.2.2 then .next s else .next { a.st with answer := w :: a.image }) ∧
  (∀ (seq : Nat) (pc : DWord) (fin : Bool) (r : TrapRec), s.recs.find? (fun r => r.dest == 0 && r.seq == seq) = some r →
    (fin = true ∨ r.trap.async = true ∨ r.trap.cocoon = true ∨ r.trap.fatal = true ∨ (pc.toNat % 4 = 0 ∧ canonical pc = true) →
      answers (.trapretCommand seq pc fin) 0 (wake (unbind (trapReturn s r fin pc) 0 seq))) ∧
    (fin = false → r.trap.async = false → r.trap.cocoon = false → r.trap.fatal = false → s.grp? r.trap.gid ≠ none →
      pc.toNat % 4 ≠ 0 ∨ canonical pc = false → answers (.trapretCommand seq pc fin) 0x40 s)) ∧
  (∀ (seq : Nat) (pc : DWord) (fin : Bool), (∀ r ∈ s.recs, ¬(r.dest = 0 ∧ r.seq = seq)) →
    answers (.trapretCommand seq pc fin) 0x40 s) ∧
  (∀ val : DWord, let b := s.buf? (val.toNat / 2 ^ 44)
    (val.toNat % 4096 = 0 → b ≠ none → answers (.writePtroot val) 0 { s with
      ctxs := s.ctxs.map fun c => if c.cxid == 0 then { c with ptroot := val } else c }) ∧
    (val.toNat % 4096 ≠ 0 ∨ b = none → answers (.writePtroot val) 0x40 s)) ∧
  (∀ (idx : Nat) (r : List Word), let b := bufOf idx r
    let valid := bitOf (wAt r 0) 31
    let quiet := (∀ x ∈ s.reqs, x.blk = none → x.performed = true) ∧ (∀ x ∈ s.rus, x.applied = true) ∧ s.ctxops = []
    let fits := bufReserved r b = false ∧ bufAbsent s b = false ∧ cxlFull s b = false ∧ ∀ x ∈ s.bufs, x.idx ≠ idx → bufOverlap x b = false
    let free := ∀ f ∈ s.frames, f.b = idx → f.st = .clean ∨ f.owner = 0
    (idx < 2 ^ 20 → (valid = true → fits) → free → quiet → answers (.writeBufferEntry idx r) 0 (wake (discardWhere { s with
      bufs := if valid then b :: s.bufs.filter fun x => x.idx != idx else s.bufs.filter fun x => x.idx != idx
      frames := if valid = true ∧ (b.kind = .hbm ∨ b.kind = .cxl) then s.frames else s.frames.filter fun f => f.b != idx
      tlb := [], walks := [], lastPages := []
      l1 := s.l1.filter fun c => c.b != idx
      l2 := s.l2.filter fun c => c.b != idx } fun y => y.glob))) ∧
    (2 ^ 20 ≤ idx ∨ (valid = true ∧ ¬fits) → answers (.writeBufferEntry idx r) 0x40 s) ∧
    (idx < 2 ^ 20 → (valid = true → fits) → ¬free → answers (.writeBufferEntry idx r) 0x41 s)) ∧
  (∀ (i : Nat) (r : List Word), let p := partOfRec i (s.part i) r
    let keeps := ∀ x, (s.part i).cxid ≠ 0 → s.ctx? (s.part i).cxid = some x → ∀ c < 192, x.cores.getLsbD c = true → p.clus.getLsbD (c / 4) = true
    let good := i < 20 ∧ keeps ∧ partBad s p r = false ∧ partAbsent s p = false ∧ ∀ x ∈ s.parts, x.i ≠ i → partOverlap x p = false
    let open_ := (s.part i).cxid = 0 ∨ ∃ x, s.ctx? (s.part i).cxid = some x ∧ x.state = .stopped
    (good → open_ → answers (.writePartitionRecord i r) 0 { s with parts := p :: s.parts.filter fun x => x.i != i }) ∧
    (¬good → answers (.writePartitionRecord i r) 0x40 s) ∧ (good → ¬open_ → answers (.writePartitionRecord i r) 0x41 s)) ∧
  (∀ first count : Nat, first + count ≤ 2 ^ 22 →
    (s.service ≠ .full → answers (.eraseFlashBlocks first count) 0x41 s) ∧
    (s.service = .full → 0 < count → ∃ t, exec (.eraseFlashBlocks first count) s = .next t ∧
      t = { s with answer := [], flash := t.flash } ∧
      (∀ k, first ≤ k → k < first + count → ∃ b ∈ t.flash, b.blk = k ∧ b.erasing = true) ∧
      ∀ b, ¬(first ≤ b.blk ∧ b.blk < first + count) → (b ∈ t.flash ↔ b ∈ s.flash))) ∧
  (∀ (ch : Nat) (val : Word), (ch < 128 ∨ (ch < 256 ∧ s.service = .full) → answers (.writeHrowCtl ch val) 0 { s with
      hrow := (ch, val.toNat / 2 ^ 20, val.toNat % 2 ^ 16) :: s.hrow.filter fun h => h.1 != ch }) ∧
    (256 ≤ ch → answers (.writeHrowCtl ch val) 0x40 s)) ∧
  (∀ n : Nat, (s.anyNew = false → answers (.setSaveRegionSize n) 0 { s with saveBytes := n }) ∧
    (s.anyNew = true → answers (.setSaveRegionSize n) 0x41 s)) ∧
  (∀ sel : Nat, ∃ w0 w1 w2 : Word, exec (.readErrorCounts sel) s = .next { s with answer := [0, w0, w1, w2], free := s.free + 1 } ∧
    (∀ k c u, s.errs.find? (fun e => e.1 == sel) = some (k, c, u) → w1 = BitVec.ofNat 32 u) ∧
    ∀ b, s.flash.find? (fun b => b.blk == sel) = some b → w2 = BitVec.ofNat 32 b.count) ∧
  ((s.service = .chrysalis → (∀ x ∈ s.ctxs, x.level = 0 ∨ (x.state ≠ .running ∧ x.state ≠ .stopping)) →
      answers .promote 0 { s with
        service := .full, freq := 10
        ctxs := s.ctxs.map fun c => if c.cxid == 0 then { c with runset := c.cores } else c }) ∧
    (s.service = .full → answers .promote 0x40 s)) ∧
  (∃ w, w.length = 844 ∧
    exec .getAttestationReport s = .next { s with answer := 0 :: sha384 s.hostif.image.body ++ w, free := s.free + 1 }) ∧
  (∀ r : List Word, let e := ingressOf r
    let rest := s.ingress.filter fun x => !(x.port == e.port && x.idx == e.idx)
    let good := bitsOf (wAt r 1) 20 12 = 0 ∧ anyWord r 2 6 = false ∧ portPresent s e.port = true ∧
      (∃ x, s.ctx? e.cxid = some x ∧ x.state ≠ .killed) ∧ portForeign s e.port e.cxid = false ∧ ∀ y ∈ rest, ¬(y.port = e.port ∧ y.b = e.b)
    (good → answers (.writeIngressEntry r) 0 { s with ingress := if bitOf (wAt r 0) 19 then e :: rest else rest }) ∧
    (¬good → answers (.writeIngressEntry r) 0x40 s)) ∧
  (∀ (k : Nat) (v : Word), k < 256 → exec (.registerWrite ⟨0, none⟩ 4 (4 * k) v) s =
    .next { s with hostif := { s.hostif with area := assocSet (4 * k) v s.hostif.area } }) ∧
  let w (k : Nat) : Word := (assoc (4 * k) s.hostif.area).getD 0
  let a (k : Nat) : Nat := (w k).toNat
  let d : DWord := pairOf (w 2) (w 3)
  let r := (List.range 32).map fun k => w (8 + k)
  (∀ x ∈ [(0x01, Instr.rootCtxNew r), (0x02, .rootCtxRun (a 1) r), (0x03, .rootCtxStop (a 1) (w 2) (w 3)), (0x04, .rootCtxGrant (a 1) r),
      (0x05, .rootCtxRevoke (a 1) r), (0x06, .rootCtxKill (a 1)), (0x07, .rootCtxStat (a 1)), (0x08, .trapretCommand (a 1) d ((w 4).getLsbD 0)),
      (0x09, .writePtroot d), (0x0A, .writeBufferEntry (a 1) r), (0x0B, .writePartitionRecord (a 1) r), (0x0C, .eraseFlashBlocks (a 1) (a 2)),
      (0x0D, .writeHrowCtl (a 1) (w 2)), (0x0E, .setSaveRegionSize d.toNat), (0x0F, .readErrorCounts (a 1)), (0x10, .promote),
      (0x11, .getAttestationReport), (0x12, .writeIngressEntry r)],
    a 0 = x.1 → ∀ t, exec x.2 { s with answer := [] } = .next t → t.answer ≠ [] →
      exec (.registerWrite ⟨0, none⟩ 4 0x800 1) s = .next t) ∧
  (a 0 = 0 ∨ 0x12 < a 0 → answers (.registerWrite ⟨0, none⟩ 4 0x800 1) 0x42 s)

/-- R63, R376, R396 to R398: a command outside a port's reach answers DENIED, one that names nothing live NOTARGET; ATTACH
takes the causes of its mask, DETACH gives them back, EVENT answers the oldest record, in its answer and the next ones; HALT stops threads with their regions
open, RESUME lets them run on, STEP issues one unit of the candidate path, RESTART sends a group to its frame; register commands
reach a stopped thread and wait for results in flight to the register, for 65,536 clk; a new PC opens a region there; memory
commands access memory as the context's threads do. -/
def Obligations.debugCommands : Prop := ∀ (s : State) (c : DbgCmd), portFree s c = true →
  let answers (i : Instr) (t : State) (st : Nat) (data : List Word) : Prop := ∃ w, w.length = 3 ∧
    let x : Word := BitVec.ofNat 32 (st * 2 ^ 24 + c.cls % 16 * 2 ^ 20 + c.cxid % 65536)
    exec i s = .next { t with dbgAnswer := x :: w ++ ((List.range 4).map fun i => data.getD i 0), dbgNext := [], dbgHold := none }
  (inReach s c = false → ∀ i ∈ [Instr.attach c, .detach c, .event c, .halt c, .resume c, .step c, .restart c, .rdreg c, .wrreg c,
    .rdmem c, .wrmem c], answers i s 4 []) ∧
  ∀ x, inReach s c = true → s.ctx? c.cxid = some x → x.state ≠ .killed →
    let others := s.attach.filter fun a => !(a.who == c.who && a.cxid == c.cxid)
    answers (.attach c) { s with
      attach := ⟨c.who, c.cxid, BitVec.ofNat 32 (c.addr.toNat % 2 ^ 26 / 2 * 2)⟩ :: others } 0 [] ∧
    answers (.detach c) { s with attach := others } 0 [] ∧
    ((∀ w ∈ s.dbgEvents, eventFor s c w = false) → answers (.event c) s 7 []) ∧
    (∀ w, s.dbgEvents.find? (eventFor s c) = some w → w.length = 16 → ∃ t, exec (.event c) s = .next t ∧
      t = { s with dbgEvents := s.dbgEvents.erase w, dbgAnswer := t.dbgAnswer, dbgNext := t.dbgNext, dbgHold := none } ∧
      t.dbgAnswer.drop 4 = w.take 4 ∧ t.dbgNext = [(w.drop 4).take 8, w.drop 12 ++ List.replicate 4 0]) ∧
    (namedGroup s c = none → ∀ i ∈ [Instr.halt c, .resume c, .step c, .restart c, .rdreg c, .wrreg c], answers i s 3 []) ∧
    (∀ g, namedGroup s c = some g →
      (¬(c.thr = 63 ∧ c.num = 0x1FF) → answers (.halt c) (haltGroup s g) 0 []) ∧
      (c.thr = 63 → c.num = 0x1FF → g.gr ≠ 0 →
        answers (.halt c) (((s.groups ++ s.blocks.flatMap fun b => b.saved.getD []).filter fun x => x.gr == g.gr).foldl haltGroup s) 0 []) ∧
      answers (.resume c) (s.updGrp g.gid fun g => { g with
        threads := g.threads.map fun th => { (if g.hold.isNone then th.reentered else th) with stopped := false, waited := 0 }
        hold := match g.hold with
          | some ⟨.debugger _, b⟩ => some ⟨.debugger true, b⟩
          | h => h }) 0 [] ∧
      (g.hold = none → answers (.restart c) ((endRun s g.gid).updGrp g.gid fun g => { g with hold := some ⟨.debugger false, false⟩ }) 0 []) ∧
      (g.hold = none → (steppable g ≠ []) → (∀ r ∈ s.runs, r.core = g.core → r.part = g.part → r.gid = g.gid) →
        ∃ t r, answers (.step c) { t with runs := t.runs ++ [r] } 0 [] ∧ r.single = true ∧ r.gid = g.gid ∧ r.core = g.core ∧
          r.part = g.part ∧ r.tids = g.pathOf (steppable g) ∧ r.off = 0 ∧ r.words = 0 ∧
          t = (stopThreads (endRun s g.gid) g.gid g.live).updGrp g.gid fun g =>
            { g.updThrs r.tids fun th => { th.reentered with stopped := false } with fper := fairPeriod s g.cxid }) ∧
      let there := c.thr < g.width ∧ (g.thr c.thr).exited = false
      (¬there → answers (.rdreg c) s 3 [] ∧ answers (.wrreg c) s 3 []) ∧
      (there → (g.thr c.thr).stopped = false → g.hold = none → answers (.rdreg c) s 2 [] ∧ answers (.wrreg c) s 2 []) ∧
      (there → (g.thr c.thr).stopped = true ∨ g.hold ≠ none →
        (regNamed g c = false → answers (.rdreg c) s 5 [] ∧ answers (.wrreg c) s 5 []) ∧
        (regNamed g c = true → holdOver s = true → answers (.rdreg c) s 1 [] ∧ answers (.wrreg c) s 1 []) ∧
        (regNamed g c = true → holdOver s = false → regPending g c = true →
          ∃ h, exec (.rdreg c) s = .next { s with dbgHold := some h } ∧ h.cmd = c) ∧
        (regNamed g c = true → holdOver s = false → regPending g c = false →
          answers (.rdreg c) { s with free := s.free + 1 } 0 (regRead s g c) ∧
          (c.cls = 0 → answers (.wrreg c) (s.updThr g.gid c.thr fun th => th.wrV c.num (c.data.getD 0 0)) 0 []) ∧
          (c.cls = 1 → answers (.wrreg c) (s.updGrp g.gid fun g => g.wrS (96 + c.num) (c.data.getD 0 0)) 0 []) ∧
          (c.cls = 2 → answers (.wrreg c) (s.updThr g.gid c.thr fun th => { th with p := (c.data.getD 0 0).setWidth 12 }) 0 []) ∧
          (c.cls = 3 → answers (.wrreg c) (wake (s.updGrp g.gid fun g => { g with m := g.m.set c.num (dAt c.data 0) })) 0 []) ∧
          (c.cls = 4 → answers (.wrreg c) ((commit s g.gid [c.thr] fun _ => dAt c.data 0).updThr g.gid c.thr fun th =>
            { th with pc := dAt c.data 0, guard := none }) 0 []) ∧
          (c.cls = 5 → answers (.wrreg c) (s.updThr g.gid c.thr fun th => { th with lr := dAt c.data 0 }) 0 []) ∧
          (c.cls = 6 → c.num = 0 → answers (.wrreg c) (s.updGrp g.gid fun g => { g with ms0 := msPut g.ms0 (dbgData c) }) 0 []) ∧
          (c.cls = 6 → c.num = 1 → answers (.wrreg c) (s.updGrp g.gid fun g => { g with ms1 := msPut g.ms1 (dbgData c) }) 0 [])))) ∧
    (∀ p, c.num ∈ [1, 2, 4, 8, 16] → dbgAccess s c .load = .ok p → ∃ x, answers (.rdmem c) { touch s p with free := s.free + 1 } 0
      ((List.range 4).map fun i => BitVec.ofNat 32 (x / 2 ^ (32 * i))) ∧
      (erasing s p.b p.off = false → x = leNat (s.readBuf p.b p.off c.num))) ∧
    (∀ p, c.num ∈ [1, 2, 4, 8, 16] → dbgAccess s c .store = .ok p → answers (.wrmem c)
      (wake ((touch s p).writeMem p.b p.off (leBytes c.num (dbgData c).toNat))) 0 []) ∧
    (∀ k, c.num ∈ [1, 2, 4, 8, 16] → dbgAccess s c .load = .error k → answers (.rdmem c) s 6 [BitVec.ofNat 32 k]) ∧
    ∀ h, s.dbgHold = some h → h.since + 65536 < s.clk → h.cmd = c → answers .debugHoldTimeout s 1 []

/-! ## The machine as a whole -/

/-- R131 to R155: every instruction that has a word is read back from its encoding with every operand, and a word that is no
encoding is named illegal. -/
def Obligations.encodedInstructionsDecode : Prop :=
  (∀ i : Instr, i.isWord = true → decode (encode i) = i) ∧
  (∀ w : Word, (decode w).isWord = true → encode (decode w) = w) ∧
  ∀ w : Word, (decode w).isWord = false → decode w = .illegalWord w

/-- R131 to R155: words of several families, written out from their encodings, decode to their instructions. -/
def Obligations.writtenWordsDecode : Prop :=
  decode 0b0000000_00_0000011_0000001_0000010_1_0 = .iadd ⟨0, 3, 1, 2, 1, 0⟩ ∧
  decode 0b0010000_11_1111110_0101101_0000_10101 = .shlImm ⟨3, 126, 45, 21⟩ ∧
  decode 0b0100011_00_1101010_1010100_0001111_1_0 = .ffma ⟨0, 106, 84, 15, 1, 0⟩ ∧
  decode 0b0111000_00_1101_0_000100100001101011 = .br ⟨0, 13, 0, 18539⟩ ∧
  decode 0b1000010_00_0001011_0100001_1101000_01 = .ldW ⟨0, 11, 33, 104, 1⟩ ∧
  decode 0b1000101_10_1011100_1111110_0111111_10 = .stB ⟨2, 92, 126, 63, 2⟩ ∧
  decode 0b1010100_10_0011101_011111_0_1110010_0_1 = .atomCas ⟨2, 29, 31, 114, 1⟩ ∧
  decode 0b1010101_01_0011000000000000000_1011 = .bar ⟨1, 11⟩ ∧
  decode 0b1100000_11_0110001_011010_10111_100_1_1 = .mma ⟨3, 49, 26, 23, 4, 1, 1⟩ ∧
  decode 0b1110000_11_0001010_100011010010_0000 = .csrr ⟨3, 10, 2258⟩ ∧
  decode 0b1110010_10_1111011_001000_1010000_001 = .ctxRun ⟨2, 123, 8, 80⟩ ∧
  decode 0b1110011_01_00000000000000000000000 = .trapret ⟨1⟩ ∧
  decode 0b111100000_1010_1_000_000000000000000 = .guard ⟨10, 1, 0⟩ ∧
  (∀ w : Word, w.extractLsb' 25 7 = 0x07#7 → decode w =
    .iminImaxN32 ⟨w.extractLsb' 23 2, w.extractLsb' 16 7, w.extractLsb' 9 7, w.extractLsb' 2 7, w.extractLsb' 1 1, w.extractLsb' 0 1⟩)

/-- R9, R28, R373, R395: every step keeps memory and the scratchpads in canonical form: addresses strictly rising and no
cell that holds what an unlisted address reads as. The form is the model's own (notes/assumptions/4.md). -/
def Obligations.stepKeepsMemoryCanonical : Prop := ∀ s t : State, s.Canonical → step s = .next t → t.Canonical

/-- R8, R57, R334, R340, R370, R385, R409, R419, R451: the state after a cold reset whose firmware verified. The values that no
rule gives are the model's (notes/assumptions/5.md). -/
def Obligations.resetState : Prop :=
  State.reset.Canonical ∧ State.reset.service = .chrysalis ∧ State.reset.freq = 5 ∧ State.reset.ref252 = 0 ∧
  (∃ r, State.reset.ctxs = [r] ∧ r.cxid = 0 ∧ r.level = 0 ∧ r.state = .running ∧ r.fper = 3 ∧
    (∀ c < 192, r.cores.getLsbD c = true) ∧ ∀ c < 192, r.runset.getLsbD c = decide (c < 96)) ∧
  (∀ b f, State.reset.frame b f = { b := b, f := f, st := .clean, owner := 0 }) ∧
  (∀ core part, (State.reset.ramp core part).st = .cold) ∧ (∀ ch, hrowOf State.reset ch = (512, 16)) ∧
  (∀ i, State.reset.part i = { i := i }) ∧ (∀ n, State.reset.vfAt n = { n := n }) ∧ State.reset.vfEnable = false ∧
  State.reset.groups = [] ∧ State.reset.grids = [] ∧ State.reset.bufs = [] ∧ State.reset.saveBytes = 16 * 2 ^ 30 ∧
  State.reset.anyNew = false ∧ State.reset.attach = [] ∧ State.reset.tlb = [] ∧ State.reset.walks = [] ∧
  State.reset.lastPages = [] ∧ State.reset.hist = [] ∧ State.reset.fused = []

/-- R32, R36, R84, R127, R128, R155, R193, R229, R414: a step whose turn is to issue a word of a partition that no unit
occupies and whose run may go on fetches the word at the unit's address as an access of its context, decodes it and runs the
instruction, and the partition is occupied for the instruction's clk; a fetch that misses L1 waits for its token, and one that
fails a check traps; a run past its 32 clk ends, as does one whose group may not issue. A step whose turn is an event runs
that event; time passes where no idle partition holds a thread that has been ready for longer than its fairness period
(the model's policy, notes/assumptions/2.md). -/
def Obligations.stepRunsDecodedInstruction : Prop :=
  (∀ (s : State) (core part : Nat) (rest : List Turn) (r : Run) (u : Issue), s.agenda = .issue core part :: rest →
    (∀ b ∈ s.busy, b.1 = core → b.2.1 = part → b.2.2 ≤ s.clk) →
    let s1 : State := { s with agenda := rest, cur := some (core, part) }
    s1.run? = some r → s1.issue? = some u →
    let late := r.single = false ∧ r.start + 32 ≤ s.clk
    let here := ∃ g ∈ issuers s1 core part, g.gid = r.gid
    (late ∨ ¬here → step s = .next (endRunAt s1 core part)) ∧
    (¬late → here →
      (∀ f, fetchUnit s1 r u = .error f → step s = .next (raise s1 u.grp
        { cause := f.cause, lanes := u.tids, fpc := u.upc, faddr := if f.cxid = u.grp.cxid then u.upc else f.va
          cxid := f.cxid, fetch := true, walk := f.walk })) ∧
      (∀ f, gcheck s1 u.grp.cxid u.ipc 4 .fetch = .error f → fetchUnit s1 r u = .error f) ∧
      (∀ p, gcheck s1 u.grp.cxid u.ipc 4 .fetch = .ok p → placeFault s1 u.grp.cxid u.ipc p 4 = none →
        erasing s1 p.b p.off = false → r.age = 0 →
        fetchUnit s1 r u = .ok (BitVec.ofNat 32 (leNat (s1.readBuf p.b p.off 4)), p)) ∧
      ∀ w p, fetchUnit s1 r u = .ok (w, p) →
        (fetchPaid s1 u p = false → step s = .next s1) ∧
        (fetchPaid s1 u p = true → match exec (decode w) (fetched s1 u p) with
          | .next t => let n := turnCost (decode w) u s1 t
            step s = .next (if n = 0 then t else { t with
              busy := (u.core, u.part, t.clk + n) :: t.busy.filter fun b => !(b.1 == u.core && b.2.1 == u.part) })
          | .fault f => step s = .fault f
          | .refused f => step s = .refused f))) ∧
  (∀ (s : State) (i : Instr) (rest : List Turn), s.agenda = .ev i :: rest →
    step s = exec i { s with agenda := rest, cur := none }) ∧
  ∀ (s : State) (n : Nat) (rest : List Turn), s.agenda = .pass n :: rest → let s1 := retryAll { s with agenda := rest }
    (mayPass s1 n = false → step s = .next s1) ∧
    (mayPass s1 n = true → 0 < n → ∃ t, step s = .next t ∧ t.clk = s.clk + n ∧
      t.ref252 = s.ref252 + n * 2520 / (if s.freq = 0 then 1 else s.freq) ∧ t.mem = s.mem ∧ t.agenda = rest)
end

