-- ==== Sys2Proof/Laws/State.lean ====
section
/-! SUPPORT. What each named update of the state leaves alone: one lemma per field per update. -/

namespace Sys2Proof.Machine

set_option Elab.async false

/-! ### updCtx -/

@[simp] theorem State.updCtx_clk (s : State) (c : Nat) (f : Ctx → Ctx) : (s.updCtx c f).clk = s.clk := rfl
@[simp] theorem State.updCtx_ref252 (s : State) (c : Nat) (f : Ctx → Ctx) : (s.updCtx c f).ref252 = s.ref252 := rfl
@[simp] theorem State.updCtx_freq (s : State) (c : Nat) (f : Ctx → Ctx) : (s.updCtx c f).freq = s.freq := rfl
@[simp] theorem State.updCtx_service (s : State) (c : Nat) (f : Ctx → Ctx) : (s.updCtx c f).service = s.service := rfl
@[simp] theorem State.updCtx_grids (s : State) (c : Nat) (f : Ctx → Ctx) : (s.updCtx c f).grids = s.grids := rfl
@[simp] theorem State.updCtx_blocks (s : State) (c : Nat) (f : Ctx → Ctx) : (s.updCtx c f).blocks = s.blocks := rfl
@[simp] theorem State.updCtx_groups (s : State) (c : Nat) (f : Ctx → Ctx) : (s.updCtx c f).groups = s.groups := rfl
@[simp] theorem State.updCtx_runs (s : State) (c : Nat) (f : Ctx → Ctx) : (s.updCtx c f).runs = s.runs := rfl
@[simp] theorem State.updCtx_busy (s : State) (c : Nat) (f : Ctx → Ctx) : (s.updCtx c f).busy = s.busy := rfl
@[simp] theorem State.updCtx_cur (s : State) (c : Nat) (f : Ctx → Ctx) : (s.updCtx c f).cur = s.cur := rfl
@[simp] theorem State.updCtx_mem (s : State) (c : Nat) (f : Ctx → Ctx) : (s.updCtx c f).mem = s.mem := rfl
@[simp] theorem State.updCtx_hist (s : State) (c : Nat) (f : Ctx → Ctx) : (s.updCtx c f).hist = s.hist := rfl
@[simp] theorem State.updCtx_scSeen (s : State) (c : Nat) (f : Ctx → Ctx) : (s.updCtx c f).scSeen = s.scSeen := rfl
@[simp] theorem State.updCtx_poison (s : State) (c : Nat) (f : Ctx → Ctx) : (s.updCtx c f).poison = s.poison := rfl
@[simp] theorem State.updCtx_bufs (s : State) (c : Nat) (f : Ctx → Ctx) : (s.updCtx c f).bufs = s.bufs := rfl
@[simp] theorem State.updCtx_frames (s : State) (c : Nat) (f : Ctx → Ctx) : (s.updCtx c f).frames = s.frames := rfl
@[simp] theorem State.updCtx_tlb (s : State) (c : Nat) (f : Ctx → Ctx) : (s.updCtx c f).tlb = s.tlb := rfl
@[simp] theorem State.updCtx_walks (s : State) (c : Nat) (f : Ctx → Ctx) : (s.updCtx c f).walks = s.walks := rfl
@[simp] theorem State.updCtx_lastPages (s : State) (c : Nat) (f : Ctx → Ctx) : (s.updCtx c f).lastPages = s.lastPages := rfl
@[simp] theorem State.updCtx_l1 (s : State) (c : Nat) (f : Ctx → Ctx) : (s.updCtx c f).l1 = s.l1 := rfl
@[simp] theorem State.updCtx_l2 (s : State) (c : Nat) (f : Ctx → Ctx) : (s.updCtx c f).l2 = s.l2 := rfl
@[simp] theorem State.updCtx_wbs (s : State) (c : Nat) (f : Ctx → Ctx) : (s.updCtx c f).wbs = s.wbs := rfl
@[simp] theorem State.updCtx_fused (s : State) (c : Nat) (f : Ctx → Ctx) : (s.updCtx c f).fused = s.fused := rfl
@[simp] theorem State.updCtx_reqs (s : State) (c : Nat) (f : Ctx → Ctx) : (s.updCtx c f).reqs = s.reqs := rfl
@[simp] theorem State.updCtx_ctxops (s : State) (c : Nat) (f : Ctx → Ctx) : (s.updCtx c f).ctxops = s.ctxops := rfl
@[simp] theorem State.updCtx_rus (s : State) (c : Nat) (f : Ctx → Ctx) : (s.updCtx c f).rus = s.rus := rfl
@[simp] theorem State.updCtx_rdefs (s : State) (c : Nat) (f : Ctx → Ctx) : (s.updCtx c f).rdefs = s.rdefs := rfl
@[simp] theorem State.updCtx_bts (s : State) (c : Nat) (f : Ctx → Ctx) : (s.updCtx c f).bts = s.bts := rfl
@[simp] theorem State.updCtx_mxs (s : State) (c : Nat) (f : Ctx → Ctx) : (s.updCtx c f).mxs = s.mxs := rfl
@[simp] theorem State.updCtx_ramps (s : State) (c : Nat) (f : Ctx → Ctx) : (s.updCtx c f).ramps = s.ramps := rfl
@[simp] theorem State.updCtx_msgs (s : State) (c : Nat) (f : Ctx → Ctx) : (s.updCtx c f).msgs = s.msgs := rfl
@[simp] theorem State.updCtx_traps (s : State) (c : Nat) (f : Ctx → Ctx) : (s.updCtx c f).traps = s.traps := rfl
@[simp] theorem State.updCtx_recs (s : State) (c : Nat) (f : Ctx → Ctx) : (s.updCtx c f).recs = s.recs := rfl
@[simp] theorem State.updCtx_parts (s : State) (c : Nat) (f : Ctx → Ctx) : (s.updCtx c f).parts = s.parts := rfl
@[simp] theorem State.updCtx_vfs (s : State) (c : Nat) (f : Ctx → Ctx) : (s.updCtx c f).vfs = s.vfs := rfl
@[simp] theorem State.updCtx_vfEnable (s : State) (c : Nat) (f : Ctx → Ctx) : (s.updCtx c f).vfEnable = s.vfEnable := rfl
@[simp] theorem State.updCtx_vfClearing (s : State) (c : Nat) (f : Ctx → Ctx) : (s.updCtx c f).vfClearing = s.vfClearing := rfl
@[simp] theorem State.updCtx_links (s : State) (c : Nat) (f : Ctx → Ctx) : (s.updCtx c f).links = s.links := rfl
@[simp] theorem State.updCtx_ingress (s : State) (c : Nat) (f : Ctx → Ctx) : (s.updCtx c f).ingress = s.ingress := rfl
@[simp] theorem State.updCtx_msix (s : State) (c : Nat) (f : Ctx → Ctx) : (s.updCtx c f).msix = s.msix := rfl
@[simp] theorem State.updCtx_irqs (s : State) (c : Nat) (f : Ctx → Ctx) : (s.updCtx c f).irqs = s.irqs := rfl
@[simp] theorem State.updCtx_kicks (s : State) (c : Nat) (f : Ctx → Ctx) : (s.updCtx c f).kicks = s.kicks := rfl
@[simp] theorem State.updCtx_kerr (s : State) (c : Nat) (f : Ctx → Ctx) : (s.updCtx c f).kerr = s.kerr := rfl
@[simp] theorem State.updCtx_hostif (s : State) (c : Nat) (f : Ctx → Ctx) : (s.updCtx c f).hostif = s.hostif := rfl
@[simp] theorem State.updCtx_answer (s : State) (c : Nat) (f : Ctx → Ctx) : (s.updCtx c f).answer = s.answer := rfl
@[simp] theorem State.updCtx_spdm (s : State) (c : Nat) (f : Ctx → Ctx) : (s.updCtx c f).spdm = s.spdm := rfl
@[simp] theorem State.updCtx_mmio (s : State) (c : Nat) (f : Ctx → Ctx) : (s.updCtx c f).mmio = s.mmio := rfl
@[simp] theorem State.updCtx_flash (s : State) (c : Nat) (f : Ctx → Ctx) : (s.updCtx c f).flash = s.flash := rfl
@[simp] theorem State.updCtx_hrow (s : State) (c : Nat) (f : Ctx → Ctx) : (s.updCtx c f).hrow = s.hrow := rfl
@[simp] theorem State.updCtx_rows (s : State) (c : Nat) (f : Ctx → Ctx) : (s.updCtx c f).rows = s.rows := rfl
@[simp] theorem State.updCtx_holds (s : State) (c : Nat) (f : Ctx → Ctx) : (s.updCtx c f).holds = s.holds := rfl
@[simp] theorem State.updCtx_saveBytes (s : State) (c : Nat) (f : Ctx → Ctx) : (s.updCtx c f).saveBytes = s.saveBytes := rfl
@[simp] theorem State.updCtx_anyNew (s : State) (c : Nat) (f : Ctx → Ctx) : (s.updCtx c f).anyNew = s.anyNew := rfl
@[simp] theorem State.updCtx_attach (s : State) (c : Nat) (f : Ctx → Ctx) : (s.updCtx c f).attach = s.attach := rfl
@[simp] theorem State.updCtx_dbgEvents (s : State) (c : Nat) (f : Ctx → Ctx) : (s.updCtx c f).dbgEvents = s.dbgEvents := rfl
@[simp] theorem State.updCtx_dbgAnswer (s : State) (c : Nat) (f : Ctx → Ctx) : (s.updCtx c f).dbgAnswer = s.dbgAnswer := rfl
@[simp] theorem State.updCtx_dbgNext (s : State) (c : Nat) (f : Ctx → Ctx) : (s.updCtx c f).dbgNext = s.dbgNext := rfl
@[simp] theorem State.updCtx_dbgHold (s : State) (c : Nat) (f : Ctx → Ctx) : (s.updCtx c f).dbgHold = s.dbgHold := rfl
@[simp] theorem State.updCtx_errs (s : State) (c : Nat) (f : Ctx → Ctx) : (s.updCtx c f).errs = s.errs := rfl
@[simp] theorem State.updCtx_reports (s : State) (c : Nat) (f : Ctx → Ctx) : (s.updCtx c f).reports = s.reports := rfl
@[simp] theorem State.updCtx_served (s : State) (c : Nat) (f : Ctx → Ctx) : (s.updCtx c f).served = s.served := rfl
@[simp] theorem State.updCtx_ticket (s : State) (c : Nat) (f : Ctx → Ctx) : (s.updCtx c f).ticket = s.ticket := rfl
@[simp] theorem State.updCtx_nextId (s : State) (c : Nat) (f : Ctx → Ctx) : (s.updCtx c f).nextId = s.nextId := rfl
@[simp] theorem State.updCtx_free (s : State) (c : Nat) (f : Ctx → Ctx) : (s.updCtx c f).free = s.free := rfl
@[simp] theorem State.updCtx_agenda (s : State) (c : Nat) (f : Ctx → Ctx) : (s.updCtx c f).agenda = s.agenda := rfl

/-! ### updGrp -/

@[simp] theorem State.updGrp_clk (s : State) (k : Nat) (f : Group → Group) : (s.updGrp k f).clk = s.clk := by unfold State.updGrp; split <;> rfl
@[simp] theorem State.updGrp_ref252 (s : State) (k : Nat) (f : Group → Group) : (s.updGrp k f).ref252 = s.ref252 := by unfold State.updGrp; split <;> rfl
@[simp] theorem State.updGrp_freq (s : State) (k : Nat) (f : Group → Group) : (s.updGrp k f).freq = s.freq := by unfold State.updGrp; split <;> rfl
@[simp] theorem State.updGrp_service (s : State) (k : Nat) (f : Group → Group) : (s.updGrp k f).service = s.service := by unfold State.updGrp; split <;> rfl
@[simp] theorem State.updGrp_ctxs (s : State) (k : Nat) (f : Group → Group) : (s.updGrp k f).ctxs = s.ctxs := by unfold State.updGrp; split <;> rfl
@[simp] theorem State.updGrp_grids (s : State) (k : Nat) (f : Group → Group) : (s.updGrp k f).grids = s.grids := by unfold State.updGrp; split <;> rfl
@[simp] theorem State.updGrp_runs (s : State) (k : Nat) (f : Group → Group) : (s.updGrp k f).runs = s.runs := by unfold State.updGrp; split <;> rfl
@[simp] theorem State.updGrp_busy (s : State) (k : Nat) (f : Group → Group) : (s.updGrp k f).busy = s.busy := by unfold State.updGrp; split <;> rfl
@[simp] theorem State.updGrp_cur (s : State) (k : Nat) (f : Group → Group) : (s.updGrp k f).cur = s.cur := by unfold State.updGrp; split <;> rfl
@[simp] theorem State.updGrp_mem (s : State) (k : Nat) (f : Group → Group) : (s.updGrp k f).mem = s.mem := by unfold State.updGrp; split <;> rfl
@[simp] theorem State.updGrp_hist (s : State) (k : Nat) (f : Group → Group) : (s.updGrp k f).hist = s.hist := by unfold State.updGrp; split <;> rfl
@[simp] theorem State.updGrp_scSeen (s : State) (k : Nat) (f : Group → Group) : (s.updGrp k f).scSeen = s.scSeen := by unfold State.updGrp; split <;> rfl
@[simp] theorem State.updGrp_poison (s : State) (k : Nat) (f : Group → Group) : (s.updGrp k f).poison = s.poison := by unfold State.updGrp; split <;> rfl
@[simp] theorem State.updGrp_bufs (s : State) (k : Nat) (f : Group → Group) : (s.updGrp k f).bufs = s.bufs := by unfold State.updGrp; split <;> rfl
@[simp] theorem State.updGrp_frames (s : State) (k : Nat) (f : Group → Group) : (s.updGrp k f).frames = s.frames := by unfold State.updGrp; split <;> rfl
@[simp] theorem State.updGrp_tlb (s : State) (k : Nat) (f : Group → Group) : (s.updGrp k f).tlb = s.tlb := by unfold State.updGrp; split <;> rfl
@[simp] theorem State.updGrp_walks (s : State) (k : Nat) (f : Group → Group) : (s.updGrp k f).walks = s.walks := by unfold State.updGrp; split <;> rfl
@[simp] theorem State.updGrp_lastPages (s : State) (k : Nat) (f : Group → Group) : (s.updGrp k f).lastPages = s.lastPages := by unfold State.updGrp; split <;> rfl
@[simp] theorem State.updGrp_l1 (s : State) (k : Nat) (f : Group → Group) : (s.updGrp k f).l1 = s.l1 := by unfold State.updGrp; split <;> rfl
@[simp] theorem State.updGrp_l2 (s : State) (k : Nat) (f : Group → Group) : (s.updGrp k f).l2 = s.l2 := by unfold State.updGrp; split <;> rfl
@[simp] theorem State.updGrp_wbs (s : State) (k : Nat) (f : Group → Group) : (s.updGrp k f).wbs = s.wbs := by unfold State.updGrp; split <;> rfl
@[simp] theorem State.updGrp_fused (s : State) (k : Nat) (f : Group → Group) : (s.updGrp k f).fused = s.fused := by unfold State.updGrp; split <;> rfl
@[simp] theorem State.updGrp_reqs (s : State) (k : Nat) (f : Group → Group) : (s.updGrp k f).reqs = s.reqs := by unfold State.updGrp; split <;> rfl
@[simp] theorem State.updGrp_ctxops (s : State) (k : Nat) (f : Group → Group) : (s.updGrp k f).ctxops = s.ctxops := by unfold State.updGrp; split <;> rfl
@[simp] theorem State.updGrp_rus (s : State) (k : Nat) (f : Group → Group) : (s.updGrp k f).rus = s.rus := by unfold State.updGrp; split <;> rfl
@[simp] theorem State.updGrp_rdefs (s : State) (k : Nat) (f : Group → Group) : (s.updGrp k f).rdefs = s.rdefs := by unfold State.updGrp; split <;> rfl
@[simp] theorem State.updGrp_bts (s : State) (k : Nat) (f : Group → Group) : (s.updGrp k f).bts = s.bts := by unfold State.updGrp; split <;> rfl
@[simp] theorem State.updGrp_mxs (s : State) (k : Nat) (f : Group → Group) : (s.updGrp k f).mxs = s.mxs := by unfold State.updGrp; split <;> rfl
@[simp] theorem State.updGrp_ramps (s : State) (k : Nat) (f : Group → Group) : (s.updGrp k f).ramps = s.ramps := by unfold State.updGrp; split <;> rfl
@[simp] theorem State.updGrp_msgs (s : State) (k : Nat) (f : Group → Group) : (s.updGrp k f).msgs = s.msgs := by unfold State.updGrp; split <;> rfl
@[simp] theorem State.updGrp_traps (s : State) (k : Nat) (f : Group → Group) : (s.updGrp k f).traps = s.traps := by unfold State.updGrp; split <;> rfl
@[simp] theorem State.updGrp_recs (s : State) (k : Nat) (f : Group → Group) : (s.updGrp k f).recs = s.recs := by unfold State.updGrp; split <;> rfl
@[simp] theorem State.updGrp_parts (s : State) (k : Nat) (f : Group → Group) : (s.updGrp k f).parts = s.parts := by unfold State.updGrp; split <;> rfl
@[simp] theorem State.updGrp_vfs (s : State) (k : Nat) (f : Group → Group) : (s.updGrp k f).vfs = s.vfs := by unfold State.updGrp; split <;> rfl
@[simp] theorem State.updGrp_vfEnable (s : State) (k : Nat) (f : Group → Group) : (s.updGrp k f).vfEnable = s.vfEnable := by unfold State.updGrp; split <;> rfl
@[simp] theorem State.updGrp_vfClearing (s : State) (k : Nat) (f : Group → Group) : (s.updGrp k f).vfClearing = s.vfClearing := by unfold State.updGrp; split <;> rfl
@[simp] theorem State.updGrp_links (s : State) (k : Nat) (f : Group → Group) : (s.updGrp k f).links = s.links := by unfold State.updGrp; split <;> rfl
@[simp] theorem State.updGrp_ingress (s : State) (k : Nat) (f : Group → Group) : (s.updGrp k f).ingress = s.ingress := by unfold State.updGrp; split <;> rfl
@[simp] theorem State.updGrp_msix (s : State) (k : Nat) (f : Group → Group) : (s.updGrp k f).msix = s.msix := by unfold State.updGrp; split <;> rfl
@[simp] theorem State.updGrp_irqs (s : State) (k : Nat) (f : Group → Group) : (s.updGrp k f).irqs = s.irqs := by unfold State.updGrp; split <;> rfl
@[simp] theorem State.updGrp_kicks (s : State) (k : Nat) (f : Group → Group) : (s.updGrp k f).kicks = s.kicks := by unfold State.updGrp; split <;> rfl
@[simp] theorem State.updGrp_kerr (s : State) (k : Nat) (f : Group → Group) : (s.updGrp k f).kerr = s.kerr := by unfold State.updGrp; split <;> rfl
@[simp] theorem State.updGrp_hostif (s : State) (k : Nat) (f : Group → Group) : (s.updGrp k f).hostif = s.hostif := by unfold State.updGrp; split <;> rfl
@[simp] theorem State.updGrp_answer (s : State) (k : Nat) (f : Group → Group) : (s.updGrp k f).answer = s.answer := by unfold State.updGrp; split <;> rfl
@[simp] theorem State.updGrp_spdm (s : State) (k : Nat) (f : Group → Group) : (s.updGrp k f).spdm = s.spdm := by unfold State.updGrp; split <;> rfl
@[simp] theorem State.updGrp_mmio (s : State) (k : Nat) (f : Group → Group) : (s.updGrp k f).mmio = s.mmio := by unfold State.updGrp; split <;> rfl
@[simp] theorem State.updGrp_flash (s : State) (k : Nat) (f : Group → Group) : (s.updGrp k f).flash = s.flash := by unfold State.updGrp; split <;> rfl
@[simp] theorem State.updGrp_hrow (s : State) (k : Nat) (f : Group → Group) : (s.updGrp k f).hrow = s.hrow := by unfold State.updGrp; split <;> rfl
@[simp] theorem State.updGrp_rows (s : State) (k : Nat) (f : Group → Group) : (s.updGrp k f).rows = s.rows := by unfold State.updGrp; split <;> rfl
@[simp] theorem State.updGrp_holds (s : State) (k : Nat) (f : Group → Group) : (s.updGrp k f).holds = s.holds := by unfold State.updGrp; split <;> rfl
@[simp] theorem State.updGrp_saveBytes (s : State) (k : Nat) (f : Group → Group) : (s.updGrp k f).saveBytes = s.saveBytes := by unfold State.updGrp; split <;> rfl
@[simp] theorem State.updGrp_anyNew (s : State) (k : Nat) (f : Group → Group) : (s.updGrp k f).anyNew = s.anyNew := by unfold State.updGrp; split <;> rfl
@[simp] theorem State.updGrp_attach (s : State) (k : Nat) (f : Group → Group) : (s.updGrp k f).attach = s.attach := by unfold State.updGrp; split <;> rfl
@[simp] theorem State.updGrp_dbgEvents (s : State) (k : Nat) (f : Group → Group) : (s.updGrp k f).dbgEvents = s.dbgEvents := by unfold State.updGrp; split <;> rfl
@[simp] theorem State.updGrp_dbgAnswer (s : State) (k : Nat) (f : Group → Group) : (s.updGrp k f).dbgAnswer = s.dbgAnswer := by unfold State.updGrp; split <;> rfl
@[simp] theorem State.updGrp_dbgNext (s : State) (k : Nat) (f : Group → Group) : (s.updGrp k f).dbgNext = s.dbgNext := by unfold State.updGrp; split <;> rfl
@[simp] theorem State.updGrp_dbgHold (s : State) (k : Nat) (f : Group → Group) : (s.updGrp k f).dbgHold = s.dbgHold := by unfold State.updGrp; split <;> rfl
@[simp] theorem State.updGrp_errs (s : State) (k : Nat) (f : Group → Group) : (s.updGrp k f).errs = s.errs := by unfold State.updGrp; split <;> rfl
@[simp] theorem State.updGrp_reports (s : State) (k : Nat) (f : Group → Group) : (s.updGrp k f).reports = s.reports := by unfold State.updGrp; split <;> rfl
@[simp] theorem State.updGrp_served (s : State) (k : Nat) (f : Group → Group) : (s.updGrp k f).served = s.served := by unfold State.updGrp; split <;> rfl
@[simp] theorem State.updGrp_ticket (s : State) (k : Nat) (f : Group → Group) : (s.updGrp k f).ticket = s.ticket := by unfold State.updGrp; split <;> rfl
@[simp] theorem State.updGrp_nextId (s : State) (k : Nat) (f : Group → Group) : (s.updGrp k f).nextId = s.nextId := by unfold State.updGrp; split <;> rfl
@[simp] theorem State.updGrp_free (s : State) (k : Nat) (f : Group → Group) : (s.updGrp k f).free = s.free := by unfold State.updGrp; split <;> rfl
@[simp] theorem State.updGrp_agenda (s : State) (k : Nat) (f : Group → Group) : (s.updGrp k f).agenda = s.agenda := by unfold State.updGrp; split <;> rfl

/-! ### updThr -/

@[simp] theorem State.updThr_clk (s : State) (k t : Nat) (f : Thread → Thread) : (s.updThr k t f).clk = s.clk := State.updGrp_clk ..
@[simp] theorem State.updThr_ref252 (s : State) (k t : Nat) (f : Thread → Thread) : (s.updThr k t f).ref252 = s.ref252 := State.updGrp_ref252 ..
@[simp] theorem State.updThr_freq (s : State) (k t : Nat) (f : Thread → Thread) : (s.updThr k t f).freq = s.freq := State.updGrp_freq ..
@[simp] theorem State.updThr_service (s : State) (k t : Nat) (f : Thread → Thread) : (s.updThr k t f).service = s.service := State.updGrp_service ..
@[simp] theorem State.updThr_ctxs (s : State) (k t : Nat) (f : Thread → Thread) : (s.updThr k t f).ctxs = s.ctxs := State.updGrp_ctxs ..
@[simp] theorem State.updThr_grids (s : State) (k t : Nat) (f : Thread → Thread) : (s.updThr k t f).grids = s.grids := State.updGrp_grids ..
@[simp] theorem State.updThr_runs (s : State) (k t : Nat) (f : Thread → Thread) : (s.updThr k t f).runs = s.runs := State.updGrp_runs ..
@[simp] theorem State.updThr_busy (s : State) (k t : Nat) (f : Thread → Thread) : (s.updThr k t f).busy = s.busy := State.updGrp_busy ..
@[simp] theorem State.updThr_cur (s : State) (k t : Nat) (f : Thread → Thread) : (s.updThr k t f).cur = s.cur := State.updGrp_cur ..
@[simp] theorem State.updThr_mem (s : State) (k t : Nat) (f : Thread → Thread) : (s.updThr k t f).mem = s.mem := State.updGrp_mem ..
@[simp] theorem State.updThr_hist (s : State) (k t : Nat) (f : Thread → Thread) : (s.updThr k t f).hist = s.hist := State.updGrp_hist ..
@[simp] theorem State.updThr_scSeen (s : State) (k t : Nat) (f : Thread → Thread) : (s.updThr k t f).scSeen = s.scSeen := State.updGrp_scSeen ..
@[simp] theorem State.updThr_poison (s : State) (k t : Nat) (f : Thread → Thread) : (s.updThr k t f).poison = s.poison := State.updGrp_poison ..
@[simp] theorem State.updThr_bufs (s : State) (k t : Nat) (f : Thread → Thread) : (s.updThr k t f).bufs = s.bufs := State.updGrp_bufs ..
@[simp] theorem State.updThr_frames (s : State) (k t : Nat) (f : Thread → Thread) : (s.updThr k t f).frames = s.frames := State.updGrp_frames ..
@[simp] theorem State.updThr_tlb (s : State) (k t : Nat) (f : Thread → Thread) : (s.updThr k t f).tlb = s.tlb := State.updGrp_tlb ..
@[simp] theorem State.updThr_walks (s : State) (k t : Nat) (f : Thread → Thread) : (s.updThr k t f).walks = s.walks := State.updGrp_walks ..
@[simp] theorem State.updThr_lastPages (s : State) (k t : Nat) (f : Thread → Thread) : (s.updThr k t f).lastPages = s.lastPages := State.updGrp_lastPages ..
@[simp] theorem State.updThr_l1 (s : State) (k t : Nat) (f : Thread → Thread) : (s.updThr k t f).l1 = s.l1 := State.updGrp_l1 ..
@[simp] theorem State.updThr_l2 (s : State) (k t : Nat) (f : Thread → Thread) : (s.updThr k t f).l2 = s.l2 := State.updGrp_l2 ..
@[simp] theorem State.updThr_wbs (s : State) (k t : Nat) (f : Thread → Thread) : (s.updThr k t f).wbs = s.wbs := State.updGrp_wbs ..
@[simp] theorem State.updThr_fused (s : State) (k t : Nat) (f : Thread → Thread) : (s.updThr k t f).fused = s.fused := State.updGrp_fused ..
@[simp] theorem State.updThr_reqs (s : State) (k t : Nat) (f : Thread → Thread) : (s.updThr k t f).reqs = s.reqs := State.updGrp_reqs ..
@[simp] theorem State.updThr_ctxops (s : State) (k t : Nat) (f : Thread → Thread) : (s.updThr k t f).ctxops = s.ctxops := State.updGrp_ctxops ..
@[simp] theorem State.updThr_rus (s : State) (k t : Nat) (f : Thread → Thread) : (s.updThr k t f).rus = s.rus := State.updGrp_rus ..
@[simp] theorem State.updThr_rdefs (s : State) (k t : Nat) (f : Thread → Thread) : (s.updThr k t f).rdefs = s.rdefs := State.updGrp_rdefs ..
@[simp] theorem State.updThr_bts (s : State) (k t : Nat) (f : Thread → Thread) : (s.updThr k t f).bts = s.bts := State.updGrp_bts ..
@[simp] theorem State.updThr_mxs (s : State) (k t : Nat) (f : Thread → Thread) : (s.updThr k t f).mxs = s.mxs := State.updGrp_mxs ..
@[simp] theorem State.updThr_ramps (s : State) (k t : Nat) (f : Thread → Thread) : (s.updThr k t f).ramps = s.ramps := State.updGrp_ramps ..
@[simp] theorem State.updThr_msgs (s : State) (k t : Nat) (f : Thread → Thread) : (s.updThr k t f).msgs = s.msgs := State.updGrp_msgs ..
@[simp] theorem State.updThr_traps (s : State) (k t : Nat) (f : Thread → Thread) : (s.updThr k t f).traps = s.traps := State.updGrp_traps ..
@[simp] theorem State.updThr_recs (s : State) (k t : Nat) (f : Thread → Thread) : (s.updThr k t f).recs = s.recs := State.updGrp_recs ..
@[simp] theorem State.updThr_parts (s : State) (k t : Nat) (f : Thread → Thread) : (s.updThr k t f).parts = s.parts := State.updGrp_parts ..
@[simp] theorem State.updThr_vfs (s : State) (k t : Nat) (f : Thread → Thread) : (s.updThr k t f).vfs = s.vfs := State.updGrp_vfs ..
@[simp] theorem State.updThr_vfEnable (s : State) (k t : Nat) (f : Thread → Thread) : (s.updThr k t f).vfEnable = s.vfEnable := State.updGrp_vfEnable ..
@[simp] theorem State.updThr_vfClearing (s : State) (k t : Nat) (f : Thread → Thread) : (s.updThr k t f).vfClearing = s.vfClearing := State.updGrp_vfClearing ..
@[simp] theorem State.updThr_links (s : State) (k t : Nat) (f : Thread → Thread) : (s.updThr k t f).links = s.links := State.updGrp_links ..
@[simp] theorem State.updThr_ingress (s : State) (k t : Nat) (f : Thread → Thread) : (s.updThr k t f).ingress = s.ingress := State.updGrp_ingress ..
@[simp] theorem State.updThr_msix (s : State) (k t : Nat) (f : Thread → Thread) : (s.updThr k t f).msix = s.msix := State.updGrp_msix ..
@[simp] theorem State.updThr_irqs (s : State) (k t : Nat) (f : Thread → Thread) : (s.updThr k t f).irqs = s.irqs := State.updGrp_irqs ..
@[simp] theorem State.updThr_kicks (s : State) (k t : Nat) (f : Thread → Thread) : (s.updThr k t f).kicks = s.kicks := State.updGrp_kicks ..
@[simp] theorem State.updThr_kerr (s : State) (k t : Nat) (f : Thread → Thread) : (s.updThr k t f).kerr = s.kerr := State.updGrp_kerr ..
@[simp] theorem State.updThr_hostif (s : State) (k t : Nat) (f : Thread → Thread) : (s.updThr k t f).hostif = s.hostif := State.updGrp_hostif ..
@[simp] theorem State.updThr_answer (s : State) (k t : Nat) (f : Thread → Thread) : (s.updThr k t f).answer = s.answer := State.updGrp_answer ..
@[simp] theorem State.updThr_spdm (s : State) (k t : Nat) (f : Thread → Thread) : (s.updThr k t f).spdm = s.spdm := State.updGrp_spdm ..
@[simp] theorem State.updThr_mmio (s : State) (k t : Nat) (f : Thread → Thread) : (s.updThr k t f).mmio = s.mmio := State.updGrp_mmio ..
@[simp] theorem State.updThr_flash (s : State) (k t : Nat) (f : Thread → Thread) : (s.updThr k t f).flash = s.flash := State.updGrp_flash ..
@[simp] theorem State.updThr_hrow (s : State) (k t : Nat) (f : Thread → Thread) : (s.updThr k t f).hrow = s.hrow := State.updGrp_hrow ..
@[simp] theorem State.updThr_rows (s : State) (k t : Nat) (f : Thread → Thread) : (s.updThr k t f).rows = s.rows := State.updGrp_rows ..
@[simp] theorem State.updThr_holds (s : State) (k t : Nat) (f : Thread → Thread) : (s.updThr k t f).holds = s.holds := State.updGrp_holds ..
@[simp] theorem State.updThr_saveBytes (s : State) (k t : Nat) (f : Thread → Thread) : (s.updThr k t f).saveBytes = s.saveBytes := State.updGrp_saveBytes ..
@[simp] theorem State.updThr_anyNew (s : State) (k t : Nat) (f : Thread → Thread) : (s.updThr k t f).anyNew = s.anyNew := State.updGrp_anyNew ..
@[simp] theorem State.updThr_attach (s : State) (k t : Nat) (f : Thread → Thread) : (s.updThr k t f).attach = s.attach := State.updGrp_attach ..
@[simp] theorem State.updThr_dbgEvents (s : State) (k t : Nat) (f : Thread → Thread) : (s.updThr k t f).dbgEvents = s.dbgEvents := State.updGrp_dbgEvents ..
@[simp] theorem State.updThr_dbgAnswer (s : State) (k t : Nat) (f : Thread → Thread) : (s.updThr k t f).dbgAnswer = s.dbgAnswer := State.updGrp_dbgAnswer ..
@[simp] theorem State.updThr_dbgNext (s : State) (k t : Nat) (f : Thread → Thread) : (s.updThr k t f).dbgNext = s.dbgNext := State.updGrp_dbgNext ..
@[simp] theorem State.updThr_dbgHold (s : State) (k t : Nat) (f : Thread → Thread) : (s.updThr k t f).dbgHold = s.dbgHold := State.updGrp_dbgHold ..
@[simp] theorem State.updThr_errs (s : State) (k t : Nat) (f : Thread → Thread) : (s.updThr k t f).errs = s.errs := State.updGrp_errs ..
@[simp] theorem State.updThr_reports (s : State) (k t : Nat) (f : Thread → Thread) : (s.updThr k t f).reports = s.reports := State.updGrp_reports ..
@[simp] theorem State.updThr_served (s : State) (k t : Nat) (f : Thread → Thread) : (s.updThr k t f).served = s.served := State.updGrp_served ..
@[simp] theorem State.updThr_ticket (s : State) (k t : Nat) (f : Thread → Thread) : (s.updThr k t f).ticket = s.ticket := State.updGrp_ticket ..
@[simp] theorem State.updThr_nextId (s : State) (k t : Nat) (f : Thread → Thread) : (s.updThr k t f).nextId = s.nextId := State.updGrp_nextId ..
@[simp] theorem State.updThr_free (s : State) (k t : Nat) (f : Thread → Thread) : (s.updThr k t f).free = s.free := State.updGrp_free ..
@[simp] theorem State.updThr_agenda (s : State) (k t : Nat) (f : Thread → Thread) : (s.updThr k t f).agenda = s.agenda := State.updGrp_agenda ..

/-! ### updBlk -/

@[simp] theorem State.updBlk_clk (s : State) (k : Nat) (f : Block → Block) : (s.updBlk k f).clk = s.clk := rfl
@[simp] theorem State.updBlk_ref252 (s : State) (k : Nat) (f : Block → Block) : (s.updBlk k f).ref252 = s.ref252 := rfl
@[simp] theorem State.updBlk_freq (s : State) (k : Nat) (f : Block → Block) : (s.updBlk k f).freq = s.freq := rfl
@[simp] theorem State.updBlk_service (s : State) (k : Nat) (f : Block → Block) : (s.updBlk k f).service = s.service := rfl
@[simp] theorem State.updBlk_ctxs (s : State) (k : Nat) (f : Block → Block) : (s.updBlk k f).ctxs = s.ctxs := rfl
@[simp] theorem State.updBlk_grids (s : State) (k : Nat) (f : Block → Block) : (s.updBlk k f).grids = s.grids := rfl
@[simp] theorem State.updBlk_groups (s : State) (k : Nat) (f : Block → Block) : (s.updBlk k f).groups = s.groups := rfl
@[simp] theorem State.updBlk_runs (s : State) (k : Nat) (f : Block → Block) : (s.updBlk k f).runs = s.runs := rfl
@[simp] theorem State.updBlk_busy (s : State) (k : Nat) (f : Block → Block) : (s.updBlk k f).busy = s.busy := rfl
@[simp] theorem State.updBlk_cur (s : State) (k : Nat) (f : Block → Block) : (s.updBlk k f).cur = s.cur := rfl
@[simp] theorem State.updBlk_mem (s : State) (k : Nat) (f : Block → Block) : (s.updBlk k f).mem = s.mem := rfl
@[simp] theorem State.updBlk_hist (s : State) (k : Nat) (f : Block → Block) : (s.updBlk k f).hist = s.hist := rfl
@[simp] theorem State.updBlk_scSeen (s : State) (k : Nat) (f : Block → Block) : (s.updBlk k f).scSeen = s.scSeen := rfl
@[simp] theorem State.updBlk_poison (s : State) (k : Nat) (f : Block → Block) : (s.updBlk k f).poison = s.poison := rfl
@[simp] theorem State.updBlk_bufs (s : State) (k : Nat) (f : Block → Block) : (s.updBlk k f).bufs = s.bufs := rfl
@[simp] theorem State.updBlk_frames (s : State) (k : Nat) (f : Block → Block) : (s.updBlk k f).frames = s.frames := rfl
@[simp] theorem State.updBlk_tlb (s : State) (k : Nat) (f : Block → Block) : (s.updBlk k f).tlb = s.tlb := rfl
@[simp] theorem State.updBlk_walks (s : State) (k : Nat) (f : Block → Block) : (s.updBlk k f).walks = s.walks := rfl
@[simp] theorem State.updBlk_lastPages (s : State) (k : Nat) (f : Block → Block) : (s.updBlk k f).lastPages = s.lastPages := rfl
@[simp] theorem State.updBlk_l1 (s : State) (k : Nat) (f : Block → Block) : (s.updBlk k f).l1 = s.l1 := rfl
@[simp] theorem State.updBlk_l2 (s : State) (k : Nat) (f : Block → Block) : (s.updBlk k f).l2 = s.l2 := rfl
@[simp] theorem State.updBlk_wbs (s : State) (k : Nat) (f : Block → Block) : (s.updBlk k f).wbs = s.wbs := rfl
@[simp] theorem State.updBlk_fused (s : State) (k : Nat) (f : Block → Block) : (s.updBlk k f).fused = s.fused := rfl
@[simp] theorem State.updBlk_reqs (s : State) (k : Nat) (f : Block → Block) : (s.updBlk k f).reqs = s.reqs := rfl
@[simp] theorem State.updBlk_ctxops (s : State) (k : Nat) (f : Block → Block) : (s.updBlk k f).ctxops = s.ctxops := rfl
@[simp] theorem State.updBlk_rus (s : State) (k : Nat) (f : Block → Block) : (s.updBlk k f).rus = s.rus := rfl
@[simp] theorem State.updBlk_rdefs (s : State) (k : Nat) (f : Block → Block) : (s.updBlk k f).rdefs = s.rdefs := rfl
@[simp] theorem State.updBlk_bts (s : State) (k : Nat) (f : Block → Block) : (s.updBlk k f).bts = s.bts := rfl
@[simp] theorem State.updBlk_mxs (s : State) (k : Nat) (f : Block → Block) : (s.updBlk k f).mxs = s.mxs := rfl
@[simp] theorem State.updBlk_ramps (s : State) (k : Nat) (f : Block → Block) : (s.updBlk k f).ramps = s.ramps := rfl
@[simp] theorem State.updBlk_msgs (s : State) (k : Nat) (f : Block → Block) : (s.updBlk k f).msgs = s.msgs := rfl
@[simp] theorem State.updBlk_traps (s : State) (k : Nat) (f : Block → Block) : (s.updBlk k f).traps = s.traps := rfl
@[simp] theorem State.updBlk_recs (s : State) (k : Nat) (f : Block → Block) : (s.updBlk k f).recs = s.recs := rfl
@[simp] theorem State.updBlk_parts (s : State) (k : Nat) (f : Block → Block) : (s.updBlk k f).parts = s.parts := rfl
@[simp] theorem State.updBlk_vfs (s : State) (k : Nat) (f : Block → Block) : (s.updBlk k f).vfs = s.vfs := rfl
@[simp] theorem State.updBlk_vfEnable (s : State) (k : Nat) (f : Block → Block) : (s.updBlk k f).vfEnable = s.vfEnable := rfl
@[simp] theorem State.updBlk_vfClearing (s : State) (k : Nat) (f : Block → Block) : (s.updBlk k f).vfClearing = s.vfClearing := rfl
@[simp] theorem State.updBlk_links (s : State) (k : Nat) (f : Block → Block) : (s.updBlk k f).links = s.links := rfl
@[simp] theorem State.updBlk_ingress (s : State) (k : Nat) (f : Block → Block) : (s.updBlk k f).ingress = s.ingress := rfl
@[simp] theorem State.updBlk_msix (s : State) (k : Nat) (f : Block → Block) : (s.updBlk k f).msix = s.msix := rfl
@[simp] theorem State.updBlk_irqs (s : State) (k : Nat) (f : Block → Block) : (s.updBlk k f).irqs = s.irqs := rfl
@[simp] theorem State.updBlk_kicks (s : State) (k : Nat) (f : Block → Block) : (s.updBlk k f).kicks = s.kicks := rfl
@[simp] theorem State.updBlk_kerr (s : State) (k : Nat) (f : Block → Block) : (s.updBlk k f).kerr = s.kerr := rfl
@[simp] theorem State.updBlk_hostif (s : State) (k : Nat) (f : Block → Block) : (s.updBlk k f).hostif = s.hostif := rfl
@[simp] theorem State.updBlk_answer (s : State) (k : Nat) (f : Block → Block) : (s.updBlk k f).answer = s.answer := rfl
@[simp] theorem State.updBlk_spdm (s : State) (k : Nat) (f : Block → Block) : (s.updBlk k f).spdm = s.spdm := rfl
@[simp] theorem State.updBlk_mmio (s : State) (k : Nat) (f : Block → Block) : (s.updBlk k f).mmio = s.mmio := rfl
@[simp] theorem State.updBlk_flash (s : State) (k : Nat) (f : Block → Block) : (s.updBlk k f).flash = s.flash := rfl
@[simp] theorem State.updBlk_hrow (s : State) (k : Nat) (f : Block → Block) : (s.updBlk k f).hrow = s.hrow := rfl
@[simp] theorem State.updBlk_rows (s : State) (k : Nat) (f : Block → Block) : (s.updBlk k f).rows = s.rows := rfl
@[simp] theorem State.updBlk_holds (s : State) (k : Nat) (f : Block → Block) : (s.updBlk k f).holds = s.holds := rfl
@[simp] theorem State.updBlk_saveBytes (s : State) (k : Nat) (f : Block → Block) : (s.updBlk k f).saveBytes = s.saveBytes := rfl
@[simp] theorem State.updBlk_anyNew (s : State) (k : Nat) (f : Block → Block) : (s.updBlk k f).anyNew = s.anyNew := rfl
@[simp] theorem State.updBlk_attach (s : State) (k : Nat) (f : Block → Block) : (s.updBlk k f).attach = s.attach := rfl
@[simp] theorem State.updBlk_dbgEvents (s : State) (k : Nat) (f : Block → Block) : (s.updBlk k f).dbgEvents = s.dbgEvents := rfl
@[simp] theorem State.updBlk_dbgAnswer (s : State) (k : Nat) (f : Block → Block) : (s.updBlk k f).dbgAnswer = s.dbgAnswer := rfl
@[simp] theorem State.updBlk_dbgNext (s : State) (k : Nat) (f : Block → Block) : (s.updBlk k f).dbgNext = s.dbgNext := rfl
@[simp] theorem State.updBlk_dbgHold (s : State) (k : Nat) (f : Block → Block) : (s.updBlk k f).dbgHold = s.dbgHold := rfl
@[simp] theorem State.updBlk_errs (s : State) (k : Nat) (f : Block → Block) : (s.updBlk k f).errs = s.errs := rfl
@[simp] theorem State.updBlk_reports (s : State) (k : Nat) (f : Block → Block) : (s.updBlk k f).reports = s.reports := rfl
@[simp] theorem State.updBlk_served (s : State) (k : Nat) (f : Block → Block) : (s.updBlk k f).served = s.served := rfl
@[simp] theorem State.updBlk_ticket (s : State) (k : Nat) (f : Block → Block) : (s.updBlk k f).ticket = s.ticket := rfl
@[simp] theorem State.updBlk_nextId (s : State) (k : Nat) (f : Block → Block) : (s.updBlk k f).nextId = s.nextId := rfl
@[simp] theorem State.updBlk_free (s : State) (k : Nat) (f : Block → Block) : (s.updBlk k f).free = s.free := rfl
@[simp] theorem State.updBlk_agenda (s : State) (k : Nat) (f : Block → Block) : (s.updBlk k f).agenda = s.agenda := rfl

/-! ### updGrid -/

@[simp] theorem State.updGrid_clk (s : State) (k : Nat) (f : Grid → Grid) : (s.updGrid k f).clk = s.clk := rfl
@[simp] theorem State.updGrid_ref252 (s : State) (k : Nat) (f : Grid → Grid) : (s.updGrid k f).ref252 = s.ref252 := rfl
@[simp] theorem State.updGrid_freq (s : State) (k : Nat) (f : Grid → Grid) : (s.updGrid k f).freq = s.freq := rfl
@[simp] theorem State.updGrid_service (s : State) (k : Nat) (f : Grid → Grid) : (s.updGrid k f).service = s.service := rfl
@[simp] theorem State.updGrid_ctxs (s : State) (k : Nat) (f : Grid → Grid) : (s.updGrid k f).ctxs = s.ctxs := rfl
@[simp] theorem State.updGrid_blocks (s : State) (k : Nat) (f : Grid → Grid) : (s.updGrid k f).blocks = s.blocks := rfl
@[simp] theorem State.updGrid_groups (s : State) (k : Nat) (f : Grid → Grid) : (s.updGrid k f).groups = s.groups := rfl
@[simp] theorem State.updGrid_runs (s : State) (k : Nat) (f : Grid → Grid) : (s.updGrid k f).runs = s.runs := rfl
@[simp] theorem State.updGrid_busy (s : State) (k : Nat) (f : Grid → Grid) : (s.updGrid k f).busy = s.busy := rfl
@[simp] theorem State.updGrid_cur (s : State) (k : Nat) (f : Grid → Grid) : (s.updGrid k f).cur = s.cur := rfl
@[simp] theorem State.updGrid_mem (s : State) (k : Nat) (f : Grid → Grid) : (s.updGrid k f).mem = s.mem := rfl
@[simp] theorem State.updGrid_hist (s : State) (k : Nat) (f : Grid → Grid) : (s.updGrid k f).hist = s.hist := rfl
@[simp] theorem State.updGrid_scSeen (s : State) (k : Nat) (f : Grid → Grid) : (s.updGrid k f).scSeen = s.scSeen := rfl
@[simp] theorem State.updGrid_poison (s : State) (k : Nat) (f : Grid → Grid) : (s.updGrid k f).poison = s.poison := rfl
@[simp] theorem State.updGrid_bufs (s : State) (k : Nat) (f : Grid → Grid) : (s.updGrid k f).bufs = s.bufs := rfl
@[simp] theorem State.updGrid_frames (s : State) (k : Nat) (f : Grid → Grid) : (s.updGrid k f).frames = s.frames := rfl
@[simp] theorem State.updGrid_tlb (s : State) (k : Nat) (f : Grid → Grid) : (s.updGrid k f).tlb = s.tlb := rfl
@[simp] theorem State.updGrid_walks (s : State) (k : Nat) (f : Grid → Grid) : (s.updGrid k f).walks = s.walks := rfl
@[simp] theorem State.updGrid_lastPages (s : State) (k : Nat) (f : Grid → Grid) : (s.updGrid k f).lastPages = s.lastPages := rfl
@[simp] theorem State.updGrid_l1 (s : State) (k : Nat) (f : Grid → Grid) : (s.updGrid k f).l1 = s.l1 := rfl
@[simp] theorem State.updGrid_l2 (s : State) (k : Nat) (f : Grid → Grid) : (s.updGrid k f).l2 = s.l2 := rfl
@[simp] theorem State.updGrid_wbs (s : State) (k : Nat) (f : Grid → Grid) : (s.updGrid k f).wbs = s.wbs := rfl
@[simp] theorem State.updGrid_fused (s : State) (k : Nat) (f : Grid → Grid) : (s.updGrid k f).fused = s.fused := rfl
@[simp] theorem State.updGrid_reqs (s : State) (k : Nat) (f : Grid → Grid) : (s.updGrid k f).reqs = s.reqs := rfl
@[simp] theorem State.updGrid_ctxops (s : State) (k : Nat) (f : Grid → Grid) : (s.updGrid k f).ctxops = s.ctxops := rfl
@[simp] theorem State.updGrid_rus (s : State) (k : Nat) (f : Grid → Grid) : (s.updGrid k f).rus = s.rus := rfl
@[simp] theorem State.updGrid_rdefs (s : State) (k : Nat) (f : Grid → Grid) : (s.updGrid k f).rdefs = s.rdefs := rfl
@[simp] theorem State.updGrid_bts (s : State) (k : Nat) (f : Grid → Grid) : (s.updGrid k f).bts = s.bts := rfl
@[simp] theorem State.updGrid_mxs (s : State) (k : Nat) (f : Grid → Grid) : (s.updGrid k f).mxs = s.mxs := rfl
@[simp] theorem State.updGrid_ramps (s : State) (k : Nat) (f : Grid → Grid) : (s.updGrid k f).ramps = s.ramps := rfl
@[simp] theorem State.updGrid_msgs (s : State) (k : Nat) (f : Grid → Grid) : (s.updGrid k f).msgs = s.msgs := rfl
@[simp] theorem State.updGrid_traps (s : State) (k : Nat) (f : Grid → Grid) : (s.updGrid k f).traps = s.traps := rfl
@[simp] theorem State.updGrid_recs (s : State) (k : Nat) (f : Grid → Grid) : (s.updGrid k f).recs = s.recs := rfl
@[simp] theorem State.updGrid_parts (s : State) (k : Nat) (f : Grid → Grid) : (s.updGrid k f).parts = s.parts := rfl
@[simp] theorem State.updGrid_vfs (s : State) (k : Nat) (f : Grid → Grid) : (s.updGrid k f).vfs = s.vfs := rfl
@[simp] theorem State.updGrid_vfEnable (s : State) (k : Nat) (f : Grid → Grid) : (s.updGrid k f).vfEnable = s.vfEnable := rfl
@[simp] theorem State.updGrid_vfClearing (s : State) (k : Nat) (f : Grid → Grid) : (s.updGrid k f).vfClearing = s.vfClearing := rfl
@[simp] theorem State.updGrid_links (s : State) (k : Nat) (f : Grid → Grid) : (s.updGrid k f).links = s.links := rfl
@[simp] theorem State.updGrid_ingress (s : State) (k : Nat) (f : Grid → Grid) : (s.updGrid k f).ingress = s.ingress := rfl
@[simp] theorem State.updGrid_msix (s : State) (k : Nat) (f : Grid → Grid) : (s.updGrid k f).msix = s.msix := rfl
@[simp] theorem State.updGrid_irqs (s : State) (k : Nat) (f : Grid → Grid) : (s.updGrid k f).irqs = s.irqs := rfl
@[simp] theorem State.updGrid_kicks (s : State) (k : Nat) (f : Grid → Grid) : (s.updGrid k f).kicks = s.kicks := rfl
@[simp] theorem State.updGrid_kerr (s : State) (k : Nat) (f : Grid → Grid) : (s.updGrid k f).kerr = s.kerr := rfl
@[simp] theorem State.updGrid_hostif (s : State) (k : Nat) (f : Grid → Grid) : (s.updGrid k f).hostif = s.hostif := rfl
@[simp] theorem State.updGrid_answer (s : State) (k : Nat) (f : Grid → Grid) : (s.updGrid k f).answer = s.answer := rfl
@[simp] theorem State.updGrid_spdm (s : State) (k : Nat) (f : Grid → Grid) : (s.updGrid k f).spdm = s.spdm := rfl
@[simp] theorem State.updGrid_mmio (s : State) (k : Nat) (f : Grid → Grid) : (s.updGrid k f).mmio = s.mmio := rfl
@[simp] theorem State.updGrid_flash (s : State) (k : Nat) (f : Grid → Grid) : (s.updGrid k f).flash = s.flash := rfl
@[simp] theorem State.updGrid_hrow (s : State) (k : Nat) (f : Grid → Grid) : (s.updGrid k f).hrow = s.hrow := rfl
@[simp] theorem State.updGrid_rows (s : State) (k : Nat) (f : Grid → Grid) : (s.updGrid k f).rows = s.rows := rfl
@[simp] theorem State.updGrid_holds (s : State) (k : Nat) (f : Grid → Grid) : (s.updGrid k f).holds = s.holds := rfl
@[simp] theorem State.updGrid_saveBytes (s : State) (k : Nat) (f : Grid → Grid) : (s.updGrid k f).saveBytes = s.saveBytes := rfl
@[simp] theorem State.updGrid_anyNew (s : State) (k : Nat) (f : Grid → Grid) : (s.updGrid k f).anyNew = s.anyNew := rfl
@[simp] theorem State.updGrid_attach (s : State) (k : Nat) (f : Grid → Grid) : (s.updGrid k f).attach = s.attach := rfl
@[simp] theorem State.updGrid_dbgEvents (s : State) (k : Nat) (f : Grid → Grid) : (s.updGrid k f).dbgEvents = s.dbgEvents := rfl
@[simp] theorem State.updGrid_dbgAnswer (s : State) (k : Nat) (f : Grid → Grid) : (s.updGrid k f).dbgAnswer = s.dbgAnswer := rfl
@[simp] theorem State.updGrid_dbgNext (s : State) (k : Nat) (f : Grid → Grid) : (s.updGrid k f).dbgNext = s.dbgNext := rfl
@[simp] theorem State.updGrid_dbgHold (s : State) (k : Nat) (f : Grid → Grid) : (s.updGrid k f).dbgHold = s.dbgHold := rfl
@[simp] theorem State.updGrid_errs (s : State) (k : Nat) (f : Grid → Grid) : (s.updGrid k f).errs = s.errs := rfl
@[simp] theorem State.updGrid_reports (s : State) (k : Nat) (f : Grid → Grid) : (s.updGrid k f).reports = s.reports := rfl
@[simp] theorem State.updGrid_served (s : State) (k : Nat) (f : Grid → Grid) : (s.updGrid k f).served = s.served := rfl
@[simp] theorem State.updGrid_ticket (s : State) (k : Nat) (f : Grid → Grid) : (s.updGrid k f).ticket = s.ticket := rfl
@[simp] theorem State.updGrid_nextId (s : State) (k : Nat) (f : Grid → Grid) : (s.updGrid k f).nextId = s.nextId := rfl
@[simp] theorem State.updGrid_free (s : State) (k : Nat) (f : Grid → Grid) : (s.updGrid k f).free = s.free := rfl
@[simp] theorem State.updGrid_agenda (s : State) (k : Nat) (f : Grid → Grid) : (s.updGrid k f).agenda = s.agenda := rfl

/-! ### updReq -/

@[simp] theorem State.updReq_clk (s : State) (k : Nat) (f : Req → Req) : (s.updReq k f).clk = s.clk := rfl
@[simp] theorem State.updReq_ref252 (s : State) (k : Nat) (f : Req → Req) : (s.updReq k f).ref252 = s.ref252 := rfl
@[simp] theorem State.updReq_freq (s : State) (k : Nat) (f : Req → Req) : (s.updReq k f).freq = s.freq := rfl
@[simp] theorem State.updReq_service (s : State) (k : Nat) (f : Req → Req) : (s.updReq k f).service = s.service := rfl
@[simp] theorem State.updReq_ctxs (s : State) (k : Nat) (f : Req → Req) : (s.updReq k f).ctxs = s.ctxs := rfl
@[simp] theorem State.updReq_grids (s : State) (k : Nat) (f : Req → Req) : (s.updReq k f).grids = s.grids := rfl
@[simp] theorem State.updReq_blocks (s : State) (k : Nat) (f : Req → Req) : (s.updReq k f).blocks = s.blocks := rfl
@[simp] theorem State.updReq_groups (s : State) (k : Nat) (f : Req → Req) : (s.updReq k f).groups = s.groups := rfl
@[simp] theorem State.updReq_runs (s : State) (k : Nat) (f : Req → Req) : (s.updReq k f).runs = s.runs := rfl
@[simp] theorem State.updReq_busy (s : State) (k : Nat) (f : Req → Req) : (s.updReq k f).busy = s.busy := rfl
@[simp] theorem State.updReq_cur (s : State) (k : Nat) (f : Req → Req) : (s.updReq k f).cur = s.cur := rfl
@[simp] theorem State.updReq_mem (s : State) (k : Nat) (f : Req → Req) : (s.updReq k f).mem = s.mem := rfl
@[simp] theorem State.updReq_hist (s : State) (k : Nat) (f : Req → Req) : (s.updReq k f).hist = s.hist := rfl
@[simp] theorem State.updReq_scSeen (s : State) (k : Nat) (f : Req → Req) : (s.updReq k f).scSeen = s.scSeen := rfl
@[simp] theorem State.updReq_poison (s : State) (k : Nat) (f : Req → Req) : (s.updReq k f).poison = s.poison := rfl
@[simp] theorem State.updReq_bufs (s : State) (k : Nat) (f : Req → Req) : (s.updReq k f).bufs = s.bufs := rfl
@[simp] theorem State.updReq_frames (s : State) (k : Nat) (f : Req → Req) : (s.updReq k f).frames = s.frames := rfl
@[simp] theorem State.updReq_tlb (s : State) (k : Nat) (f : Req → Req) : (s.updReq k f).tlb = s.tlb := rfl
@[simp] theorem State.updReq_walks (s : State) (k : Nat) (f : Req → Req) : (s.updReq k f).walks = s.walks := rfl
@[simp] theorem State.updReq_lastPages (s : State) (k : Nat) (f : Req → Req) : (s.updReq k f).lastPages = s.lastPages := rfl
@[simp] theorem State.updReq_l1 (s : State) (k : Nat) (f : Req → Req) : (s.updReq k f).l1 = s.l1 := rfl
@[simp] theorem State.updReq_l2 (s : State) (k : Nat) (f : Req → Req) : (s.updReq k f).l2 = s.l2 := rfl
@[simp] theorem State.updReq_wbs (s : State) (k : Nat) (f : Req → Req) : (s.updReq k f).wbs = s.wbs := rfl
@[simp] theorem State.updReq_fused (s : State) (k : Nat) (f : Req → Req) : (s.updReq k f).fused = s.fused := rfl
@[simp] theorem State.updReq_ctxops (s : State) (k : Nat) (f : Req → Req) : (s.updReq k f).ctxops = s.ctxops := rfl
@[simp] theorem State.updReq_rus (s : State) (k : Nat) (f : Req → Req) : (s.updReq k f).rus = s.rus := rfl
@[simp] theorem State.updReq_rdefs (s : State) (k : Nat) (f : Req → Req) : (s.updReq k f).rdefs = s.rdefs := rfl
@[simp] theorem State.updReq_bts (s : State) (k : Nat) (f : Req → Req) : (s.updReq k f).bts = s.bts := rfl
@[simp] theorem State.updReq_mxs (s : State) (k : Nat) (f : Req → Req) : (s.updReq k f).mxs = s.mxs := rfl
@[simp] theorem State.updReq_ramps (s : State) (k : Nat) (f : Req → Req) : (s.updReq k f).ramps = s.ramps := rfl
@[simp] theorem State.updReq_msgs (s : State) (k : Nat) (f : Req → Req) : (s.updReq k f).msgs = s.msgs := rfl
@[simp] theorem State.updReq_traps (s : State) (k : Nat) (f : Req → Req) : (s.updReq k f).traps = s.traps := rfl
@[simp] theorem State.updReq_recs (s : State) (k : Nat) (f : Req → Req) : (s.updReq k f).recs = s.recs := rfl
@[simp] theorem State.updReq_parts (s : State) (k : Nat) (f : Req → Req) : (s.updReq k f).parts = s.parts := rfl
@[simp] theorem State.updReq_vfs (s : State) (k : Nat) (f : Req → Req) : (s.updReq k f).vfs = s.vfs := rfl
@[simp] theorem State.updReq_vfEnable (s : State) (k : Nat) (f : Req → Req) : (s.updReq k f).vfEnable = s.vfEnable := rfl
@[simp] theorem State.updReq_vfClearing (s : State) (k : Nat) (f : Req → Req) : (s.updReq k f).vfClearing = s.vfClearing := rfl
@[simp] theorem State.updReq_links (s : State) (k : Nat) (f : Req → Req) : (s.updReq k f).links = s.links := rfl
@[simp] theorem State.updReq_ingress (s : State) (k : Nat) (f : Req → Req) : (s.updReq k f).ingress = s.ingress := rfl
@[simp] theorem State.updReq_msix (s : State) (k : Nat) (f : Req → Req) : (s.updReq k f).msix = s.msix := rfl
@[simp] theorem State.updReq_irqs (s : State) (k : Nat) (f : Req → Req) : (s.updReq k f).irqs = s.irqs := rfl
@[simp] theorem State.updReq_kicks (s : State) (k : Nat) (f : Req → Req) : (s.updReq k f).kicks = s.kicks := rfl
@[simp] theorem State.updReq_kerr (s : State) (k : Nat) (f : Req → Req) : (s.updReq k f).kerr = s.kerr := rfl
@[simp] theorem State.updReq_hostif (s : State) (k : Nat) (f : Req → Req) : (s.updReq k f).hostif = s.hostif := rfl
@[simp] theorem State.updReq_answer (s : State) (k : Nat) (f : Req → Req) : (s.updReq k f).answer = s.answer := rfl
@[simp] theorem State.updReq_spdm (s : State) (k : Nat) (f : Req → Req) : (s.updReq k f).spdm = s.spdm := rfl
@[simp] theorem State.updReq_mmio (s : State) (k : Nat) (f : Req → Req) : (s.updReq k f).mmio = s.mmio := rfl
@[simp] theorem State.updReq_flash (s : State) (k : Nat) (f : Req → Req) : (s.updReq k f).flash = s.flash := rfl
@[simp] theorem State.updReq_hrow (s : State) (k : Nat) (f : Req → Req) : (s.updReq k f).hrow = s.hrow := rfl
@[simp] theorem State.updReq_rows (s : State) (k : Nat) (f : Req → Req) : (s.updReq k f).rows = s.rows := rfl
@[simp] theorem State.updReq_holds (s : State) (k : Nat) (f : Req → Req) : (s.updReq k f).holds = s.holds := rfl
@[simp] theorem State.updReq_saveBytes (s : State) (k : Nat) (f : Req → Req) : (s.updReq k f).saveBytes = s.saveBytes := rfl
@[simp] theorem State.updReq_anyNew (s : State) (k : Nat) (f : Req → Req) : (s.updReq k f).anyNew = s.anyNew := rfl
@[simp] theorem State.updReq_attach (s : State) (k : Nat) (f : Req → Req) : (s.updReq k f).attach = s.attach := rfl
@[simp] theorem State.updReq_dbgEvents (s : State) (k : Nat) (f : Req → Req) : (s.updReq k f).dbgEvents = s.dbgEvents := rfl
@[simp] theorem State.updReq_dbgAnswer (s : State) (k : Nat) (f : Req → Req) : (s.updReq k f).dbgAnswer = s.dbgAnswer := rfl
@[simp] theorem State.updReq_dbgNext (s : State) (k : Nat) (f : Req → Req) : (s.updReq k f).dbgNext = s.dbgNext := rfl
@[simp] theorem State.updReq_dbgHold (s : State) (k : Nat) (f : Req → Req) : (s.updReq k f).dbgHold = s.dbgHold := rfl
@[simp] theorem State.updReq_errs (s : State) (k : Nat) (f : Req → Req) : (s.updReq k f).errs = s.errs := rfl
@[simp] theorem State.updReq_reports (s : State) (k : Nat) (f : Req → Req) : (s.updReq k f).reports = s.reports := rfl
@[simp] theorem State.updReq_served (s : State) (k : Nat) (f : Req → Req) : (s.updReq k f).served = s.served := rfl
@[simp] theorem State.updReq_ticket (s : State) (k : Nat) (f : Req → Req) : (s.updReq k f).ticket = s.ticket := rfl
@[simp] theorem State.updReq_nextId (s : State) (k : Nat) (f : Req → Req) : (s.updReq k f).nextId = s.nextId := rfl
@[simp] theorem State.updReq_free (s : State) (k : Nat) (f : Req → Req) : (s.updReq k f).free = s.free := rfl
@[simp] theorem State.updReq_agenda (s : State) (k : Nat) (f : Req → Req) : (s.updReq k f).agenda = s.agenda := rfl

/-! ### updRu -/

@[simp] theorem State.updRu_clk (s : State) (k : Nat) (f : RuReq → RuReq) : (s.updRu k f).clk = s.clk := rfl
@[simp] theorem State.updRu_ref252 (s : State) (k : Nat) (f : RuReq → RuReq) : (s.updRu k f).ref252 = s.ref252 := rfl
@[simp] theorem State.updRu_freq (s : State) (k : Nat) (f : RuReq → RuReq) : (s.updRu k f).freq = s.freq := rfl
@[simp] theorem State.updRu_service (s : State) (k : Nat) (f : RuReq → RuReq) : (s.updRu k f).service = s.service := rfl
@[simp] theorem State.updRu_ctxs (s : State) (k : Nat) (f : RuReq → RuReq) : (s.updRu k f).ctxs = s.ctxs := rfl
@[simp] theorem State.updRu_grids (s : State) (k : Nat) (f : RuReq → RuReq) : (s.updRu k f).grids = s.grids := rfl
@[simp] theorem State.updRu_blocks (s : State) (k : Nat) (f : RuReq → RuReq) : (s.updRu k f).blocks = s.blocks := rfl
@[simp] theorem State.updRu_groups (s : State) (k : Nat) (f : RuReq → RuReq) : (s.updRu k f).groups = s.groups := rfl
@[simp] theorem State.updRu_runs (s : State) (k : Nat) (f : RuReq → RuReq) : (s.updRu k f).runs = s.runs := rfl
@[simp] theorem State.updRu_busy (s : State) (k : Nat) (f : RuReq → RuReq) : (s.updRu k f).busy = s.busy := rfl
@[simp] theorem State.updRu_cur (s : State) (k : Nat) (f : RuReq → RuReq) : (s.updRu k f).cur = s.cur := rfl
@[simp] theorem State.updRu_mem (s : State) (k : Nat) (f : RuReq → RuReq) : (s.updRu k f).mem = s.mem := rfl
@[simp] theorem State.updRu_hist (s : State) (k : Nat) (f : RuReq → RuReq) : (s.updRu k f).hist = s.hist := rfl
@[simp] theorem State.updRu_scSeen (s : State) (k : Nat) (f : RuReq → RuReq) : (s.updRu k f).scSeen = s.scSeen := rfl
@[simp] theorem State.updRu_poison (s : State) (k : Nat) (f : RuReq → RuReq) : (s.updRu k f).poison = s.poison := rfl
@[simp] theorem State.updRu_bufs (s : State) (k : Nat) (f : RuReq → RuReq) : (s.updRu k f).bufs = s.bufs := rfl
@[simp] theorem State.updRu_frames (s : State) (k : Nat) (f : RuReq → RuReq) : (s.updRu k f).frames = s.frames := rfl
@[simp] theorem State.updRu_tlb (s : State) (k : Nat) (f : RuReq → RuReq) : (s.updRu k f).tlb = s.tlb := rfl
@[simp] theorem State.updRu_walks (s : State) (k : Nat) (f : RuReq → RuReq) : (s.updRu k f).walks = s.walks := rfl
@[simp] theorem State.updRu_lastPages (s : State) (k : Nat) (f : RuReq → RuReq) : (s.updRu k f).lastPages = s.lastPages := rfl
@[simp] theorem State.updRu_l1 (s : State) (k : Nat) (f : RuReq → RuReq) : (s.updRu k f).l1 = s.l1 := rfl
@[simp] theorem State.updRu_l2 (s : State) (k : Nat) (f : RuReq → RuReq) : (s.updRu k f).l2 = s.l2 := rfl
@[simp] theorem State.updRu_wbs (s : State) (k : Nat) (f : RuReq → RuReq) : (s.updRu k f).wbs = s.wbs := rfl
@[simp] theorem State.updRu_fused (s : State) (k : Nat) (f : RuReq → RuReq) : (s.updRu k f).fused = s.fused := rfl
@[simp] theorem State.updRu_reqs (s : State) (k : Nat) (f : RuReq → RuReq) : (s.updRu k f).reqs = s.reqs := rfl
@[simp] theorem State.updRu_ctxops (s : State) (k : Nat) (f : RuReq → RuReq) : (s.updRu k f).ctxops = s.ctxops := rfl
@[simp] theorem State.updRu_rdefs (s : State) (k : Nat) (f : RuReq → RuReq) : (s.updRu k f).rdefs = s.rdefs := rfl
@[simp] theorem State.updRu_bts (s : State) (k : Nat) (f : RuReq → RuReq) : (s.updRu k f).bts = s.bts := rfl
@[simp] theorem State.updRu_mxs (s : State) (k : Nat) (f : RuReq → RuReq) : (s.updRu k f).mxs = s.mxs := rfl
@[simp] theorem State.updRu_ramps (s : State) (k : Nat) (f : RuReq → RuReq) : (s.updRu k f).ramps = s.ramps := rfl
@[simp] theorem State.updRu_msgs (s : State) (k : Nat) (f : RuReq → RuReq) : (s.updRu k f).msgs = s.msgs := rfl
@[simp] theorem State.updRu_traps (s : State) (k : Nat) (f : RuReq → RuReq) : (s.updRu k f).traps = s.traps := rfl
@[simp] theorem State.updRu_recs (s : State) (k : Nat) (f : RuReq → RuReq) : (s.updRu k f).recs = s.recs := rfl
@[simp] theorem State.updRu_parts (s : State) (k : Nat) (f : RuReq → RuReq) : (s.updRu k f).parts = s.parts := rfl
@[simp] theorem State.updRu_vfs (s : State) (k : Nat) (f : RuReq → RuReq) : (s.updRu k f).vfs = s.vfs := rfl
@[simp] theorem State.updRu_vfEnable (s : State) (k : Nat) (f : RuReq → RuReq) : (s.updRu k f).vfEnable = s.vfEnable := rfl
@[simp] theorem State.updRu_vfClearing (s : State) (k : Nat) (f : RuReq → RuReq) : (s.updRu k f).vfClearing = s.vfClearing := rfl
@[simp] theorem State.updRu_links (s : State) (k : Nat) (f : RuReq → RuReq) : (s.updRu k f).links = s.links := rfl
@[simp] theorem State.updRu_ingress (s : State) (k : Nat) (f : RuReq → RuReq) : (s.updRu k f).ingress = s.ingress := rfl
@[simp] theorem State.updRu_msix (s : State) (k : Nat) (f : RuReq → RuReq) : (s.updRu k f).msix = s.msix := rfl
@[simp] theorem State.updRu_irqs (s : State) (k : Nat) (f : RuReq → RuReq) : (s.updRu k f).irqs = s.irqs := rfl
@[simp] theorem State.updRu_kicks (s : State) (k : Nat) (f : RuReq → RuReq) : (s.updRu k f).kicks = s.kicks := rfl
@[simp] theorem State.updRu_kerr (s : State) (k : Nat) (f : RuReq → RuReq) : (s.updRu k f).kerr = s.kerr := rfl
@[simp] theorem State.updRu_hostif (s : State) (k : Nat) (f : RuReq → RuReq) : (s.updRu k f).hostif = s.hostif := rfl
@[simp] theorem State.updRu_answer (s : State) (k : Nat) (f : RuReq → RuReq) : (s.updRu k f).answer = s.answer := rfl
@[simp] theorem State.updRu_spdm (s : State) (k : Nat) (f : RuReq → RuReq) : (s.updRu k f).spdm = s.spdm := rfl
@[simp] theorem State.updRu_mmio (s : State) (k : Nat) (f : RuReq → RuReq) : (s.updRu k f).mmio = s.mmio := rfl
@[simp] theorem State.updRu_flash (s : State) (k : Nat) (f : RuReq → RuReq) : (s.updRu k f).flash = s.flash := rfl
@[simp] theorem State.updRu_hrow (s : State) (k : Nat) (f : RuReq → RuReq) : (s.updRu k f).hrow = s.hrow := rfl
@[simp] theorem State.updRu_rows (s : State) (k : Nat) (f : RuReq → RuReq) : (s.updRu k f).rows = s.rows := rfl
@[simp] theorem State.updRu_holds (s : State) (k : Nat) (f : RuReq → RuReq) : (s.updRu k f).holds = s.holds := rfl
@[simp] theorem State.updRu_saveBytes (s : State) (k : Nat) (f : RuReq → RuReq) : (s.updRu k f).saveBytes = s.saveBytes := rfl
@[simp] theorem State.updRu_anyNew (s : State) (k : Nat) (f : RuReq → RuReq) : (s.updRu k f).anyNew = s.anyNew := rfl
@[simp] theorem State.updRu_attach (s : State) (k : Nat) (f : RuReq → RuReq) : (s.updRu k f).attach = s.attach := rfl
@[simp] theorem State.updRu_dbgEvents (s : State) (k : Nat) (f : RuReq → RuReq) : (s.updRu k f).dbgEvents = s.dbgEvents := rfl
@[simp] theorem State.updRu_dbgAnswer (s : State) (k : Nat) (f : RuReq → RuReq) : (s.updRu k f).dbgAnswer = s.dbgAnswer := rfl
@[simp] theorem State.updRu_dbgNext (s : State) (k : Nat) (f : RuReq → RuReq) : (s.updRu k f).dbgNext = s.dbgNext := rfl
@[simp] theorem State.updRu_dbgHold (s : State) (k : Nat) (f : RuReq → RuReq) : (s.updRu k f).dbgHold = s.dbgHold := rfl
@[simp] theorem State.updRu_errs (s : State) (k : Nat) (f : RuReq → RuReq) : (s.updRu k f).errs = s.errs := rfl
@[simp] theorem State.updRu_reports (s : State) (k : Nat) (f : RuReq → RuReq) : (s.updRu k f).reports = s.reports := rfl
@[simp] theorem State.updRu_served (s : State) (k : Nat) (f : RuReq → RuReq) : (s.updRu k f).served = s.served := rfl
@[simp] theorem State.updRu_ticket (s : State) (k : Nat) (f : RuReq → RuReq) : (s.updRu k f).ticket = s.ticket := rfl
@[simp] theorem State.updRu_nextId (s : State) (k : Nat) (f : RuReq → RuReq) : (s.updRu k f).nextId = s.nextId := rfl
@[simp] theorem State.updRu_free (s : State) (k : Nat) (f : RuReq → RuReq) : (s.updRu k f).free = s.free := rfl
@[simp] theorem State.updRu_agenda (s : State) (k : Nat) (f : RuReq → RuReq) : (s.updRu k f).agenda = s.agenda := rfl

/-! ### updBt -/

@[simp] theorem State.updBt_clk (s : State) (k : Nat) (f : BtOp → BtOp) : (s.updBt k f).clk = s.clk := rfl
@[simp] theorem State.updBt_ref252 (s : State) (k : Nat) (f : BtOp → BtOp) : (s.updBt k f).ref252 = s.ref252 := rfl
@[simp] theorem State.updBt_freq (s : State) (k : Nat) (f : BtOp → BtOp) : (s.updBt k f).freq = s.freq := rfl
@[simp] theorem State.updBt_service (s : State) (k : Nat) (f : BtOp → BtOp) : (s.updBt k f).service = s.service := rfl
@[simp] theorem State.updBt_ctxs (s : State) (k : Nat) (f : BtOp → BtOp) : (s.updBt k f).ctxs = s.ctxs := rfl
@[simp] theorem State.updBt_grids (s : State) (k : Nat) (f : BtOp → BtOp) : (s.updBt k f).grids = s.grids := rfl
@[simp] theorem State.updBt_blocks (s : State) (k : Nat) (f : BtOp → BtOp) : (s.updBt k f).blocks = s.blocks := rfl
@[simp] theorem State.updBt_groups (s : State) (k : Nat) (f : BtOp → BtOp) : (s.updBt k f).groups = s.groups := rfl
@[simp] theorem State.updBt_runs (s : State) (k : Nat) (f : BtOp → BtOp) : (s.updBt k f).runs = s.runs := rfl
@[simp] theorem State.updBt_busy (s : State) (k : Nat) (f : BtOp → BtOp) : (s.updBt k f).busy = s.busy := rfl
@[simp] theorem State.updBt_cur (s : State) (k : Nat) (f : BtOp → BtOp) : (s.updBt k f).cur = s.cur := rfl
@[simp] theorem State.updBt_mem (s : State) (k : Nat) (f : BtOp → BtOp) : (s.updBt k f).mem = s.mem := rfl
@[simp] theorem State.updBt_hist (s : State) (k : Nat) (f : BtOp → BtOp) : (s.updBt k f).hist = s.hist := rfl
@[simp] theorem State.updBt_scSeen (s : State) (k : Nat) (f : BtOp → BtOp) : (s.updBt k f).scSeen = s.scSeen := rfl
@[simp] theorem State.updBt_poison (s : State) (k : Nat) (f : BtOp → BtOp) : (s.updBt k f).poison = s.poison := rfl
@[simp] theorem State.updBt_bufs (s : State) (k : Nat) (f : BtOp → BtOp) : (s.updBt k f).bufs = s.bufs := rfl
@[simp] theorem State.updBt_frames (s : State) (k : Nat) (f : BtOp → BtOp) : (s.updBt k f).frames = s.frames := rfl
@[simp] theorem State.updBt_tlb (s : State) (k : Nat) (f : BtOp → BtOp) : (s.updBt k f).tlb = s.tlb := rfl
@[simp] theorem State.updBt_walks (s : State) (k : Nat) (f : BtOp → BtOp) : (s.updBt k f).walks = s.walks := rfl
@[simp] theorem State.updBt_lastPages (s : State) (k : Nat) (f : BtOp → BtOp) : (s.updBt k f).lastPages = s.lastPages := rfl
@[simp] theorem State.updBt_l1 (s : State) (k : Nat) (f : BtOp → BtOp) : (s.updBt k f).l1 = s.l1 := rfl
@[simp] theorem State.updBt_l2 (s : State) (k : Nat) (f : BtOp → BtOp) : (s.updBt k f).l2 = s.l2 := rfl
@[simp] theorem State.updBt_wbs (s : State) (k : Nat) (f : BtOp → BtOp) : (s.updBt k f).wbs = s.wbs := rfl
@[simp] theorem State.updBt_fused (s : State) (k : Nat) (f : BtOp → BtOp) : (s.updBt k f).fused = s.fused := rfl
@[simp] theorem State.updBt_reqs (s : State) (k : Nat) (f : BtOp → BtOp) : (s.updBt k f).reqs = s.reqs := rfl
@[simp] theorem State.updBt_ctxops (s : State) (k : Nat) (f : BtOp → BtOp) : (s.updBt k f).ctxops = s.ctxops := rfl
@[simp] theorem State.updBt_rus (s : State) (k : Nat) (f : BtOp → BtOp) : (s.updBt k f).rus = s.rus := rfl
@[simp] theorem State.updBt_rdefs (s : State) (k : Nat) (f : BtOp → BtOp) : (s.updBt k f).rdefs = s.rdefs := rfl
@[simp] theorem State.updBt_mxs (s : State) (k : Nat) (f : BtOp → BtOp) : (s.updBt k f).mxs = s.mxs := rfl
@[simp] theorem State.updBt_ramps (s : State) (k : Nat) (f : BtOp → BtOp) : (s.updBt k f).ramps = s.ramps := rfl
@[simp] theorem State.updBt_msgs (s : State) (k : Nat) (f : BtOp → BtOp) : (s.updBt k f).msgs = s.msgs := rfl
@[simp] theorem State.updBt_traps (s : State) (k : Nat) (f : BtOp → BtOp) : (s.updBt k f).traps = s.traps := rfl
@[simp] theorem State.updBt_recs (s : State) (k : Nat) (f : BtOp → BtOp) : (s.updBt k f).recs = s.recs := rfl
@[simp] theorem State.updBt_parts (s : State) (k : Nat) (f : BtOp → BtOp) : (s.updBt k f).parts = s.parts := rfl
@[simp] theorem State.updBt_vfs (s : State) (k : Nat) (f : BtOp → BtOp) : (s.updBt k f).vfs = s.vfs := rfl
@[simp] theorem State.updBt_vfEnable (s : State) (k : Nat) (f : BtOp → BtOp) : (s.updBt k f).vfEnable = s.vfEnable := rfl
@[simp] theorem State.updBt_vfClearing (s : State) (k : Nat) (f : BtOp → BtOp) : (s.updBt k f).vfClearing = s.vfClearing := rfl
@[simp] theorem State.updBt_links (s : State) (k : Nat) (f : BtOp → BtOp) : (s.updBt k f).links = s.links := rfl
@[simp] theorem State.updBt_ingress (s : State) (k : Nat) (f : BtOp → BtOp) : (s.updBt k f).ingress = s.ingress := rfl
@[simp] theorem State.updBt_msix (s : State) (k : Nat) (f : BtOp → BtOp) : (s.updBt k f).msix = s.msix := rfl
@[simp] theorem State.updBt_irqs (s : State) (k : Nat) (f : BtOp → BtOp) : (s.updBt k f).irqs = s.irqs := rfl
@[simp] theorem State.updBt_kicks (s : State) (k : Nat) (f : BtOp → BtOp) : (s.updBt k f).kicks = s.kicks := rfl
@[simp] theorem State.updBt_kerr (s : State) (k : Nat) (f : BtOp → BtOp) : (s.updBt k f).kerr = s.kerr := rfl
@[simp] theorem State.updBt_hostif (s : State) (k : Nat) (f : BtOp → BtOp) : (s.updBt k f).hostif = s.hostif := rfl
@[simp] theorem State.updBt_answer (s : State) (k : Nat) (f : BtOp → BtOp) : (s.updBt k f).answer = s.answer := rfl
@[simp] theorem State.updBt_spdm (s : State) (k : Nat) (f : BtOp → BtOp) : (s.updBt k f).spdm = s.spdm := rfl
@[simp] theorem State.updBt_mmio (s : State) (k : Nat) (f : BtOp → BtOp) : (s.updBt k f).mmio = s.mmio := rfl
@[simp] theorem State.updBt_flash (s : State) (k : Nat) (f : BtOp → BtOp) : (s.updBt k f).flash = s.flash := rfl
@[simp] theorem State.updBt_hrow (s : State) (k : Nat) (f : BtOp → BtOp) : (s.updBt k f).hrow = s.hrow := rfl
@[simp] theorem State.updBt_rows (s : State) (k : Nat) (f : BtOp → BtOp) : (s.updBt k f).rows = s.rows := rfl
@[simp] theorem State.updBt_holds (s : State) (k : Nat) (f : BtOp → BtOp) : (s.updBt k f).holds = s.holds := rfl
@[simp] theorem State.updBt_saveBytes (s : State) (k : Nat) (f : BtOp → BtOp) : (s.updBt k f).saveBytes = s.saveBytes := rfl
@[simp] theorem State.updBt_anyNew (s : State) (k : Nat) (f : BtOp → BtOp) : (s.updBt k f).anyNew = s.anyNew := rfl
@[simp] theorem State.updBt_attach (s : State) (k : Nat) (f : BtOp → BtOp) : (s.updBt k f).attach = s.attach := rfl
@[simp] theorem State.updBt_dbgEvents (s : State) (k : Nat) (f : BtOp → BtOp) : (s.updBt k f).dbgEvents = s.dbgEvents := rfl
@[simp] theorem State.updBt_dbgAnswer (s : State) (k : Nat) (f : BtOp → BtOp) : (s.updBt k f).dbgAnswer = s.dbgAnswer := rfl
@[simp] theorem State.updBt_dbgNext (s : State) (k : Nat) (f : BtOp → BtOp) : (s.updBt k f).dbgNext = s.dbgNext := rfl
@[simp] theorem State.updBt_dbgHold (s : State) (k : Nat) (f : BtOp → BtOp) : (s.updBt k f).dbgHold = s.dbgHold := rfl
@[simp] theorem State.updBt_errs (s : State) (k : Nat) (f : BtOp → BtOp) : (s.updBt k f).errs = s.errs := rfl
@[simp] theorem State.updBt_reports (s : State) (k : Nat) (f : BtOp → BtOp) : (s.updBt k f).reports = s.reports := rfl
@[simp] theorem State.updBt_served (s : State) (k : Nat) (f : BtOp → BtOp) : (s.updBt k f).served = s.served := rfl
@[simp] theorem State.updBt_ticket (s : State) (k : Nat) (f : BtOp → BtOp) : (s.updBt k f).ticket = s.ticket := rfl
@[simp] theorem State.updBt_nextId (s : State) (k : Nat) (f : BtOp → BtOp) : (s.updBt k f).nextId = s.nextId := rfl
@[simp] theorem State.updBt_free (s : State) (k : Nat) (f : BtOp → BtOp) : (s.updBt k f).free = s.free := rfl
@[simp] theorem State.updBt_agenda (s : State) (k : Nat) (f : BtOp → BtOp) : (s.updBt k f).agenda = s.agenda := rfl

/-! ### updMx -/

@[simp] theorem State.updMx_clk (s : State) (k : Nat) (f : MxOp → MxOp) : (s.updMx k f).clk = s.clk := rfl
@[simp] theorem State.updMx_ref252 (s : State) (k : Nat) (f : MxOp → MxOp) : (s.updMx k f).ref252 = s.ref252 := rfl
@[simp] theorem State.updMx_freq (s : State) (k : Nat) (f : MxOp → MxOp) : (s.updMx k f).freq = s.freq := rfl
@[simp] theorem State.updMx_service (s : State) (k : Nat) (f : MxOp → MxOp) : (s.updMx k f).service = s.service := rfl
@[simp] theorem State.updMx_ctxs (s : State) (k : Nat) (f : MxOp → MxOp) : (s.updMx k f).ctxs = s.ctxs := rfl
@[simp] theorem State.updMx_grids (s : State) (k : Nat) (f : MxOp → MxOp) : (s.updMx k f).grids = s.grids := rfl
@[simp] theorem State.updMx_blocks (s : State) (k : Nat) (f : MxOp → MxOp) : (s.updMx k f).blocks = s.blocks := rfl
@[simp] theorem State.updMx_groups (s : State) (k : Nat) (f : MxOp → MxOp) : (s.updMx k f).groups = s.groups := rfl
@[simp] theorem State.updMx_runs (s : State) (k : Nat) (f : MxOp → MxOp) : (s.updMx k f).runs = s.runs := rfl
@[simp] theorem State.updMx_busy (s : State) (k : Nat) (f : MxOp → MxOp) : (s.updMx k f).busy = s.busy := rfl
@[simp] theorem State.updMx_cur (s : State) (k : Nat) (f : MxOp → MxOp) : (s.updMx k f).cur = s.cur := rfl
@[simp] theorem State.updMx_mem (s : State) (k : Nat) (f : MxOp → MxOp) : (s.updMx k f).mem = s.mem := rfl
@[simp] theorem State.updMx_hist (s : State) (k : Nat) (f : MxOp → MxOp) : (s.updMx k f).hist = s.hist := rfl
@[simp] theorem State.updMx_scSeen (s : State) (k : Nat) (f : MxOp → MxOp) : (s.updMx k f).scSeen = s.scSeen := rfl
@[simp] theorem State.updMx_poison (s : State) (k : Nat) (f : MxOp → MxOp) : (s.updMx k f).poison = s.poison := rfl
@[simp] theorem State.updMx_bufs (s : State) (k : Nat) (f : MxOp → MxOp) : (s.updMx k f).bufs = s.bufs := rfl
@[simp] theorem State.updMx_frames (s : State) (k : Nat) (f : MxOp → MxOp) : (s.updMx k f).frames = s.frames := rfl
@[simp] theorem State.updMx_tlb (s : State) (k : Nat) (f : MxOp → MxOp) : (s.updMx k f).tlb = s.tlb := rfl
@[simp] theorem State.updMx_walks (s : State) (k : Nat) (f : MxOp → MxOp) : (s.updMx k f).walks = s.walks := rfl
@[simp] theorem State.updMx_lastPages (s : State) (k : Nat) (f : MxOp → MxOp) : (s.updMx k f).lastPages = s.lastPages := rfl
@[simp] theorem State.updMx_l1 (s : State) (k : Nat) (f : MxOp → MxOp) : (s.updMx k f).l1 = s.l1 := rfl
@[simp] theorem State.updMx_l2 (s : State) (k : Nat) (f : MxOp → MxOp) : (s.updMx k f).l2 = s.l2 := rfl
@[simp] theorem State.updMx_wbs (s : State) (k : Nat) (f : MxOp → MxOp) : (s.updMx k f).wbs = s.wbs := rfl
@[simp] theorem State.updMx_fused (s : State) (k : Nat) (f : MxOp → MxOp) : (s.updMx k f).fused = s.fused := rfl
@[simp] theorem State.updMx_reqs (s : State) (k : Nat) (f : MxOp → MxOp) : (s.updMx k f).reqs = s.reqs := rfl
@[simp] theorem State.updMx_ctxops (s : State) (k : Nat) (f : MxOp → MxOp) : (s.updMx k f).ctxops = s.ctxops := rfl
@[simp] theorem State.updMx_rus (s : State) (k : Nat) (f : MxOp → MxOp) : (s.updMx k f).rus = s.rus := rfl
@[simp] theorem State.updMx_rdefs (s : State) (k : Nat) (f : MxOp → MxOp) : (s.updMx k f).rdefs = s.rdefs := rfl
@[simp] theorem State.updMx_bts (s : State) (k : Nat) (f : MxOp → MxOp) : (s.updMx k f).bts = s.bts := rfl
@[simp] theorem State.updMx_ramps (s : State) (k : Nat) (f : MxOp → MxOp) : (s.updMx k f).ramps = s.ramps := rfl
@[simp] theorem State.updMx_msgs (s : State) (k : Nat) (f : MxOp → MxOp) : (s.updMx k f).msgs = s.msgs := rfl
@[simp] theorem State.updMx_traps (s : State) (k : Nat) (f : MxOp → MxOp) : (s.updMx k f).traps = s.traps := rfl
@[simp] theorem State.updMx_recs (s : State) (k : Nat) (f : MxOp → MxOp) : (s.updMx k f).recs = s.recs := rfl
@[simp] theorem State.updMx_parts (s : State) (k : Nat) (f : MxOp → MxOp) : (s.updMx k f).parts = s.parts := rfl
@[simp] theorem State.updMx_vfs (s : State) (k : Nat) (f : MxOp → MxOp) : (s.updMx k f).vfs = s.vfs := rfl
@[simp] theorem State.updMx_vfEnable (s : State) (k : Nat) (f : MxOp → MxOp) : (s.updMx k f).vfEnable = s.vfEnable := rfl
@[simp] theorem State.updMx_vfClearing (s : State) (k : Nat) (f : MxOp → MxOp) : (s.updMx k f).vfClearing = s.vfClearing := rfl
@[simp] theorem State.updMx_links (s : State) (k : Nat) (f : MxOp → MxOp) : (s.updMx k f).links = s.links := rfl
@[simp] theorem State.updMx_ingress (s : State) (k : Nat) (f : MxOp → MxOp) : (s.updMx k f).ingress = s.ingress := rfl
@[simp] theorem State.updMx_msix (s : State) (k : Nat) (f : MxOp → MxOp) : (s.updMx k f).msix = s.msix := rfl
@[simp] theorem State.updMx_irqs (s : State) (k : Nat) (f : MxOp → MxOp) : (s.updMx k f).irqs = s.irqs := rfl
@[simp] theorem State.updMx_kicks (s : State) (k : Nat) (f : MxOp → MxOp) : (s.updMx k f).kicks = s.kicks := rfl
@[simp] theorem State.updMx_kerr (s : State) (k : Nat) (f : MxOp → MxOp) : (s.updMx k f).kerr = s.kerr := rfl
@[simp] theorem State.updMx_hostif (s : State) (k : Nat) (f : MxOp → MxOp) : (s.updMx k f).hostif = s.hostif := rfl
@[simp] theorem State.updMx_answer (s : State) (k : Nat) (f : MxOp → MxOp) : (s.updMx k f).answer = s.answer := rfl
@[simp] theorem State.updMx_spdm (s : State) (k : Nat) (f : MxOp → MxOp) : (s.updMx k f).spdm = s.spdm := rfl
@[simp] theorem State.updMx_mmio (s : State) (k : Nat) (f : MxOp → MxOp) : (s.updMx k f).mmio = s.mmio := rfl
@[simp] theorem State.updMx_flash (s : State) (k : Nat) (f : MxOp → MxOp) : (s.updMx k f).flash = s.flash := rfl
@[simp] theorem State.updMx_hrow (s : State) (k : Nat) (f : MxOp → MxOp) : (s.updMx k f).hrow = s.hrow := rfl
@[simp] theorem State.updMx_rows (s : State) (k : Nat) (f : MxOp → MxOp) : (s.updMx k f).rows = s.rows := rfl
@[simp] theorem State.updMx_holds (s : State) (k : Nat) (f : MxOp → MxOp) : (s.updMx k f).holds = s.holds := rfl
@[simp] theorem State.updMx_saveBytes (s : State) (k : Nat) (f : MxOp → MxOp) : (s.updMx k f).saveBytes = s.saveBytes := rfl
@[simp] theorem State.updMx_anyNew (s : State) (k : Nat) (f : MxOp → MxOp) : (s.updMx k f).anyNew = s.anyNew := rfl
@[simp] theorem State.updMx_attach (s : State) (k : Nat) (f : MxOp → MxOp) : (s.updMx k f).attach = s.attach := rfl
@[simp] theorem State.updMx_dbgEvents (s : State) (k : Nat) (f : MxOp → MxOp) : (s.updMx k f).dbgEvents = s.dbgEvents := rfl
@[simp] theorem State.updMx_dbgAnswer (s : State) (k : Nat) (f : MxOp → MxOp) : (s.updMx k f).dbgAnswer = s.dbgAnswer := rfl
@[simp] theorem State.updMx_dbgNext (s : State) (k : Nat) (f : MxOp → MxOp) : (s.updMx k f).dbgNext = s.dbgNext := rfl
@[simp] theorem State.updMx_dbgHold (s : State) (k : Nat) (f : MxOp → MxOp) : (s.updMx k f).dbgHold = s.dbgHold := rfl
@[simp] theorem State.updMx_errs (s : State) (k : Nat) (f : MxOp → MxOp) : (s.updMx k f).errs = s.errs := rfl
@[simp] theorem State.updMx_reports (s : State) (k : Nat) (f : MxOp → MxOp) : (s.updMx k f).reports = s.reports := rfl
@[simp] theorem State.updMx_served (s : State) (k : Nat) (f : MxOp → MxOp) : (s.updMx k f).served = s.served := rfl
@[simp] theorem State.updMx_ticket (s : State) (k : Nat) (f : MxOp → MxOp) : (s.updMx k f).ticket = s.ticket := rfl
@[simp] theorem State.updMx_nextId (s : State) (k : Nat) (f : MxOp → MxOp) : (s.updMx k f).nextId = s.nextId := rfl
@[simp] theorem State.updMx_free (s : State) (k : Nat) (f : MxOp → MxOp) : (s.updMx k f).free = s.free := rfl
@[simp] theorem State.updMx_agenda (s : State) (k : Nat) (f : MxOp → MxOp) : (s.updMx k f).agenda = s.agenda := rfl

/-! ### updMsg -/

@[simp] theorem State.updMsg_clk (s : State) (k : Nat) (f : Msg → Msg) : (s.updMsg k f).clk = s.clk := rfl
@[simp] theorem State.updMsg_ref252 (s : State) (k : Nat) (f : Msg → Msg) : (s.updMsg k f).ref252 = s.ref252 := rfl
@[simp] theorem State.updMsg_freq (s : State) (k : Nat) (f : Msg → Msg) : (s.updMsg k f).freq = s.freq := rfl
@[simp] theorem State.updMsg_service (s : State) (k : Nat) (f : Msg → Msg) : (s.updMsg k f).service = s.service := rfl
@[simp] theorem State.updMsg_ctxs (s : State) (k : Nat) (f : Msg → Msg) : (s.updMsg k f).ctxs = s.ctxs := rfl
@[simp] theorem State.updMsg_grids (s : State) (k : Nat) (f : Msg → Msg) : (s.updMsg k f).grids = s.grids := rfl
@[simp] theorem State.updMsg_blocks (s : State) (k : Nat) (f : Msg → Msg) : (s.updMsg k f).blocks = s.blocks := rfl
@[simp] theorem State.updMsg_groups (s : State) (k : Nat) (f : Msg → Msg) : (s.updMsg k f).groups = s.groups := rfl
@[simp] theorem State.updMsg_runs (s : State) (k : Nat) (f : Msg → Msg) : (s.updMsg k f).runs = s.runs := rfl
@[simp] theorem State.updMsg_busy (s : State) (k : Nat) (f : Msg → Msg) : (s.updMsg k f).busy = s.busy := rfl
@[simp] theorem State.updMsg_cur (s : State) (k : Nat) (f : Msg → Msg) : (s.updMsg k f).cur = s.cur := rfl
@[simp] theorem State.updMsg_mem (s : State) (k : Nat) (f : Msg → Msg) : (s.updMsg k f).mem = s.mem := rfl
@[simp] theorem State.updMsg_hist (s : State) (k : Nat) (f : Msg → Msg) : (s.updMsg k f).hist = s.hist := rfl
@[simp] theorem State.updMsg_scSeen (s : State) (k : Nat) (f : Msg → Msg) : (s.updMsg k f).scSeen = s.scSeen := rfl
@[simp] theorem State.updMsg_poison (s : State) (k : Nat) (f : Msg → Msg) : (s.updMsg k f).poison = s.poison := rfl
@[simp] theorem State.updMsg_bufs (s : State) (k : Nat) (f : Msg → Msg) : (s.updMsg k f).bufs = s.bufs := rfl
@[simp] theorem State.updMsg_frames (s : State) (k : Nat) (f : Msg → Msg) : (s.updMsg k f).frames = s.frames := rfl
@[simp] theorem State.updMsg_tlb (s : State) (k : Nat) (f : Msg → Msg) : (s.updMsg k f).tlb = s.tlb := rfl
@[simp] theorem State.updMsg_walks (s : State) (k : Nat) (f : Msg → Msg) : (s.updMsg k f).walks = s.walks := rfl
@[simp] theorem State.updMsg_lastPages (s : State) (k : Nat) (f : Msg → Msg) : (s.updMsg k f).lastPages = s.lastPages := rfl
@[simp] theorem State.updMsg_l1 (s : State) (k : Nat) (f : Msg → Msg) : (s.updMsg k f).l1 = s.l1 := rfl
@[simp] theorem State.updMsg_l2 (s : State) (k : Nat) (f : Msg → Msg) : (s.updMsg k f).l2 = s.l2 := rfl
@[simp] theorem State.updMsg_wbs (s : State) (k : Nat) (f : Msg → Msg) : (s.updMsg k f).wbs = s.wbs := rfl
@[simp] theorem State.updMsg_fused (s : State) (k : Nat) (f : Msg → Msg) : (s.updMsg k f).fused = s.fused := rfl
@[simp] theorem State.updMsg_reqs (s : State) (k : Nat) (f : Msg → Msg) : (s.updMsg k f).reqs = s.reqs := rfl
@[simp] theorem State.updMsg_ctxops (s : State) (k : Nat) (f : Msg → Msg) : (s.updMsg k f).ctxops = s.ctxops := rfl
@[simp] theorem State.updMsg_rus (s : State) (k : Nat) (f : Msg → Msg) : (s.updMsg k f).rus = s.rus := rfl
@[simp] theorem State.updMsg_rdefs (s : State) (k : Nat) (f : Msg → Msg) : (s.updMsg k f).rdefs = s.rdefs := rfl
@[simp] theorem State.updMsg_bts (s : State) (k : Nat) (f : Msg → Msg) : (s.updMsg k f).bts = s.bts := rfl
@[simp] theorem State.updMsg_mxs (s : State) (k : Nat) (f : Msg → Msg) : (s.updMsg k f).mxs = s.mxs := rfl
@[simp] theorem State.updMsg_ramps (s : State) (k : Nat) (f : Msg → Msg) : (s.updMsg k f).ramps = s.ramps := rfl
@[simp] theorem State.updMsg_traps (s : State) (k : Nat) (f : Msg → Msg) : (s.updMsg k f).traps = s.traps := rfl
@[simp] theorem State.updMsg_recs (s : State) (k : Nat) (f : Msg → Msg) : (s.updMsg k f).recs = s.recs := rfl
@[simp] theorem State.updMsg_parts (s : State) (k : Nat) (f : Msg → Msg) : (s.updMsg k f).parts = s.parts := rfl
@[simp] theorem State.updMsg_vfs (s : State) (k : Nat) (f : Msg → Msg) : (s.updMsg k f).vfs = s.vfs := rfl
@[simp] theorem State.updMsg_vfEnable (s : State) (k : Nat) (f : Msg → Msg) : (s.updMsg k f).vfEnable = s.vfEnable := rfl
@[simp] theorem State.updMsg_vfClearing (s : State) (k : Nat) (f : Msg → Msg) : (s.updMsg k f).vfClearing = s.vfClearing := rfl
@[simp] theorem State.updMsg_links (s : State) (k : Nat) (f : Msg → Msg) : (s.updMsg k f).links = s.links := rfl
@[simp] theorem State.updMsg_ingress (s : State) (k : Nat) (f : Msg → Msg) : (s.updMsg k f).ingress = s.ingress := rfl
@[simp] theorem State.updMsg_msix (s : State) (k : Nat) (f : Msg → Msg) : (s.updMsg k f).msix = s.msix := rfl
@[simp] theorem State.updMsg_irqs (s : State) (k : Nat) (f : Msg → Msg) : (s.updMsg k f).irqs = s.irqs := rfl
@[simp] theorem State.updMsg_kicks (s : State) (k : Nat) (f : Msg → Msg) : (s.updMsg k f).kicks = s.kicks := rfl
@[simp] theorem State.updMsg_kerr (s : State) (k : Nat) (f : Msg → Msg) : (s.updMsg k f).kerr = s.kerr := rfl
@[simp] theorem State.updMsg_hostif (s : State) (k : Nat) (f : Msg → Msg) : (s.updMsg k f).hostif = s.hostif := rfl
@[simp] theorem State.updMsg_answer (s : State) (k : Nat) (f : Msg → Msg) : (s.updMsg k f).answer = s.answer := rfl
@[simp] theorem State.updMsg_spdm (s : State) (k : Nat) (f : Msg → Msg) : (s.updMsg k f).spdm = s.spdm := rfl
@[simp] theorem State.updMsg_mmio (s : State) (k : Nat) (f : Msg → Msg) : (s.updMsg k f).mmio = s.mmio := rfl
@[simp] theorem State.updMsg_flash (s : State) (k : Nat) (f : Msg → Msg) : (s.updMsg k f).flash = s.flash := rfl
@[simp] theorem State.updMsg_hrow (s : State) (k : Nat) (f : Msg → Msg) : (s.updMsg k f).hrow = s.hrow := rfl
@[simp] theorem State.updMsg_rows (s : State) (k : Nat) (f : Msg → Msg) : (s.updMsg k f).rows = s.rows := rfl
@[simp] theorem State.updMsg_holds (s : State) (k : Nat) (f : Msg → Msg) : (s.updMsg k f).holds = s.holds := rfl
@[simp] theorem State.updMsg_saveBytes (s : State) (k : Nat) (f : Msg → Msg) : (s.updMsg k f).saveBytes = s.saveBytes := rfl
@[simp] theorem State.updMsg_anyNew (s : State) (k : Nat) (f : Msg → Msg) : (s.updMsg k f).anyNew = s.anyNew := rfl
@[simp] theorem State.updMsg_attach (s : State) (k : Nat) (f : Msg → Msg) : (s.updMsg k f).attach = s.attach := rfl
@[simp] theorem State.updMsg_dbgEvents (s : State) (k : Nat) (f : Msg → Msg) : (s.updMsg k f).dbgEvents = s.dbgEvents := rfl
@[simp] theorem State.updMsg_dbgAnswer (s : State) (k : Nat) (f : Msg → Msg) : (s.updMsg k f).dbgAnswer = s.dbgAnswer := rfl
@[simp] theorem State.updMsg_dbgNext (s : State) (k : Nat) (f : Msg → Msg) : (s.updMsg k f).dbgNext = s.dbgNext := rfl
@[simp] theorem State.updMsg_dbgHold (s : State) (k : Nat) (f : Msg → Msg) : (s.updMsg k f).dbgHold = s.dbgHold := rfl
@[simp] theorem State.updMsg_errs (s : State) (k : Nat) (f : Msg → Msg) : (s.updMsg k f).errs = s.errs := rfl
@[simp] theorem State.updMsg_reports (s : State) (k : Nat) (f : Msg → Msg) : (s.updMsg k f).reports = s.reports := rfl
@[simp] theorem State.updMsg_served (s : State) (k : Nat) (f : Msg → Msg) : (s.updMsg k f).served = s.served := rfl
@[simp] theorem State.updMsg_ticket (s : State) (k : Nat) (f : Msg → Msg) : (s.updMsg k f).ticket = s.ticket := rfl
@[simp] theorem State.updMsg_nextId (s : State) (k : Nat) (f : Msg → Msg) : (s.updMsg k f).nextId = s.nextId := rfl
@[simp] theorem State.updMsg_free (s : State) (k : Nat) (f : Msg → Msg) : (s.updMsg k f).free = s.free := rfl
@[simp] theorem State.updMsg_agenda (s : State) (k : Nat) (f : Msg → Msg) : (s.updMsg k f).agenda = s.agenda := rfl

/-! ### setRamp -/

@[simp] theorem State.setRamp_clk (s : State) (r : Ramp) : (s.setRamp r).clk = s.clk := rfl
@[simp] theorem State.setRamp_ref252 (s : State) (r : Ramp) : (s.setRamp r).ref252 = s.ref252 := rfl
@[simp] theorem State.setRamp_freq (s : State) (r : Ramp) : (s.setRamp r).freq = s.freq := rfl
@[simp] theorem State.setRamp_service (s : State) (r : Ramp) : (s.setRamp r).service = s.service := rfl
@[simp] theorem State.setRamp_ctxs (s : State) (r : Ramp) : (s.setRamp r).ctxs = s.ctxs := rfl
@[simp] theorem State.setRamp_grids (s : State) (r : Ramp) : (s.setRamp r).grids = s.grids := rfl
@[simp] theorem State.setRamp_blocks (s : State) (r : Ramp) : (s.setRamp r).blocks = s.blocks := rfl
@[simp] theorem State.setRamp_groups (s : State) (r : Ramp) : (s.setRamp r).groups = s.groups := rfl
@[simp] theorem State.setRamp_runs (s : State) (r : Ramp) : (s.setRamp r).runs = s.runs := rfl
@[simp] theorem State.setRamp_busy (s : State) (r : Ramp) : (s.setRamp r).busy = s.busy := rfl
@[simp] theorem State.setRamp_cur (s : State) (r : Ramp) : (s.setRamp r).cur = s.cur := rfl
@[simp] theorem State.setRamp_mem (s : State) (r : Ramp) : (s.setRamp r).mem = s.mem := rfl
@[simp] theorem State.setRamp_hist (s : State) (r : Ramp) : (s.setRamp r).hist = s.hist := rfl
@[simp] theorem State.setRamp_scSeen (s : State) (r : Ramp) : (s.setRamp r).scSeen = s.scSeen := rfl
@[simp] theorem State.setRamp_poison (s : State) (r : Ramp) : (s.setRamp r).poison = s.poison := rfl
@[simp] theorem State.setRamp_bufs (s : State) (r : Ramp) : (s.setRamp r).bufs = s.bufs := rfl
@[simp] theorem State.setRamp_frames (s : State) (r : Ramp) : (s.setRamp r).frames = s.frames := rfl
@[simp] theorem State.setRamp_tlb (s : State) (r : Ramp) : (s.setRamp r).tlb = s.tlb := rfl
@[simp] theorem State.setRamp_walks (s : State) (r : Ramp) : (s.setRamp r).walks = s.walks := rfl
@[simp] theorem State.setRamp_lastPages (s : State) (r : Ramp) : (s.setRamp r).lastPages = s.lastPages := rfl
@[simp] theorem State.setRamp_l1 (s : State) (r : Ramp) : (s.setRamp r).l1 = s.l1 := rfl
@[simp] theorem State.setRamp_l2 (s : State) (r : Ramp) : (s.setRamp r).l2 = s.l2 := rfl
@[simp] theorem State.setRamp_wbs (s : State) (r : Ramp) : (s.setRamp r).wbs = s.wbs := rfl
@[simp] theorem State.setRamp_fused (s : State) (r : Ramp) : (s.setRamp r).fused = s.fused := rfl
@[simp] theorem State.setRamp_reqs (s : State) (r : Ramp) : (s.setRamp r).reqs = s.reqs := rfl
@[simp] theorem State.setRamp_ctxops (s : State) (r : Ramp) : (s.setRamp r).ctxops = s.ctxops := rfl
@[simp] theorem State.setRamp_rus (s : State) (r : Ramp) : (s.setRamp r).rus = s.rus := rfl
@[simp] theorem State.setRamp_rdefs (s : State) (r : Ramp) : (s.setRamp r).rdefs = s.rdefs := rfl
@[simp] theorem State.setRamp_bts (s : State) (r : Ramp) : (s.setRamp r).bts = s.bts := rfl
@[simp] theorem State.setRamp_mxs (s : State) (r : Ramp) : (s.setRamp r).mxs = s.mxs := rfl
@[simp] theorem State.setRamp_msgs (s : State) (r : Ramp) : (s.setRamp r).msgs = s.msgs := rfl
@[simp] theorem State.setRamp_traps (s : State) (r : Ramp) : (s.setRamp r).traps = s.traps := rfl
@[simp] theorem State.setRamp_recs (s : State) (r : Ramp) : (s.setRamp r).recs = s.recs := rfl
@[simp] theorem State.setRamp_parts (s : State) (r : Ramp) : (s.setRamp r).parts = s.parts := rfl
@[simp] theorem State.setRamp_vfs (s : State) (r : Ramp) : (s.setRamp r).vfs = s.vfs := rfl
@[simp] theorem State.setRamp_vfEnable (s : State) (r : Ramp) : (s.setRamp r).vfEnable = s.vfEnable := rfl
@[simp] theorem State.setRamp_vfClearing (s : State) (r : Ramp) : (s.setRamp r).vfClearing = s.vfClearing := rfl
@[simp] theorem State.setRamp_links (s : State) (r : Ramp) : (s.setRamp r).links = s.links := rfl
@[simp] theorem State.setRamp_ingress (s : State) (r : Ramp) : (s.setRamp r).ingress = s.ingress := rfl
@[simp] theorem State.setRamp_msix (s : State) (r : Ramp) : (s.setRamp r).msix = s.msix := rfl
@[simp] theorem State.setRamp_irqs (s : State) (r : Ramp) : (s.setRamp r).irqs = s.irqs := rfl
@[simp] theorem State.setRamp_kicks (s : State) (r : Ramp) : (s.setRamp r).kicks = s.kicks := rfl
@[simp] theorem State.setRamp_kerr (s : State) (r : Ramp) : (s.setRamp r).kerr = s.kerr := rfl
@[simp] theorem State.setRamp_hostif (s : State) (r : Ramp) : (s.setRamp r).hostif = s.hostif := rfl
@[simp] theorem State.setRamp_answer (s : State) (r : Ramp) : (s.setRamp r).answer = s.answer := rfl
@[simp] theorem State.setRamp_spdm (s : State) (r : Ramp) : (s.setRamp r).spdm = s.spdm := rfl
@[simp] theorem State.setRamp_mmio (s : State) (r : Ramp) : (s.setRamp r).mmio = s.mmio := rfl
@[simp] theorem State.setRamp_flash (s : State) (r : Ramp) : (s.setRamp r).flash = s.flash := rfl
@[simp] theorem State.setRamp_hrow (s : State) (r : Ramp) : (s.setRamp r).hrow = s.hrow := rfl
@[simp] theorem State.setRamp_rows (s : State) (r : Ramp) : (s.setRamp r).rows = s.rows := rfl
@[simp] theorem State.setRamp_holds (s : State) (r : Ramp) : (s.setRamp r).holds = s.holds := rfl
@[simp] theorem State.setRamp_saveBytes (s : State) (r : Ramp) : (s.setRamp r).saveBytes = s.saveBytes := rfl
@[simp] theorem State.setRamp_anyNew (s : State) (r : Ramp) : (s.setRamp r).anyNew = s.anyNew := rfl
@[simp] theorem State.setRamp_attach (s : State) (r : Ramp) : (s.setRamp r).attach = s.attach := rfl
@[simp] theorem State.setRamp_dbgEvents (s : State) (r : Ramp) : (s.setRamp r).dbgEvents = s.dbgEvents := rfl
@[simp] theorem State.setRamp_dbgAnswer (s : State) (r : Ramp) : (s.setRamp r).dbgAnswer = s.dbgAnswer := rfl
@[simp] theorem State.setRamp_dbgNext (s : State) (r : Ramp) : (s.setRamp r).dbgNext = s.dbgNext := rfl
@[simp] theorem State.setRamp_dbgHold (s : State) (r : Ramp) : (s.setRamp r).dbgHold = s.dbgHold := rfl
@[simp] theorem State.setRamp_errs (s : State) (r : Ramp) : (s.setRamp r).errs = s.errs := rfl
@[simp] theorem State.setRamp_reports (s : State) (r : Ramp) : (s.setRamp r).reports = s.reports := rfl
@[simp] theorem State.setRamp_served (s : State) (r : Ramp) : (s.setRamp r).served = s.served := rfl
@[simp] theorem State.setRamp_ticket (s : State) (r : Ramp) : (s.setRamp r).ticket = s.ticket := rfl
@[simp] theorem State.setRamp_nextId (s : State) (r : Ramp) : (s.setRamp r).nextId = s.nextId := rfl
@[simp] theorem State.setRamp_free (s : State) (r : Ramp) : (s.setRamp r).free = s.free := rfl
@[simp] theorem State.setRamp_agenda (s : State) (r : Ramp) : (s.setRamp r).agenda = s.agenda := rfl

/-! ### setVf -/

@[simp] theorem State.setVf_clk (s : State) (v : Vf) : (s.setVf v).clk = s.clk := rfl
@[simp] theorem State.setVf_ref252 (s : State) (v : Vf) : (s.setVf v).ref252 = s.ref252 := rfl
@[simp] theorem State.setVf_freq (s : State) (v : Vf) : (s.setVf v).freq = s.freq := rfl
@[simp] theorem State.setVf_service (s : State) (v : Vf) : (s.setVf v).service = s.service := rfl
@[simp] theorem State.setVf_ctxs (s : State) (v : Vf) : (s.setVf v).ctxs = s.ctxs := rfl
@[simp] theorem State.setVf_grids (s : State) (v : Vf) : (s.setVf v).grids = s.grids := rfl
@[simp] theorem State.setVf_blocks (s : State) (v : Vf) : (s.setVf v).blocks = s.blocks := rfl
@[simp] theorem State.setVf_groups (s : State) (v : Vf) : (s.setVf v).groups = s.groups := rfl
@[simp] theorem State.setVf_runs (s : State) (v : Vf) : (s.setVf v).runs = s.runs := rfl
@[simp] theorem State.setVf_busy (s : State) (v : Vf) : (s.setVf v).busy = s.busy := rfl
@[simp] theorem State.setVf_cur (s : State) (v : Vf) : (s.setVf v).cur = s.cur := rfl
@[simp] theorem State.setVf_mem (s : State) (v : Vf) : (s.setVf v).mem = s.mem := rfl
@[simp] theorem State.setVf_hist (s : State) (v : Vf) : (s.setVf v).hist = s.hist := rfl
@[simp] theorem State.setVf_scSeen (s : State) (v : Vf) : (s.setVf v).scSeen = s.scSeen := rfl
@[simp] theorem State.setVf_poison (s : State) (v : Vf) : (s.setVf v).poison = s.poison := rfl
@[simp] theorem State.setVf_bufs (s : State) (v : Vf) : (s.setVf v).bufs = s.bufs := rfl
@[simp] theorem State.setVf_frames (s : State) (v : Vf) : (s.setVf v).frames = s.frames := rfl
@[simp] theorem State.setVf_tlb (s : State) (v : Vf) : (s.setVf v).tlb = s.tlb := rfl
@[simp] theorem State.setVf_walks (s : State) (v : Vf) : (s.setVf v).walks = s.walks := rfl
@[simp] theorem State.setVf_lastPages (s : State) (v : Vf) : (s.setVf v).lastPages = s.lastPages := rfl
@[simp] theorem State.setVf_l1 (s : State) (v : Vf) : (s.setVf v).l1 = s.l1 := rfl
@[simp] theorem State.setVf_l2 (s : State) (v : Vf) : (s.setVf v).l2 = s.l2 := rfl
@[simp] theorem State.setVf_wbs (s : State) (v : Vf) : (s.setVf v).wbs = s.wbs := rfl
@[simp] theorem State.setVf_fused (s : State) (v : Vf) : (s.setVf v).fused = s.fused := rfl
@[simp] theorem State.setVf_reqs (s : State) (v : Vf) : (s.setVf v).reqs = s.reqs := rfl
@[simp] theorem State.setVf_ctxops (s : State) (v : Vf) : (s.setVf v).ctxops = s.ctxops := rfl
@[simp] theorem State.setVf_rus (s : State) (v : Vf) : (s.setVf v).rus = s.rus := rfl
@[simp] theorem State.setVf_rdefs (s : State) (v : Vf) : (s.setVf v).rdefs = s.rdefs := rfl
@[simp] theorem State.setVf_bts (s : State) (v : Vf) : (s.setVf v).bts = s.bts := rfl
@[simp] theorem State.setVf_mxs (s : State) (v : Vf) : (s.setVf v).mxs = s.mxs := rfl
@[simp] theorem State.setVf_ramps (s : State) (v : Vf) : (s.setVf v).ramps = s.ramps := rfl
@[simp] theorem State.setVf_msgs (s : State) (v : Vf) : (s.setVf v).msgs = s.msgs := rfl
@[simp] theorem State.setVf_traps (s : State) (v : Vf) : (s.setVf v).traps = s.traps := rfl
@[simp] theorem State.setVf_recs (s : State) (v : Vf) : (s.setVf v).recs = s.recs := rfl
@[simp] theorem State.setVf_parts (s : State) (v : Vf) : (s.setVf v).parts = s.parts := rfl
@[simp] theorem State.setVf_vfEnable (s : State) (v : Vf) : (s.setVf v).vfEnable = s.vfEnable := rfl
@[simp] theorem State.setVf_vfClearing (s : State) (v : Vf) : (s.setVf v).vfClearing = s.vfClearing := rfl
@[simp] theorem State.setVf_links (s : State) (v : Vf) : (s.setVf v).links = s.links := rfl
@[simp] theorem State.setVf_ingress (s : State) (v : Vf) : (s.setVf v).ingress = s.ingress := rfl
@[simp] theorem State.setVf_msix (s : State) (v : Vf) : (s.setVf v).msix = s.msix := rfl
@[simp] theorem State.setVf_irqs (s : State) (v : Vf) : (s.setVf v).irqs = s.irqs := rfl
@[simp] theorem State.setVf_kicks (s : State) (v : Vf) : (s.setVf v).kicks = s.kicks := rfl
@[simp] theorem State.setVf_kerr (s : State) (v : Vf) : (s.setVf v).kerr = s.kerr := rfl
@[simp] theorem State.setVf_hostif (s : State) (v : Vf) : (s.setVf v).hostif = s.hostif := rfl
@[simp] theorem State.setVf_answer (s : State) (v : Vf) : (s.setVf v).answer = s.answer := rfl
@[simp] theorem State.setVf_spdm (s : State) (v : Vf) : (s.setVf v).spdm = s.spdm := rfl
@[simp] theorem State.setVf_mmio (s : State) (v : Vf) : (s.setVf v).mmio = s.mmio := rfl
@[simp] theorem State.setVf_flash (s : State) (v : Vf) : (s.setVf v).flash = s.flash := rfl
@[simp] theorem State.setVf_hrow (s : State) (v : Vf) : (s.setVf v).hrow = s.hrow := rfl
@[simp] theorem State.setVf_rows (s : State) (v : Vf) : (s.setVf v).rows = s.rows := rfl
@[simp] theorem State.setVf_holds (s : State) (v : Vf) : (s.setVf v).holds = s.holds := rfl
@[simp] theorem State.setVf_saveBytes (s : State) (v : Vf) : (s.setVf v).saveBytes = s.saveBytes := rfl
@[simp] theorem State.setVf_anyNew (s : State) (v : Vf) : (s.setVf v).anyNew = s.anyNew := rfl
@[simp] theorem State.setVf_attach (s : State) (v : Vf) : (s.setVf v).attach = s.attach := rfl
@[simp] theorem State.setVf_dbgEvents (s : State) (v : Vf) : (s.setVf v).dbgEvents = s.dbgEvents := rfl
@[simp] theorem State.setVf_dbgAnswer (s : State) (v : Vf) : (s.setVf v).dbgAnswer = s.dbgAnswer := rfl
@[simp] theorem State.setVf_dbgNext (s : State) (v : Vf) : (s.setVf v).dbgNext = s.dbgNext := rfl
@[simp] theorem State.setVf_dbgHold (s : State) (v : Vf) : (s.setVf v).dbgHold = s.dbgHold := rfl
@[simp] theorem State.setVf_errs (s : State) (v : Vf) : (s.setVf v).errs = s.errs := rfl
@[simp] theorem State.setVf_reports (s : State) (v : Vf) : (s.setVf v).reports = s.reports := rfl
@[simp] theorem State.setVf_served (s : State) (v : Vf) : (s.setVf v).served = s.served := rfl
@[simp] theorem State.setVf_ticket (s : State) (v : Vf) : (s.setVf v).ticket = s.ticket := rfl
@[simp] theorem State.setVf_nextId (s : State) (v : Vf) : (s.setVf v).nextId = s.nextId := rfl
@[simp] theorem State.setVf_free (s : State) (v : Vf) : (s.setVf v).free = s.free := rfl
@[simp] theorem State.setVf_agenda (s : State) (v : Vf) : (s.setVf v).agenda = s.agenda := rfl

/-! ### setKick -/

@[simp] theorem State.setKick_clk (s : State) (k : KickQ) : (s.setKick k).clk = s.clk := rfl
@[simp] theorem State.setKick_ref252 (s : State) (k : KickQ) : (s.setKick k).ref252 = s.ref252 := rfl
@[simp] theorem State.setKick_freq (s : State) (k : KickQ) : (s.setKick k).freq = s.freq := rfl
@[simp] theorem State.setKick_service (s : State) (k : KickQ) : (s.setKick k).service = s.service := rfl
@[simp] theorem State.setKick_ctxs (s : State) (k : KickQ) : (s.setKick k).ctxs = s.ctxs := rfl
@[simp] theorem State.setKick_grids (s : State) (k : KickQ) : (s.setKick k).grids = s.grids := rfl
@[simp] theorem State.setKick_blocks (s : State) (k : KickQ) : (s.setKick k).blocks = s.blocks := rfl
@[simp] theorem State.setKick_groups (s : State) (k : KickQ) : (s.setKick k).groups = s.groups := rfl
@[simp] theorem State.setKick_runs (s : State) (k : KickQ) : (s.setKick k).runs = s.runs := rfl
@[simp] theorem State.setKick_busy (s : State) (k : KickQ) : (s.setKick k).busy = s.busy := rfl
@[simp] theorem State.setKick_cur (s : State) (k : KickQ) : (s.setKick k).cur = s.cur := rfl
@[simp] theorem State.setKick_mem (s : State) (k : KickQ) : (s.setKick k).mem = s.mem := rfl
@[simp] theorem State.setKick_hist (s : State) (k : KickQ) : (s.setKick k).hist = s.hist := rfl
@[simp] theorem State.setKick_scSeen (s : State) (k : KickQ) : (s.setKick k).scSeen = s.scSeen := rfl
@[simp] theorem State.setKick_poison (s : State) (k : KickQ) : (s.setKick k).poison = s.poison := rfl
@[simp] theorem State.setKick_bufs (s : State) (k : KickQ) : (s.setKick k).bufs = s.bufs := rfl
@[simp] theorem State.setKick_frames (s : State) (k : KickQ) : (s.setKick k).frames = s.frames := rfl
@[simp] theorem State.setKick_tlb (s : State) (k : KickQ) : (s.setKick k).tlb = s.tlb := rfl
@[simp] theorem State.setKick_walks (s : State) (k : KickQ) : (s.setKick k).walks = s.walks := rfl
@[simp] theorem State.setKick_lastPages (s : State) (k : KickQ) : (s.setKick k).lastPages = s.lastPages := rfl
@[simp] theorem State.setKick_l1 (s : State) (k : KickQ) : (s.setKick k).l1 = s.l1 := rfl
@[simp] theorem State.setKick_l2 (s : State) (k : KickQ) : (s.setKick k).l2 = s.l2 := rfl
@[simp] theorem State.setKick_wbs (s : State) (k : KickQ) : (s.setKick k).wbs = s.wbs := rfl
@[simp] theorem State.setKick_fused (s : State) (k : KickQ) : (s.setKick k).fused = s.fused := rfl
@[simp] theorem State.setKick_reqs (s : State) (k : KickQ) : (s.setKick k).reqs = s.reqs := rfl
@[simp] theorem State.setKick_ctxops (s : State) (k : KickQ) : (s.setKick k).ctxops = s.ctxops := rfl
@[simp] theorem State.setKick_rus (s : State) (k : KickQ) : (s.setKick k).rus = s.rus := rfl
@[simp] theorem State.setKick_rdefs (s : State) (k : KickQ) : (s.setKick k).rdefs = s.rdefs := rfl
@[simp] theorem State.setKick_bts (s : State) (k : KickQ) : (s.setKick k).bts = s.bts := rfl
@[simp] theorem State.setKick_mxs (s : State) (k : KickQ) : (s.setKick k).mxs = s.mxs := rfl
@[simp] theorem State.setKick_ramps (s : State) (k : KickQ) : (s.setKick k).ramps = s.ramps := rfl
@[simp] theorem State.setKick_msgs (s : State) (k : KickQ) : (s.setKick k).msgs = s.msgs := rfl
@[simp] theorem State.setKick_traps (s : State) (k : KickQ) : (s.setKick k).traps = s.traps := rfl
@[simp] theorem State.setKick_recs (s : State) (k : KickQ) : (s.setKick k).recs = s.recs := rfl
@[simp] theorem State.setKick_parts (s : State) (k : KickQ) : (s.setKick k).parts = s.parts := rfl
@[simp] theorem State.setKick_vfs (s : State) (k : KickQ) : (s.setKick k).vfs = s.vfs := rfl
@[simp] theorem State.setKick_vfEnable (s : State) (k : KickQ) : (s.setKick k).vfEnable = s.vfEnable := rfl
@[simp] theorem State.setKick_vfClearing (s : State) (k : KickQ) : (s.setKick k).vfClearing = s.vfClearing := rfl
@[simp] theorem State.setKick_links (s : State) (k : KickQ) : (s.setKick k).links = s.links := rfl
@[simp] theorem State.setKick_ingress (s : State) (k : KickQ) : (s.setKick k).ingress = s.ingress := rfl
@[simp] theorem State.setKick_msix (s : State) (k : KickQ) : (s.setKick k).msix = s.msix := rfl
@[simp] theorem State.setKick_irqs (s : State) (k : KickQ) : (s.setKick k).irqs = s.irqs := rfl
@[simp] theorem State.setKick_kerr (s : State) (k : KickQ) : (s.setKick k).kerr = s.kerr := rfl
@[simp] theorem State.setKick_hostif (s : State) (k : KickQ) : (s.setKick k).hostif = s.hostif := rfl
@[simp] theorem State.setKick_answer (s : State) (k : KickQ) : (s.setKick k).answer = s.answer := rfl
@[simp] theorem State.setKick_spdm (s : State) (k : KickQ) : (s.setKick k).spdm = s.spdm := rfl
@[simp] theorem State.setKick_mmio (s : State) (k : KickQ) : (s.setKick k).mmio = s.mmio := rfl
@[simp] theorem State.setKick_flash (s : State) (k : KickQ) : (s.setKick k).flash = s.flash := rfl
@[simp] theorem State.setKick_hrow (s : State) (k : KickQ) : (s.setKick k).hrow = s.hrow := rfl
@[simp] theorem State.setKick_rows (s : State) (k : KickQ) : (s.setKick k).rows = s.rows := rfl
@[simp] theorem State.setKick_holds (s : State) (k : KickQ) : (s.setKick k).holds = s.holds := rfl
@[simp] theorem State.setKick_saveBytes (s : State) (k : KickQ) : (s.setKick k).saveBytes = s.saveBytes := rfl
@[simp] theorem State.setKick_anyNew (s : State) (k : KickQ) : (s.setKick k).anyNew = s.anyNew := rfl
@[simp] theorem State.setKick_attach (s : State) (k : KickQ) : (s.setKick k).attach = s.attach := rfl
@[simp] theorem State.setKick_dbgEvents (s : State) (k : KickQ) : (s.setKick k).dbgEvents = s.dbgEvents := rfl
@[simp] theorem State.setKick_dbgAnswer (s : State) (k : KickQ) : (s.setKick k).dbgAnswer = s.dbgAnswer := rfl
@[simp] theorem State.setKick_dbgNext (s : State) (k : KickQ) : (s.setKick k).dbgNext = s.dbgNext := rfl
@[simp] theorem State.setKick_dbgHold (s : State) (k : KickQ) : (s.setKick k).dbgHold = s.dbgHold := rfl
@[simp] theorem State.setKick_errs (s : State) (k : KickQ) : (s.setKick k).errs = s.errs := rfl
@[simp] theorem State.setKick_reports (s : State) (k : KickQ) : (s.setKick k).reports = s.reports := rfl
@[simp] theorem State.setKick_served (s : State) (k : KickQ) : (s.setKick k).served = s.served := rfl
@[simp] theorem State.setKick_ticket (s : State) (k : KickQ) : (s.setKick k).ticket = s.ticket := rfl
@[simp] theorem State.setKick_nextId (s : State) (k : KickQ) : (s.setKick k).nextId = s.nextId := rfl
@[simp] theorem State.setKick_free (s : State) (k : KickQ) : (s.setKick k).free = s.free := rfl
@[simp] theorem State.setKick_agenda (s : State) (k : KickQ) : (s.setKick k).agenda = s.agenda := rfl

/-! ### setFrame -/

@[simp] theorem State.setFrame_clk (s : State) (x : Frame) : (s.setFrame x).clk = s.clk := rfl
@[simp] theorem State.setFrame_ref252 (s : State) (x : Frame) : (s.setFrame x).ref252 = s.ref252 := rfl
@[simp] theorem State.setFrame_freq (s : State) (x : Frame) : (s.setFrame x).freq = s.freq := rfl
@[simp] theorem State.setFrame_service (s : State) (x : Frame) : (s.setFrame x).service = s.service := rfl
@[simp] theorem State.setFrame_ctxs (s : State) (x : Frame) : (s.setFrame x).ctxs = s.ctxs := rfl
@[simp] theorem State.setFrame_grids (s : State) (x : Frame) : (s.setFrame x).grids = s.grids := rfl
@[simp] theorem State.setFrame_blocks (s : State) (x : Frame) : (s.setFrame x).blocks = s.blocks := rfl
@[simp] theorem State.setFrame_groups (s : State) (x : Frame) : (s.setFrame x).groups = s.groups := rfl
@[simp] theorem State.setFrame_runs (s : State) (x : Frame) : (s.setFrame x).runs = s.runs := rfl
@[simp] theorem State.setFrame_busy (s : State) (x : Frame) : (s.setFrame x).busy = s.busy := rfl
@[simp] theorem State.setFrame_cur (s : State) (x : Frame) : (s.setFrame x).cur = s.cur := rfl
@[simp] theorem State.setFrame_mem (s : State) (x : Frame) : (s.setFrame x).mem = s.mem := rfl
@[simp] theorem State.setFrame_hist (s : State) (x : Frame) : (s.setFrame x).hist = s.hist := rfl
@[simp] theorem State.setFrame_scSeen (s : State) (x : Frame) : (s.setFrame x).scSeen = s.scSeen := rfl
@[simp] theorem State.setFrame_poison (s : State) (x : Frame) : (s.setFrame x).poison = s.poison := rfl
@[simp] theorem State.setFrame_bufs (s : State) (x : Frame) : (s.setFrame x).bufs = s.bufs := rfl
@[simp] theorem State.setFrame_tlb (s : State) (x : Frame) : (s.setFrame x).tlb = s.tlb := rfl
@[simp] theorem State.setFrame_walks (s : State) (x : Frame) : (s.setFrame x).walks = s.walks := rfl
@[simp] theorem State.setFrame_lastPages (s : State) (x : Frame) : (s.setFrame x).lastPages = s.lastPages := rfl
@[simp] theorem State.setFrame_l1 (s : State) (x : Frame) : (s.setFrame x).l1 = s.l1 := rfl
@[simp] theorem State.setFrame_l2 (s : State) (x : Frame) : (s.setFrame x).l2 = s.l2 := rfl
@[simp] theorem State.setFrame_wbs (s : State) (x : Frame) : (s.setFrame x).wbs = s.wbs := rfl
@[simp] theorem State.setFrame_fused (s : State) (x : Frame) : (s.setFrame x).fused = s.fused := rfl
@[simp] theorem State.setFrame_reqs (s : State) (x : Frame) : (s.setFrame x).reqs = s.reqs := rfl
@[simp] theorem State.setFrame_ctxops (s : State) (x : Frame) : (s.setFrame x).ctxops = s.ctxops := rfl
@[simp] theorem State.setFrame_rus (s : State) (x : Frame) : (s.setFrame x).rus = s.rus := rfl
@[simp] theorem State.setFrame_rdefs (s : State) (x : Frame) : (s.setFrame x).rdefs = s.rdefs := rfl
@[simp] theorem State.setFrame_bts (s : State) (x : Frame) : (s.setFrame x).bts = s.bts := rfl
@[simp] theorem State.setFrame_mxs (s : State) (x : Frame) : (s.setFrame x).mxs = s.mxs := rfl
@[simp] theorem State.setFrame_ramps (s : State) (x : Frame) : (s.setFrame x).ramps = s.ramps := rfl
@[simp] theorem State.setFrame_msgs (s : State) (x : Frame) : (s.setFrame x).msgs = s.msgs := rfl
@[simp] theorem State.setFrame_traps (s : State) (x : Frame) : (s.setFrame x).traps = s.traps := rfl
@[simp] theorem State.setFrame_recs (s : State) (x : Frame) : (s.setFrame x).recs = s.recs := rfl
@[simp] theorem State.setFrame_parts (s : State) (x : Frame) : (s.setFrame x).parts = s.parts := rfl
@[simp] theorem State.setFrame_vfs (s : State) (x : Frame) : (s.setFrame x).vfs = s.vfs := rfl
@[simp] theorem State.setFrame_vfEnable (s : State) (x : Frame) : (s.setFrame x).vfEnable = s.vfEnable := rfl
@[simp] theorem State.setFrame_vfClearing (s : State) (x : Frame) : (s.setFrame x).vfClearing = s.vfClearing := rfl
@[simp] theorem State.setFrame_links (s : State) (x : Frame) : (s.setFrame x).links = s.links := rfl
@[simp] theorem State.setFrame_ingress (s : State) (x : Frame) : (s.setFrame x).ingress = s.ingress := rfl
@[simp] theorem State.setFrame_msix (s : State) (x : Frame) : (s.setFrame x).msix = s.msix := rfl
@[simp] theorem State.setFrame_irqs (s : State) (x : Frame) : (s.setFrame x).irqs = s.irqs := rfl
@[simp] theorem State.setFrame_kicks (s : State) (x : Frame) : (s.setFrame x).kicks = s.kicks := rfl
@[simp] theorem State.setFrame_kerr (s : State) (x : Frame) : (s.setFrame x).kerr = s.kerr := rfl
@[simp] theorem State.setFrame_hostif (s : State) (x : Frame) : (s.setFrame x).hostif = s.hostif := rfl
@[simp] theorem State.setFrame_answer (s : State) (x : Frame) : (s.setFrame x).answer = s.answer := rfl
@[simp] theorem State.setFrame_spdm (s : State) (x : Frame) : (s.setFrame x).spdm = s.spdm := rfl
@[simp] theorem State.setFrame_mmio (s : State) (x : Frame) : (s.setFrame x).mmio = s.mmio := rfl
@[simp] theorem State.setFrame_flash (s : State) (x : Frame) : (s.setFrame x).flash = s.flash := rfl
@[simp] theorem State.setFrame_hrow (s : State) (x : Frame) : (s.setFrame x).hrow = s.hrow := rfl
@[simp] theorem State.setFrame_rows (s : State) (x : Frame) : (s.setFrame x).rows = s.rows := rfl
@[simp] theorem State.setFrame_holds (s : State) (x : Frame) : (s.setFrame x).holds = s.holds := rfl
@[simp] theorem State.setFrame_saveBytes (s : State) (x : Frame) : (s.setFrame x).saveBytes = s.saveBytes := rfl
@[simp] theorem State.setFrame_anyNew (s : State) (x : Frame) : (s.setFrame x).anyNew = s.anyNew := rfl
@[simp] theorem State.setFrame_attach (s : State) (x : Frame) : (s.setFrame x).attach = s.attach := rfl
@[simp] theorem State.setFrame_dbgEvents (s : State) (x : Frame) : (s.setFrame x).dbgEvents = s.dbgEvents := rfl
@[simp] theorem State.setFrame_dbgAnswer (s : State) (x : Frame) : (s.setFrame x).dbgAnswer = s.dbgAnswer := rfl
@[simp] theorem State.setFrame_dbgNext (s : State) (x : Frame) : (s.setFrame x).dbgNext = s.dbgNext := rfl
@[simp] theorem State.setFrame_dbgHold (s : State) (x : Frame) : (s.setFrame x).dbgHold = s.dbgHold := rfl
@[simp] theorem State.setFrame_errs (s : State) (x : Frame) : (s.setFrame x).errs = s.errs := rfl
@[simp] theorem State.setFrame_reports (s : State) (x : Frame) : (s.setFrame x).reports = s.reports := rfl
@[simp] theorem State.setFrame_served (s : State) (x : Frame) : (s.setFrame x).served = s.served := rfl
@[simp] theorem State.setFrame_ticket (s : State) (x : Frame) : (s.setFrame x).ticket = s.ticket := rfl
@[simp] theorem State.setFrame_nextId (s : State) (x : Frame) : (s.setFrame x).nextId = s.nextId := rfl
@[simp] theorem State.setFrame_free (s : State) (x : Frame) : (s.setFrame x).free = s.free := rfl
@[simp] theorem State.setFrame_agenda (s : State) (x : Frame) : (s.setFrame x).agenda = s.agenda := rfl

/-! ### endRun -/

@[simp] theorem endRun_clk (s : State) (k : Nat) : (endRun s k).clk = s.clk := rfl
@[simp] theorem endRun_ref252 (s : State) (k : Nat) : (endRun s k).ref252 = s.ref252 := rfl
@[simp] theorem endRun_freq (s : State) (k : Nat) : (endRun s k).freq = s.freq := rfl
@[simp] theorem endRun_service (s : State) (k : Nat) : (endRun s k).service = s.service := rfl
@[simp] theorem endRun_ctxs (s : State) (k : Nat) : (endRun s k).ctxs = s.ctxs := rfl
@[simp] theorem endRun_grids (s : State) (k : Nat) : (endRun s k).grids = s.grids := rfl
@[simp] theorem endRun_blocks (s : State) (k : Nat) : (endRun s k).blocks = s.blocks := rfl
@[simp] theorem endRun_groups (s : State) (k : Nat) : (endRun s k).groups = s.groups := rfl
@[simp] theorem endRun_busy (s : State) (k : Nat) : (endRun s k).busy = s.busy := rfl
@[simp] theorem endRun_cur (s : State) (k : Nat) : (endRun s k).cur = s.cur := rfl
@[simp] theorem endRun_mem (s : State) (k : Nat) : (endRun s k).mem = s.mem := rfl
@[simp] theorem endRun_hist (s : State) (k : Nat) : (endRun s k).hist = s.hist := rfl
@[simp] theorem endRun_scSeen (s : State) (k : Nat) : (endRun s k).scSeen = s.scSeen := rfl
@[simp] theorem endRun_poison (s : State) (k : Nat) : (endRun s k).poison = s.poison := rfl
@[simp] theorem endRun_bufs (s : State) (k : Nat) : (endRun s k).bufs = s.bufs := rfl
@[simp] theorem endRun_frames (s : State) (k : Nat) : (endRun s k).frames = s.frames := rfl
@[simp] theorem endRun_tlb (s : State) (k : Nat) : (endRun s k).tlb = s.tlb := rfl
@[simp] theorem endRun_walks (s : State) (k : Nat) : (endRun s k).walks = s.walks := rfl
@[simp] theorem endRun_lastPages (s : State) (k : Nat) : (endRun s k).lastPages = s.lastPages := rfl
@[simp] theorem endRun_l1 (s : State) (k : Nat) : (endRun s k).l1 = s.l1 := rfl
@[simp] theorem endRun_l2 (s : State) (k : Nat) : (endRun s k).l2 = s.l2 := rfl
@[simp] theorem endRun_wbs (s : State) (k : Nat) : (endRun s k).wbs = s.wbs := rfl
@[simp] theorem endRun_fused (s : State) (k : Nat) : (endRun s k).fused = s.fused := rfl
@[simp] theorem endRun_reqs (s : State) (k : Nat) : (endRun s k).reqs = s.reqs := rfl
@[simp] theorem endRun_ctxops (s : State) (k : Nat) : (endRun s k).ctxops = s.ctxops := rfl
@[simp] theorem endRun_rus (s : State) (k : Nat) : (endRun s k).rus = s.rus := rfl
@[simp] theorem endRun_rdefs (s : State) (k : Nat) : (endRun s k).rdefs = s.rdefs := rfl
@[simp] theorem endRun_bts (s : State) (k : Nat) : (endRun s k).bts = s.bts := rfl
@[simp] theorem endRun_mxs (s : State) (k : Nat) : (endRun s k).mxs = s.mxs := rfl
@[simp] theorem endRun_ramps (s : State) (k : Nat) : (endRun s k).ramps = s.ramps := rfl
@[simp] theorem endRun_msgs (s : State) (k : Nat) : (endRun s k).msgs = s.msgs := rfl
@[simp] theorem endRun_traps (s : State) (k : Nat) : (endRun s k).traps = s.traps := rfl
@[simp] theorem endRun_recs (s : State) (k : Nat) : (endRun s k).recs = s.recs := rfl
@[simp] theorem endRun_parts (s : State) (k : Nat) : (endRun s k).parts = s.parts := rfl
@[simp] theorem endRun_vfs (s : State) (k : Nat) : (endRun s k).vfs = s.vfs := rfl
@[simp] theorem endRun_vfEnable (s : State) (k : Nat) : (endRun s k).vfEnable = s.vfEnable := rfl
@[simp] theorem endRun_vfClearing (s : State) (k : Nat) : (endRun s k).vfClearing = s.vfClearing := rfl
@[simp] theorem endRun_links (s : State) (k : Nat) : (endRun s k).links = s.links := rfl
@[simp] theorem endRun_ingress (s : State) (k : Nat) : (endRun s k).ingress = s.ingress := rfl
@[simp] theorem endRun_msix (s : State) (k : Nat) : (endRun s k).msix = s.msix := rfl
@[simp] theorem endRun_irqs (s : State) (k : Nat) : (endRun s k).irqs = s.irqs := rfl
@[simp] theorem endRun_kicks (s : State) (k : Nat) : (endRun s k).kicks = s.kicks := rfl
@[simp] theorem endRun_kerr (s : State) (k : Nat) : (endRun s k).kerr = s.kerr := rfl
@[simp] theorem endRun_hostif (s : State) (k : Nat) : (endRun s k).hostif = s.hostif := rfl
@[simp] theorem endRun_answer (s : State) (k : Nat) : (endRun s k).answer = s.answer := rfl
@[simp] theorem endRun_spdm (s : State) (k : Nat) : (endRun s k).spdm = s.spdm := rfl
@[simp] theorem endRun_mmio (s : State) (k : Nat) : (endRun s k).mmio = s.mmio := rfl
@[simp] theorem endRun_flash (s : State) (k : Nat) : (endRun s k).flash = s.flash := rfl
@[simp] theorem endRun_hrow (s : State) (k : Nat) : (endRun s k).hrow = s.hrow := rfl
@[simp] theorem endRun_rows (s : State) (k : Nat) : (endRun s k).rows = s.rows := rfl
@[simp] theorem endRun_holds (s : State) (k : Nat) : (endRun s k).holds = s.holds := rfl
@[simp] theorem endRun_saveBytes (s : State) (k : Nat) : (endRun s k).saveBytes = s.saveBytes := rfl
@[simp] theorem endRun_anyNew (s : State) (k : Nat) : (endRun s k).anyNew = s.anyNew := rfl
@[simp] theorem endRun_attach (s : State) (k : Nat) : (endRun s k).attach = s.attach := rfl
@[simp] theorem endRun_dbgEvents (s : State) (k : Nat) : (endRun s k).dbgEvents = s.dbgEvents := rfl
@[simp] theorem endRun_dbgAnswer (s : State) (k : Nat) : (endRun s k).dbgAnswer = s.dbgAnswer := rfl
@[simp] theorem endRun_dbgNext (s : State) (k : Nat) : (endRun s k).dbgNext = s.dbgNext := rfl
@[simp] theorem endRun_dbgHold (s : State) (k : Nat) : (endRun s k).dbgHold = s.dbgHold := rfl
@[simp] theorem endRun_errs (s : State) (k : Nat) : (endRun s k).errs = s.errs := rfl
@[simp] theorem endRun_reports (s : State) (k : Nat) : (endRun s k).reports = s.reports := rfl
@[simp] theorem endRun_served (s : State) (k : Nat) : (endRun s k).served = s.served := rfl
@[simp] theorem endRun_ticket (s : State) (k : Nat) : (endRun s k).ticket = s.ticket := rfl
@[simp] theorem endRun_nextId (s : State) (k : Nat) : (endRun s k).nextId = s.nextId := rfl
@[simp] theorem endRun_free (s : State) (k : Nat) : (endRun s k).free = s.free := rfl
@[simp] theorem endRun_agenda (s : State) (k : Nat) : (endRun s k).agenda = s.agenda := rfl

/-! ### endRunAt -/

@[simp] theorem endRunAt_clk (s : State) (c p : Nat) : (endRunAt s c p).clk = s.clk := rfl
@[simp] theorem endRunAt_ref252 (s : State) (c p : Nat) : (endRunAt s c p).ref252 = s.ref252 := rfl
@[simp] theorem endRunAt_freq (s : State) (c p : Nat) : (endRunAt s c p).freq = s.freq := rfl
@[simp] theorem endRunAt_service (s : State) (c p : Nat) : (endRunAt s c p).service = s.service := rfl
@[simp] theorem endRunAt_ctxs (s : State) (c p : Nat) : (endRunAt s c p).ctxs = s.ctxs := rfl
@[simp] theorem endRunAt_grids (s : State) (c p : Nat) : (endRunAt s c p).grids = s.grids := rfl
@[simp] theorem endRunAt_blocks (s : State) (c p : Nat) : (endRunAt s c p).blocks = s.blocks := rfl
@[simp] theorem endRunAt_groups (s : State) (c p : Nat) : (endRunAt s c p).groups = s.groups := rfl
@[simp] theorem endRunAt_busy (s : State) (c p : Nat) : (endRunAt s c p).busy = s.busy := rfl
@[simp] theorem endRunAt_cur (s : State) (c p : Nat) : (endRunAt s c p).cur = s.cur := rfl
@[simp] theorem endRunAt_mem (s : State) (c p : Nat) : (endRunAt s c p).mem = s.mem := rfl
@[simp] theorem endRunAt_hist (s : State) (c p : Nat) : (endRunAt s c p).hist = s.hist := rfl
@[simp] theorem endRunAt_scSeen (s : State) (c p : Nat) : (endRunAt s c p).scSeen = s.scSeen := rfl
@[simp] theorem endRunAt_poison (s : State) (c p : Nat) : (endRunAt s c p).poison = s.poison := rfl
@[simp] theorem endRunAt_bufs (s : State) (c p : Nat) : (endRunAt s c p).bufs = s.bufs := rfl
@[simp] theorem endRunAt_frames (s : State) (c p : Nat) : (endRunAt s c p).frames = s.frames := rfl
@[simp] theorem endRunAt_tlb (s : State) (c p : Nat) : (endRunAt s c p).tlb = s.tlb := rfl
@[simp] theorem endRunAt_walks (s : State) (c p : Nat) : (endRunAt s c p).walks = s.walks := rfl
@[simp] theorem endRunAt_lastPages (s : State) (c p : Nat) : (endRunAt s c p).lastPages = s.lastPages := rfl
@[simp] theorem endRunAt_l1 (s : State) (c p : Nat) : (endRunAt s c p).l1 = s.l1 := rfl
@[simp] theorem endRunAt_l2 (s : State) (c p : Nat) : (endRunAt s c p).l2 = s.l2 := rfl
@[simp] theorem endRunAt_wbs (s : State) (c p : Nat) : (endRunAt s c p).wbs = s.wbs := rfl
@[simp] theorem endRunAt_fused (s : State) (c p : Nat) : (endRunAt s c p).fused = s.fused := rfl
@[simp] theorem endRunAt_reqs (s : State) (c p : Nat) : (endRunAt s c p).reqs = s.reqs := rfl
@[simp] theorem endRunAt_ctxops (s : State) (c p : Nat) : (endRunAt s c p).ctxops = s.ctxops := rfl
@[simp] theorem endRunAt_rus (s : State) (c p : Nat) : (endRunAt s c p).rus = s.rus := rfl
@[simp] theorem endRunAt_rdefs (s : State) (c p : Nat) : (endRunAt s c p).rdefs = s.rdefs := rfl
@[simp] theorem endRunAt_bts (s : State) (c p : Nat) : (endRunAt s c p).bts = s.bts := rfl
@[simp] theorem endRunAt_mxs (s : State) (c p : Nat) : (endRunAt s c p).mxs = s.mxs := rfl
@[simp] theorem endRunAt_ramps (s : State) (c p : Nat) : (endRunAt s c p).ramps = s.ramps := rfl
@[simp] theorem endRunAt_msgs (s : State) (c p : Nat) : (endRunAt s c p).msgs = s.msgs := rfl
@[simp] theorem endRunAt_traps (s : State) (c p : Nat) : (endRunAt s c p).traps = s.traps := rfl
@[simp] theorem endRunAt_recs (s : State) (c p : Nat) : (endRunAt s c p).recs = s.recs := rfl
@[simp] theorem endRunAt_parts (s : State) (c p : Nat) : (endRunAt s c p).parts = s.parts := rfl
@[simp] theorem endRunAt_vfs (s : State) (c p : Nat) : (endRunAt s c p).vfs = s.vfs := rfl
@[simp] theorem endRunAt_vfEnable (s : State) (c p : Nat) : (endRunAt s c p).vfEnable = s.vfEnable := rfl
@[simp] theorem endRunAt_vfClearing (s : State) (c p : Nat) : (endRunAt s c p).vfClearing = s.vfClearing := rfl
@[simp] theorem endRunAt_links (s : State) (c p : Nat) : (endRunAt s c p).links = s.links := rfl
@[simp] theorem endRunAt_ingress (s : State) (c p : Nat) : (endRunAt s c p).ingress = s.ingress := rfl
@[simp] theorem endRunAt_msix (s : State) (c p : Nat) : (endRunAt s c p).msix = s.msix := rfl
@[simp] theorem endRunAt_irqs (s : State) (c p : Nat) : (endRunAt s c p).irqs = s.irqs := rfl
@[simp] theorem endRunAt_kicks (s : State) (c p : Nat) : (endRunAt s c p).kicks = s.kicks := rfl
@[simp] theorem endRunAt_kerr (s : State) (c p : Nat) : (endRunAt s c p).kerr = s.kerr := rfl
@[simp] theorem endRunAt_hostif (s : State) (c p : Nat) : (endRunAt s c p).hostif = s.hostif := rfl
@[simp] theorem endRunAt_answer (s : State) (c p : Nat) : (endRunAt s c p).answer = s.answer := rfl
@[simp] theorem endRunAt_spdm (s : State) (c p : Nat) : (endRunAt s c p).spdm = s.spdm := rfl
@[simp] theorem endRunAt_mmio (s : State) (c p : Nat) : (endRunAt s c p).mmio = s.mmio := rfl
@[simp] theorem endRunAt_flash (s : State) (c p : Nat) : (endRunAt s c p).flash = s.flash := rfl
@[simp] theorem endRunAt_hrow (s : State) (c p : Nat) : (endRunAt s c p).hrow = s.hrow := rfl
@[simp] theorem endRunAt_rows (s : State) (c p : Nat) : (endRunAt s c p).rows = s.rows := rfl
@[simp] theorem endRunAt_holds (s : State) (c p : Nat) : (endRunAt s c p).holds = s.holds := rfl
@[simp] theorem endRunAt_saveBytes (s : State) (c p : Nat) : (endRunAt s c p).saveBytes = s.saveBytes := rfl
@[simp] theorem endRunAt_anyNew (s : State) (c p : Nat) : (endRunAt s c p).anyNew = s.anyNew := rfl
@[simp] theorem endRunAt_attach (s : State) (c p : Nat) : (endRunAt s c p).attach = s.attach := rfl
@[simp] theorem endRunAt_dbgEvents (s : State) (c p : Nat) : (endRunAt s c p).dbgEvents = s.dbgEvents := rfl
@[simp] theorem endRunAt_dbgAnswer (s : State) (c p : Nat) : (endRunAt s c p).dbgAnswer = s.dbgAnswer := rfl
@[simp] theorem endRunAt_dbgNext (s : State) (c p : Nat) : (endRunAt s c p).dbgNext = s.dbgNext := rfl
@[simp] theorem endRunAt_dbgHold (s : State) (c p : Nat) : (endRunAt s c p).dbgHold = s.dbgHold := rfl
@[simp] theorem endRunAt_errs (s : State) (c p : Nat) : (endRunAt s c p).errs = s.errs := rfl
@[simp] theorem endRunAt_reports (s : State) (c p : Nat) : (endRunAt s c p).reports = s.reports := rfl
@[simp] theorem endRunAt_served (s : State) (c p : Nat) : (endRunAt s c p).served = s.served := rfl
@[simp] theorem endRunAt_ticket (s : State) (c p : Nat) : (endRunAt s c p).ticket = s.ticket := rfl
@[simp] theorem endRunAt_nextId (s : State) (c p : Nat) : (endRunAt s c p).nextId = s.nextId := rfl
@[simp] theorem endRunAt_free (s : State) (c p : Nat) : (endRunAt s c p).free = s.free := rfl
@[simp] theorem endRunAt_agenda (s : State) (c p : Nat) : (endRunAt s c p).agenda = s.agenda := rfl

end Sys2Proof.Machine
end

