-- ==== Sys2Proof/Laws/Unit.lean ====
section
/-! SUPPORT. What executing a unit does: the issue in progress, the threads that pass it, its end, and register results. -/

namespace Sys2Proof.Machine

set_option Elab.async false

/-! ## Groups -/

theorem find_updGroups (gs : List Group) (n m : Nat) (f : Group → Group) (hf : ∀ x, (f x).gid = x.gid) :
    (updGroups n f gs).find? (fun x => x.gid == m) =
      if m = n then (gs.find? fun x => x.gid == m).map f else gs.find? fun x => x.gid == m := by
  induction gs with
  | nil => simp [updGroups]
  | cons g r ih =>
    simp only [updGroups, List.map_cons, List.find?_cons] at ih ⊢
    by_cases hg : g.gid = n
    · by_cases hm : m = n
      · simp [hg, hm, hf]
      · simp only [hg, beq_self_eq_true, if_true, hf, hm, if_false] at ih ⊢
        simp only [show (n == m) = false by simpa using fun h => hm h.symm, ih]
    · simp only [show (g.gid == n) = false by simpa using hg, Bool.false_eq_true, if_false]
      by_cases hm : m = n
      · subst hm
        simp only [show (g.gid == m) = false by simpa using hg, if_true] at ih ⊢
        exact ih
      · simp only [hm, if_false] at ih ⊢
        rw [ih]

theorem any_of_find {gs : List Group} {n : Nat} {g : Group} (h : (gs.find? fun x => x.gid == n) = some g) :
    (gs.any fun x => x.gid == n) = true := by
  have := List.find?_some h
  exact List.any_eq_true.2 ⟨g, List.mem_of_find?_eq_some h, this⟩

theorem State.updGrp_of_find {s : State} {n : Nat} {g : Group} (f : Group → Group)
    (h : (s.groups.find? fun x => x.gid == n) = some g) :
    s.updGrp n f = { s with groups := updGroups n f s.groups } := by
  rw [State.updGrp, if_pos (any_of_find h)]

theorem State.grp?_of_find {s : State} {n : Nat} {g : Group} (h : (s.groups.find? fun x => x.gid == n) = some g) :
    s.grp? n = some g := by
  rw [State.grp?, h]

/-- After an update of a resident group: it is updated, every other one is as before. -/
theorem State.find_updGrp {s : State} {n : Nat} {g : Group} (f : Group → Group) (hf : ∀ x, (f x).gid = x.gid)
    (h : (s.groups.find? fun x => x.gid == n) = some g) :
    ((s.updGrp n f).groups.find? fun x => x.gid == n) = some (f g) ∧
      ∀ m, m ≠ n → (s.updGrp n f).grp? m = s.grp? m := by
  rw [State.updGrp_of_find f h]
  refine ⟨by simp [find_updGroups _ _ _ _ hf, h], fun m hm => ?_⟩
  simp only [State.grp?, find_updGroups _ _ _ _ hf, if_neg hm]

/-- A unit's group is resident, and its active threads are among its threads. -/
theorem State.issue?_spec {s : State} {u : Issue} (h : s.issue? = some u) :
    (s.groups.find? fun x => x.gid == u.gid) = some u.grp ∧ (∀ k, u.act.contains k = true → u.tids.contains k = true) ∧
      u.grp.gid = u.gid := by
  unfold State.issue? at h
  split at h
  · cases h
  · split at h
    · cases h
    · next g hg =>
      split at h
      · cases h
      · next t0 r hr =>
        cases h
        refine ⟨hg, fun k hk => ?_, by simpa using List.find?_some hg⟩
        simp only [List.contains_eq_mem, decide_eq_true_eq, List.mem_filter] at hk ⊢
        exact hk.1

theorem Group.thr_updThrs' (g : Group) (ts : List Nat) (f : Nat → Thread → Thread) (k : Nat)
    (hk : k < g.threads.length) :
    (g.updThrs' ts f).thr k = if ts.contains k then f k (g.thr k) else g.thr k := by
  simp only [Group.thr, Group.updThrs', List.getD_eq_getElem?_getD, List.getElem?_mapIdx, List.getElem?_eq_getElem hk,
    Option.map_some, Option.getD_some]

theorem Group.thr_updThrs (g : Group) (ts : List Nat) (f : Thread → Thread) (k : Nat) (hk : k < g.threads.length) :
    (g.updThrs ts f).thr k = if ts.contains k then f (g.thr k) else g.thr k :=
  Group.thr_updThrs' g ts (fun _ => f) k hk

@[simp] theorem Group.length_updThrs (g : Group) (ts : List Nat) (f : Thread → Thread) :
    (g.updThrs ts f).threads.length = g.threads.length := by simp [Group.updThrs]

@[simp] theorem Group.length_updThrs' (g : Group) (ts : List Nat) (f : Nat → Thread → Thread) :
    (g.updThrs' ts f).threads.length = g.threads.length := by simp [Group.updThrs']

/-! ## A change of one group -/

/-- From s to t the groups alone change, and of them only a resident one, from g to g'. -/
structure OneGroup (n : Nat) (s t : State) (g g' : Group) : Prop where
  only : t = { s with groups := t.groups }
  old : (s.groups.find? fun x => x.gid == n) = some g
  new : (t.groups.find? fun x => x.gid == n) = some g'
  others : ∀ m, m ≠ n → t.grp? m = s.grp? m

theorem OneGroup.of_updGrp {s : State} {n : Nat} {g : Group} (f : Group → Group) (hf : ∀ x, (f x).gid = x.gid)
    (h : (s.groups.find? fun x => x.gid == n) = some g) : OneGroup n s (s.updGrp n f) g (f g) :=
  have k := State.find_updGrp f hf h
  ⟨by rw [State.updGrp_of_find f h], h, k.1, k.2⟩

theorem OneGroup.refl {s : State} {n : Nat} {g : Group} (h : (s.groups.find? fun x => x.gid == n) = some g) :
    OneGroup n s s g g := ⟨rfl, h, h, fun _ _ => rfl⟩

theorem OneGroup.trans {n : Nat} {s t r : State} {g g' g'' : Group} (h : OneGroup n s t g g')
    (k : OneGroup n t r g' g'') : OneGroup n s r g g'' :=
  ⟨by have a := h.only; have b := k.only; rw [b, a], h.old, k.new, fun m hm => (k.others m hm).trans (h.others m hm)⟩

/-! ## Run control -/

/-- A group that differs from another only by run control in the unit's threads. -/
structure Ctl (u : Issue) (g g' : Group) : Prop where
  rest : g' = { g with threads := g'.threads, yielded := g'.yielded }
  size : g'.threads.length = g.threads.length
  thr : ∀ k, k < g.threads.length → RunCtl u k (g.thr k) (g'.thr k)

theorem RunCtl.trans {u : Issue} {k : Nat} {a b c : Thread} (h : RunCtl u k a b) (h' : RunCtl u k b c) : RunCtl u k a c := by
  unfold RunCtl at *
  by_cases hk : u.tids.contains k = true
  · rw [if_pos hk] at *; exact ⟨by rw [h'.1, h.1], h'.2.trans h.2⟩
  · rw [if_neg hk] at *; rw [h', h]

theorem RunCtl.refl (u : Issue) (k : Nat) (th : Thread) : RunCtl u k th th := by
  unfold RunCtl; split
  · exact ⟨rfl, .refl _⟩
  · rfl

theorem Ctl.refl (u : Issue) (g : Group) : Ctl u g g :=
  ⟨rfl, rfl, fun k _ => RunCtl.refl u k _⟩

theorem Ctl.trans {u : Issue} {g g' g'' : Group} (h : Ctl u g g') (k : Ctl u g' g'') : Ctl u g g'' :=
  ⟨by have a := h.rest; have b := k.rest; rw [b, a], k.size.trans h.size,
   fun i hi => (h.thr i hi).trans (k.thr i (by rw [h.size]; exact hi))⟩

theorem Ctl.of_updThrs (u : Issue) (g : Group) (ts : List Nat) (f : Thread → Thread)
    (hs : ∀ k, ts.contains k = true → u.tids.contains k = true)
    (hf : ∀ th, f th = { th with
      settle := (f th).settle, stopped := (f th).stopped, waited := (f th).waited, starved := (f th).starved,
      unsettled := (f th).unsettled } ∧ (f th).unsettled.Sublist th.unsettled) :
    Ctl u g (g.updThrs ts f) := by
  refine ⟨rfl, by simp, fun k hk => ?_⟩
  rw [Group.thr_updThrs _ _ _ _ hk]
  unfold RunCtl
  by_cases h : ts.contains k = true
  · rw [if_pos (hs k h), if_pos h]; exact hf _
  · rw [if_neg h]; exact RunCtl.refl u k _

/-- The thread of a closing instruction starts its region's results after it (R117). -/
def finThr (i : Instr) (u : Issue) (n k : Nat) (th : Thread) : Thread :=
  if i.closing && u.tids.contains k then { th with rid := n } else th

/-- What the end of a unit does to its group. -/
structure FinGroup (i : Instr) (u : Issue) (n : Nat) (g g' : Group) : Prop where
  rest : g' = { g with threads := g'.threads, yielded := g'.yielded }
  size : g'.threads.length = g.threads.length
  thr : ∀ k, k < g.threads.length → RunCtl u k (finThr i u n k (g.thr k)) (g'.thr k)

theorem settleRelease_ctl (th : Thread) :
    settleRelease th = { th with
      settle := (settleRelease th).settle, stopped := (settleRelease th).stopped, waited := (settleRelease th).waited
      starved := (settleRelease th).starved, unsettled := (settleRelease th).unsettled } ∧
    (settleRelease th).unsettled.Sublist th.unsettled := by
  unfold settleRelease
  split
  · split
    · exact ⟨rfl, .refl _⟩
    · exact ⟨rfl, List.filter_sublist⟩
  · exact ⟨rfl, .refl _⟩

theorem settle_ctl (n : Nat) (th : Thread) :
    (if th.exited then th else settleRelease { th with settle := some n }) = { th with
      settle := (if th.exited then th else settleRelease { th with settle := some n }).settle
      stopped := (if th.exited then th else settleRelease { th with settle := some n }).stopped
      waited := (if th.exited then th else settleRelease { th with settle := some n }).waited
      starved := (if th.exited then th else settleRelease { th with settle := some n }).starved
      unsettled := (if th.exited then th else settleRelease { th with settle := some n }).unsettled } ∧
    (if th.exited then th else settleRelease { th with settle := some n }).unsettled.Sublist th.unsettled := by
  split
  · exact ⟨rfl, .refl _⟩
  · have h := settleRelease_ctl { th with settle := some n }
    refine ⟨?_, h.2⟩
    conv => lhs; rw [h.1]

theorem OneGroup.ite {n : Nat} {s t : State} {g g' : Group} (c : Prop) [Decidable c]
    (h : (s.groups.find? fun x => x.gid == n) = some g) (k : OneGroup n s t g g') :
    OneGroup n s (if c then t else s) g (if c then g' else g) := by
  split
  · exact k
  · exact .refl h

/-- The end of a unit changes its group by run control, the runs of its partition, and the counter of free values. -/
theorem finish_spec (i : Instr) (u : Issue) (s : State) (g : Group)
    (hg : (s.groups.find? fun x => x.gid == u.gid) = some g)
    (ha : ∀ k, u.act.contains k = true → u.tids.contains k = true) (hm : i.matrix = false) :
    ∃ g', ((finish i u s).groups.find? fun x => x.gid == u.gid) = some g' ∧ FinGroup i u s.nextId g g' ∧
      finish i u s = { s with groups := (finish i u s).groups, runs := (finish i u s).runs, free := s.free + 1 } ∧
      (∀ m, m ≠ u.gid → (finish i u s).grp? m = s.grp? m) ∧
      ∀ r : Run, r.core ≠ u.core ∨ r.part ≠ u.part → (r ∈ (finish i u s).runs ↔ r ∈ s.runs) := by
  -- the closing mark
  obtain ⟨s1, g1, h1, e1, o1⟩ : ∃ s1 g1, s1 = (if i.closing then s.updGrp u.gid fun g => g.updThrs u.tids fun th =>
      { th with rid := s.nextId } else s) ∧ FinGroup i u s.nextId g g1 ∧ OneGroup u.gid s s1 g g1 := by
    refine ⟨_, _, rfl, ?_, OneGroup.ite _ hg (OneGroup.of_updGrp _ (fun _ => rfl) hg)⟩
    constructor
    · split <;> rfl
    · split <;> simp
    · intro k hk
      unfold finThr RunCtl
      by_cases hc : i.closing = true
      · simp only [hc, if_true, Bool.true_and]
        rw [Group.thr_updThrs _ _ _ _ hk]
        split
        · exact ⟨rfl, .refl _⟩
        · rfl
      · simp [hc]
  -- settle
  obtain ⟨s2, g2, h2, e2, o2⟩ : ∃ s2 g2, s2 = (if i.rc = 2 then settleThreads u s1 else s1) ∧ Ctl u g1 g2 ∧
      OneGroup u.gid s1 s2 g1 g2 := by
    refine ⟨_, _, rfl, ?_, OneGroup.ite _ o1.new (OneGroup.of_updGrp _ (fun _ => rfl) o1.new)⟩
    split
    · exact Ctl.of_updThrs _ _ _ _ ha (settle_ctl _)
    · exact .refl ..
  obtain ⟨s3, g3, h3, e3, o3⟩ : ∃ s3 g3, s3 = (if i.rc = 3 then s2.updGrp u.gid fun g => { g with yielded := true } else s2) ∧
      Ctl u g2 g3 ∧ OneGroup u.gid s2 s3 g2 g3 := by
    refine ⟨_, _, rfl, ?_, OneGroup.ite _ o2.new (OneGroup.of_updGrp _ (fun _ => rfl) o2.new)⟩
    split
    · exact ⟨rfl, rfl, fun k _ => RunCtl.refl u k _⟩
    · exact .refl ..
  obtain ⟨s4, g4, h4, e4, o4⟩ : ∃ s4 g4, s4 = (s3.updGrp u.gid fun g => g.updThrs u.tids fun th =>
      { th with waited := 0, starved := none }) ∧ Ctl u g3 g4 ∧ OneGroup u.gid s3 s4 g3 g4 :=
    ⟨_, _, rfl, Ctl.of_updThrs u g3 u.tids (fun th => { th with waited := 0, starved := none }) (fun _ h => h)
      fun _ => ⟨rfl, .refl _⟩, OneGroup.of_updGrp _ (fun _ => rfl) o3.new⟩
  have o := o1.trans (o2.trans (o3.trans o4))
  have e : FinGroup i u s.nextId g g4 := by
    have c := e2.trans (e3.trans e4)
    exact ⟨by rw [c.rest, e1.rest], c.size.trans e1.size,
      fun k hk => (e1.thr k hk).trans (c.thr k (by rw [e1.size]; exact hk))⟩
  have hf : finish i u s = (match ({ s4 with free := s4.free + 1 } : State).run? with
    | none => ({ s4 with free := s4.free + 1 } : State)
    | some r =>
      if runEnds i u r { s4 with free := s4.free + 1 } then
        (if r.single then (endRunAt { s4 with free := s4.free + 1 } u.core u.part).updGrp u.gid fun g =>
          g.updThrs u.tids fun th => if th.exited || th.park.isSome then th else { th with stopped := true }
        else endRunAt { s4 with free := s4.free + 1 } u.core u.part)
      else
        { s4 with free := s4.free + 1, runs := s4.runs.map fun x => if x.core == u.core && x.part == u.part then
          { x with pfx := {}, off := 0, words := x.words + x.off + 1 } else x }) := by
    subst h4 h3 h2 h1
    simp only [finish, hm, Bool.false_eq_true, if_false] <;> rfl
  have hfree : s4.free = s.free := by have := o.only; rw [this]
  have hruns : s4.runs = s.runs := by have := o.only; rw [this]
  have hmem : ∀ r : Run, r.core ≠ u.core ∨ r.part ≠ u.part →
      (r ∈ s.runs.filter (fun r => !(r.core == u.core && r.part == u.part)) ↔ r ∈ s.runs) := by
    intro r hr
    simp only [List.mem_filter, Bool.not_eq_true', Bool.and_eq_false_iff, beq_eq_false_iff_ne, hr, and_true]
  rw [hf]
  split
  · refine ⟨g4, o.new, e, ?_, o.others, fun r _ => by rw [← hruns]⟩
    have := o.only; rw [this]
  · next r hr =>
    by_cases hend : runEnds i u r { s4 with free := s4.free + 1 } = true
    · rw [if_pos hend]
      set s5 : State := endRunAt { s4 with free := s4.free + 1 } u.core u.part with hs5
      have n5 : (s5.groups.find? fun x => x.gid == u.gid) = some g4 := o.new
      by_cases hsg : r.single = true
      · rw [if_pos hsg]
        have o6 : OneGroup u.gid s5 (s5.updGrp u.gid fun g =>
          g.updThrs u.tids fun th => if th.exited || th.park.isSome then th else { th with stopped := true }) g4 _ :=
          OneGroup.of_updGrp _ (fun _ => rfl) n5
        refine ⟨_, o6.new, ?_, ?_, fun m hm => (o6.others m hm).trans (o.others m hm), ?_⟩
        · have c := Ctl.of_updThrs u g4 u.tids (fun th => if th.exited || th.park.isSome then th else { th with stopped := true })
            (fun _ h => h) (fun th => by split <;> exact ⟨rfl, .refl _⟩)
          exact ⟨by rw [c.rest, e.rest], c.size.trans e.size,
            fun k hk => (e.thr k hk).trans (c.thr k (by rw [e.size]; exact hk))⟩
        · have a := o6.only; have b := o.only; rw [a, hs5, endRunAt, b]
        · intro r hr
          have a := o6.only
          rw [a, hs5, endRunAt]; simp only [hruns]; exact hmem r hr
      · rw [if_neg hsg]
        refine ⟨g4, n5, e, ?_, o.others, ?_⟩
        · have b := o.only; rw [hs5, endRunAt, b]
        · intro r hr; rw [hs5, endRunAt]; simp only [hruns]; exact hmem r hr
    · rw [if_neg hend]
      refine ⟨g4, o.new, e, ?_, o.others, ?_⟩
      · have b := o.only; rw [b]
      · intro r hr
        simp only [hruns, List.mem_map]
        constructor
        · rintro ⟨x, hx, rfl⟩
          split at hr
          · next h => simp at h; simp [h] at hr
          · next h => rw [if_neg h]; exact hx
        · intro h
          refine ⟨r, h, if_neg ?_⟩
          simp only [Bool.and_eq_true, beq_iff_eq, not_and_or]; exact hr

/-! ## Passing a unit -/

/-- Passing a unit changes its group alone, and there its threads by `passed`. -/
theorem advance_spec (i : Instr) (u : Issue) (s : State) (hg : (s.groups.find? fun x => x.gid == u.gid) = some u.grp) :
    ∃ g1, OneGroup u.gid s (advance i u s) u.grp g1 ∧ g1 = { u.grp with threads := g1.threads } ∧
      g1.threads.length = u.grp.threads.length ∧ ∀ k, k < u.grp.threads.length → g1.thr k = passed i u k (u.grp.thr k) := by
  refine ⟨_, OneGroup.of_updGrp _ (fun _ => rfl) hg, rfl, by simp, fun k hk => ?_⟩
  rw [Group.thr_updThrs' _ _ _ _ hk]
  rfl

@[simp] theorem advance_free (i : Instr) (u : Issue) (s : State) : (advance i u s).free = s.free := by
  unfold advance State.updGrp; split <;> rfl

/-- What a context can have read stands in its groups' registers, not in their other parts. -/
theorem readable_groups (s : State) (F : Group → Group) (hc : ∀ g, (F g).cxid = g.cxid) (hs : ∀ g, (F g).sreg = g.sreg)
    (hv : ∀ g, (F g).threads.map Thread.v = g.threads.map Thread.v) (cx : Nat) (x : Word) :
    readable { s with groups := s.groups.map F } cx x = readable s cx x ∧
      readable { s with blocks := s.blocks.map fun b => { b with saved := b.saved.map (List.map F) } } cx x =
        readable s cx x := by
  have hp : ∀ g : Group, ((F g).sreg.any (fun e => e.2 == x) || (F g).threads.any fun th => th.v.any fun e => e.2 == x) =
      (g.sreg.any (fun e => e.2 == x) || g.threads.any fun th => th.v.any fun e => e.2 == x) := by
    intro g
    have h (ts : List Thread) : (ts.any fun th => th.v.any fun e => e.2 == x) =
      ((ts.map Thread.v).any fun v => v.any fun e => e.2 == x) := by rw [List.any_map]; rfl
    rw [hs, h, h, hv]
  have hf : (fun g : Group => g.cxid == cx) ∘ F = fun g => g.cxid == cx := by funext g; simp [hc]
  constructor
  · unfold readable
    simp only [State.ctx?, State.readBuf, List.any_append, List.filter_map, List.any_map, hf]
    simp only [Function.comp_def, hp]
    rfl
  · unfold readable
    have hb : (fun b : Block => b.cxid == cx) ∘ (fun b : Block => { b with saved := b.saved.map (List.map F) }) =
      fun b => b.cxid == cx := rfl
    simp only [State.ctx?, List.any_append, List.filter_map, List.any_map, hb, List.any_flatMap, List.flatMap_map]
    congr 1
    congr 1
    congr 1
    congr 1
    congr 1; funext b
    cases b.saved with
    | none => rfl
    | some gs => simp [List.any_map, Function.comp_def, hp]

theorem readable_advance (i : Instr) (u : Issue) (s : State) (cx : Nat) (x : Word) :
    readable (advance i u s) cx x = readable s cx x := by
  let F : Group → Group := fun g => if g.gid == u.gid then g.updThrs' u.tids fun t th =>
    { (if u.act.contains t then th.markDead (u.lastUses i) else th) with
      pc := u.ipc + 4, guard := th.nextGuard u.pfx } else g
  have h := readable_groups s F (fun g => by simp only [F]; split <;> rfl) (fun g => by simp only [F]; split <;> rfl)
    (fun g => by
      simp only [F]; split
      · apply List.ext_getElem
        · simp [Group.updThrs']
        · intro k h1 h2
          simp only [Group.updThrs', List.getElem_map, List.getElem_mapIdx]
          split
          · split <;> rfl
          · rfl
      · rfl) cx x
  unfold advance State.updGrp
  split
  · exact h.1
  · exact h.2

@[simp] theorem rd_advance (i : Instr) (u : Issue) (s : State) (t r : Nat) : u.rd (advance i u s) t r = u.rd s t r := by
  simp only [Issue.rd, rdReg, advance_free, unpredictable, readable_advance]

@[simp] theorem rd64_advance (i : Instr) (u : Issue) (s : State) (t r : Nat) :
    u.rd64 (advance i u s) t r = u.rd64 s t r := by simp [Issue.rd64]

@[simp] theorem rdN_advance (i : Instr) (u : Issue) (s : State) (t r n : Nat) :
    u.rdN (advance i u s) t r n = u.rdN s t r n := by simp [Issue.rdN]

/-- Passing a unit changes nothing but groups. -/
theorem advance_only {i : Instr} {u : Issue} {s : State} (h : s.issue? = some u) :
    advance i u s = { s with groups := (advance i u s).groups } := by
  obtain ⟨_, o, _⟩ := advance_spec i u s (State.issue?_spec h).1
  exact o.only

/-- A unit that issues and whose effect succeeds ends. -/
theorem execUnit_ok {i : Instr} {u : Issue} {s s' : State} {eff : Issue → State → Res} (h : Issues i u s)
    (he : eff u (advance i u s) = .ok s') : execUnit i eff s = .next (finish i u s') := by
  simp [execUnit, h.1, h.2, he]

/-- A unit that issues and whose effect traps takes its trap. -/
theorem execUnit_trap {i : Instr} {u : Issue} {s : State} {ti : TrapInfo} {eff : Issue → State → Res} (h : Issues i u s)
    (he : eff u (advance i u s) = .trap ti) : execUnit i eff s = .next (raise s u.grp ti) := by
  simp [execUnit, h.1, h.2, he]

/-- A unit always answers a next state. -/
theorem execUnit_next (i : Instr) (eff : Issue → State → Res) (s : State) : ∃ t, execUnit i eff s = .next t := by
  unfold execUnit
  split
  · exact ⟨_, rfl⟩
  · split
    · exact ⟨_, rfl⟩
    · split <;> exact ⟨_, rfl⟩

/-- A unit whose effect changes its group alone, from g1 to `G` of its group with threads `F` of those that have passed. -/
theorem unitDone_of {i : Instr} {u : Issue} {s s' : State} {eff : Issue → State → Res} {g1 : Group} {G : Group → Group}
    {F : Nat → Thread → Thread} (h : Issues i u s) (he : eff u (advance i u s) = .ok s')
    (hn : (s'.groups.find? fun x => x.gid == u.gid) = some g1) (ho : ∀ m, m ≠ u.gid → s'.grp? m = s.grp? m)
    (hr : s'.runs = s.runs) (hm : i.matrix = false)
    (hG : g1 = { G u.grp with threads := g1.threads }) (hl : g1.threads.length = u.grp.threads.length)
    (hF : ∀ k, k < u.grp.threads.length → finThr i u s'.nextId k (g1.thr k) = F k (u.grp.thr k)) :
    execUnit i eff s = .next (finish i u s') ∧ UnitDone u s (finish i u s') G F ∧
      finish i u s' = { s' with groups := (finish i u s').groups, runs := (finish i u s').runs, free := s'.free + 1 } := by
  have ⟨_, ha, _⟩ := State.issue?_spec h.1
  obtain ⟨g', n, f, o, om, rs⟩ := finish_spec i u s' g1 hn ha hm
  refine ⟨execUnit_ok h he, ⟨fun m hm => (om m hm).trans (ho m hm), fun r hr' => (rs r hr').trans (by rw [hr]), g', ?_, ?_, ?_, ?_⟩, o⟩
  · exact State.grp?_of_find n
  · rw [f.rest, hG]
  · exact f.size.trans hl
  · intro k hk
    have := f.thr k (by rw [hl]; exact hk)
    rwa [hF k hk] at this

/-! ## Register results -/

theorem assoc_assocSet {α : Type} (k r : Nat) (x : α) (l : List (Nat × α)) :
    assoc r (assocSet k x l) = if r = k then some x else assoc r l := by
  induction l with
  | nil => simp [assocSet, assoc, eq_comm]
  | cons e l ih =>
    obtain ⟨j, y⟩ := e
    unfold assocSet
    split
    · subst_vars; simp only [assoc]; split <;> simp_all [eq_comm]
    · split
      · simp only [assoc]; by_cases h : k = r
        · simp [h]
        · simp [h, Ne.symm h, eq_comm]
      · simp only [assoc, ih]; by_cases h : r = k <;> by_cases h' : j = r <;> simp_all

theorem written_nil (r : Nat) : written [] r = none := rfl

theorem written_cons (e : Nat × Word) (ws : LaneWrites) (r : Nat) :
    written (e :: ws) r = (written ws r).or (if e.1 = r then some e.2 else none) := by
  simp only [written, List.reverse_cons, List.find?_append, List.find?_cons, List.find?_nil]
  cases h : ws.reverse.find? fun e => e.1 == r with
  | some x => simp
  | none => by_cases h' : e.1 = r
            · simp [h']
            · simp [h', show (e.1 == r) = false by simpa using h']

/-- Cancel the landings into registers that satisfy a test. -/
def cancelIf (h : Nat → Bool) (ps : List Pend) : List Pend :=
  ps.map fun p => { p with dsts := p.dsts.map fun d => match d with
    | some r => if h r then none else some r
    | none => none }

theorem cancelPend_eq (r : Nat) (ps : List Pend) : cancelPend r ps = cancelIf (· == r) ps := by
  unfold cancelPend cancelIf
  congr 1; funext p; congr 2; funext d
  cases d with
  | none => simp
  | some x => by_cases h : x = r <;> simp [h]

theorem cancelIf_cancelIf (a b : Nat → Bool) (ps : List Pend) :
    cancelIf a (cancelIf b ps) = cancelIf (fun r => b r || a r) ps := by
  simp only [cancelIf, List.map_map]
  congr 1; funext p
  simp only [Function.comp, List.map_map, Pend.mk.injEq, true_and, and_true]
  congr 1; funext d
  cases d with
  | none => rfl
  | some x => by_cases h : b x = true <;> simp [Function.comp, h]

theorem cancelIf_false (ps : List Pend) : cancelIf (fun _ => false) ps = ps := by
  unfold cancelIf
  conv => rhs; rw [← List.map_id ps]
  congr 1; funext p
  have : (p.dsts.map fun d => match d with
    | some r => if false = true then none else some r
    | none => none) = p.dsts := by
    conv => rhs; rw [← List.map_id p.dsts]
    congr 1; funext d; cases d <;> rfl
  rw [this]; rfl

/-- What writes to registers that satisfy a test leave of the registers that an operation's latched tiles were read from. -/
def keptIf (h : Nat → Bool) (l : List Nat) : List Nat := if l.any h then [] else l

theorem keptIf_keptIf (a b : Nat → Bool) (l : List Nat) : keptIf a (keptIf b l) = keptIf (fun r => b r || a r) l := by
  unfold keptIf
  by_cases hb : l.any b = true
  · have : l.any (fun r => b r || a r) = true := by
      obtain ⟨x, hx, h⟩ := List.any_eq_true.1 hb
      exact List.any_eq_true.2 ⟨x, hx, by simp [h]⟩
    simp [hb, this]
  · have hb' : ∀ x ∈ l, b x = false := fun x hx => by
      by_contra h; exact hb (List.any_eq_true.2 ⟨x, hx, by simpa using h⟩)
    have : l.any (fun r => b r || a r) = l.any a := by
      rw [Bool.eq_iff_iff, List.any_eq_true, List.any_eq_true]
      constructor
      · rintro ⟨x, hx, h⟩; exact ⟨x, hx, by simpa [hb' x hx] using h⟩
      · rintro ⟨x, hx, h⟩; exact ⟨x, hx, by simp [h]⟩
    simp [hb, this]

@[simp] theorem keptIf_false (l : List Nat) : keptIf (fun _ => false) l = l := by simp [keptIf]

theorem keptIf_eq (r : Nat) (l : List Nat) : (if l.contains r then [] else l) = keptIf (· == r) l := by
  unfold keptIf
  rw [show l.contains r = l.any (· == r) from by simp [List.any_beq']]

/-- What writes to registers that satisfy a test do to a thread, beside the v registers themselves. -/
def Thread.cut (h : Nat → Bool) (th : Thread) : Thread :=
  { th with
    dead := th.dead.filter fun r => !h r
    pend := cancelIf h th.pend
    unsettled := th.unsettled.filter fun e => !h e.1
    sus := th.sus.filter fun r => !h r
    kept := keptIf h th.kept }

theorem Thread.cut_cut (a b : Nat → Bool) (th : Thread) : (th.cut b).cut a = th.cut fun r => b r || a r := by
  simp [Thread.cut, cancelIf_cancelIf, keptIf_keptIf, List.filter_filter, Bool.and_comm]

theorem Thread.cut_false (th : Thread) : th.cut (fun _ => false) = th := by
  simp only [Thread.cut, cancelIf_false, keptIf_false, Bool.not_false, List.filter_true]

theorem Thread.wrV_cut (th : Thread) (r : Nat) (x : Word) :
    th.wrV r x = { th.cut (· == r) with v := assocSet r x th.v } := by
  simp only [Thread.wrV, Thread.cut, cancelPend_eq, Thread.mk.injEq, true_and]
  exact ⟨rfl, rfl, rfl, keptIf_eq r _, trivial⟩

/-- Whether the v writes of a lane hit a register. -/
def hitV (ws : LaneWrites) (r : Nat) : Bool := decide (r < 96) && (written ws r).isSome

theorem hitV_cons (r0 : Nat) (x : Word) (ws : LaneWrites) :
    hitV ((r0, x) :: ws) = fun r => (decide (r0 < 96) && r == r0) || hitV ws r := by
  funext r
  simp only [hitV, written_cons, Option.isSome_or]
  by_cases h : r0 = r
  · subst h; by_cases h' : r0 < 96 <;> simp [h']
  · have h2 : (r == r0) = false := by simpa using fun h' : r = r0 => h h'.symm
    simp [h, h2]

/-- What the v writes of a lane do to its thread. -/
theorem Thread.wrAll_spec (th : Thread) (ws : LaneWrites) :
    th.wrAll ws = { th.cut (hitV ws) with v := (th.wrAll ws).v } ∧
    ∀ r, assoc r (th.wrAll ws).v = (if r < 96 then written ws r else none).or (assoc r th.v) := by
  induction ws generalizing th with
  | nil =>
    have h : hitV [] = fun _ => false := by funext r; simp [hitV, written_nil]
    exact ⟨by rw [h, Thread.cut_false]; rfl, fun r => by simp [Thread.wrAll, written_nil]⟩
  | cons e ws ih =>
    obtain ⟨r0, x⟩ := e
    simp only [Thread.wrAll, hitV_cons]
    by_cases hr : r0 < 96
    · rw [if_pos hr]
      obtain ⟨h1, h2⟩ := ih (th.wrV r0 x)
      constructor
      · rw [h1, Thread.wrV_cut]
        simp only [hr, decide_true, Bool.true_and]
        rw [← Thread.cut_cut]
        rfl
      · intro r
        rw [h2]
        simp only [Thread.wrV, assoc_assocSet, written_cons]
        by_cases h : r0 = r
        · subst h; simp [hr]
        · have : r ≠ r0 := fun h' => h h'.symm
          simp [h, this]
    · rw [if_neg hr]
      obtain ⟨h1, h2⟩ := ih th
      constructor
      · rw [h1]; simp [hr]
      · intro r
        rw [h2]
        simp only [written_cons]
        by_cases h : r0 = r
        · subst h; simp [hr]
        · simp [h]

/-- What writes to s registers that satisfy a test do to a thread. -/
def Thread.cutS (h : Nat → Bool) (th : Thread) : Thread :=
  { th with pend := cancelIf h th.pend, unsettled := th.unsettled.filter fun e => !h e.1, kept := keptIf h th.kept }

theorem Thread.cutS_cutS (a b : Nat → Bool) (th : Thread) : (th.cutS b).cutS a = th.cutS fun r => b r || a r := by
  simp [Thread.cutS, cancelIf_cancelIf, keptIf_keptIf, List.filter_filter, Bool.and_comm]

theorem Thread.cutS_false (th : Thread) : th.cutS (fun _ => false) = th := by
  simp only [Thread.cutS, cancelIf_false, keptIf_false, Bool.not_false, List.filter_true]

/-- Whether the s writes of a lane hit a register. -/
def hitS (ws : LaneWrites) (r : Nat) : Bool := decide (96 ≤ r) && (written ws r).isSome

theorem hitS_cons (r0 : Nat) (x : Word) (ws : LaneWrites) :
    hitS ((r0, x) :: ws) = fun r => (decide (96 ≤ r0) && r == r0) || hitS ws r := by
  funext r
  simp only [hitS, written_cons, Option.isSome_or]
  by_cases h : r0 = r
  · subst h; by_cases h' : 96 ≤ r0 <;> simp [h']
  · have h2 : (r == r0) = false := by simpa using fun h' : r = r0 => h h'.symm
    simp [h, h2]

/-- What the s writes of the lowest lane do to the group. -/
theorem Group.wrSAll_spec (g : Group) (ws : LaneWrites) :
    g.wrSAll ws = { g with
      sreg := (g.wrSAll ws).sreg
      sus := g.sus.filter fun r => !hitS ws r
      threads := g.threads.map (Thread.cutS (hitS ws)) } ∧
    ∀ r, assoc r (g.wrSAll ws).sreg = (written ws (96 + r)).or (assoc r g.sreg) := by
  induction ws generalizing g with
  | nil =>
    have h : hitS [] = fun _ => false := by funext r; simp [hitS, written_nil]
    refine ⟨?_, fun r => by simp [Group.wrSAll, written_nil]⟩
    simp only [Group.wrSAll, h, Bool.not_false, List.filter_true, funext Thread.cutS_false, List.map_id']
  | cons e ws ih =>
    obtain ⟨r0, x⟩ := e
    simp only [Group.wrSAll, hitS_cons]
    by_cases hr : r0 < 96
    · rw [if_pos hr]
      obtain ⟨h1, h2⟩ := ih g
      constructor
      · rw [h1]; simp [Nat.not_le.2 hr]
      · intro r
        rw [h2]
        simp only [written_cons]
        rw [if_neg (by omega)]; simp
    · rw [if_neg hr]
      obtain ⟨h1, h2⟩ := ih (g.wrS r0 x)
      constructor
      · rw [h1]
        simp only [Group.wrS, Nat.not_lt.1 hr, decide_true, Bool.true_and, List.map_map, List.filter_filter,
          Group.mk.injEq, true_and, and_true]
        refine ⟨?_, ?_⟩
        · congr 1; funext th
          rw [← Thread.cutS_cutS]
          simp only [Function.comp, Thread.cutS, cancelPend_eq, keptIf_eq]
          rfl
        · congr 1; funext r
          simp only [Bool.not_or, bne]
          rw [Bool.and_comm]
      · intro r
        rw [h2]
        simp only [Group.wrS, assoc_assocSet, written_cons]
        by_cases h : r0 = 96 + r
        · subst h; simp
        · rw [if_neg (by omega), if_neg h]; simp

theorem assoc_mapPair (ls : List Nat) (w : Nat → LaneWrites) (k : Nat) :
    assoc k (ls.map fun t => (t, w t)) = if ls.contains k then some (w k) else none := by
  induction ls with
  | nil => rfl
  | cons t ls ih =>
    simp only [List.map_cons, assoc, List.contains_cons, ih]
    by_cases h : t = k
    · subst h; simp
    · have : ¬ k = t := fun h' => h h'.symm
      simp [h, this]

/-- The results of lanes `ls` in a group. -/
theorem Group.wrLanes_spec (g : Group) (ls : List Nat) (w : Nat → LaneWrites) :
    let g' := g.wrLanes (ls.map fun t => (t, w t))
    g' = { g with
      threads := g'.threads, sreg := g'.sreg
      sus := g.sus.filter fun r => decide (r < 96) || (written (lowWrites ls w) r).isNone } ∧
    g'.threads.length = g.threads.length ∧
    (∀ r, assoc r g'.sreg = (written (lowWrites ls w) (96 + r)).or (assoc r g.sreg)) ∧
    ∀ k, k < g.threads.length →
      (∀ r, assoc r (g'.thr k).v = (if r < 96 then written (laneWrites ls w k) r else none).or (assoc r (g.thr k).v)) ∧
      g'.thr k = { g.thr k with
        v := (g'.thr k).v
        dead := (g.thr k).dead.filter fun r => decide (96 ≤ r) || !hitReg ls w k r
        pend := (g.thr k).pend.map fun p => { p with dsts := p.dsts.map fun d => match d with
          | some r => if hitReg ls w k r then none else some r
          | none => none }
        unsettled := (g.thr k).unsettled.filter fun e => !hitReg ls w k e.1
        sus := (g.thr k).sus.filter fun r => decide (96 ≤ r) || !hitReg ls w k r
        kept := if (g.thr k).kept.any (hitReg ls w k) then [] else (g.thr k).kept } := by
  intro g'
  -- the group after the v writes
  let g1 : Group := { g with threads := g.threads.mapIdx fun i th => th.wrAll (laneWrites ls w i) }
  have hg1 : ({ g with threads := g.threads.mapIdx fun i th => match assoc i (ls.map fun t => (t, w t)) with
      | some ws => th.wrAll ws
      | none => th } : Group) = g1 := by
    simp only [g1, Group.mk.injEq, true_and, and_true]
    congr 1; funext i th
    rw [assoc_mapPair, laneWrites]
    by_cases h : ls.contains i = true
    · rw [if_pos h, if_pos h]
    · rw [if_neg h, if_neg h]; rfl
  have hg' : g' = g1.wrSAll (lowWrites ls w) := by
    show g.wrLanes _ = _
    cases ls with
    | nil => exact hg1
    | cons t r => exact congrArg (fun x => Group.wrSAll x (w t)) hg1
  have hw := g1.wrSAll_spec (lowWrites ls w)
  rw [← hg'] at hw
  obtain ⟨h1, h2⟩ := hw
  have hthr : ∀ k, k < g.threads.length → g'.thr k =
      ((g.thr k).wrAll (laneWrites ls w k)).cutS (hitS (lowWrites ls w)) := by
    intro k hk
    rw [h1]
    simp only [Group.thr, List.getD_eq_getElem?_getD, List.getElem?_map, g1, List.getElem?_mapIdx,
      List.getElem?_eq_getElem hk, Option.map_some, Option.getD_some]
  refine ⟨?_, by rw [h1]; simp [g1], h2, fun k hk => ?_⟩
  · rw [h1]
    simp only [Group.mk.injEq, true_and, and_true, g1]
    congr 1; funext r
    by_cases h : r < 96
    · simp [hitS, h]
    · cases hw' : written (lowWrites ls w) r <;> simp [hitS, h, Nat.not_lt.1 h, hw']
  obtain ⟨a1, a2⟩ := (g.thr k).wrAll_spec (laneWrites ls w k)
  have hv : ∀ r, (decide (r < 96) && hitReg ls w k r) = hitV (laneWrites ls w k) r := fun r => by
    unfold hitReg hitV; by_cases h : r < 96 <;> simp [h]
  have hvs : ∀ r, (hitV (laneWrites ls w k) r || hitS (lowWrites ls w) r) = hitReg ls w k r := fun r => by
    unfold hitReg hitV hitS
    by_cases h : r < 96
    · simp [h]
    · simp [h, Nat.not_lt.1 h]
  have hn : ∀ r, (decide (96 ≤ r) || !hitReg ls w k r) = !hitV (laneWrites ls w k) r := fun r => by
    rw [← hv r]; by_cases h : r < 96
    · simp [h]
    · simp [h, Nat.not_lt.1 h]
  rw [hthr k hk]
  refine ⟨a2, ?_⟩
  rw [a1]
  simp only [Thread.cutS, Thread.cut, Thread.mk.injEq, true_and, and_true, cancelIf_cancelIf, keptIf_keptIf, List.filter_filter,
    hn, hv, hvs]
  refine ⟨rfl, ?_, rfl⟩
  congr 1; funext e
  rw [← hvs e.1, Bool.not_or, Bool.and_comm]

/-- A unit whose effect is register writes of lanes `ls` completes with them. -/
theorem lanes_of {i : Instr} {u : Issue} {s : State} (ls : List Nat) (w : Nat → LaneWrites) {eff : Issue → State → Res}
    (h : Issues i u s) (hc : i.closing = false) (hm : i.matrix = false)
    (he : eff u (advance i u s) = .ok ((advance i u s).updGrp u.gid fun g => g.wrLanes (ls.map fun t => (t, w t)))) :
    ∃ t, execUnit i eff s = .next t ∧ LaneResults i u ls w s t := by
  have ⟨hg, ha, _⟩ := State.issue?_spec h.1
  obtain ⟨g1, o1, r1, l1, t1⟩ := advance_spec i u s hg
  have o2 := OneGroup.of_updGrp (fun g => g.wrLanes (ls.map fun t => (t, w t)))
    (fun x => by rw [(x.wrLanes_spec ls w).1]) o1.new
  obtain ⟨w1, w2, w3, w4⟩ := g1.wrLanes_spec ls w
  have o := o1.trans o2
  obtain ⟨g', n, f, hfin, om, rs⟩ := finish_spec i u _ _ o.new ha hm
  refine ⟨_, execUnit_ok h he, ?_⟩
  have hlen : g'.threads.length = u.grp.threads.length := by rw [f.size, w2, l1]
  have hrest : g' = { u.grp with
      threads := g'.threads, sreg := g'.sreg, yielded := g'.yielded
      sus := u.grp.sus.filter fun r => decide (r < 96) || (written (lowWrites ls w) r).isNone } := by
    rw [f.rest, w1, r1]
  have hs : g'.sreg = (g1.wrLanes (ls.map fun t => (t, w t))).sreg := by rw [f.rest]
  refine ⟨?_, fun m hm => (om m hm).trans (o.others m hm), fun r hr => (rs r hr).trans (by rw [o.only]), g', ?_, hrest, hlen, ?_, ?_⟩
  · unfold OnlyUnit; rw [hfin, o.only]
  · exact State.grp?_of_find n
  · intro r; rw [hs, w3, r1]
  · intro k hk
    have hk1 : k < g1.threads.length := by rw [l1]; exact hk
    have ⟨v1, v2⟩ := w4 k hk1
    have c := f.thr k (by rw [w2]; exact hk1)
    rw [finThr, hc, Bool.false_and, if_neg Bool.false_ne_true] at c
    have hv : (g'.thr k).v = ((g1.wrLanes (ls.map fun t => (t, w t))).thr k).v := by
      unfold RunCtl at c; split at c
      · rw [c.1]
      · rw [c]
    have hpv : (passed i u k (u.grp.thr k)).v = (u.grp.thr k).v ∧ (passed i u k (u.grp.thr k)).pend = (u.grp.thr k).pend ∧
        (passed i u k (u.grp.thr k)).unsettled = (u.grp.thr k).unsettled ∧
        (passed i u k (u.grp.thr k)).sus = (u.grp.thr k).sus ∧ (passed i u k (u.grp.thr k)).kept = (u.grp.thr k).kept := by
      unfold passed; split
      · split <;> exact ⟨rfl, rfl, rfl, rfl, rfl⟩
      · exact ⟨rfl, rfl, rfl, rfl, rfl⟩
    obtain ⟨p1, p2, p3, p4, p5⟩ := hpv
    refine ⟨fun r => by rw [hv, v1, t1 k hk, p1], ?_⟩
    rw [v2, t1 k hk, p2, p3, p4, p5] at c
    rw [hv]
    exact c

/-- An instruction whose effect is to write results in its active lanes computes them. -/
theorem computes_of {i : Instr} {w : Issue → State → Nat → LaneWrites} (eff : Issue → State → Res)
    (hx : ∀ s, exec i s = execUnit i eff s) (hc : i.closing = false) (hm : i.matrix = false)
    (he : ∀ u s, s.issue? = some u → eff u (advance i u s) = .ok (writeLanes u (advance i u s) (w u s))) : Computes i w := by
  intro u s h
  rw [hx]
  exact lanes_of u.act (w u s) h hc hm (he u s h.1)

/-- An instruction whose effect is a change of its active threads makes it. -/
theorem transforms_of {i : Instr} {ok : Issue → State → Prop} {f : Issue → State → Nat → Thread → Thread}
    (eff : Issue → State → Res) (hx : ∀ s, exec i s = execUnit i eff s) (hc : i.closing = false) (hm : i.matrix = false)
    (he : ∀ u s, s.issue? = some u → ok u s → eff u (advance i u s) = .ok (updAct u (advance i u s) (f u s))) :
    Transforms i ok f := by
  intro u s h hok
  have ⟨hg, _, _⟩ := State.issue?_spec h.1
  obtain ⟨g1, o1, r1, l1, t1⟩ := advance_spec i u s hg
  have o2 := OneGroup.of_updGrp (fun g => g.updThrs' u.act (f u s)) (fun _ => rfl) o1.new
  have o := o1.trans o2
  have ⟨e, d, fr⟩ := unitDone_of (G := id) (F := fun k th => onAct u (f u s) k (passed i u k th)) h (he u s h.1 hok)
    o.new o.others (by have := o.only; rw [updAct, this]) hm (by rw [r1]; rfl) (by simp [l1]) (fun k hk => by
      rw [finThr, hc, Bool.false_and, if_neg Bool.false_ne_true, Group.thr_updThrs' _ _ _ _ (by rw [l1]; exact hk), t1 k hk]
      rfl)
  refine ⟨_, by rw [hx]; exact e, ?_, d⟩
  have a := o.only
  unfold OnlyUnit
  rw [fr, updAct, a]

end Sys2Proof.Machine
end

