-- ==== Sys2Proof/Laws/Effects.lean ====
section
/-! SUPPORT. What shared operations do to one group and to the rest of the state: commits, results on their way, stores
held and requests made. -/

namespace Sys2Proof.Machine

set_option Elab.async false

/-! ## Effects on one group -/

/-- From s to t a resident group goes from g to g', and no other group changes. -/
structure GroupTo (n : Nat) (s t : State) (g g' : Group) : Prop where
  old : (s.groups.find? fun x => x.gid == n) = some g
  new : (t.groups.find? fun x => x.gid == n) = some g'
  others : ∀ m, m ≠ n → t.grp? m = s.grp? m

theorem OneGroup.to {n : Nat} {s t : State} {g g' : Group} (h : OneGroup n s t g g') : GroupTo n s t g g' :=
  ⟨h.old, h.new, h.others⟩

theorem GroupTo.refl {s : State} {n : Nat} {g : Group} (h : (s.groups.find? fun x => x.gid == n) = some g) :
    GroupTo n s s g g := ⟨h, h, fun _ _ => rfl⟩

theorem GroupTo.trans {n : Nat} {s t r : State} {g g' g'' : Group} (h : GroupTo n s t g g') (k : GroupTo n t r g' g'') :
    GroupTo n s r g g'' :=
  ⟨h.old, k.new, fun m hm => (k.others m hm).trans (h.others m hm)⟩

/-- An update of the group. -/
theorem GroupTo.upd {n : Nat} {s t : State} {g g' : Group} (h : GroupTo n s t g g') (f : Group → Group)
    (hf : ∀ x, (f x).gid = x.gid) : GroupTo n s (t.updGrp n f) g (f g') :=
  h.trans (OneGroup.of_updGrp f hf h.new).to

/-- A state with the same groups and blocks. -/
theorem GroupTo.same {n : Nat} {s t r : State} {g g' : Group} (h : GroupTo n s t g g') (hg : r.groups = t.groups)
    (hb : r.blocks = t.blocks) : GroupTo n s r g g' :=
  ⟨h.old, by rw [hg]; exact h.new, fun m hm => by rw [← h.others m hm, State.grp?, State.grp?, hg, hb]⟩

theorem grp?_mapBlocks (s : State) (f : Block → Block) (hf : ∀ b, (f b).saved = b.saved) (m : Nat) :
    ({ s with blocks := s.blocks.map f } : State).grp? m = s.grp? m := by
  unfold State.grp?
  dsimp only
  congr 1
  induction s.blocks with
  | nil => rfl
  | cons b r ih => simp only [List.map_cons, List.findSome?_cons, hf, ih]

/-- A state with the same groups, whose blocks keep what was saved with them. -/
theorem GroupTo.blocks {n : Nat} {s t r : State} {g g' : Group} (h : GroupTo n s t g g') (hg : r.groups = t.groups)
    (f : Block → Block) (hf : ∀ b, (f b).saved = b.saved) (hb : r.blocks = t.blocks.map f) : GroupTo n s r g g' := by
  refine ⟨h.old, by rw [hg]; exact h.new, fun m hm => ?_⟩
  rw [← h.others m hm, ← grp?_mapBlocks t f hf m]
  simp only [State.grp?, hg, hb]

@[simp] theorem updGrp_fields (s : State) (n : Nat) (f : Group → Group) :
    (s.updGrp n f).reqs = s.reqs ∧ (s.updGrp n f).nextId = s.nextId ∧ (s.updGrp n f).runs = s.runs := by
  unfold State.updGrp; split <;> exact ⟨rfl, rfl, rfl⟩

/-! ## Commit -/

theorem storeReqs_spec (g : Group) (k id : Nat) (b : BStore) :
    (storeReqs g k id b).map Req.key = ((pieces b.size).map fun p =>
      (k, b.va + BitVec.ofNat 64 p.1, p.2, BitVec.ofNat 64 (b.data.toNat >>> (8 * p.1)))) ∧
    ∀ r ∈ storeReqs g k id b, r.gid = g.gid ∧ r.kind = .store ∧ r.performed = false := by
  by_cases h : b.size ≤ 8 <;> simp [storeReqs, pieces, h, Req.key]

theorem commitReqs_spec (g : Group) (k id : Nat) (bs : List BStore) :
    (commitReqs g k id bs).map Req.key = (bs.flatMap fun b => (pieces b.size).map fun p =>
      (k, b.va + BitVec.ofNat 64 p.1, p.2, BitVec.ofNat 64 (b.data.toNat >>> (8 * p.1)))) ∧
    ∀ r ∈ commitReqs g k id bs, r.gid = g.gid ∧ r.kind = .store ∧ r.performed = false := by
  induction bs generalizing id with
  | nil => exact ⟨rfl, by simp [commitReqs]⟩
  | cons b bs ih =>
    obtain ⟨a1, a2⟩ := storeReqs_spec g k id b
    obtain ⟨b1, b2⟩ := ih (id + 2)
    refine ⟨by simp [commitReqs, a1, b1], fun r hr => ?_⟩
    simp only [commitReqs, List.mem_append] at hr
    exact hr.elim (a2 r) (b2 r)

theorem commitGo_spec (g : Group) (ts : List Nat) (id : Nat) :
    (commit.go g id ts).map Req.key = (ts.flatMap fun k => (g.thr k).stores.flatMap fun b => (pieces b.size).map fun p =>
      (k, b.va + BitVec.ofNat 64 p.1, p.2, BitVec.ofNat 64 (b.data.toNat >>> (8 * p.1)))) ∧
    ∀ r ∈ commit.go g id ts, r.gid = g.gid ∧ r.kind = .store ∧ r.performed = false := by
  induction ts generalizing id with
  | nil => exact ⟨rfl, by simp [commit.go]⟩
  | cons k ts ih =>
    obtain ⟨a1, a2⟩ := commitReqs_spec g k id (g.thr k).stores
    obtain ⟨b1, b2⟩ := ih (id + 2 * (g.thr k).stores.length)
    refine ⟨by simp [commit.go, a1, b1], fun r hr => ?_⟩
    simp only [commit.go, List.mem_append] at hr
    exact hr.elim (a2 r) (b2 r)

/-- Tickets change nothing else of requests. -/
theorem ticketed_spec {α : Type} (f : Req → α) (hf : ∀ r k, f { r with ticket := k } = f r) (k : Nat) (rs : List Req) :
    (ticketed k rs).map f = rs.map f ∧ ∀ r ∈ ticketed k rs, ∃ q ∈ rs, ∃ n, r = { q with ticket := n } := by
  induction rs generalizing k with
  | nil => exact ⟨rfl, by simp [ticketed]⟩
  | cons q rs ih =>
    unfold ticketed
    split
    · refine ⟨by simp only [List.map_cons, hf, (ih (k + 1)).1], fun r hr => ?_⟩
      rcases List.mem_cons.1 hr with rfl | hr
      · exact ⟨q, by simp, _, rfl⟩
      · obtain ⟨x, hx, n, e⟩ := (ih (k + 1)).2 r hr
        exact ⟨x, by simp [hx], n, e⟩
    · refine ⟨by simp only [List.map_cons, (ih k).1], fun r hr => ?_⟩
      rcases List.mem_cons.1 hr with rfl | hr
      · exact ⟨r, by simp, r.ticket, rfl⟩
      · obtain ⟨x, hx, n, e⟩ := (ih k).2 r hr
        exact ⟨x, by simp [hx], n, e⟩

/-- Everything a commit of threads of a resident group does. -/
theorem commit_spec (s : State) (g : Group) (ts : List Nat) (pc : Nat → DWord) (n : Nat) (hn : g.gid = n)
    (hg : (s.groups.find? fun x => x.gid == n) = some g) :
    ∃ (g' : Group) (rs : List Req) (id : Nat), GroupTo n s (commit s n ts pc) g g' ∧
      commit s n ts pc = { s with
        groups := (commit s n ts pc).groups, reqs := s.reqs ++ rs, nextId := id, ticket := (commit s n ts pc).ticket
        ctxs := (s.leave g.cxid (ts.flatMap fun t => (g.thr t).freed)).ctxs } ∧
      rs.map Req.key = (ts.flatMap fun k => (g.thr k).stores.flatMap fun b => (pieces b.size).map fun p =>
        (k, b.va + BitVec.ofNat 64 p.1, p.2, BitVec.ofNat 64 (b.data.toNat >>> (8 * p.1)))) ∧
      (∀ r ∈ rs, r.gid = n ∧ r.kind = .store ∧ r.performed = false) ∧
      g' = { g.clearRe ts with threads := g'.threads } ∧ g'.threads.length = g.threads.length ∧
      ∀ k, k < g.threads.length → g'.thr k = if ts.contains k then (g.thr k).committed (pc k) id else g.thr k := by
  let id := s.nextId + (ts.map fun t => 2 * (g.thr t).stores.length).sum
  let f : Group → Group := fun x => Group.clearRe { x with threads := x.threads.mapIdx fun i th =>
    (if ts.contains i then th.committed (pc i) id else th) } ts
  let s1 : State := { addTicketed s (commit.go g s.nextId ts) with
    nextId := id, ctxs := (s.leave g.cxid (ts.flatMap fun t => (g.thr t).freed)).ctxs }
  have hc : commit s n ts pc = s1.updGrp n f := by rw [commit, State.grp?_of_find hg]; rfl
  obtain ⟨k1, k2⟩ := commitGo_spec g ts s.nextId
  obtain ⟨m1, m2⟩ := ticketed_spec Req.key (fun _ _ => rfl) s.ticket (commit.go g s.nextId ts)
  have o : OneGroup n s1 (commit s n ts pc) g (f g) := by
    rw [hc]; exact OneGroup.of_updGrp (s := s1) f (fun _ => rfl) hg
  refine ⟨f g, ticketed s.ticket (commit.go g s.nextId ts), id, ⟨hg, o.new, fun m hm => o.others m hm⟩, ?_, m1.trans k1,
    fun r hr => ?_, rfl, by simp [f, Group.clearRe], fun k hk => ?_⟩
  · rw [o.only]; rfl
  · obtain ⟨q, hq, x, rfl⟩ := m2 r hr
    rw [← hn]; exact k2 q hq
  simp only [f, Group.thr, Group.clearRe, List.getD_eq_getElem?_getD, List.getElem?_mapIdx,
    List.getElem?_eq_getElem hk, Option.map_some, Option.getD_some]

/-! ## Effects of a unit -/

theorem passed_gid (g : Group) (ts : List Nat) (f : Nat → Thread → Thread) : (g.updThrs' ts f).gid = g.gid := rfl

/-- The state in which a unit's threads have passed it, and a further change of the group alone. -/
theorem acts_of {i : Instr} {u : Issue} {s t : State} {g' : Group} {G : Group → Group} {f : Nat → Thread → Thread}
    (h : s.issue? = some u)
    (k : ∀ g1, ((advance i u s).groups.find? fun x => x.gid == u.gid) = some g1 → GroupTo u.gid (advance i u s) t g1 g')
    (hG : g' = { G u.grp with threads := g'.threads }) (hl : g'.threads.length = u.grp.threads.length)
    (hf : ∀ j, j < u.grp.threads.length → g'.thr j = f j (passed i u j (u.grp.thr j))) : Acts i u s t G f := by
  have ⟨hg, _, _⟩ := State.issue?_spec h
  obtain ⟨g1, o1, _, _, _⟩ := advance_spec i u s hg
  have o := k g1 o1.new
  exact ⟨fun m hm => (o.others m hm).trans (o1.others m hm), g', State.grp?_of_find o.new, hG, hl, hf⟩

/-- The group of a unit after its threads have passed it. -/
theorem advance_group {i : Instr} {u : Issue} {s : State} (h : s.issue? = some u) :
    ∃ g1, ((advance i u s).groups.find? fun x => x.gid == u.gid) = some g1 ∧ g1 = { u.grp with threads := g1.threads } ∧
      g1.threads.length = u.grp.threads.length ∧
      (∀ k, k < u.grp.threads.length → g1.thr k = passed i u k (u.grp.thr k)) ∧
      ∀ m, m ≠ u.gid → (advance i u s).grp? m = s.grp? m := by
  have ⟨hg, _, _⟩ := State.issue?_spec h
  obtain ⟨g1, o1, r1, l1, t1⟩ := advance_spec i u s hg
  exact ⟨g1, o1.new, r1, l1, t1, o1.others⟩

/-- Results on their way: what they do to the group. -/
theorem addPends_spec (u : Issue) (s : State) (r : Nat → List Nat × List (Option Word)) (mem eng : Bool) (g : Group)
    (hg : (s.groups.find? fun x => x.gid == u.gid) = some g) :
    ∃ g', GroupTo u.gid s (addPends u s r mem eng) g g' ∧
      addPends u s r mem eng = { s with groups := (addPends u s r mem eng).groups, nextId := s.nextId + u.act.length } ∧
      g' = { g with threads := g'.threads } ∧ g'.threads.length = g.threads.length ∧
      ∀ k, k < g.threads.length → g'.thr k = allPending u s.nextId r mem eng k (g.thr k) := by
  have o := OneGroup.of_updGrp (s := s) (fun x => x.updThrs' u.act fun t th => { th with
    dead := th.dead.filter fun x => !(r t).1.contains x
    pend := th.pend ++ [{ id := u.pendId s t, dsts := (r t).1.map (u.landing t), words := (r t).2, fpc := u.upc, mem := mem, eng := eng }] })
    (fun _ => rfl) hg
  refine ⟨_, o.to.same rfl rfl, ?_, rfl, by simp, fun k hk => ?_⟩
  · have := o.only
    show _ = _
    simp only [addPends, updAct]
    rw [this]
  · rw [Group.thr_updThrs' _ _ _ _ hk]
    simp only [allPending, onAct, pending, Issue.pendId]
    have : u.landing k = fun x => if x < 96 ∨ k = u.low then some x else none := by
      funext x; simp [Issue.landing]
    rw [this]

/-- A first access changes a frame alone. -/
theorem firstAccess_only (s : State) (b o : Nat) : firstAccess s b o = { s with frames := (firstAccess s b o).frames } := by
  unfold firstAccess State.setFrame; dsimp only; split <;> (repeat' split) <;> rfl

theorem firstAccess_frames (s : State) (b o : Nat) : (firstAccess s b o).frames = match s.buf? b with
    | some x =>
      if x.kind == .hbm || x.kind == .cxl then
        if (s.frame b (o / 65536)).st == .clean then (s.setFrame { s.frame b (o / 65536) with st := .owned }).frames else s.frames
      else s.frames
    | none => s.frames := by
  unfold firstAccess
  repeat' split
  all_goals simp_all

/-- Table reads change frames alone. -/
theorem walked_only (s : State) (l : List (Nat × Nat)) : s.walked l = { s with frames := (s.walked l).frames } := by
  induction l generalizing s with
  | nil => rfl
  | cons e l ih =>
    obtain ⟨f, hf⟩ : ∃ f, firstAccess s e.1 e.2 = { s with frames := f } := ⟨_, firstAccess_only ..⟩
    show (firstAccess s e.1 e.2).walked l = { s with frames := ((firstAccess s e.1 e.2).walked l).frames }
    rw [hf]
    exact ih _

/-- What table reads make of frames rests on buffers and frames alone. -/
theorem walked_frames {s t : State} (hb : t.bufs = s.bufs) (hf : t.frames = s.frames) (l : List (Nat × Nat)) :
    (t.walked l).frames = (s.walked l).frames := by
  induction l generalizing s t with
  | nil => exact hf
  | cons e l ih =>
    show ((firstAccess t e.1 e.2).walked l).frames = ((firstAccess s e.1 e.2).walked l).frames
    refine ih (by rw [firstAccess_only t, firstAccess_only s]; exact hb) ?_
    simp only [firstAccess_frames, State.buf?, State.frame, State.setFrame, hb, hf] <;> rfl

theorem walked_append (s : State) (a b : List (Nat × Nat)) : s.walked (a ++ b) = (s.walked a).walked b := List.foldl_append ..

theorem cacheEnt_fields (s : State) (e : XEnt) :
    cacheEnt s e = { s with tlb := (cacheEnt s e).tlb, frames := (cacheEnt s e).frames } ∧
    ∃ l, (cacheEnt s e).frames = (s.walked l).frames := by
  unfold cacheEnt
  split
  · exact ⟨rfl, [], rfl⟩
  · refine ⟨?_, e.reads, rfl⟩
    rw [walked_only]

/-- Caching the entries of accesses changes the translation caches, and frames as their table reads do, alone. -/
theorem cacheAccs_spec (u : Issue) (s : State) (as : List (Nat × Acc)) :
    cacheAccs u s as = { s with
      tlb := (cacheAccs u s as).tlb, lastPages := (cacheAccs u s as).lastPages, frames := (cacheAccs u s as).frames } ∧
    TablesRead s (cacheAccs u s as) := by
  unfold cacheAccs
  induction as generalizing s with
  | nil => exact ⟨rfl, [], rfl⟩
  | cons a r ih =>
    rw [List.foldl_cons]
    split
    · next e _ =>
      obtain ⟨h, l, hl⟩ := cacheEnt_fields s e
      obtain ⟨h2, l2, hl2⟩ := ih (setLastPage (cacheEnt s e) u.core (u.grp.lane a.1) u.grp.cxid a.2.va)
      refine ⟨?_, l ++ l2, ?_⟩
      · rw [h2, setLastPage, h]
      · rw [hl2, walked_append]
        refine walked_frames ?_ ?_ l2
        · rw [walked_only, setLastPage, h]
        · exact hl
    · exact ih s

/-- Requests added in order. -/
theorem addReqs_spec (s : State) (rs : List Req) :
    ∃ rs', addReqs s rs = { s with reqs := s.reqs ++ rs', nextId := s.nextId + rs.length, ticket := (addReqs s rs).ticket } ∧
      rs'.map Req.place = rs.map Req.place ∧ rs'.map Req.key = rs.map Req.key ∧
      ∀ r ∈ rs', ∃ q ∈ rs, ∃ n k, r = { q with id := n, ticket := k } := by
  obtain ⟨a, m⟩ := ticketed_spec Req.place (fun _ _ => rfl) s.ticket (rs.mapIdx fun i r => { r with id := s.nextId + i })
  obtain ⟨b, _⟩ := ticketed_spec Req.key (fun _ _ => rfl) s.ticket (rs.mapIdx fun i r => { r with id := s.nextId + i })
  refine ⟨_, rfl, ?_, ?_, ?_⟩
  · rw [a]; apply List.ext_getElem <;> simp [Req.place]
  · rw [b]; apply List.ext_getElem <;> simp [Req.key]
  · intro r hr
    obtain ⟨q, hq, k, rfl⟩ := m r hr
    obtain ⟨j, hj, rfl⟩ := List.mem_mapIdx.1 hq
    exact ⟨_, List.getElem_mem hj, _, k, rfl⟩

/-- The commit of a unit's region. -/
theorem closeRegion_spec {i : Instr} {u : Issue} {s s0 : State} {g1 : Group}
    (k : GroupTo u.gid (advance i u s) s0 g1 g1) (h1 : g1.threads.length = u.grp.threads.length)
    (hr : g1 = { u.grp with threads := g1.threads })
    (ht : ∀ k, k < u.grp.threads.length → g1.thr k = passed i u k (u.grp.thr k)) (hq : s0.reqs = s.reqs) :
    ∃ (n : Nat) (g' : Group) (rs : List Req), GroupTo u.gid (advance i u s) (closeRegion u s0) g1 g' ∧
      closeRegion u s0 = { s0 with
        groups := (closeRegion u s0).groups, reqs := s.reqs ++ rs, nextId := n, ticket := (closeRegion u s0).ticket
        ctxs := (s0.leave u.grp.cxid (freedWords i u)).ctxs } ∧
      FromHeld u u.tids rs ∧ g' = { reentered u u.grp with threads := g'.threads } ∧
      g'.threads.length = u.grp.threads.length ∧
      ∀ k, k < u.grp.threads.length → g'.thr k = recommit u n k (passed i u k (u.grp.thr k)) := by
  have hid : g1.gid = u.gid := by have := k.old; simpa using List.find?_some this
  obtain ⟨g', rs, n, o, e, m, a, r, l, t⟩ := commit_spec s0 g1 u.tids (fun _ => u.ipc + 4) u.gid hid k.new
  have hst : ∀ k, (g1.thr k).stores = (u.grp.thr k).stores := by
    intro j
    by_cases hj : j < u.grp.threads.length
    · rw [ht j hj]; unfold passed; split
      · split <;> rfl
      · rfl
    · unfold Group.thr
      rw [List.getD_eq_default _ _ (by omega), List.getD_eq_default _ _ (by omega)]
  have hfr : (u.tids.flatMap fun t => (g1.thr t).freed) = freedWords i u := by
    have : (fun t => (g1.thr t).freed) = fun t => (passed i u t (u.grp.thr t)).freed := by
      funext j
      by_cases hj : j < u.grp.threads.length
      · rw [ht j hj]
      · have d1 : g1.thr j = { pc := 0, rpc := 0 } := List.getD_eq_default _ _ (by omega)
        have d2 : u.grp.thr j = { pc := 0, rpc := 0 } := List.getD_eq_default _ _ (by omega)
        rw [d1, d2, Thread.freed, Thread.freed]
        unfold passed; split
        · split <;> rfl
        · rfl
    rw [freedWords, this]
  have hcx : g1.cxid = u.grp.cxid := by rw [hr]
  refine ⟨n, g', rs, k.trans o, by rw [closeRegion, e, hq, hfr, hcx], ⟨?_, a⟩, ?_, l.trans h1, fun j hj => ?_⟩
  · rw [m]; simp only [heldStores, hst]
  · rw [r, hr]; rfl
  · rw [t j (by rw [h1]; exact hj), ht j hj]; rfl

/-! ## How units end -/

/-- A unit whose effect succeeds ends in the state that the effect leaves. -/
theorem ends_of {i : Instr} {u : Issue} {s s1 : State} {eff : Issue → State → Res} {P : State → Prop} (h : Issues i u s)
    (hx : exec i s = execUnit i eff s) (he : eff u (advance i u s) = .ok s1) (hp : P s1) : Ends i u s P :=
  ⟨s1, hx.trans (execUnit_ok h he), hp⟩

/-- A unit whose effect succeeds, and then releases threads. -/
theorem endsAwake_of {i : Instr} {u : Issue} {s s1 : State} {eff : Issue → State → Res} {P : State → Prop} (h : Issues i u s)
    (hx : exec i s = execUnit i eff s) (he : eff u (advance i u s) = .ok (wake s1)) (hp : P s1) : EndsAwake i u s P :=
  ⟨s1, hx.trans (execUnit_ok h he), hp⟩

/-- The same after a unit's threads have passed it. -/
theorem cacheAccs_unit {i : Instr} (u : Issue) {s s0 : State} (as : List (Nat × Acc)) (gs : List Group)
    (hA : advance i u s = { s with groups := gs })
    (h0 : s0 = { advance i u s with tlb := s0.tlb, lastPages := s0.lastPages, l1 := s0.l1 }) :
    ∃ tl lp fr, cacheAccs u s0 as = { s with groups := gs, tlb := tl, lastPages := lp, frames := fr, l1 := s0.l1 } ∧
      ∃ l, fr = (s.walked l).frames := by
  obtain ⟨h, l, hl⟩ := cacheAccs_spec u s0 as
  refine ⟨_, _, _, by rw [h, h0, hA], l, hl.trans ?_⟩
  refine walked_frames ?_ ?_ l <;> rw [h0, hA]

/-- The requests of loads and the results on their way. -/
theorem startLoads_spec {i : Instr} {u : Issue} {s s0 : State} (h : s.issue? = some u) (d size pol : Nat)
    (as : List (Nat × Acc)) (h0 : s0 = { advance i u s with tlb := s0.tlb, lastPages := s0.lastPages, l1 := s0.l1 }) :
    ∃ rs t, startLoads u s0 d size pol as = t ∧
      t = { s with groups := t.groups, tlb := t.tlb, lastPages := t.lastPages, frames := t.frames, l1 := s0.l1
                   reqs := s.reqs ++ rs, ticket := t.ticket, nextId := s.nextId + u.act.length + rs.length } ∧
      TablesRead s t ∧
      Acts i u s t id (allPending u s.nextId (fun k => ((List.range (sizeRegs size)).map (d + ·),
          List.replicate (sizeRegs size) (if as.any fun x => x.1 == k then none else some 0))) true) ∧
      Made u pol (fun _ => .load) (piecesOf size as) rs ∧
      ∀ r ∈ rs, r.pend = s.nextId + u.act.idxOf r.tid := by
  obtain ⟨g1, n1, r1, l1', t1, om⟩ := advance_group (i := i) h
  obtain ⟨gs, hA⟩ : ∃ gs, advance i u s = { s with groups := gs } := ⟨_, advance_only h⟩
  have hgs : gs = (advance i u s).groups := by rw [hA]
  obtain ⟨tl', lp', fr', hc, hw⟩ := cacheAccs_unit u as gs hA h0
  let s1 : State := { s with groups := gs, tlb := tl', lastPages := lp', frames := fr', l1 := s0.l1 }
  let r : Nat → List Nat × List (Option Word) := fun t => ((List.range (sizeRegs size)).map fun k => d + k,
    (List.range (sizeRegs size)).map fun _ => if as.any (fun x => x.1 == t) then none else some 0)
  obtain ⟨g', o', e, rr, l, th⟩ := addPends_spec u s1 r true false g1 (by rw [← n1, ← hgs])
  obtain ⟨gs', e'⟩ : ∃ gs', addPends u s1 r true = { s1 with groups := gs', nextId := s1.nextId + u.act.length } := ⟨_, e⟩
  have ht : startLoads u s0 d size pol as = addReqs (addPends u s1 r true)
      (loadReqs u s1.nextId size u.pfx.ord.1 u.pfx.ord.2 pol (addPends u s1 r true).nextId as) := by
    show addReqs (addPends u (cacheAccs u _ as) _ true) _ = _
    rw [hc]; rfl
  obtain ⟨rs, ea, ep, ek, em⟩ := addReqs_spec (addPends u s1 r true)
    (loadReqs u s1.nextId size u.pfx.ord.1 u.pfx.ord.2 pol (addPends u s1 r true).nextId as)
  have hlen : (loadReqs u s1.nextId size u.pfx.ord.1 u.pfx.ord.2 pol (addPends u s1 r true).nextId as).length = rs.length := by
    have := congrArg List.length ep
    simpa using this.symm
  refine ⟨rs, _, ht, ?_, ?_, ?_, ⟨?_, ?_⟩, ?_⟩
  · rw [ea, hlen, e']
  · obtain ⟨l, rfl⟩ := hw
    exact ⟨l, by rw [ea, e']⟩
  · refine acts_of h (g' := g') (fun g2 h2 => ?_) (by rw [rr, r1]; rfl) (l.trans l1') (fun j hj => ?_)
    · have : g2 = g1 := by rw [n1] at h2; exact (Option.some.inj h2).symm
      subst this
      have k1 : GroupTo u.gid (advance i u s) s1 g2 g2 := (GroupTo.refl n1).same hgs (by rw [hA])
      refine (k1.trans o').same ?_ ?_ <;> rw [ea]
    · rw [th j (by omega), t1 j hj]
      congr 1
      funext k
      simp only [r, Prod.mk.injEq, true_and]
      rw [List.map_const', List.length_range]
  · rw [ep]; simp [loadReqs, piecesOf, Req.place, mkReq, List.map_flatMap, Function.comp_def]
  · intro r hr
    obtain ⟨q, hq, n, k, rfl⟩ := em r hr
    simp only [loadReqs, List.mem_flatMap, List.mem_map] at hq
    obtain ⟨x, hx, p, hp, rfl⟩ := hq
    simp [mkReq]
  · intro r hr
    obtain ⟨q, hq, n, k, rfl⟩ := em r hr
    simp only [loadReqs, List.mem_flatMap, List.mem_map] at hq
    obtain ⟨x, hx, p, hp, rfl⟩ := hq
    simp [mkReq, s1]

/-- The three ends of a store instruction whose lanes pass their checks. -/
theorem bufferStores_spec {i : Instr} {u : Issue} {s s0 : State} (h : s.issue? = some u) (size pol : Nat)
    (data : Nat → BitVec 128) (as : List (Nat × Acc))
    (h0 : s0 = { advance i u s with tlb := s0.tlb, lastPages := s0.lastPages, l1 := s0.l1 }) :
    let full := u.tids.filter fun k => decide (8 ≤ (u.grp.thr k).nst)
    (full = [] → chunkRoom s0 u.grp (u.act.length * size) = true →
      ∃ t, bufferStores u s0 size pol data (.ok as) = .ok t ∧
        t = { s with groups := t.groups, tlb := t.tlb, lastPages := t.lastPages, frames := t.frames, l1 := s0.l1
                     nextId := s.nextId + 1 } ∧ TablesRead s t ∧
        Acts i u s t (fun g => { g with held := chunkNeed s u.grp (u.act.length * size) }) (holds u size pol s.nextId data as)) ∧
    (full = [] → chunkRoom s0 u.grp (u.act.length * size) = false →
      bufferStores u s0 size pol data (.ok as) = .retry (.bytes (u.act.length * size))) ∧
    (full ≠ [] → bufferStores u s0 size pol data (.ok as) = .trap (u.ti .regionFull full 0 true)) := by
  intro full
  refine ⟨fun hf hr => ?_, fun hf hr => ?_, fun hf => ?_⟩
  · obtain ⟨g1, n1, r1, l1', t1, om⟩ := advance_group (i := i) h
    obtain ⟨gs, hA⟩ : ∃ gs, advance i u s = { s with groups := gs } := ⟨_, advance_only h⟩
    have hgs : gs = (advance i u s).groups := by rw [hA]
    obtain ⟨tl', lp', fr', hc, hw⟩ := cacheAccs_unit u as gs hA h0
    let s1 : State := { s with groups := gs, tlb := tl', lastPages := lp', frames := fr', l1 := s0.l1 }
    let f : Group → Group := fun g => { g with
      held := chunkNeed s u.grp (u.act.length * size)
      threads := g.threads.mapIdx fun k th => if u.tids.contains k then
        { th with
          nst := th.nst + 1
          stores := th.stores ++ (as.filter fun x => x.1 == k).map fun x =>
            { glob := x.2.blk.isNone, cxid := u.grp.cxid, va := x.2.va, b := x.2.b, off := x.2.off, owner := x.2.owner,
              opens := (x.2.ent.map XEnt.opens).getD [], blk := x.2.blk.getD 0, size := size, data := data k, ord := u.pfx.ord.1, scope := u.pfx.ord.2, pol := pol,
              inst := s.nextId, fpc := u.upc } }
        else th }
    have o := OneGroup.of_updGrp (s := s1) f (fun _ => rfl) (by rw [← n1, ← hgs])
    obtain ⟨gs', e'⟩ : ∃ gs', s1.updGrp u.gid f = { s1 with groups := gs' } := ⟨_, o.only⟩
    refine ⟨{ s1.updGrp u.gid f with nextId := (s1.updGrp u.gid f).nextId + 1 }, ?_, ?_, ?_, ?_⟩
    · have hf' : (List.filter (fun k => decide (8 ≤ (u.grp.thr k).nst)) u.tids) = [] := hf
      simp only [bufferStores, hf', List.isEmpty_nil, Bool.not_true, Bool.false_eq_true, if_false, hr, hc]
      rfl
    · rw [e']
    · obtain ⟨l, rfl⟩ := hw
      exact ⟨l, by rw [e']⟩
    · refine acts_of h (g' := f g1) (fun g2 h2 => ?_) ?_ ?_ (fun j hj => ?_)
      · have : g2 = g1 := by rw [n1] at h2; exact (Option.some.inj h2).symm
        subst this
        have k1 : GroupTo u.gid (advance i u s) s1 g2 g2 := (GroupTo.refl n1).same hgs (by rw [hA])
        exact (k1.trans o.to).same rfl rfl
      · simp only [f]; rw [r1]
      · simp [f, l1']
      · rw [← t1 j hj]
        simp only [f, Group.thr, List.getD_eq_getElem?_getD, List.getElem?_mapIdx,
          List.getElem?_eq_getElem (show j < g1.threads.length by rw [l1']; exact hj), Option.map_some, Option.getD_some, holds]
  · have hf' : (List.filter (fun k => decide (8 ≤ (u.grp.thr k).nst)) u.tids) = [] := hf
    simp only [bufferStores, hf', List.isEmpty_nil, Bool.not_true, Bool.false_eq_true, if_false, hr, Bool.not_false, if_true]
  · have : (u.tids.filter fun k => decide (8 ≤ (u.grp.thr k).nst)).isEmpty = false := by
      rw [List.isEmpty_eq_false_iff]; exact hf
    simp only [bufferStores, this, Bool.not_false, if_true, full]

end Sys2Proof.Machine
end

