-- ==== Sys2Proof/Laws/Encoding.lean ====
section
/-! SUPPORT. Bit fields of concatenated words, and what decoding an encoded word needs. -/

namespace Sys2Proof

/-- A field above the low part of a concatenation lies in its high part. -/
theorem extract_append_high {n m : Nat} (x : BitVec n) (y : BitVec m) (lo k : Nat) (h : m ≤ lo) :
    (x ++ y).extractLsb' lo k = x.extractLsb' (lo - m) k := by
  ext i hi
  simp only [BitVec.getElem_extractLsb', BitVec.getLsbD_append]
  rw [if_neg (by omega)]
  congr 1; omega

/-- A field within the low part of a concatenation. -/
theorem extract_append_low {n m : Nat} (x : BitVec n) (y : BitVec m) (lo k : Nat) (h : lo + k ≤ m) :
    (x ++ y).extractLsb' lo k = y.extractLsb' lo k := by
  ext i hi
  simp only [BitVec.getElem_extractLsb', BitVec.getLsbD_append]
  rw [if_pos (by omega)]

/-- The whole of a word is itself. -/
theorem extract_all {n : Nat} (x : BitVec n) : x.extractLsb' 0 n = x := by
  ext i hi
  simp

/-- The instruction of a word whose major is known. -/
theorem identify_at {w : Word} {k : Nat} (h : fieldNat w 25 7 = k) : identify w = identifyIn k w := by
  rw [identify, h]

/-- A word that `identify` reads back decodes to its instruction. -/
theorem decode_of_identify {i : Instr} (h : identify (encode i) = some i) : decode (encode i) = i := by
  simp [decode, h]

/-- What `decode` answers is either the word marked illegal or an instruction with exactly that encoding. -/
theorem decode_cases (w : Word) : decode w = .illegalWord w ∨ encode (decode w) = w := by
  unfold decode
  split
  · split
    · exact .inr ‹_›
    · exact .inl rfl
  · exact .inl rfl

end Sys2Proof
end

