-- ==== Sys2Proof/Laws/Exec.lean ====
section
/-! SUPPORT. The meaning of each instruction: one equation per constructor, so that no proof unfolds the dispatch. -/

namespace Sys2Proof.Machine

set_option Elab.async false

theorem exec_iadd (o : TR) (s : State) : exec (.iadd o) s = execIadd o s := rfl
theorem exec_isub (o : TR) (s : State) : exec (.isub o) s = execIsub o s := rfl
theorem exec_imul (o : TR) (s : State) : exec (.imul o) s = execImul o s := rfl
theorem exec_imulhI32 (o : TR) (s : State) : exec (.imulhI32 o) s = execImulhI32 o s := rfl
theorem exec_imulhN32 (o : TR) (s : State) : exec (.imulhN32 o) s = execImulhN32 o s := rfl
theorem exec_imad (o : TR) (s : State) : exec (.imad o) s = execImad o s := rfl
theorem exec_iminImaxI32 (o : TR) (s : State) : exec (.iminImaxI32 o) s = execIminImaxI32 o s := rfl
theorem exec_iminImaxN32 (o : TR) (s : State) : exec (.iminImaxN32 o) s = execIminImaxN32 o s := rfl
theorem exec_and (o : TR) (s : State) : exec (.and o) s = execAnd o s := rfl
theorem exec_or (o : TR) (s : State) : exec (.or o) s = execOr o s := rfl
theorem exec_xor (o : TR) (s : State) : exec (.xor o) s = execXor o s := rfl
theorem exec_andn (o : TR) (s : State) : exec (.andn o) s = execAndn o s := rfl
theorem exec_iadd64 (o : TR) (s : State) : exec (.iadd64 o) s = execIadd64 o s := rfl
theorem exec_isub64 (o : TR) (s : State) : exec (.isub64 o) s = execIsub64 o s := rfl
theorem exec_bfx (o : TR) (s : State) : exec (.bfx o) s = execBfx o s := rfl
theorem exec_bfi (o : TR) (s : State) : exec (.bfi o) s = execBfi o s := rfl
theorem exec_shlImm (o : SI) (s : State) : exec (.shlImm o) s = execShlImm o s := rfl
theorem exec_shlReg (o : SR) (s : State) : exec (.shlReg o) s = execShlReg o s := rfl
theorem exec_shrImm (o : SI) (s : State) : exec (.shrImm o) s = execShrImm o s := rfl
theorem exec_shrReg (o : SR) (s : State) : exec (.shrReg o) s = execShrReg o s := rfl
theorem exec_sarImm (o : SI) (s : State) : exec (.sarImm o) s = execSarImm o s := rfl
theorem exec_sarReg (o : SR) (s : State) : exec (.sarReg o) s = execSarReg o s := rfl
theorem exec_rotlImm (o : SI) (s : State) : exec (.rotlImm o) s = execRotlImm o s := rfl
theorem exec_rotlReg (o : SR) (s : State) : exec (.rotlReg o) s = execRotlReg o s := rfl
theorem exec_iaddImm (o : IM) (s : State) : exec (.iaddImm o) s = execIaddImm o s := rfl
theorem exec_andImm (o : IM) (s : State) : exec (.andImm o) s = execAndImm o s := rfl
theorem exec_orImm (o : IM) (s : State) : exec (.orImm o) s = execOrImm o s := rfl
theorem exec_xorImm (o : IM) (s : State) : exec (.xorImm o) s = execXorImm o s := rfl
theorem exec_movi (o : WI) (s : State) : exec (.movi o) s = execMovi o s := rfl
theorem exec_movhi (o : WI) (s : State) : exec (.movhi o) s = execMovhi o s := rfl
theorem exec_lea (o : WI) (s : State) : exec (.lea o) s = execLea o s := rfl
theorem exec_isetpI32 (o : CP) (s : State) : exec (.isetpI32 o) s = execIsetpI32 o s := rfl
theorem exec_isetpN32 (o : CP) (s : State) : exec (.isetpN32 o) s = execIsetpN32 o s := rfl
theorem exec_fsetp (o : CP) (s : State) : exec (.fsetp o) s = execFsetp o s := rfl
theorem exec_plop (o : PLF) (s : State) : exec (.plop o) s = execPlop o s := rfl
theorem exec_ppack (o : PPF) (s : State) : exec (.ppack o) s = execPpack o s := rfl
theorem exec_punpk (o : SWF) (s : State) : exec (.punpk o) s = execPunpk o s := rfl
theorem exec_cmov (o : CMF) (s : State) : exec (.cmov o) s = execCmov o s := rfl
theorem exec_fadd (o : TR) (s : State) : exec (.fadd o) s = execFadd o s := rfl
theorem exec_fsub (o : TR) (s : State) : exec (.fsub o) s = execFsub o s := rfl
theorem exec_fmul (o : TR) (s : State) : exec (.fmul o) s = execFmul o s := rfl
theorem exec_ffma (o : TR) (s : State) : exec (.ffma o) s = execFfma o s := rfl
theorem exec_ffms (o : TR) (s : State) : exec (.ffms o) s = execFfms o s := rfl
theorem exec_fnfma (o : TR) (s : State) : exec (.fnfma o) s = execFnfma o s := rfl
theorem exec_fminFmax (o : TR) (s : State) : exec (.fminFmax o) s = execFminFmax o s := rfl
theorem exec_fscb (o : TR) (s : State) : exec (.fscb o) s = execFscb o s := rfl
theorem exec_hadd2Bf16 (o : TR) (s : State) : exec (.hadd2Bf16 o) s = execHadd2Bf16 o s := rfl
theorem exec_hadd2F16 (o : TR) (s : State) : exec (.hadd2F16 o) s = execHadd2F16 o s := rfl
theorem exec_hmul2Bf16 (o : TR) (s : State) : exec (.hmul2Bf16 o) s = execHmul2Bf16 o s := rfl
theorem exec_hmul2F16 (o : TR) (s : State) : exec (.hmul2F16 o) s = execHmul2F16 o s := rfl
theorem exec_hfma2Bf16 (o : TR) (s : State) : exec (.hfma2Bf16 o) s = execHfma2Bf16 o s := rfl
theorem exec_hfma2F16 (o : TR) (s : State) : exec (.hfma2F16 o) s = execHfma2F16 o s := rfl
theorem exec_hmin2Hmax2Bf16 (o : TR) (s : State) : exec (.hmin2Hmax2Bf16 o) s = execHmin2Hmax2Bf16 o s := rfl
theorem exec_hmin2Hmax2F16 (o : TR) (s : State) : exec (.hmin2Hmax2F16 o) s = execHmin2Hmax2F16 o s := rfl
theorem exec_not (o : CL) (s : State) : exec (.not o) s = execNot o s := rfl
theorem exec_neg (o : CL) (s : State) : exec (.neg o) s = execNeg o s := rfl
theorem exec_iabs (o : CL) (s : State) : exec (.iabs o) s = execIabs o s := rfl
theorem exec_popc (o : CL) (s : State) : exec (.popc o) s = execPopc o s := rfl
theorem exec_clz (o : CL) (s : State) : exec (.clz o) s = execClz o s := rfl
theorem exec_brev (o : CL) (s : State) : exec (.brev o) s = execBrev o s := rfl
theorem exec_sext8 (o : CL) (s : State) : exec (.sext8 o) s = execSext8 o s := rfl
theorem exec_sext16 (o : CL) (s : State) : exec (.sext16 o) s = execSext16 o s := rfl
theorem exec_zext8 (o : CL) (s : State) : exec (.zext8 o) s = execZext8 o s := rfl
theorem exec_zext16 (o : CL) (s : State) : exec (.zext16 o) s = execZext16 o s := rfl
theorem exec_fneg (o : CL) (s : State) : exec (.fneg o) s = execFneg o s := rfl
theorem exec_fabs (o : CL) (s : State) : exec (.fabs o) s = execFabs o s := rfl
theorem exec_frint (o : CLM) (s : State) : exec (.frint o) s = execFrint o s := rfl
theorem exec_fexpx (o : CL) (s : State) : exec (.fexpx o) s = execFexpx o s := rfl
theorem exec_cvt (o : CVF) (s : State) : exec (.cvt o) s = execCvt o s := rfl
theorem exec_rcpe (o : CL) (s : State) : exec (.rcpe o) s = execRcpe o s := rfl
theorem exec_rsqe (o : CL) (s : State) : exec (.rsqe o) s = execRsqe o s := rfl
theorem exec_ex2e (o : CL) (s : State) : exec (.ex2e o) s = execEx2e o s := rfl
theorem exec_lg2e (o : CL) (s : State) : exec (.lg2e o) s = execLg2e o s := rfl
theorem exec_sinpe (o : CL) (s : State) : exec (.sinpe o) s = execSinpe o s := rfl
theorem exec_cospe (o : CL) (s : State) : exec (.cospe o) s = execCospe o s := rfl
theorem exec_tanhe (o : CL) (s : State) : exec (.tanhe o) s = execTanhe o s := rfl
theorem exec_bxq (o : CLM) (s : State) : exec (.bxq o) s = execBxq o s := rfl
theorem exec_bxd (o : CLM) (s : State) : exec (.bxd o) s = execBxd o s := rfl
theorem exec_mov (o : CL) (s : State) : exec (.mov o) s = execMov o s := rfl
theorem exec_srd (o : SDF) (s : State) : exec (.srd o) s = execSrd o s := rfl
theorem exec_swr (o : SWF) (s : State) : exec (.swr o) s = execSwr o s := rfl
theorem exec_mskr (o : MRF) (s : State) : exec (.mskr o) s = execMskr o s := rfl
theorem exec_mskw (o : MWF) (s : State) : exec (.mskw o) s = execMskw o s := rfl
theorem exec_mskp (o : MPF) (s : State) : exec (.mskp o) s = execMskp o s := rfl
theorem exec_pmsk (o : PMF) (s : State) : exec (.pmsk o) s = execPmsk o s := rfl
theorem exec_br (o : BRF) (s : State) : exec (.br o) s = execBr o s := rfl
theorem exec_call (o : BRF) (s : State) : exec (.call o) s = execCall o s := rfl
theorem exec_nop (o : RCF) (s : State) : exec (.nop o) s = execNop o s := rfl
theorem exec_exit (o : RCF) (s : State) : exec (.exit o) s = execExit o s := rfl
theorem exec_ret (o : RCF) (s : State) : exec (.ret o) s = execRet o s := rfl
theorem exec_jidx (o : SWF) (s : State) : exec (.jidx o) s = execJidx o s := rfl
theorem exec_brk (o : RCF) (s : State) : exec (.brk o) s = execBrk o s := rfl
theorem exec_trap (o : TPF) (s : State) : exec (.trap o) s = execTrap o s := rfl
theorem exec_jenr (o : KF) (s : State) : exec (.jenr o) s = execJenr o s := rfl
theorem exec_jwait (o : KF) (s : State) : exec (.jwait o) s = execJwait o s := rfl
theorem exec_ldB (o : ME) (s : State) : exec (.ldB o) s = execLdB o s := rfl
theorem exec_ldH (o : ME) (s : State) : exec (.ldH o) s = execLdH o s := rfl
theorem exec_ldW (o : ME) (s : State) : exec (.ldW o) s = execLdW o s := rfl
theorem exec_ldD (o : ME) (s : State) : exec (.ldD o) s = execLdD o s := rfl
theorem exec_ldQ (o : ME) (s : State) : exec (.ldQ o) s = execLdQ o s := rfl
theorem exec_stB (o : ME) (s : State) : exec (.stB o) s = execStB o s := rfl
theorem exec_stH (o : ME) (s : State) : exec (.stH o) s = execStH o s := rfl
theorem exec_stW (o : ME) (s : State) : exec (.stW o) s = execStW o s := rfl
theorem exec_stD (o : ME) (s : State) : exec (.stD o) s = execStD o s := rfl
theorem exec_stQ (o : ME) (s : State) : exec (.stQ o) s = execStQ o s := rfl
theorem exec_lds (o : LSF) (s : State) : exec (.lds o) s = execLds o s := rfl
theorem exec_sts (o : LSF) (s : State) : exec (.sts o) s = execSts o s := rfl
theorem exec_ldp (o : LPF) (s : State) : exec (.ldp o) s = execLdp o s := rfl
theorem exec_stp (o : LPF) (s : State) : exec (.stp o) s = execStp o s := rfl
theorem exec_tld (o : TLF) (s : State) : exec (.tld o) s = execTld o s := rfl
theorem exec_tst (o : TLF) (s : State) : exec (.tst o) s = execTst o s := rfl
theorem exec_prfL1 (o : CCF) (s : State) : exec (.prfL1 o) s = execPrfL1 o s := rfl
theorem exec_prfL2 (o : CCF) (s : State) : exec (.prfL2 o) s = execPrfL2 o s := rfl
theorem exec_cctlInv1 (o : CCF) (s : State) : exec (.cctlInv1 o) s = execCctlInv1 o s := rfl
theorem exec_cctlInva (o : RCF) (s : State) : exec (.cctlInva o) s = execCctlInva o s := rfl
theorem exec_cctlWb (o : CCF) (s : State) : exec (.cctlWb o) s = execCctlWb o s := rfl
theorem exec_cctlWbi (o : CCF) (s : State) : exec (.cctlWbi o) s = execCctlWbi o s := rfl
theorem exec_atomAdd (o : ATF) (s : State) : exec (.atomAdd o) s = execAtomAdd o s := rfl
theorem exec_atomMin (o : ATF) (s : State) : exec (.atomMin o) s = execAtomMin o s := rfl
theorem exec_atomMax (o : ATF) (s : State) : exec (.atomMax o) s = execAtomMax o s := rfl
theorem exec_atomAnd (o : ATB) (s : State) : exec (.atomAnd o) s = execAtomAnd o s := rfl
theorem exec_atomOr (o : ATB) (s : State) : exec (.atomOr o) s = execAtomOr o s := rfl
theorem exec_atomXor (o : ATB) (s : State) : exec (.atomXor o) s = execAtomXor o s := rfl
theorem exec_atomXchg (o : ATB) (s : State) : exec (.atomXchg o) s = execAtomXchg o s := rfl
theorem exec_atomCas (o : CAF) (s : State) : exec (.atomCas o) s = execAtomCas o s := rfl
theorem exec_stm (o : STF) (s : State) : exec (.stm o) s = execStm o s := rfl
theorem exec_fence (o : FNF) (s : State) : exec (.fence o) s = execFence o s := rfl
theorem exec_wait (o : WTF) (s : State) : exec (.wait o) s = execWait o s := rfl
theorem exec_waita (o : WAF) (s : State) : exec (.waita o) s = execWaita o s := rfl
theorem exec_bar (o : BIF) (s : State) : exec (.bar o) s = execBar o s := rfl
theorem exec_barPe (o : BPF) (s : State) : exec (.barPe o) s = execBarPe o s := rfl
theorem exec_bara (o : BIF) (s : State) : exec (.bara o) s = execBara o s := rfl
theorem exec_barw (o : BIF) (s : State) : exec (.barw o) s = execBarw o s := rfl
theorem exec_cbar (o : RCF) (s : State) : exec (.cbar o) s = execCbar o s := rfl
theorem exec_rgn (o : RCF) (s : State) : exec (.rgn o) s = execRgn o s := rfl
theorem exec_rgncnt (o : PPF) (s : State) : exec (.rgncnt o) s = execRgncnt o s := rfl
theorem exec_shfl (o : SHF) (s : State) : exec (.shfl o) s = execShfl o s := rfl
theorem exec_voteAny (o : VTF) (s : State) : exec (.voteAny o) s = execVoteAny o s := rfl
theorem exec_voteAll (o : VTF) (s : State) : exec (.voteAll o) s = execVoteAll o s := rfl
theorem exec_voteBallot (o : VBF) (s : State) : exec (.voteBallot o) s = execVoteBallot o s := rfl
theorem exec_gredAdd (o : GRF) (s : State) : exec (.gredAdd o) s = execGredAdd o s := rfl
theorem exec_gredMin (o : GRF) (s : State) : exec (.gredMin o) s = execGredMin o s := rfl
theorem exec_gredMax (o : GRF) (s : State) : exec (.gredMax o) s = execGredMax o s := rfl
theorem exec_rdef (o : RDF) (s : State) : exec (.rdef o) s = execRdef o s := rfl
theorem exec_rop (o : ROF) (s : State) : exec (.rop o) s = execRop o s := rfl
theorem exec_ropr (o : ROF) (s : State) : exec (.ropr o) s = execRopr o s := rfl
theorem exec_btxStart (o : BSF) (s : State) : exec (.btxStart o) s = execBtxStart o s := rfl
theorem exec_btxStat (o : BTF) (s : State) : exec (.btxStat o) s = execBtxStat o s := rfl
theorem exec_tcopy (o : TCF) (s : State) : exec (.tcopy o) s = execTcopy o s := rfl
theorem exec_amtest (o : AMF) (s : State) : exec (.amtest o) s = execAmtest o s := rfl
theorem exec_amsg (o : MSF) (s : State) : exec (.amsg o) s = execAmsg o s := rfl
theorem exec_amh (o : AHF) (s : State) : exec (.amh o) s = execAmh o s := rfl
theorem exec_launch (o : LNF) (s : State) : exec (.launch o) s = execLaunch o s := rfl
theorem exec_mma (o : MXF) (s : State) : exec (.mma o) s = execMma o s := rfl
theorem exec_mloop (o : MXF) (s : State) : exec (.mloop o) s = execMloop o s := rfl
theorem exec_mstr (o : MQF) (s : State) : exec (.mstr o) s = execMstr o s := rfl
theorem exec_aclr (o : ACF) (s : State) : exec (.aclr o) s = execAclr o s := rfl
theorem exec_aread (o : ARF) (s : State) : exec (.aread o) s = execAread o s := rfl
theorem exec_awrite (o : ARF) (s : State) : exec (.awrite o) s = execAwrite o s := rfl
theorem exec_ast (o : ASF) (s : State) : exec (.ast o) s = execAst o s := rfl
theorem exec_ald (o : ASF) (s : State) : exec (.ald o) s = execAld o s := rfl
theorem exec_mburst (o : MBF) (s : State) : exec (.mburst o) s = execMburst o s := rfl
theorem exec_csrr (o : CRF) (s : State) : exec (.csrr o) s = execCsrr o s := rfl
theorem exec_csrw (o : CWF) (s : State) : exec (.csrw o) s = execCsrw o s := rfl
theorem exec_ctxNew (o : CNF) (s : State) : exec (.ctxNew o) s = execCtxNew o s := rfl
theorem exec_ctxRun (o : CBF) (s : State) : exec (.ctxRun o) s = execCtxRun o s := rfl
theorem exec_ctxStop (o : CBF) (s : State) : exec (.ctxStop o) s = execCtxStop o s := rfl
theorem exec_ctxGrant (o : CBF) (s : State) : exec (.ctxGrant o) s = execCtxGrant o s := rfl
theorem exec_ctxRevoke (o : CBF) (s : State) : exec (.ctxRevoke o) s = execCtxRevoke o s := rfl
theorem exec_ctxKill (o : CKF) (s : State) : exec (.ctxKill o) s = execCtxKill o s := rfl
theorem exec_ctxStat (o : CBF) (s : State) : exec (.ctxStat o) s = execCtxStat o s := rfl
theorem exec_trapret (o : RCF) (s : State) : exec (.trapret o) s = execTrapret o s := rfl
theorem exec_tlbinvPage (o : TIF) (s : State) : exec (.tlbinvPage o) s = execTlbinvPage o s := rfl
theorem exec_tlbinvCtx (o : TIF) (s : State) : exec (.tlbinvCtx o) s = execTlbinvCtx o s := rfl
theorem exec_tlbinvSubtree (o : TIF) (s : State) : exec (.tlbinvSubtree o) s = execTlbinvSubtree o s := rfl
theorem exec_frmstat (o : CNF) (s : State) : exec (.frmstat o) s = execFrmstat o s := rfl
theorem exec_guard (o : GDF) (s : State) : exec (.guard o) s = execGuard o s := rfl
theorem exec_block (o : BLF) (s : State) : exec (.block o) s = execBlock o s := rfl
theorem exec_mod (o : MDF) (s : State) : exec (.mod o) s = execMod o s := rfl
theorem exec_mxsc (o : MSC) (s : State) : exec (.mxsc o) s = execMxsc o s := rfl
theorem exec_imm (o : IMF) (s : State) : exec (.imm o) s = execImm o s := rfl
theorem exec_illegalWord (w : Word) (s : State) : exec (.illegalWord w) s = execIllegalWord w s := rfl
theorem exec_issueArbitration (core : Nat) (part : Nat) (s : State) : exec (.issueArbitration core part) s = execIssueArbitration core part s := rfl
theorem exec_runTimeLimit (core : Nat) (part : Nat) (s : State) : exec (.runTimeLimit core part) s = execRunTimeLimit core part s := rfl
theorem exec_pathStarved (gid : Nat) (tid : Nat) (s : State) : exec (.pathStarved gid tid) s = execPathStarved gid tid s := rfl
theorem exec_longLatencyResult (gid : Nat) (tid : Nat) (id : Nat) (err : Bool) (s : State) : exec (.longLatencyResult gid tid id err) s = execLongLatencyResult gid tid id err s := rfl
theorem exec_blockPlace (cx : Nat) (core : Nat) (pick : Nat) (s : State) : exec (.blockPlace cx core pick) s = execBlockPlace cx core pick s := rfl
theorem exec_blockRetire (bid : Nat) (s : State) : exec (.blockRetire bid) s = execBlockRetire bid s := rfl
theorem exec_gridLeaveQueue (cx : Nat) (q : Nat) (s : State) : exec (.gridLeaveQueue cx q) s = execGridLeaveQueue cx q s := rfl
theorem exec_hostListRead (cx : Nat) (q : Nat) (s : State) : exec (.hostListRead cx q) s = execHostListRead cx q s := rfl
theorem exec_gridComplete (gr : Nat) (s : State) : exec (.gridComplete gr) s = execGridComplete gr s := rfl
theorem exec_gridEnd (gr : Nat) (s : State) : exec (.gridEnd gr) s = execGridEnd gr s := rfl
theorem exec_supervisorStart (cx : Nat) (pick : Nat) (s : State) : exec (.supervisorStart cx pick) s = execSupervisorStart cx pick s := rfl
theorem exec_amAdmit (msg : Nat) (s : State) : exec (.amAdmit msg) s = execAmAdmit msg s := rfl
theorem exec_amHandlerStart (msg : Nat) (pick : Nat) (s : State) : exec (.amHandlerStart msg pick) s = execAmHandlerStart msg pick s := rfl
theorem exec_amComplete (msg : Nat) (s : State) : exec (.amComplete msg) s = execAmComplete msg s := rfl
theorem exec_trapDelivery (tr : Nat) (s : State) : exec (.trapDelivery tr) s = execTrapDelivery tr s := rfl
theorem exec_trapHandlerStart (cx : Nat) (pick : Nat) (s : State) : exec (.trapHandlerStart cx pick) s = execTrapHandlerStart cx pick s := rfl
theorem exec_cocoonSave (gid : Nat) (s : State) : exec (.cocoonSave gid) s = execCocoonSave gid s := rfl
theorem exec_cocoonRestore (gid : Nat) (bad : Bool) (s : State) : exec (.cocoonRestore gid bad) s = execCocoonRestore gid bad s := rfl
theorem exec_blockSave (bid : Nat) (s : State) : exec (.blockSave bid) s = execBlockSave bid s := rfl
theorem exec_gracefulDeadline (cx : Nat) (s : State) : exec (.gracefulDeadline cx) s = execGracefulDeadline cx s := rfl
theorem exec_sliceExpiry (cx : Nat) (s : State) : exec (.sliceExpiry cx) s = execSliceExpiry cx s := rfl
theorem exec_vacateComplete (cx : Nat) (s : State) : exec (.vacateComplete cx) s = execVacateComplete cx s := rfl
theorem exec_waySweepComplete (cx : Nat) (s : State) : exec (.waySweepComplete cx) s = execWaySweepComplete cx s := rfl
theorem exec_frameScrubStart (b : Nat) (f : Nat) (s : State) : exec (.frameScrubStart b f) s = execFrameScrubStart b f s := rfl
theorem exec_frameScrubComplete (b : Nat) (f : Nat) (s : State) : exec (.frameScrubComplete b f) s = execFrameScrubComplete b f s := rfl
theorem exec_cxidRelease (cx : Nat) (s : State) : exec (.cxidRelease cx) s = execCxidRelease cx s := rfl
theorem exec_btRecordStart (op : Nat) (s : State) : exec (.btRecordStart op) s = execBtRecordStart op s := rfl
theorem exec_btChunkLanded (op : Nat) (chunk : Nat) (s : State) : exec (.btChunkLanded op chunk) s = execBtChunkLanded op chunk s := rfl
theorem exec_btRecordComplete (op : Nat) (s : State) : exec (.btRecordComplete op) s = execBtRecordComplete op s := rfl
theorem exec_btRecordFault (op : Nat) (s : State) : exec (.btRecordFault op) s = execBtRecordFault op s := rfl
theorem exec_btOperationComplete (op : Nat) (s : State) : exec (.btOperationComplete op) s = execBtOperationComplete op s := rfl
theorem exec_sequencerStart (core : Nat) (part : Nat) (s : State) : exec (.sequencerStart core part) s = execSequencerStart core part s := rfl
theorem exec_matrixStep (core : Nat) (part : Nat) (err : Bool) (s : State) : exec (.matrixStep core part err) s = execMatrixStep core part err s := rfl
theorem exec_matrixOpComplete (core : Nat) (part : Nat) (s : State) : exec (.matrixOpComplete core part) s = execMatrixOpComplete core part s := rfl
theorem exec_rampupDone (core : Nat) (part : Nat) (s : State) : exec (.rampupDone core part) s = execRampupDone core part s := rfl
theorem exec_rampdownStart (core : Nat) (part : Nat) (s : State) : exec (.rampdownStart core part) s = execRampdownStart core part s := rfl
theorem exec_rampdownDone (core : Nat) (part : Nat) (s : State) : exec (.rampdownDone core part) s = execRampdownDone core part s := rfl
theorem exec_ruAdmit (rid : Nat) (s : State) : exec (.ruAdmit rid) s = execRuAdmit rid s := rfl
theorem exec_ruCombine (r1 : Nat) (r2 : Nat) (s : State) : exec (.ruCombine r1 r2) s = execRuCombine r1 r2 s := rfl
theorem exec_ruApply (rid : Nat) (s : State) : exec (.ruApply rid) s = execRuApply rid s := rfl
theorem exec_ropComplete (op : Nat) (s : State) : exec (.ropComplete op) s = execRopComplete op s := rfl
theorem exec_roprResult (rid : Nat) (s : State) : exec (.roprResult rid) s = execRoprResult rid s := rfl
theorem exec_rdefComplete (id : Nat) (s : State) : exec (.rdefComplete id) s = execRdefComplete id s := rfl
theorem exec_requestAdmission (id : Nat) (s : State) : exec (.requestAdmission id) s = execRequestAdmission id s := rfl
theorem exec_sliceRequestAdmit (id : Nat) (hint : Nat) (s : State) : exec (.sliceRequestAdmit id hint) s = execSliceRequestAdmit id hint s := rfl
theorem exec_requestRetry (id : Nat) (s : State) : exec (.requestRetry id) s = execRequestRetry id s := rfl
theorem exec_memoryReply (id : Nat) (s : State) : exec (.memoryReply id) s = execMemoryReply id s := rfl
theorem exec_channelAccess (id : Nat) (bank : Nat) (ecc : Bool) (s : State) : exec (.channelAccess id bank ecc) s = execChannelAccess id bank ecc s := rfl
theorem exec_hrowWindowEnd (ch : Nat) (s : State) : exec (.hrowWindowEnd ch) s = execHrowWindowEnd ch s := rfl
theorem exec_hrowHoldEnd (ch : Nat) (bank : Nat) (cx : Nat) (s : State) : exec (.hrowHoldEnd ch bank cx) s = execHrowHoldEnd ch bank cx s := rfl
theorem exec_patrolRead (ch : Nat) (atom : Nat) (ecc : Bool) (s : State) : exec (.patrolRead ch atom ecc) s = execPatrolRead ch atom ecc s := rfl
theorem exec_cxlTimeout (id : Nat) (s : State) : exec (.cxlTimeout id) s = execCxlTimeout id s := rfl
theorem exec_linkTimeout (id : Nat) (s : State) : exec (.linkTimeout id) s = execLinkTimeout id s := rfl
theorem exec_flashEraseComplete (blk : Nat) (s : State) : exec (.flashEraseComplete blk) s = execFlashEraseComplete blk s := rfl
theorem exec_fenceComplete (gid : Nat) (tid : Nat) (s : State) : exec (.fenceComplete gid tid) s = execFenceComplete gid tid s := rfl
theorem exec_tlbinvComplete (gid : Nat) (tid : Nat) (s : State) : exec (.tlbinvComplete gid tid) s = execTlbinvComplete gid tid s := rfl
theorem exec_waitaSatisfied (gid : Nat) (tid : Nat) (s : State) : exec (.waitaSatisfied gid tid) s = execWaitaSatisfied gid tid s := rfl
theorem exec_watchdog (gid : Nat) (tid : Nat) (s : State) : exec (.watchdog gid tid) s = execWatchdog gid tid s := rfl
theorem exec_debugHoldTimeout (s : State) : exec (.debugHoldTimeout) s = execDebugHoldTimeout s := rfl
theorem exec_l1FusionChange (clu : Nat) (s : State) : exec (.l1FusionChange clu) s = execL1FusionChange clu s := rfl
theorem exec_flr (vf : Nat) (s : State) : exec (.flr vf) s = execFlr vf s := rfl
theorem exec_flrComplete (vf : Nat) (s : State) : exec (.flrComplete vf) s = execFlrComplete vf s := rfl
theorem exec_coldReset (img : FwImage) (s : State) : exec (.coldReset img) s = execColdReset img s := rfl
theorem exec_recoveryImage (img : FwImage) (s : State) : exec (.recoveryImage img) s = execRecoveryImage img s := rfl
theorem exec_thermalThrottle (up : Bool) (s : State) : exec (.thermalThrottle up) s = execThermalThrottle up s := rfl
theorem exec_thermalStop (s : State) : exec (.thermalStop) s = execThermalStop s := rfl
theorem exec_bridgeFailure (s : State) : exec (.bridgeFailure) s = execBridgeFailure s := rfl
theorem exec_linkUp (port : Nat) (verified : Bool) (s : State) : exec (.linkUp port verified) s = execLinkUp port verified s := rfl
theorem exec_linkDown (port : Nat) (s : State) : exec (.linkDown port) s = execLinkDown port s := rfl
theorem exec_peerRequest (port : Nat) (b : Nat) (off : Nat) (op : PeerOp) (data : List (BitVec 8)) (s : State) : exec (.peerRequest port b off op data) s = execPeerRequest port b off op data s := rfl
theorem exec_hostMemoryAccess (b : Nat) (off : Nat) (wr : Bool) (data : DWord) (s : State) : exec (.hostMemoryAccess b off wr data) s = execHostMemoryAccess b off wr data s := rfl
theorem exec_ideIntegrityFailure (stream : Nat) (s : State) : exec (.ideIntegrityFailure stream) s = execIdeIntegrityFailure stream s := rfl
theorem exec_qkickWrite (page : HostAt) (q : Nat) (val : DWord) (s : State) : exec (.qkickWrite page q val) s = execQkickWrite page q val s := rfl
theorem exec_qkickLowWrite (page : HostAt) (q : Nat) (val : Word) (s : State) : exec (.qkickLowWrite page q val) s = execQkickLowWrite page q val s := rfl
theorem exec_qkickHighWrite (page : HostAt) (q : Nat) (val : Word) (s : State) : exec (.qkickHighWrite page q val) s = execQkickHighWrite page q val s := rfl
theorem exec_sentryWrite (page : HostAt) (val : DWord) (s : State) : exec (.sentryWrite page val) s = execSentryWrite page val s := rfl
theorem exec_scfgWrite (page : HostAt) (val : Word) (s : State) : exec (.scfgWrite page val) s = execScfgWrite page val s := rfl
theorem exec_vfEnableSet (s : State) : exec (.vfEnableSet) s = execVfEnableSet s := rfl
theorem exec_vfEnableClear (s : State) : exec (.vfEnableClear) s = execVfEnableClear s := rfl
theorem exec_msixUnmask (fn : HostAt) (vec : Nat) (s : State) : exec (.msixUnmask fn vec) s = execMsixUnmask fn vec s := rfl
theorem exec_frozenSetWrite (fn : Nat) (off : Nat) (val : Word) (s : State) : exec (.frozenSetWrite fn off val) s = execFrozenSetWrite fn off val s := rfl
theorem exec_registerWrite (fn : HostAt) (bar : Nat) (off : Nat) (val : Word) (s : State) : exec (.registerWrite fn bar off val) s = execRegisterWrite fn bar off val s := rfl
theorem exec_lockInterfaceRequest (vf : Nat) (stream : Nat) (dbg : Bool) (s : State) : exec (.lockInterfaceRequest vf stream dbg) s = execLockInterfaceRequest vf stream dbg s := rfl
theorem exec_startInterfaceRequest (vf : Nat) (s : State) : exec (.startInterfaceRequest vf) s = execStartInterfaceRequest vf s := rfl
theorem exec_stopInterfaceRequest (vf : Nat) (s : State) : exec (.stopInterfaceRequest vf) s = execStopInterfaceRequest vf s := rfl
theorem exec_getDeviceInterfaceReport (vf : Nat) (s : State) : exec (.getDeviceInterfaceReport vf) s = execGetDeviceInterfaceReport vf s := rfl
theorem exec_rootCtxNew (rec : List Word) (s : State) : exec (.rootCtxNew rec) s = execRootCtxNew rec s := rfl
theorem exec_rootCtxRun (child : Nat) (rec : List Word) (s : State) : exec (.rootCtxRun child rec) s = execRootCtxRun child rec s := rfl
theorem exec_rootCtxStop (child : Nat) (kind : Word) (deadline : Word) (s : State) : exec (.rootCtxStop child kind deadline) s = execRootCtxStop child kind deadline s := rfl
theorem exec_rootCtxGrant (child : Nat) (rec : List Word) (s : State) : exec (.rootCtxGrant child rec) s = execRootCtxGrant child rec s := rfl
theorem exec_rootCtxRevoke (child : Nat) (rec : List Word) (s : State) : exec (.rootCtxRevoke child rec) s = execRootCtxRevoke child rec s := rfl
theorem exec_rootCtxKill (child : Nat) (s : State) : exec (.rootCtxKill child) s = execRootCtxKill child s := rfl
theorem exec_rootCtxStat (child : Nat) (s : State) : exec (.rootCtxStat child) s = execRootCtxStat child s := rfl
theorem exec_trapretCommand (seq : Nat) (pc : DWord) (fin : Bool) (s : State) : exec (.trapretCommand seq pc fin) s = execTrapretCommand seq pc fin s := rfl
theorem exec_writePtroot (val : DWord) (s : State) : exec (.writePtroot val) s = execWritePtroot val s := rfl
theorem exec_writeBufferEntry (idx : Nat) (rec : List Word) (s : State) : exec (.writeBufferEntry idx rec) s = execWriteBufferEntry idx rec s := rfl
theorem exec_writePartitionRecord (i : Nat) (rec : List Word) (s : State) : exec (.writePartitionRecord i rec) s = execWritePartitionRecord i rec s := rfl
theorem exec_eraseFlashBlocks (first : Nat) (count : Nat) (s : State) : exec (.eraseFlashBlocks first count) s = execEraseFlashBlocks first count s := rfl
theorem exec_writeHrowCtl (ch : Nat) (val : Word) (s : State) : exec (.writeHrowCtl ch val) s = execWriteHrowCtl ch val s := rfl
theorem exec_setSaveRegionSize (bytes : Nat) (s : State) : exec (.setSaveRegionSize bytes) s = execSetSaveRegionSize bytes s := rfl
theorem exec_readErrorCounts (sel : Nat) (s : State) : exec (.readErrorCounts sel) s = execReadErrorCounts sel s := rfl
theorem exec_promote (s : State) : exec (.promote) s = execPromote s := rfl
theorem exec_getAttestationReport (s : State) : exec (.getAttestationReport) s = execGetAttestationReport s := rfl
theorem exec_writeIngressEntry (rec : List Word) (s : State) : exec (.writeIngressEntry rec) s = execWriteIngressEntry rec s := rfl
theorem exec_attach (c : DbgCmd) (s : State) : exec (.attach c) s = execAttach c s := rfl
theorem exec_detach (c : DbgCmd) (s : State) : exec (.detach c) s = execDetach c s := rfl
theorem exec_halt (c : DbgCmd) (s : State) : exec (.halt c) s = execHalt c s := rfl
theorem exec_resume (c : DbgCmd) (s : State) : exec (.resume c) s = execResume c s := rfl
theorem exec_step (c : DbgCmd) (s : State) : exec (.step c) s = execStep c s := rfl
theorem exec_restart (c : DbgCmd) (s : State) : exec (.restart c) s = execRestart c s := rfl
theorem exec_rdreg (c : DbgCmd) (s : State) : exec (.rdreg c) s = execRdreg c s := rfl
theorem exec_wrreg (c : DbgCmd) (s : State) : exec (.wrreg c) s = execWrreg c s := rfl
theorem exec_rdmem (c : DbgCmd) (s : State) : exec (.rdmem c) s = execRdmem c s := rfl
theorem exec_wrmem (c : DbgCmd) (s : State) : exec (.wrmem c) s = execWrmem c s := rfl
theorem exec_event (c : DbgCmd) (s : State) : exec (.event c) s = execEvent c s := rfl
theorem exec_spdmAttestationRequest (s : State) : exec (.spdmAttestationRequest) s = execSpdmAttestationRequest s := rfl

end Sys2Proof.Machine
end

