-- ==== Sys2Proof/Laws/Mem.lean ====
section
/-! SUPPORT. Memory: reads after writes, and the canonical form under every operation on memory. -/

namespace Sys2Proof.Machine

/-! ## Bytes -/

theorem Memory.get_of_lt (m : Memory) (a : Nat) (h : ∀ c ∈ m, a < c.1) : m.get a = Memory.fill := by
  induction m with
  | nil => rfl
  | cons c r ih =>
    obtain ⟨k, b⟩ := c
    have hk : a < k := h (k, b) (by simp)
    simp only [Memory.get, Nat.ne_of_gt hk, if_false]
    exact ih fun c hc => h c (by simp [hc])

theorem Memory.get_filter_ne (m : Memory) (a x : Nat) :
    Memory.get (m.filter fun c => c.1 != a) x = if x = a then Memory.fill else m.get x := by
  induction m with
  | nil => simp [Memory.get]
  | cons c r ih =>
    obtain ⟨k, b⟩ := c
    simp only [List.filter_cons]
    by_cases hk : k = a
    · subst hk; simp only [bne_self_eq_false, Bool.false_eq_true, if_false, ih, Memory.get]
      by_cases hx : x = k
      · simp [hx]
      · simp [hx, Ne.symm hx]
    · simp only [bne_iff_ne, ne_eq, hk, not_false_eq_true, if_true, Memory.get, ih]
      by_cases hx : k = x
      · simp [hx, show ¬ x = a from hx ▸ hk]
      · simp [hx]

theorem Memory.get_ins (m : Memory) (a : Nat) (b : Byte) (x : Nat) (h : ∀ c ∈ m, c.1 ≠ a) :
    Memory.get (Memory.ins a b m) x = if x = a then b else m.get x := by
  induction m with
  | nil => simp [Memory.ins, Memory.get, eq_comm]
  | cons c r ih =>
    obtain ⟨k, d⟩ := c
    have hk : k ≠ a := h (k, d) (by simp)
    have hr : ∀ c ∈ r, c.1 ≠ a := fun c hc => h c (by simp [hc])
    simp only [Memory.ins]
    by_cases hl : a < k
    · simp only [hl, if_true, Memory.get]
      by_cases hx : a = x
      · simp [hx]
      · simp [hx, Ne.symm hx]
    · simp only [hl, if_false, Memory.get, ih hr]
      by_cases hx : k = x
      · simp [hx, show ¬ x = a from hx ▸ hk]
      · simp [hx]

/-- A byte written reads back, and every other byte reads as before. -/
theorem Memory.get_put (m : Memory) (a : Nat) (b : Byte) (x : Nat) :
    (m.put a b).get x = if x = a then b else m.get x := by
  have hne : ∀ c ∈ m.filter fun c => c.1 != a, c.1 ≠ a := by simp
  unfold Memory.put
  by_cases hb : b = Memory.fill
  · simp [hb, Memory.get_filter_ne]
  · simp only [hb, if_false]
    rw [Memory.get_ins _ _ _ _ hne, Memory.get_filter_ne]
    by_cases hx : x = a <;> simp [hx]

theorem Memory.get_putN (m : Memory) (a : Nat) (bs : List Byte) (x : Nat) :
    (m.putN a bs).get x = if a ≤ x ∧ x < a + bs.length then bs.getD (x - a) 0 else m.get x := by
  induction bs generalizing m a with
  | nil => simp [Memory.putN]
  | cons b r ih =>
    simp only [Memory.putN, ih, Memory.get_put, List.length_cons]
    by_cases h : x = a
    · subst h; simp
    · by_cases h2 : a + 1 ≤ x ∧ x < a + 1 + r.length
      · rw [if_pos h2, if_pos (by omega), show x - a = (x - (a + 1)) + 1 by omega]; simp
      · rw [if_neg h2, if_neg h, if_neg (by omega)]

/-- A byte outside a range made zero reads as before, one inside reads zero. -/
theorem Memory.get_zero (m : Memory) (a n x : Nat) :
    (m.zero a n).get x = if a ≤ x ∧ x < a + n then Memory.fill else m.get x := by
  induction m with
  | nil => simp [Memory.zero, Memory.get]
  | cons c r ih =>
    obtain ⟨k, b⟩ := c
    unfold Memory.zero at ih ⊢
    simp only [List.filter_cons]
    by_cases hk : k < a ∨ a + n ≤ k
    · have : (decide (k < a) || decide (a + n ≤ k)) = true := by simpa using hk
      simp only [this, if_true, Memory.get, ih]
      by_cases hx : k = x
      · subst hx; simp [show ¬ (a ≤ k ∧ k < a + n) by omega]
      · simp [hx]
    · have : ¬ (decide (k < a) || decide (a + n ≤ k)) = true := by simpa using hk
      simp only [this, if_false, ih, Memory.get, Bool.false_eq_true]
      by_cases hx : k = x
      · subst hx; simp [show a ≤ k ∧ k < a + n by omega]
      · simp [hx]

/-! ## The canonical form -/

theorem Memory.wf_nil : Memory.wf [] := by simp [Memory.wf]

theorem Memory.wf_filter (m : Memory) (p : Host.Cell → Bool) (h : Memory.wf m) : Memory.wf (m.filter p) :=
  ⟨h.1.filter p, fun c hc => h.2 c (List.mem_filter.mp hc).1⟩

theorem Memory.mem_ins (m : Memory) (a : Nat) (b : Byte) (c : Host.Cell) (h : c ∈ Memory.ins a b m) : c = (a, b) ∨ c ∈ m := by
  induction m with
  | nil => simpa [Memory.ins] using h
  | cons d r ih =>
    obtain ⟨k, e⟩ := d
    simp only [Memory.ins] at h
    split at h
    · simpa using h
    · rcases List.mem_cons.mp h with h | h
      · exact .inr (by simp [h])
      · exact (ih h).imp id fun h => by simp [h]

theorem Memory.wf_ins (m : Memory) (a : Nat) (b : Byte) (h : Memory.wf m) (hb : b ≠ Memory.fill) (hne : ∀ c ∈ m, c.1 ≠ a) :
    Memory.wf (Memory.ins a b m) := by
  refine ⟨?_, fun c hc => ?_⟩
  · have hp := h.1
    clear h hb
    induction m with
    | nil => simp [Memory.ins]
    | cons d r ih =>
      obtain ⟨k, e⟩ := d
      have hk := List.pairwise_cons.mp hp
      simp only [Memory.ins]
      split
      · rename_i hl
        refine List.pairwise_cons.mpr ⟨fun c hc => ?_, hp⟩
        rcases List.mem_cons.mp hc with rfl | hc
        · exact hl
        · exact Nat.lt_trans hl (hk.1 c hc)
      · rename_i hl
        have hka : k ≠ a := hne (k, e) (by simp)
        refine List.pairwise_cons.mpr ⟨fun c hc => ?_, ih (fun c hc => hne c (by simp [hc])) hk.2⟩
        rcases Memory.mem_ins r a b c hc with rfl | hc
        · show k < a
          omega
        · exact hk.1 c hc
  · rcases Memory.mem_ins m a b c hc with rfl | hc
    · exact hb
    · exact h.2 c hc

theorem Memory.wf_put (m : Memory) (a : Nat) (b : Byte) (h : Memory.wf m) : Memory.wf (m.put a b) := by
  unfold Memory.put
  by_cases hb : b = Memory.fill
  · simpa [hb] using Memory.wf_filter m _ h
  · simp only [hb, if_false]
    exact Memory.wf_ins _ a b (Memory.wf_filter m _ h) hb (by simp)

theorem Memory.wf_putN (m : Memory) (a : Nat) (bs : List Byte) (h : Memory.wf m) : Memory.wf (m.putN a bs) := by
  induction bs generalizing m a with
  | nil => exact h
  | cons b r ih => exact ih _ _ (Memory.wf_put m a b h)

theorem Memory.wf_zero (m : Memory) (a n : Nat) (h : Memory.wf m) : Memory.wf (m.zero a n) := Memory.wf_filter m _ h

/-! ## The device's memory -/

theorem State.writeBuf_wf (s : State) (b o : Nat) (ys : List Byte) (h : Memory.wf s.mem) : Memory.wf (s.writeBuf b o ys).mem := by
  induction ys generalizing s o with
  | nil => exact h
  | cons y r ih =>
    simp only [State.writeBuf]
    apply ih
    split
    · split
      · exact Memory.wf_put _ _ _ h
      · exact h
    · exact h

@[simp] theorem State.logWrite_mem (s : State) (by_ : By) (l : Loc) (old : List Byte) : (s.logWrite by_ l old).mem = s.mem := rfl

theorem State.writeMem_wf (s : State) (b o : Nat) (ys : List Byte) (by_ : By) (h : Memory.wf s.mem) :
    Memory.wf (s.writeMem b o ys by_).mem := by
  unfold State.writeMem
  repeat' split
  all_goals first | exact h | exact State.writeBuf_wf _ b o ys h

theorem State.writeAtoms_wf (s : State) (b o : Nat) (by_ : By) (yss : List (List Byte)) (h : Memory.wf s.mem) :
    Memory.wf (s.writeAtoms b o by_ yss).mem := by
  induction yss generalizing s o with
  | nil => exact h
  | cons y r ih => exact ih _ _ (State.writeMem_wf s b o y by_ h)

/-- A write to scratchpad keeps the scratchpads' form. -/
theorem State.writePad_wf (s : State) (bid o : Nat) (ys : List Byte) (by_ : By) (h : ∀ b ∈ s.blocks, Memory.wf b.pad) :
    ∀ b ∈ (s.writePad bid o ys by_).blocks, Memory.wf b.pad := by
  unfold State.writePad
  split
  · exact h
  · next k hk =>
    intro b hb
    have hk' : Memory.wf k.pad := h k (List.mem_of_find?_eq_some hk)
    simp only [State.updBlk, State.logWrite, List.mem_map] at hb
    obtain ⟨c, hc, rfl⟩ := hb
    split
    · exact Memory.wf_putN _ _ _ (h c hc)
    · exact h c hc

/-- Writing bytes of a buffer changes memory alone. -/
theorem State.writeBuf_mem (s : State) (b o : Nat) (ys : List Byte) :
    s.writeBuf b o ys = { s with mem := (s.writeBuf b o ys).mem } := by
  induction ys generalizing s o with
  | nil => rfl
  | cons y r ih =>
    simp only [State.writeBuf]
    rw [ih]
    repeat' split
    all_goals rfl

/-- A write to memory changes memory, poison, the history and the error counts alone. -/
theorem State.writeMem_mem (s : State) (b o : Nat) (ys : List Byte) (by_ : By) :
    s.writeMem b o ys by_ = { s with
      mem := (s.writeMem b o ys by_).mem, poison := (s.writeMem b o ys by_).poison
      hist := (s.writeMem b o ys by_).hist, nextId := (s.writeMem b o ys by_).nextId
      errs := (s.writeMem b o ys by_).errs } := by
  unfold State.writeMem
  repeat' split
  all_goals first | rfl | (rw [State.writeBuf_mem]; rfl)

end Sys2Proof.Machine
end

