-- ==== Sys2Proof/Laws/PerInstr.lean ====
section
/-! SUPPORT. The family of statements made per instruction: the encoding of an instruction decodes to it. -/

namespace Sys2Proof.Laws.RoundTrip

set_option Elab.async false
set_option linter.unusedSimpArgs false

/-- An instruction that has a word decodes from it. -/
def Statement (i : Instr) : Prop := i.isWord = true → decode (encode i) = i

theorem iadd (o : TR) : Statement (.iadd o) := fun _ => decode_of_identify (by
  rw [identify_at (k := 0x00) (by simp (disch := decide) only [fieldNat, encode, extract_append_high, extract_append_low, extract_all, Nat.reduceSub]; rfl)]
  show some (Instr.iadd ⟨_, _, _, _, _, _⟩) = _
  simp (disch := decide) only [encode, extract_append_high, extract_append_low, extract_all, Nat.reduceSub])

theorem isub (o : TR) : Statement (.isub o) := fun _ => decode_of_identify (by
  rw [identify_at (k := 0x01) (by simp (disch := decide) only [fieldNat, encode, extract_append_high, extract_append_low, extract_all, Nat.reduceSub]; rfl)]
  show some (Instr.isub ⟨_, _, _, _, _, _⟩) = _
  simp (disch := decide) only [encode, extract_append_high, extract_append_low, extract_all, Nat.reduceSub])

theorem imul (o : TR) : Statement (.imul o) := fun _ => decode_of_identify (by
  rw [identify_at (k := 0x02) (by simp (disch := decide) only [fieldNat, encode, extract_append_high, extract_append_low, extract_all, Nat.reduceSub]; rfl)]
  show some (Instr.imul ⟨_, _, _, _, _, _⟩) = _
  simp (disch := decide) only [encode, extract_append_high, extract_append_low, extract_all, Nat.reduceSub])

theorem imulhI32 (o : TR) : Statement (.imulhI32 o) := fun _ => decode_of_identify (by
  rw [identify_at (k := 0x03) (by simp (disch := decide) only [fieldNat, encode, extract_append_high, extract_append_low, extract_all, Nat.reduceSub]; rfl)]
  show some (Instr.imulhI32 ⟨_, _, _, _, _, _⟩) = _
  simp (disch := decide) only [encode, extract_append_high, extract_append_low, extract_all, Nat.reduceSub])

theorem imulhN32 (o : TR) : Statement (.imulhN32 o) := fun _ => decode_of_identify (by
  rw [identify_at (k := 0x04) (by simp (disch := decide) only [fieldNat, encode, extract_append_high, extract_append_low, extract_all, Nat.reduceSub]; rfl)]
  show some (Instr.imulhN32 ⟨_, _, _, _, _, _⟩) = _
  simp (disch := decide) only [encode, extract_append_high, extract_append_low, extract_all, Nat.reduceSub])

theorem imad (o : TR) : Statement (.imad o) := fun _ => decode_of_identify (by
  rw [identify_at (k := 0x05) (by simp (disch := decide) only [fieldNat, encode, extract_append_high, extract_append_low, extract_all, Nat.reduceSub]; rfl)]
  show some (Instr.imad ⟨_, _, _, _, _, _⟩) = _
  simp (disch := decide) only [encode, extract_append_high, extract_append_low, extract_all, Nat.reduceSub])

theorem iminImaxI32 (o : TR) : Statement (.iminImaxI32 o) := fun _ => decode_of_identify (by
  rw [identify_at (k := 0x06) (by simp (disch := decide) only [fieldNat, encode, extract_append_high, extract_append_low, extract_all, Nat.reduceSub]; rfl)]
  show some (Instr.iminImaxI32 ⟨_, _, _, _, _, _⟩) = _
  simp (disch := decide) only [encode, extract_append_high, extract_append_low, extract_all, Nat.reduceSub])

theorem iminImaxN32 (o : TR) : Statement (.iminImaxN32 o) := fun _ => decode_of_identify (by
  rw [identify_at (k := 0x07) (by simp (disch := decide) only [fieldNat, encode, extract_append_high, extract_append_low, extract_all, Nat.reduceSub]; rfl)]
  show some (Instr.iminImaxN32 ⟨_, _, _, _, _, _⟩) = _
  simp (disch := decide) only [encode, extract_append_high, extract_append_low, extract_all, Nat.reduceSub])

theorem and (o : TR) : Statement (.and o) := fun _ => decode_of_identify (by
  rw [identify_at (k := 0x08) (by simp (disch := decide) only [fieldNat, encode, extract_append_high, extract_append_low, extract_all, Nat.reduceSub]; rfl)]
  show some (Instr.and ⟨_, _, _, _, _, _⟩) = _
  simp (disch := decide) only [encode, extract_append_high, extract_append_low, extract_all, Nat.reduceSub])

theorem or (o : TR) : Statement (.or o) := fun _ => decode_of_identify (by
  rw [identify_at (k := 0x09) (by simp (disch := decide) only [fieldNat, encode, extract_append_high, extract_append_low, extract_all, Nat.reduceSub]; rfl)]
  show some (Instr.or ⟨_, _, _, _, _, _⟩) = _
  simp (disch := decide) only [encode, extract_append_high, extract_append_low, extract_all, Nat.reduceSub])

theorem xor (o : TR) : Statement (.xor o) := fun _ => decode_of_identify (by
  rw [identify_at (k := 0x0A) (by simp (disch := decide) only [fieldNat, encode, extract_append_high, extract_append_low, extract_all, Nat.reduceSub]; rfl)]
  show some (Instr.xor ⟨_, _, _, _, _, _⟩) = _
  simp (disch := decide) only [encode, extract_append_high, extract_append_low, extract_all, Nat.reduceSub])

theorem andn (o : TR) : Statement (.andn o) := fun _ => decode_of_identify (by
  rw [identify_at (k := 0x0B) (by simp (disch := decide) only [fieldNat, encode, extract_append_high, extract_append_low, extract_all, Nat.reduceSub]; rfl)]
  show some (Instr.andn ⟨_, _, _, _, _, _⟩) = _
  simp (disch := decide) only [encode, extract_append_high, extract_append_low, extract_all, Nat.reduceSub])

theorem iadd64 (o : TR) : Statement (.iadd64 o) := fun _ => decode_of_identify (by
  rw [identify_at (k := 0x0C) (by simp (disch := decide) only [fieldNat, encode, extract_append_high, extract_append_low, extract_all, Nat.reduceSub]; rfl)]
  show some (Instr.iadd64 ⟨_, _, _, _, _, _⟩) = _
  simp (disch := decide) only [encode, extract_append_high, extract_append_low, extract_all, Nat.reduceSub])

theorem isub64 (o : TR) : Statement (.isub64 o) := fun _ => decode_of_identify (by
  rw [identify_at (k := 0x0D) (by simp (disch := decide) only [fieldNat, encode, extract_append_high, extract_append_low, extract_all, Nat.reduceSub]; rfl)]
  show some (Instr.isub64 ⟨_, _, _, _, _, _⟩) = _
  simp (disch := decide) only [encode, extract_append_high, extract_append_low, extract_all, Nat.reduceSub])

theorem bfx (o : TR) : Statement (.bfx o) := fun _ => decode_of_identify (by
  rw [identify_at (k := 0x0E) (by simp (disch := decide) only [fieldNat, encode, extract_append_high, extract_append_low, extract_all, Nat.reduceSub]; rfl)]
  show some (Instr.bfx ⟨_, _, _, _, _, _⟩) = _
  simp (disch := decide) only [encode, extract_append_high, extract_append_low, extract_all, Nat.reduceSub])

theorem bfi (o : TR) : Statement (.bfi o) := fun _ => decode_of_identify (by
  rw [identify_at (k := 0x0F) (by simp (disch := decide) only [fieldNat, encode, extract_append_high, extract_append_low, extract_all, Nat.reduceSub]; rfl)]
  show some (Instr.bfi ⟨_, _, _, _, _, _⟩) = _
  simp (disch := decide) only [encode, extract_append_high, extract_append_low, extract_all, Nat.reduceSub])

theorem shlImm (o : SI) : Statement (.shlImm o) := fun _ => decode_of_identify (by
  rw [identify_at (k := 0x10) (by simp (disch := decide) only [fieldNat, encode, extract_append_high, extract_append_low, extract_all, Nat.reduceSub]; rfl)]
  show id10 _ = _
  unfold id10
  rw [show fieldNat (encode (.shlImm o)) 8 1 = 0 by simp (disch := decide) only [fieldNat, encode, extract_append_high, extract_append_low, extract_all, Nat.reduceSub]; rfl]
  show some (Instr.shlImm ⟨_, _, _, _⟩) = _
  simp (disch := decide) only [encode, extract_append_high, extract_append_low, extract_all, Nat.reduceSub])

theorem shlReg (o : SR) : Statement (.shlReg o) := fun _ => decode_of_identify (by
  rw [identify_at (k := 0x10) (by simp (disch := decide) only [fieldNat, encode, extract_append_high, extract_append_low, extract_all, Nat.reduceSub]; rfl)]
  show id10 _ = _
  unfold id10
  rw [show fieldNat (encode (.shlReg o)) 8 1 = 1 by simp (disch := decide) only [fieldNat, encode, extract_append_high, extract_append_low, extract_all, Nat.reduceSub]; rfl]
  show some (Instr.shlReg ⟨_, _, _, _, _⟩) = _
  simp (disch := decide) only [encode, extract_append_high, extract_append_low, extract_all, Nat.reduceSub])

theorem shrImm (o : SI) : Statement (.shrImm o) := fun _ => decode_of_identify (by
  rw [identify_at (k := 0x11) (by simp (disch := decide) only [fieldNat, encode, extract_append_high, extract_append_low, extract_all, Nat.reduceSub]; rfl)]
  show id11 _ = _
  unfold id11
  rw [show fieldNat (encode (.shrImm o)) 8 1 = 0 by simp (disch := decide) only [fieldNat, encode, extract_append_high, extract_append_low, extract_all, Nat.reduceSub]; rfl]
  show some (Instr.shrImm ⟨_, _, _, _⟩) = _
  simp (disch := decide) only [encode, extract_append_high, extract_append_low, extract_all, Nat.reduceSub])

theorem shrReg (o : SR) : Statement (.shrReg o) := fun _ => decode_of_identify (by
  rw [identify_at (k := 0x11) (by simp (disch := decide) only [fieldNat, encode, extract_append_high, extract_append_low, extract_all, Nat.reduceSub]; rfl)]
  show id11 _ = _
  unfold id11
  rw [show fieldNat (encode (.shrReg o)) 8 1 = 1 by simp (disch := decide) only [fieldNat, encode, extract_append_high, extract_append_low, extract_all, Nat.reduceSub]; rfl]
  show some (Instr.shrReg ⟨_, _, _, _, _⟩) = _
  simp (disch := decide) only [encode, extract_append_high, extract_append_low, extract_all, Nat.reduceSub])

theorem sarImm (o : SI) : Statement (.sarImm o) := fun _ => decode_of_identify (by
  rw [identify_at (k := 0x12) (by simp (disch := decide) only [fieldNat, encode, extract_append_high, extract_append_low, extract_all, Nat.reduceSub]; rfl)]
  show id12 _ = _
  unfold id12
  rw [show fieldNat (encode (.sarImm o)) 8 1 = 0 by simp (disch := decide) only [fieldNat, encode, extract_append_high, extract_append_low, extract_all, Nat.reduceSub]; rfl]
  show some (Instr.sarImm ⟨_, _, _, _⟩) = _
  simp (disch := decide) only [encode, extract_append_high, extract_append_low, extract_all, Nat.reduceSub])

theorem sarReg (o : SR) : Statement (.sarReg o) := fun _ => decode_of_identify (by
  rw [identify_at (k := 0x12) (by simp (disch := decide) only [fieldNat, encode, extract_append_high, extract_append_low, extract_all, Nat.reduceSub]; rfl)]
  show id12 _ = _
  unfold id12
  rw [show fieldNat (encode (.sarReg o)) 8 1 = 1 by simp (disch := decide) only [fieldNat, encode, extract_append_high, extract_append_low, extract_all, Nat.reduceSub]; rfl]
  show some (Instr.sarReg ⟨_, _, _, _, _⟩) = _
  simp (disch := decide) only [encode, extract_append_high, extract_append_low, extract_all, Nat.reduceSub])

theorem rotlImm (o : SI) : Statement (.rotlImm o) := fun _ => decode_of_identify (by
  rw [identify_at (k := 0x13) (by simp (disch := decide) only [fieldNat, encode, extract_append_high, extract_append_low, extract_all, Nat.reduceSub]; rfl)]
  show id13 _ = _
  unfold id13
  rw [show fieldNat (encode (.rotlImm o)) 8 1 = 0 by simp (disch := decide) only [fieldNat, encode, extract_append_high, extract_append_low, extract_all, Nat.reduceSub]; rfl]
  show some (Instr.rotlImm ⟨_, _, _, _⟩) = _
  simp (disch := decide) only [encode, extract_append_high, extract_append_low, extract_all, Nat.reduceSub])

theorem rotlReg (o : SR) : Statement (.rotlReg o) := fun _ => decode_of_identify (by
  rw [identify_at (k := 0x13) (by simp (disch := decide) only [fieldNat, encode, extract_append_high, extract_append_low, extract_all, Nat.reduceSub]; rfl)]
  show id13 _ = _
  unfold id13
  rw [show fieldNat (encode (.rotlReg o)) 8 1 = 1 by simp (disch := decide) only [fieldNat, encode, extract_append_high, extract_append_low, extract_all, Nat.reduceSub]; rfl]
  show some (Instr.rotlReg ⟨_, _, _, _, _⟩) = _
  simp (disch := decide) only [encode, extract_append_high, extract_append_low, extract_all, Nat.reduceSub])

theorem iaddImm (o : IM) : Statement (.iaddImm o) := fun _ => decode_of_identify (by
  rw [identify_at (k := 0x14) (by simp (disch := decide) only [fieldNat, encode, extract_append_high, extract_append_low, extract_all, Nat.reduceSub]; rfl)]
  show some (Instr.iaddImm ⟨_, _, _, _⟩) = _
  simp (disch := decide) only [encode, extract_append_high, extract_append_low, extract_all, Nat.reduceSub])

theorem andImm (o : IM) : Statement (.andImm o) := fun _ => decode_of_identify (by
  rw [identify_at (k := 0x15) (by simp (disch := decide) only [fieldNat, encode, extract_append_high, extract_append_low, extract_all, Nat.reduceSub]; rfl)]
  show some (Instr.andImm ⟨_, _, _, _⟩) = _
  simp (disch := decide) only [encode, extract_append_high, extract_append_low, extract_all, Nat.reduceSub])

theorem orImm (o : IM) : Statement (.orImm o) := fun _ => decode_of_identify (by
  rw [identify_at (k := 0x16) (by simp (disch := decide) only [fieldNat, encode, extract_append_high, extract_append_low, extract_all, Nat.reduceSub]; rfl)]
  show some (Instr.orImm ⟨_, _, _, _⟩) = _
  simp (disch := decide) only [encode, extract_append_high, extract_append_low, extract_all, Nat.reduceSub])

theorem xorImm (o : IM) : Statement (.xorImm o) := fun _ => decode_of_identify (by
  rw [identify_at (k := 0x17) (by simp (disch := decide) only [fieldNat, encode, extract_append_high, extract_append_low, extract_all, Nat.reduceSub]; rfl)]
  show some (Instr.xorImm ⟨_, _, _, _⟩) = _
  simp (disch := decide) only [encode, extract_append_high, extract_append_low, extract_all, Nat.reduceSub])

theorem movi (o : WI) : Statement (.movi o) := fun _ => decode_of_identify (by
  rw [identify_at (k := 0x18) (by simp (disch := decide) only [fieldNat, encode, extract_append_high, extract_append_low, extract_all, Nat.reduceSub]; rfl)]
  show some (Instr.movi ⟨_, _, _⟩) = _
  simp (disch := decide) only [encode, extract_append_high, extract_append_low, extract_all, Nat.reduceSub])

theorem movhi (o : WI) : Statement (.movhi o) := fun _ => decode_of_identify (by
  rw [identify_at (k := 0x19) (by simp (disch := decide) only [fieldNat, encode, extract_append_high, extract_append_low, extract_all, Nat.reduceSub]; rfl)]
  show some (Instr.movhi ⟨_, _, _⟩) = _
  simp (disch := decide) only [encode, extract_append_high, extract_append_low, extract_all, Nat.reduceSub])

theorem lea (o : WI) : Statement (.lea o) := fun _ => decode_of_identify (by
  rw [identify_at (k := 0x1A) (by simp (disch := decide) only [fieldNat, encode, extract_append_high, extract_append_low, extract_all, Nat.reduceSub]; rfl)]
  show some (Instr.lea ⟨_, _, _⟩) = _
  simp (disch := decide) only [encode, extract_append_high, extract_append_low, extract_all, Nat.reduceSub])

theorem isetpI32 (o : CP) : Statement (.isetpI32 o) := fun _ => decode_of_identify (by
  rw [identify_at (k := 0x1C) (by simp (disch := decide) only [fieldNat, encode, extract_append_high, extract_append_low, extract_all, Nat.reduceSub]; rfl)]
  show some (Instr.isetpI32 ⟨_, _, _, _, _, _, _⟩) = _
  simp (disch := decide) only [encode, extract_append_high, extract_append_low, extract_all, Nat.reduceSub])

theorem isetpN32 (o : CP) : Statement (.isetpN32 o) := fun _ => decode_of_identify (by
  rw [identify_at (k := 0x1D) (by simp (disch := decide) only [fieldNat, encode, extract_append_high, extract_append_low, extract_all, Nat.reduceSub]; rfl)]
  show some (Instr.isetpN32 ⟨_, _, _, _, _, _, _⟩) = _
  simp (disch := decide) only [encode, extract_append_high, extract_append_low, extract_all, Nat.reduceSub])

theorem fsetp (o : CP) : Statement (.fsetp o) := fun _ => decode_of_identify (by
  rw [identify_at (k := 0x1E) (by simp (disch := decide) only [fieldNat, encode, extract_append_high, extract_append_low, extract_all, Nat.reduceSub]; rfl)]
  show some (Instr.fsetp ⟨_, _, _, _, _, _, _⟩) = _
  simp (disch := decide) only [encode, extract_append_high, extract_append_low, extract_all, Nat.reduceSub])

theorem plop (o : PLF) : Statement (.plop o) := fun _ => decode_of_identify (by
  rw [identify_at (k := 0x1F) (by simp (disch := decide) only [fieldNat, encode, extract_append_high, extract_append_low, extract_all, Nat.reduceSub]; rfl)]
  show id1F _ = _
  unfold id1F
  rw [show fieldNat (encode (.plop o)) 20 3 = 0 by simp (disch := decide) only [fieldNat, encode, extract_append_high, extract_append_low, extract_all, Nat.reduceSub]; rfl]
  show some (Instr.plop ⟨_, _, _, _, _, _, _⟩) = _
  simp (disch := decide) only [encode, extract_append_high, extract_append_low, extract_all, Nat.reduceSub])

theorem ppack (o : PPF) : Statement (.ppack o) := fun _ => decode_of_identify (by
  rw [identify_at (k := 0x1F) (by simp (disch := decide) only [fieldNat, encode, extract_append_high, extract_append_low, extract_all, Nat.reduceSub]; rfl)]
  show id1F _ = _
  unfold id1F
  rw [show fieldNat (encode (.ppack o)) 20 3 = 1 by simp (disch := decide) only [fieldNat, encode, extract_append_high, extract_append_low, extract_all, Nat.reduceSub]; rfl]
  show some (Instr.ppack ⟨_, _⟩) = _
  simp (disch := decide) only [encode, extract_append_high, extract_append_low, extract_all, Nat.reduceSub])

theorem punpk (o : SWF) : Statement (.punpk o) := fun _ => decode_of_identify (by
  rw [identify_at (k := 0x1F) (by simp (disch := decide) only [fieldNat, encode, extract_append_high, extract_append_low, extract_all, Nat.reduceSub]; rfl)]
  show id1F _ = _
  unfold id1F
  rw [show fieldNat (encode (.punpk o)) 20 3 = 2 by simp (disch := decide) only [fieldNat, encode, extract_append_high, extract_append_low, extract_all, Nat.reduceSub]; rfl]
  show some (Instr.punpk ⟨_, _, _⟩) = _
  simp (disch := decide) only [encode, extract_append_high, extract_append_low, extract_all, Nat.reduceSub])

theorem cmov (o : CMF) : Statement (.cmov o) := fun _ => decode_of_identify (by
  rw [identify_at (k := 0x1F) (by simp (disch := decide) only [fieldNat, encode, extract_append_high, extract_append_low, extract_all, Nat.reduceSub]; rfl)]
  show id1F _ = _
  unfold id1F
  rw [show fieldNat (encode (.cmov o)) 20 3 = 3 by simp (disch := decide) only [fieldNat, encode, extract_append_high, extract_append_low, extract_all, Nat.reduceSub]; rfl]
  show some (Instr.cmov ⟨_, _, _, _, _, _⟩) = _
  simp (disch := decide) only [encode, extract_append_high, extract_append_low, extract_all, Nat.reduceSub])

theorem fadd (o : TR) : Statement (.fadd o) := fun _ => decode_of_identify (by
  rw [identify_at (k := 0x20) (by simp (disch := decide) only [fieldNat, encode, extract_append_high, extract_append_low, extract_all, Nat.reduceSub]; rfl)]
  show some (Instr.fadd ⟨_, _, _, _, _, _⟩) = _
  simp (disch := decide) only [encode, extract_append_high, extract_append_low, extract_all, Nat.reduceSub])

theorem fsub (o : TR) : Statement (.fsub o) := fun _ => decode_of_identify (by
  rw [identify_at (k := 0x21) (by simp (disch := decide) only [fieldNat, encode, extract_append_high, extract_append_low, extract_all, Nat.reduceSub]; rfl)]
  show some (Instr.fsub ⟨_, _, _, _, _, _⟩) = _
  simp (disch := decide) only [encode, extract_append_high, extract_append_low, extract_all, Nat.reduceSub])

theorem fmul (o : TR) : Statement (.fmul o) := fun _ => decode_of_identify (by
  rw [identify_at (k := 0x22) (by simp (disch := decide) only [fieldNat, encode, extract_append_high, extract_append_low, extract_all, Nat.reduceSub]; rfl)]
  show some (Instr.fmul ⟨_, _, _, _, _, _⟩) = _
  simp (disch := decide) only [encode, extract_append_high, extract_append_low, extract_all, Nat.reduceSub])

theorem ffma (o : TR) : Statement (.ffma o) := fun _ => decode_of_identify (by
  rw [identify_at (k := 0x23) (by simp (disch := decide) only [fieldNat, encode, extract_append_high, extract_append_low, extract_all, Nat.reduceSub]; rfl)]
  show some (Instr.ffma ⟨_, _, _, _, _, _⟩) = _
  simp (disch := decide) only [encode, extract_append_high, extract_append_low, extract_all, Nat.reduceSub])

theorem ffms (o : TR) : Statement (.ffms o) := fun _ => decode_of_identify (by
  rw [identify_at (k := 0x24) (by simp (disch := decide) only [fieldNat, encode, extract_append_high, extract_append_low, extract_all, Nat.reduceSub]; rfl)]
  show some (Instr.ffms ⟨_, _, _, _, _, _⟩) = _
  simp (disch := decide) only [encode, extract_append_high, extract_append_low, extract_all, Nat.reduceSub])

theorem fnfma (o : TR) : Statement (.fnfma o) := fun _ => decode_of_identify (by
  rw [identify_at (k := 0x25) (by simp (disch := decide) only [fieldNat, encode, extract_append_high, extract_append_low, extract_all, Nat.reduceSub]; rfl)]
  show some (Instr.fnfma ⟨_, _, _, _, _, _⟩) = _
  simp (disch := decide) only [encode, extract_append_high, extract_append_low, extract_all, Nat.reduceSub])

theorem fminFmax (o : TR) : Statement (.fminFmax o) := fun _ => decode_of_identify (by
  rw [identify_at (k := 0x26) (by simp (disch := decide) only [fieldNat, encode, extract_append_high, extract_append_low, extract_all, Nat.reduceSub]; rfl)]
  show some (Instr.fminFmax ⟨_, _, _, _, _, _⟩) = _
  simp (disch := decide) only [encode, extract_append_high, extract_append_low, extract_all, Nat.reduceSub])

theorem fscb (o : TR) : Statement (.fscb o) := fun _ => decode_of_identify (by
  rw [identify_at (k := 0x27) (by simp (disch := decide) only [fieldNat, encode, extract_append_high, extract_append_low, extract_all, Nat.reduceSub]; rfl)]
  show some (Instr.fscb ⟨_, _, _, _, _, _⟩) = _
  simp (disch := decide) only [encode, extract_append_high, extract_append_low, extract_all, Nat.reduceSub])

theorem hadd2Bf16 (o : TR) : Statement (.hadd2Bf16 o) := fun _ => decode_of_identify (by
  rw [identify_at (k := 0x28) (by simp (disch := decide) only [fieldNat, encode, extract_append_high, extract_append_low, extract_all, Nat.reduceSub]; rfl)]
  show some (Instr.hadd2Bf16 ⟨_, _, _, _, _, _⟩) = _
  simp (disch := decide) only [encode, extract_append_high, extract_append_low, extract_all, Nat.reduceSub])

theorem hadd2F16 (o : TR) : Statement (.hadd2F16 o) := fun _ => decode_of_identify (by
  rw [identify_at (k := 0x29) (by simp (disch := decide) only [fieldNat, encode, extract_append_high, extract_append_low, extract_all, Nat.reduceSub]; rfl)]
  show some (Instr.hadd2F16 ⟨_, _, _, _, _, _⟩) = _
  simp (disch := decide) only [encode, extract_append_high, extract_append_low, extract_all, Nat.reduceSub])

theorem hmul2Bf16 (o : TR) : Statement (.hmul2Bf16 o) := fun _ => decode_of_identify (by
  rw [identify_at (k := 0x2A) (by simp (disch := decide) only [fieldNat, encode, extract_append_high, extract_append_low, extract_all, Nat.reduceSub]; rfl)]
  show some (Instr.hmul2Bf16 ⟨_, _, _, _, _, _⟩) = _
  simp (disch := decide) only [encode, extract_append_high, extract_append_low, extract_all, Nat.reduceSub])

theorem hmul2F16 (o : TR) : Statement (.hmul2F16 o) := fun _ => decode_of_identify (by
  rw [identify_at (k := 0x2B) (by simp (disch := decide) only [fieldNat, encode, extract_append_high, extract_append_low, extract_all, Nat.reduceSub]; rfl)]
  show some (Instr.hmul2F16 ⟨_, _, _, _, _, _⟩) = _
  simp (disch := decide) only [encode, extract_append_high, extract_append_low, extract_all, Nat.reduceSub])

theorem hfma2Bf16 (o : TR) : Statement (.hfma2Bf16 o) := fun _ => decode_of_identify (by
  rw [identify_at (k := 0x2C) (by simp (disch := decide) only [fieldNat, encode, extract_append_high, extract_append_low, extract_all, Nat.reduceSub]; rfl)]
  show some (Instr.hfma2Bf16 ⟨_, _, _, _, _, _⟩) = _
  simp (disch := decide) only [encode, extract_append_high, extract_append_low, extract_all, Nat.reduceSub])

theorem hfma2F16 (o : TR) : Statement (.hfma2F16 o) := fun _ => decode_of_identify (by
  rw [identify_at (k := 0x2D) (by simp (disch := decide) only [fieldNat, encode, extract_append_high, extract_append_low, extract_all, Nat.reduceSub]; rfl)]
  show some (Instr.hfma2F16 ⟨_, _, _, _, _, _⟩) = _
  simp (disch := decide) only [encode, extract_append_high, extract_append_low, extract_all, Nat.reduceSub])

theorem hmin2Hmax2Bf16 (o : TR) : Statement (.hmin2Hmax2Bf16 o) := fun _ => decode_of_identify (by
  rw [identify_at (k := 0x2E) (by simp (disch := decide) only [fieldNat, encode, extract_append_high, extract_append_low, extract_all, Nat.reduceSub]; rfl)]
  show some (Instr.hmin2Hmax2Bf16 ⟨_, _, _, _, _, _⟩) = _
  simp (disch := decide) only [encode, extract_append_high, extract_append_low, extract_all, Nat.reduceSub])

theorem hmin2Hmax2F16 (o : TR) : Statement (.hmin2Hmax2F16 o) := fun _ => decode_of_identify (by
  rw [identify_at (k := 0x2F) (by simp (disch := decide) only [fieldNat, encode, extract_append_high, extract_append_low, extract_all, Nat.reduceSub]; rfl)]
  show some (Instr.hmin2Hmax2F16 ⟨_, _, _, _, _, _⟩) = _
  simp (disch := decide) only [encode, extract_append_high, extract_append_low, extract_all, Nat.reduceSub])

theorem not (o : CL) : Statement (.not o) := fun _ => decode_of_identify (by
  rw [identify_at (k := 0x30) (by simp (disch := decide) only [fieldNat, encode, extract_append_high, extract_append_low, extract_all, Nat.reduceSub]; rfl)]
  show id30 _ = _
  unfold id30
  rw [show fieldNat (encode (.not o)) 3 6 = 0 by simp (disch := decide) only [fieldNat, encode, extract_append_high, extract_append_low, extract_all, Nat.reduceSub]; rfl]
  show some (Instr.not ⟨_, _, _, _⟩) = _
  simp (disch := decide) only [encode, extract_append_high, extract_append_low, extract_all, Nat.reduceSub])

theorem neg (o : CL) : Statement (.neg o) := fun _ => decode_of_identify (by
  rw [identify_at (k := 0x30) (by simp (disch := decide) only [fieldNat, encode, extract_append_high, extract_append_low, extract_all, Nat.reduceSub]; rfl)]
  show id30 _ = _
  unfold id30
  rw [show fieldNat (encode (.neg o)) 3 6 = 1 by simp (disch := decide) only [fieldNat, encode, extract_append_high, extract_append_low, extract_all, Nat.reduceSub]; rfl]
  show some (Instr.neg ⟨_, _, _, _⟩) = _
  simp (disch := decide) only [encode, extract_append_high, extract_append_low, extract_all, Nat.reduceSub])

theorem iabs (o : CL) : Statement (.iabs o) := fun _ => decode_of_identify (by
  rw [identify_at (k := 0x30) (by simp (disch := decide) only [fieldNat, encode, extract_append_high, extract_append_low, extract_all, Nat.reduceSub]; rfl)]
  show id30 _ = _
  unfold id30
  rw [show fieldNat (encode (.iabs o)) 3 6 = 2 by simp (disch := decide) only [fieldNat, encode, extract_append_high, extract_append_low, extract_all, Nat.reduceSub]; rfl]
  show some (Instr.iabs ⟨_, _, _, _⟩) = _
  simp (disch := decide) only [encode, extract_append_high, extract_append_low, extract_all, Nat.reduceSub])

theorem popc (o : CL) : Statement (.popc o) := fun _ => decode_of_identify (by
  rw [identify_at (k := 0x30) (by simp (disch := decide) only [fieldNat, encode, extract_append_high, extract_append_low, extract_all, Nat.reduceSub]; rfl)]
  show id30 _ = _
  unfold id30
  rw [show fieldNat (encode (.popc o)) 3 6 = 3 by simp (disch := decide) only [fieldNat, encode, extract_append_high, extract_append_low, extract_all, Nat.reduceSub]; rfl]
  show some (Instr.popc ⟨_, _, _, _⟩) = _
  simp (disch := decide) only [encode, extract_append_high, extract_append_low, extract_all, Nat.reduceSub])

theorem clz (o : CL) : Statement (.clz o) := fun _ => decode_of_identify (by
  rw [identify_at (k := 0x30) (by simp (disch := decide) only [fieldNat, encode, extract_append_high, extract_append_low, extract_all, Nat.reduceSub]; rfl)]
  show id30 _ = _
  unfold id30
  rw [show fieldNat (encode (.clz o)) 3 6 = 4 by simp (disch := decide) only [fieldNat, encode, extract_append_high, extract_append_low, extract_all, Nat.reduceSub]; rfl]
  show some (Instr.clz ⟨_, _, _, _⟩) = _
  simp (disch := decide) only [encode, extract_append_high, extract_append_low, extract_all, Nat.reduceSub])

theorem brev (o : CL) : Statement (.brev o) := fun _ => decode_of_identify (by
  rw [identify_at (k := 0x30) (by simp (disch := decide) only [fieldNat, encode, extract_append_high, extract_append_low, extract_all, Nat.reduceSub]; rfl)]
  show id30 _ = _
  unfold id30
  rw [show fieldNat (encode (.brev o)) 3 6 = 5 by simp (disch := decide) only [fieldNat, encode, extract_append_high, extract_append_low, extract_all, Nat.reduceSub]; rfl]
  show some (Instr.brev ⟨_, _, _, _⟩) = _
  simp (disch := decide) only [encode, extract_append_high, extract_append_low, extract_all, Nat.reduceSub])

theorem sext8 (o : CL) : Statement (.sext8 o) := fun _ => decode_of_identify (by
  rw [identify_at (k := 0x30) (by simp (disch := decide) only [fieldNat, encode, extract_append_high, extract_append_low, extract_all, Nat.reduceSub]; rfl)]
  show id30 _ = _
  unfold id30
  rw [show fieldNat (encode (.sext8 o)) 3 6 = 6 by simp (disch := decide) only [fieldNat, encode, extract_append_high, extract_append_low, extract_all, Nat.reduceSub]; rfl]
  show some (Instr.sext8 ⟨_, _, _, _⟩) = _
  simp (disch := decide) only [encode, extract_append_high, extract_append_low, extract_all, Nat.reduceSub])

theorem sext16 (o : CL) : Statement (.sext16 o) := fun _ => decode_of_identify (by
  rw [identify_at (k := 0x30) (by simp (disch := decide) only [fieldNat, encode, extract_append_high, extract_append_low, extract_all, Nat.reduceSub]; rfl)]
  show id30 _ = _
  unfold id30
  rw [show fieldNat (encode (.sext16 o)) 3 6 = 7 by simp (disch := decide) only [fieldNat, encode, extract_append_high, extract_append_low, extract_all, Nat.reduceSub]; rfl]
  show some (Instr.sext16 ⟨_, _, _, _⟩) = _
  simp (disch := decide) only [encode, extract_append_high, extract_append_low, extract_all, Nat.reduceSub])

theorem zext8 (o : CL) : Statement (.zext8 o) := fun _ => decode_of_identify (by
  rw [identify_at (k := 0x30) (by simp (disch := decide) only [fieldNat, encode, extract_append_high, extract_append_low, extract_all, Nat.reduceSub]; rfl)]
  show id30 _ = _
  unfold id30
  rw [show fieldNat (encode (.zext8 o)) 3 6 = 8 by simp (disch := decide) only [fieldNat, encode, extract_append_high, extract_append_low, extract_all, Nat.reduceSub]; rfl]
  show some (Instr.zext8 ⟨_, _, _, _⟩) = _
  simp (disch := decide) only [encode, extract_append_high, extract_append_low, extract_all, Nat.reduceSub])

theorem zext16 (o : CL) : Statement (.zext16 o) := fun _ => decode_of_identify (by
  rw [identify_at (k := 0x30) (by simp (disch := decide) only [fieldNat, encode, extract_append_high, extract_append_low, extract_all, Nat.reduceSub]; rfl)]
  show id30 _ = _
  unfold id30
  rw [show fieldNat (encode (.zext16 o)) 3 6 = 9 by simp (disch := decide) only [fieldNat, encode, extract_append_high, extract_append_low, extract_all, Nat.reduceSub]; rfl]
  show some (Instr.zext16 ⟨_, _, _, _⟩) = _
  simp (disch := decide) only [encode, extract_append_high, extract_append_low, extract_all, Nat.reduceSub])

theorem fneg (o : CL) : Statement (.fneg o) := fun _ => decode_of_identify (by
  rw [identify_at (k := 0x31) (by simp (disch := decide) only [fieldNat, encode, extract_append_high, extract_append_low, extract_all, Nat.reduceSub]; rfl)]
  show id31 _ = _
  unfold id31
  rw [show fieldNat (encode (.fneg o)) 3 6 = 0 by simp (disch := decide) only [fieldNat, encode, extract_append_high, extract_append_low, extract_all, Nat.reduceSub]; rfl]
  show some (Instr.fneg ⟨_, _, _, _⟩) = _
  simp (disch := decide) only [encode, extract_append_high, extract_append_low, extract_all, Nat.reduceSub])

theorem fabs (o : CL) : Statement (.fabs o) := fun _ => decode_of_identify (by
  rw [identify_at (k := 0x31) (by simp (disch := decide) only [fieldNat, encode, extract_append_high, extract_append_low, extract_all, Nat.reduceSub]; rfl)]
  show id31 _ = _
  unfold id31
  rw [show fieldNat (encode (.fabs o)) 3 6 = 1 by simp (disch := decide) only [fieldNat, encode, extract_append_high, extract_append_low, extract_all, Nat.reduceSub]; rfl]
  show some (Instr.fabs ⟨_, _, _, _⟩) = _
  simp (disch := decide) only [encode, extract_append_high, extract_append_low, extract_all, Nat.reduceSub])

theorem frint (o : CLM) : Statement (.frint o) := fun _ => decode_of_identify (by
  rw [identify_at (k := 0x31) (by simp (disch := decide) only [fieldNat, encode, extract_append_high, extract_append_low, extract_all, Nat.reduceSub]; rfl)]
  show id31 _ = _
  unfold id31
  rw [show fieldNat (encode (.frint o)) 3 6 = 2 by simp (disch := decide) only [fieldNat, encode, extract_append_high, extract_append_low, extract_all, Nat.reduceSub]; rfl]
  show some (Instr.frint ⟨_, _, _, _, _⟩) = _
  simp (disch := decide) only [encode, extract_append_high, extract_append_low, extract_all, Nat.reduceSub])

theorem fexpx (o : CL) : Statement (.fexpx o) := fun _ => decode_of_identify (by
  rw [identify_at (k := 0x31) (by simp (disch := decide) only [fieldNat, encode, extract_append_high, extract_append_low, extract_all, Nat.reduceSub]; rfl)]
  show id31 _ = _
  unfold id31
  rw [show fieldNat (encode (.fexpx o)) 3 6 = 3 by simp (disch := decide) only [fieldNat, encode, extract_append_high, extract_append_low, extract_all, Nat.reduceSub]; rfl]
  show some (Instr.fexpx ⟨_, _, _, _⟩) = _
  simp (disch := decide) only [encode, extract_append_high, extract_append_low, extract_all, Nat.reduceSub])

theorem cvt (o : CVF) : Statement (.cvt o) := fun _ => decode_of_identify (by
  rw [identify_at (k := 0x32) (by simp (disch := decide) only [fieldNat, encode, extract_append_high, extract_append_low, extract_all, Nat.reduceSub]; rfl)]
  show some (Instr.cvt ⟨_, _, _, _, _, _, _⟩) = _
  simp (disch := decide) only [encode, extract_append_high, extract_append_low, extract_all, Nat.reduceSub])

theorem rcpe (o : CL) : Statement (.rcpe o) := fun _ => decode_of_identify (by
  rw [identify_at (k := 0x33) (by simp (disch := decide) only [fieldNat, encode, extract_append_high, extract_append_low, extract_all, Nat.reduceSub]; rfl)]
  show id33 _ = _
  unfold id33
  rw [show fieldNat (encode (.rcpe o)) 3 6 = 0 by simp (disch := decide) only [fieldNat, encode, extract_append_high, extract_append_low, extract_all, Nat.reduceSub]; rfl]
  show some (Instr.rcpe ⟨_, _, _, _⟩) = _
  simp (disch := decide) only [encode, extract_append_high, extract_append_low, extract_all, Nat.reduceSub])

theorem rsqe (o : CL) : Statement (.rsqe o) := fun _ => decode_of_identify (by
  rw [identify_at (k := 0x33) (by simp (disch := decide) only [fieldNat, encode, extract_append_high, extract_append_low, extract_all, Nat.reduceSub]; rfl)]
  show id33 _ = _
  unfold id33
  rw [show fieldNat (encode (.rsqe o)) 3 6 = 1 by simp (disch := decide) only [fieldNat, encode, extract_append_high, extract_append_low, extract_all, Nat.reduceSub]; rfl]
  show some (Instr.rsqe ⟨_, _, _, _⟩) = _
  simp (disch := decide) only [encode, extract_append_high, extract_append_low, extract_all, Nat.reduceSub])

theorem ex2e (o : CL) : Statement (.ex2e o) := fun _ => decode_of_identify (by
  rw [identify_at (k := 0x33) (by simp (disch := decide) only [fieldNat, encode, extract_append_high, extract_append_low, extract_all, Nat.reduceSub]; rfl)]
  show id33 _ = _
  unfold id33
  rw [show fieldNat (encode (.ex2e o)) 3 6 = 2 by simp (disch := decide) only [fieldNat, encode, extract_append_high, extract_append_low, extract_all, Nat.reduceSub]; rfl]
  show some (Instr.ex2e ⟨_, _, _, _⟩) = _
  simp (disch := decide) only [encode, extract_append_high, extract_append_low, extract_all, Nat.reduceSub])

theorem lg2e (o : CL) : Statement (.lg2e o) := fun _ => decode_of_identify (by
  rw [identify_at (k := 0x33) (by simp (disch := decide) only [fieldNat, encode, extract_append_high, extract_append_low, extract_all, Nat.reduceSub]; rfl)]
  show id33 _ = _
  unfold id33
  rw [show fieldNat (encode (.lg2e o)) 3 6 = 3 by simp (disch := decide) only [fieldNat, encode, extract_append_high, extract_append_low, extract_all, Nat.reduceSub]; rfl]
  show some (Instr.lg2e ⟨_, _, _, _⟩) = _
  simp (disch := decide) only [encode, extract_append_high, extract_append_low, extract_all, Nat.reduceSub])

theorem sinpe (o : CL) : Statement (.sinpe o) := fun _ => decode_of_identify (by
  rw [identify_at (k := 0x33) (by simp (disch := decide) only [fieldNat, encode, extract_append_high, extract_append_low, extract_all, Nat.reduceSub]; rfl)]
  show id33 _ = _
  unfold id33
  rw [show fieldNat (encode (.sinpe o)) 3 6 = 4 by simp (disch := decide) only [fieldNat, encode, extract_append_high, extract_append_low, extract_all, Nat.reduceSub]; rfl]
  show some (Instr.sinpe ⟨_, _, _, _⟩) = _
  simp (disch := decide) only [encode, extract_append_high, extract_append_low, extract_all, Nat.reduceSub])

theorem cospe (o : CL) : Statement (.cospe o) := fun _ => decode_of_identify (by
  rw [identify_at (k := 0x33) (by simp (disch := decide) only [fieldNat, encode, extract_append_high, extract_append_low, extract_all, Nat.reduceSub]; rfl)]
  show id33 _ = _
  unfold id33
  rw [show fieldNat (encode (.cospe o)) 3 6 = 5 by simp (disch := decide) only [fieldNat, encode, extract_append_high, extract_append_low, extract_all, Nat.reduceSub]; rfl]
  show some (Instr.cospe ⟨_, _, _, _⟩) = _
  simp (disch := decide) only [encode, extract_append_high, extract_append_low, extract_all, Nat.reduceSub])

theorem tanhe (o : CL) : Statement (.tanhe o) := fun _ => decode_of_identify (by
  rw [identify_at (k := 0x33) (by simp (disch := decide) only [fieldNat, encode, extract_append_high, extract_append_low, extract_all, Nat.reduceSub]; rfl)]
  show id33 _ = _
  unfold id33
  rw [show fieldNat (encode (.tanhe o)) 3 6 = 6 by simp (disch := decide) only [fieldNat, encode, extract_append_high, extract_append_low, extract_all, Nat.reduceSub]; rfl]
  show some (Instr.tanhe ⟨_, _, _, _⟩) = _
  simp (disch := decide) only [encode, extract_append_high, extract_append_low, extract_all, Nat.reduceSub])

theorem bxq (o : CLM) : Statement (.bxq o) := fun _ => decode_of_identify (by
  rw [identify_at (k := 0x34) (by simp (disch := decide) only [fieldNat, encode, extract_append_high, extract_append_low, extract_all, Nat.reduceSub]; rfl)]
  show id34 _ = _
  unfold id34
  rw [show fieldNat (encode (.bxq o)) 3 6 = 0 by simp (disch := decide) only [fieldNat, encode, extract_append_high, extract_append_low, extract_all, Nat.reduceSub]; rfl]
  show some (Instr.bxq ⟨_, _, _, _, _⟩) = _
  simp (disch := decide) only [encode, extract_append_high, extract_append_low, extract_all, Nat.reduceSub])

theorem bxd (o : CLM) : Statement (.bxd o) := fun _ => decode_of_identify (by
  rw [identify_at (k := 0x34) (by simp (disch := decide) only [fieldNat, encode, extract_append_high, extract_append_low, extract_all, Nat.reduceSub]; rfl)]
  show id34 _ = _
  unfold id34
  rw [show fieldNat (encode (.bxd o)) 3 6 = 1 by simp (disch := decide) only [fieldNat, encode, extract_append_high, extract_append_low, extract_all, Nat.reduceSub]; rfl]
  show some (Instr.bxd ⟨_, _, _, _, _⟩) = _
  simp (disch := decide) only [encode, extract_append_high, extract_append_low, extract_all, Nat.reduceSub])

theorem mov (o : CL) : Statement (.mov o) := fun _ => decode_of_identify (by
  rw [identify_at (k := 0x35) (by simp (disch := decide) only [fieldNat, encode, extract_append_high, extract_append_low, extract_all, Nat.reduceSub]; rfl)]
  show id35 _ = _
  unfold id35
  rw [show fieldNat (encode (.mov o)) 3 6 = 0 by simp (disch := decide) only [fieldNat, encode, extract_append_high, extract_append_low, extract_all, Nat.reduceSub]; rfl]
  show some (Instr.mov ⟨_, _, _, _⟩) = _
  simp (disch := decide) only [encode, extract_append_high, extract_append_low, extract_all, Nat.reduceSub])

theorem srd (o : SDF) : Statement (.srd o) := fun _ => decode_of_identify (by
  rw [identify_at (k := 0x35) (by simp (disch := decide) only [fieldNat, encode, extract_append_high, extract_append_low, extract_all, Nat.reduceSub]; rfl)]
  show id35 _ = _
  unfold id35
  rw [show fieldNat (encode (.srd o)) 3 6 = 1 by simp (disch := decide) only [fieldNat, encode, extract_append_high, extract_append_low, extract_all, Nat.reduceSub]; rfl]
  show some (Instr.srd ⟨_, _, _⟩) = _
  simp (disch := decide) only [encode, extract_append_high, extract_append_low, extract_all, Nat.reduceSub])

theorem swr (o : SWF) : Statement (.swr o) := fun _ => decode_of_identify (by
  rw [identify_at (k := 0x35) (by simp (disch := decide) only [fieldNat, encode, extract_append_high, extract_append_low, extract_all, Nat.reduceSub]; rfl)]
  show id35 _ = _
  unfold id35
  rw [show fieldNat (encode (.swr o)) 3 6 = 2 by simp (disch := decide) only [fieldNat, encode, extract_append_high, extract_append_low, extract_all, Nat.reduceSub]; rfl]
  show some (Instr.swr ⟨_, _, _⟩) = _
  simp (disch := decide) only [encode, extract_append_high, extract_append_low, extract_all, Nat.reduceSub])

theorem mskr (o : MRF) : Statement (.mskr o) := fun _ => decode_of_identify (by
  rw [identify_at (k := 0x35) (by simp (disch := decide) only [fieldNat, encode, extract_append_high, extract_append_low, extract_all, Nat.reduceSub]; rfl)]
  show id35 _ = _
  unfold id35
  rw [show fieldNat (encode (.mskr o)) 3 6 = 3 by simp (disch := decide) only [fieldNat, encode, extract_append_high, extract_append_low, extract_all, Nat.reduceSub]; rfl]
  show some (Instr.mskr ⟨_, _, _⟩) = _
  simp (disch := decide) only [encode, extract_append_high, extract_append_low, extract_all, Nat.reduceSub])

theorem mskw (o : MWF) : Statement (.mskw o) := fun _ => decode_of_identify (by
  rw [identify_at (k := 0x35) (by simp (disch := decide) only [fieldNat, encode, extract_append_high, extract_append_low, extract_all, Nat.reduceSub]; rfl)]
  show id35 _ = _
  unfold id35
  rw [show fieldNat (encode (.mskw o)) 3 6 = 4 by simp (disch := decide) only [fieldNat, encode, extract_append_high, extract_append_low, extract_all, Nat.reduceSub]; rfl]
  show some (Instr.mskw ⟨_, _, _, _⟩) = _
  simp (disch := decide) only [encode, extract_append_high, extract_append_low, extract_all, Nat.reduceSub])

theorem mskp (o : MPF) : Statement (.mskp o) := fun _ => decode_of_identify (by
  rw [identify_at (k := 0x35) (by simp (disch := decide) only [fieldNat, encode, extract_append_high, extract_append_low, extract_all, Nat.reduceSub]; rfl)]
  show id35 _ = _
  unfold id35
  rw [show fieldNat (encode (.mskp o)) 3 6 = 5 by simp (disch := decide) only [fieldNat, encode, extract_append_high, extract_append_low, extract_all, Nat.reduceSub]; rfl]
  show some (Instr.mskp ⟨_, _, _⟩) = _
  simp (disch := decide) only [encode, extract_append_high, extract_append_low, extract_all, Nat.reduceSub])

theorem pmsk (o : PMF) : Statement (.pmsk o) := fun _ => decode_of_identify (by
  rw [identify_at (k := 0x35) (by simp (disch := decide) only [fieldNat, encode, extract_append_high, extract_append_low, extract_all, Nat.reduceSub]; rfl)]
  show id35 _ = _
  unfold id35
  rw [show fieldNat (encode (.pmsk o)) 3 6 = 6 by simp (disch := decide) only [fieldNat, encode, extract_append_high, extract_append_low, extract_all, Nat.reduceSub]; rfl]
  show some (Instr.pmsk ⟨_, _, _⟩) = _
  simp (disch := decide) only [encode, extract_append_high, extract_append_low, extract_all, Nat.reduceSub])

theorem br (o : BRF) : Statement (.br o) := fun _ => decode_of_identify (by
  rw [identify_at (k := 0x38) (by simp (disch := decide) only [fieldNat, encode, extract_append_high, extract_append_low, extract_all, Nat.reduceSub]; rfl)]
  show some (Instr.br ⟨_, _, _, _⟩) = _
  simp (disch := decide) only [encode, extract_append_high, extract_append_low, extract_all, Nat.reduceSub])

theorem call (o : BRF) : Statement (.call o) := fun _ => decode_of_identify (by
  rw [identify_at (k := 0x39) (by simp (disch := decide) only [fieldNat, encode, extract_append_high, extract_append_low, extract_all, Nat.reduceSub]; rfl)]
  show some (Instr.call ⟨_, _, _, _⟩) = _
  simp (disch := decide) only [encode, extract_append_high, extract_append_low, extract_all, Nat.reduceSub])

theorem nop (o : RCF) : Statement (.nop o) := fun _ => decode_of_identify (by
  rw [identify_at (k := 0x3A) (by simp (disch := decide) only [fieldNat, encode, extract_append_high, extract_append_low, extract_all, Nat.reduceSub]; rfl)]
  show id3A _ = _
  unfold id3A
  rw [show fieldNat (encode (.nop o)) 3 6 = 0 by simp (disch := decide) only [fieldNat, encode, extract_append_high, extract_append_low, extract_all, Nat.reduceSub]; rfl]
  show some (Instr.nop ⟨_⟩) = _
  simp (disch := decide) only [encode, extract_append_high, extract_append_low, extract_all, Nat.reduceSub])

theorem exit (o : RCF) : Statement (.exit o) := fun _ => decode_of_identify (by
  rw [identify_at (k := 0x3A) (by simp (disch := decide) only [fieldNat, encode, extract_append_high, extract_append_low, extract_all, Nat.reduceSub]; rfl)]
  show id3A _ = _
  unfold id3A
  rw [show fieldNat (encode (.exit o)) 3 6 = 1 by simp (disch := decide) only [fieldNat, encode, extract_append_high, extract_append_low, extract_all, Nat.reduceSub]; rfl]
  show some (Instr.exit ⟨_⟩) = _
  simp (disch := decide) only [encode, extract_append_high, extract_append_low, extract_all, Nat.reduceSub])

theorem ret (o : RCF) : Statement (.ret o) := fun _ => decode_of_identify (by
  rw [identify_at (k := 0x3A) (by simp (disch := decide) only [fieldNat, encode, extract_append_high, extract_append_low, extract_all, Nat.reduceSub]; rfl)]
  show id3A _ = _
  unfold id3A
  rw [show fieldNat (encode (.ret o)) 3 6 = 2 by simp (disch := decide) only [fieldNat, encode, extract_append_high, extract_append_low, extract_all, Nat.reduceSub]; rfl]
  show some (Instr.ret ⟨_⟩) = _
  simp (disch := decide) only [encode, extract_append_high, extract_append_low, extract_all, Nat.reduceSub])

theorem jidx (o : SWF) : Statement (.jidx o) := fun _ => decode_of_identify (by
  rw [identify_at (k := 0x3A) (by simp (disch := decide) only [fieldNat, encode, extract_append_high, extract_append_low, extract_all, Nat.reduceSub]; rfl)]
  show id3A _ = _
  unfold id3A
  rw [show fieldNat (encode (.jidx o)) 3 6 = 3 by simp (disch := decide) only [fieldNat, encode, extract_append_high, extract_append_low, extract_all, Nat.reduceSub]; rfl]
  show some (Instr.jidx ⟨_, _, _⟩) = _
  simp (disch := decide) only [encode, extract_append_high, extract_append_low, extract_all, Nat.reduceSub])

theorem brk (o : RCF) : Statement (.brk o) := fun _ => decode_of_identify (by
  rw [identify_at (k := 0x3A) (by simp (disch := decide) only [fieldNat, encode, extract_append_high, extract_append_low, extract_all, Nat.reduceSub]; rfl)]
  show id3A _ = _
  unfold id3A
  rw [show fieldNat (encode (.brk o)) 3 6 = 4 by simp (disch := decide) only [fieldNat, encode, extract_append_high, extract_append_low, extract_all, Nat.reduceSub]; rfl]
  show some (Instr.brk ⟨_⟩) = _
  simp (disch := decide) only [encode, extract_append_high, extract_append_low, extract_all, Nat.reduceSub])

theorem trap (o : TPF) : Statement (.trap o) := fun _ => decode_of_identify (by
  rw [identify_at (k := 0x3B) (by simp (disch := decide) only [fieldNat, encode, extract_append_high, extract_append_low, extract_all, Nat.reduceSub]; rfl)]
  show some (Instr.trap ⟨_, _⟩) = _
  simp (disch := decide) only [encode, extract_append_high, extract_append_low, extract_all, Nat.reduceSub])

theorem jenr (o : KF) : Statement (.jenr o) := fun _ => decode_of_identify (by
  rw [identify_at (k := 0x3C) (by simp (disch := decide) only [fieldNat, encode, extract_append_high, extract_append_low, extract_all, Nat.reduceSub]; rfl)]
  show id3C _ = _
  unfold id3C
  rw [show fieldNat (encode (.jenr o)) 3 6 = 0 by simp (disch := decide) only [fieldNat, encode, extract_append_high, extract_append_low, extract_all, Nat.reduceSub]; rfl]
  show some (Instr.jenr ⟨_, _⟩) = _
  simp (disch := decide) only [encode, extract_append_high, extract_append_low, extract_all, Nat.reduceSub])

theorem jwait (o : KF) : Statement (.jwait o) := fun _ => decode_of_identify (by
  rw [identify_at (k := 0x3C) (by simp (disch := decide) only [fieldNat, encode, extract_append_high, extract_append_low, extract_all, Nat.reduceSub]; rfl)]
  show id3C _ = _
  unfold id3C
  rw [show fieldNat (encode (.jwait o)) 3 6 = 1 by simp (disch := decide) only [fieldNat, encode, extract_append_high, extract_append_low, extract_all, Nat.reduceSub]; rfl]
  show some (Instr.jwait ⟨_, _⟩) = _
  simp (disch := decide) only [encode, extract_append_high, extract_append_low, extract_all, Nat.reduceSub])

theorem ldB (o : ME) : Statement (.ldB o) := fun _ => decode_of_identify (by
  rw [identify_at (k := 0x40) (by simp (disch := decide) only [fieldNat, encode, extract_append_high, extract_append_low, extract_all, Nat.reduceSub]; rfl)]
  show some (Instr.ldB ⟨_, _, _, _, _⟩) = _
  simp (disch := decide) only [encode, extract_append_high, extract_append_low, extract_all, Nat.reduceSub])

theorem ldH (o : ME) : Statement (.ldH o) := fun _ => decode_of_identify (by
  rw [identify_at (k := 0x41) (by simp (disch := decide) only [fieldNat, encode, extract_append_high, extract_append_low, extract_all, Nat.reduceSub]; rfl)]
  show some (Instr.ldH ⟨_, _, _, _, _⟩) = _
  simp (disch := decide) only [encode, extract_append_high, extract_append_low, extract_all, Nat.reduceSub])

theorem ldW (o : ME) : Statement (.ldW o) := fun _ => decode_of_identify (by
  rw [identify_at (k := 0x42) (by simp (disch := decide) only [fieldNat, encode, extract_append_high, extract_append_low, extract_all, Nat.reduceSub]; rfl)]
  show some (Instr.ldW ⟨_, _, _, _, _⟩) = _
  simp (disch := decide) only [encode, extract_append_high, extract_append_low, extract_all, Nat.reduceSub])

theorem ldD (o : ME) : Statement (.ldD o) := fun _ => decode_of_identify (by
  rw [identify_at (k := 0x43) (by simp (disch := decide) only [fieldNat, encode, extract_append_high, extract_append_low, extract_all, Nat.reduceSub]; rfl)]
  show some (Instr.ldD ⟨_, _, _, _, _⟩) = _
  simp (disch := decide) only [encode, extract_append_high, extract_append_low, extract_all, Nat.reduceSub])

theorem ldQ (o : ME) : Statement (.ldQ o) := fun _ => decode_of_identify (by
  rw [identify_at (k := 0x44) (by simp (disch := decide) only [fieldNat, encode, extract_append_high, extract_append_low, extract_all, Nat.reduceSub]; rfl)]
  show some (Instr.ldQ ⟨_, _, _, _, _⟩) = _
  simp (disch := decide) only [encode, extract_append_high, extract_append_low, extract_all, Nat.reduceSub])

theorem stB (o : ME) : Statement (.stB o) := fun _ => decode_of_identify (by
  rw [identify_at (k := 0x45) (by simp (disch := decide) only [fieldNat, encode, extract_append_high, extract_append_low, extract_all, Nat.reduceSub]; rfl)]
  show some (Instr.stB ⟨_, _, _, _, _⟩) = _
  simp (disch := decide) only [encode, extract_append_high, extract_append_low, extract_all, Nat.reduceSub])

theorem stH (o : ME) : Statement (.stH o) := fun _ => decode_of_identify (by
  rw [identify_at (k := 0x46) (by simp (disch := decide) only [fieldNat, encode, extract_append_high, extract_append_low, extract_all, Nat.reduceSub]; rfl)]
  show some (Instr.stH ⟨_, _, _, _, _⟩) = _
  simp (disch := decide) only [encode, extract_append_high, extract_append_low, extract_all, Nat.reduceSub])

theorem stW (o : ME) : Statement (.stW o) := fun _ => decode_of_identify (by
  rw [identify_at (k := 0x47) (by simp (disch := decide) only [fieldNat, encode, extract_append_high, extract_append_low, extract_all, Nat.reduceSub]; rfl)]
  show some (Instr.stW ⟨_, _, _, _, _⟩) = _
  simp (disch := decide) only [encode, extract_append_high, extract_append_low, extract_all, Nat.reduceSub])

theorem stD (o : ME) : Statement (.stD o) := fun _ => decode_of_identify (by
  rw [identify_at (k := 0x48) (by simp (disch := decide) only [fieldNat, encode, extract_append_high, extract_append_low, extract_all, Nat.reduceSub]; rfl)]
  show some (Instr.stD ⟨_, _, _, _, _⟩) = _
  simp (disch := decide) only [encode, extract_append_high, extract_append_low, extract_all, Nat.reduceSub])

theorem stQ (o : ME) : Statement (.stQ o) := fun _ => decode_of_identify (by
  rw [identify_at (k := 0x49) (by simp (disch := decide) only [fieldNat, encode, extract_append_high, extract_append_low, extract_all, Nat.reduceSub]; rfl)]
  show some (Instr.stQ ⟨_, _, _, _, _⟩) = _
  simp (disch := decide) only [encode, extract_append_high, extract_append_low, extract_all, Nat.reduceSub])

theorem lds (o : LSF) : Statement (.lds o) := fun _ => decode_of_identify (by
  rw [identify_at (k := 0x4A) (by simp (disch := decide) only [fieldNat, encode, extract_append_high, extract_append_low, extract_all, Nat.reduceSub]; rfl)]
  show some (Instr.lds ⟨_, _, _, _, _⟩) = _
  simp (disch := decide) only [encode, extract_append_high, extract_append_low, extract_all, Nat.reduceSub])

theorem sts (o : LSF) : Statement (.sts o) := fun _ => decode_of_identify (by
  rw [identify_at (k := 0x4B) (by simp (disch := decide) only [fieldNat, encode, extract_append_high, extract_append_low, extract_all, Nat.reduceSub]; rfl)]
  show some (Instr.sts ⟨_, _, _, _, _⟩) = _
  simp (disch := decide) only [encode, extract_append_high, extract_append_low, extract_all, Nat.reduceSub])

theorem ldp (o : LPF) : Statement (.ldp o) := fun _ => decode_of_identify (by
  rw [identify_at (k := 0x4C) (by simp (disch := decide) only [fieldNat, encode, extract_append_high, extract_append_low, extract_all, Nat.reduceSub]; rfl)]
  show some (Instr.ldp ⟨_, _, _, _, _, _⟩) = _
  simp (disch := decide) only [encode, extract_append_high, extract_append_low, extract_all, Nat.reduceSub])

theorem stp (o : LPF) : Statement (.stp o) := fun _ => decode_of_identify (by
  rw [identify_at (k := 0x4D) (by simp (disch := decide) only [fieldNat, encode, extract_append_high, extract_append_low, extract_all, Nat.reduceSub]; rfl)]
  show some (Instr.stp ⟨_, _, _, _, _, _⟩) = _
  simp (disch := decide) only [encode, extract_append_high, extract_append_low, extract_all, Nat.reduceSub])

theorem tld (o : TLF) : Statement (.tld o) := fun _ => decode_of_identify (by
  rw [identify_at (k := 0x4E) (by simp (disch := decide) only [fieldNat, encode, extract_append_high, extract_append_low, extract_all, Nat.reduceSub]; rfl)]
  show id4E _ = _
  unfold id4E
  rw [show fieldNat (encode (.tld o)) 1 1 = 0 by simp (disch := decide) only [fieldNat, encode, extract_append_high, extract_append_low, extract_all, Nat.reduceSub]; rfl]
  show some (Instr.tld ⟨_, _, _, _⟩) = _
  simp (disch := decide) only [encode, extract_append_high, extract_append_low, extract_all, Nat.reduceSub])

theorem tst (o : TLF) : Statement (.tst o) := fun _ => decode_of_identify (by
  rw [identify_at (k := 0x4E) (by simp (disch := decide) only [fieldNat, encode, extract_append_high, extract_append_low, extract_all, Nat.reduceSub]; rfl)]
  show id4E _ = _
  unfold id4E
  rw [show fieldNat (encode (.tst o)) 1 1 = 1 by simp (disch := decide) only [fieldNat, encode, extract_append_high, extract_append_low, extract_all, Nat.reduceSub]; rfl]
  show some (Instr.tst ⟨_, _, _, _⟩) = _
  simp (disch := decide) only [encode, extract_append_high, extract_append_low, extract_all, Nat.reduceSub])

theorem prfL1 (o : CCF) : Statement (.prfL1 o) := fun _ => decode_of_identify (by
  rw [identify_at (k := 0x4F) (by simp (disch := decide) only [fieldNat, encode, extract_append_high, extract_append_low, extract_all, Nat.reduceSub]; rfl)]
  show id4F _ = _
  unfold id4F
  rw [show fieldNat (encode (.prfL1 o)) 16 7 = 0 by simp (disch := decide) only [fieldNat, encode, extract_append_high, extract_append_low, extract_all, Nat.reduceSub]; rfl]
  show some (Instr.prfL1 ⟨_, _, _⟩) = _
  simp (disch := decide) only [encode, extract_append_high, extract_append_low, extract_all, Nat.reduceSub])

theorem prfL2 (o : CCF) : Statement (.prfL2 o) := fun _ => decode_of_identify (by
  rw [identify_at (k := 0x4F) (by simp (disch := decide) only [fieldNat, encode, extract_append_high, extract_append_low, extract_all, Nat.reduceSub]; rfl)]
  show id4F _ = _
  unfold id4F
  rw [show fieldNat (encode (.prfL2 o)) 16 7 = 1 by simp (disch := decide) only [fieldNat, encode, extract_append_high, extract_append_low, extract_all, Nat.reduceSub]; rfl]
  show some (Instr.prfL2 ⟨_, _, _⟩) = _
  simp (disch := decide) only [encode, extract_append_high, extract_append_low, extract_all, Nat.reduceSub])

theorem cctlInv1 (o : CCF) : Statement (.cctlInv1 o) := fun _ => decode_of_identify (by
  rw [identify_at (k := 0x4F) (by simp (disch := decide) only [fieldNat, encode, extract_append_high, extract_append_low, extract_all, Nat.reduceSub]; rfl)]
  show id4F _ = _
  unfold id4F
  rw [show fieldNat (encode (.cctlInv1 o)) 16 7 = 2 by simp (disch := decide) only [fieldNat, encode, extract_append_high, extract_append_low, extract_all, Nat.reduceSub]; rfl]
  show some (Instr.cctlInv1 ⟨_, _, _⟩) = _
  simp (disch := decide) only [encode, extract_append_high, extract_append_low, extract_all, Nat.reduceSub])

theorem cctlInva (o : RCF) : Statement (.cctlInva o) := fun _ => decode_of_identify (by
  rw [identify_at (k := 0x4F) (by simp (disch := decide) only [fieldNat, encode, extract_append_high, extract_append_low, extract_all, Nat.reduceSub]; rfl)]
  show id4F _ = _
  unfold id4F
  rw [show fieldNat (encode (.cctlInva o)) 16 7 = 3 by simp (disch := decide) only [fieldNat, encode, extract_append_high, extract_append_low, extract_all, Nat.reduceSub]; rfl]
  show some (Instr.cctlInva ⟨_⟩) = _
  simp (disch := decide) only [encode, extract_append_high, extract_append_low, extract_all, Nat.reduceSub])

theorem cctlWb (o : CCF) : Statement (.cctlWb o) := fun _ => decode_of_identify (by
  rw [identify_at (k := 0x4F) (by simp (disch := decide) only [fieldNat, encode, extract_append_high, extract_append_low, extract_all, Nat.reduceSub]; rfl)]
  show id4F _ = _
  unfold id4F
  rw [show fieldNat (encode (.cctlWb o)) 16 7 = 4 by simp (disch := decide) only [fieldNat, encode, extract_append_high, extract_append_low, extract_all, Nat.reduceSub]; rfl]
  show some (Instr.cctlWb ⟨_, _, _⟩) = _
  simp (disch := decide) only [encode, extract_append_high, extract_append_low, extract_all, Nat.reduceSub])

theorem cctlWbi (o : CCF) : Statement (.cctlWbi o) := fun _ => decode_of_identify (by
  rw [identify_at (k := 0x4F) (by simp (disch := decide) only [fieldNat, encode, extract_append_high, extract_append_low, extract_all, Nat.reduceSub]; rfl)]
  show id4F _ = _
  unfold id4F
  rw [show fieldNat (encode (.cctlWbi o)) 16 7 = 5 by simp (disch := decide) only [fieldNat, encode, extract_append_high, extract_append_low, extract_all, Nat.reduceSub]; rfl]
  show some (Instr.cctlWbi ⟨_, _, _⟩) = _
  simp (disch := decide) only [encode, extract_append_high, extract_append_low, extract_all, Nat.reduceSub])

theorem atomAdd (o : ATF) : Statement (.atomAdd o) := fun _ => decode_of_identify (by
  rw [identify_at (k := 0x50) (by simp (disch := decide) only [fieldNat, encode, extract_append_high, extract_append_low, extract_all, Nat.reduceSub]; rfl)]
  show (if _ then _ else _) = _
  rw [if_pos (by simp (disch := decide) only [fieldNat, encode, extract_append_high, extract_append_low, extract_all, Nat.reduceSub]; rfl)]
  show some (Instr.atomAdd ⟨_, _, _, _, _⟩) = _
  simp (disch := decide) only [encode, extract_append_high, extract_append_low, extract_all, Nat.reduceSub])

theorem atomMin (o : ATF) : Statement (.atomMin o) := fun _ => decode_of_identify (by
  rw [identify_at (k := 0x51) (by simp (disch := decide) only [fieldNat, encode, extract_append_high, extract_append_low, extract_all, Nat.reduceSub]; rfl)]
  show (if _ then _ else _) = _
  rw [if_pos (by simp (disch := decide) only [fieldNat, encode, extract_append_high, extract_append_low, extract_all, Nat.reduceSub]; rfl)]
  show some (Instr.atomMin ⟨_, _, _, _, _⟩) = _
  simp (disch := decide) only [encode, extract_append_high, extract_append_low, extract_all, Nat.reduceSub])

theorem atomMax (o : ATF) : Statement (.atomMax o) := fun _ => decode_of_identify (by
  rw [identify_at (k := 0x52) (by simp (disch := decide) only [fieldNat, encode, extract_append_high, extract_append_low, extract_all, Nat.reduceSub]; rfl)]
  show (if _ then _ else _) = _
  rw [if_pos (by simp (disch := decide) only [fieldNat, encode, extract_append_high, extract_append_low, extract_all, Nat.reduceSub]; rfl)]
  show some (Instr.atomMax ⟨_, _, _, _, _⟩) = _
  simp (disch := decide) only [encode, extract_append_high, extract_append_low, extract_all, Nat.reduceSub])

theorem atomAnd (o : ATB) : Statement (.atomAnd o) := fun _ => decode_of_identify (by
  rw [identify_at (k := 0x53) (by simp (disch := decide) only [fieldNat, encode, extract_append_high, extract_append_low, extract_all, Nat.reduceSub]; rfl)]
  show id53 _ = _
  unfold id53
  rw [show fieldNat (encode (.atomAnd o)) 0 2 = 0 by simp (disch := decide) only [fieldNat, encode, extract_append_high, extract_append_low, extract_all, Nat.reduceSub]; rfl]
  show some (Instr.atomAnd ⟨_, _, _, _, _⟩) = _
  simp (disch := decide) only [encode, extract_append_high, extract_append_low, extract_all, Nat.reduceSub])

theorem atomOr (o : ATB) : Statement (.atomOr o) := fun _ => decode_of_identify (by
  rw [identify_at (k := 0x53) (by simp (disch := decide) only [fieldNat, encode, extract_append_high, extract_append_low, extract_all, Nat.reduceSub]; rfl)]
  show id53 _ = _
  unfold id53
  rw [show fieldNat (encode (.atomOr o)) 0 2 = 1 by simp (disch := decide) only [fieldNat, encode, extract_append_high, extract_append_low, extract_all, Nat.reduceSub]; rfl]
  show some (Instr.atomOr ⟨_, _, _, _, _⟩) = _
  simp (disch := decide) only [encode, extract_append_high, extract_append_low, extract_all, Nat.reduceSub])

theorem atomXor (o : ATB) : Statement (.atomXor o) := fun _ => decode_of_identify (by
  rw [identify_at (k := 0x53) (by simp (disch := decide) only [fieldNat, encode, extract_append_high, extract_append_low, extract_all, Nat.reduceSub]; rfl)]
  show id53 _ = _
  unfold id53
  rw [show fieldNat (encode (.atomXor o)) 0 2 = 2 by simp (disch := decide) only [fieldNat, encode, extract_append_high, extract_append_low, extract_all, Nat.reduceSub]; rfl]
  show some (Instr.atomXor ⟨_, _, _, _, _⟩) = _
  simp (disch := decide) only [encode, extract_append_high, extract_append_low, extract_all, Nat.reduceSub])

theorem atomXchg (o : ATB) : Statement (.atomXchg o) := fun _ => decode_of_identify (by
  rw [identify_at (k := 0x53) (by simp (disch := decide) only [fieldNat, encode, extract_append_high, extract_append_low, extract_all, Nat.reduceSub]; rfl)]
  show id53 _ = _
  unfold id53
  rw [show fieldNat (encode (.atomXchg o)) 0 2 = 3 by simp (disch := decide) only [fieldNat, encode, extract_append_high, extract_append_low, extract_all, Nat.reduceSub]; rfl]
  show some (Instr.atomXchg ⟨_, _, _, _, _⟩) = _
  simp (disch := decide) only [encode, extract_append_high, extract_append_low, extract_all, Nat.reduceSub])

/-- Both types of compare and swap. -/
theorem atomCas (o : CAF) : Statement (.atomCas o) := fun _ => decode_of_identify (by
  rw [identify_at (k := 0x54) (by simp (disch := decide) only [fieldNat, encode, extract_append_high, extract_append_low, extract_all, Nat.reduceSub]; rfl)]
  show idCas _ = _
  unfold idCas
  rw [show fieldNat (encode (.atomCas o)) 9 1 = 0 by simp (disch := decide) only [fieldNat, encode, extract_append_high, extract_append_low, extract_all, Nat.reduceSub]; rfl]
  have hs : fieldNat (encode (.atomCas o)) 0 2 = o.t.toNat := by
    have e : (encode (.atomCas o)).extractLsb' 0 2 = 0x0#1 ++ o.t := by
      ext j hj
      simp only [encode, BitVec.getElem_extractLsb', BitVec.getLsbD_append, BitVec.getElem_append]
      grind
    rw [fieldNat, e]; exact (by decide : ∀ t : BitVec 1, (0x0#1 ++ t).toNat = t.toNat) o.t
  rw [hs]
  have ht := o.t.isLt
  match ho : o.t.toNat, ht with
  | 0, _ | 1, _ =>
    show some (Instr.atomCas ⟨_, _, _, _, _⟩) = _
    simp (disch := decide) only [encode, extract_append_high, extract_append_low, extract_all, Nat.reduceSub])

theorem stm (o : STF) : Statement (.stm o) := fun _ => decode_of_identify (by
  rw [identify_at (k := 0x54) (by simp (disch := decide) only [fieldNat, encode, extract_append_high, extract_append_low, extract_all, Nat.reduceSub]; rfl)]
  show idCas _ = _
  unfold idCas
  rw [show fieldNat (encode (.stm o)) 9 1 = 1 by simp (disch := decide) only [fieldNat, encode, extract_append_high, extract_append_low, extract_all, Nat.reduceSub]; rfl,
    show fieldNat (encode (.stm o)) 0 2 = 0 by simp (disch := decide) only [fieldNat, encode, extract_append_high, extract_append_low, extract_all, Nat.reduceSub]; rfl]
  show some (Instr.stm ⟨_, _, _, _, _⟩) = _
  simp (disch := decide) only [encode, extract_append_high, extract_append_low, extract_all, Nat.reduceSub])

theorem fence (o : FNF) : Statement (.fence o) := fun _ => decode_of_identify (by
  rw [identify_at (k := 0x55) (by simp (disch := decide) only [fieldNat, encode, extract_append_high, extract_append_low, extract_all, Nat.reduceSub]; rfl)]
  show id55 _ = _
  unfold id55
  rw [show fieldNat (encode (.fence o)) 19 4 = 0 by simp (disch := decide) only [fieldNat, encode, extract_append_high, extract_append_low, extract_all, Nat.reduceSub]; rfl]
  show some (Instr.fence ⟨_, _, _⟩) = _
  simp (disch := decide) only [encode, extract_append_high, extract_append_low, extract_all, Nat.reduceSub])

theorem wait (o : WTF) : Statement (.wait o) := fun _ => decode_of_identify (by
  rw [identify_at (k := 0x55) (by simp (disch := decide) only [fieldNat, encode, extract_append_high, extract_append_low, extract_all, Nat.reduceSub]; rfl)]
  show id55 _ = _
  unfold id55
  rw [show fieldNat (encode (.wait o)) 19 4 = 1 by simp (disch := decide) only [fieldNat, encode, extract_append_high, extract_append_low, extract_all, Nat.reduceSub]; rfl]
  show some (Instr.wait ⟨_, _, _, _⟩) = _
  simp (disch := decide) only [encode, extract_append_high, extract_append_low, extract_all, Nat.reduceSub])

theorem waita (o : WAF) : Statement (.waita o) := fun _ => decode_of_identify (by
  rw [identify_at (k := 0x55) (by simp (disch := decide) only [fieldNat, encode, extract_append_high, extract_append_low, extract_all, Nat.reduceSub]; rfl)]
  show id55 _ = _
  unfold id55
  rw [show fieldNat (encode (.waita o)) 19 4 = 2 by simp (disch := decide) only [fieldNat, encode, extract_append_high, extract_append_low, extract_all, Nat.reduceSub]; rfl]
  show some (Instr.waita ⟨_, _, _, _, _⟩) = _
  simp (disch := decide) only [encode, extract_append_high, extract_append_low, extract_all, Nat.reduceSub])

theorem bar (o : BIF) : Statement (.bar o) := fun _ => decode_of_identify (by
  rw [identify_at (k := 0x55) (by simp (disch := decide) only [fieldNat, encode, extract_append_high, extract_append_low, extract_all, Nat.reduceSub]; rfl)]
  show id55 _ = _
  unfold id55
  rw [show fieldNat (encode (.bar o)) 19 4 = 3 by simp (disch := decide) only [fieldNat, encode, extract_append_high, extract_append_low, extract_all, Nat.reduceSub]; rfl]
  show some (Instr.bar ⟨_, _⟩) = _
  simp (disch := decide) only [encode, extract_append_high, extract_append_low, extract_all, Nat.reduceSub])

theorem barPe (o : BPF) : Statement (.barPe o) := fun _ => decode_of_identify (by
  rw [identify_at (k := 0x55) (by simp (disch := decide) only [fieldNat, encode, extract_append_high, extract_append_low, extract_all, Nat.reduceSub]; rfl)]
  show id55 _ = _
  unfold id55
  rw [show fieldNat (encode (.barPe o)) 19 4 = 4 by simp (disch := decide) only [fieldNat, encode, extract_append_high, extract_append_low, extract_all, Nat.reduceSub]; rfl]
  show some (Instr.barPe ⟨_, _⟩) = _
  simp (disch := decide) only [encode, extract_append_high, extract_append_low, extract_all, Nat.reduceSub])

theorem bara (o : BIF) : Statement (.bara o) := fun _ => decode_of_identify (by
  rw [identify_at (k := 0x55) (by simp (disch := decide) only [fieldNat, encode, extract_append_high, extract_append_low, extract_all, Nat.reduceSub]; rfl)]
  show id55 _ = _
  unfold id55
  rw [show fieldNat (encode (.bara o)) 19 4 = 5 by simp (disch := decide) only [fieldNat, encode, extract_append_high, extract_append_low, extract_all, Nat.reduceSub]; rfl]
  show some (Instr.bara ⟨_, _⟩) = _
  simp (disch := decide) only [encode, extract_append_high, extract_append_low, extract_all, Nat.reduceSub])

theorem barw (o : BIF) : Statement (.barw o) := fun _ => decode_of_identify (by
  rw [identify_at (k := 0x55) (by simp (disch := decide) only [fieldNat, encode, extract_append_high, extract_append_low, extract_all, Nat.reduceSub]; rfl)]
  show id55 _ = _
  unfold id55
  rw [show fieldNat (encode (.barw o)) 19 4 = 6 by simp (disch := decide) only [fieldNat, encode, extract_append_high, extract_append_low, extract_all, Nat.reduceSub]; rfl]
  show some (Instr.barw ⟨_, _⟩) = _
  simp (disch := decide) only [encode, extract_append_high, extract_append_low, extract_all, Nat.reduceSub])

theorem cbar (o : RCF) : Statement (.cbar o) := fun _ => decode_of_identify (by
  rw [identify_at (k := 0x55) (by simp (disch := decide) only [fieldNat, encode, extract_append_high, extract_append_low, extract_all, Nat.reduceSub]; rfl)]
  show id55 _ = _
  unfold id55
  rw [show fieldNat (encode (.cbar o)) 19 4 = 7 by simp (disch := decide) only [fieldNat, encode, extract_append_high, extract_append_low, extract_all, Nat.reduceSub]; rfl]
  show some (Instr.cbar ⟨_⟩) = _
  simp (disch := decide) only [encode, extract_append_high, extract_append_low, extract_all, Nat.reduceSub])

theorem rgn (o : RCF) : Statement (.rgn o) := fun _ => decode_of_identify (by
  rw [identify_at (k := 0x55) (by simp (disch := decide) only [fieldNat, encode, extract_append_high, extract_append_low, extract_all, Nat.reduceSub]; rfl)]
  show id55 _ = _
  unfold id55
  rw [show fieldNat (encode (.rgn o)) 19 4 = 8 by simp (disch := decide) only [fieldNat, encode, extract_append_high, extract_append_low, extract_all, Nat.reduceSub]; rfl]
  show some (Instr.rgn ⟨_⟩) = _
  simp (disch := decide) only [encode, extract_append_high, extract_append_low, extract_all, Nat.reduceSub])

theorem rgncnt (o : PPF) : Statement (.rgncnt o) := fun _ => decode_of_identify (by
  rw [identify_at (k := 0x55) (by simp (disch := decide) only [fieldNat, encode, extract_append_high, extract_append_low, extract_all, Nat.reduceSub]; rfl)]
  show id55 _ = _
  unfold id55
  rw [show fieldNat (encode (.rgncnt o)) 19 4 = 9 by simp (disch := decide) only [fieldNat, encode, extract_append_high, extract_append_low, extract_all, Nat.reduceSub]; rfl]
  show some (Instr.rgncnt ⟨_, _⟩) = _
  simp (disch := decide) only [encode, extract_append_high, extract_append_low, extract_all, Nat.reduceSub])

theorem shfl (o : SHF) : Statement (.shfl o) := fun _ => decode_of_identify (by
  rw [identify_at (k := 0x56) (by simp (disch := decide) only [fieldNat, encode, extract_append_high, extract_append_low, extract_all, Nat.reduceSub]; rfl)]
  show some (Instr.shfl ⟨_, _, _, _, _⟩) = _
  simp (disch := decide) only [encode, extract_append_high, extract_append_low, extract_all, Nat.reduceSub])

theorem voteAny (o : VTF) : Statement (.voteAny o) := fun _ => decode_of_identify (by
  rw [identify_at (k := 0x57) (by simp (disch := decide) only [fieldNat, encode, extract_append_high, extract_append_low, extract_all, Nat.reduceSub]; rfl)]
  show id57 _ = _
  unfold id57
  rw [show fieldNat (encode (.voteAny o)) 3 6 = 0 by simp (disch := decide) only [fieldNat, encode, extract_append_high, extract_append_low, extract_all, Nat.reduceSub]; rfl]
  show some (Instr.voteAny ⟨_, _, _⟩) = _
  simp (disch := decide) only [encode, extract_append_high, extract_append_low, extract_all, Nat.reduceSub])

theorem voteAll (o : VTF) : Statement (.voteAll o) := fun _ => decode_of_identify (by
  rw [identify_at (k := 0x57) (by simp (disch := decide) only [fieldNat, encode, extract_append_high, extract_append_low, extract_all, Nat.reduceSub]; rfl)]
  show id57 _ = _
  unfold id57
  rw [show fieldNat (encode (.voteAll o)) 3 6 = 1 by simp (disch := decide) only [fieldNat, encode, extract_append_high, extract_append_low, extract_all, Nat.reduceSub]; rfl]
  show some (Instr.voteAll ⟨_, _, _⟩) = _
  simp (disch := decide) only [encode, extract_append_high, extract_append_low, extract_all, Nat.reduceSub])

theorem voteBallot (o : VBF) : Statement (.voteBallot o) := fun _ => decode_of_identify (by
  rw [identify_at (k := 0x57) (by simp (disch := decide) only [fieldNat, encode, extract_append_high, extract_append_low, extract_all, Nat.reduceSub]; rfl)]
  show id57 _ = _
  unfold id57
  rw [show fieldNat (encode (.voteBallot o)) 3 6 = 2 by simp (disch := decide) only [fieldNat, encode, extract_append_high, extract_append_low, extract_all, Nat.reduceSub]; rfl]
  show some (Instr.voteBallot ⟨_, _, _⟩) = _
  simp (disch := decide) only [encode, extract_append_high, extract_append_low, extract_all, Nat.reduceSub])

theorem gredAdd (o : GRF) : Statement (.gredAdd o) := fun _ => decode_of_identify (by
  rw [identify_at (k := 0x57) (by simp (disch := decide) only [fieldNat, encode, extract_append_high, extract_append_low, extract_all, Nat.reduceSub]; rfl)]
  show id57 _ = _
  unfold id57
  rw [show fieldNat (encode (.gredAdd o)) 3 6 = 3 by simp (disch := decide) only [fieldNat, encode, extract_append_high, extract_append_low, extract_all, Nat.reduceSub]; rfl]
  show some (Instr.gredAdd ⟨_, _, _, _, _⟩) = _
  simp (disch := decide) only [encode, extract_append_high, extract_append_low, extract_all, Nat.reduceSub])

theorem gredMin (o : GRF) : Statement (.gredMin o) := fun _ => decode_of_identify (by
  rw [identify_at (k := 0x57) (by simp (disch := decide) only [fieldNat, encode, extract_append_high, extract_append_low, extract_all, Nat.reduceSub]; rfl)]
  show id57 _ = _
  unfold id57
  rw [show fieldNat (encode (.gredMin o)) 3 6 = 4 by simp (disch := decide) only [fieldNat, encode, extract_append_high, extract_append_low, extract_all, Nat.reduceSub]; rfl]
  show some (Instr.gredMin ⟨_, _, _, _, _⟩) = _
  simp (disch := decide) only [encode, extract_append_high, extract_append_low, extract_all, Nat.reduceSub])

theorem gredMax (o : GRF) : Statement (.gredMax o) := fun _ => decode_of_identify (by
  rw [identify_at (k := 0x57) (by simp (disch := decide) only [fieldNat, encode, extract_append_high, extract_append_low, extract_all, Nat.reduceSub]; rfl)]
  show id57 _ = _
  unfold id57
  rw [show fieldNat (encode (.gredMax o)) 3 6 = 5 by simp (disch := decide) only [fieldNat, encode, extract_append_high, extract_append_low, extract_all, Nat.reduceSub]; rfl]
  show some (Instr.gredMax ⟨_, _, _, _, _⟩) = _
  simp (disch := decide) only [encode, extract_append_high, extract_append_low, extract_all, Nat.reduceSub])

theorem rdef (o : RDF) : Statement (.rdef o) := fun _ => decode_of_identify (by
  rw [identify_at (k := 0x58) (by simp (disch := decide) only [fieldNat, encode, extract_append_high, extract_append_low, extract_all, Nat.reduceSub]; rfl)]
  show some (Instr.rdef ⟨_, _, _, _⟩) = _
  simp (disch := decide) only [encode, extract_append_high, extract_append_low, extract_all, Nat.reduceSub])

theorem rop (o : ROF) : Statement (.rop o) := fun _ => decode_of_identify (by
  rw [identify_at (k := 0x59) (by simp (disch := decide) only [fieldNat, encode, extract_append_high, extract_append_low, extract_all, Nat.reduceSub]; rfl)]
  show some (Instr.rop ⟨_, _, _, _⟩) = _
  simp (disch := decide) only [encode, extract_append_high, extract_append_low, extract_all, Nat.reduceSub])

theorem ropr (o : ROF) : Statement (.ropr o) := fun _ => decode_of_identify (by
  rw [identify_at (k := 0x5A) (by simp (disch := decide) only [fieldNat, encode, extract_append_high, extract_append_low, extract_all, Nat.reduceSub]; rfl)]
  show some (Instr.ropr ⟨_, _, _, _⟩) = _
  simp (disch := decide) only [encode, extract_append_high, extract_append_low, extract_all, Nat.reduceSub])

theorem btxStart (o : BSF) : Statement (.btxStart o) := fun _ => decode_of_identify (by
  rw [identify_at (k := 0x5B) (by simp (disch := decide) only [fieldNat, encode, extract_append_high, extract_append_low, extract_all, Nat.reduceSub]; rfl)]
  show id5B _ = _
  unfold id5B
  rw [show fieldNat (encode (.btxStart o)) 0 1 = 0 by simp (disch := decide) only [fieldNat, encode, extract_append_high, extract_append_low, extract_all, Nat.reduceSub]; rfl]
  show some (Instr.btxStart ⟨_, _, _⟩) = _
  simp (disch := decide) only [encode, extract_append_high, extract_append_low, extract_all, Nat.reduceSub])

theorem btxStat (o : BTF) : Statement (.btxStat o) := fun _ => decode_of_identify (by
  rw [identify_at (k := 0x5B) (by simp (disch := decide) only [fieldNat, encode, extract_append_high, extract_append_low, extract_all, Nat.reduceSub]; rfl)]
  show id5B _ = _
  unfold id5B
  rw [show fieldNat (encode (.btxStat o)) 0 1 = 1 by simp (disch := decide) only [fieldNat, encode, extract_append_high, extract_append_low, extract_all, Nat.reduceSub]; rfl]
  show some (Instr.btxStat ⟨_, _, _⟩) = _
  simp (disch := decide) only [encode, extract_append_high, extract_append_low, extract_all, Nat.reduceSub])

theorem tcopy (o : TCF) : Statement (.tcopy o) := fun _ => decode_of_identify (by
  rw [identify_at (k := 0x5C) (by simp (disch := decide) only [fieldNat, encode, extract_append_high, extract_append_low, extract_all, Nat.reduceSub]; rfl)]
  show some (Instr.tcopy ⟨_, _, _⟩) = _
  simp (disch := decide) only [encode, extract_append_high, extract_append_low, extract_all, Nat.reduceSub])

theorem amtest (o : AMF) : Statement (.amtest o) := fun _ => decode_of_identify (by
  rw [identify_at (k := 0x5D) (by simp (disch := decide) only [fieldNat, encode, extract_append_high, extract_append_low, extract_all, Nat.reduceSub]; rfl)]
  show some (Instr.amtest ⟨_, _, _, _⟩) = _
  simp (disch := decide) only [encode, extract_append_high, extract_append_low, extract_all, Nat.reduceSub])

theorem amsg (o : MSF) : Statement (.amsg o) := fun _ => decode_of_identify (by
  rw [identify_at (k := 0x5E) (by simp (disch := decide) only [fieldNat, encode, extract_append_high, extract_append_low, extract_all, Nat.reduceSub]; rfl)]
  show id5E _ = _
  unfold id5E
  rw [show fieldNat (encode (.amsg o)) 0 2 = 0 by simp (disch := decide) only [fieldNat, encode, extract_append_high, extract_append_low, extract_all, Nat.reduceSub]; rfl]
  show some (Instr.amsg ⟨_, _, _, _⟩) = _
  simp (disch := decide) only [encode, extract_append_high, extract_append_low, extract_all, Nat.reduceSub])

theorem amh (o : AHF) : Statement (.amh o) := fun _ => decode_of_identify (by
  rw [identify_at (k := 0x5E) (by simp (disch := decide) only [fieldNat, encode, extract_append_high, extract_append_low, extract_all, Nat.reduceSub]; rfl)]
  show id5E _ = _
  unfold id5E
  rw [show fieldNat (encode (.amh o)) 0 2 = 1 by simp (disch := decide) only [fieldNat, encode, extract_append_high, extract_append_low, extract_all, Nat.reduceSub]; rfl]
  show some (Instr.amh ⟨_, _, _, _⟩) = _
  simp (disch := decide) only [encode, extract_append_high, extract_append_low, extract_all, Nat.reduceSub])

theorem launch (o : LNF) : Statement (.launch o) := fun _ => decode_of_identify (by
  rw [identify_at (k := 0x5F) (by simp (disch := decide) only [fieldNat, encode, extract_append_high, extract_append_low, extract_all, Nat.reduceSub]; rfl)]
  show some (Instr.launch ⟨_, _, _, _⟩) = _
  simp (disch := decide) only [encode, extract_append_high, extract_append_low, extract_all, Nat.reduceSub])

theorem mma (o : MXF) : Statement (.mma o) := fun _ => decode_of_identify (by
  rw [identify_at (k := 0x60) (by simp (disch := decide) only [fieldNat, encode, extract_append_high, extract_append_low, extract_all, Nat.reduceSub]; rfl)]
  show some (Instr.mma ⟨_, _, _, _, _, _, _⟩) = _
  simp (disch := decide) only [encode, extract_append_high, extract_append_low, extract_all, Nat.reduceSub])

theorem mloop (o : MXF) : Statement (.mloop o) := fun _ => decode_of_identify (by
  rw [identify_at (k := 0x61) (by simp (disch := decide) only [fieldNat, encode, extract_append_high, extract_append_low, extract_all, Nat.reduceSub]; rfl)]
  show some (Instr.mloop ⟨_, _, _, _, _, _, _⟩) = _
  simp (disch := decide) only [encode, extract_append_high, extract_append_low, extract_all, Nat.reduceSub])

theorem mstr (o : MQF) : Statement (.mstr o) := fun _ => decode_of_identify (by
  rw [identify_at (k := 0x62) (by simp (disch := decide) only [fieldNat, encode, extract_append_high, extract_append_low, extract_all, Nat.reduceSub]; rfl)]
  show some (Instr.mstr ⟨_, _, _⟩) = _
  simp (disch := decide) only [encode, extract_append_high, extract_append_low, extract_all, Nat.reduceSub])

theorem aclr (o : ACF) : Statement (.aclr o) := fun _ => decode_of_identify (by
  rw [identify_at (k := 0x63) (by simp (disch := decide) only [fieldNat, encode, extract_append_high, extract_append_low, extract_all, Nat.reduceSub]; rfl)]
  show some (Instr.aclr ⟨_, _, _⟩) = _
  simp (disch := decide) only [encode, extract_append_high, extract_append_low, extract_all, Nat.reduceSub])

theorem aread (o : ARF) : Statement (.aread o) := fun _ => decode_of_identify (by
  rw [identify_at (k := 0x64) (by simp (disch := decide) only [fieldNat, encode, extract_append_high, extract_append_low, extract_all, Nat.reduceSub]; rfl)]
  show some (Instr.aread ⟨_, _, _, _, _⟩) = _
  simp (disch := decide) only [encode, extract_append_high, extract_append_low, extract_all, Nat.reduceSub])

theorem awrite (o : ARF) : Statement (.awrite o) := fun _ => decode_of_identify (by
  rw [identify_at (k := 0x65) (by simp (disch := decide) only [fieldNat, encode, extract_append_high, extract_append_low, extract_all, Nat.reduceSub]; rfl)]
  show some (Instr.awrite ⟨_, _, _, _, _⟩) = _
  simp (disch := decide) only [encode, extract_append_high, extract_append_low, extract_all, Nat.reduceSub])

theorem ast (o : ASF) : Statement (.ast o) := fun _ => decode_of_identify (by
  rw [identify_at (k := 0x66) (by simp (disch := decide) only [fieldNat, encode, extract_append_high, extract_append_low, extract_all, Nat.reduceSub]; rfl)]
  show some (Instr.ast ⟨_, _, _, _⟩) = _
  simp (disch := decide) only [encode, extract_append_high, extract_append_low, extract_all, Nat.reduceSub])

theorem ald (o : ASF) : Statement (.ald o) := fun _ => decode_of_identify (by
  rw [identify_at (k := 0x67) (by simp (disch := decide) only [fieldNat, encode, extract_append_high, extract_append_low, extract_all, Nat.reduceSub]; rfl)]
  show some (Instr.ald ⟨_, _, _, _⟩) = _
  simp (disch := decide) only [encode, extract_append_high, extract_append_low, extract_all, Nat.reduceSub])

theorem mburst (o : MBF) : Statement (.mburst o) := fun _ => decode_of_identify (by
  rw [identify_at (k := 0x68) (by simp (disch := decide) only [fieldNat, encode, extract_append_high, extract_append_low, extract_all, Nat.reduceSub]; rfl)]
  show some (Instr.mburst ⟨_, _⟩) = _
  simp (disch := decide) only [encode, extract_append_high, extract_append_low, extract_all, Nat.reduceSub])

theorem csrr (o : CRF) : Statement (.csrr o) := fun _ => decode_of_identify (by
  rw [identify_at (k := 0x70) (by simp (disch := decide) only [fieldNat, encode, extract_append_high, extract_append_low, extract_all, Nat.reduceSub]; rfl)]
  show some (Instr.csrr ⟨_, _, _⟩) = _
  simp (disch := decide) only [encode, extract_append_high, extract_append_low, extract_all, Nat.reduceSub])

theorem csrw (o : CWF) : Statement (.csrw o) := fun _ => decode_of_identify (by
  rw [identify_at (k := 0x71) (by simp (disch := decide) only [fieldNat, encode, extract_append_high, extract_append_low, extract_all, Nat.reduceSub]; rfl)]
  show some (Instr.csrw ⟨_, _, _⟩) = _
  simp (disch := decide) only [encode, extract_append_high, extract_append_low, extract_all, Nat.reduceSub])

theorem ctxNew (o : CNF) : Statement (.ctxNew o) := fun _ => decode_of_identify (by
  rw [identify_at (k := 0x72) (by simp (disch := decide) only [fieldNat, encode, extract_append_high, extract_append_low, extract_all, Nat.reduceSub]; rfl)]
  show id72 _ = _
  unfold id72
  rw [show fieldNat (encode (.ctxNew o)) 0 3 = 0 by simp (disch := decide) only [fieldNat, encode, extract_append_high, extract_append_low, extract_all, Nat.reduceSub]; rfl]
  show some (Instr.ctxNew ⟨_, _, _⟩) = _
  simp (disch := decide) only [encode, extract_append_high, extract_append_low, extract_all, Nat.reduceSub])

theorem ctxRun (o : CBF) : Statement (.ctxRun o) := fun _ => decode_of_identify (by
  rw [identify_at (k := 0x72) (by simp (disch := decide) only [fieldNat, encode, extract_append_high, extract_append_low, extract_all, Nat.reduceSub]; rfl)]
  show id72 _ = _
  unfold id72
  rw [show fieldNat (encode (.ctxRun o)) 0 3 = 1 by simp (disch := decide) only [fieldNat, encode, extract_append_high, extract_append_low, extract_all, Nat.reduceSub]; rfl]
  show some (Instr.ctxRun ⟨_, _, _, _⟩) = _
  simp (disch := decide) only [encode, extract_append_high, extract_append_low, extract_all, Nat.reduceSub])

theorem ctxStop (o : CBF) : Statement (.ctxStop o) := fun _ => decode_of_identify (by
  rw [identify_at (k := 0x72) (by simp (disch := decide) only [fieldNat, encode, extract_append_high, extract_append_low, extract_all, Nat.reduceSub]; rfl)]
  show id72 _ = _
  unfold id72
  rw [show fieldNat (encode (.ctxStop o)) 0 3 = 2 by simp (disch := decide) only [fieldNat, encode, extract_append_high, extract_append_low, extract_all, Nat.reduceSub]; rfl]
  show some (Instr.ctxStop ⟨_, _, _, _⟩) = _
  simp (disch := decide) only [encode, extract_append_high, extract_append_low, extract_all, Nat.reduceSub])

theorem ctxGrant (o : CBF) : Statement (.ctxGrant o) := fun _ => decode_of_identify (by
  rw [identify_at (k := 0x72) (by simp (disch := decide) only [fieldNat, encode, extract_append_high, extract_append_low, extract_all, Nat.reduceSub]; rfl)]
  show id72 _ = _
  unfold id72
  rw [show fieldNat (encode (.ctxGrant o)) 0 3 = 3 by simp (disch := decide) only [fieldNat, encode, extract_append_high, extract_append_low, extract_all, Nat.reduceSub]; rfl]
  show some (Instr.ctxGrant ⟨_, _, _, _⟩) = _
  simp (disch := decide) only [encode, extract_append_high, extract_append_low, extract_all, Nat.reduceSub])

theorem ctxRevoke (o : CBF) : Statement (.ctxRevoke o) := fun _ => decode_of_identify (by
  rw [identify_at (k := 0x72) (by simp (disch := decide) only [fieldNat, encode, extract_append_high, extract_append_low, extract_all, Nat.reduceSub]; rfl)]
  show id72 _ = _
  unfold id72
  rw [show fieldNat (encode (.ctxRevoke o)) 0 3 = 4 by simp (disch := decide) only [fieldNat, encode, extract_append_high, extract_append_low, extract_all, Nat.reduceSub]; rfl]
  show some (Instr.ctxRevoke ⟨_, _, _, _⟩) = _
  simp (disch := decide) only [encode, extract_append_high, extract_append_low, extract_all, Nat.reduceSub])

theorem ctxKill (o : CKF) : Statement (.ctxKill o) := fun _ => decode_of_identify (by
  rw [identify_at (k := 0x72) (by simp (disch := decide) only [fieldNat, encode, extract_append_high, extract_append_low, extract_all, Nat.reduceSub]; rfl)]
  show id72 _ = _
  unfold id72
  rw [show fieldNat (encode (.ctxKill o)) 0 3 = 5 by simp (disch := decide) only [fieldNat, encode, extract_append_high, extract_append_low, extract_all, Nat.reduceSub]; rfl]
  show some (Instr.ctxKill ⟨_, _, _⟩) = _
  simp (disch := decide) only [encode, extract_append_high, extract_append_low, extract_all, Nat.reduceSub])

theorem ctxStat (o : CBF) : Statement (.ctxStat o) := fun _ => decode_of_identify (by
  rw [identify_at (k := 0x72) (by simp (disch := decide) only [fieldNat, encode, extract_append_high, extract_append_low, extract_all, Nat.reduceSub]; rfl)]
  show id72 _ = _
  unfold id72
  rw [show fieldNat (encode (.ctxStat o)) 0 3 = 6 by simp (disch := decide) only [fieldNat, encode, extract_append_high, extract_append_low, extract_all, Nat.reduceSub]; rfl]
  show some (Instr.ctxStat ⟨_, _, _, _⟩) = _
  simp (disch := decide) only [encode, extract_append_high, extract_append_low, extract_all, Nat.reduceSub])

theorem trapret (o : RCF) : Statement (.trapret o) := fun _ => decode_of_identify (by
  rw [identify_at (k := 0x73) (by simp (disch := decide) only [fieldNat, encode, extract_append_high, extract_append_low, extract_all, Nat.reduceSub]; rfl)]
  show some (Instr.trapret ⟨_⟩) = _
  simp (disch := decide) only [encode, extract_append_high, extract_append_low, extract_all, Nat.reduceSub])

theorem tlbinvPage (o : TIF) : Statement (.tlbinvPage o) := fun _ => decode_of_identify (by
  rw [identify_at (k := 0x74) (by simp (disch := decide) only [fieldNat, encode, extract_append_high, extract_append_low, extract_all, Nat.reduceSub]; rfl)]
  show id74 _ = _
  unfold id74
  rw [show fieldNat (encode (.tlbinvPage o)) 8 2 = 0 by simp (disch := decide) only [fieldNat, encode, extract_append_high, extract_append_low, extract_all, Nat.reduceSub]; rfl]
  show some (Instr.tlbinvPage ⟨_, _⟩) = _
  simp (disch := decide) only [encode, extract_append_high, extract_append_low, extract_all, Nat.reduceSub])

theorem tlbinvCtx (o : TIF) : Statement (.tlbinvCtx o) := fun _ => decode_of_identify (by
  rw [identify_at (k := 0x74) (by simp (disch := decide) only [fieldNat, encode, extract_append_high, extract_append_low, extract_all, Nat.reduceSub]; rfl)]
  show id74 _ = _
  unfold id74
  rw [show fieldNat (encode (.tlbinvCtx o)) 8 2 = 1 by simp (disch := decide) only [fieldNat, encode, extract_append_high, extract_append_low, extract_all, Nat.reduceSub]; rfl]
  show some (Instr.tlbinvCtx ⟨_, _⟩) = _
  simp (disch := decide) only [encode, extract_append_high, extract_append_low, extract_all, Nat.reduceSub])

theorem tlbinvSubtree (o : TIF) : Statement (.tlbinvSubtree o) := fun _ => decode_of_identify (by
  rw [identify_at (k := 0x74) (by simp (disch := decide) only [fieldNat, encode, extract_append_high, extract_append_low, extract_all, Nat.reduceSub]; rfl)]
  show id74 _ = _
  unfold id74
  rw [show fieldNat (encode (.tlbinvSubtree o)) 8 2 = 2 by simp (disch := decide) only [fieldNat, encode, extract_append_high, extract_append_low, extract_all, Nat.reduceSub]; rfl]
  show some (Instr.tlbinvSubtree ⟨_, _⟩) = _
  simp (disch := decide) only [encode, extract_append_high, extract_append_low, extract_all, Nat.reduceSub])

theorem frmstat (o : CNF) : Statement (.frmstat o) := fun _ => decode_of_identify (by
  rw [identify_at (k := 0x75) (by simp (disch := decide) only [fieldNat, encode, extract_append_high, extract_append_low, extract_all, Nat.reduceSub]; rfl)]
  show some (Instr.frmstat ⟨_, _, _⟩) = _
  simp (disch := decide) only [encode, extract_append_high, extract_append_low, extract_all, Nat.reduceSub])

theorem guard (o : GDF) : Statement (.guard o) := fun _ => decode_of_identify (by
  rw [identify_at (k := 0x78) (by simp (disch := decide) only [fieldNat, encode, extract_append_high, extract_append_low, extract_all, Nat.reduceSub]; rfl)]
  show some (Instr.guard ⟨_, _, _⟩) = _
  simp (disch := decide) only [encode, extract_append_high, extract_append_low, extract_all, Nat.reduceSub])

theorem block (o : BLF) : Statement (.block o) := fun _ => decode_of_identify (by
  rw [identify_at (k := 0x79) (by simp (disch := decide) only [fieldNat, encode, extract_append_high, extract_append_low, extract_all, Nat.reduceSub]; rfl)]
  show some (Instr.block ⟨_, _, _⟩) = _
  simp (disch := decide) only [encode, extract_append_high, extract_append_low, extract_all, Nat.reduceSub])

theorem mod (o : MDF) : Statement (.mod o) := fun _ => decode_of_identify (by
  rw [identify_at (k := 0x7A) (by simp (disch := decide) only [fieldNat, encode, extract_append_high, extract_append_low, extract_all, Nat.reduceSub]; rfl)]
  show some (Instr.mod ⟨_, _, _, _, _, _, _, _⟩) = _
  simp (disch := decide) only [encode, extract_append_high, extract_append_low, extract_all, Nat.reduceSub])

theorem mxsc (o : MSC) : Statement (.mxsc o) := fun _ => decode_of_identify (by
  rw [identify_at (k := 0x7B) (by simp (disch := decide) only [fieldNat, encode, extract_append_high, extract_append_low, extract_all, Nat.reduceSub]; rfl)]
  show some (Instr.mxsc ⟨_, _⟩) = _
  simp (disch := decide) only [encode, extract_append_high, extract_append_low, extract_all, Nat.reduceSub])

/-- The two high bits of the payload of IMM lie in its major. -/
theorem imm (o : IMF) : Statement (.imm o) := fun _ => decode_of_identify (by
  obtain ⟨h, i⟩ := o
  have hi : fieldNat (encode (.imm ⟨h, i⟩)) 25 7 = 0x7C + h.toNat := by
    have e : (encode (.imm ⟨h, i⟩)).extractLsb' 25 7 = 0x1F#5 ++ h := by
      ext j hj
      simp only [encode, BitVec.getElem_extractLsb', BitVec.getLsbD_append, BitVec.getElem_append]
      grind
    rw [fieldNat, e]; exact (by decide : ∀ h : BitVec 2, (0x1F#5 ++ h).toNat = 0x7C + h.toNat) h
  have hf : ∀ k, identifyIn (0x7C + k) (encode (.imm ⟨h, i⟩)) = some (.imm ⟨h, i⟩) ∨ 4 ≤ k := by
    intro k
    match k with
    | 0 | 1 | 2 | 3 =>
      left
      show some (Instr.imm ⟨_, _⟩) = _
      simp (disch := decide) only [encode, extract_append_high, extract_append_low, extract_all, Nat.reduceSub]
    | k + 4 => right; omega
  rw [identify_at hi]
  exact (hf h.toNat).resolve_right (by have := h.isLt; omega))

theorem illegalWord (w : Word) : Statement (.illegalWord w) := fun h => nomatch h

theorem issueArbitration (core : Nat) (part : Nat) : Statement (.issueArbitration core part) := fun h => nomatch h

theorem runTimeLimit (core : Nat) (part : Nat) : Statement (.runTimeLimit core part) := fun h => nomatch h

theorem pathStarved (gid : Nat) (tid : Nat) : Statement (.pathStarved gid tid) := fun h => nomatch h

theorem longLatencyResult (gid : Nat) (tid : Nat) (id : Nat) (err : Bool) : Statement (.longLatencyResult gid tid id err) := fun h => nomatch h

theorem blockPlace (cx : Nat) (core : Nat) (pick : Nat) : Statement (.blockPlace cx core pick) := fun h => nomatch h

theorem blockRetire (bid : Nat) : Statement (.blockRetire bid) := fun h => nomatch h

theorem gridLeaveQueue (cx : Nat) (q : Nat) : Statement (.gridLeaveQueue cx q) := fun h => nomatch h

theorem hostListRead (cx : Nat) (q : Nat) : Statement (.hostListRead cx q) := fun h => nomatch h

theorem gridComplete (gr : Nat) : Statement (.gridComplete gr) := fun h => nomatch h

theorem gridEnd (gr : Nat) : Statement (.gridEnd gr) := fun h => nomatch h

theorem supervisorStart (cx : Nat) (pick : Nat) : Statement (.supervisorStart cx pick) := fun h => nomatch h

theorem amAdmit (msg : Nat) : Statement (.amAdmit msg) := fun h => nomatch h

theorem amHandlerStart (msg : Nat) (pick : Nat) : Statement (.amHandlerStart msg pick) := fun h => nomatch h

theorem amComplete (msg : Nat) : Statement (.amComplete msg) := fun h => nomatch h

theorem trapDelivery (tr : Nat) : Statement (.trapDelivery tr) := fun h => nomatch h

theorem trapHandlerStart (cx : Nat) (pick : Nat) : Statement (.trapHandlerStart cx pick) := fun h => nomatch h

theorem cocoonSave (gid : Nat) : Statement (.cocoonSave gid) := fun h => nomatch h

theorem cocoonRestore (gid : Nat) (bad : Bool) : Statement (.cocoonRestore gid bad) := fun h => nomatch h

theorem blockSave (bid : Nat) : Statement (.blockSave bid) := fun h => nomatch h

theorem gracefulDeadline (cx : Nat) : Statement (.gracefulDeadline cx) := fun h => nomatch h

theorem sliceExpiry (cx : Nat) : Statement (.sliceExpiry cx) := fun h => nomatch h

theorem vacateComplete (cx : Nat) : Statement (.vacateComplete cx) := fun h => nomatch h

theorem waySweepComplete (cx : Nat) : Statement (.waySweepComplete cx) := fun h => nomatch h

theorem frameScrubStart (b : Nat) (f : Nat) : Statement (.frameScrubStart b f) := fun h => nomatch h

theorem frameScrubComplete (b : Nat) (f : Nat) : Statement (.frameScrubComplete b f) := fun h => nomatch h

theorem cxidRelease (cx : Nat) : Statement (.cxidRelease cx) := fun h => nomatch h

theorem btRecordStart (op : Nat) : Statement (.btRecordStart op) := fun h => nomatch h

theorem btChunkLanded (op : Nat) (chunk : Nat) : Statement (.btChunkLanded op chunk) := fun h => nomatch h

theorem btRecordComplete (op : Nat) : Statement (.btRecordComplete op) := fun h => nomatch h

theorem btRecordFault (op : Nat) : Statement (.btRecordFault op) := fun h => nomatch h

theorem btOperationComplete (op : Nat) : Statement (.btOperationComplete op) := fun h => nomatch h

theorem sequencerStart (core : Nat) (part : Nat) : Statement (.sequencerStart core part) := fun h => nomatch h

theorem matrixStep (core : Nat) (part : Nat) (err : Bool) : Statement (.matrixStep core part err) := fun h => nomatch h

theorem matrixOpComplete (core : Nat) (part : Nat) : Statement (.matrixOpComplete core part) := fun h => nomatch h

theorem rampupDone (core : Nat) (part : Nat) : Statement (.rampupDone core part) := fun h => nomatch h

theorem rampdownStart (core : Nat) (part : Nat) : Statement (.rampdownStart core part) := fun h => nomatch h

theorem rampdownDone (core : Nat) (part : Nat) : Statement (.rampdownDone core part) := fun h => nomatch h

theorem ruAdmit (rid : Nat) : Statement (.ruAdmit rid) := fun h => nomatch h

theorem ruCombine (r1 : Nat) (r2 : Nat) : Statement (.ruCombine r1 r2) := fun h => nomatch h

theorem ruApply (rid : Nat) : Statement (.ruApply rid) := fun h => nomatch h

theorem ropComplete (op : Nat) : Statement (.ropComplete op) := fun h => nomatch h

theorem roprResult (rid : Nat) : Statement (.roprResult rid) := fun h => nomatch h

theorem rdefComplete (id : Nat) : Statement (.rdefComplete id) := fun h => nomatch h

theorem requestAdmission (id : Nat) : Statement (.requestAdmission id) := fun h => nomatch h

theorem sliceRequestAdmit (id : Nat) (hint : Nat) : Statement (.sliceRequestAdmit id hint) := fun h => nomatch h

theorem requestRetry (id : Nat) : Statement (.requestRetry id) := fun h => nomatch h

theorem memoryReply (id : Nat) : Statement (.memoryReply id) := fun h => nomatch h

theorem channelAccess (id : Nat) (bank : Nat) (ecc : Bool) : Statement (.channelAccess id bank ecc) := fun h => nomatch h

theorem hrowWindowEnd (ch : Nat) : Statement (.hrowWindowEnd ch) := fun h => nomatch h

theorem hrowHoldEnd (ch : Nat) (bank : Nat) (cx : Nat) : Statement (.hrowHoldEnd ch bank cx) := fun h => nomatch h

theorem patrolRead (ch : Nat) (atom : Nat) (ecc : Bool) : Statement (.patrolRead ch atom ecc) := fun h => nomatch h

theorem cxlTimeout (id : Nat) : Statement (.cxlTimeout id) := fun h => nomatch h

theorem linkTimeout (id : Nat) : Statement (.linkTimeout id) := fun h => nomatch h

theorem flashEraseComplete (blk : Nat) : Statement (.flashEraseComplete blk) := fun h => nomatch h

theorem fenceComplete (gid : Nat) (tid : Nat) : Statement (.fenceComplete gid tid) := fun h => nomatch h

theorem tlbinvComplete (gid : Nat) (tid : Nat) : Statement (.tlbinvComplete gid tid) := fun h => nomatch h

theorem waitaSatisfied (gid : Nat) (tid : Nat) : Statement (.waitaSatisfied gid tid) := fun h => nomatch h

theorem watchdog (gid : Nat) (tid : Nat) : Statement (.watchdog gid tid) := fun h => nomatch h

theorem debugHoldTimeout : Statement (.debugHoldTimeout) := fun h => nomatch h

theorem l1FusionChange (clu : Nat) : Statement (.l1FusionChange clu) := fun h => nomatch h

theorem flr (vf : Nat) : Statement (.flr vf) := fun h => nomatch h

theorem flrComplete (vf : Nat) : Statement (.flrComplete vf) := fun h => nomatch h

theorem coldReset (img : FwImage) : Statement (.coldReset img) := fun h => nomatch h

theorem recoveryImage (img : FwImage) : Statement (.recoveryImage img) := fun h => nomatch h

theorem thermalThrottle (up : Bool) : Statement (.thermalThrottle up) := fun h => nomatch h

theorem thermalStop : Statement (.thermalStop) := fun h => nomatch h

theorem bridgeFailure : Statement (.bridgeFailure) := fun h => nomatch h

theorem linkUp (port : Nat) (verified : Bool) : Statement (.linkUp port verified) := fun h => nomatch h

theorem linkDown (port : Nat) : Statement (.linkDown port) := fun h => nomatch h

theorem peerRequest (port : Nat) (b : Nat) (off : Nat) (op : PeerOp) (data : List (BitVec 8)) : Statement (.peerRequest port b off op data) := fun h => nomatch h

theorem hostMemoryAccess (b : Nat) (off : Nat) (wr : Bool) (data : DWord) : Statement (.hostMemoryAccess b off wr data) := fun h => nomatch h

theorem ideIntegrityFailure (stream : Nat) : Statement (.ideIntegrityFailure stream) := fun h => nomatch h

theorem qkickWrite (page : HostAt) (q : Nat) (val : DWord) : Statement (.qkickWrite page q val) := fun h => nomatch h

theorem qkickLowWrite (page : HostAt) (q : Nat) (val : Word) : Statement (.qkickLowWrite page q val) := fun h => nomatch h

theorem qkickHighWrite (page : HostAt) (q : Nat) (val : Word) : Statement (.qkickHighWrite page q val) := fun h => nomatch h

theorem sentryWrite (page : HostAt) (val : DWord) : Statement (.sentryWrite page val) := fun h => nomatch h

theorem scfgWrite (page : HostAt) (val : Word) : Statement (.scfgWrite page val) := fun h => nomatch h

theorem vfEnableSet : Statement (.vfEnableSet) := fun h => nomatch h

theorem vfEnableClear : Statement (.vfEnableClear) := fun h => nomatch h

theorem msixUnmask (fn : HostAt) (vec : Nat) : Statement (.msixUnmask fn vec) := fun h => nomatch h

theorem frozenSetWrite (fn : Nat) (off : Nat) (val : Word) : Statement (.frozenSetWrite fn off val) := fun h => nomatch h

theorem registerWrite (fn : HostAt) (bar : Nat) (off : Nat) (val : Word) : Statement (.registerWrite fn bar off val) := fun h => nomatch h

theorem lockInterfaceRequest (vf : Nat) (stream : Nat) (dbg : Bool) : Statement (.lockInterfaceRequest vf stream dbg) := fun h => nomatch h

theorem startInterfaceRequest (vf : Nat) : Statement (.startInterfaceRequest vf) := fun h => nomatch h

theorem stopInterfaceRequest (vf : Nat) : Statement (.stopInterfaceRequest vf) := fun h => nomatch h

theorem getDeviceInterfaceReport (vf : Nat) : Statement (.getDeviceInterfaceReport vf) := fun h => nomatch h

theorem rootCtxNew (rec : List Word) : Statement (.rootCtxNew rec) := fun h => nomatch h

theorem rootCtxRun (child : Nat) (rec : List Word) : Statement (.rootCtxRun child rec) := fun h => nomatch h

theorem rootCtxStop (child : Nat) (kind : Word) (deadline : Word) : Statement (.rootCtxStop child kind deadline) := fun h => nomatch h

theorem rootCtxGrant (child : Nat) (rec : List Word) : Statement (.rootCtxGrant child rec) := fun h => nomatch h

theorem rootCtxRevoke (child : Nat) (rec : List Word) : Statement (.rootCtxRevoke child rec) := fun h => nomatch h

theorem rootCtxKill (child : Nat) : Statement (.rootCtxKill child) := fun h => nomatch h

theorem rootCtxStat (child : Nat) : Statement (.rootCtxStat child) := fun h => nomatch h

theorem trapretCommand (seq : Nat) (pc : DWord) (fin : Bool) : Statement (.trapretCommand seq pc fin) := fun h => nomatch h

theorem writePtroot (val : DWord) : Statement (.writePtroot val) := fun h => nomatch h

theorem writeBufferEntry (idx : Nat) (rec : List Word) : Statement (.writeBufferEntry idx rec) := fun h => nomatch h

theorem writePartitionRecord (i : Nat) (rec : List Word) : Statement (.writePartitionRecord i rec) := fun h => nomatch h

theorem eraseFlashBlocks (first : Nat) (count : Nat) : Statement (.eraseFlashBlocks first count) := fun h => nomatch h

theorem writeHrowCtl (ch : Nat) (val : Word) : Statement (.writeHrowCtl ch val) := fun h => nomatch h

theorem setSaveRegionSize (bytes : Nat) : Statement (.setSaveRegionSize bytes) := fun h => nomatch h

theorem readErrorCounts (sel : Nat) : Statement (.readErrorCounts sel) := fun h => nomatch h

theorem promote : Statement (.promote) := fun h => nomatch h

theorem getAttestationReport : Statement (.getAttestationReport) := fun h => nomatch h

theorem writeIngressEntry (rec : List Word) : Statement (.writeIngressEntry rec) := fun h => nomatch h

theorem attach (c : DbgCmd) : Statement (.attach c) := fun h => nomatch h

theorem detach (c : DbgCmd) : Statement (.detach c) := fun h => nomatch h

theorem halt (c : DbgCmd) : Statement (.halt c) := fun h => nomatch h

theorem resume (c : DbgCmd) : Statement (.resume c) := fun h => nomatch h

theorem step (c : DbgCmd) : Statement (.step c) := fun h => nomatch h

theorem restart (c : DbgCmd) : Statement (.restart c) := fun h => nomatch h

theorem rdreg (c : DbgCmd) : Statement (.rdreg c) := fun h => nomatch h

theorem wrreg (c : DbgCmd) : Statement (.wrreg c) := fun h => nomatch h

theorem rdmem (c : DbgCmd) : Statement (.rdmem c) := fun h => nomatch h

theorem wrmem (c : DbgCmd) : Statement (.wrmem c) := fun h => nomatch h

theorem event (c : DbgCmd) : Statement (.event c) := fun h => nomatch h

theorem spdmAttestationRequest : Statement (.spdmAttestationRequest) := fun h => nomatch h

end Sys2Proof.Laws.RoundTrip
end

