-- ==== Sys2Proof/Tests/Slice0.lean ====
section
/-! SUPPORT. Tests: words written out from their encodings, ill-formed terms that the check refuses, and for the
statements concrete states and operands that meet their hypotheses. The words come from the opcode table of spec/, the
numbers from the rules each test names. -/

open Sys2Proof Sys2Proof.Machine

namespace Sys2Proof.Tests

set_option Elab.async false

/-! ## Words -/

/-- Words that spec/ writes out for the instructions it spells (examples of chapters 7 to 12, 16 and 17). -/
theorem test_spelled_words : decode 0xF20B8000 = .block ⟨1, 3, 1⟩ ∧ decode 0x461000A0 = .ffma ⟨0, 16, 0, 40, 0, 0⟩ ∧
    decode 0x32033F80 = .movhi ⟨0, 3, 0x3F80⟩ ∧ decode 0x3C2F0408 = .fsetp ⟨0, 5, 7, 2, 2, 0, 0⟩ ∧
    decode 0x640C202A = .cvt ⟨0, 12, 16, 0, 5, 0, 2⟩ ∧ decode 0x6A020208 = .srd ⟨0, 2, 1⟩ ∧
    decode 0xAE050818 = .gredAdd ⟨0, 5, 4, 0, 0⟩ ∧ decode 0xF6288000 = .mxsc ⟨40, 2⟩ ∧ decode 0xC4040000 = .mstr ⟨0, 4, 0⟩ ∧
    decode 0xC00800E1 = .mma ⟨0, 8, 0, 7, 0, 0, 1⟩ ∧ decode 0xC21009AA = .mloop ⟨0, 16, 2, 13, 2, 1, 0⟩ ∧
    decode 0xC6000800 = .aclr ⟨0, 2, 0⟩ ∧ decode 0xC808080C = .aread ⟨0, 8, 2, 0, 3⟩ ∧ decode 0xCA080908 = .awrite ⟨0, 8, 2, 16, 2⟩ ∧
    decode 0xCC040880 = .ast ⟨0, 4, 2, 1⟩ ∧ decode 0xCE060C00 = .ald ⟨0, 6, 3, 0⟩ ∧ decode 0xD0000040 = .mburst ⟨0, 64⟩ := by decide

theorem test_more_spelled_words : decode 0xB2141140 = .rop ⟨0, 5, 2, 10⟩ ∧ decode 0xB41C4140 = .ropr ⟨0, 7, 8, 10⟩ ∧
    decode 0xB6002900 = .btxStart ⟨0, 10, 1⟩ ∧ decode 0xB6050101 = .btxStat ⟨0, 5, 1⟩ ∧ decode 0xB8080000 = .tcopy ⟨0, 8, 0⟩ ∧
    decode 0xBA100860 = .amtest ⟨0, 2, 2, 24⟩ ∧ decode 0xBC0A3031 = .amh ⟨0, 10, 3, 12⟩ ∧ decode 0xBC0A3030 = .amsg ⟨0, 10, 3, 12⟩ ∧
    decode 0xBE032850 = .launch ⟨0, 3, 10, 5⟩ ∧ decode 0xE0030020 = .csrr ⟨0, 3, 2⟩ ∧ decode 0xE2030020 = .csrw ⟨0, 3, 2⟩ ∧
    decode 0xE6000000 = .trapret ⟨0⟩ ∧ decode 0xEA042800 = .frmstat ⟨0, 4, 10⟩ ∧ decode 0xE8002800 = .tlbinvPage ⟨0, 10⟩ ∧
    decode 0xE5042800 = .ctxNew ⟨2, 4, 10⟩ ∧ decode 0xF4002600 = .mod ⟨0, 0, 0, 0, 0, 1, 1, 4⟩ ∧
    decode 0x4C070A18 = .fminFmax ⟨0, 7, 5, 6, 0, 0⟩ ∧ decode 0x74000000 = .nop ⟨0⟩ ∧
    decode 0x6C000000 = .illegalWord 0x6C000000 := by decide

theorem test_words0 : decode 0x00B2A618 = .iadd ⟨1, 50, 83, 6, 0, 0⟩ ∧
    decode 0x028416DC = .isub ⟨1, 4, 11, 55, 0, 0⟩ ∧
    decode 0x0587D320 = .imul ⟨3, 7, 105, 72, 0, 0⟩ ∧
    decode 0x0786F871 = .imulhI32 ⟨3, 6, 124, 28, 0, 1⟩ ∧
    decode 0x08494F1C = .imulhN32 ⟨0, 73, 39, 71, 0, 0⟩ ∧
    decode 0x0A46B620 = .imad ⟨0, 70, 91, 8, 0, 0⟩ ∧
    decode 0x0DE350EF = .iminImaxI32 ⟨3, 99, 40, 59, 1, 1⟩ ∧
    decode 0x0ED9C67F = .iminImaxN32 ⟨1, 89, 99, 31, 1, 1⟩ ∧
    decode 0x115D7291 = .and ⟨2, 93, 57, 36, 0, 1⟩ ∧
    decode 0x1313EEF8 = .or ⟨2, 19, 119, 62, 0, 0⟩ ∧
    decode 0x152BB0B3 = .xor ⟨2, 43, 88, 44, 1, 1⟩ ∧
    decode 0x167844F1 = .andn ⟨0, 120, 34, 60, 0, 1⟩ := by decide

theorem test_words1 : decode 0x19A4B6C7 = .iadd64 ⟨3, 36, 91, 49, 1, 1⟩ ∧
    decode 0x1ACE1CFD = .isub64 ⟨1, 78, 14, 63, 0, 1⟩ ∧
    decode 0x1CB265D6 = .bfx ⟨1, 50, 50, 117, 1, 0⟩ ∧
    decode 0x1FC647C7 = .bfi ⟨3, 70, 35, 113, 1, 1⟩ ∧
    decode 0x21FE5A15 = .shlImm ⟨3, 126, 45, 21⟩ ∧
    decode 0x21FA3B16 = .shlReg ⟨3, 122, 29, 0, 22⟩ ∧
    decode 0x22D43A00 = .shrImm ⟨1, 84, 29, 0⟩ ∧
    decode 0x22A14935 = .shrReg ⟨1, 33, 36, 0, 53⟩ ∧
    decode 0x254E900A = .sarImm ⟨2, 78, 72, 10⟩ ∧
    decode 0x24D8DB3A = .sarReg ⟨1, 88, 109, 0, 58⟩ ∧
    decode 0x27B2660C = .rotlImm ⟨3, 50, 51, 12⟩ ∧
    decode 0x27D16708 = .rotlReg ⟨3, 81, 51, 0, 8⟩ := by decide

theorem test_words2 : decode 0x28B82838 = .iaddImm ⟨1, 56, 20, 56⟩ ∧
    decode 0x2A0D0122 = .andImm ⟨0, 13, 0, 290⟩ ∧
    decode 0x2C795D3A = .orImm ⟨0, 121, 46, 314⟩ ∧
    decode 0x2E6F353A = .xorImm ⟨0, 111, 26, 314⟩ ∧
    decode 0x30D14093 = .movi ⟨1, 81, 16531⟩ ∧
    decode 0x334D5D39 = .movhi ⟨2, 77, 23865⟩ ∧
    decode 0x340ED953 = .lea ⟨0, 14, 55635⟩ ∧
    decode 0x39BB4E29 = .isetpI32 ⟨3, 7, 3, 39, 10, 0, 1⟩ ∧
    decode 0x3B3EB051 = .isetpN32 ⟨2, 7, 6, 88, 20, 0, 1⟩ ∧
    decode 0x3C644DF5 = .fsetp ⟨0, 12, 4, 38, 125, 0, 1⟩ ∧
    decode 0x3F0E2450 = .plop ⟨2, 14, 2, 0, 8, 1, 1⟩ ∧
    decode 0x3E9CE000 = .ppack ⟨1, 103⟩ := by decide

theorem test_words3 : decode 0x3FABC000 = .punpk ⟨3, 94, 0⟩ ∧
    decode 0x3FB57E07 = .cmov ⟨3, 5, 0, 126, 3, 1⟩ ∧
    decode 0x4118B137 = .fadd ⟨2, 24, 88, 77, 1, 1⟩ ∧
    decode 0x430A3837 = .fsub ⟨2, 10, 28, 13, 1, 1⟩ ∧
    decode 0x45CFFDCD = .fmul ⟨3, 79, 126, 115, 0, 1⟩ ∧
    decode 0x466AA83E = .ffma ⟨0, 106, 84, 15, 1, 0⟩ ∧
    decode 0x48B7CB45 = .ffms ⟨1, 55, 101, 81, 0, 1⟩ ∧
    decode 0x4BDFF228 = .fnfma ⟨3, 95, 121, 10, 0, 0⟩ ∧
    decode 0x4CCBE6ED = .fminFmax ⟨1, 75, 115, 59, 0, 1⟩ ∧
    decode 0x4F138D18 = .fscb ⟨2, 19, 70, 70, 0, 0⟩ ∧
    decode 0x50B7FDBD = .hadd2Bf16 ⟨1, 55, 126, 111, 0, 1⟩ ∧
    decode 0x53403D87 = .hadd2F16 ⟨2, 64, 30, 97, 1, 1⟩ := by decide

theorem test_words4 : decode 0x5487E97B = .hmul2Bf16 ⟨1, 7, 116, 94, 1, 1⟩ ∧
    decode 0x56C4270D = .hmul2F16 ⟨1, 68, 19, 67, 0, 1⟩ ∧
    decode 0x58CD018C = .hfma2Bf16 ⟨1, 77, 0, 99, 0, 0⟩ ∧
    decode 0x5A470EA6 = .hfma2F16 ⟨0, 71, 7, 41, 1, 0⟩ ∧
    decode 0x5C1F308D = .hmin2Hmax2Bf16 ⟨0, 31, 24, 35, 0, 1⟩ ∧
    decode 0x5E61E5D2 = .hmin2Hmax2F16 ⟨0, 97, 114, 116, 1, 0⟩ ∧
    decode 0x61398204 = .not ⟨2, 57, 65, 1⟩ ∧
    decode 0x60D9840C = .neg ⟨1, 89, 66, 1⟩ ∧
    decode 0x60EB7214 = .iabs ⟨1, 107, 57, 1⟩ ∧
    decode 0x61B85018 = .popc ⟨3, 56, 40, 0⟩ ∧
    decode 0x601BAA20 = .clz ⟨0, 27, 85, 0⟩ ∧
    decode 0x60F8B62C = .brev ⟨1, 120, 91, 1⟩ := by decide

theorem test_words5 : decode 0x61712234 = .sext8 ⟨2, 113, 17, 1⟩ ∧
    decode 0x6032E238 = .sext16 ⟨0, 50, 113, 0⟩ ∧
    decode 0x6094B444 = .zext8 ⟨1, 20, 90, 1⟩ ∧
    decode 0x61995A48 = .zext16 ⟨3, 25, 45, 0⟩ ∧
    decode 0x63025604 = .fneg ⟨2, 2, 43, 1⟩ ∧
    decode 0x6231540C = .fabs ⟨0, 49, 42, 1⟩ ∧
    decode 0x620EFC10 = .frint ⟨0, 14, 126, 0, 0⟩ ∧
    decode 0x63220A18 = .fexpx ⟨2, 34, 5, 0⟩ ∧
    decode 0x64E86DBD = .cvt ⟨1, 104, 54, 6, 7, 1, 1⟩ ∧
    decode 0x67D95204 = .rcpe ⟨3, 89, 41, 1⟩ ∧
    decode 0x66B6E40C = .rsqe ⟨1, 54, 114, 1⟩ ∧
    decode 0x66511614 = .ex2e ⟨0, 81, 11, 1⟩ := by decide

theorem test_words6 : decode 0x66884218 = .lg2e ⟨1, 8, 33, 0⟩ ∧
    decode 0x662BFE24 = .sinpe ⟨0, 43, 127, 1⟩ ∧
    decode 0x674F2028 = .cospe ⟨2, 79, 16, 0⟩ ∧
    decode 0x667C2830 = .tanhe ⟨0, 124, 20, 0⟩ ∧
    decode 0x68F74E05 = .bxq ⟨1, 119, 39, 1, 1⟩ ∧
    decode 0x69C0AC0C = .bxd ⟨3, 64, 86, 1, 0⟩ ∧
    decode 0x6B040200 = .mov ⟨2, 4, 1, 0⟩ ∧
    decode 0x6B9F7608 = .srd ⟨3, 31, 59⟩ ∧
    decode 0x6A0CA814 = .swr ⟨0, 84, 1⟩ ∧
    decode 0x6BC50C18 = .mskr ⟨3, 69, 6⟩ ∧
    decode 0x6B878020 = .mskw ⟨3, 7, 64, 0⟩ ∧
    decode 0x6A850228 = .mskp ⟨1, 5, 1⟩ := by decide

theorem test_words7 : decode 0x6A831E30 = .pmsk ⟨1, 3, 15⟩ ∧
    decode 0x7068486B = .br ⟨0, 13, 0, 18539⟩ ∧
    decode 0x73305683 = .call ⟨2, 6, 0, 22147⟩ ∧
    decode 0x75800000 = .nop ⟨3⟩ ∧
    decode 0x75000008 = .exit ⟨2⟩ ∧
    decode 0x74800010 = .ret ⟨1⟩ ∧
    decode 0x75000A18 = .jidx ⟨2, 5, 0⟩ ∧
    decode 0x75000020 = .brk ⟨2⟩ ∧
    decode 0x76004363 = .trap ⟨0, 17251⟩ ∧
    decode 0x79070000 = .jenr ⟨2, 7⟩ ∧
    decode 0x79010008 = .jwait ⟨2, 1⟩ ∧
    decode 0x811B5A5E = .ldB ⟨2, 27, 45, 23, 2⟩ := by decide

theorem test_words8 : decode 0x823C4701 = .ldH ⟨0, 60, 35, 64, 1⟩ ∧
    decode 0x840B43A1 = .ldW ⟨0, 11, 33, 104, 1⟩ ∧
    decode 0x86320499 = .ldD ⟨0, 50, 2, 38, 1⟩ ∧
    decode 0x88D4E56F = .ldQ ⟨1, 84, 114, 91, 3⟩ ∧
    decode 0x8B5CFCFE = .stB ⟨2, 92, 126, 63, 2⟩ ∧
    decode 0x8C85D3AB = .stH ⟨1, 5, 105, 106, 3⟩ ∧
    decode 0x8EF48780 = .stW ⟨1, 116, 67, 96, 0⟩ ∧
    decode 0x908A0616 = .stD ⟨1, 10, 3, 5, 2⟩ ∧
    decode 0x9230D4E4 = .stQ ⟨0, 48, 106, 57, 0⟩ ∧
    decode 0x9450894F = .lds ⟨0, 80, 68, 5, 15⟩ ∧
    decode 0x97007584 = .sts ⟨2, 0, 58, 6, 4⟩ ∧
    decode 0x98548634 = .ldp ⟨0, 84, 67, 0, 3, 4⟩ := by decide

theorem test_words9 : decode 0x9A6C4253 = .stp ⟨0, 108, 33, 1, 1, 3⟩ ∧
    decode 0x9DBFD8C0 = .tld ⟨3, 63, 108, 48⟩ ∧
    decode 0x9DF4AE92 = .tst ⟨3, 116, 87, 36⟩ ∧
    decode 0x9E009D40 = .prfL1 ⟨0, 78, 80⟩ ∧
    decode 0x9E811330 = .prfL2 ⟨1, 9, 76⟩ ∧
    decode 0x9F02414C = .cctlInv1 ⟨2, 32, 83⟩ ∧
    decode 0x9F030000 = .cctlInva ⟨2⟩ ∧
    decode 0x9E8402F4 = .cctlWb ⟨1, 1, 61⟩ ∧
    decode 0x9F8545F0 = .cctlWbi ⟨3, 34, 124⟩ ∧
    decode 0xA058355A = .atomAdd ⟨0, 88, 13, 86, 2⟩ ∧
    decode 0xA33B74EC = .atomMin ⟨2, 59, 29, 59, 0⟩ ∧
    decode 0xA4A7F82B = .atomMax ⟨1, 39, 62, 10, 3⟩ := by decide

theorem test_words10 : decode 0xA73A13FC = .atomAnd ⟨2, 58, 4, 1, 127⟩ ∧
    decode 0xA79AE825 = .atomOr ⟨3, 26, 58, 0, 9⟩ ∧
    decode 0xA612BFE6 = .atomXor ⟨0, 18, 47, 1, 121⟩ ∧
    decode 0xA6CDD3C7 = .atomXchg ⟨1, 77, 52, 1, 113⟩ ∧
    decode 0xA91D7DC9 = .atomCas ⟨2, 29, 31, 114, 1⟩ ∧
    decode 0xA81C7F5C = .stm ⟨0, 0, 7, 31, 87⟩ ∧
    decode 0xAB82A000 = .fence ⟨3, 2, 5⟩ ∧
    decode 0xAB8CD719 = .wait ⟨3, 1, 0, 55065⟩ ∧
    decode 0xAA171DE0 = .waita ⟨0, 1, 3, 7, 120⟩ ∧
    decode 0xAA98000B = .bar ⟨1, 11⟩ ∧
    decode 0xAB200040 = .barPe ⟨2, 64⟩ ∧
    decode 0xAA280006 = .bara ⟨0, 6⟩ := by decide

theorem test_words11 : decode 0xAA300005 = .barw ⟨0, 5⟩ ∧
    decode 0xABB80000 = .cbar ⟨3⟩ ∧
    decode 0xAB400000 = .rgn ⟨2⟩ ∧
    decode 0xAA484600 = .rgncnt ⟨0, 35⟩ ∧
    decode 0xAC6AA891 = .shfl ⟨0, 106, 84, 36, 1⟩ ∧
    decode 0xAF061000 = .voteAny ⟨2, 6, 8⟩ ∧
    decode 0xAE8C0A08 = .voteAll ⟨1, 12, 5⟩ ∧
    decode 0xAFF10010 = .voteBallot ⟨3, 113, 0⟩ ∧
    decode 0xAFF4E018 = .gredAdd ⟨3, 116, 112, 0, 0⟩ ∧
    decode 0xAFB99C22 = .gredMin ⟨3, 57, 78, 0, 2⟩ ∧
    decode 0xAE74EC2B = .gredMax ⟨0, 116, 118, 0, 3⟩ ∧
    decode 0xB1244D00 = .rdef ⟨2, 36, 19, 8⟩ := by decide

theorem test_words12 : decode 0xB33299E0 = .rop ⟨2, 12, 83, 15⟩ ∧
    decode 0xB5C6AB20 = .ropr ⟨3, 17, 85, 25⟩ ∧
    decode 0xB680A400 = .btxStart ⟨1, 41, 0⟩ ∧
    decode 0xB7C60301 = .btxStat ⟨3, 70, 3⟩ ∧
    decode 0xB97F0300 = .tcopy ⟨2, 127, 3⟩ ∧
    decode 0xBAC0307C = .amtest ⟨1, 8, 12, 31⟩ ∧
    decode 0xBCAB802C = .amsg ⟨1, 43, 8, 11⟩ ∧
    decode 0xBCAF419D = .amh ⟨1, 47, 4, 103⟩ ∧
    decode 0xBEF106F0 = .launch ⟨1, 113, 1, 47⟩ ∧
    decode 0xC1B16AF3 = .mma ⟨3, 49, 26, 23, 4, 1, 1⟩ ∧
    decode 0xC23F465C = .mloop ⟨0, 63, 17, 18, 7, 0, 0⟩ ∧
    decode 0xC5720001 = .mstr ⟨2, 114, 1⟩ := by decide

theorem test_words13 : decode 0xC7806E00 = .aclr ⟨3, 27, 2⟩ ∧
    decode 0xC81009BC = .aread ⟨0, 16, 2, 27, 3⟩ ∧
    decode 0xCB80119C = .awrite ⟨3, 0, 4, 25, 3⟩ ∧
    decode 0xCD9FC800 = .ast ⟨3, 31, 50, 0⟩ ∧
    decode 0xCE938780 = .ald ⟨1, 19, 33, 7⟩ ∧
    decode 0xD000F105 = .mburst ⟨0, 61701⟩ ∧
    decode 0xE18A8D20 = .csrr ⟨3, 10, 2258⟩ ∧
    decode 0xE200C840 = .csrw ⟨0, 0, 3204⟩ ∧
    decode 0xE4C8E800 = .ctxNew ⟨1, 72, 58⟩ ∧
    decode 0xE57B2281 = .ctxRun ⟨2, 123, 8, 80⟩ ∧
    decode 0xE5D9C072 = .ctxStop ⟨3, 89, 48, 14⟩ ∧
    decode 0xE42687C3 = .ctxGrant ⟨0, 38, 33, 120⟩ := by decide

theorem test_words14 : decode 0xE4B140E4 = .ctxRevoke ⟨1, 49, 16, 28⟩ ∧
    decode 0xE4010225 = .ctxKill ⟨0, 1, 68⟩ ∧
    decode 0xE5A3F546 = .ctxStat ⟨3, 35, 61, 40⟩ ∧
    decode 0xE6800000 = .trapret ⟨1⟩ ∧
    decode 0xE8808C00 = .tlbinvPage ⟨1, 35⟩ ∧
    decode 0xE800F500 = .tlbinvCtx ⟨0, 61⟩ ∧
    decode 0xE9000E00 = .tlbinvSubtree ⟨2, 3⟩ ∧
    decode 0xEABFE000 = .frmstat ⟨1, 63, 56⟩ ∧
    decode 0xF0540000 = .guard ⟨10, 1, 0⟩ ∧
    decode 0xF2218000 = .block ⟨4, 1, 1⟩ ∧
    decode 0xF471E400 = .mod ⟨7, 0, 0, 1, 3, 1, 1, 0⟩ ∧
    decode 0xF6660000 = .mxsc ⟨102, 0⟩ := by decide

theorem test_words15 : decode 0xFE7C2454 = .imm ⟨3, 8135764⟩ := by decide


/-! ## Ill-formed instructions: one for each check of WellFormed -/

theorem test_fields_refused : ∀ i ∈ [Instr.isetpI32 ⟨0, 0, 6, 0, 0, 0, 0⟩, .plop ⟨0, 0, 0, 0, 0, 0, 3⟩, .cvt ⟨0, 0, 0, 1, 1, 0, 0⟩,
    .cvt ⟨0, 0, 0, 7, 1, 0, 0⟩, .cvt ⟨0, 0, 0, 0, 1, 0, 3⟩, .srd ⟨0, 0, 0x0D⟩, .stW ⟨0, 0, 0, 0, 2⟩, .lds ⟨0, 0, 0, 5, 0⟩,
    .stm ⟨0, 1, 0, 63, 0⟩, .fence ⟨0, 0, 0⟩, .fence ⟨0, 1, 6⟩, .gredAdd ⟨0, 0, 0, 0, 3⟩, .mma ⟨0, 0, 0, 23, 0, 0, 0⟩,
    .mloop ⟨0, 0, 0, 0, 5, 0, 0⟩, .aclr ⟨0, 0, 3⟩, .aread ⟨0, 0, 0, 63, 1⟩, .ast ⟨0, 0, 0, 5⟩, .block ⟨12, 0, 0⟩,
    .mod ⟨0, 0, 0, 0, 0, 0, 0, 0⟩, .mod ⟨5, 0, 0, 0, 0, 0, 0, 0⟩, .mod ⟨0, 0, 3, 0, 0, 0, 0, 0⟩], i.fieldsOk = false ∧ i.wf = false := by
  decide

theorem test_predicate_refused : (Instr.plop ⟨0, 12, 0, 0, 0, 0, 0⟩).wf = false ∧ (Instr.plop ⟨0, 15, 11, 0, 0, 0, 0⟩).wf = true := by decide

theorem test_registers_refused : (Instr.iadd64 ⟨0, 1, 0, 0, 0, 0⟩).wf = false ∧ (Instr.mma ⟨0, 96, 0, 11, 0, 0, 0⟩).wf = false ∧
    (Instr.iadd ⟨0, 0, 96, 0, 1, 0⟩).wf = false ∧ (Instr.tcopy ⟨0, 124, 0⟩).wf = false ∧ (Instr.iadd ⟨0, 127, 96, 0, 0, 0⟩).wf = true := by decide

/-! ## Helpers -/

/-- A program of the root at its first word. -/
def probe : State := { layProgram State.reset [] with agenda := [] }

/-- The probe's program with further v registers of all its threads. -/
def withV (xs : List (Nat × Word)) : State :=
  { probe with groups := probe.groups.map fun g => { g with threads := g.threads.map fun th => { th with v := xs ++ th.v } } }

/-- The probe's program in a guard range that leaves no lane active. -/
def quiet : State := { probe with groups := probe.groups.map fun g =>
  { g with threads := g.threads.map fun th => { th with guard := some ⟨0, false, 2, false⟩ } } }

/-- The probe's program after a GUARD word for one unit whose predicate no lane has. -/
def guarded : State := { probe with runs := probe.runs.map fun r => { r with pfx := { guard := some ⟨0, 0, 0⟩ }, off := 1 } }

/-- Whether the unit in progress ends with i, every decoding check passed, and meets `ok`. -/
def meets (s : State) (i : Instr) (ok : Issue → Bool) : Bool := match s.issue? with
  | some u => (illegal i u s).isNone && ok u
  | none => false

theorem meets_spec {s : State} {i : Instr} {ok : Issue → Bool} (h : meets s i ok = true) :
    ∃ u, Issues i u s ∧ ok u = true := by
  unfold meets at h
  split at h
  · next u hu =>
    rw [Bool.and_eq_true, Option.isNone_iff_eq_none] at h
    exact ⟨u, ⟨hu, h.1⟩, h.2⟩
  · cases h

theorem issues_spec {s : State} {is : List Instr} (h : (is.all fun i => meets s i fun _ => true) = true) :
    ∀ i ∈ is, ∃ u, Issues i u s := fun i hi =>
  have ⟨u, h, _⟩ := meets_spec (List.all_eq_true.1 h i hi)
  ⟨u, h⟩

/-! ## Units that issue: the hypotheses of the statements about one instruction -/

theorem test_issue_integerArithmetic : ∀ i ∈ [.iadd ⟨0, 0, 0, 0, 0, 0⟩, .isub ⟨0, 0, 0, 0, 0, 0⟩, .imul ⟨0, 0, 0, 0,
    0, 0⟩, .imulhI32 ⟨0, 0, 0, 0, 0, 0⟩, .imulhN32 ⟨0, 0, 0, 0, 0, 0⟩, .imad ⟨0, 0, 0, 0, 0, 0⟩, .and ⟨0, 0, 0, 0, 0,
    0⟩, .or ⟨0, 0, 0, 0, 0, 0⟩, .xor ⟨0, 0, 0, 0, 0, 0⟩, .andn ⟨0, 0, 0, 0, 0, 0⟩], ∃ u, Issues i u probe :=
  issues_spec (by decide +kernel)

theorem test_issue_integerPairAndField : ∀ i ∈ [.iminImaxI32 ⟨0, 0, 0, 0, 0, 0⟩, .iminImaxN32 ⟨0, 0, 0, 0, 0, 0⟩,
    .iadd64 ⟨0, 0, 0, 0, 0, 0⟩, .isub64 ⟨0, 0, 0, 0, 0, 0⟩, .bfx ⟨0, 0, 0, 0, 0, 0⟩, .bfi ⟨0, 0, 0, 0, 0, 0⟩], ∃ u,
    Issues i u probe :=
  issues_spec (by decide +kernel)

theorem test_issue_shiftAndImmediate : ∀ i ∈ [.shlImm ⟨0, 0, 0, 0⟩, .shrImm ⟨0, 0, 0, 0⟩, .sarImm ⟨0, 0, 0, 0⟩,
    .rotlImm ⟨0, 0, 0, 0⟩, .shlReg ⟨0, 0, 0, 0, 0⟩, .shrReg ⟨0, 0, 0, 0, 0⟩, .sarReg ⟨0, 0, 0, 0, 0⟩, .rotlReg ⟨0, 0,
    0, 0, 0⟩, .iaddImm ⟨0, 0, 0, 0⟩, .andImm ⟨0, 0, 0, 0⟩, .orImm ⟨0, 0, 0, 0⟩, .xorImm ⟨0, 0, 0, 0⟩, .movi ⟨0, 0, 0⟩,
    .movhi ⟨0, 0, 0⟩, .lea ⟨0, 0, 0⟩], ∃ u, Issues i u probe :=
  issues_spec (by decide +kernel)

theorem test_issue_integerUnary : ∀ i ∈ [.not ⟨0, 0, 0, 0⟩, .neg ⟨0, 0, 0, 0⟩, .iabs ⟨0, 0, 0, 0⟩, .popc ⟨0, 0, 0, 0⟩,
    .clz ⟨0, 0, 0, 0⟩, .brev ⟨0, 0, 0, 0⟩, .sext8 ⟨0, 0, 0, 0⟩, .sext16 ⟨0, 0, 0, 0⟩, .zext8 ⟨0, 0, 0, 0⟩, .zext16 ⟨0,
    0, 0, 0⟩, .mov ⟨0, 0, 0, 0⟩], ∃ u, Issues i u probe :=
  issues_spec (by decide +kernel)

theorem test_issue_float32 : ∀ i ∈ [.fadd ⟨0, 0, 0, 0, 0, 0⟩, .fsub ⟨0, 0, 0, 0, 0, 0⟩, .fmul ⟨0, 0, 0, 0, 0, 0⟩,
    .ffma ⟨0, 0, 0, 0, 0, 0⟩, .ffms ⟨0, 0, 0, 0, 0, 0⟩, .fnfma ⟨0, 0, 0, 0, 0, 0⟩, .fminFmax ⟨0, 0, 0, 0, 0, 0⟩, .fscb
    ⟨0, 0, 0, 0, 0, 0⟩], ∃ u, Issues i u probe :=
  issues_spec (by decide +kernel)

theorem test_issue_packed : ∀ i ∈ [.hadd2Bf16 ⟨0, 0, 0, 0, 0, 0⟩, .hadd2F16 ⟨0, 0, 0, 0, 0, 0⟩, .hmul2Bf16 ⟨0, 0, 0,
    0, 0, 0⟩, .hmul2F16 ⟨0, 0, 0, 0, 0, 0⟩, .hfma2Bf16 ⟨0, 0, 0, 0, 0, 0⟩, .hfma2F16 ⟨0, 0, 0, 0, 0, 0⟩,
    .hmin2Hmax2Bf16 ⟨0, 0, 0, 0, 0, 0⟩, .hmin2Hmax2F16 ⟨0, 0, 0, 0, 0, 0⟩], ∃ u, Issues i u probe :=
  issues_spec (by decide +kernel)

theorem test_issue_floatUnary : ∀ i ∈ [.fneg ⟨0, 0, 0, 0⟩, .fabs ⟨0, 0, 0, 0⟩, .fexpx ⟨0, 0, 0, 0⟩, .frint ⟨0, 0, 0,
    0, 0⟩, .bxq ⟨0, 0, 0, 0, 0⟩, .bxd ⟨0, 0, 0, 0, 0⟩, .cvt ⟨0, 0, 0, 0, 1, 0, 0⟩], ∃ u, Issues i u probe :=
  issues_spec (by decide +kernel)

theorem test_issue_compare : ∀ i ∈ [.isetpI32 ⟨0, 0, 0, 0, 0, 0, 0⟩, .isetpN32 ⟨0, 0, 0, 0, 0, 0, 0⟩, .fsetp ⟨0, 0, 0,
    0, 0, 0, 0⟩, .plop ⟨0, 0, 0, 0, 0, 0, 0⟩], ∃ u, Issues i u probe :=
  issues_spec (by decide +kernel)

theorem test_issue_predicateAndMove : ∀ i ∈ [.ppack ⟨0, 0⟩, .cmov ⟨0, 0, 0, 0, 0, 0⟩, .punpk ⟨0, 0, 0⟩, .swr ⟨0, 0,
    0⟩, .mskp ⟨0, 0, 0⟩, .voteAny ⟨0, 0, 0⟩, .voteAll ⟨0, 0, 0⟩], ∃ u, Issues i u probe :=
  issues_spec (by decide +kernel)

theorem test_issue_groupReads : ∀ i ∈ [.srd ⟨0, 0, 0⟩, .mskr ⟨0, 0, 0⟩, .voteBallot ⟨0, 0, 0⟩, .shfl ⟨0, 0, 0, 0, 0⟩,
    .rgncnt ⟨0, 0⟩, .btxStat ⟨0, 0, 0⟩, .gredAdd ⟨0, 0, 0, 0, 0⟩, .gredMin ⟨0, 0, 0, 0, 0⟩, .gredMax ⟨0, 0, 0, 0, 0⟩],
    ∃ u, Issues i u probe :=
  issues_spec (by decide +kernel)

theorem test_issue_estimates : ∀ i ∈ [.rcpe ⟨0, 0, 0, 0⟩, .rsqe ⟨0, 0, 0, 0⟩, .ex2e ⟨0, 0, 0, 0⟩, .lg2e ⟨0, 0, 0, 0⟩,
    .sinpe ⟨0, 0, 0, 0⟩, .cospe ⟨0, 0, 0, 0⟩, .tanhe ⟨0, 0, 0, 0⟩], ∃ u, Issues i u probe :=
  issues_spec (by decide +kernel)

theorem test_issue_waits : ∀ i ∈ [.jenr ⟨0, 0⟩, .jwait ⟨0, 0⟩, .mskw ⟨0, 0, 0, 0⟩, .pmsk ⟨0, 0, 0⟩, .exit ⟨0⟩, .rgn
    ⟨0⟩, .fence ⟨0, 3, 4⟩, .wait ⟨0, 0, 0, 0⟩, .waita ⟨0, 0, 0, 0, 0⟩, .bar ⟨0, 0⟩, .bara ⟨0, 0⟩, .barw ⟨0, 0⟩, .barPe
    ⟨0, 0⟩, .cbar ⟨0⟩], ∃ u, Issues i u probe :=
  issues_spec (by decide +kernel)

theorem test_issue_transfers : ∀ i ∈ [.br ⟨0, 0, 0, 0⟩, .call ⟨0, 0, 0, 0⟩, .nop ⟨0⟩, .ret ⟨0⟩, .jidx ⟨0, 0, 0⟩, .trap
    ⟨0, 0⟩, .brk ⟨0⟩, .ldB ⟨0, 0, 0, 0, 0⟩, .ldH ⟨0, 0, 0, 0, 0⟩, .ldW ⟨0, 0, 0, 0, 0⟩, .ldD ⟨0, 0, 0, 0, 0⟩, .ldQ ⟨0,
    0, 0, 0, 0⟩, .lds ⟨0, 0, 0, 0, 0⟩, .ldp ⟨0, 0, 0, 0, 0, 0⟩, .stB ⟨0, 0, 0, 0, 0⟩, .stH ⟨0, 0, 0, 0, 0⟩, .stW ⟨0,
    0, 0, 0, 0⟩, .stD ⟨0, 0, 0, 0, 0⟩, .stQ ⟨0, 0, 0, 0, 0⟩, .sts ⟨0, 0, 0, 0, 0⟩, .stp ⟨0, 0, 0, 0, 0, 0⟩, .tld ⟨0,
    0, 0, 0⟩, .tst ⟨0, 0, 0, 0⟩, .stm ⟨0, 0, 0, 0, 0⟩], ∃ u, Issues i u probe :=
  issues_spec (by decide +kernel)

theorem test_issue_caches : ∀ i ∈ [.prfL1 ⟨0, 0, 0⟩, .prfL2 ⟨0, 0, 0⟩, .cctlInv1 ⟨0, 0, 0⟩, .cctlWb ⟨0, 0, 0⟩,
    .cctlWbi ⟨0, 0, 0⟩, .cctlInva ⟨0⟩, .atomAdd ⟨0, 0, 0, 0, 0⟩, .atomMin ⟨0, 0, 0, 0, 0⟩, .atomMax ⟨0, 0, 0, 0, 0⟩,
    .atomAnd ⟨0, 0, 0, 0, 0⟩, .atomOr ⟨0, 0, 0, 0, 0⟩, .atomXor ⟨0, 0, 0, 0, 0⟩, .atomXchg ⟨0, 0, 0, 0, 0⟩, .atomCas
    ⟨0, 0, 0, 0, 0⟩], ∃ u, Issues i u probe :=
  issues_spec (by decide +kernel)

theorem test_issue_engines : ∀ i ∈ [.btxStart ⟨0, 0, 0⟩, .tcopy ⟨0, 0, 0⟩, .amtest ⟨0, 0, 0, 0⟩, .amsg ⟨0, 0, 0, 0⟩,
    .amh ⟨0, 0, 0, 0⟩, .launch ⟨0, 0, 0, 0⟩, .rdef ⟨0, 0, 0, 0⟩, .rop ⟨0, 0, 0, 0⟩, .ropr ⟨0, 0, 0, 0⟩, .mstr ⟨0, 0,
    0⟩, .aclr ⟨0, 0, 0⟩, .awrite ⟨0, 0, 0, 0, 0⟩, .aread ⟨0, 0, 0, 0, 0⟩, .mburst ⟨0, 0⟩, .mma ⟨0, 0, 0, 0, 0, 0, 0⟩,
    .mloop ⟨0, 0, 0, 0, 0, 0, 0⟩, .ast ⟨0, 0, 0, 0⟩, .ald ⟨0, 0, 0, 0⟩], ∃ u, Issues i u probe :=
  issues_spec (by decide +kernel)

theorem test_issue_system : ∀ i ∈ [.csrr ⟨0, 0, 0⟩, .csrw ⟨0, 0, 0⟩, .ctxNew ⟨0, 0, 0⟩, .ctxRun ⟨0, 0, 0, 0⟩, .ctxStop
    ⟨0, 0, 0, 0⟩, .ctxGrant ⟨0, 0, 0, 0⟩, .ctxRevoke ⟨0, 0, 0, 0⟩, .ctxStat ⟨0, 0, 0, 0⟩, .ctxKill ⟨0, 0, 0⟩, .trapret
    ⟨0⟩, .tlbinvPage ⟨0, 0⟩, .tlbinvCtx ⟨0, 0⟩, .tlbinvSubtree ⟨0, 0⟩, .frmstat ⟨0, 0, 0⟩], ∃ u, Issues i u probe :=
  issues_spec (by decide +kernel)

/-! ## Worked examples of the rules, as one step -/

/-- The word that i leaves in register r of thread 0 of the probe's program with these registers. -/
def leaves (i : Instr) (xs : List (Nat × Word)) (r : Nat) : Option Word := match exec i (withV xs) with
  | .next t => ((t.grp? 1).map fun g => assoc r (g.thr 0).v).join
  | _ => none

/-- The example of R164. -/
theorem test_iadd_wraps : leaves (.iadd ⟨0, 2, 0, 1, 0, 0⟩) [(0, 0x7FFFFFF0), (1, 0x20)] 2 = some 0x80000010 := by decide +kernel

/-- The examples of R167. -/
theorem test_bfx_signed : leaves (.bfx ⟨0, 2, 0, 1, 0, 0⟩) [(0, 0xABCD), (1, 0x10804)] 2 = some 0xFFFFFFBC := by decide +kernel

theorem test_bfx_plain : leaves (.bfx ⟨0, 2, 0, 1, 0, 0⟩) [(0, 0xABCD), (1, 0x804)] 2 = some 0xBC := by decide +kernel

theorem test_bfi : leaves (.bfi ⟨0, 2, 0, 1, 0, 0⟩) [(0, 0x12), (1, 0x804), (2, 0xFFFFFFFF)] 2 = some 0xFFFFF12F := by decide +kernel

/-- R181: the negative of the most negative word is itself; R168: an arithmetic shift by 32 or more. -/
theorem test_neg_wraps : leaves (.neg ⟨0, 2, 0, 0⟩) [(0, 0x80000000)] 2 = some 0x80000000 := by decide +kernel

theorem test_sar_far : leaves (.sarReg ⟨0, 2, 0, 0, 1⟩) [(0, 0x80000001), (1, 32)] 2 = some 0xFFFFFFFF := by decide +kernel

/-- R67: 1 + 2^-24 lies halfway between two binary32 numbers and rounds to the even one. -/
theorem test_fadd_ties : leaves (.fadd ⟨0, 2, 0, 1, 0, 0⟩) [(0, 0x3F800000), (1, 0x33800000)] 2 = some 0x3F800000 := by decide +kernel

/-! ## Units under conditions -/

/-- Whether the lanes of a unit that i ends all pass a check. -/
def passes (s : State) (i : Instr) (wr : Bool) (f : Issue → State → Nat → Except XFault Acc) (u : Issue) : Bool :=
  (checkLanes u wr u.act (f u (advance i u s))).isOk

theorem test_ret_aligned : ∃ u, Issues (.ret ⟨0⟩) u probe ∧
    (u.act.all fun k => (u.grp.thr k).lr.toNat % 4 == 0 && canonical (u.grp.thr k).lr) = true := meets_spec (by decide +kernel)

theorem test_jidx_aligned : ∃ u, Issues (.jidx ⟨0, 0, 0⟩) u probe ∧
    (u.act.all fun k => (u.rd64 probe k 0).toNat % 4 == 0 && canonical (u.rd64 probe k 0)) = true := meets_spec (by decide +kernel)

theorem test_jidx_misaligned : ∃ u, Issues (.jidx ⟨0, 0, 0⟩) u (withV [(0, 2)]) ∧
    (u.act.any fun k => (u.rd64 (withV [(0, 2)]) k 0).toNat % 4 != 0) = true := meets_spec (by decide +kernel)

theorem test_jidx_far : let s := withV [(1, 0x80000000)]; ∃ u, Issues (.jidx ⟨0, 0, 0⟩) u s ∧
    (u.act.all (fun k => (u.rd64 s k 0).toNat % 4 == 0) && u.act.any fun k => !canonical (u.rd64 s k 0)) = true :=
  meets_spec (by decide +kernel)

theorem test_active : ∀ i ∈ [Instr.trap ⟨0, 65535⟩, .brk ⟨0⟩], ∃ u, Issues i u probe ∧ (!u.act.isEmpty) = true := fun i hi =>
  meets_spec (List.all_eq_true.1 (by decide +kernel : ([Instr.trap ⟨0, 65535⟩, .brk ⟨0⟩].all fun i =>
    meets probe i fun u => !u.act.isEmpty) = true) i hi)

/-- Instructions that a GUARD whose predicate no lane has leaves without an active lane. -/
def idle : List Instr := [.trap ⟨0, 1⟩, .brk ⟨0⟩, .mskw ⟨0, 0, 0, 0⟩, .tld ⟨0, 0, 0, 0⟩, .btxStart ⟨0, 0, 0⟩, .tcopy ⟨0, 0, 0⟩,
  .amsg ⟨0, 0, 0, 0⟩, .amh ⟨0, 0, 0, 0⟩, .rdef ⟨0, 0, 0, 0⟩, .rop ⟨0, 0, 0, 0⟩, .ropr ⟨0, 0, 0, 0⟩]

theorem test_no_active_lane : ∀ i ∈ idle, ∃ u, Issues i u guarded ∧ u.act.isEmpty = true := fun i hi =>
  meets_spec (List.all_eq_true.1 (by decide +kernel : (idle.all fun i => meets guarded i fun u => u.act.isEmpty) = true) i hi)

theorem test_load_passes : ∃ u, Issues (.ldQ ⟨0, 0, 0, 0, 0⟩) u probe ∧ passes probe (.ldQ ⟨0, 0, 0, 0, 0⟩) false
    (fun u s k => accGlobal u s (u.rd64 probe k 0) 16 .load) u = true := meets_spec (by decide +kernel)

theorem test_load_fails : let s := withV [(0, 8)]; ∃ u, Issues (.ldQ ⟨0, 0, 0, 0, 0⟩) u s ∧ (!passes s (.ldQ ⟨0, 0, 0, 0, 0⟩) false
    (fun u s' k => accGlobal u s' (u.rd64 s k 0) 16 .load) u) = true := meets_spec (by decide +kernel)

theorem test_scratchpad_edge : let s := withV [(0, 4092)]; ∃ u, Issues (.lds ⟨0, 0, 0, 2, 0⟩) u s ∧
    passes s (.lds ⟨0, 0, 0, 2, 0⟩) false (fun u s' k => accPad u s' (u.rd s k 0).toNat 4) u = true := meets_spec (by decide +kernel)

theorem test_scratchpad_beyond : let s := withV [(0, 4096)]; ∃ u, Issues (.lds ⟨0, 0, 0, 2, 0⟩) u s ∧
    (!passes s (.lds ⟨0, 0, 0, 2, 0⟩) false (fun u s' k => accPad u s' (u.rd s k 0).toNat 4) u) = true :=
  meets_spec (by decide +kernel)

theorem test_peer_scratchpad : ∃ u, Issues (.ldp ⟨0, 0, 0, 2, 0, 0⟩) u probe ∧
    passes probe (.ldp ⟨0, 0, 0, 2, 0, 0⟩) false (fun u s k => accPeer u s 0 (u.rd probe k 0).toNat 4) u = true :=
  meets_spec (by decide +kernel)

/-- The probe's program whose threads have executed n stores in their region. -/
def stored (n : Nat) : State := { probe with groups := probe.groups.map fun g =>
  { g with threads := g.threads.map fun th => { th with nst := n } } }

theorem test_store_room : ∀ n ∈ [0, 7], ∃ u, Issues (.stB ⟨0, 0, 0, 0, 0⟩) u (stored n) ∧
    (passes (stored n) (.stB ⟨0, 0, 0, 0, 0⟩) true (fun u s k => accGlobal u s (u.rd64 (stored n) k 0) 1 .store) u &&
      chunkRoom (advance (.stB ⟨0, 0, 0, 0, 0⟩) u (stored n)) u.grp 16 &&
      u.tids.all fun k => decide ((u.grp.thr k).nst < 8)) = true := by
  intro n hn
  simp only [List.mem_cons, List.not_mem_nil, or_false] at hn
  rcases hn with rfl | rfl <;> exact meets_spec (by decide +kernel)

theorem test_store_full : ∃ u, Issues (.stB ⟨0, 0, 0, 0, 0⟩) u (stored 8) ∧
    (u.tids.any fun k => decide (8 ≤ (u.grp.thr k).nst)) = true := meets_spec (by decide +kernel)

/-- The probe's program beside a group that holds 56 chunks of its partition's store buffer. -/
def crowded : State := { probe with groups := probe.groups ++ [{ programGroup with gid := 2, slot := 1, held := 57344, threads := [] }] }

theorem test_store_waits : ∃ u, Issues (.stQ ⟨0, 0, 0, 0, 0⟩) u crowded ∧
    (!chunkRoom (advance (.stQ ⟨0, 0, 0, 0, 0⟩) u crowded) u.grp 256) = true := meets_spec (by decide +kernel)

theorem test_check_rank : let f : Nat → Except XFault Acc := fun _ => .error { cause := .misaligned, cxid := 0, va := 4, rank := 99 }
    [3, 63].Pairwise (· < ·) ∧ (∀ k ∈ [3, 63], ∀ x, f k = .error x → x.rank ≤ 99) ∧ (∃ x, f 3 = .error x) :=
  ⟨by decide, fun _ _ _ h => by cases h; decide, _, rfl⟩

theorem test_gcheck_passes : (gcheck probe 0 0x20000 4 .fetch).isOk = true ∧
    (gcheck probe 0 (BitVec.ofNat 64 (2 ^ 30 - 16)) 16 .store).isOk = true := by decide +kernel

theorem test_gcheck_fails : (gcheck probe 0 0x20002 4 .load).isOk = false ∧
    (0x8000000000000000#64).toNat % 16 = 0 ∧ canonical 0x8000000000000000 = false := by decide +kernel

theorem test_multicast_passes : ∃ u, Issues (.stm ⟨0, 3, 1, 0, 8⟩) u probe ∧
    ((List.range 4).all fun j => passes probe (.stm ⟨0, 3, 1, 0, 8⟩) true
      (fun u s k => accGlobal u s (u.rd64 probe k (2 * j)) 2 .store) u) = true := meets_spec (by decide +kernel)

theorem test_multicast_fails : let s := withV [(6, 1)]; ∃ u, Issues (.stm ⟨0, 3, 1, 0, 8⟩) u s ∧
    (!passes s (.stm ⟨0, 3, 1, 0, 8⟩) true (fun u s' k => accGlobal u s' (u.rd64 s k 6) 2 .store) u) = true :=
  meets_spec (by decide +kernel)

theorem test_atomic_passes : ∀ i ∈ [Instr.atomAdd ⟨0, 0, 0, 0, 3⟩, .atomMin ⟨0, 0, 0, 0, 0⟩, .atomMax ⟨0, 0, 0, 0, 2⟩,
    .atomAnd ⟨0, 0, 0, 1, 0⟩, .atomOr ⟨0, 0, 0, 0, 0⟩, .atomXor ⟨0, 0, 0, 0, 0⟩, .atomXchg ⟨0, 0, 0, 0, 0⟩,
    .atomCas ⟨0, 0, 0, 0, 1⟩], ∃ u, Issues i u probe ∧
    passes probe i true (fun u s k => accGlobal u s (u.rd64 probe k 0) 8 .rmw) u = true := fun i hi =>
  meets_spec (List.all_eq_true.1 (by decide +kernel : ([Instr.atomAdd ⟨0, 0, 0, 0, 3⟩, .atomMin ⟨0, 0, 0, 0, 0⟩,
    .atomMax ⟨0, 0, 0, 0, 2⟩, .atomAnd ⟨0, 0, 0, 1, 0⟩, .atomOr ⟨0, 0, 0, 0, 0⟩, .atomXor ⟨0, 0, 0, 0, 0⟩,
    .atomXchg ⟨0, 0, 0, 0, 0⟩, .atomCas ⟨0, 0, 0, 0, 1⟩].all fun i => meets probe i
      (passes probe i true (fun u s k => accGlobal u s (u.rd64 probe k 0) 8 .rmw))) = true) i hi)

theorem test_atomic_fails : let s := withV [(0, 4)]; ∃ u, Issues (.atomCas ⟨0, 0, 0, 0, 1⟩) u s ∧
    (!passes s (.atomCas ⟨0, 0, 0, 0, 1⟩) true (fun u s' k => accGlobal u s' (u.rd64 s k 0) 8 .rmw) u) = true :=
  meets_spec (by decide +kernel)

/-- The probe's program in which thread 3, elsewhere, is parked at the rejoin mask 2 that all threads are enrolled in. -/
def rejoining : State := { probe with
  groups := probe.groups.map fun g => { g with
    m := g.m.set 2 0xFFFF
    threads := g.threads.set 3 { programThread with pc := 0x40, park := some (.jwait 2) } }
  runs := probe.runs.map fun r => { r with tids := [0, 1] } }

theorem test_rejoin_mismatch : ∃ u, Issues (.jwait ⟨0, 2⟩) u rejoining ∧
    (u.act.any (fun k => (u.grp.m.getD 2 0).getLsbD k) && u.grp.live.any fun k =>
      (u.grp.thr k).park == some (.jwait 2) && (u.grp.m.getD 2 0).getLsbD k && (u.grp.thr k).pc != u.ipc + 4) = true :=
  meets_spec (by decide +kernel)

theorem test_rejoin_alone : ∃ u, Issues (.jwait ⟨0, 2⟩) u probe ∧
    (!u.act.any fun k => (u.grp.m.getD 2 0).getLsbD k) = true := meets_spec (by decide +kernel)

theorem test_waita_passes : ∃ u, Issues (.waita ⟨0, 0, 3, 0, 2⟩) u probe ∧
    passes probe (.waita ⟨0, 0, 3, 0, 2⟩) false (fun u s k => accGlobal u s (u.rd64 probe k 0) 4 .load) u = true :=
  meets_spec (by decide +kernel)

theorem test_waita_fails : let s := withV [(0, 2)]; ∃ u, Issues (.waita ⟨0, 0, 0, 0, 2⟩) u s ∧
    (!passes s (.waita ⟨0, 0, 0, 0, 2⟩) false (fun u s' k => accGlobal u s' (u.rd64 s k 0) 4 .load) u) = true :=
  meets_spec (by decide +kernel)

/-- The probe's program whose threads hold an arrival of BARA at barrier 15, generation 0. -/
def arrived : State := { probe with groups := probe.groups.map fun g =>
  { g with threads := g.threads.map fun th => { th with bara := [(15, 0)] } } }

theorem test_barrier_unheld : ∀ i ∈ [Instr.bar ⟨0, 15⟩, .bara ⟨0, 15⟩, .barw ⟨0, 15⟩], ∃ u, Issues i u probe ∧
    (u.act.all fun k => !(u.grp.thr k).bara.any fun e => e.1 == 15) = true := fun i hi =>
  meets_spec (List.all_eq_true.1 (by decide +kernel : ([Instr.bar ⟨0, 15⟩, .bara ⟨0, 15⟩, .barw ⟨0, 15⟩].all fun i =>
    meets probe i fun u => u.act.all fun k => !(u.grp.thr k).bara.any fun e => e.1 == 15) = true) i hi)

theorem test_barrier_held : ∀ i ∈ [Instr.bar ⟨0, 15⟩, .bara ⟨0, 15⟩, .barw ⟨0, 15⟩], ∃ u, Issues i u arrived ∧
    (!u.act.isEmpty && u.act.all fun k => (u.grp.thr k).bara.any fun e => e.1 == 15) = true := fun i hi =>
  meets_spec (List.all_eq_true.1 (by decide +kernel : ([Instr.bar ⟨0, 15⟩, .bara ⟨0, 15⟩, .barw ⟨0, 15⟩].all fun i =>
    meets arrived i fun u => !u.act.isEmpty && u.act.all fun k => (u.grp.thr k).bara.any fun e => e.1 == 15) = true) i hi)

/-- The probe's block with an earlier BAR.PE arrival of index n. -/
def atPe (n : Nat) : State := { probe with blocks := probe.blocks.map fun b => b.setBar { b.bar 16 with idx := some n } }

theorem test_barPe : ∀ n ∈ [7, 8], ∃ u, Issues (.barPe ⟨0, 7⟩) u (atPe n) ∧ ((u.bar (atPe n) 16).idx == some n) = true := by
  intro n hn
  simp only [List.mem_cons, List.not_mem_nil, or_false] at hn
  rcases hn with rfl | rfl <;> exact meets_spec (by decide +kernel)

theorem test_cbar : ∃ u, Issues (.cbar ⟨0⟩) u probe ∧ (probe.blk? u.grp.bid).isSome = true := meets_spec (by decide +kernel)

theorem test_wait_over : let s : State := { probe with groups := [{ programGroup with
    threads := [{ programThread with park := some (.wait 3 65535 false) }] }] }
    ∃ h : 0 < s.groups.length, (s.groups[0].thr 0).park = some (.wait 3 65535 false) ∧ s.groups[0].cnt 3 ≤ 65535 := by
  decide +kernel

/-! ## Units that read records, tiles and system state -/

/-- The probe's program with words at an address of its buffer. -/
def withRec (a : Nat) (w : List Word) (s : State) : State := { s with mem := Memory.putN s.mem a (wordsBytes w) }

/-- A shape record: one dimension of 16 elements of 4 bytes at 0x40000, with a permit bit (R301). -/
def shape (permit : Nat) : List Word :=
  [0x40000, 0, BitVec.ofNat 32 (permit * 2 ^ 31 + 2 ^ 28 + 2 * 2 ^ 25), 16, 0, 0, 0, 0, 4, 0, 0, 0, 0, 0, 0, 0]

/-- The probe's program with that record at 0x30000, named by v4, and coordinate x in v6. -/
def tiled (permit : Nat) (x : Word) : State := withRec 0x30000 (shape permit) (withV [(4, 0x30000), (6, x)])

/-- The record that TLD or TST reads, if it passes its checks. -/
def tileWords (s : State) (i : Instr) (o : TLF) (wr : Bool) (u : Issue) : List Word := match tileShape u (advance i u s) o wr with
  | .ok (w, _) => w
  | .error _ => []

theorem test_tile_inside : ∀ x ∈ [0, 15], ∃ u, Issues (.tld ⟨0, 8, 6, 4⟩) u (tiled 0 x) ∧
    (let w := tileWords (tiled 0 x) (.tld ⟨0, 8, 6, 4⟩) ⟨0, 8, 6, 4⟩ false u
     !w.isEmpty && u.act.all fun k => tileInside u (tiled 0 x) ⟨0, 8, 6, 4⟩ w k) = true := by
  intro x hx
  simp only [List.mem_cons, List.not_mem_nil, or_false] at hx
  rcases hx with rfl | rfl <;> exact meets_spec (by decide +kernel)

theorem test_tile_outside : ∀ p ∈ [0, 1], ∃ u, Issues (.tst ⟨0, 8, 6, 4⟩) u (tiled p 16) ∧
    (let w := tileWords (tiled p 16) (.tst ⟨0, 8, 6, 4⟩) ⟨0, 8, 6, 4⟩ true u
     !w.isEmpty && shPermit w == (p == 1) && u.act.all fun k => !tileInside u (tiled p 16) ⟨0, 8, 6, 4⟩ w k) = true := by
  intro x hx
  simp only [List.mem_cons, List.not_mem_nil, or_false] at hx
  rcases hx with rfl | rfl <;> exact meets_spec (by decide +kernel)

theorem test_tile_access : let s := tiled 0 15; ∃ u, Issues (.tst ⟨0, 8, 6, 4⟩) u s ∧
    (passes s (.tst ⟨0, 8, 6, 4⟩) true (fun u s' k => accGlobal u s' (tileVa u s ⟨0, 8, 6, 4⟩ (shape 0) k) 4 .store) u &&
      chunkRoom (advance (.tst ⟨0, 8, 6, 4⟩) u s) u.grp 64 && u.tids.all fun k => decide ((u.grp.thr k).nst < 8)) = true :=
  meets_spec (by decide +kernel)

theorem test_cache_line : ∃ u, Issues (.cctlWbi ⟨0, 0, 0⟩) u probe ∧
    (u.act.all fun k => (lineOf (.cctlWbi ⟨0, 0, 0⟩) ⟨0, 0, 0⟩ u (advance (.cctlWbi ⟨0, 0, 0⟩) u probe) k).isSome) = true :=
  meets_spec (by decide +kernel)

/-- The probe's program beside n operations on channel 0 of its core. -/
def channels (n : Nat) : State := { probe with bts := (List.range n).map fun k =>
  { id := 100 + k, gid := 9, cxid := 0, bid := 9, core := 0, ch := 0, ptr := 0, tcopy := none } }

theorem test_transfer_room : ∀ n ∈ [7, 8], ∃ u, Issues (.btxStart ⟨0, 0, 0⟩) u (channels n) ∧
    (!u.act.isEmpty && (gcheck (advance (.btxStart ⟨0, 0, 0⟩) u (channels n)) 0 0 64 .load).isOk &&
      channelFull u (advance (.btxStart ⟨0, 0, 0⟩) u (channels n)) 0 == (n == 8)) = true := by
  intro x hx
  simp only [List.mem_cons, List.not_mem_nil, or_false] at hx
  rcases hx with rfl | rfl <;> exact meets_spec (by decide +kernel)

theorem test_transfer_misaligned : let s := withV [(0, 8)]; ∃ u, Issues (.btxStart ⟨0, 0, 0⟩) u s ∧
    (!(gcheck (advance (.btxStart ⟨0, 0, 0⟩) u s) 0 (u.rd64 s u.low 0) 64 .load).isOk) = true := meets_spec (by decide +kernel)

theorem test_tcopy_passes : let s := withV [(0, 64)]; ∃ u, Issues (.tcopy ⟨0, 0, 0⟩) u s ∧
    (!u.act.isEmpty && (s.run?.map Run.sdbg) == some false &&
      (tcopyFault u s (u.rdN s u.low 0 8) (tcopyRec (u.rdN s u.low 0 8))).isNone) = true := meets_spec (by decide +kernel)

theorem test_tcopy_fails : let s := withV [(0, 0x80000000)]; ∃ u, Issues (.tcopy ⟨0, 0, 0⟩) u s ∧
    (tcopyFault u s (u.rdN s u.low 0 8) (tcopyRec (u.rdN s u.low 0 8)) == some .illegalOp) = true := meets_spec (by decide +kernel)

theorem test_amtest : let s := withV [(0, 4088)]; ∃ u, Issues (.amtest ⟨0, 0, 0, 2⟩) u s ∧
    passes s (.amtest ⟨0, 0, 0, 2⟩) false (fun u s' k => accPad u s' (u.rd s k 0).toNat 8) u = true := meets_spec (by decide +kernel)

/-- The probe's program in a context with a handler at entry 0, a defined remote opcode in slot 0 and n queued grids. -/
def equipped (n : Nat) : State := { probe with ctxs := probe.ctxs.map fun c => { c with
  handlers := [(0, 16, 0)]
  rops := [(0, [0x80000])]
  queues := [(0, List.replicate n (.host none 0 false))] } }

theorem test_message_passes : ∃ u, Issues (.amsg ⟨0, 0, 0, 2⟩) u (equipped 0) ∧ (!u.act.isEmpty && u.grp.cnt 3 != 65535 &&
    (checkLanes u false u.act fun k => amsgCheck u (advance (.amsg ⟨0, 0, 0, 2⟩) u (equipped 0)) 0 2
      (u.rd (equipped 0) k 0).toNat).isOk) = true := meets_spec (by decide +kernel)

/-- The probe's program with a full count of messages. -/
def counted : State := { equipped 0 with groups := probe.groups.map fun g => { g with ops := List.replicate 65535 ⟨0, 3, false, []⟩ } }

theorem test_message_waits : (∃ u, Issues (.amsg ⟨0, 0, 0, 2⟩) u counted ∧ (!u.act.isEmpty) = true) ∧
    ∀ g ∈ counted.groups, g.cnt 3 = 65535 := by
  refine ⟨meets_spec (by decide +kernel), fun g hg => ?_⟩
  obtain ⟨x, -, rfl⟩ := List.mem_map.1 hg
  simp only [Group.cnt, List.filter_replicate, beq_self_eq_true, if_true, List.length_replicate]

theorem test_handler_entry : ∀ n ∈ [0, 16, 96], ∃ u, Issues (.amh ⟨0, 0, 0, 2⟩) u (withV [(0, n)]) ∧
    ((u.rd (withV [(0, n)]) u.low 0 == n) && (u.rd64 (withV [(0, n)]) u.low 2).toNat % 4 == 0) = true := by
  intro x hx
  simp only [List.mem_cons, List.not_mem_nil, or_false] at hx
  rcases hx with rfl | rfl | rfl <;> exact meets_spec (by decide +kernel)

/-- A launch record: one block of one group of width 16 with 16 registers (Table 12-11). -/
def launchRec : List Word := [0, 0, 0x20000, 0, 1, 0x00010001] ++ List.replicate 26 0

/-- A program that launches that record from 0x30000 into a queue of n grids. -/
def launching (n : Nat) : State := { withRec 0x30000 launchRec (withV [(0, 0x30000)]) with ctxs := (equipped n).ctxs }

theorem test_launch : ∀ n ∈ [1023, 1024], ∃ u, Issues (.launch ⟨0, 8, 0, 0⟩) u (launching n) ∧ (!u.act.isEmpty &&
    (match readOwn u (advance (.launch ⟨0, 8, 0, 0⟩) u (launching n)) u.low (u.rd64 (launching n) u.low 0) 128,
        (launching n).ctx? 0 with
      | .ok (some (w, _)), some c => launchCheck c 0 w == 0 && (queueOf c 0).length == n
      | _, _ => false)) = true := by
  intro x hx
  simp only [List.mem_cons, List.not_mem_nil, or_false] at hx
  rcases hx with rfl | rfl <;> exact meets_spec (by decide +kernel)

theorem test_rdef : ∃ u, Issues (.rdef ⟨0, 8, 0, 31⟩) u probe ∧ (!u.act.isEmpty &&
    (match readOwn u (advance (.rdef ⟨0, 8, 0, 31⟩) u probe) u.low 0 256 with
      | .ok (some _) => true
      | _ => false)) = true := meets_spec (by decide +kernel)

theorem test_remote_passes : ∀ i ∈ [Instr.rop ⟨0, 0, 4, 0⟩, .ropr ⟨0, 0, 4, 0⟩], ∃ u, Issues i u (equipped 0) ∧
    (!u.act.isEmpty && !slotBusy (equipped 0) 0 0 && ruRet [0x80000] != 0 && u.grp.cnt 2 != 65535 &&
      ((List.range (ruRegs [0x80000] true)).all fun j => regOk u.grp.nregs (4 + j)) &&
      passes (equipped 0) i true (fun u s k => ruLaneCheck u s [0x80000] (u.rd64 (equipped 0) k 0)) u) = true := fun i hi =>
  meets_spec (List.all_eq_true.1 (by decide +kernel : ([Instr.rop ⟨0, 0, 4, 0⟩, .ropr ⟨0, 0, 4, 0⟩].all fun i =>
    meets (equipped 0) i fun u => !u.act.isEmpty && !slotBusy (equipped 0) 0 0 && ruRet [0x80000] != 0 && u.grp.cnt 2 != 65535 &&
      ((List.range (ruRegs [0x80000] true)).all fun j => regOk u.grp.nregs (4 + j)) &&
      passes (equipped 0) i true (fun u s k => ruLaneCheck u s [0x80000] (u.rd64 (equipped 0) k 0)) u) = true) i hi)

theorem test_remote_undefined : ∀ i ∈ [Instr.rop ⟨0, 0, 4, 0⟩, .ropr ⟨0, 0, 4, 0⟩], ∃ u, Issues i u probe ∧ (!u.act.isEmpty &&
    !slotBusy probe 0 0 && ((probe.ctx? 0).bind fun c => assoc 0 c.rops).isNone) = true := fun i hi =>
  meets_spec (List.all_eq_true.1 (by decide +kernel : ([Instr.rop ⟨0, 0, 4, 0⟩, .ropr ⟨0, 0, 4, 0⟩].all fun i =>
    meets probe i fun u => !u.act.isEmpty && !slotBusy probe 0 0 && ((probe.ctx? 0).bind fun c => assoc 0 c.rops).isNone) = true) i hi)

/-! ## Matrix units -/

/-- An operation of the probe's group that has one k-group to sum (Table 10-2). -/
def matrixOp (k : Nat) : MxOp :=
  { id := 100 + k, gid := 1, cxid := 0, bid := 1, core := 0, part := 0, half := 0, acc := 0, pairing := 0, kg := 1, a := [],
    ea := [], ms := 0, mma := false }

/-- The probe's program with a valid stream register (R243) and n operations of its own in the sequencer's queue. -/
def streams (n : Nat) : State := { probe with
  groups := probe.groups.map fun g => { g with ms0 := 1 <<< 23 }
  mxs := (List.range n).map matrixOp }

theorem test_stream_register : ∃ u, Issues (.mstr ⟨0, 0, 0⟩) u probe ∧ (!u.act.isEmpty) = true := meets_spec (by decide +kernel)

theorem test_tile_free : ∀ i ∈ [Instr.aclr ⟨0, 0, 0⟩, .awrite ⟨0, 0, 0, 0, 0⟩, .aread ⟨0, 0, 0, 0, 0⟩], ∃ u, Issues i u probe ∧
    (decide (0 < u.accCount probe) && u.ordFull.isEmpty && !tileBusy u probe 0 && (probe.blk? u.grp.bid).isSome) = true := fun i hi =>
  meets_spec (List.all_eq_true.1 (by decide +kernel : ([Instr.aclr ⟨0, 0, 0⟩, .awrite ⟨0, 0, 0, 0, 0⟩, .aread ⟨0, 0, 0, 0, 0⟩].all
    fun i => meets probe i fun u => decide (0 < u.accCount probe) && u.ordFull.isEmpty && !tileBusy u probe 0 &&
      (probe.blk? u.grp.bid).isSome) = true) i hi)

theorem test_tile_busy : ∃ u, Issues (.aread ⟨0, 0, 0, 0, 0⟩) u (streams 1) ∧
    (decide (0 < u.accCount (streams 1)) && tileBusy u (streams 1) 0) = true := meets_spec (by decide +kernel)

theorem test_matrix_enters : ∀ i ∈ [Instr.mma ⟨0, 0, 0, 7, 0, 0, 0⟩, .mloop ⟨0, 0, 0, 7, 0, 0, 0⟩], ∃ u, Issues i u (streams 0) ∧
    ((mxCheck u (advance i u (streams 0)) ⟨0, 0, 0, 7, 0, 0, 0⟩).isNone && !u.writers.isEmpty &&
      !mxFull u (advance i u (streams 0)) && u.grp.cnt 1 != 65535) = true := fun i hi =>
  meets_spec (List.all_eq_true.1 (by decide +kernel : ([Instr.mma ⟨0, 0, 0, 7, 0, 0, 0⟩, .mloop ⟨0, 0, 0, 7, 0, 0, 0⟩].all fun i =>
    meets (streams 0) i fun u => (mxCheck u (advance i u (streams 0)) ⟨0, 0, 0, 7, 0, 0, 0⟩).isNone && !u.writers.isEmpty &&
      !mxFull u (advance i u (streams 0)) && u.grp.cnt 1 != 65535) = true) i hi)

theorem test_matrix_waits : ∃ u, Issues (.mma ⟨0, 0, 0, 7, 0, 0, 0⟩) u (streams 8) ∧
    ((mxCheck u (advance (.mma ⟨0, 0, 0, 7, 0, 0, 0⟩) u (streams 8)) ⟨0, 0, 0, 7, 0, 0, 0⟩).isNone && !u.writers.isEmpty &&
      mxFull u (advance (.mma ⟨0, 0, 0, 7, 0, 0, 0⟩) u (streams 8))) = true := meets_spec (by decide +kernel)

theorem test_matrix_illegal : ∃ u, Issues (.mloop ⟨0, 0, 0, 7, 0, 0, 0⟩) u probe ∧
    (mxCheck u (advance (.mloop ⟨0, 0, 0, 7, 0, 0, 0⟩) u probe) ⟨0, 0, 0, 7, 0, 0, 0⟩).isSome = true := meets_spec (by decide +kernel)

/-- The streams' program whose threads still skip an operation after a resumption (R123). -/
def skipping : State := { streams 0 with groups := (streams 0).groups.map fun g =>
  { g with threads := g.threads.map fun th => { th with skip := 1 } } }

theorem test_matrix_skips : ∃ u, Issues (.mma ⟨0, 0, 0, 7, 0, 0, 0⟩) u skipping ∧
    ((mxCheck u (advance (.mma ⟨0, 0, 0, 7, 0, 0, 0⟩) u skipping) ⟨0, 0, 0, 7, 0, 0, 0⟩).isNone && u.writers.isEmpty) = true :=
  meets_spec (by decide +kernel)

theorem test_rows_to_scratchpad : let s := withV [(0, 4096 - 256)]; ∀ i ∈ [Instr.ast ⟨0, 0, 0, 0⟩, .ald ⟨0, 0, 0, 0⟩], ∃ u, Issues i u s ∧
    ((astCheck u (advance i u s) ⟨0, 0, 0, 0⟩ true).isOk && !tileBusy u s 0 && !padWaits u s true && u.ordFull.isEmpty &&
      (s.blk? u.grp.bid).isSome) = true := fun i hi =>
  meets_spec (List.all_eq_true.1 (by decide +kernel : ([Instr.ast ⟨0, 0, 0, 0⟩, .ald ⟨0, 0, 0, 0⟩].all fun i =>
    meets (withV [(0, 4096 - 256)]) i fun u => (astCheck u (advance i u (withV [(0, 4096 - 256)])) ⟨0, 0, 0, 0⟩ true).isOk &&
      !tileBusy u (withV [(0, 4096 - 256)]) 0 && !padWaits u (withV [(0, 4096 - 256)]) true && u.ordFull.isEmpty &&
      ((withV [(0, 4096 - 256)]).blk? u.grp.bid).isSome) = true) i hi)

/-- The streams' program whose threads have counted 63 tile operations in their regions (R121). -/
def exhausted : State := { streams 0 with groups := (streams 0).groups.map fun g =>
  { g with threads := g.threads.map fun th => { th with ord := 63 } } }

/-- Instructions that count tile operations. -/
def tileInstrs : List Instr := [.aclr ⟨0, 0, 0⟩, .awrite ⟨0, 0, 0, 0, 0⟩, .ald ⟨0, 0, 0, 0⟩, .mma ⟨0, 0, 0, 7, 0, 0, 0⟩,
  .mloop ⟨0, 0, 0, 7, 0, 0, 0⟩]

theorem test_ordinal_spills : ∀ i ∈ tileInstrs, ∃ u, Issues i u exhausted ∧
    (decide (0 < u.accCount exhausted) && (u.act.any fun k => decide (63 ≤ (u.grp.thr k).ord)) && !padWaits u (advance i u exhausted) false &&
      (astCheck u (advance i u exhausted) ⟨0, 0, 0, 0⟩ false).isOk && msValid (u.stream 0) && pairMode 7 (u.tileMode exhausted 0) &&
      decide (footprint ⟨0, 0, 0, 7, 0, 0, 0⟩ (u.stream 0) ≤ ((exhausted.blk? u.grp.bid).map Block.size).getD 0)) = true := fun i hi =>
  meets_spec (List.all_eq_true.1 (by decide +kernel : (tileInstrs.all fun i => meets exhausted i fun u =>
    decide (0 < u.accCount exhausted) && (u.act.any fun k => decide (63 ≤ (u.grp.thr k).ord)) && !padWaits u (advance i u exhausted) false &&
      (astCheck u (advance i u exhausted) ⟨0, 0, 0, 0⟩ false).isOk && msValid (u.stream 0) && pairMode 7 (u.tileMode exhausted 0) &&
      decide (footprint ⟨0, 0, 0, 7, 0, 0, 0⟩ (u.stream 0) ≤ ((exhausted.blk? u.grp.bid).map Block.size).getD 0)) = true) i hi)

/-! ## Clauses on failed checks and waits -/

/-- The probe's device with a load of thread 0 on its way that acquires. -/
def acquires : State := { probe with
  reqs := [{ id := 2, cxid := 0, gid := 1, tid := 0, core := 0, kind := .load, va := 0x50000, b := 0, off := 0x50000, owner := 0,
             size := 4, ord := 1 }]
  nextId := 3 }

/-- What a unit finds that reads a record of n bytes at the address in the lowest active lane's pair 0: a trap, a wait or the
record. -/
def recordKind (s : State) (i : Instr) (n : Nat) (u : Issue) : Nat :=
  match readOwn u (advance i u s) u.low (u.rd64 s u.low 0) n with
  | .error _ => 0
  | .ok none => 1
  | .ok (some _) => 2

/-- Instructions that read a record, with its size. -/
def readers : List (Instr × Nat) := [(.rdef ⟨0, 8, 0, 31⟩, 256), (.launch ⟨0, 8, 0, 0⟩, 128), (.ctxNew ⟨0, 0, 0⟩, 128),
  (.ctxRun ⟨0, 0, 0, 2⟩, 64), (.ctxGrant ⟨0, 0, 0, 2⟩, 64), (.ctxRevoke ⟨0, 0, 0, 2⟩, 64)]

theorem test_records_wait : ∀ i ∈ readers, ∃ u, Issues i.1 u acquires ∧ (recordKind acquires i.1 i.2 u == 1) = true := fun i hi =>
  meets_spec (List.all_eq_true.1 (by decide +kernel :
    (readers.all fun i => meets acquires i.1 fun u => recordKind acquires i.1 i.2 u == 1) = true) i hi)

/-- The address 2^30, which the program's tables map nowhere. -/
def unmapped : State := withV [(0, 0x40000000)]

theorem test_records_fail : ∀ i ∈ readers, ∃ u, Issues i.1 u unmapped ∧ (recordKind unmapped i.1 i.2 u == 0) = true := fun i hi =>
  meets_spec (List.all_eq_true.1 (by decide +kernel :
    (readers.all fun i => meets unmapped i.1 fun u => recordKind unmapped i.1 i.2 u == 0) = true) i hi)

theorem test_shape_fails : ∀ x ∈ [(acquires, 1), (withV [(4, 8)], 0)], ∃ u, Issues (.tld ⟨0, 8, 6, 4⟩) u x.1 ∧
    ((match tileShape u (advance (.tld ⟨0, 8, 6, 4⟩) u x.1) ⟨0, 8, 6, 4⟩ false with
      | .error (.retry _) => 1
      | .error (.trap _) => 0
      | _ => 2) == x.2) = true := by
  intro x hx
  simp only [List.mem_cons, List.not_mem_nil, or_false] at hx
  rcases hx with rfl | rfl
  · -- the record's address is 0 there
    exact meets_spec (by decide +kernel)
  · exact meets_spec (by decide +kernel)

theorem test_amtest_waits : ∃ u, Issues (.amtest ⟨0, 0, 0, 2⟩) u acquires ∧
    (passes acquires (.amtest ⟨0, 0, 0, 2⟩) false (fun u s k => accPad u s (u.rd acquires k 0).toNat 8) u &&
      u.act.any fun k => acquiring (advance (.amtest ⟨0, 0, 0, 2⟩) u acquires) u.gid k) = true := meets_spec (by decide +kernel)

theorem test_rows_wait : ∀ i ∈ [Instr.ast ⟨0, 0, 0, 0⟩, .ald ⟨0, 0, 0, 0⟩], ∃ u, Issues i u acquires ∧
    ((astCheck u (advance i u acquires) ⟨0, 0, 0, 0⟩ true).isOk && padWaits u (advance i u acquires) false) = true := fun i hi =>
  meets_spec (List.all_eq_true.1 (by decide +kernel : ([Instr.ast ⟨0, 0, 0, 0⟩, .ald ⟨0, 0, 0, 0⟩].all fun i =>
    meets acquires i fun u => (astCheck u (advance i u acquires) ⟨0, 0, 0, 0⟩ true).isOk && padWaits u (advance i u acquires) false) =
      true) i hi)

theorem test_rows_fail : let s := withV [(0, 4096 - 128)]; ∃ u, Issues (.ast ⟨0, 0, 0, 0⟩) u s ∧
    (!(astCheck u (advance (.ast ⟨0, 0, 0, 0⟩) u s) ⟨0, 0, 0, 0⟩ true).isOk) = true := meets_spec (by decide +kernel)

/-- The probe's program in strict-debug mode, with only the v registers of a list mapped. -/
def strictly (rs : List Nat) : State := { probe with
  groups := probe.groups.map fun g => { g with threads := g.threads.map fun th => { th with v := rs.map fun r => (r, 0) } }
  runs := probe.runs.map fun r => { r with sdbg := true } }

theorem test_strict : ∃ u, Issues (.amsg ⟨0, 0, 0, 2⟩) u (strictly [0]) ∧
    (!u.act.isEmpty && (strictRegs (fun _ => [2]) u (strictly [0])).map Prod.fst == some .deadRead &&
      (strictRegs (fun _ => [0]) u (strictly [0])).isNone) = true := meets_spec (by decide +kernel)

theorem test_messages_fail : let s : State := { withV [(0, 1)] with ctxs := (equipped 0).ctxs }; ∃ u, Issues (.amsg ⟨0, 0, 0, 2⟩) u s ∧
    (!(checkLanes u false u.act fun k => amsgCheck u (advance (.amsg ⟨0, 0, 0, 2⟩) u s) 0 2 (u.rd s k 0 + 0x00FF0000).toNat).isOk) = true :=
  meets_spec (by decide +kernel)

theorem test_handler_entry_fails : ∀ x ∈ [([(0, 15)], 0), ([(0, 16), (2, 2)], 1), ([(0, 96), (3, 0x80000000)], 2)],
    ∃ u, Issues (.amh ⟨0, 0, 0, 2⟩) u (withV x.1) ∧ (!u.act.isEmpty &&
      (let n := (u.rd (withV x.1) u.low 0).toNat
       let a := u.rd64 (withV x.1) u.low 2
       let count := n == 0 || (decide (16 ≤ n) && decide (n ≤ 96) && n % 8 == 0)
       (if !count then 0 else if a.toNat % 4 != 0 then 1 else if canonical a then 3 else 2) == x.2)) = true := by
  intro x hx
  simp only [List.mem_cons, List.not_mem_nil, or_false] at hx
  rcases hx with rfl | rfl | rfl <;> exact meets_spec (by decide +kernel)

/-- The equipped device in which an RDEF to slot 0 is unfinished. -/
def defining : State := { equipped 0 with rdefs := [{ id := 2, cxid := 0, gid := 9, slot := 0, defn := [], status := 0, dst := [] }] }

theorem test_remote_waits : ∃ u, Issues (.rop ⟨0, 0, 4, 0⟩) u defining ∧ (!u.act.isEmpty && slotBusy defining 0 0) = true :=
  meets_spec (by decide +kernel)

theorem test_remote_misfits : ∃ u, Issues (.ropr ⟨0, 0, 95, 0⟩) u (equipped 0) ∧
    ((List.range (ruRegs [0x80000] true)).any fun j => decide (95 < 96) && !decide (95 + j < 96)) = true :=
  meets_spec (by decide +kernel)

theorem test_remote_fails : let s : State := { unmapped with ctxs := (equipped 0).ctxs }; ∃ u, Issues (.rop ⟨0, 0, 4, 0⟩) u s ∧
    (!passes s (.rop ⟨0, 0, 4, 0⟩) true (fun u s' k => ruLaneCheck u s' [0x80000] (u.rd64 s k 0)) u) = true :=
  meets_spec (by decide +kernel)

theorem test_stream_register_fails : ∀ x ∈ [([(0, 3)], false), ([(0, 4)], false), ([(2, 2)], true)],
    ∃ u, Issues (.mstr ⟨0, 0, 0⟩) u (withV x.1) ∧ (!u.act.isEmpty &&
      (let m := BitVec.ofNat 128 (leNat (wordsBytes (u.rdN (withV x.1) u.low 0 4)))
       (m.extractLsb' 0 2 != 3 && m.extractLsb' 2 21 == 0) == x.2 && (msBase m % 4 == 0) != x.2)) = true := by
  intro x hx
  simp only [List.mem_cons, List.not_mem_nil, or_false] at hx
  rcases hx with rfl | rfl | rfl <;> exact meets_spec (by decide +kernel)

theorem test_tile_absent : ∀ i ∈ [Instr.aclr ⟨0, 1, 0⟩, .awrite ⟨0, 0, 1, 0, 0⟩, .aread ⟨0, 0, 1, 0, 0⟩], ∃ u, Issues i u probe ∧
    decide (u.accCount probe ≤ 1) = true := fun i hi =>
  meets_spec (List.all_eq_true.1 (by decide +kernel : ([Instr.aclr ⟨0, 1, 0⟩, .awrite ⟨0, 0, 1, 0, 0⟩, .aread ⟨0, 0, 1, 0, 0⟩].all fun i =>
    meets probe i fun u => decide (u.accCount probe ≤ 1)) = true) i hi)

theorem test_tile_waits : ∀ i ∈ [Instr.aclr ⟨0, 0, 0⟩, .awrite ⟨0, 0, 0, 0, 0⟩], ∃ u, Issues i u (streams 1) ∧
    (decide (0 < u.accCount (streams 1)) && u.ordFull.isEmpty && !u.writers.isEmpty && tileBusy u (streams 1) 0) = true := fun i hi =>
  meets_spec (List.all_eq_true.1 (by decide +kernel : ([Instr.aclr ⟨0, 0, 0⟩, .awrite ⟨0, 0, 0, 0, 0⟩].all fun i =>
    meets (streams 1) i fun u => decide (0 < u.accCount (streams 1)) && u.ordFull.isEmpty && !u.writers.isEmpty &&
      tileBusy u (streams 1) 0) = true) i hi)

theorem test_frmstat_far : let s := withV [(1, 0x80000000)]; ∃ u, Issues (.frmstat ⟨0, 0, 0⟩) u s ∧
    (u.act.any fun k => !canonical (u.rd64 s k 0)) = true := meets_spec (by decide +kernel)

/-- The probe's program after one prefixing word of each kind for one unit. -/
def prefixed : State := { probe with runs := probe.runs.map fun r => { r with
  pfx := { guard := some ⟨0, 0, 0⟩, block := some ⟨1, 1, 0⟩, mod := some ⟨0, 0, 0, 0, 0, 1, 0, 0⟩, mxsc := some ⟨0, 0⟩, imm := some 0 }
  off := 5 } }

theorem test_prefixing_twice : prefixed.issue?.isSome = true ∧ (prefixed.issue?.map fun u => u.pfx.guard.isSome && u.pfx.block.isSome &&
    u.pfx.mod.isSome && u.pfx.mxsc.isSome && u.pfx.imm.isSome) = some true ∧
    (quiet.issue?.map fun u => u.tids.any fun k => (u.grp.thr k).guard.isSome) = some true := by decide +kernel

/-- The probe's program in a guard range that has ended and leaves no lane active: the only way in which a unit that takes
no GUARD has no active lane. -/
def deserted : State := { probe with groups := probe.groups.map fun g =>
  { g with threads := g.threads.map fun th => { th with guard := some ⟨0, false, 0, false⟩ } } }

theorem test_deserted : ∀ i ∈ [Instr.csrw ⟨0, 0, 4⟩, .ctxStop ⟨0, 0, 0, 2⟩, .ctxStat ⟨0, 0, 0, 2⟩, .ctxKill ⟨0, 0, 2⟩, .ctxNew ⟨0, 0, 0⟩,
    .launch ⟨0, 8, 0, 0⟩, .mstr ⟨0, 0, 0⟩, .tlbinvPage ⟨0, 0⟩, .mburst ⟨0, 4⟩], ∃ u, Issues i u deserted ∧
    u.act.isEmpty = true := fun i hi =>
  meets_spec (List.all_eq_true.1 (by decide +kernel : ([Instr.csrw ⟨0, 0, 4⟩, .ctxStop ⟨0, 0, 0, 2⟩, .ctxStat ⟨0, 0, 0, 2⟩,
    .ctxKill ⟨0, 0, 2⟩, .ctxNew ⟨0, 0, 0⟩, .launch ⟨0, 8, 0, 0⟩, .mstr ⟨0, 0, 0⟩, .tlbinvPage ⟨0, 0⟩,
    .mburst ⟨0, 4⟩].all fun i => meets deserted i fun u => u.act.isEmpty) = true) i hi)

theorem test_tst_idle : ∃ u, Issues (.tst ⟨0, 8, 6, 4⟩) u guarded ∧ (u.act.isEmpty && (u.tids.all fun k => decide ((u.grp.thr k).nst < 8)) &&
    chunkRoom (advance (.tst ⟨0, 8, 6, 4⟩) u guarded) u.grp 0) = true := meets_spec (by decide +kernel)

/-! ## System units, prefixing words and traps -/

theorem test_register_known : ∀ n ∈ [0, 7], ∃ u, Issues (.csrr ⟨0, 0, n⟩) u probe ∧ Issues (.csrw ⟨0, 0, n⟩) u probe ∧
    (!u.act.isEmpty && (((probe.ctx? u.grp.cxid).bind fun c => csrRead probe u.grp c n.toNat).isSome)) = true := by
  have k : ∀ n ∈ [(0 : BitVec 12), 7], meets probe (.csrr ⟨0, 0, n⟩) (fun u => !u.act.isEmpty &&
      ((probe.ctx? u.grp.cxid).bind fun c => csrRead probe u.grp c n.toNat).isSome) = true ∧
      meets probe (.csrw ⟨0, 0, n⟩) (fun _ => true) = true := by decide +kernel
  intro n hn
  obtain ⟨u, h, e⟩ := meets_spec (k n hn).1
  obtain ⟨v, h', -⟩ := meets_spec (k n hn).2
  have : u = v := Option.some.inj (h.1.symm.trans h'.1)
  exact ⟨u, h, this ▸ h', e⟩

theorem test_register_unknown : ∃ u, Issues (.csrr ⟨0, 0, 0xFFF⟩) u probe ∧
    ((probe.ctx? u.grp.cxid).bind fun c => csrRead probe u.grp c 0xFFF).isNone = true := meets_spec (by decide +kernel)

theorem test_register_misaligned : let s := withV [(0, 2)]; ∃ u, Issues (.csrw ⟨0, 0, 4⟩) u s ∧
    (!u.act.isEmpty && (u.rd s u.low 0).toNat % 4 != 0) = true := meets_spec (by decide +kernel)

/-- The context instructions. -/
def ctxInstrs : List Instr := [.ctxNew ⟨0, 0, 0⟩, .ctxRun ⟨0, 0, 0, 2⟩, .ctxGrant ⟨0, 0, 0, 2⟩, .ctxRevoke ⟨0, 0, 0, 2⟩,
  .ctxStop ⟨0, 0, 0, 2⟩, .ctxStat ⟨0, 0, 0, 2⟩, .ctxKill ⟨0, 0, 2⟩]

theorem test_context_performs : ∀ i ∈ ctxInstrs, ∃ u, Issues i u probe ∧ (!u.act.isEmpty && (probe.ctx? u.grp.cxid).isSome && (gcheck (advance i u probe) 0 (u.rd64 probe u.low 0) 128 .store).isOk &&
    (match readOwn u (advance i u probe) u.low (u.rd64 probe u.low 0) 128 with
      | .ok (some _) => true
      | _ => false)) = true := fun i hi =>
  meets_spec (List.all_eq_true.1 (by decide +kernel : (ctxInstrs.all fun i => meets probe i fun u => !u.act.isEmpty && (probe.ctx? u.grp.cxid).isSome &&
    (gcheck (advance i u probe) 0 (u.rd64 probe u.low 0) 128 .store).isOk &&
    (match readOwn u (advance i u probe) u.low (u.rd64 probe u.low 0) 128 with
      | .ok (some _) => true
      | _ => false)) = true) i hi)

/-- The probe's device with a KILL of context 6 by context 0 at the context engine, and a store of its thread on its way or
performed. -/
def atContextEngine (done : Bool) : State := { probe with
  ctxops := [{ id := 5, gid := 1, tids := [0], cxid := 0, core := 0, kind := .kill, child := 6 }]
  reqs := [{ id := 2, cxid := 0, gid := 1, tid := 0, core := 0, kind := .store, va := 0x50000, b := 0, off := 0x50000, owner := 0,
             size := 4, performed := done }]
  nextId := 6 }

theorem test_context_engine : ∀ d ∈ [false, true], ∃ r ∈ (atContextEngine d).ctxops,
    (atContextEngine d).ctxops.find? (fun x => x.id == r.id) = some r ∧ ctxReady (atContextEngine d) r = d ∧
      ((atContextEngine d).ctx? r.cxid).isSome = true := by decide +kernel

theorem test_context_misaligned : let s := withV [(0, 64)]; ∃ u, Issues (.ctxNew ⟨0, 0, 0⟩) u s ∧
    (!u.act.isEmpty && (u.rd64 s u.low 0).toNat % 128 != 0) = true := meets_spec (by decide +kernel)

/-- A context of level 1, and a device in which it has a stopped child. -/
def parent : Ctx := { rootCtx with cxid := 5, level := 1 }
def family : State := { State.reset with ctxs := [rootCtx, parent, { rootCtx with
  cxid := 6, parent := 5, level := 2, state := .stopped, cores := 0, fbud := 0, cxbud := 0, qbud := 0, trate := 0, runset := 0 }] }

theorem test_context_done : (ctxNew family parent (List.replicate 32 0)).code = 0 ∧
    (ctxStop family parent 6 0 0).code = 0 ∧ (ctxKill family parent 6).code = 0 ∧ (ctxStat family parent 6).code = 0 ∧
    (ctxRun family parent 7 (List.replicate 16 0)).code ≠ 0 := by decide +kernel

theorem test_trapret_unbound : ∃ u, Issues (.trapret ⟨0⟩) u probe ∧ (boundRec (advance (.trapret ⟨0⟩) u probe) u.grp).isNone = true :=
  meets_spec (by decide +kernel)

/-- The probe's program as the handler of a precise trap whose record holds a resume address. -/
def handling (pc : DWord) : State := { probe with
  groups := probe.groups.map fun g => { g with kind := .trapHandler 5 }
  recs := [{ trap := { id := 2, cause := .software, cxid := 0, gid := 1 }, dest := 0, seq := 5, ring := 0, bound := some 1, pc := pc }] }

theorem test_trapret_bound : ∀ pc ∈ [(0x40 : DWord), 2, 0x8000000000000000], ∃ u, Issues (.trapret ⟨0⟩) u (handling pc) ∧
    (match boundRec (advance (.trapret ⟨0⟩) u (handling pc)) u.grp with
      | some r => r.act != 1 && needsPc (advance (.trapret ⟨0⟩) u (handling pc)) r && r.pc == pc
      | none => false) = true := by
  intro x hx
  simp only [List.mem_cons, List.not_mem_nil, or_false] at hx
  rcases hx with rfl | rfl | rfl <;> exact meets_spec (by decide +kernel)

theorem test_tlbinv_allowed : ∀ i ∈ [Instr.tlbinvPage ⟨0, 0⟩, .tlbinvCtx ⟨0, 0⟩, .tlbinvSubtree ⟨0, 0⟩], ∃ u, Issues i u probe ∧
    (canonical (u.rd64 probe u.low 0) && (subtree probe u.grp.cxid).any fun c => c.cxid == (u.rd64 probe u.low 0).toNat) = true :=
  fun i hi => meets_spec (List.all_eq_true.1 (by decide +kernel : ([Instr.tlbinvPage ⟨0, 0⟩, .tlbinvCtx ⟨0, 0⟩,
    .tlbinvSubtree ⟨0, 0⟩].all fun i => meets probe i fun u => canonical (u.rd64 probe u.low 0) &&
      (subtree probe u.grp.cxid).any fun c => c.cxid == (u.rd64 probe u.low 0).toNat) = true) i hi)

theorem test_tlbinv_refused : ∀ x ∈ [(1, 0), (65535, 0), (0, 1)], let s := withV [(0, x.1), (1, x.2)]; ∃ u, Issues (.tlbinvCtx ⟨0, 0⟩) u s ∧
    (!u.act.isEmpty && !((subtree s u.grp.cxid).any fun c => c.cxid == (u.rd64 s u.low 0).toNat)) = true := by
  intro x hx
  simp only [List.mem_cons, List.not_mem_nil, or_false] at hx
  rcases hx with rfl | rfl | rfl <;> exact meets_spec (by decide +kernel)

theorem test_frmstat : ∃ u, Issues (.frmstat ⟨0, 0, 0⟩) u probe ∧ (u.act.all fun k => canonical (u.rd64 probe k 0)) = true :=
  meets_spec (by decide +kernel)

theorem test_prefixing_once : probe.issue?.isSome = true ∧ guarded.issue?.isSome = true ∧
    (probe.issue?.map fun u => u.pfx.guard.isNone && u.tids.all fun k => (u.grp.thr k).guard.isNone) = some true ∧
    (guarded.issue?.map fun u => u.pfx.guard.isSome) = some true ∧ (quiet.issue?.map fun u => u.pfx.guard.isNone) = some true := by
  decide +kernel

theorem test_prefix_run_control : (0x78 ≤ ((0xF0800000 : Word).extractLsb' 25 7).toNat ∧ (0xF0800000 : Word).extractLsb' 23 2 ≠ 0) ∧
    (0x78 ≤ ((0xFF800000 : Word).extractLsb' 25 7).toNat ∧ (0xFF800000 : Word).extractLsb' 23 2 ≠ 0) := by decide

theorem test_unnamed_word : isPfxWord 0x6C000000 = false ∧ identify 0x6C000000 = none := by decide

/-- The probe's program in user mode. -/
def user : State := { probe with groups := probe.groups.map fun g => { g with kind := .block } }

theorem test_reserved_words : isPfxWord 0xE6800001 = false ∧ identify 0xE6800001 = some (.trapret ⟨1⟩) ∧ (decode 0xE6800001).isWord = false ∧
    (guarded.issue?.map fun u => refused (.trapret ⟨1⟩) u) = some true ∧
    (user.issue?.map fun u => !refused (.trapret ⟨1⟩) u && !u.grp.isSup) = some true ∧
    (probe.issue?.map fun u => !refused (.trapret ⟨1⟩) u && u.grp.isSup) = some true := by decide +kernel

theorem test_checks_fail : ((probe.issue?.map fun u => (refused (.iadd64 ⟨0, 1, 0, 0, 0, 0⟩) u, encodingBad (.iadd64 ⟨0, 1, 0, 0, 0, 0⟩) u)) =
      some (false, true)) ∧
    ((guarded.issue?.map fun u => refused (.bar ⟨0, 0⟩) u) = some true) ∧
    ((user.issue?.map fun u => !refused (.trapret ⟨0⟩) u && !u.grp.isSup) = some true) ∧
    (probe.issue?.map fun u => (illegal (.iadd64 ⟨0, 1, 0, 0, 0, 0⟩) u probe).isSome) = some true := by decide +kernel

theorem test_handler_excluded : ((handling 0).issue?.map fun u => u.grp.isHandler && Instr.notInHandler (.bar ⟨0, 0⟩)) = some true := by
  decide +kernel

/-- The probe's program as a group of a kind. -/
def asKind (k : GKind) : State := { probe with groups := probe.groups.map fun g => { g with kind := k } }

theorem test_trap_entry : ∀ k ∈ [GKind.block, .handler 7], ∃ g ∈ (asKind k).groups, (asKind k).grp? g.gid = some g ∧ g.kind = k ∧
    g.isHandler = decide (k = .handler 7) ∧ ∀ c ∈ [Cause.regionFull, .uncorrectable], decide (c = .regionFull ∨ c = .uncorrectable) = true := by
  decide +kernel

/-- The device of a handler whose trapped threads are stopped with a store held, their regions discarded since or not. -/
def returning (redo : Bool) : State := { handling 0x40 with
  groups := probe.groups.map fun g => { g with kind := .trapHandler 5, threads := g.threads.map fun th => { th with
    stopped := true, redo := redo
    stores := [{ glob := true, cxid := 0, va := 0x50000, b := 0, off := 0x50000, owner := 0, blk := 0, size := 4, data := 1, ord := 0, scope := 4, pol := 0, inst := 2, fpc := 0x20000 }] } }
  recs := [{ trap := { id := 2, cause := .software, cxid := 0, gid := 1, lmask := 1 }, dest := 0, seq := 5, ring := 0, bound := some 1, pc := 0x40 }] }

theorem test_trap_return : ∀ d ∈ [false, true], ∃ r ∈ (returning d).recs, r.trap.fatal = false ∧ r.trap.async = false ∧ r.trap.cocoon = false ∧
    r.trap.cause ≠ .reentryLimit ∧ ∃ g ∈ (returning d).groups, (returning d).grp? r.trap.gid = some g ∧ g.gid = r.trap.gid ∧
      ∃ k ∈ List.range g.width, r.trap.lmask.getLsbD k = true ∧ (g.thr k).stopped = true ∧ (g.thr k).redo = d ∧ (g.thr k).stores ≠ [] := by
  decide +kernel

theorem test_unit_ends : (probe.issue?.map fun u => (probe.groups.any fun x => x.gid == u.gid) && u.act.all fun k => u.tids.contains k) =
    some true := by decide +kernel

/-! ## Events: states in which they take place -/

/-- The probe's program whose thread 0 is another. -/
def withThread (th : Thread) : State := { probe with groups := probe.groups.map fun g => { g with threads := g.threads.set 0 th } }

theorem test_arbitration : let s : State := { probe with runs := [] }
    (∀ r ∈ s.runs, ¬(r.core = 0 ∧ r.part = 0)) ∧ ∃ g ∈ issuers s 0 0, (g.retry s).mayIssue s ≠ [] := by decide +kernel

theorem test_run_limit : ∃ r ∈ ({ probe with clk := 32 } : State).runs,
    r.core = 0 ∧ r.part = 0 ∧ r.single = false ∧ r.start + 32 ≤ 32 := by decide +kernel

theorem test_starvation : let s := withThread { programThread with waited := 1024 }
    ∃ g ∈ s.groups, s.grp? 1 = some g ∧ g.fper ≤ (g.thr 0).waited ∧ (s.ctx? g.cxid).isSome = true ∧
      g.ready 0 = true ∧ (g.thr 0).starved = none := by decide +kernel

theorem test_landing : let p : Pend := { id := 9, dsts := [some 95, some 96, none], words := [some 1, some 2, some 3] }
    let s := withThread { programThread with pend := [p] }
    (∃ g ∈ s.groups, s.grp? 1 = some g ∧ (g.thr 0).pend.find? (fun q => q.id == 9) = some p) ∧ p.bad = none ∧ p.tile = none ∧
      (∀ w ∈ p.words, w ≠ none) ∧ p.dsts.length = p.words.length ∧ (p.dsts.filterMap fun d => d).Nodup :=
  ⟨by decide +kernel, rfl, rfl, by simp, rfl, by decide⟩

theorem test_landing_fails : let s := withThread { programThread with pend := [{ id := 9, dsts := [], words := [], bad := some .uncorrectable }] }
    ∃ g ∈ s.groups, s.grp? 1 = some g ∧ ∃ p ∈ (g.thr 0).pend, (g.thr 0).pend.find? (fun q => q.id == 9) = some p ∧
      p.bad = some .uncorrectable := by decide +kernel

theorem test_fence_done : let s := withThread { programThread with park := some (.fence 2 3 4 none) }
    ∃ g ∈ s.groups, s.grp? 1 = some g ∧ (g.thr 0).park = some (.fence 2 3 4 none) ∧ performed s 1 0 2 = true ∧
      returned s 1 0 2 (g.thr 0) = true := by decide +kernel

theorem test_tlbinv_done : let s := withThread { programThread with park := some (.tlbinv 0 0x10000 2) }
    ∃ g ∈ s.groups, s.grp? 1 = some g ∧ (g.thr 0).park = some (.tlbinv 0 0x10000 2) ∧ uncovered s 1 0 2 = false ∧
      ∀ e ∈ s.tlb, tlbHit s g.cxid 0 0x10000 e = true → False := by decide +kernel

theorem test_waita_done : let s := withThread { programThread with park := some (.waita false 0 0x50000 none none 0x20000) }
    ∃ g ∈ s.groups, s.grp? 1 = some g ∧ (g.thr 0).park = some (.waita false 0 0x50000 none none 0x20000) ∧
      g.runs s = true ∧ (loadAt s g.cxid 0x50000 4).isOk = true ∧
      ownPending s 1 0 0 0x50000 4 = false ∧ acquiring s 1 0 = false ∧
      BitVec.ofNat 32 (leNat (s.readBuf 0 0x50000 4)) = 0 := by decide +kernel

/-- The probe's program whose thread 0 waits, with its timeout run out, for the word at 50000H to be val. -/
def expired (val : Word) : State := withThread { programThread with park := some (.waita false val 0x50000 (some 0) (some 4096) 0x20000) }

theorem test_watchdog : ∀ b ∈ [true, false], ∃ g ∈ (expired (if b then 0 else 1)).groups,
    (expired (if b then 0 else 1)).groups.find? (fun x => x.gid == 1) = some g ∧ 0 ∈ g.live ∧ (expiredAt (g.thr 0)).isSome = true ∧
    g.runs (expired (if b then 0 else 1)) = true ∧ waitaMet (expired (if b then 0 else 1)) g 0 = b := by decide +kernel

/-! ### Placement and queues -/

/-- The reset state with a grid of one block that has left its queue. -/
def waitingGrid : State := { State.reset with nextId := 10, grids := [{ gr := 2, cxid := 0, lrec := launchRec, q := 0, leftAt := 1 }] }

theorem test_block_placed : supWaits waitingGrid 0 = false ∧ msgWaits waitingGrid 95 = false ∧ trapWaits waitingGrid 95 = false ∧
    (turnOrder waitingGrid (95 / 96)).find? (fun c => readyOnDie waitingGrid c (95 / 96)) = some 0 ∧
    (placeHead waitingGrid 0 95 0).isSome = true := by decide +kernel

theorem test_block_retires : let s : State := { probe with groups := [] }
    ∃ b ∈ s.blocks, s.blk? 1 = some b ∧ ∀ g ∈ allGroups s b, groupDone s g = true := by decide +kernel

theorem test_grid_ends : let s : State := { probe with grids := probe.grids.map fun g => { g with ending := some 1 } }
    ∃ g ∈ s.grids, s.grid? 1 = some g ∧ g.ending ≠ none ∧ g.ended = false := by decide +kernel

/-- The reset state whose root wants its supervisor group. -/
def wanting : State := { State.reset with ctxs := State.reset.ctxs.map fun c => { c with wantSup := true } }

theorem test_supervisor_starts : ∃ c ∈ wanting.ctxs, wanting.ctx? 0 = some c ∧ placeSet wanting 0 ≠ 0 ∧ c.wantSup = true ∧
    (placeSet wanting 0).getLsbD 0 = true ∧
    let x : Grid := { gr := 1, cxid := 0, lrec := supRecord c, q := 0, leftAt := 1, next := 1, sup := true,
                      first := 1, seen := wanting.allWrites }
    let s1 : State := { wanting with grids := wanting.grids ++ [x], nextId := 2 + blockIds x }
    (putUnit (placeSet wanting 0) 0 0 [newBlock x 0 2] s1).isSome = true ∧ msgWaits s1 0 = false ∧ trapWaits s1 0 = false := by
  decide +kernel

/-- The probe's supervisor after its block was saved. -/
def savedSup : State := { probe with
  blocks := probe.blocks.map fun b => { b with saved := some [programGroup] }
  groups := []
  runs := []
  cur := none }

theorem test_supervisor_returns : ∃ c ∈ savedSup.ctxs, savedSup.ctx? 0 = some c ∧ placeSet savedSup 0 ≠ 0 ∧ c.wantSup = false ∧
    ∃ u ∈ savedOf savedSup (fun b => b.cxid == 0 && savedSup.grids.any fun g => g.gr == b.gr && g.sup),
      savedOf savedSup (fun b => b.cxid == 0 && savedSup.grids.any fun g => g.gr == b.gr && g.sup) = [u] ∧
      (placeSet savedSup 0).getLsbD 0 = true ∧ (putUnit (placeSet savedSup 0) 0 0 [u] savedSup).isSome = true ∧
      msgWaits savedSup 0 = false ∧ trapWaits savedSup 0 = false := by decide +kernel

/-- A message to core 0 in a device whose root has the cores of a mask and a handler at entry 0. -/
def messaging (cores : BitVec 192) (st : MsgSt) : State := { State.reset with
  ctxs := State.reset.ctxs.map fun c => { c with cores := cores, runset := cores, handlers := [(0, 16, 0x20000)] }
  msgs := [{ id := 7, cxid := 0, gid := 50, gr := 50, op := 5, core := 0, h := 0, pay := [1], sender := 2, st := st, tid := 0 }]
  nextId := 60 }

theorem test_message_admitted : let s := messaging 1 .fabric
    ∃ m ∈ s.msgs, s.msgs.find? (fun m => m.id == 7) = some m ∧ m.st = .fabric ∧ runsOn s m.cxid m.core = true ∧
      queuedAt s m.core < 64 ∧ msgBehindFabric s m = false ∧ uncovered s m.gid m.tid m.op = false ∧
      ∃ c ∈ s.ctxs, s.ctx? m.cxid = some c ∧ c.cores.getLsbD m.core = true := by decide +kernel

theorem test_message_redirected : let s := messaging 8 .queued
    ∃ c ∈ s.ctxs, s.ctx? 0 = some c ∧ c.cores.getLsbD 0 = false ∧ (∀ j < 3, c.cores.getLsbD j = false) ∧
      c.cores.getLsbD 3 = true := by decide +kernel

theorem test_message_starts : let s := messaging 1 .queued
    ∃ m ∈ s.msgs, m.st = .queued ∧ (placeSet s m.cxid).getLsbD m.core = true ∧ msgBehind s m = false ∧
      trapWaits s m.core = false ∧ handlerEntry s m.cxid m.h = some (16, 0x20000) ∧ handlerEntry s m.cxid 1 = none ∧
      (putHandler s m.core 0 (handlerGroup s m.cxid (.handler 7) 16 0x20000 (fun t => [(0, m.pay.getD t 0), (1, m.sender)]) [] (senderKnown s m))).isSome =
        true := by decide +kernel

theorem test_message_leaves : let s := messaging 1 .issue
    ∃ m ∈ s.msgs, m.st = .issue ∧ permits s m.from_ (msgSlice m.core) < 6 ∧ ∀ x ∈ s.msgs, x.op = m.op → x.id < m.id → x.st ≠ .issue := by
  decide +kernel

theorem test_message_completes : let s := messaging 1 (.running 40)
    ∃ m ∈ s.msgs, m.st = .running 40 ∧ ∀ g ∈ s.groups, g.gid ≠ 40 := by decide +kernel

/-- A device in which context 5 has a trap record to handle. -/
def trapped : State := { family with nextId := 20, recs := [{ trap := { id := 2, cause := .software, cxid := 5, gid := 1 }, dest := 5, seq := 0, ring := 0 }] }

theorem test_trap_handler_starts : (trapHandlers trapped 5).length < 8 ∧
    ∃ r ∈ trapped.recs, nextRec trapped 5 = some r ∧ ∃ c ∈ trapped.ctxs, trapped.ctx? 5 = some c ∧
      handlerCore trapped r = some 0 ∧ (putHandler trapped 0 0 (handlerGroup trapped 5 (.trapHandler r.seq) 32 c.tvec
        (fun t => [(0, (trapWords r.trap 5 r.seq).getD t 0)]) ((List.range 8).map fun i => (i, 0)) trapped.allWrites)).isSome = true := by decide +kernel

/-- The probe's device whose root has entries in its queue 0. -/
def queued (es : List QEntry) : State := { probe with ctxs := probe.ctxs.map fun c => { c with queues := [(0, es)] } }

theorem test_grid_leaves : ∀ w ∈ [launchRec, launchRec.set 8 0x50000 |>.set 11 0x40000000], let s := queued [.captured w 50 2 [0] { scope := 4, who := {} } false]
    ∃ c ∈ s.ctxs, s.ctx? 0 = some c ∧ headRecord (queueOf c 0) = some w ∧ headWaits s (queueOf c 0) = false ∧ dispatches s 0 = true ∧
      predecessorsPlaced s 0 0 = true ∧ trapHeld s (.queue 0 0) = false ∧ coresFit s 0 w = true ∧
      (loadAt s 0 (lrDaddr w) 4).isOk = true ∧ (lrDcond w = 1 → leNat (s.readBuf 0 0x50000 4) = lrDval w) := by decide +kernel

theorem test_grid_behind : let s := { queued [.captured launchRec 50 2 [0] { scope := 4, who := {} } false] with
      grids := [{ gr := 2, cxid := 0, lrec := launchRec, q := 0, leftAt := 1 }] }
    predecessorsPlaced s 0 0 = false ∧ dispatches s 0 = true := by decide +kernel

theorem test_grid_dependences : lrDcond launchRec = 0 ∧ lrDcond ((launchRec.set 8 0x50000).set 11 0x40000000) = 1 := by decide +kernel

theorem test_host_list : ∀ w ∈ [launchRec, List.replicate 32 0], let s := withRec 0x30000 w (queued [.host none 0x30000 false])
    ∃ c ∈ s.ctxs, s.ctx? 0 = some c ∧ queueOf c 0 = [.host none 0x30000 false] ∧ dispatches s 0 = true ∧
      hasTokens s 0 4 = true ∧ (match readRec s 0 0x30000 128 with
        | .ok (x, _) => x == w
        | .error _ => false) = true ∧ trapHeld s (.queue 0 0) = false ∧ (launchCheck c 0 w = 0 ↔ w = launchRec) := by decide +kernel

theorem test_grid_completes : let s : State := { probe with groups := [], blocks := [], grids := [{ gr := 2, cxid := 0, lrec := launchRec, q := 0, leftAt := 1, next := 1 }] }
    ∃ g ∈ s.grids, s.grid? 2 = some g ∧ g.waits = false ∧ trapHeld s (.grid 2) = false ∧ gridDone s g = true ∧ g.phase = 0 ∧ lrSaddr g.lrec = 0 ∧
      lrCaddr g.lrec = 0 := by decide +kernel

/-- A device whose partition 0 is context 5 with one queue of n entries. -/
def kicked (n : Nat) : State := { family with
  ctxs := family.ctxs.map fun c => { c with nq := 1, queues := [(0, List.replicate n (.host none 0 false))] }
  parts := [{ i := 0, cxid := 5 }] }

theorem test_kick_page : ∀ n ∈ [1023, 1024], ∃ x ∈ (kicked n).ctxs, pageLive (kicked n) 1 = some x ∧ x.nq = 1 ∧
    pageCtx (kicked n) 1 ≠ none ∧ ((assoc 0 x.queues).getD []).length = n := by decide +kernel

theorem test_trusted_requests : let v : Vf := { n := 0, cxid := some 5, tdi := .run, stream := 9 }
    let s : State := { kicked 0 with vfs := [v], vfEnable := true }
    teeTaken s (pageFn 32) none = true ∧ teeTaken s (pageFn 32) (some 9) = true ∧ teeTaken s (pageFn 32) (some 8) = false ∧
      pageLive s 32 ≠ none ∧ pageCtx s 32 ≠ none ∧ teeTaken s (pageFn 1) (some 9) = false := by decide +kernel

theorem test_kick_values : (0x80 : DWord).toNat % 128 = 0 ∧ canonical 0x80 = true ∧ (0x40 : DWord).toNat % 128 ≠ 0 ∧
    canonical 0x8000000000000000 = false ∧ (0xC0000000 : Word).toNat / 2 ^ 30 = 3 ∧ 10 < (0x2C000000 : Word).toNat / 2 ^ 26 % 16 ∧
    (0xA8000000 : Word).toNat / 2 ^ 30 ≠ 3 ∧ (0xA8000000 : Word).toNat / 2 ^ 26 % 16 ≤ 10 := by decide

theorem test_kick_latch : let s : State := (kicked 0).setKick { (kicked 0).kick 1 0 with latch := some 0x80 }
    (s.kick 1 0).latch = some 0x80 ∧ ((kicked 0).kick 1 0).latch = none ∧ pageCtx s 1 ≠ none := by decide +kernel

/-! ### Traps and saves -/

/-- The probe's device with a trap of its group, attached to a debugger for a mask of causes. -/
def trapping (t : Trap) (mask : BitVec 32) : State := { probe with traps := [t], attach := [⟨none, 0, mask⟩] }

theorem test_trap_delivered : ∀ d ∈ [false, true], let t : Trap := { id := 2, cause := .software, cxid := 0, gid := 1 }
    let s := trapping t (if d then 0x200000 else 0)
    s.traps.find? (fun t => t.id == 2) = some t ∧ deliverable s t = true ∧ attached s t = d ∧
      (s.ctx? (receiver s t)).isSome = true ∧ (s.recs.filter fun r => r.dest == receiver s t).length < 64 := by decide +kernel

/-- The probe's program held for a page fault, or by a debugger that has resumed it. -/
def held (h : Hold) : State := { probe with groups := probe.groups.map fun g => { g with hold := some h } }

/-- A trap of a page fault at an address. -/
def fault (va : DWord) : Trap := { id := 2, cause := .pageFault, cxid := 0, faddr := va }

theorem test_frame_saved : let s := held ⟨.pageFault (fault 0x50000), false⟩
    ∃ g ∈ s.groups, s.grp? 1 = some g ∧ g.hold = some ⟨.pageFault (fault 0x50000), false⟩ ∧
      (∀ k ∈ g.live, ∀ p ∈ (g.thr k).pend, (g.thr k).rid ≤ p.id) ∧ (∀ m ∈ s.mxs, m.gid = 1 → m.mma = false) ∧
      (∀ r ∈ s.reqs, r.gid ≠ 1) ∧ (∀ r ∈ s.rus, r.gid = 1 → r.sent = true) ∧ ∀ r ∈ s.ctxops, r.gid ≠ 1 := by decide +kernel

theorem test_frame_left : let s := held ⟨.debugger true, true⟩
    ∃ g ∈ s.groups, s.groups.find? (fun x => x.gid == 1) = some g ∧ g.hold = some ⟨.debugger true, true⟩ ∧
      ((s.grid? g.gr).all fun x => x.ending.isNone) = true := by decide +kernel

theorem test_frame_fault : ∀ d ∈ [false, true], let va : DWord := if d then 0x50000 else 0x40000000
    let s := held ⟨.pageFault (fault va), true⟩
    (∀ t ∈ s.traps, t.id ≠ (fault va).id) ∧ (∀ r ∈ s.recs, r.trap.id ≠ (fault va).id) ∧ (compose s 0 va).isOk = d := by decide +kernel

/-- The probe's block, asked to leave its core. -/
def leaving (p : Pre) (pe : Option (List Word)) : State := { probe with blocks := probe.blocks.map fun b => { b with pre := some p, pe := pe } }

theorem test_block_saved : let s := leaving ⟨true, none⟩ none
    ∃ b ∈ s.blocks, s.blk? 1 = some b ∧ b.pre = some ⟨true, none⟩ ∧ b.saved = none ∧ b.full = false ∧ saveQuiet s b = true ∧
      ({ s with saveBytes := 0 } : State).saveBytes < saveUsed s + saveSize b (blockGroups s 1) ∧ saveUsed s - (((blockGroups s 1).filter fun g => !g.live.isEmpty).map fun g => frameBytes g.width g.nregs).sum +
        saveSize b (blockGroups s 1) ≤ s.saveBytes ∧
      ((((blockGroups s 1).filter fun g => g.hold.isNone).foldl (fun s g => discard s g.gid g.live false) s).blk? 1).isSome = true := by
  decide +kernel

theorem test_block_saved_gracefully : let s := leaving ⟨false, some 9⟩ (some [0, 0, 0, 0, 0, 0x80000000])
    ∃ b ∈ s.blocks, s.blk? 1 = some b ∧ b.full = false ∧ b.saved = none ∧ saveQuiet s b = true ∧ b.pe = some [0, 0, 0, 0, 0, 0x80000000] ∧
      ∀ g ∈ blockGroups s 1, g.ops = [] ∧ g.hold = none := by decide +kernel

theorem test_deadline : let s : State := { leaving ⟨false, some 9⟩ none with clk := 9 }
    ((s.blocks.filter fun b => b.cxid == 0 && b.saved.isNone).filter fun b => match b.pre with
      | some ⟨false, some k⟩ => decide (k ≤ s.clk)
      | _ => false) ≠ [] := by decide +kernel

theorem test_context_ends : let x : Ctx := { parent with slice := some 0, pendVacate := true, sweepWays := 0x8001, wmask := 0 }
    let s : State := { State.reset with ctxs := [rootCtx, x] }
    s.ctx? 5 = some x ∧ x.state = .running ∧ x.slice = some 0 ∧ x.pendVacate = true ∧ x.revoking = 0 ∧ x.sweepWays ≠ 0 ∧
      ∀ r ∈ s.rus, r.cxid = 5 → r.id < x.sweepUpto → r.applied = true := by decide +kernel

/-! ### Transfers, frames and matrices -/

/-- A transfer record of 8 bytes in two chunks' places, owned, to the scratchpad, or to memory with a completion word. -/
def btRecord (glob : Bool) : List Word := [0, 0, if glob then 0x8A000000 else 0x84000000, 8, 0x50000, 0,
  if glob then 0x60000 else 0x100, 0, 0x70000, 0, 1, 0x200, 0, 0, 0, 0]

/-- The probe's device with a transfer operation. -/
def transferring (o : BtOp) : State := { probe with bts := [o] }

/-- An operation of the probe's group. -/
def btOp (ptr : DWord) (tc : Option (List Word)) (cur : Option BtRec) (fault : Option Nat) (stop : Bool) : BtOp :=
  { id := 2, gid := 1, cxid := 0, bid := 1, core := 0, ch := 0, ptr := ptr, tcopy := tc, cur := cur, fault := fault, stop := stop }

theorem test_record_start : ∀ o ∈ [btOp 0 (some (btRecord false)) none none false, btOp 0 none none none false, btOp 0x30000 none none none false],
    (transferring o).bt? 2 = some o ∧ o.cur = none ∧ o.fault = none ∧ o.stop = false ∧ o.waits = false ∧
      btMayStart (transferring o) o = true := by decide +kernel

theorem test_record_read : ∀ w ∈ [btRecord true, (btRecord true).set 2 0], let s := withRec 0x30000 w (transferring (btOp 0x30000 none none none false))
    mayRead s (btOp 0x30000 none none none false) 0x30000 = true ∧ (match readRec s 0 0x30000 64 with
      | .ok (x, _) => x == w
      | .error _ => false) = true ∧ btOwn w = (w == btRecord true) := by decide +kernel

theorem test_chunk_lands : ∀ glob ∈ [false, true], let r : BtRec := { addr := 0x30000, w := btRecord glob, extent := 8 }
    let o := btOp 0x30000 none (some r) none false
    let s := transferring o
    s.bt? 2 = some o ∧ 0 ∉ r.landed ∧ 0 < chunkCount r.extent ∧ (match chunkStart s o r 0 with
      | .ok (_, q) => q.checked
      | .error _ => false) = true ∧
    (match chunkStart { s with ctxs := s.ctxs.map fun c => { c with tokens := 0 } } o r 0 with
      | .ok _ => false
      | .error _ => true) = true ∧ btKind r.w ≠ 3 ∧ btGlob r.w = glob ∧
      (btPieces (takeTokens { s with free := s.free + 1 } 0 (chunkTokens r 0)) o 0 r (chunkCuts r 0)).2.2.isNone = true ∧
      (btPieces s o 0 { r with w := r.w.set 4 0x50000004 } (chunkCuts r 0)).2.2.isSome = true ∧
      (match btBytes s o r 0 8 with
        | .ok (s1, r1, ys) => btGlob r1.w == glob && (!glob || (btPlaces s1 o (btDst r1.w) ys).isOk)
        | .error _ => false) = true := by decide +kernel

theorem test_record_ends : ∀ glob ∈ [false, true], let r : BtRec := { addr := 0x30000, w := btRecord glob, extent := 8, landed := [0] }
    let s := transferring (btOp 0x30000 none (some r) none false)
    (∀ c < chunkCount r.extent, c ∈ r.landed) ∧ btCwv r.w = glob ∧ (storeAt s 0 (btCaddr r.w) 4).isOk = true ∧
      (storeAt s 0 (r.addr + 8) 4).isOk = true := by decide +kernel

theorem test_chain_stops : let o := btOp 0x30000 none none (some 0x41) false
    let o' := btOp 0 none none none true
    (transferring o).bt? 2 = some o ∧ o.fault = some 0x41 ∧ (transferring o').bt? 2 = some o' ∧ o'.stop = true ∧ o'.fault = none ∧
      trapHeld (transferring o') (.bt 2) = false := by
  decide +kernel

/-- A device with a frame in a state. -/
def framed (st : FrameSt) : State := { probe with frames := [{ b := 0, f := 16383, st := st, owner := 0, next := 5, order := 1, before := 9 }] }

theorem test_frame_scrubs : (((framed .freed).frame 0 16383).st = .freed ∧ ∀ y ∈ (framed .freed).frames, y.st = .freed → frameDie (framed .freed) y.b y.f = frameDie (framed .freed) 0 16383 →
      ((framed .freed).frame 0 16383).order ≤ y.order) ∧
    ((framed .scrubbing).frame 0 16383).st = .scrubbing ∧ frameBusy (framed .scrubbing) ((framed .scrubbing).frame 0 16383) = false ∧
    ∃ x ∈ (framed .scrubbing).bufs, (framed .scrubbing).buf? 0 = some x ∧ granuleBytes x ≤ 65536 ∧ x.base % 32 = 0 ∧
      (place x (16383 * 65536 + 65535)).isSome = true := by decide +kernel

theorem test_context_released : let s : State := { State.reset with ctxs := [rootCtx, { parent with state := .killed }] }
    ∃ x ∈ s.ctxs, s.ctx? 5 = some x ∧ x.state = .killed ∧ (∀ f ∈ s.frames, f.owner ≠ 5) ∧ (∀ b ∈ s.bufs, b.bown = 5 → b.kind = .hbm ∨ b.kind = .cxl) ∧
      (∀ r ∈ s.rus, r.cxid = 5 → r.applied = true) ∧ s.reqs = [] ∧ s.vfs = [] := by decide +kernel

/-- The streams' device whose array is in a ramp state and whose operation has summed n k-groups. -/
def ramped (st : RampSt) (ops : List MxOp) (clk : Nat) : State := { streams 0 with
  ramps := [{ core := 0, part := 0, st := st, since := 0, upFor := 32, window := 0 }]
  mxs := ops
  clk := clk }

theorem test_sequencer : ∀ m ∈ [{ matrixOp 0 with a := [(0, [1, 2, 3, 4])], pairing := 7 }, { matrixOp 0 with started := true, next := 0 },
      { matrixOp 0 with started := true, next := 1 }, { matrixOp 0 with started := true, next := 1, mma := true }],
    (ramped .hot [m] 0).mxs.find? (fun m => m.core == 0 && m.part == 0) = some m ∧ ((ramped .hot [m] 0).ramp 0 0).st = .hot ∧
      areadWaits (ramped .hot [m] 0) m = false ∧ (m.a.map Prod.fst).Nodup ∧ 0 < msCols m.ms ∧ 0 < m.kg ∧
      0 < stepClk m.pairing 16 (msCols m.ms) ∧ m.at_ + stepClk m.pairing 16 (msCols m.ms) ≤ 10000 := by decide +kernel

theorem test_ramp : ((ramped .rampUp [] 32).ramp 0 0).since + ((ramped .rampUp [] 32).ramp 0 0).upFor ≤ 32 ∧
    max ((ramped .hot [] 240).ramp 0 0).since ((ramped .hot [] 240).ramp 0 0).window + 240 ≤ 240 ∧ (∀ m ∈ (ramped .hot [] 240).mxs, ¬(m.core = 0 ∧ m.part = 0)) ∧
    ((ramped .rampDown [] 16).ramp 0 0).since + 16 ≤ 16 := by decide +kernel

theorem test_matrix_element : let m := { matrixOp 0 with a := [(63, [1, 2, 3, 4])], pairing := 7 }
    (m.a.map Prod.fst).Nodup ∧ (63, [1, 2, 3, 4]) ∈ m.a ∧ 0 < msCols m.ms ∧ pairMode m.pairing 0 = true := by decide +kernel

/-! ### Remote updates -/

/-- A remote update of 4 bytes at 0x50000, of a COMBINE slot where `cls` is 1. -/
def update (id : Nat) (cls : Nat) : RuReq :=
  { id := id, cxid := 0, gid := 50, tid := 0, core := 0, part := 0, grp := 0, lane := 0, slot := 0,
    defn := BitVec.ofNat 32 (cls * 2 ^ 22) :: List.replicate 63 0, va := 0x50000, b := 0, off := 0x50000, pay := [], ropr := false,
    pend := 0, op := id, ord := 0, scope := 4 }

/-- The probe's device with remote updates. -/
def updating (rs : List RuReq) : State := { probe with rus := rs }

theorem test_update_admitted : let r := { update 3 0 with sent := true }
    let s := updating [r]
    s.ru? 3 = some r ∧ r.admitted = false ∧ r.sent = true ∧ r.refused = none ∧ r.ticket = none ∧ (∀ x ∈ s.reqs, x.gid = r.gid → x.tid = r.tid → x.id < r.op → x.performed = true) ∧
      (∀ x ∈ s.rus, ruBefore x r = false) ∧ atEngine s r.gid r.tid r.id = false ∧ ruRoom s r = true := by decide +kernel

theorem test_update_leaves : let r := update 3 0
    let s := updating [r]
    (∀ x ∈ s.reqs, x.id ≠ 3) ∧ s.ru? 3 = some r ∧ r.sent = false ∧ (∀ x ∈ s.rus, x.op = r.op → x.id < r.id → x.sent = true) ∧
      hasTokens s r.cxid (ruTokens r.defn) = true ∧ permits s r.core (ruSlice s r) < 6 ∧ r.admitted = false ∧ r.refused = none ∧
      r.refusals < 16 ∧ 0 + 8 * 15 ≤ ({ s with clk := 120 } : State).clk := by decide +kernel

/-- A definition whose one micro-op stores the payload to its line. -/
def storing : List Word := [BitVec.ofNat 32 (1 * 2 ^ 5)] ++ List.replicate 15 0 ++ [0xA0000000] ++ List.replicate 47 0

theorem test_update_combined : let a := { update 3 1 with admitted := true, at_ := 1 }
    let b := { update 4 1 with admitted := true, at_ := 2 }
    let s := updating [a, b]
    s.ru? 3 = some a ∧ s.ru? 4 = some b ∧ mergeable a = true ∧ mergeable b = true ∧
      ∀ x ∈ s.rus, ruHolds x b = true → x.id = a.id ∨ x.into = some a.id := by decide +kernel

theorem test_update_applied : let r := { update 3 0 with admitted := true, lines := [some (0, 0x50000)] }
    let s := updating [r]
    s.ru? 3 = some r ∧ r.into = none ∧ (∀ x ∈ s.rus, ruHolds x r = false) ∧ (∀ x ∈ s.reqs, reqHolds x r = false) ∧ ruTurn s r = true ∧ r.fmask = 0 ∧
      ruLate s r = false ∧ linesHeld s r.cxid r.places' = false ∧ s.poisoned 0 0x50000 128 = false := by decide +kernel

theorem test_update_stores : let r := { update 3 0 with admitted := true, defn := storing, lines := [some (0, 0x50000)], opens := [[0]] }
    let s := updating [r]
    (ruApplication s r).fmask = 0 ∧ ruPerLine r.defn = false ∧ r.lineAt 0 0 = some (0, 0x50000) ∧ ruNops r.defn - ruCcount r.defn = 1 ∧
      moOp (ruOp r.defn 0) = 20 ∧ moLine (ruOp r.defn 0) = 0 ∧ 0 < ruGn r.defn ∧ (r.byteAt s (0, 0x50000) 0).isSome = true ∧
      reaches s 0 0x50000 r.cxid (r.opens.getD 0 []) = true ∧
      (ruApplication s { r with lines := [none], cause := 3, fmask := 1 }).fmask ≠ 0 ∧ r.lineAt 0 (ruRetLine r.defn) = some (0, 0x50000) := by
  decide +kernel

theorem test_micro_ops : ∀ op < 22, let u := op * 2 ^ 27; moOp u = op ∧ moD u < 8 ∧ moMod u ≤ 2 ∧ moLine u < 1 := by decide

theorem test_update_completes : let r := { update 3 0 with admitted := true, applied := true }
    let q := { update 4 0 with applied := true, ropr := true }
    let s := updating [r, q]
    (r ∈ s.rus ∧ r.op = 3 ∧ r.ropr = false ∧ trapHeld s (.ru 3) = false ∧ ∀ x ∈ s.rus, x.op = 3 → x.ropr = false → x.applied = true ∧ x.gid = r.gid) ∧
      s.ru? 4 = some q ∧ q.applied = true ∧ q.ropr = true := by decide +kernel

theorem test_definition_completes : let d : RdefOp := { id := 8, cxid := 0, gid := 1, slot := 31, defn := [], status := 1, dst := [] }
    let s : State := { updating [update 3 0] with rdefs := [d] }
    s.rdefs.find? (fun r => r.id == 8) = some d ∧ (∀ x ∈ s.rus, x.cxid = d.cxid → x.slot = d.slot → x.id < d.id → x.applied = true) ∧
      ∀ x ∈ s.rdefs, x.cxid = d.cxid → x.slot = d.slot → d.id ≤ x.id := by decide +kernel

/-! ### Requests and the memory system -/

/-- A load of 4 bytes at 0x50000 that stands somewhere. -/
def request (st : ReqStage) : Req :=
  { id := 5, cxid := 0, gid := 1, tid := 0, core := 0, kind := .load, va := 0x50000, b := 0, off := 0x50000, owner := 0, size := 4, stage := st }

/-- The probe's device with that request. -/
def requesting (st : ReqStage) : State := { probe with reqs := [request st], clk := 120 }

theorem test_request_leaves : let s := requesting .waiting
    s.reqs.find? (fun r => r.id == 5) = some (request .waiting) ∧ heldBehind s (request .waiting) = false ∧
      l1Hit s (request .waiting) = false ∧ reqTokens s (request .waiting) = 1 ∧ hasTokens s 0 1 = true ∧
      permits s 0 (((request .waiting).home s).getD 0) < 6 ∧
      (l1Hit { s with l1 := [⟨0, 0, 0, 0x50000 / 128⟩] } (request .waiting)) = true ∧
      mayPerform s (request .waiting) = true := by decide +kernel

theorem test_request_refused : ∀ hint ∈ [1, 15], let s := requesting .sent
    s.reqs.find? (fun r => r.id == 5) = some (request .sent) ∧ 1 ≤ hint ∧ hint ≤ 15 ∧ (request .sent).refusals < 16 ∧ behindRefused s (request .sent) = false ∧
      mayPerform s (request .sent) = true ∧ (s.buf? 0).all (fun b => b.kind != .peer) = true ∧
      (∀ l ∈ s.l2, ¬(l.b = 0 ∧ l.line = 0x50000 / 128 ∧ l.tag = 0)) := by decide +kernel

theorem test_request_retries : (requesting (.refused 0 15)).reqs.find? (fun r => r.id == 5) = some (request (.refused 0 15)) ∧
    0 + 8 * 15 ≤ (requesting (.refused 0 15)).clk := by decide +kernel

theorem test_request_answered : (requesting .done).reqs.find? (fun r => r.id == 5) = some (request .done) ∧
    ((requesting .done).grp? 1).isSome = true ∧ (request .done).bad = none ∧ (request .done).kind = .load ∧
    mayPerform (requesting .port) (request .port) = true ∧ outOfTime (requesting .port) (request .port) = false := by decide +kernel

theorem test_channel : let s := requesting .chan
    ∃ b ∈ s.bufs, s.buf? 0 = some b ∧ place b 0x50000 = some 0x50000 ∧ mayPerform s (request .chan) = true ∧
      0 % 16 = bankOf 0x50000 ∧ heldBank s (chanOf b 0x50000) 0 (tenant s 0) = false ∧ addrExists 0x50000 = true ∧
      0x50000 - chanOf b 0x50000 * chanBytes < chanBytes ∧ addrExists (256 * 0x60000000) = false := by decide +kernel

theorem test_performed : let s := requesting .chan
    reaches s 0 0x50000 0 (request .chan).opens = true ∧
    reaches { s with bufs := [{ programBuf with bown := 5 }], frames := [{ b := 0, f := 5, st := .owned, owner := 5 }] } 0 0x50000 0 [] = false ∧
    wholeAtom s (request .chan) = false ∧ (request .chan).blk = none ∧ isPeer s 0 = false ∧ erasing s 0 0x50000 = false ∧ s.poisoned 0 0x50000 4 = false ∧
      ({ s with poison := [0x50000 / 32] } : State).poisoned 0 0x50000 4 = true ∧ (rmwNew 0 4 1 2 0).isSome = true := by decide +kernel

theorem test_memory_times : (addrExists (0x60000000 * 255) = true ∧ 0x60000000 / 32 - 1 < 0x60000000 / 32) ∧
    ∃ h ∈ ({ probe with clk := 10, holds := [⟨0, 0, 0, 10⟩] } : State).holds, h.til ≤ 10 := by decide +kernel

/-- A request at a port of a buffer of a kind, 50 microseconds after its admission. -/
def overdue (k : BufKind) : State := { requesting .port with
  ref252 := 62500 * 252
  bufs := [{ programBuf with kind := k }] }

theorem test_timeouts : ∀ k ∈ [BufKind.cxl, .peer], (overdue k).reqs.find? (fun r => r.id == 5) = some (request .port) ∧
    (request .port).admittedAt + 62500 * 252 ≤ (overdue k).ref252 ∧ ((overdue k).buf? 0).map Buf.kind = some k := by decide +kernel

theorem test_erase_ends : let s : State := { probe with flash := [⟨3, 5, true, 0⟩] }
    ∃ k ∈ s.flash, k.blk = 3 ∧ k.erasing = true := by decide +kernel

theorem test_fusion : let s : State := { probe with fused := [0] }
    fusable s 0 ≠ s.fused.contains 0 := by decide +kernel

/-! ### Functions, the board and the mailbox -/

/-- A device whose partition 0, context 5, has virtual functions 0 to 2, of which function 0 has context 6 and a TDISP state. -/
def functions (t : Tdi) : State := { family with
  parts := [{ i := 0, cxid := 5, vfcnt := 3, vfnq := 1, vffirst := 0 }]
  vfs := [{ n := 0, cxid := some 6, tdi := t }]
  vfEnable := true }

theorem test_function_reset : (functions .run).vfEnable = true ∧ ((functions .run).vfAt 0).flr = none ∧ ((functions .run).vfAt 0).cxid = some 6 ∧
    (∃ x ∈ (functions .run).ctxs, (functions .run).ctx? 6 = some x ∧ x.state ≠ .killed) ∧
    engineBusy (functions .run) (inSubtree (functions .run) 6) = false ∧
    engineBusy { functions .run with ctxops := [{ id := 5, gid := 1, tids := [0], cxid := 6, core := 0, kind := .kill, child := 9 }] }
      (inSubtree (functions .run) 6) = true ∧ stillWrites (updating [{ update 3 0 with cxid := 6 }]) [6] = true ∧ (functions .run).service ≠ .recovery ∧
    let s : State := { functions .error with vfs := [{ n := 0, flr := some [6] }], vfClearing := true }
    (s.vfAt 0).flr = some [6] ∧ (∀ r ∈ s.rus, r.cxid ∈ [6] → r.applied = true) ∧ s.reqs = [] ∧ (s.vfAt 0).cxid = none ∧ (vfPart s 0).isSome = true ∧
      (freeCxid s).isSome = true ∧ s.vfClearing = true := by decide +kernel

theorem test_function_states : ∀ t ∈ [Tdi.unlocked, .locked, .run, .error], ((functions t).vfAt 0).tdi = t ∧ (functions t).vfEnable = true ∧
    ((functions t).vfAt 0).flr = none ∧ (0 < 384 ∧ 63 < 64) := by decide +kernel

theorem test_functions_disabled : ({ functions .unlocked with vfEnable := false } : State).service ≠ .recovery := by decide +kernel

theorem test_board : probe.service ≠ .recovery ∧ (2047 < 2048) ∧ pageCtx probe (0x500 / 4096) ≠ none ∧ 0x400 ≤ 0x4FC % 4096 ∧ 0x4FC % 4096 < 0x500 ∧
    (∃ x ∈ probe.bufs, probe.buf? 0 = some x ∧ 0x50000 % 8 = 0 ∧ 0x50000 + 8 ≤ x.size * 65536 ∧ x.kind ≠ .peer ∧ x.kind ≠ .flash) ∧
    (functions .unlocked).vfEnable = true ∧ ((functions .unlocked).vfAt (384 - 1)).tdi = .unlocked := by decide +kernel

/-- The probe's device that exports its buffer to the peer at port 7. -/
def exporting : State := { probe with
  links := [⟨7, true, true⟩]
  ingress := [{ port := 7, idx := 0, r := true, w := true, x := false, cxid := 0, b := 0 }] }

theorem test_peer : (∃ l ∈ exporting.links, l.port = 7 ∧ l.up = true) ∧
    peerShape 0x50000 [] (.read 8) = some (8, .load) ∧ peerShape 0x50000 [1, 2, 3, 4] .write = some (4, .store) ∧
    peerShape 0x50000 [] (.atomic 0 4 1 0) = some (4, .rmw) ∧ peerShape 0x5007C [] (.read 8) = none ∧
    ∃ e ∈ exporting.ingress, exporting.ingress.find? (fun e => e.port == 7 && e.b == 0) = some e ∧
      permit exporting e.cxid (e.ent exporting 0x50000) 0x50000 8 .store = none ∧
      permit exporting e.cxid (e.ent exporting 0x50000) 0x50000 8 .load = none ∧
      permit exporting e.cxid (e.ent exporting 0x50000) 0x50000 8 .fetch ≠ none := by decide +kernel

theorem test_link_down : let s : State := { requesting .port with bufs := [{ programBuf with kind := .peer, port := 7 }] }
    behind s 7 0 = true ∧ ∃ r ∈ s.reqs, r.blk = none ∧ r.stage = .port := by decide +kernel

theorem test_trusted_writes : ((functions .run).vfAt 0).tdi = .run ∧ ((functions .run).vfAt 0).stream = 0 ∧
    pageCtx (functions .run) 32 ≠ none ∧ ((functions .locked).vfAt 0).tdi ≠ .run := by decide +kernel

theorem test_host_access : probe.poisoned 0 0x50000 8 = false ∧ erasing probe 0 0x50000 = false := by decide +kernel

theorem test_recovery : ({ State.reset with service := .recovery } : State).service = .recovery := rfl

theorem test_clock : probe.freq ≤ 5 ∧ ({ probe with service := .full, freq := 10 } : State).freq ≤ 10 := by decide +kernel

theorem test_mailbox_go : let s : State := { probe with hostif := { probe.hostif with area := [(0, 0x0D), (4, 127), (8, 0x20000010)] } }
    s.hostif.go = false ∧ (assoc 0 s.hostif.area).getD 0 = 0x0D ∧ 0x12 < ((0x13 : Word)).toNat ∧
      (match exec (.writeHrowCtl 127 0x20000010) { s with answer := [] } with
        | .next t => !t.answer.isEmpty
        | _ => false) = true ∧
      (match exec (.writeHrowCtl 127 0x20000010) { s with answer := [] }, exec (.registerWrite ⟨0, none⟩ 4 0x800 1) s with
        | .next t, .next t' => decide (t = t')
        | _, _ => false) = true := by decide +kernel

theorem test_mailbox_open : probe.service ≠ .recovery ∧ probe.hostif.go = false ∧ (∀ b ∈ probe.flash, b.erasing = false) ∧ (probe.ctx? 0).isSome = true ∧
    (∃ r ∈ (handling 0x40).recs, (handling 0x40).recs.find? (fun r => r.dest == 0 && r.seq == 5) = some r ∧ r.trap.async = false ∧
      r.trap.cocoon = false ∧ r.trap.fatal = false ∧ (handling 0x40).grp? r.trap.gid ≠ none) ∧
    (∀ r ∈ probe.recs, ¬(r.dest = 0 ∧ r.seq = 5)) := by decide +kernel

theorem test_mailbox_root : ∀ d ∈ [false, true], let val : DWord := if d then 0x1000 else 0x1001
    (val.toNat % 4096 = 0) = (d = true) ∧ probe.buf? (val.toNat / 2 ^ 44) ≠ none := by decide +kernel

/-- A buffer-table entry: one frame of channel 1 with rights r, w and x (Table 17-8). -/
def bufRec : List Word := [0x9C000000, 1, 0, 0, 0, 0, 0, 0, 2, 0, 0, 0, 0, 0, 0, 0]

theorem test_mailbox_buffer : let b := bufOf 7 bufRec
    bitOf (wAt bufRec 0) 31 = true ∧ bufReserved bufRec b = false ∧ bufAbsent probe b = false ∧
      (∀ x ∈ probe.bufs, x.idx ≠ 7 → bufOverlap x b = false) ∧ (∀ f ∈ probe.frames, f.b = 7 → f.st = .clean ∨ f.owner = 0) ∧
      (∀ x ∈ probe.reqs, x.blk = none → x.performed = true) ∧ (∀ x ∈ probe.rus, x.applied = true) ∧ probe.ctxops = [] ∧ cxlFull probe b = false ∧
      ∃ f ∈ ({ framed .owned with frames := [{ b := 7, f := 0, st := .owned, owner := 5 }] } : State).frames,
        f.b = 7 ∧ ¬(f.st = .clean ∨ f.owner = 0) := by decide +kernel

theorem test_mailbox_partition : let p := partOfRec 0 (probe.part 0) (List.replicate 32 0)
    partBad probe p (List.replicate 32 0) = false ∧ partAbsent probe p = false ∧ (∀ x ∈ probe.parts, x.i ≠ 0 → partOverlap x p = false) ∧
      (probe.part 0).cxid = 0 ∧ ((kicked 0).part 0).cxid = 5 ∧ ((kicked 0).ctx? 5).all (fun x => x.state != .stopped) = true := by decide +kernel

theorem test_mailbox_others : ({ probe with service := .full } : State).service = .full ∧ probe.anyNew = false ∧
    (∀ x ∈ probe.ctxs, x.level = 0 ∨ (x.state ≠ .running ∧ x.state ≠ .stopping)) ∧ probe.service = .chrysalis ∧
    (∃ e ∈ ({ probe with errs := [(3, 1, 2)] } : State).errs, e.1 = 3) ∧ portPresent probe 7 = true ∧ portForeign probe 7 0 = false ∧
    (let r : List Word := [0x700E0000, 1, 0, 0, 0, 0, 0, 0]
     bitOf (wAt r 0) 19 = true ∧ bitsOf (wAt r 1) 20 12 = 0 ∧ anyWord r 2 6 = false ∧ (ingressOf r).port = 7 ∧
       (probe.ctx? (ingressOf r).cxid).all (fun x => x.state != .killed) = true) := by decide +kernel

/-! ### The debug port, and the machine as a whole -/

/-- A debug command on register class `cls`, number `num` of thread 0 of the probe's group. -/
def debugCmd (cls num : Nat) : DbgCmd :=
  { who := none, cls := cls, cxid := 0, core := 0, part := 0, slot := 0, run := 0, thr := 0, num := num, addr := 0x50000, data := [7] }

/-- The probe's device with its threads stopped. -/
def stoppedAll : State := { probe with groups := probe.groups.map fun g => { g with threads := g.threads.map fun th => { th with stopped := true } } }

theorem test_debug_reaches : let c := debugCmd 0 95
    portFree probe c = true ∧ inReach probe c = true ∧ (∃ x ∈ probe.ctxs, probe.ctx? 0 = some x ∧ x.state ≠ .killed) ∧
      (∃ g ∈ probe.groups, namedGroup probe c = some g ∧ g.gr ≠ 0 ∧ g.hold = none ∧ steppable g ≠ [] ∧
        (∀ r ∈ probe.runs, r.core = g.core → r.part = g.part → r.gid = g.gid) ∧ 0 < g.width ∧ (g.thr 0).exited = false ∧
        (g.thr 0).stopped = false) ∧
      namedGroup probe { c with slot := 31 } = none ∧
      inReach (functions .locked) { c with who := some 0 } = false ∧ portFree (functions .locked) { c with who := some 0 } = true := by
  decide +kernel

theorem test_debug_registers : ∀ c ∈ [debugCmd 0 95, debugCmd 1 31, debugCmd 2 0, debugCmd 4 0, debugCmd 5 0], ∃ g ∈ stoppedAll.groups,
    namedGroup stoppedAll c = some g ∧ (g.thr 0).stopped = true ∧ regNamed g c = true ∧ holdOver stoppedAll = false ∧ regPending g c = false := by decide +kernel

theorem test_debug_waits : let s := withThread { programThread with stopped := true, pend := [{ id := 9, dsts := [some 95], words := [none] }] }
    ∃ g ∈ s.groups, namedGroup s (debugCmd 0 95) = some g ∧ (g.thr 0).stopped = true ∧ regPending g (debugCmd 0 95) = true ∧
      regNamed g (debugCmd 0 96) = false := by decide +kernel

theorem test_debug_memory : ∀ n ∈ [1, 2, 4, 8, 16], (dbgAccess probe (debugCmd 0 n) .load).isOk = true ∧
    (dbgAccess probe (debugCmd 0 n) .store).isOk = true ∧
    (dbgAccess probe { debugCmd 0 n with addr := 0x40000000 } .load).isOk = false := by decide +kernel

theorem test_debug_others : let c := debugCmd 0 0
    let w : List Word := List.replicate 16 0
    let s : State := { probe with dbgEvents := [w], dbgHold := some ⟨c, false, 0⟩, clk := 65537 }
    s.dbgEvents.find? (eventFor s c) = some w ∧ w.length = 16 ∧ (∀ w ∈ probe.dbgEvents, eventFor probe c w = false) ∧
      s.dbgHold = some ⟨c, false, 0⟩ ∧ holdOver s = true ∧ 0 + 65536 < s.clk ∧ portFree s c = true := by decide +kernel

theorem test_step_fetches : let s : State := { probe with agenda := [.issue 0 0] }
    (∀ b ∈ s.busy, b.1 = 0 → b.2.1 = 0 → b.2.2 ≤ s.clk) ∧ (∃ r ∈ s.runs, probe.run? = some r ∧ r.single = false) ∧ probe.issue?.isSome = true ∧
      (gcheck probe 0 0x20000 4 .fetch).isOk = true ∧ (match s.run?, s.issue? with
        | some r, some u => (match fetchUnit s r u with
          | .ok (_, p) => fetchPaid s u p && (placeFault s 0 0x20000 p 4).isNone && !erasing s p.b p.off && r.age == 0 && r.off == 0
          | .error _ => false)
        | _, _ => false) = true ∧ (∃ g ∈ issuers s 0 0, g.gid = 1) ∧ mayPass s 1 = true ∧ mayPass s 1025 = false := by decide +kernel

theorem test_canonical : State.reset.Canonical ∧ probe.Canonical := by decide +kernel

theorem test_step_answers : (match step { probe with agenda := [.issue 0 0] } with
    | .next t => decide t.Canonical
    | _ => false) = true := by decide +kernel

theorem test_words_and_others : (Instr.nop ⟨0⟩).isWord = true ∧ (decode 0x6C000000).isWord = false := by decide

theorem test_rounding_inputs : (0 < 1 ∧ |(FVal.fin false 1 0).rat| ≤ 2 ^ 128 - 2 ^ 104) ∧
    (0 < 2 ^ 24 - 1 ∧ |(FVal.fin true (2 ^ 24 - 1) 104).rat| ≤ 2 ^ 128 - 2 ^ 104) := by
  norm_num [FVal.rat, abs_of_nonneg, abs_of_neg, abs_of_nonpos]

theorem test_predicate_indices : ∀ i ∈ [(0 : Nat), 11, 15], i ≤ 11 ∨ i = 15 := by decide

theorem test_estimate_operands : (decF .f32 0x7FC00001).isNan = true ∧ (decF .f32 0xBF800000).isNan = false ∧
    (0x80000001 : Word).getLsbD 31 = true ∧ (0x80000001 : Word).extractLsb' 23 8 = 0 ∧ (decF .f32 0x80000001).isNan = false := by
  decide +kernel

end Sys2Proof.Tests
end

section
/-! The reset state (R451) and the events of the board: the answer of a port to a request of a peer (R447). -/

namespace Sys2Proof.Machine

/-! ## The state after a cold reset -/

/-- The root owns every core of the device and runs on those of die 0 (R334, R451). -/
theorem rootCtx_cores : (∀ c < 192, rootCtx.cores.getLsbD c = true) ∧
    ∀ c < 192, rootCtx.runset.getLsbD c = decide (c < 96) := by
  decide +kernel

/-- Settles O59: after reset the root is the one context, every other table is empty, and a lookup in an empty table answers the
value of an unlisted entry. -/
theorem resetState : Obligations.resetState := by
  unfold Obligations.resetState
  have hcanon : State.reset.Canonical := ⟨Memory.wf_nil, by simp [State.reset]⟩
  have hroot : ∃ r, State.reset.ctxs = [r] ∧ r.cxid = 0 ∧ r.level = 0 ∧ r.state = .running ∧ r.fper = 3 ∧
      (∀ c < 192, r.cores.getLsbD c = true) ∧ ∀ c < 192, r.runset.getLsbD c = decide (c < 96) :=
    ⟨rootCtx, rfl, rfl, rfl, rfl, rfl, rootCtx_cores⟩
  refine ⟨hcanon, rfl, rfl, rfl, hroot, ?frames, ?ramps, ?hrow, ?parts, ?vfs, rfl, rfl, rfl, rfl, rfl, rfl, rfl, rfl, rfl, rfl,
    rfl, rfl⟩
  case frames => exact fun _ _ => rfl
  case ramps => exact fun _ _ => rfl
  case hrow => exact fun _ => rfl
  case parts => exact fun _ => rfl
  case vfs => exact fun _ => rfl

/-! ## Requests of peers -/

/-- A request that a link in service carries and that matches no ingress entry is answered with PROTECTION (R447). -/
theorem execPeerRequest_no_entry {s : State} {port b off n : Nat} {need : Need} {op : PeerOp} {data : List Byte}
    (hu : ∃ l ∈ s.links, l.port = port ∧ l.up = true) (hs : peerShape off data op = some (n, need))
    (he : ∀ e ∈ s.ingress, ¬(e.port = port ∧ e.b = b)) :
    execPeerRequest port b off op data s = .next (answerPort s (some port) Cause.protection.code []) := by
  have hu : (s.links.any fun l => l.port == port && l.up) = true := by simpa using hu
  have he : s.ingress.find? (fun e => e.port == port && e.b == b) = none := by simpa using he
  simp only [execPeerRequest, hu, hs, he, Bool.not_true, Bool.false_eq_true, if_false]

theorem answerPort_code_inj {s : State} {port : Option Nat} {c c' : Nat} {data : List Byte}
    (h : answerPort s port c data = answerPort s port c' data) : c = c' := by
  have ha : (answerPort s port c data).hostif.ans = (answerPort s port c' data).hostif.ans := congrArg (·.hostif.ans) h
  exact congrArg PortAns.code (Option.some.inj ha)

/-- Refutes O53: the statement asks that a denied request of a peer be answered with code 0x05, which is DEAD_READ. R447 names
PROTECTION, whose code in Table 18-1 is 0x0A, and that is what the model answers: here a read over port 0 of a device just reset,
whose one link is up and which exports no buffer. -/
theorem not_boardEvents : ¬ Obligations.boardEvents := by
  unfold Obligations.boardEvents
  rintro ⟨-, -, -, -, hpeer, -⟩
  let s : State := { State.reset with links := [⟨0, true, true⟩] }
  have hup : ∃ l ∈ s.links, l.port = 0 ∧ l.up = true := ⟨_, List.mem_singleton_self _, rfl, rfl⟩
  have hshape : peerShape 0 [] (.read 1) = some (1, .load) := rfl
  have hnone : ∀ e ∈ s.ingress, ¬(e.port = 0 ∧ e.b = 0) := fun e he => absurd he List.not_mem_nil
  have stated : exec (.peerRequest 0 0 0 (.read 1) []) s = .next (answerPort s (some 0) 0x05 []) :=
    (hpeer 0 0 0 1 .load (.read 1) [] s hup hshape).1 hnone
  rw [exec_peerRequest, execPeerRequest_no_entry hup hshape hnone, Host.Outcome.next.injEq] at stated
  exact absurd (answerPort_code_inj stated) (by decide)

end Sys2Proof.Machine
end

section
/-! Estimates (R189): the long-latency results that they give, and their values at special operands (R68, R77). -/

namespace Sys2Proof.Machine

/-! ## Results on their way -/

/-- Long-latency results that a unit gives its active lanes, once its threads have passed it: nothing else changes. -/
theorem addPends_advance {i : Instr} {u : Issue} {s : State} (h : s.issue? = some u)
    (r : Nat → List Nat × List (Option Word)) (mem eng : Bool) :
    let t := addPends u (advance i u s) r mem eng
    t = { s with groups := t.groups, nextId := s.nextId + u.act.length } ∧
      Acts i u s t id (allPending u s.nextId r mem eng) := by
  intro t
  obtain ⟨g1, n1, r1, l1, t1, -⟩ := advance_group (i := i) h
  obtain ⟨g', o, e, rest, len, thr⟩ := addPends_spec u (advance i u s) r mem eng g1 n1
  have ha := advance_only (i := i) h
  have hid : (advance i u s).nextId = s.nextId := by rw [ha]
  refine ⟨by rw [show t = _ from e, ha], acts_of h (g' := g') (fun g2 h2 => ?_) (by rw [rest, r1]; rfl) (len.trans l1) fun j hj => ?_⟩
  · rw [n1] at h2; cases h2; exact o
  · rw [thr j (by rw [l1]; exact hj), t1 j hj, hid]

/-- An instruction whose effect is an estimate of a register gives it as a long-latency result of every active lane. -/
theorem ends_estimate {i : Instr} {fn : Nat} {o : CL} (hx : ∀ s, exec i s = execUnit i (estimate fn o) s) (u : Issue) (s : State)
    (h : Issues i u s) : Ends i u s fun t =>
      t = { s with groups := t.groups, nextId := s.nextId + u.act.length } ∧
      Acts i u s t id (allPending u s.nextId fun k => (u.pfx.elems.map fun e => elemReg o.d.toNat e,
        u.pfx.elems.map fun e => some (sfu fn u.pfx.ftz (u.rd s k (elemReg o.a.toNat e))))) := by
  refine ends_of h (hx s) rfl ?_
  have := addPends_advance (i := i) h.1 (fun k => (u.pfx.elems.map fun e => elemReg o.d.toNat e,
    u.pfx.elems.map fun e => some (sfu fn u.pfx.ftz (u.rd (advance i u s) k (elemReg o.a.toNat e))))) false false
  simpa only [rd_advance] using this

/-! ## Special operands -/

/-- A binary32 pattern in its three fields. -/
theorem decF_f32 (w : Word) : decF .f32 w.toNat =
    if (w.extractLsb' 23 8).toNat = 255 then (if (w.extractLsb' 0 23).toNat = 0 then .inf (w.getLsbD 31) else .nan)
    else if (w.extractLsb' 23 8).toNat = 0 then .fin (w.getLsbD 31) (w.extractLsb' 0 23).toNat (-149)
    else .fin (w.getLsbD 31) ((w.extractLsb' 0 23).toNat + 2 ^ 23) ((w.extractLsb' 23 8).toNat - 127 - 23) := by
  have hs : bitOf w.toNat 31 = w.getLsbD 31 := by
    simp [bitOf, BitVec.getLsbD, Nat.testBit_eq_decide_div_mod_eq, Nat.shiftRight_eq_div_pow]; rfl
  simp only [decF, Fmt.eb, Fmt.fb, Fmt.bias, bitsOf, hs, BitVec.extractLsb'_toNat]
  simp

/-- Only a subnormal is read otherwise under FTZ: as a zero of its sign (R68). -/
theorem inF_f32 (ftz : Bool) (w : Word) : inF .f32 ftz w.toNat =
    if ftz = true ∧ (w.extractLsb' 23 8).toNat = 0 ∧ (w.extractLsb' 0 23).toNat ≠ 0 then .fin (w.getLsbD 31) 0 0
    else decF .f32 w.toNat := by
  have hs : bitOf w.toNat 31 = w.getLsbD 31 := by
    simp [bitOf, BitVec.getLsbD, Nat.testBit_eq_decide_div_mod_eq, Nat.shiftRight_eq_div_pow]; rfl
  simp [inF, isSub, Fmt.eb, Fmt.fb, bitsOf, hs, BitVec.extractLsb'_toNat]

/-- An operand whose exponent field is not zero is read as it stands. -/
theorem inF_f32_of_exp {ftz : Bool} {w : Word} (h : w.extractLsb' 23 8 ≠ 0) : inF .f32 ftz w.toNat = decF .f32 w.toNat := by
  have : (w.extractLsb' 23 8).toNat ≠ 0 := fun e => h (BitVec.eq_of_toNat_eq e)
  rw [inF_f32, if_neg fun c => this c.2.1]

/-- A number with a zero exponent field is read as a zero of its sign under FTZ. -/
theorem inF_f32_ftz {w : Word} (h : w.extractLsb' 23 8 = 0) : ∃ e, inF .f32 true w.toNat = .fin (w.getLsbD 31) 0 e := by
  rw [inF_f32, h]
  by_cases hm : (w.extractLsb' 0 23).toNat = 0
  · exact ⟨-149, by rw [if_neg fun c => c.2.2 hm, decF_f32, h, hm]; rfl⟩
  · exact ⟨0, if_pos ⟨rfl, rfl, hm⟩⟩

theorem sfu_of_nan {fn : Nat} {ftz : Bool} {w : Word} (h : inF .f32 ftz w.toNat = .nan) : sfu fn ftz w = 0x7FC00000 := by
  simp only [sfu, h]

/-- What an estimate answers at a zero: whichever zero it was read from (R77). -/
def sfuZero (fn : Nat) (neg : Bool) : Word := match fn with
  | 0 | 1 => if neg then 0xFF800000 else 0x7F800000
  | 2 | 5 => 0x3F800000
  | 3 => 0xFF800000
  | _ => if neg then 0x80000000 else 0

theorem sfu_of_zero {fn : Nat} {ftz neg : Bool} {w : Word} {e : Int} (h : inF .f32 ftz w.toNat = .fin neg 0 e) :
    sfu fn ftz w = sfuZero fn neg := by
  simp only [sfu, h, if_true]
  rcases fn with _ | _ | _ | _ | _ | _ | _ <;> rfl

/-- What an estimate answers at an infinity (R77). -/
def sfuInf (fn : Nat) (neg : Bool) : Word := match fn with
  | 0 => if neg then 0x80000000 else 0
  | 1 => if neg then 0x7FC00000 else 0
  | 2 => if neg then 0 else 0x7F800000
  | 3 => if neg then 0x7FC00000 else 0x7F800000
  | 4 | 5 => 0x7FC00000
  | _ => if neg then 0xBF800000 else 0x3F800000

theorem sfu_of_inf {fn : Nat} {ftz neg : Bool} {w : Word} (h : inF .f32 ftz w.toNat = .inf neg) :
    sfu fn ftz w = sfuInf fn neg := by
  simp only [sfu, h]
  rcases fn with _ | _ | _ | _ | _ | _ | _ <;> rfl

/-- The root and the logarithm of a negative number are NaN (R77). -/
theorem sfu_of_neg {fn : Nat} {ftz : Bool} {w : Word} {m : Nat} {e : Int} (h : inF .f32 ftz w.toNat = .fin true m e)
    (hm : m ≠ 0) (hf : fn = 1 ∨ fn = 3) : sfu fn ftz w = 0x7FC00000 := by
  simp only [sfu, h, if_neg hm, hf, and_self, if_true]

theorem inF_zero (ftz : Bool) : inF .f32 ftz (0 : Word).toNat = .fin false 0 (-149) := by cases ftz <;> rfl
theorem inF_negZero (ftz : Bool) : inF .f32 ftz (0x80000000 : Word).toNat = .fin true 0 (-149) := by cases ftz <;> rfl
theorem inF_infinity (ftz : Bool) : inF .f32 ftz (0x7F800000 : Word).toNat = .inf false := by cases ftz <;> rfl
theorem inF_negInfinity (ftz : Bool) : inF .f32 ftz (0xFF800000 : Word).toNat = .inf true := by cases ftz <;> rfl

/-- A NaN has a full exponent field, so FTZ does not touch it. -/
theorem inF_of_isNan {ftz : Bool} {w : Word} (h : (decF .f32 w.toNat).isNan = true) : inF .f32 ftz w.toNat = .nan := by
  have hd : decF .f32 w.toNat = .nan := by cases hx : decF .f32 w.toNat <;> simp_all [FVal.isNan]
  rw [inF_f32, hd, if_neg]
  rintro ⟨-, he, -⟩
  rw [decF_f32, he] at hd
  simp at hd

theorem eq_negZero {w : Word} (hs : w.getLsbD 31 = true) (he : (w.extractLsb' 23 8).toNat = 0)
    (hm : (w.extractLsb' 0 23).toNat = 0) : w = 0x80000000 := by
  have := w.isLt
  simp only [BitVec.extractLsb'_toNat, Nat.shiftRight_eq_div_pow, BitVec.getLsbD, Nat.testBit_eq_decide_div_mod_eq,
    decide_eq_true_eq] at hs he hm
  refine BitVec.eq_of_toNat_eq (?_ : w.toNat = 2147483648)
  omega

/-- A negative operand other than a zero and a NaN, which FTZ leaves, is an infinity or a number below zero. -/
theorem inF_of_negative {ftz : Bool} {w : Word} (hs : w.getLsbD 31 = true) (hz : w ≠ 0x80000000)
    (he : ftz = false ∨ w.extractLsb' 23 8 ≠ 0) (hn : (decF .f32 w.toNat).isNan = false) :
    inF .f32 ftz w.toNat = .inf true ∨ ∃ m e, m ≠ 0 ∧ inF .f32 ftz w.toNat = .fin true m e := by
  have hd : inF .f32 ftz w.toNat = decF .f32 w.toNat := by
    rcases he with rfl | he
    · rfl
    · exact inF_f32_of_exp he
  rw [hd]
  rw [decF_f32, hs] at hn ⊢
  split at hn
  · split at hn
    · next h1 h2 => rw [if_pos h1, if_pos h2]; exact .inl rfl
    · cases hn
  · next h1 =>
    rw [if_neg h1]
    split
    · next h2 => exact .inr ⟨_, _, fun h3 => hz (eq_negZero hs h2 h3), rfl⟩
    · exact .inr ⟨_, _, by omega, rfl⟩

/-- Settles O14: an estimate is `addPends` of the words that `sfu` gives; at special operands `sfu` answers before it asks
`Config.estimate`. -/
theorem estimateResults : Obligations.estimateResults := by
  unfold Obligations.estimateResults
  refine ⟨fun o => ?does, ?nan, ?zero, ?negZero, ?infinity, ?negInfinity, ?negative, ?ftz⟩
  case does =>
    exact ⟨ends_estimate fun _ => exec_rcpe .., ends_estimate fun _ => exec_rsqe .., ends_estimate fun _ => exec_ex2e ..,
      ends_estimate fun _ => exec_lg2e .., ends_estimate fun _ => exec_sinpe .., ends_estimate fun _ => exec_cospe ..,
      ends_estimate fun _ => exec_tanhe ..⟩
  case nan => exact fun fn ftz w _ h => sfu_of_nan (inF_of_isNan h)
  case zero => intro ftz; simp only [sfu_of_zero (inF_zero ftz)]; rfl
  case negZero => intro ftz; simp only [sfu_of_zero (inF_negZero ftz)]; rfl
  case infinity => intro ftz; simp only [sfu_of_inf (inF_infinity ftz)]; rfl
  case negInfinity => intro ftz; simp only [sfu_of_inf (inF_negInfinity ftz)]; rfl
  case negative =>
    intro ftz w hs hz he hn
    rcases inF_of_negative hs hz he hn with h | ⟨m, e, hm, h⟩
    · simp only [sfu_of_inf h]; exact ⟨rfl, rfl⟩
    · exact ⟨sfu_of_neg h hm (.inl rfl), sfu_of_neg h hm (.inr rfl)⟩
  case ftz =>
    intro fn w h
    have hm : (w &&& 0x80000000).extractLsb' 23 8 = 0 := by
      apply BitVec.eq_of_getLsbD_eq
      intro i hi
      interval_cases i <;> simp
    obtain ⟨e, h1⟩ := inF_f32_ftz h
    obtain ⟨e', h2⟩ := inF_f32_ftz hm
    rw [sfu_of_zero h1, sfu_of_zero h2, show (w &&& 0x80000000).getLsbD 31 = w.getLsbD 31 by simp]

end Sys2Proof.Machine
end

section
/-! Loads (R206, R207, R209, R210): the results that they make their lanes wait for, and the requests for their bytes. -/

namespace Sys2Proof.Machine

/-! ## Checks of lanes -/

/-- Where every lane passes its check, there is a place for each of them, in order. -/
theorem checkLanes_lanes {α : Type} {u : Issue} {wr : Bool} {ls : List Nat} {f : Nat → Except XFault α} {as : List (Nat × α)}
    (h : checkLanes u wr ls f = .ok as) : as.map Prod.fst = ls := by
  simp only [checkLanes] at h
  split at h
  · next hb =>
    cases h
    have hok : ∀ t ∈ ls, ∃ p, f t = .ok p := fun t ht => by
      cases hf : f t with
      | ok p => exact ⟨p, rfl⟩
      | error e =>
        refine absurd (List.isEmpty_iff.1 hb) (List.ne_nil_of_mem (a := (t, e)) (List.mem_filterMap.2 ⟨(t, f t), ?_, ?_⟩))
        · exact List.mem_map_of_mem ht
        · simp only [hf]
    clear hb
    induction ls with
    | nil => rfl
    | cons t ls ih =>
      obtain ⟨p, hp⟩ := hok t (List.mem_cons_self ..)
      simp only [List.map_cons, List.filterMap_cons, hp, ih fun x hx => hok x (List.mem_cons_of_mem _ hx)]
  · cases h

/-! ## Tickets of loads -/

theorem loadReqs_ord {u : Issue} {pid size ord scope pol inst : Nat} {as : List (Nat × Acc)} :
    ∀ r ∈ loadReqs u pid size ord scope pol inst as, r.ord = ord := by
  intro r hr
  simp only [loadReqs, List.mem_flatMap, List.mem_map] at hr
  obtain ⟨x, -, p, -, rfl⟩ := hr
  rfl

/-- Requests of another order than .sc take no ticket (R103). -/
theorem addReqs_ticket {s : State} {rs : List Req} (h : ∀ r ∈ rs, r.ord ≠ 4) : (addReqs s rs).ticket = s.ticket := by
  simp only [addReqs, addTicketed]
  rw [List.filter_eq_nil_iff.2, List.length_nil, Nat.add_zero]
  intro r hr
  obtain ⟨i, hi, rfl⟩ := List.mem_mapIdx.1 hr
  simpa using h _ (List.getElem_mem hi)

theorem startLoads_ticket (u : Issue) (s : State) (d size pol : Nat) (as : List (Nat × Acc)) (h : u.pfx.ord.1 ≠ 4) :
    (startLoads u s d size pol as).ticket = s.ticket := by
  simp only [startLoads]
  rw [addReqs_ticket fun r hr => by rw [loadReqs_ord r hr]; exact h, (cacheAccs_spec u s as).1]
  simp only [addPends, updAct, State.updGrp_ticket]

/-! ## Loads -/

theorem allPending_congr {u : Issue} {n k : Nat} {r r' : Nat → List Nat × List (Option Word)} {mem eng : Bool} {th : Thread}
    (h : ∀ k ∈ u.act, r k = r' k) : allPending u n r mem eng k th = allPending u n r' mem eng k th := by
  simp only [allPending, onAct]
  split
  · next hk => rw [h k (by simpa using hk)]
  · rfl

/-- What a load is to do with its `size` bytes per lane at the places that the lanes pass their checks with. -/
def LoadsAt (i : Instr) (d size pol : Nat) (place : Issue → State → Nat → Except XFault Acc) : Prop := ∀ u s, Issues i u s →
  (∀ as, checkLanes u false u.act (place u (advance i u s)) = .ok as → Ends i u s fun t => ∃ rs,
    t = { s with groups := t.groups, tlb := t.tlb, lastPages := t.lastPages, frames := t.frames, reqs := s.reqs ++ rs
                 ticket := t.ticket, nextId := s.nextId + u.act.length + rs.length } ∧ TablesRead s t ∧
    (u.pfx.ord.1 ≠ 4 → t.ticket = s.ticket) ∧
    Acts i u s t id (allPending u s.nextId (awaited d (sizeRegs size)) true) ∧
    Made u pol (fun _ => .load) (piecesOf size as) rs ∧
    ∀ r ∈ rs, r.pend = s.nextId + u.act.idxOf r.tid) ∧
  ∀ ti, checkLanes u false u.act (place u (advance i u s)) = .error ti → exec i s = .next (raise s u.grp ti)

/-- An instruction whose effect is to check its lanes' places, and to start a load at them. -/
theorem loadsAt_of {i : Instr} {d size pol : Nat} {place : Issue → State → Nat → Except XFault Acc} {eff : Issue → State → Res}
    (hx : ∀ s, exec i s = execUnit i eff s)
    (he : ∀ u s, eff u (advance i u s) = match checkLanes u false u.act (place u (advance i u s)) with
      | .error ti => .trap ti
      | .ok as => .ok (startLoads u (advance i u s) d size pol as)) : LoadsAt i d size pol place := by
  intro u s h
  refine ⟨fun as ha => ?_, fun ti ht => ?_⟩
  · obtain ⟨rs, t, rfl, only, tables, acts, made, pend⟩ := startLoads_spec (i := i) (s0 := advance i u s) h.1 d size pol as rfl
    have hl : (advance i u s).l1 = s.l1 := by rw [advance_only h.1]
    refine ends_of h (hx s) (by rw [he, ha]) ⟨rs, only.trans (by rw [hl]), tables, fun ho => ?_, ?_, made, pend⟩
    · rw [startLoads_ticket u _ d size pol as ho, advance_only h.1]
    · obtain ⟨others, g', hg, rest, len, thr⟩ := acts
      refine ⟨others, g', hg, rest, len, fun k hk => (thr k hk).trans (allPending_congr fun j hj => ?_)⟩
      have hm : as.any (fun x => x.1 == j) = true := by
        rw [← checkLanes_lanes ha] at hj
        obtain ⟨x, hx, rfl⟩ := List.mem_map.1 hj
        exact List.any_eq_true.2 ⟨x, hx, beq_self_eq_true _⟩
      simp only [hm, if_true, awaited]
  · rw [hx]
    exact execUnit_trap h (by rw [he, ht])

/-- Settles O15: `startLoads_spec` says what a load does at its places, which its failed checks replace by a trap. -/
theorem loadsRequestTheirBytes : Obligations.loadsRequestTheirBytes := by
  unfold Obligations.loadsRequestTheirBytes
  refine ⟨fun o => ?_, fun o => ?_, fun o => ?_⟩
  · have glob (i : Instr) (size : Nat) (hx : ∀ s, exec i s = execUnit i (loadGlobal i o size) s) :
        LoadsAt i o.t.toNat size o.cp.toNat fun u s k =>
          accGlobal u s (u.rd64 s k o.b.toNat + BitVec.ofInt 64 (immOf i u.pfx * size)) size .load :=
      loadsAt_of hx fun u s => rfl
    exact ⟨glob _ 1 fun _ => exec_ldB .., glob _ 2 fun _ => exec_ldH .., glob _ 4 fun _ => exec_ldW ..,
      glob _ 8 fun _ => exec_ldD .., glob _ 16 fun _ => exec_ldQ ..⟩
  · have h : LoadsAt (.lds o) o.t.toNat (widthBytes o.w) 0 fun u s k => accPad u s (padOff (.lds o) u s o.o (widthBytes o.w) k)
        (widthBytes o.w) := loadsAt_of (fun _ => exec_lds o _) fun u s => rfl
    exact h
  · have h : LoadsAt (.ldp o) o.t.toNat (widthBytes o.w) 0 fun u s k =>
        accPeer u s o.rank.toNat (padOff (.ldp o) u s o.o (widthBytes o.w) k) (widthBytes o.w) :=
      loadsAt_of (fun _ => exec_ldp o _) fun u s => rfl
    exact h

end Sys2Proof.Machine
end

section
/-! Mask registers (R201, R202): what JENR, MSKW and PMSK write, and the enrolled threads that JWAIT parks (R35). -/

namespace Sys2Proof.Machine

/-! ## Bits of thread masks -/

theorem getLsbD_bit (t j : Nat) (hj : j < 64) : (((1 <<< t : Nat) : DWord)).getLsbD j = (t == j) := by
  rw [BitVec.natCast_eq_ofNat, BitVec.getLsbD_ofNat, Nat.one_shiftLeft, Nat.testBit_two_pow]
  simp [hj, beq_eq_decide]

/-- A mask has the bits of its threads. -/
theorem getLsbD_tmask (ts : List Nat) (j : Nat) (hj : j < 64) : (tmask ts).getLsbD j = ts.contains j := by
  have from_ (m : DWord) : (ts.foldl (fun (m : DWord) t => m ||| (1 <<< t)) m).getLsbD j = (m.getLsbD j || ts.contains j) := by
    induction ts generalizing m with
    | nil => simp
    | cons t ts ih =>
      rw [List.foldl_cons, ih, BitVec.getLsbD_or, getLsbD_bit t j hj, List.contains_cons, Bool.or_assoc, Bool.beq_comm]
  simpa [tmask] using from_ 0

/-- A mask with given bits. -/
theorem eq_ofFnLE {x : DWord} {f : Nat → Bool} (h : ∀ j < 64, x.getLsbD j = f j) : x = BitVec.ofFnLE fun j : Fin 64 => f j.val := by
  apply BitVec.eq_of_getLsbD_eq
  intro j hj
  rw [h j hj, BitVec.getLsbD_ofFnLE, dif_pos hj]

/-! ## Writes of a mask register -/

/-- A mask register of the unit's group changes, and nothing else. -/
theorem setMask_acts {i : Instr} {u : Issue} {s : State} (h : s.issue? = some u) (k : BitVec 3) (x : DWord) :
    let t := setMask u (advance i u s) k x
    t = { s with groups := t.groups } ∧ Acts i u s t (fun g => { g with m := g.m.set k.toNat x }) fun _ th => th := by
  obtain ⟨g1, o1, r1, l1, t1⟩ := advance_spec i u s (State.issue?_spec h).1
  have o := o1.trans (OneGroup.of_updGrp (fun g => { g with m := g.m.set k.toNat x }) (fun _ => rfl) o1.new)
  exact ⟨o.only, o.others, _, State.grp?_of_find o.new, by rw [r1], l1, t1⟩

/-- An instruction whose effect is to write bits to a mask register, and to release the threads that wait for it. -/
theorem endsAwake_setMask {i : Instr} {eff : Issue → State → Res} {k : BitVec 3} {u : Issue} {s : State} {x : DWord}
    {bits : Nat → Bool} (hx : exec i s = execUnit i eff s) (h : Issues i u s)
    (he : eff u (advance i u s) = .ok (wake (setMask u (advance i u s) k x))) (hb : ∀ j < 64, x.getLsbD j = bits j) :
    EndsAwake i u s fun t => t = { s with groups := t.groups } ∧
      Acts i u s t (fun g => { g with m := g.m.set k.toNat (BitVec.ofFnLE fun j : Fin 64 => bits j.val) }) fun _ th => th := by
  rw [← eq_ofFnLE hb]
  exact endsAwake_of h hx he (setMask_acts h.1 k x)

theorem updThrs'_nil (g : Group) (f : Nat → Thread → Thread) : g.updThrs' [] f = g := by
  have : g.threads.mapIdx (fun _ th => th) = g.threads := List.ext_getElem (by simp) (by simp)
  simp [Group.updThrs', this]

/-- A change of no thread. -/
theorem updAct_nil {u : Issue} (h : u.act = []) (s : State) (f : Nat → Thread → Thread) : updAct u s f = s := by
  have hg (gs : List Group) : updGroups u.gid (fun g => g) gs = gs := by simp [updGroups]
  have hb : (fun b : Block => { b with saved := b.saved.map fun gs => gs }) = id := by
    funext b; cases hs : b.saved <;> simp [← hs]
  simp only [updAct, h, updThrs'_nil, State.updGrp, hg, funext hg, hb, List.map_id, ite_self]

/-! ## JWAIT -/

/-- Whether a thread of the mask waits for it at another instruction (R35). -/
theorem jwait_elsewhere {u : Issue} {k : BitVec 3} :
    (u.grp.live.any fun t => (u.grp.thr t).park == some (.jwait k.toNat) && (u.grp.mask k).getLsbD t &&
      (u.grp.thr t).pc != u.ipc + 4) = true ↔
    ∃ t ∈ u.grp.live, (u.grp.thr t).park = some (.jwait k.toNat) ∧ (u.grp.m.getD k.toNat 0).getLsbD t = true ∧
      (u.grp.thr t).pc ≠ u.ipc + 4 := by
  simp only [List.any_eq_true, Bool.and_eq_true, beq_iff_eq, bne_iff_ne, and_assoc, Group.mask]

/-- The commit of a unit's region, once its threads have passed it. -/
theorem closeRegion_unit {i : Instr} {u : Issue} {s : State} (h : s.issue? = some u) :
    ∃ (n : Nat) (g' : Group) (rs : List Req) (gs : List Group) (k : Nat),
      closeRegion u (advance i u s) = { s with
        groups := gs, reqs := s.reqs ++ rs, nextId := n, ticket := k, ctxs := (s.leave u.grp.cxid (freedWords i u)).ctxs } ∧
      GroupTo u.gid s (closeRegion u (advance i u s)) u.grp g' ∧ FromHeld u u.tids rs ∧
      g' = { reentered u u.grp with threads := g'.threads } ∧ g'.threads.length = u.grp.threads.length ∧
      ∀ k, k < u.grp.threads.length → g'.thr k = recommit u n k (passed i u k (u.grp.thr k)) := by
  obtain ⟨g1, o1, r1, l1, t1⟩ := advance_spec i u s (State.issue?_spec h).1
  obtain ⟨gs, hA⟩ : ∃ gs, advance i u s = { s with groups := gs } := ⟨_, o1.only⟩
  obtain ⟨n, g', rs, o, e, held, rest, len, thr⟩ := closeRegion_spec (GroupTo.refl o1.new) l1 r1 t1 (by rw [hA])
  exact ⟨n, g', rs, _, _, e.trans (by rw [hA]; rfl), o1.to.trans o, held, rest, len, thr⟩

/-- Threads that park for a wait once the unit's region has committed. -/
theorem closeRegion_parks {i : Instr} {u : Issue} {s : State} (h : s.issue? = some u) (ts : List Nat) (p : Park) :
    let t := (closeRegion u (advance i u s)).updGrp u.gid fun g => g.updThrs ts fun th => { th with park := some p }
    ∃ n, t = afterCommit i u s t n ∧
      Commits i u s t n [] id fun k th => if ts.contains k then { th with park := some p } else th := by
  obtain ⟨n, g', rs, gs, k, e, o, held, rest, len, thr⟩ := closeRegion_unit (i := i) h
  have o2 := o.upd (fun g => g.updThrs ts fun th => { th with park := some p }) fun _ => rfl
  obtain ⟨gs', e'⟩ : ∃ gs', (closeRegion u (advance i u s)).updGrp u.gid (fun g => g.updThrs ts fun th =>
      { th with park := some p }) = { closeRegion u (advance i u s) with groups := gs' } :=
    ⟨_, (OneGroup.of_updGrp (fun g => g.updThrs ts fun th => { th with park := some p }) (fun _ => rfl) o.new).only⟩
  refine ⟨n, by rw [e', e]; rfl, ⟨o2.others, _, State.grp?_of_find o2.new, ?_, ?_, fun j hj => ?_⟩, rs, held, ?_⟩
  · rw [rest]; rfl
  · rw [Group.length_updThrs, len]
  · rw [Group.thr_updThrs _ _ _ _ (by rw [len]; exact hj), thr j hj]
  · rw [e', e, List.append_nil]

/-- Settles O20: the three writes are `setMask` of a value with the stated bits, and JWAIT is a commit that parks threads. -/
theorem maskWritesAndRejoin : Obligations.maskWritesAndRejoin := by
  unfold Obligations.maskWritesAndRejoin
  refine ⟨fun o u s h _ => ?jenr, fun o u s h ha => ?mskw, fun o u s h _ => ?pmsk, fun o => ?idle,
    fun o u s h => ⟨fun hc => ?jwait, fun he hc => ?mismatch⟩⟩
  case jenr =>
    exact endsAwake_setMask (bits := fun j => (u.grp.m.getD o.k.toNat 0).getLsbD j || u.act.contains j) (exec_jenr o s) h rfl
      fun j hj => by rw [BitVec.getLsbD_or, getLsbD_tmask _ j hj, Group.mask]
  case mskw =>
    obtain ⟨k, ks, hk⟩ := List.exists_cons_of_ne_nil ha
    refine endsAwake_setMask (bits := fun j => decide (j < u.grp.width) && (u.rd64 s u.low o.a.toNat).getLsbD j)
      (x := u.rd64 s u.low o.a.toNat &&& tmask (List.range u.grp.width)) (exec_mskw o s) h ?_ fun j hj => ?_
    · simp only [hk, rd64_advance, Issue.low, List.headD_cons]
    · rw [BitVec.getLsbD_and, getLsbD_tmask _ j hj, Bool.and_comm]
      simp
  case pmsk =>
    refine endsAwake_setMask
      (bits := fun j => if u.act.contains j then (u.grp.thr j).prd o.pa else (u.grp.m.getD o.k.toNat 0).getLsbD j)
      (exec_pmsk o s) h rfl fun j hj => ?_
    simp only [BitVec.getLsbD_or, BitVec.getLsbD_and, BitVec.getLsbD_not, getLsbD_tmask _ j hj, hj, Group.mask]
    by_cases hj : j ∈ u.act <;> simp [hj]
  case idle =>
    refine transforms_of _ (fun s => exec_mskw o s) rfl rfl fun u s _ ha => ?_
    rw [updAct_nil ha]
    simp only [ha]
  case jwait =>
    refine endsAwake_of h (exec_jwait o s) (if_neg fun hm => ?_) (closeRegion_parks h.1 _ _)
    obtain ⟨hne, ho⟩ := Bool.and_eq_true_iff.1 hm
    rcases hc with hc | hc
    · have hc : (u.act.filter fun t => (u.grp.mask o.k).getLsbD t) = [] := hc
      simp only [hc, List.isEmpty_nil, Bool.not_true, Bool.false_eq_true] at hne
    · exact hc (jwait_elsewhere.1 ho)
  case mismatch =>
    refine (exec_jwait o s).trans (execUnit_trap h (if_pos (Bool.and_eq_true_iff.2 ⟨?_, jwait_elsewhere.2 hc⟩)))
    simpa [Group.mask] using he
end Sys2Proof.Machine
end

section
/-! EXIT (R45, R54, R117): the regions that it commits, and the threads that it ends. -/

namespace Sys2Proof.Machine

/-! ## Words that threads give up -/

/-- Words given up one after the other are given up together. -/
theorem leave_leave (s t : State) (cx : Nat) (a b : List Word) (h : t.ctxs = (s.leave cx a).ctxs) :
    (t.leave cx b).ctxs = (s.leave cx (a ++ b)).ctxs := by
  simp only [State.leave, State.updCtx] at h ⊢
  rw [h, List.map_map]
  congr 1
  funext c
  by_cases hc : c.cxid = cx <;> simp [hc]

/-! ## Threads that end -/

/-- A group whose threads `ts` have exited: they are in no mask register (R45, R54). -/
def Group.exited (g : Group) (ts : List Nat) : Group :=
  Group.clearRe (Group.updThrs { g with m := g.m.map fun m => m &&& ~~~tmask ts } ts Thread.exit) ts

theorem Group.exited_rest (g : Group) (ts : List Nat) : g.exited ts =
    { g with threads := (g.exited ts).threads, m := g.m.map (· &&& ~~~tmask ts), remask := (g.exited ts).remask
             instar := (g.exited ts).instar } := rfl

theorem Group.length_exited (g : Group) (ts : List Nat) : (g.exited ts).threads.length = g.threads.length :=
  Group.length_updThrs ..

theorem Group.thr_exited (g : Group) (ts : List Nat) (k : Nat) (hk : k < g.threads.length) :
    (g.exited ts).thr k = if ts.contains k then (g.thr k).exit else g.thr k :=
  Group.thr_updThrs { g with m := g.m.map fun m => m &&& ~~~tmask ts } ts Thread.exit k hk

/-- Ending threads of a resident group changes that group, and what contexts have been given up, alone. -/
theorem exitThrs_spec {s : State} {n : Nat} {g : Group} (ts : List Nat) (h : (s.groups.find? fun x => x.gid == n) = some g) :
    GroupTo n s (exitThrs s n ts) g (g.exited ts) ∧ ∃ ws,
      exitThrs s n ts = { s with groups := (exitThrs s n ts).groups, ctxs := (s.leave g.cxid ws).ctxs } := by
  let ws := ts.flatMap fun t => (g.thr t).v.map Prod.snd
  have he : exitThrs s n ts = (s.leave g.cxid ws).updGrp n fun x => x.exited ts := by
    simp only [exitThrs, State.grp?_of_find h]; rfl
  have o := OneGroup.of_updGrp (s := s.leave g.cxid ws) (fun x => x.exited ts) (fun _ => rfl) h
  rw [he]
  exact ⟨⟨h, o.new, o.others⟩, ws, o.only⟩

/-! ## The effect of EXIT -/

/-- A thread that passes a unit holds the stores that it held. -/
theorem stores_passed (i : Instr) (u : Issue) (k : Nat) (th : Thread) : (passed i u k th).stores = th.stores := by
  unfold passed
  split
  · split <;> rfl
  · rfl

theorem stores_advance {i : Instr} {u : Issue} {g : Group} (hl : g.threads.length = u.grp.threads.length)
    (ht : ∀ k, k < u.grp.threads.length → g.thr k = passed i u k (u.grp.thr k)) (k : Nat) :
    (g.thr k).stores = (u.grp.thr k).stores := by
  by_cases hk : k < u.grp.threads.length
  · rw [ht k hk, stores_passed]
  · rw [Group.thr, Group.thr, List.getD_eq_default _ _ (by omega), List.getD_eq_default _ _ (by omega)]

/-- What a unit's EXIT does before waits are looked at: a commit of its active threads, which then end. -/
theorem exit_threads {i : Instr} {u : Issue} {s : State} (h : s.issue? = some u) :
    let t := exitThrs (commit (advance i u s) u.gid u.act fun _ => 0) u.gid u.act
    (∃ rs ws, FromHeld u u.act rs ∧ t = { s with
      groups := t.groups, reqs := s.reqs ++ rs, nextId := t.nextId, ticket := t.ticket
      ctxs := (s.leave u.grp.cxid ws).ctxs }) ∧
    ∃ g', GroupTo u.gid s t u.grp g' ∧
      g' = { u.grp with threads := g'.threads, m := u.grp.m.map (· &&& ~~~tmask u.act), remask := g'.remask
                        instar := g'.instar } ∧
      g'.threads.length = u.grp.threads.length ∧
      ∀ k, k < u.grp.threads.length → if u.act.contains k then
          (g'.thr k).exited = true ∧ (g'.thr k).stores = [] ∧ (g'.thr k).pend = [] ∧ (g'.thr k).park = none
        else g'.thr k = passed i u k (u.grp.thr k) := by
  obtain ⟨g1, o1, r1, l1, t1⟩ := advance_spec i u s (State.issue?_spec h).1
  obtain ⟨gs, hA⟩ : ∃ gs, advance i u s = { s with groups := gs } := ⟨_, o1.only⟩
  have hid : g1.gid = u.gid := by simpa using List.find?_some o1.new
  obtain ⟨g2, rs, n, o2, e2, keys, of, r2, l2, t2⟩ := commit_spec (advance i u s) g1 u.act (fun _ => 0) u.gid hid o1.new
  obtain ⟨o3, ws, e3⟩ := exitThrs_spec u.act o2.new
  generalize exitThrs (commit (advance i u s) u.gid u.act fun _ => 0) u.gid u.act = t at o3 e3 ⊢
  have hcx : g1.cxid = u.grp.cxid := by rw [r1]
  have hcx2 : g2.cxid = u.grp.cxid := by rw [r2]; exact hcx
  obtain ⟨gs', k, hC⟩ : ∃ gs' k, commit (advance i u s) u.gid u.act (fun _ => 0) = { s with
      groups := gs', reqs := s.reqs ++ rs, nextId := n, ticket := k
      ctxs := (s.leave u.grp.cxid (u.act.flatMap fun t => (g1.thr t).freed)).ctxs } :=
    ⟨_, _, e2.trans (by rw [hA, hcx]; rfl)⟩
  rw [hcx2, leave_leave s _ _ _ ws (by rw [hC]), hC] at e3
  refine ⟨⟨rs, (u.act.flatMap fun t => (g1.thr t).freed) ++ ws, ⟨?_, of⟩, ?_⟩, _, o1.to.trans (o2.trans o3), ?_, ?_, fun k hk => ?_⟩
  · rw [keys, heldStores]
    simp only [stores_advance l1 t1]
  · rw [e3]
  · rw [Group.exited_rest, r2, r1]; rfl
  · rw [Group.length_exited, l2, l1]
  · rw [Group.thr_exited _ _ _ (by rw [l2, l1]; exact hk), t2 k (by rw [l1]; exact hk), t1 k hk]
    by_cases hc : u.act.contains k = true
    · rw [if_pos hc, if_pos hc, if_pos hc]; exact ⟨rfl, rfl, rfl, rfl⟩
    · rw [if_neg hc, if_neg hc, if_neg hc]

/-- Settles O21: `exit_threads` says what EXIT does to its threads; a handler group that is gone answers its trap besides. -/
theorem exitEndsThreads : Obligations.exitEndsThreads := by
  unfold Obligations.exitEndsThreads
  intro o u s h
  obtain ⟨only, g', og, rest, len, thr⟩ := exit_threads (i := .exit o) h.1
  refine ⟨_, ?_, only, og.others, g', State.grp?_of_find og.new, rest, len, thr⟩
  refine endsAwake_of h (exec_exit o s) ?_ ⟨g', State.grp?_of_find og.new, rfl⟩
  simp only [exitEffect, State.grp?_of_find og.new, List.isEmpty_iff]

end Sys2Proof.Machine
end

section
/-! The end of a unit (R36, R42, R117, R241): what `finish` makes of the unit's threads, of the other groups, and of its run. -/

namespace Sys2Proof.Machine

/-! ## Changes of groups at the end of a unit -/

/-- A group whose thread k is `F k` of itself, and which yields where `y` says so. -/
def Group.mapThr (F : Nat → Thread → Thread) (y : Bool) (x : Group) : Group :=
  { x with threads := x.threads.mapIdx F, yielded := x.yielded || y }

theorem Group.thr_mapThr (F : Nat → Thread → Thread) (y : Bool) (x : Group) {k : Nat} (hk : k < x.threads.length) :
    (x.mapThr F y).thr k = F k (x.thr k) := by
  simp only [Group.thr, Group.mapThr, List.getD_eq_getElem?_getD, List.getElem?_mapIdx, List.getElem?_eq_getElem hk,
    Option.map_some, Option.getD_some]

theorem Group.mapThr_id (y : Bool) (x : Group) : x.mapThr (fun _ th => th) y = { x with yielded := x.yielded || y } := by
  have ht : x.threads.mapIdx (fun _ th => th) = x.threads := List.ext_getElem (by simp) (by simp)
  rw [Group.mapThr, ht]

/-- The unit's group changed by `Group.mapThr`; the latches of the others in its partition released where `l` says so. -/
def unitEnd (u : Issue) (F : Nat → Thread → Thread) (y l : Bool) (x : Group) : Group :=
  if x.gid = u.gid then x.mapThr F y
  else if l = true ∧ x.core = u.core ∧ x.part = u.part then { x with latch := none } else x

theorem gid_unitEnd (u : Issue) (F : Nat → Thread → Thread) (y l : Bool) (x : Group) : (unitEnd u F y l x).gid = x.gid := by
  unfold unitEnd
  split
  · rfl
  · split <;> rfl

theorem unitEnd_unitEnd (u : Issue) (F G : Nat → Thread → Thread) (y z l m : Bool) (x : Group) :
    unitEnd u G z m (unitEnd u F y l x) = unitEnd u (fun k th => G k (F k th)) (y || z) (l || m) x := by
  by_cases hx : x.gid = u.gid
  · simp only [unitEnd, hx, if_true, Group.mapThr, List.mapIdx_mapIdx, Bool.or_assoc]; rfl
  · by_cases hp : x.core = u.core ∧ x.part = u.part
    · cases l <;> cases m <;> simp [unitEnd, hx, hp]
    · simp only [unitEnd, hx, hp, and_false, if_false]

/-- From s to t groups change by `unitEnd`, and nothing else does. -/
def EndsTo (u : Issue) (F : Nat → Thread → Thread) (y l : Bool) (s t : State) : Prop :=
  t = { s with groups := s.groups.map (unitEnd u F y l) }

theorem EndsTo.trans {u : Issue} {F G : Nat → Thread → Thread} {y z l m : Bool} {s t r : State} (h : EndsTo u F y l s t)
    (k : EndsTo u G z m t r) : EndsTo u (fun k th => G k (F k th)) (y || z) (l || m) s r := by
  have hc : unitEnd u G z m ∘ unitEnd u F y l = unitEnd u (fun k th => G k (F k th)) (y || z) (l || m) :=
    funext fun x => unitEnd_unitEnd ..
  unfold EndsTo at *
  rw [k, h, ← hc, ← List.map_map]

theorem EndsTo.congr {u : Issue} {F G : Nat → Thread → Thread} {y z l m : Bool} {s t : State} (h : EndsTo u F y l s t)
    (hF : ∀ k th, F k th = G k th) (hy : y = z) (hl : l = m) : EndsTo u G z m s t := by
  rwa [show F = G from funext fun k => funext (hF k), hy, hl] at h

theorem EndsTo.find {u : Issue} {F : Nat → Thread → Thread} {y l : Bool} {s t : State} (h : EndsTo u F y l s t) (n : Nat) :
    (t.groups.find? fun x => x.gid == n) = (s.groups.find? fun x => x.gid == n).map (unitEnd u F y l) := by
  have hp : (fun x : Group => x.gid == n) ∘ unitEnd u F y l = fun x => x.gid == n := by
    funext x; simp only [Function.comp_apply, gid_unitEnd]
  rw [EndsTo] at h
  rw [h, List.find?_map, hp]

/-- No change, as a change of groups. -/
theorem EndsTo.refl (u : Issue) (s : State) : EndsTo u (fun _ th => th) false false s s := by
  have h : unitEnd u (fun _ th => th) false false = id := by
    funext x
    simp [unitEnd, Group.mapThr_id]
  simp [EndsTo, h]

/-- A step that is taken under a condition. -/
theorem EndsTo.ite {u : Issue} {F : Nat → Thread → Thread} {y l : Bool} {s t : State} (c : Prop) [Decidable c]
    (h : EndsTo u F y l s t) :
    EndsTo u (fun k th => if c then F k th else th) (decide c && y) (decide c && l) s (if c then t else s) := by
  by_cases hc : c
  · simpa only [hc, if_true, decide_true, Bool.true_and] using h
  · simpa only [hc, if_false, decide_false, Bool.false_and] using EndsTo.refl u s

/-- A change of the unit's group, which is resident. -/
theorem EndsTo.of_updGrp {u : Issue} {s : State} {g : Group} (hg : (s.groups.find? fun x => x.gid == u.gid) = some g)
    {f : Group → Group} {F : Nat → Thread → Thread} {y : Bool} (hf : ∀ x, f x = x.mapThr F y) :
    EndsTo u F y false s (s.updGrp u.gid f) := by
  have h : (fun x => if x.gid == u.gid then f x else x) = unitEnd u F y false := by
    funext x
    simp [unitEnd, hf]
  rw [EndsTo, State.updGrp_of_find f hg, updGroups, h]

theorem Group.updThrs_eq_mapThr (g : Group) (ts : List Nat) (f : Thread → Thread) :
    g.updThrs ts f = g.mapThr (fun k th => if k ∈ ts then f th else th) false := by
  simp only [Group.updThrs, Group.mapThr, List.contains_eq_mem, decide_eq_true_eq, Bool.or_false]

theorem releaseLatches_endsTo (u : Issue) (s : State) : EndsTo u (fun _ th => th) false true s (releaseLatches u s) := by
  have h : (fun x : Group => if x.core == u.core && x.part == u.part && x.gid != u.gid then { x with latch := none } else x) =
      unitEnd u (fun _ th => th) false true := by
    funext x
    simp only [unitEnd, Group.mapThr_id, Bool.or_false, true_and]
    by_cases hx : x.gid = u.gid
    · rw [if_neg (by simp [hx]), if_pos hx]
    · simp [hx]
  rw [EndsTo, ← h]
  rfl

/-! ## The steps of `finish` -/

/-- An active thread that run control 2 has settle: at once where no result that it covers is on its way (R42). -/
def settled (i : Instr) (u : Issue) (n k : Nat) (th : Thread) : Thread :=
  if i.rc = 2 then
    if k ∈ u.act then if th.exited then th else settleRelease { th with settle := some n } else th
  else th

/-- What the end of a unit makes of thread k of its group, before the run ends. -/
def finThread (i : Instr) (u : Issue) (n k : Nat) (th : Thread) : Thread :=
  let th := settled i u n k (if i.closing then if k ∈ u.tids then { th with rid := n } else th else th)
  if k ∈ u.tids then { th with waited := 0, starved := none } else th

/-- A settle that begins: it is over at once where no result that it covers is on its way. -/
theorem settleRelease_some (th : Thread) (n : Nat) : settleRelease { th with settle := some n } =
    if th.pend.any fun p => p.id < n then { th with settle := some n }
    else { th with settle := none, waited := 0, unsettled := th.unsettled.filter fun e => decide (n ≤ e.2.1) } := rfl

/-- What `finish` does to groups before it looks at the run. -/
def finishGroups (i : Instr) (u : Issue) (s : State) : State :=
  let s := if i.closing then s.updGrp u.gid fun g => g.updThrs u.tids fun th => { th with rid := s.nextId } else s
  let s := if i.rc = 2 then settleThreads u s else s
  let s := if i.matrix then releaseLatches u s else s
  let s := if i.rc = 3 then s.updGrp u.gid fun g => { g with yielded := true } else s
  s.updGrp u.gid fun g => g.updThrs u.tids fun th => { th with waited := 0, starved := none }

/-- What `finish` does to the run of the unit. -/
def finishRun (i : Instr) (u : Issue) (s : State) : State :=
  match s.run? with
  | none => s
  | some r =>
    if runEnds i u r s then
      let s := endRunAt s u.core u.part
      if r.single then s.updGrp u.gid fun g => g.updThrs u.tids fun th =>
        if th.exited || th.park.isSome then th else { th with stopped := true }
      else s
    else
      { s with runs := s.runs.map fun x => if x.core == u.core && x.part == u.part then
          { x with pfx := {}, off := 0, words := x.words + x.off + 1 } else x }

theorem finish_steps (i : Instr) (u : Issue) (s : State) :
    finish i u s = finishRun i u { finishGroups i u s with free := (finishGroups i u s).free + 1 } := rfl

theorem finishGroups_endsTo {i : Instr} {u : Issue} {s : State} {g : Group}
    (hg : (s.groups.find? fun x => x.gid == u.gid) = some g) :
    EndsTo u (finThread i u s.nextId) (decide (i.rc = 3)) i.matrix s (finishGroups i u s) := by
  unfold finishGroups
  extract_lets s1 s2 s3 s4
  have find {F y l} {t : State} (h : EndsTo u F y l s t) : ∃ g, (t.groups.find? fun x => x.gid == u.gid) = some g :=
    ⟨_, (h.find u.gid).trans (by rw [hg]; rfl)⟩
  have closing : EndsTo u _ _ _ s s1 := (EndsTo.of_updGrp hg fun x => x.updThrs_eq_mapThr _ _).ite (i.closing = true)
  have hn : s1.nextId = s.nextId := by rw [closing]
  have settle : EndsTo u _ _ _ s1 s2 := (EndsTo.of_updGrp (find closing).choose_spec fun x => x.updThrs_eq_mapThr _ _).ite (i.rc = 2)
  have latch : EndsTo u _ _ _ s2 s3 := (releaseLatches_endsTo u s2).ite (i.matrix = true)
  have to3 := (closing.trans settle).trans latch
  have yield_ : EndsTo u (fun k th => if i.rc = 3 then (fun _ th => th) k th else th) _ _ s3 s4 :=
    (EndsTo.of_updGrp (find to3).choose_spec fun x => by rw [Group.mapThr_id, Bool.or_true]).ite (i.rc = 3)
  have to4 := to3.trans yield_
  have waited := EndsTo.of_updGrp (find to4).choose_spec fun x => x.updThrs_eq_mapThr u.tids fun th =>
    { th with waited := 0, starved := none }
  have all := to4.trans waited
  rw [hn] at all
  refine all.congr (fun k th => ?_) (by simp) (by simp)
  simp only [ite_self]
  rfl

/-- The device at the end of a unit, before its run goes on or ends. -/
def finState (i : Instr) (u : Issue) (s : State) : State :=
  { s with groups := s.groups.map (unitEnd u (finThread i u s.nextId) (decide (i.rc = 3)) i.matrix), free := s.free + 1 }

/-- The ends of a unit: no run is in progress; or the run ends, and a STEP's threads stop; or it goes on. -/
theorem finish_cases {i : Instr} {u : Issue} {s : State} {g : Group} (hg : (s.groups.find? fun x => x.gid == u.gid) = some g) :
    (s.run? = none ∧ finish i u s = finState i u s) ∨ ∃ r, s.run? = some r ∧
      ((runEnds i u r (finState i u s) = true ∧
          ∃ G, (∀ k th, G k th = th ∨ k ∈ u.tids ∧ G k th = { th with stopped := true }) ∧
            (r.single = false → ∀ k th, G k th = th) ∧
            EndsTo u G false false (endRunAt (finState i u s) u.core u.part) (finish i u s)) ∨
        (runEnds i u r (finState i u s) = false ∧ finish i u s = { finState i u s with
          runs := s.runs.map fun x => if x.core == u.core && x.part == u.part then
            { x with pfx := {}, off := 0, words := x.words + x.off + 1 } else x })) := by
  have hf : finish i u s = finishRun i u (finState i u s) := by
    rw [finish_steps, finishGroups_endsTo hg]; rfl
  have hg' : ((endRunAt (finState i u s) u.core u.part).groups.find? fun x => x.gid == u.gid) = some _ :=
    (EndsTo.find rfl u.gid).trans (by rw [hg]; rfl)
  rw [hf, finishRun, show (finState i u s).run? = s.run? from rfl]
  cases s.run? with
  | none => exact .inl ⟨rfl, rfl⟩
  | some r =>
    dsimp only
    refine .inr ⟨r, rfl, ?_⟩
    by_cases he : runEnds i u r (finState i u s) = true
    · refine .inl ⟨he, ?_⟩
      rw [if_pos he]
      by_cases hs : r.single = true
      · rw [if_pos hs]
        refine ⟨_, fun k th => ?_, fun h => absurd hs (by simp [h]), EndsTo.of_updGrp hg' fun x => x.updThrs_eq_mapThr _ _⟩
        by_cases hk : k ∈ u.tids
        · by_cases hp : (th.exited || th.park.isSome) = true
          · rw [if_pos hk, if_pos hp]; exact .inl rfl
          · rw [if_pos hk, if_neg hp]; exact .inr ⟨hk, rfl⟩
        · rw [if_neg hk]; exact .inl rfl
      · rw [if_neg hs]
        exact ⟨_, fun _ _ => .inl rfl, fun _ _ _ => rfl, EndsTo.refl ..⟩
    · rw [if_neg he]
      exact .inr ⟨by simpa using he, rfl⟩

/-! ## Threads at the end of a unit -/

theorem finThread_of_not_mem {i : Instr} {u : Issue} {n k : Nat} (th : Thread) (ha : ∀ k ∈ u.act, k ∈ u.tids) (hk : k ∉ u.tids) :
    finThread i u n k th = th := by
  have hk' : k ∉ u.act := fun h => hk (ha k h)
  simp only [finThread, settled, hk, hk', if_false, ite_self]

theorem settleRelease_only (th : Thread) : settleRelease th = { th with
    settle := (settleRelease th).settle, waited := (settleRelease th).waited
    unsettled := (settleRelease th).unsettled } := by
  unfold settleRelease
  split
  · split <;> rfl
  · rfl

theorem settled_only (i : Instr) (u : Issue) (n k : Nat) (th : Thread) : settled i u n k th = { th with
    settle := (settled i u n k th).settle, waited := (settled i u n k th).waited
    unsettled := (settled i u n k th).unsettled } := by
  unfold settled
  split
  · split
    · split
      · rfl
      · rw [settleRelease_only]
    · rfl
  · rfl

/-- A thread of the unit: run control alone changes it, but for the mark of a closing instruction (R36, R42, R117). -/
theorem finThread_of_mem {i : Instr} {u : Issue} {n k : Nat} (th : Thread) (hk : k ∈ u.tids) :
    finThread i u n k th = { th with
      rid := if i.closing then n else th.rid, settle := (finThread i u n k th).settle
      unsettled := (finThread i u n k th).unsettled, waited := 0, starved := none } := by
  simp only [finThread, if_pos hk]
  conv => lhs; rw [settled_only]
  split <;> simp_all

/-- Run control 2 has an active thread settle until every result that is on its way has landed (R42). -/
theorem settle_finThread {i : Instr} {u : Issue} {n k : Nat} (th : Thread) (hr : i.rc = 2) (hk : k ∈ u.act) (ht : k ∈ u.tids)
    (he : th.exited = false) : (finThread i u n k th).settle = if th.pend.any fun p => p.id < n then some n else none := by
  have hs (x : Thread) (hx : x.exited = false) (hp : x.pend = th.pend) : (settled i u n k x).settle =
      if th.pend.any fun p => p.id < n then some n else none := by
    rw [settled, if_pos hr, if_pos hk, if_neg (by simp [hx]), settleRelease_some, hp]
    split <;> rfl
  rw [finThread, if_pos ht, if_pos ht]
  exact hs _ (by split <;> exact he) (by split <;> rfl)

/-! ## Statement -/

/-- What the end of a unit makes of its threads, whether its run goes on (`G` changes nothing) or ends. -/
theorem finish_threads {i : Instr} {u : Issue} {n k : Nat} {G : Nat → Thread → Thread} (th : Thread)
    (ha : ∀ k ∈ u.act, k ∈ u.tids) (hG : ∀ k th, G k th = th ∨ k ∈ u.tids ∧ G k th = { th with stopped := true }) :
    let th' := G k (finThread i u n k th)
    (k ∉ u.tids → th' = th) ∧
    (k ∈ u.tids → th' = { th with
      rid := if i.closing then n else th.rid, settle := th'.settle, stopped := th'.stopped, unsettled := th'.unsettled
      waited := 0, starved := none }) ∧
    (i.rc = 2 → k ∈ u.act → th.exited = false → th'.settle = if th.pend.any fun p => p.id < n then some n else none) := by
  refine ⟨fun hk => ?_, fun hk => ?_, fun hr hk he => ?_⟩
  · rw [finThread_of_not_mem th ha hk]
    exact (hG k th).resolve_right fun h => hk h.1
  · rcases hG k (finThread i u n k th) with h | ⟨-, h⟩
    all_goals
      rw [h]
      conv => lhs; rw [finThread_of_mem th hk]
    rw [show (finThread i u n k th).stopped = th.stopped by rw [finThread_of_mem th hk]]
  · rw [← settle_finThread th hr hk (ha k hk) he]
    rcases hG k (finThread i u n k th) with h | ⟨-, h⟩ <;> rw [h]

/-- The groups at the end of a unit: those of `finState`, but for threads that a STEP stops. -/
theorem finish_groups {i : Instr} {u : Issue} {s : State} {g : Group} (hg : (s.groups.find? fun x => x.gid == u.gid) = some g) :
    ∃ G : Nat → Thread → Thread, (∀ k th, G k th = th ∨ k ∈ u.tids ∧ G k th = { th with stopped := true }) ∧
      (∀ r, s.run? = some r → r.single = false → ∀ k th, G k th = th) ∧
      finish i u s = { s with
        groups := s.groups.map (unitEnd u (fun k th => G k (finThread i u s.nextId k th)) (decide (i.rc = 3)) i.matrix)
        runs := (finish i u s).runs, free := s.free + 1 } := by
  rcases finish_cases (i := i) hg with ⟨-, e⟩ | ⟨r, hr, ⟨-, G, hG, hs, e⟩ | ⟨-, e⟩⟩
  · exact ⟨fun _ th => th, fun _ _ => .inl rfl, fun _ _ _ _ _ => rfl, by rw [e]; rfl⟩
  · have hc : unitEnd u G false false ∘ unitEnd u (finThread i u s.nextId) (decide (i.rc = 3)) i.matrix =
        unitEnd u (fun k th => G k (finThread i u s.nextId k th)) (decide (i.rc = 3)) i.matrix := by
      funext x
      simp only [Function.comp_apply, unitEnd_unitEnd, Bool.or_false]
    refine ⟨G, hG, fun x hx => ?_, ?_⟩
    · cases hr.symm.trans hx
      exact hs
    rw [e, ← hc, ← List.map_map]
    rfl
  · exact ⟨fun _ th => th, fun _ _ => .inl rfl, fun _ _ _ _ _ => rfl, by rw [e]; rfl⟩

/-- What the end of a unit does to the runs, where one is in progress for the partition (R36): a run that ends is gone, and one
that goes on is at its next word. -/
theorem runs_finish {i : Instr} {u : Issue} {s : State} {g : Group} (hg : (s.groups.find? fun x => x.gid == u.gid) = some g) :
    (∀ r ∈ s.runs, r.core ≠ u.core ∨ r.part ≠ u.part → r ∈ (finish i u s).runs) ∧
    ∀ r, s.run? = some r →
      (runEnds i u r (finState i u s) = true → ∀ x ∈ (finish i u s).runs, x.core ≠ u.core ∨ x.part ≠ u.part) ∧
      (runEnds i u r (finState i u s) = false → r ∈ s.runs → r.core = u.core → r.part = u.part →
        { r with pfx := {}, off := 0, words := r.words + r.off + 1 } ∈ (finish i u s).runs) := by
  have hp (r : Run) (h : r.core ≠ u.core ∨ r.part ≠ u.part) : ¬(r.core = u.core ∧ r.part = u.part) := by tauto
  rcases finish_cases (i := i) hg with ⟨hn, e⟩ | ⟨r, hr, ⟨he, G, -, -, e⟩ | ⟨he, e⟩⟩
  · rw [e]
    exact ⟨fun r h _ => h, fun r h => absurd (hn.symm.trans h) (by simp)⟩
  · rw [show (finish i u s).runs = s.runs.filter fun r => !(r.core == u.core && r.part == u.part) by rw [e]; rfl, hr]
    refine ⟨fun x hx h => List.mem_filter.2 ⟨hx, by simpa using h⟩, fun x hx => ⟨fun _ y hy => ?_, fun h => ?_⟩⟩
    · simp at hy
      tauto
    · cases hx
      exact absurd (he.symm.trans h) (by simp)
  · rw [e, hr]
    refine ⟨fun x hx h => List.mem_map.2 ⟨x, hx, by simp [hp x h]⟩, fun x hx => ⟨fun h => ?_, fun _ hm hc hq => ?_⟩⟩
    · cases hx
      exact absurd (h.symm.trans he) (by simp)
    · exact List.mem_map.2 ⟨x, hm, by simp [hc, hq]⟩

/-- The group of a unit stands after the unit's end where it stood, changed as `unitEnd` says. -/
theorem EndsTo.grp? {u : Issue} {F : Nat → Thread → Thread} {y l : Bool} {s t : State} {g : Group} (h : EndsTo u F y l s t)
    (hg : (s.groups.find? fun x => x.gid == u.gid) = some g) : t.grp? u.gid = some (g.mapThr F y) := by
  have hi : g.gid = u.gid := by simpa using List.find?_some hg
  rw [State.grp?_of_find ((h.find u.gid).trans (congrArg _ hg)), unitEnd, if_pos hi]

/-- With no latch to release, the other groups are as they were. -/
theorem EndsTo.grp?_ne {u : Issue} {F : Nat → Thread → Thread} {y : Bool} {s t : State} (h : EndsTo u F y false s t) {n : Nat}
    (hn : n ≠ u.gid) : t.grp? n = s.grp? n := by
  have hb : t.blocks = s.blocks := by rw [h]
  rw [State.grp?, State.grp?, h.find, hb]
  cases hf : s.groups.find? fun x => x.gid == n with
  | none => rfl
  | some x =>
    have hx : x.gid = n := by simpa using List.find?_some hf
    simp [unitEnd, hx, hn]

/-- Settles O41: `finish_groups` read thread by thread, and `runs_finish` run by run. -/
theorem endOfUnit : Obligations.endOfUnit := by
  unfold Obligations.endOfUnit
  intro i u s g hg ha t
  obtain ⟨G, hG, hs, ht⟩ := finish_groups (i := i) hg
  obtain ⟨others, runs⟩ := runs_finish (i := i) hg
  have ends : EndsTo u _ (decide (i.rc = 3)) i.matrix { s with runs := t.runs, free := s.free + 1 } t := ht
  have hg' := ends.grp? hg
  refine ⟨by rw [show t = _ from ht], fun hm n hn => ?_, fun hm x hx hn => ?_, others, fun r hr hc hp h => ?_, _, hg',
    fun r hm hr hc hp h0 htr hen hsi hw hready => ?_, rfl, by simp [Group.mapThr], by simp [Group.mapThr], fun k hk => ?_⟩
  · rw [hm] at ends
    exact ends.grp?_ne hn
  · rw [show t.groups = _ from congrArg State.groups ht]
    exact List.mem_map.2 ⟨x, hx, by simp only [unitEnd, if_neg hn, hm, true_and]⟩
  · refine (runs r hr).1 ?_
    simp only [runEnds, Bool.or_eq_true, bne_iff_ne, decide_eq_true_eq]
    tauto
  · refine (runs r hr).2 ?_ hm hc hp
    have hid : (fun k th => G k (finThread i u s.nextId k th)) = finThread i u s.nextId :=
      funext fun k => funext fun th => hs r hr hsi k _
    have hfin : (finState i u s).grp? u.gid = some _ := EndsTo.grp? (s := { s with free := s.free + 1 }) rfl hg
    rw [hid] at hready
    rw [runEnds, hfin]
    simpa [h0, htr, hen, hsi] using ⟨Nat.lt_of_succ_lt_succ hw, hready⟩
  · rw [Group.thr_mapThr _ _ _ hk]
    exact finish_threads _ ha hG

end Sys2Proof.Machine
end

section
/-! What follows a change that waits depend on (R35, R42, R109, R212, R222, R224): `wake`, thread by thread. -/

namespace Sys2Proof.Machine

/-! ## Lists changed element by element -/

/-- A list whose elements have each changed as `R` allows. -/
def EachTo {α : Type} (R : α → α → Prop) (l l' : List α) : Prop := ∃ f : α → α, l' = l.map f ∧ ∀ x ∈ l, R x (f x)

theorem EachTo.refl {α : Type} {R : α → α → Prop} (h : ∀ x, R x x) (l : List α) : EachTo R l l :=
  ⟨id, (List.map_id l).symm, fun x _ => h x⟩

theorem EachTo.trans {α : Type} {R : α → α → Prop} (h : ∀ x y z, R x y → R y z → R x z) {l l' l'' : List α}
    (h1 : EachTo R l l') (h2 : EachTo R l' l'') : EachTo R l l'' := by
  obtain ⟨f, rfl, hf⟩ := h1
  obtain ⟨g, rfl, hg⟩ := h2
  exact ⟨g ∘ f, by rw [List.map_map], fun x hx => h _ _ _ (hf x hx) (hg _ (List.mem_map_of_mem hx))⟩

theorem EachTo.length_eq {α : Type} {R : α → α → Prop} {l l' : List α} (h : EachTo R l l') : l'.length = l.length := by
  obtain ⟨f, rfl, -⟩ := h
  exact List.length_map f

theorem EachTo.getElem {α : Type} {R : α → α → Prop} {l l' : List α} (h : EachTo R l l') (i : Nat) (hi : i < l.length)
    (hi' : i < l'.length) : R l[i] l'[i] := by
  obtain ⟨f, rfl, hf⟩ := h
  simpa using hf _ (List.getElem_mem hi)

/-! ## Threads let go -/

/-- A thread as it was, or one that was parked otherwise than at a WAIT and goes on, knowing more. -/
def LetGo (th th' : Thread) : Prop :=
  th' = { th with park := th'.park, waited := th'.waited, starved := th'.starved, view := th'.view } ∧
  (th'.park = none ∨ th'.park = th.park) ∧ ∀ c n a, th.park = some (.wait c n a) → th'.park = th.park

theorem LetGo.refl (th : Thread) : LetGo th th := ⟨rfl, .inr rfl, fun _ _ _ _ => rfl⟩

theorem LetGo.trans {th th' th'' : Thread} (h : LetGo th th') (k : LetGo th' th'') : LetGo th th'' := by
  obtain ⟨h1, h2, h3⟩ := h
  obtain ⟨k1, k2, k3⟩ := k
  refine ⟨by rw [k1, h1], k2.elim .inl fun e => e ▸ h2, fun c n a hp => ?_⟩
  exact (k3 c n a ((h3 c n a hp).trans hp)).trans (h3 c n a hp)

theorem letGo_release {th : Thread} (n : Nat) (k : Known) (h : ∀ c n a, th.park ≠ some (.wait c n a)) :
    LetGo th (th.learn n k).release := ⟨rfl, .inl rfl, fun c n a hp => absurd hp (h c n a)⟩

/-- A group some of whose threads have been let go. -/
def LetsGo (g g' : Group) : Prop :=
  g' = { g with threads := g'.threads, m := g'.m, held := g'.held } ∧ g'.threads.length = g.threads.length ∧
  ∀ k < g.threads.length, LetGo (g.thr k) (g'.thr k)

theorem LetsGo.refl (g : Group) : LetsGo g g := ⟨rfl, rfl, fun _ _ => .refl _⟩

theorem LetsGo.trans {g g' g'' : Group} (h : LetsGo g g') (k : LetsGo g' g'') : LetsGo g g'' := by
  obtain ⟨h1, h2, h3⟩ := h
  obtain ⟨k1, k2, k3⟩ := k
  exact ⟨by rw [k1, h1], k2.trans h2, fun i hi => (h3 i hi).trans (k3 i (h2 ▸ hi))⟩

theorem LetsGo.gid {g g' : Group} (h : LetsGo g g') : g'.gid = g.gid := by rw [h.1]

/-- Threads that are released, none of them from a WAIT. -/
theorem letsGo_updThrs {g : Group} {ts : List Nat} (m : List DWord) (n : Nat) (k : Known)
    (h : ∀ t ∈ ts, ∀ c n a, (g.thr t).park ≠ some (.wait c n a)) :
    LetsGo g (Group.updThrs { g with m := m } ts fun th => (th.learn n k).release) := by
  refine ⟨rfl, Group.length_updThrs .., fun t ht => ?_⟩
  rw [Group.thr_updThrs { g with m := m } ts _ t ht]
  split
  · next hc => exact letGo_release n k (h t (by simpa using hc))
  · exact .refl _

theorem letsGo_freeChunks (s : State) (g : Group) : LetsGo g (freeChunks s g) := by
  unfold freeChunks
  split
  · exact .refl g
  · exact ⟨rfl, rfl, fun _ _ => .refl _⟩

theorem letsGo_jwaitRelease (s : State) (g : Group) : LetsGo g (jwaitRelease s g) := by
  unfold jwaitRelease
  generalize List.range 8 = ks
  induction ks generalizing g with
  | nil => exact .refl g
  | cons k ks ih =>
    refine LetsGo.trans ?_ (ih _)
    dsimp only
    split
    · exact .refl g
    · refine letsGo_updThrs _ _ _ fun t ht c n a hp => ?_
      have := (List.mem_filter.1 ht).2
      simp [hp] at this

/-! ## Barriers that complete -/

/-- A block whose barriers have moved on. -/
def BarsMoved (b b' : Block) : Prop := b' = { b with bars := b'.bars, pre := b'.pre, pe := b'.pe }

theorem BarsMoved.refl (b : Block) : BarsMoved b b := rfl

theorem BarsMoved.trans {b b' b'' : Block} (h : BarsMoved b b') (k : BarsMoved b' b'') : BarsMoved b b'' := by
  unfold BarsMoved at *
  rw [k, h]

/-- A grid whose cluster barriers have moved on. -/
def CbarsMoved (x x' : Grid) : Prop := x' = { x with cbars := x'.cbars }

theorem CbarsMoved.refl (x : Grid) : CbarsMoved x x := rfl

theorem CbarsMoved.trans {x x' x'' : Grid} (h : CbarsMoved x x') (k : CbarsMoved x' x'') : CbarsMoved x x'' := by
  unfold CbarsMoved at *
  rw [k, h]

/-- From s to t threads are let go, and barriers of blocks and grids change. -/
structure Released (s t : State) : Prop where
  only : t = { s with groups := t.groups, blocks := t.blocks, grids := t.grids }
  groups : EachTo LetsGo s.groups t.groups
  blocks : EachTo BarsMoved s.blocks t.blocks
  grids : EachTo CbarsMoved s.grids t.grids

theorem blocksStay (s : State) : EachTo BarsMoved s.blocks s.blocks := .refl BarsMoved.refl _
theorem gridsStay (s : State) : EachTo CbarsMoved s.grids s.grids := .refl CbarsMoved.refl _

theorem Released.refl (s : State) : Released s s := ⟨rfl, .refl LetsGo.refl _, blocksStay s, gridsStay s⟩

theorem Released.trans {s t r : State} (h : Released s t) (k : Released t r) : Released s r := by
  refine ⟨?_, h.groups.trans (fun _ _ _ a b => a.trans b) k.groups, h.blocks.trans (fun _ _ _ a b => a.trans b) k.blocks,
    h.grids.trans (fun _ _ _ a b => a.trans b) k.grids⟩
  have h := h.only
  have k := k.only
  rw [k, h]

/-- Groups keep their numbers. -/
theorem Released.gids {s t : State} (h : Released s t) : t.groups.map Group.gid = s.groups.map Group.gid := by
  obtain ⟨f, e, hf⟩ := h.groups
  rw [e, List.map_map]
  exact List.map_congr_left fun x hx => (hf x hx).gid

/-- Groups have numbers of their own. -/
def State.OwnNumbers (s : State) : Prop := (s.groups.map Group.gid).Nodup

theorem Released.foldl {α : Type} {f : State → α → State} (hf : ∀ s x, s.OwnNumbers → Released s (f s x)) (l : List α) (s : State)
    (hs : s.OwnNumbers) : Released s (l.foldl f s) := by
  induction l generalizing s with
  | nil => exact .refl s
  | cons x l ih =>
    have h := hf s x hs
    exact h.trans (ih _ (h.gids ▸ hs : (_ : List Nat).Nodup))

theorem eq_of_gid_eq {s : State} (hs : s.OwnNumbers) {x g : Group} (hx : x ∈ s.groups) (hg : g ∈ s.groups) (h : x.gid = g.gid) :
    x = g := List.inj_on_of_nodup_map hs hx hg h

/-- A change of the groups alone. -/
theorem released_groups {s : State} {f : Group → Group} (hf : ∀ g ∈ s.groups, LetsGo g (f g)) :
    Released s { s with groups := s.groups.map f } := ⟨rfl, ⟨f, rfl, hf⟩, blocksStay s, gridsStay s⟩

/-- A change of one resident group. -/
theorem released_updGrp {s : State} {g : Group} {f : Group → Group} (hs : s.OwnNumbers) (hg : g ∈ s.groups)
    (hf : LetsGo g (f g)) : Released s (s.updGrp g.gid f) ∧ ∀ x ∈ s.groups, x.gid ≠ g.gid → x ∈ (s.updGrp g.gid f).groups := by
  have he : s.updGrp g.gid f = { s with groups := s.groups.map fun x => if x.gid == g.gid then f x else x } :=
    if_pos (List.any_eq_true.2 ⟨g, hg, by simp⟩)
  rw [he]
  refine ⟨released_groups fun x hx => ?_,
    fun x hx hne => List.mem_map.2 ⟨x, hx, by simp [hne]⟩⟩
  split
  · next h => exact eq_of_gid_eq hs hx hg (by simpa using h) ▸ hf
  · exact .refl x

/-- Threads that wait at a barrier generation are let go. -/
theorem released_barRelease {p : Park → Bool} (hp : ∀ c n a, p (.wait c n a) = false) (seen : Rel) (gs : List Group) (s : State)
    (hs : s.OwnNumbers) (hn : (gs.map Group.gid).Nodup) (hm : ∀ g ∈ gs, g ∈ s.groups) : Released s (barRelease gs s seen p) := by
  unfold barRelease
  induction gs generalizing s with
  | nil => exact .refl s
  | cons g gs ih =>
    obtain ⟨hg, hn⟩ := List.nodup_cons.1 hn
    obtain ⟨h, hstay⟩ := released_updGrp (f := fun g' => g'.updThrs (g.live.filter fun t => match (g.thr t).park with
      | some k => p k
      | none => false) fun th => (th.learn s.nextId seen.known).release) hs (hm g (.head _))
      (letsGo_updThrs g.m _ _ fun t ht c n a hw => by simpa [hw, hp] using (List.mem_filter.1 ht).2)
    refine h.trans (ih _ (h.gids ▸ hs : (_ : List Nat).Nodup) hn fun x hx => hstay x (hm x (.tail _ hx)) fun e => hg ?_)
    exact e ▸ List.mem_map_of_mem hx


theorem released_updBlk (s : State) (bid : Nat) (f : Block → Block) (hf : ∀ b, BarsMoved b (f b)) : Released s (s.updBlk bid f) :=
  ⟨rfl, .refl LetsGo.refl _, ⟨_, rfl, fun b _ => by split; exacts [hf b, rfl]⟩, gridsStay s⟩

theorem released_updGrid (s : State) (gr : Nat) (f : Grid → Grid) (hf : ∀ x, CbarsMoved x (f x)) : Released s (s.updGrid gr f) :=
  ⟨rfl, .refl LetsGo.refl _, blocksStay s, ⟨_, rfl, fun x _ => by split; exacts [hf x, rfl]⟩⟩

/-- The groups that a barrier is for have numbers of their own, and are resident. -/
theorem nodup_filter_gid {s : State} (hs : s.OwnNumbers) (q : Group → Bool) : ((s.groups.filter q).map Group.gid).Nodup :=
  hs.sublist (List.filter_sublist.map _)

theorem released_barComplete (s : State) (bid : Nat) (k : BarSt) (hs : s.OwnNumbers) : Released s (barComplete s bid k) := by
  unfold barComplete
  extract_lets gs
  split
  · exact .refl s
  · split
    · exact .refl s
    · split
      · exact released_updBlk s bid _ fun _ => rfl
      · extract_lets s1
        have h : Released s s1 := released_updBlk s bid _ fun _ => rfl
        refine h.trans (released_barRelease (fun _ _ _ => rfl) _ gs s1 hs (nodup_filter_gid hs _) fun g hg => ?_)
        exact (List.mem_filter.1 hg).1

theorem released_cbarComplete (s : State) (gr : Nat) (e : Nat × BarSt) (hs : s.OwnNumbers) : Released s (cbarComplete s gr e) := by
  unfold cbarComplete
  extract_lets gs seen s1
  split
  · exact .refl s
  · have h : Released s s1 := released_updGrid s gr _ fun _ => rfl
    refine h.trans (released_barRelease (fun _ _ _ => rfl) _ gs s1 hs (nodup_filter_gid hs _) fun g hg => ?_)
    exact (List.mem_filter.1 hg).1

/-! ## Settles and WAITs that end -/

/-- A thread after its settle and its WAIT, where they are over. -/
def woken (s : State) (g : Group) (th : Thread) : Thread := waitRelease s g (settleRelease th)

/-- What becomes of a thread that may settle or wait, before barriers are looked at. -/
structure Woken (g : Group) (th th' : Thread) : Prop where
  rest : th' = { th with park := th'.park, settle := th'.settle, waited := th'.waited, starved := th'.starved
                         unsettled := th'.unsettled, view := th'.view }
  park : th'.park = none ∨ th'.park = th.park
  settle : ∀ n, th.settle = some n → th'.settle = if th.pend.any fun p => decide (p.id < n) then some n else none
  settled : th.settle = none → th'.settle = none ∧ th'.unsettled = th.unsettled
  wait : ∀ c n a, th.park = some (.wait c n a) → (th'.park = none ↔ g.cnt c ≤ n)

theorem Woken.letGo {g : Group} {th th' th'' : Thread} (h : Woken g th th') (k : LetGo th' th'') : Woken g th th'' := by
  obtain ⟨k1, k2, k3⟩ := k
  have hs : th''.settle = th'.settle := by rw [k1]
  have hu : th''.unsettled = th'.unsettled := by rw [k1]
  refine ⟨?_, k2.elim .inl fun e => e ▸ h.park, hs ▸ h.settle, hs ▸ hu ▸ h.settled, fun c n a hp => ?_⟩
  · have hr := h.rest
    rw [k1, hr]
  · rw [← h.wait c n a hp]
    rcases h.park with e | e
    · have : th''.park = none := k2.elim id (·.trans e)
      simp [e, this]
    · rw [k3 c n a (e.trans hp)]

/-- A settle is over once no result that it covers is on its way. -/
theorem settleRelease_settle (th : Thread) :
    (∀ n, th.settle = some n →
      (settleRelease th).settle = if th.pend.any fun p => decide (p.id < n) then some n else none) ∧
    (th.settle = none → (settleRelease th).settle = none ∧ (settleRelease th).unsettled = th.unsettled) := by
  unfold settleRelease
  cases hs : th.settle with
  | none => exact ⟨fun _ h => (by cases h), fun _ => ⟨hs, rfl⟩⟩
  | some n =>
    refine ⟨fun m h => ?_, fun h => by cases h⟩
    cases h
    dsimp only
    split <;> simp_all

/-- A thread that waits goes on once its counter holds no more than its bound. -/
theorem waitRelease_cases (s : State) (g : Group) (th : Thread) :
    (waitRelease s g th = th ∧ ∀ c n a, th.park = some (.wait c n a) → ¬g.cnt c ≤ n) ∨
    ∃ c n a k, th.park = some (.wait c n a) ∧ g.cnt c ≤ n ∧ waitRelease s g th = (th.learn s.nextId k).release := by
  unfold waitRelease
  split
  · next c n a hw =>
    split
    · next hc => exact .inr ⟨c, n, a, _, hw, hc, rfl⟩
    · next hc => exact .inl ⟨rfl, fun _ _ _ h => by cases hw.symm.trans h; exact hc⟩
  · next hw => exact .inl ⟨rfl, fun c n a h => absurd h (hw c n a)⟩

theorem woken_spec (s : State) (g : Group) (th : Thread) : Woken g th (woken s g th) := by
  have hrest := settleRelease_only th
  obtain ⟨hsettle, hnone⟩ := settleRelease_settle th
  have hp : (settleRelease th).park = th.park := by rw [hrest]
  unfold woken
  rcases waitRelease_cases s g (settleRelease th) with ⟨h, hw⟩ | ⟨c, n, a, k, hw, hc, h⟩
  · rw [h]
    refine ⟨?_, .inr hp, hsettle, hnone, fun c n a hq => ⟨fun e => ?_, fun e => absurd e (hw c n a (hp.trans hq))⟩⟩
    · rw [hrest]
    · rw [hp, hq] at e
      cases e
  · rw [h]
    refine ⟨?_, .inl rfl, hsettle, hnone, fun c' n' a' hq => ⟨fun _ => ?_, fun _ => rfl⟩⟩
    · rw [hrest]
      rfl
    · cases hw.symm.trans (hp.trans hq)
      exact hc

/-! ## Write-backs -/

theorem writeBacks_spec (s : State) : writeBacks s = { s with l2 := (writeBacks s).l2, wbs := (writeBacks s).wbs } ∧
    (writeBacks s).wbs.Sublist s.wbs ∧
    ((writeBacks s).l2.map fun l => { l with dirty := false }).Sublist (s.l2.map fun l => { l with dirty := false }) := by
  unfold writeBacks
  refine ⟨rfl, List.filter_sublist, ?_⟩
  rw [List.map_map]
  refine (List.map_congr_left fun l _ => ?_) ▸ List.filter_sublist.map _
  rw [Function.comp_apply]
  split <;> rfl

/-! ## The whole of `wake` -/

/-- The groups with settles and WAITs that are over ended. -/
def wokenGroup (s : State) (g : Group) : Group := { g with threads := g.threads.map (woken s g) }

theorem thr_wokenGroup (s : State) (g : Group) {k : Nat} (hk : k < g.threads.length) :
    (wokenGroup s g).thr k = woken s g (g.thr k) := by
  simp only [wokenGroup, Group.thr, List.getD_eq_getElem?_getD, List.getElem?_map, List.getElem?_eq_getElem hk, Option.map_some,
    Option.getD_some]

/-- The device with settles and WAITs that are over ended, and write-backs performed that are due. -/
def endWaits (s : State) : State :=
  { s with groups := s.groups.map (wokenGroup s), l2 := (writeBacks s).l2, wbs := (writeBacks s).wbs }

/-- A group after its masks and its chunks have been looked at as well. -/
def letGoGroup (s : State) (g : Group) : Group := freeChunks s (jwaitRelease s g)

theorem letsGo_letGoGroup (s : State) (g : Group) : LetsGo g (letGoGroup s g) :=
  (letsGo_jwaitRelease s g).trans (letsGo_freeChunks s _)

/-- The device in which barriers are looked at. -/
def beforeBarriers (s : State) : State := writeBacks { s with groups := s.groups.map fun g => letGoGroup s (wokenGroup s g) }

/-- The barriers of blocks that complete. -/
def blockBarriers (s : State) : State := s.blocks.foldl (fun s b => b.bars.foldl (fun s k => barComplete s b.bid k) s) s

/-- The cluster barriers that complete. -/
def clusterBarriers (s : State) : State := s.grids.foldl (fun s x => x.cbars.foldl (fun s e => cbarComplete s x.gr e) s) s

theorem wake_eq (s : State) : wake s = clusterBarriers (blockBarriers (beforeBarriers s)) := rfl

theorem released_blockBarriers {s : State} (hs : s.OwnNumbers) : Released s (blockBarriers s) :=
  Released.foldl (fun s b hs => Released.foldl (fun s k hs => released_barComplete s b.bid k hs) b.bars s hs) s.blocks s hs

theorem released_clusterBarriers {s : State} (hs : s.OwnNumbers) : Released s (clusterBarriers s) :=
  Released.foldl (fun s x hs => Released.foldl (fun s e hs => released_cbarComplete s x.gr e hs) x.cbars s hs) s.grids s hs

/-- Write-backs do not depend on groups. -/
theorem writeBacks_groups (s : State) (gs : List Group) :
    writeBacks { s with groups := gs } = { s with groups := gs, l2 := (writeBacks s).l2, wbs := (writeBacks s).wbs } := by
  simp only [writeBacks]

theorem beforeBarriers_eq (s : State) :
    beforeBarriers s = { endWaits s with groups := (endWaits s).groups.map (letGoGroup s) } := by
  simp only [beforeBarriers, writeBacks_groups, endWaits, List.map_map, Function.comp_def]

theorem released_beforeBarriers (s : State) : Released (endWaits s) (beforeBarriers s) :=
  beforeBarriers_eq s ▸ released_groups fun g _ => letsGo_letGoGroup s g

theorem ownNumbers_endWaits {s : State} (hs : s.OwnNumbers) : (endWaits s).OwnNumbers := by
  rwa [State.OwnNumbers, endWaits, List.map_map]

/-- What follows the end of settles and WAITs lets threads go. -/
theorem released_wake {s : State} (hs : s.OwnNumbers) : Released (endWaits s) (wake s) := by
  have own {x y : State} (h : Released x y) (hx : x.OwnNumbers) : y.OwnNumbers := by rwa [State.OwnNumbers, h.gids]
  have h1 := released_beforeBarriers s
  have ho := own h1 (ownNumbers_endWaits hs)
  have h2 := released_blockBarriers ho
  rw [wake_eq]
  exact (h1.trans h2).trans (released_clusterBarriers (own h2 ho))

/-- Settles O24: a thread is `Woken` by its settle and its WAIT, and `LetGo` by its group's masks and by barriers. -/
theorem waitsAreReleased : Obligations.waitsAreReleased := by
  unfold Obligations.waitsAreReleased
  intro s hs
  have h := released_wake hs
  obtain ⟨-, hw, hl⟩ := writeBacks_spec s
  have only := h.only
  have hlen := h.groups.length_eq
  have hwbs : (wake s).wbs = (writeBacks s).wbs := by rw [only]; rfl
  have hl2 : (wake s).l2 = (writeBacks s).l2 := by rw [only]; rfl
  refine ⟨?_, hwbs ▸ hw, hl2 ▸ hl, hlen.trans (List.length_map _), h.blocks.length_eq, h.grids.length_eq, h.blocks.getElem,
    h.grids.getElem, fun i hi hi' => ?_⟩
  · rw [hwbs, hl2]
    exact only
  · obtain ⟨grest, glen, gthr⟩ := h.groups.getElem i (by simpa [endWaits] using hi) hi'
    have hwoken : (endWaits s).groups[i]'(by simpa [endWaits] using hi) = wokenGroup s s.groups[i] := by simp [endWaits]
    rw [hwoken] at grest glen gthr
    have hthr : (wokenGroup s s.groups[i]).threads.length = s.groups[i].threads.length := List.length_map _
    refine ⟨grest, glen.trans hthr, fun k hk => ?_⟩
    have hk' := gthr k (hthr.symm ▸ hk)
    rw [thr_wokenGroup s _ hk] at hk'
    obtain ⟨rest, park, settle, settled, wait⟩ := (woken_spec s _ _).letGo hk'
    exact ⟨rest, by simpa using park, settle, settled, wait⟩

end Sys2Proof.Machine
end

section
/-! Arbitration, run ends and landings (R34 to R38, R42, R43). -/

namespace Sys2Proof.Machine

/-! ## The order in which groups issue (R37, R38) -/

/-- What a group's place in the order is read from: when its first starved path became so, the age of its block, its number. -/
def issueKey (s : State) (g : Group) : WithTop Nat ×ₗ Nat ×ₗ Nat :=
  toLex (((g.starvedAt (g.mayIssue s)).elim ⊤ fun v => (v : WithTop Nat)), toLex (g.born, g.g))

theorem issueBefore_iff (s : State) (a b : Group) : issueBefore s a b = true ↔ issueKey s a ≤ issueKey s b := by
  unfold issueBefore issueKey
  cases a.starvedAt (a.mayIssue s) <;> cases b.starvedAt (b.mayIssue s) <;> simp [Prod.Lex.toLex_le_toLex]

/-- A group that goes first is one of the groups, and before each of them. -/
def IsFirst (s : State) (gs : List Group) (g : Group) : Prop := g ∈ gs ∧ ∀ h ∈ gs, issueBefore s g h = true

theorem firstIssuer_spec (s : State) (gs : List Group) (h : gs ≠ []) : ∃ g, firstIssuer s gs = some g ∧ IsFirst s gs g := by
  induction gs with
  | nil => exact absurd rfl h
  | cons g r ih =>
    by_cases hr : r = []
    · subst hr
      exact ⟨g, rfl, by simp [IsFirst, issueBefore_iff]⟩
    · obtain ⟨x, hx, hm, hle⟩ := ih hr
      by_cases hb : issueBefore s g x = true
      · refine ⟨g, by simp [firstIssuer, hx, hb], by simp, fun h hh => ?_⟩
        rcases List.mem_cons.1 hh with rfl | hh
        · exact (issueBefore_iff ..).2 le_rfl
        · exact (issueBefore_iff ..).2 (((issueBefore_iff ..).1 hb).trans ((issueBefore_iff ..).1 (hle h hh)))
      · refine ⟨x, by simp [firstIssuer, hx, hb], by simp [hm], fun h hh => ?_⟩
        rcases List.mem_cons.1 hh with rfl | hh
        · rw [issueBefore_iff] at hb ⊢
          exact (not_le.1 hb).le
        · exact hle h hh

theorem mem_contenders {s : State} {core part : Nat} {g : Group} : g ∈ contenders s core part ↔
    ∃ g0 ∈ issuers s core part, g0.retry s = g ∧ g.mayIssue s ≠ [] := by
  simp only [contenders, List.mem_filter, List.mem_map, Bool.not_eq_true', List.isEmpty_eq_false_iff]
  tauto

/-- The group that a partition issues next goes before all, or, where it has not yielded, before all that have not. -/
theorem nextIssue_spec {s : State} {core part : Nat} (h : contenders s core part ≠ []) : ∃ g, nextIssue s core part = some g ∧
    g ∈ contenders s core part ∧
    ∀ x ∈ contenders s core part, (x.yielded = false ∨ g.yielded = true) → issueBefore s g x = true := by
  unfold nextIssue
  by_cases hf : (contenders s core part).filter (fun g => !g.yielded) = []
  · obtain ⟨g, hg, hm, hle⟩ := firstIssuer_spec s _ h
    exact ⟨g, by simp [hf, firstIssuer, hg], hm, fun x hx _ => hle x hx⟩
  · obtain ⟨g, hg, hm, hle⟩ := firstIssuer_spec s _ hf
    obtain ⟨hm, hy⟩ := List.mem_filter.1 hm
    refine ⟨g, by simp [hg], hm, fun x hx hxy => hle x (List.mem_filter.2 ⟨hx, ?_⟩)⟩
    rcases hxy with hxy | hxy <;> simp_all

/-! ## The path that a group issues (R34, R38) -/

theorem starvedAt_some {g : Group} {ts : List Nat} {v : Nat} (h : g.starvedAt ts = some v) :
    (∃ t ∈ ts, (g.thr t).starved = some v) ∧ ∀ t ∈ ts, ∀ w, (g.thr t).starved = some w → v ≤ w := by
  obtain ⟨hm, hle⟩ := List.min?_eq_some_iff.1 h
  exact ⟨by simpa using hm, fun t ht w hw => hle w (List.mem_filterMap.2 ⟨t, ht, hw⟩)⟩

theorem starvedAt_none {g : Group} {ts : List Nat} (h : g.starvedAt ts = none) : ∀ t ∈ ts, (g.thr t).starved = none := by
  simpa [Group.starvedAt, List.min?_eq_none_iff] using h

/-- The path of some threads: those at the address of one of them, the first starved, or the one at the lowest. -/
theorem pathOf_spec (g : Group) {ts : List Nat} (h : ts ≠ []) : ∃ t ∈ ts,
    g.pathOf ts = ts.filter (fun i => (g.thr i).pc == (g.thr t).pc) ∧
    ((∀ k ∈ ts, (g.thr k).starved = none) → ∀ k ∈ ts, (g.thr t).pc.toNat ≤ (g.thr k).pc.toNat) ∧
    ∀ k ∈ ts, ∀ v, (g.thr k).starved = some v → ∃ w, (g.thr t).starved = some w ∧ w ≤ v := by
  cases hs : g.starvedAt ts with
  | some v =>
    obtain ⟨⟨t, ht, htv⟩, hle⟩ := starvedAt_some hs
    obtain ⟨p, hp⟩ := Option.isSome_iff_exists.1
      (List.find?_isSome (p := fun t => (g.thr t).starved == some v).2 ⟨t, ht, by simpa using htv⟩)
    have hm := List.mem_of_find?_eq_some hp
    have hv : (g.thr p).starved = some v := by simpa using List.find?_some hp
    refine ⟨p, hm, by simp only [Group.pathOf, hs, hp], fun hn => ?_, fun k hk w hw => ⟨v, hv, hle k hk w hw⟩⟩
    exact absurd (hv.symm.trans (hn p hm)) (by simp)
  | none =>
    have hn := starvedAt_none hs
    obtain ⟨m, hm⟩ := Option.ne_none_iff_exists'.1 (mt List.min?_eq_none_iff.1 (mt List.map_eq_nil_iff.1 h) :
      (ts.map fun t => (g.thr t).pc.toNat).min? ≠ none)
    obtain ⟨hmem, hle⟩ := List.min?_eq_some_iff.1 hm
    obtain ⟨t, ht, htm⟩ := List.mem_map.1 hmem
    obtain ⟨p, hp⟩ := Option.isSome_iff_exists.1
      (List.find?_isSome (p := fun t => (g.thr t).pc.toNat == m).2 ⟨t, ht, by simpa using htm⟩)
    have hv : (g.thr p).pc.toNat = m := by simpa using List.find?_some hp
    refine ⟨p, List.mem_of_find?_eq_some hp, by simp only [Group.pathOf, hs, hm, Option.bind_some, hp], fun _ k hk => ?_,
      fun k hk v hk' => absurd (hk'.symm.trans (hn k hk)) (by simp)⟩
    exact hv ▸ hle _ (List.mem_map.2 ⟨k, hk, rfl⟩)

theorem ready_of_mem_mayIssue {s : State} {g : Group} {k : Nat} (h : k ∈ g.mayIssue s) : g.ready k = true := by
  simp only [Group.mayIssue, Group.readies, List.mem_filter] at h
  exact h.1.1.2

/-! ## Arbitration, retries and the ends of runs (R36, R38) -/

/-- An idle partition with a path that may issue starts a run of it. -/
theorem execIssueArbitration_spec {s : State} {core part : Nat} {g : Group} (hn : nextIssue s core part = some g)
    (hr : ∀ r ∈ s.runs, ¬(r.core = core ∧ r.part = part)) : execIssueArbitration core part s = .next { s with
      groups := s.groups.map (fun x =>
        let y : Group := if (issuers s core part).any fun y => y.gid == x.gid then { x.retry s with yielded := false } else x
        if y.gid == g.gid then { y with fper := fairPeriod s y.cxid } else y)
      runs := s.runs ++ [{
        core := core, part := part, gid := g.gid, tids := g.candidate s, start := s.clk
        sdbg := ((s.ctx? g.cxid).map Ctx.sdbg).getD false }] } := by
  have hany : (s.runs.any fun r => r.core == core && r.part == part) = false := by simpa using hr
  rw [execIssueArbitration, hany, hn]
  rfl

theorem thr_retry (s : State) (g : Group) {k : Nat} (hk : k < g.threads.length) : (g.retry s).thr k =
    match (g.thr k).park with
    | some (.resource w) => if waitOver s g w then { g.thr k with park := none, waited := 0, starved := none } else g.thr k
    | _ => g.thr k := by
  simp only [Group.retry, Group.thr, List.getD_eq_getElem?_getD, List.getElem?_map, List.getElem?_eq_getElem hk,
    Option.map_some, Option.getD_some]
  rfl

theorem execRunTimeLimit_eq (core part : Nat) (s : State) : execRunTimeLimit core part s = .next
    (if ∃ r ∈ s.runs, r.core = core ∧ r.part = part ∧ r.single = false ∧ r.start + 32 ≤ s.clk
      then endRunAt s core part else s) := by
  unfold execRunTimeLimit
  simp only [List.any_eq_true, Run.timedOut, Bool.and_eq_true, beq_iff_eq, Bool.not_eq_true', decide_eq_true_eq, and_assoc]
  split <;> rfl

theorem execPathStarved_of_due {gid tid : Nat} {s : State} {g : Group} (hg : s.grp? gid = some g) (hr : g.ready tid = true)
    (hs : (g.thr tid).starved = none) (hw : g.fper ≤ (g.thr tid).waited) :
    execPathStarved gid tid s = .next (s.updThr gid tid fun th => { th with starved := some s.clk }) := by
  simp [execPathStarved, hg, hr, hs, hw]

/-! ## Landings (R42, R43) -/

/-- Values set under the keys `key` of some registers, one after the other. -/
def setKeyed (c : Nat → Prop) [DecidablePred c] (key : Nat → Nat) (ws : List (Nat × Word)) (l : List (Nat × Word)) :
    List (Nat × Word) := ws.foldl (fun v e => if c e.1 then assocSet (key e.1) e.2 v else v) l

theorem assoc_setKeyed_of_ne {c : Nat → Prop} [DecidablePred c] {key : Nat → Nat} {k : Nat} (ws : List (Nat × Word))
    (l : List (Nat × Word)) (h : ∀ e ∈ ws, c e.1 → key e.1 ≠ k) : assoc k (setKeyed c key ws l) = assoc k l := by
  induction ws generalizing l with
  | nil => rfl
  | cons e ws ih =>
    refine (ih _ fun x hx => h x (.tail _ hx)).trans ?_
    dsimp only
    split
    · next hc => rw [assoc_assocSet, if_neg (h e (.head _) hc).symm]
    · rfl

theorem assoc_setKeyed_of_mem {c : Nat → Prop} [DecidablePred c] {key : Nat → Nat} {r : Nat} {w : Word} {ws : List (Nat × Word)}
    (l : List (Nat × Word)) (hn : (ws.map Prod.fst).Nodup) (hm : (r, w) ∈ ws) (hr : c r)
    (hk : ∀ x, c x → key x = key r → x = r) : assoc (key r) (setKeyed c key ws l) = some w := by
  induction ws generalizing l with
  | nil => cases hm
  | cons e ws ih =>
    obtain ⟨he, hws⟩ := List.nodup_cons.1 hn
    rcases List.mem_cons.1 hm with rfl | hm
    · refine (assoc_setKeyed_of_ne ws _ fun x hx hc hkey => he ?_).trans ?_
      · exact List.mem_map.2 ⟨x, hx, hk x.1 hc hkey⟩
      · dsimp only
        rw [if_pos hr, assoc_assocSet, if_pos rfl]
    · exact ih _ hws hm

/-- The registers that a pending result writes, each with its word. -/
def Pend.landing (p : Pend) : List (Nat × Word) := (p.dsts.zip p.words).filterMap fun e => match e.1, e.2 with
  | some r, some w => some (r, w)
  | _, _ => none

theorem mem_landing {p : Pend} {r : Nat} {w : Word} : (r, w) ∈ p.landing ↔ (some r, some w) ∈ p.dsts.zip p.words := by
  simp only [Pend.landing, List.mem_filterMap, Prod.exists]
  constructor
  · rintro ⟨d, x, hm, he⟩
    cases d <;> cases x <;> simp_all
  · exact fun h => ⟨_, _, h, rfl⟩

/-- Where every word has come, a landing writes the registers that it is still to write. -/
theorem landing_fst {p : Pend} (hw : ∀ w ∈ p.words, w ≠ none) (hl : p.dsts.length = p.words.length) :
    p.landing.map Prod.fst = p.dsts.filterMap fun d => d := by
  obtain ⟨_, dsts, words⟩ := p
  simp only [Pend.landing] at *
  induction dsts generalizing words with
  | nil => simp
  | cons d ds ih =>
    cases words with
    | nil => cases hl
    | cons w ws =>
      obtain ⟨x, rfl⟩ := Option.ne_none_iff_exists'.1 (hw w (.head _))
      have ih := ih ws (fun w h => hw w (.tail _ h)) (Nat.succ.inj hl)
      cases d <;> simp [← ih]

theorem contains_filterMap_id (ds : List (Option Nat)) (r : Nat) :
    (ds.filterMap fun d => d).contains r = ds.contains (some r) := by
  simp

theorem id_cancelOlder {id : Nat} {rs : List Nat} {ps : List Pend} {q : Pend} (h : q ∈ cancelOlder id rs ps) :
    ∃ x ∈ ps, x.id = q.id := by
  obtain ⟨x, hx, rfl⟩ := List.mem_map.1 h
  exact ⟨x, hx, by split <;> rfl⟩

/-- The thread that a result lands in. -/
theorem thr_landWords_self {g : Group} {tid : Nat} (p : Pend) (ht : tid < g.threads.length) :
    let rs := p.landing.map Prod.fst
    (landWords g tid p).thr tid = { g.thr tid with
      v := setKeyed (· < 96) (fun r => r) p.landing (g.thr tid).v
      unsettled := rs.map (fun r => (r, p.id, p.mem)) ++ (g.thr tid).unsettled.filter fun e => !rs.contains e.1
      sus := (g.thr tid).sus.filter fun r => !rs.contains r
      kept := if (g.thr tid).kept.any rs.contains then [] else (g.thr tid).kept
      pend := cancelOlder p.id rs ((g.thr tid).pend.filter fun q => q.id != p.id) } := by
  simp only [landWords, Group.thr, List.getD_eq_getElem?_getD, List.getElem?_mapIdx, List.getElem?_eq_getElem ht,
    Option.map_some, Option.getD_some, if_true]
  rfl

/-- In another thread a landing cancels older results on their way to the group's registers. -/
theorem thr_landWords_ne {g : Group} {tid k : Nat} (p : Pend) (hk : k ≠ tid) :
    (landWords g tid p).thr k = { g.thr k with pend := ((landWords g tid p).thr k).pend } := by
  by_cases h : k < g.threads.length
  · simp only [landWords, Group.thr, List.getD_eq_getElem?_getD, List.getElem?_mapIdx, List.getElem?_eq_getElem h,
      Option.map_some, Option.getD_some, if_neg hk]
    split <;> rfl
  · have ho : (landWords g tid p).thr k = g.thr k := by
      simp [landWords, Group.thr, List.getD_eq_getElem?_getD, List.getElem?_eq_none (Nat.le_of_not_lt h)]
    rw [ho]

/-- What a landing does to the group: to the words of its registers and to results on their way. -/
theorem landWords_spec {g : Group} {tid : Nat} {p : Pend} (ht : tid < g.threads.length) (hw : ∀ w ∈ p.words, w ≠ none)
    (hl : p.dsts.length = p.words.length) (hn : (p.dsts.filterMap fun d => d).Nodup) :
    let g' := landWords g tid p
    g' = { g with threads := g'.threads, sreg := g'.sreg, sus := g.sus.filter fun r => !p.dsts.contains (some r) } ∧
    g'.threads.length = g.threads.length ∧
    g'.thr tid = { g.thr tid with
      v := (g'.thr tid).v, pend := (g'.thr tid).pend
      unsettled := (p.dsts.filterMap fun d => d).map (fun r => (r, p.id, p.mem)) ++
        (g.thr tid).unsettled.filter fun e => !p.dsts.contains (some e.1)
      sus := (g.thr tid).sus.filter fun r => !p.dsts.contains (some r)
      kept := if (g.thr tid).kept.any fun r => p.dsts.contains (some r) then [] else (g.thr tid).kept } ∧
    (∀ q ∈ (g'.thr tid).pend, q.id ≠ p.id) ∧
    (∀ k, k ≠ tid → g'.thr k = { g.thr k with pend := (g'.thr k).pend }) ∧
    (∀ r w, (some r, some w) ∈ p.dsts.zip p.words →
      if r < 96 then assoc r (g'.thr tid).v = some w else assoc (r - 96) g'.sreg = some w) ∧
    (∀ r, some r ∉ p.dsts → if r < 96 then assoc r (g'.thr tid).v = assoc r (g.thr tid).v
      else assoc (r - 96) g'.sreg = assoc (r - 96) g.sreg) := by
  intro g'
  have hfst := landing_fst hw hl
  have hthr : g'.thr tid = _ := thr_landWords_self p ht
  have hsreg : g'.sreg = setKeyed (96 ≤ ·) (· - 96) p.landing g.sreg := rfl
  have hsus : g'.sus = g.sus.filter fun r => !(p.landing.map Prod.fst).contains r := rfl
  simp only [hfst, contains_filterMap_id] at hthr hsus
  have hv : (g'.thr tid).v = setKeyed (· < 96) (fun r => r) p.landing (g.thr tid).v := by rw [hthr]
  have hne {r : Nat} (hr : some r ∉ p.dsts) : ∀ e ∈ p.landing, e.1 ≠ r := fun e he h => by
    have : e.1 ∈ p.dsts.filterMap fun d => d := hfst ▸ List.mem_map_of_mem he
    exact hr (by simpa [h] using this)
  have hkept : (p.dsts.filterMap fun d => d).contains = fun r => p.dsts.contains (some r) :=
    funext (contains_filterMap_id p.dsts)
  refine ⟨by rw [← hsus]; rfl, by simp [g', landWords], ?_, fun q hq => ?_, fun k hk => thr_landWords_ne p hk, fun r w hm => ?_,
    fun r hr => ?_⟩
  · simp only [hthr, hkept]
  · rw [hthr] at hq
    obtain ⟨x, hx, hi⟩ := id_cancelOlder hq
    rw [← hi]
    simpa using (List.mem_filter.1 hx).2
  · have hm := mem_landing.2 hm
    rw [hv, hsreg]
    split
    · next h => exact assoc_setKeyed_of_mem _ (hfst ▸ hn) hm h fun x _ hx => hx
    · next h => exact assoc_setKeyed_of_mem (key := (· - 96)) _ (hfst ▸ hn) hm (Nat.le_of_not_lt h) fun x _ _ => by omega
  · rw [hv, hsreg]
    split
    · exact assoc_setKeyed_of_ne _ _ fun e he _ => hne hr e he
    · next h => exact assoc_setKeyed_of_ne _ _ fun e he hc hk => hne hr e he (by omega)

/-! ## A change of a group, resident or saved with its block -/

theorem findSome?_updGroups (bs : List Block) (n m : Nat) (f : Group → Group) (hf : ∀ x, (f x).gid = x.gid) :
    ((bs.map fun b => { b with saved := b.saved.map (updGroups n f) }).findSome?
      fun b => b.saved.bind fun gs => gs.find? fun x => x.gid == m) =
    if m = n then (bs.findSome? fun b => b.saved.bind fun gs => gs.find? fun x => x.gid == m).map f
      else bs.findSome? fun b => b.saved.bind fun gs => gs.find? fun x => x.gid == m := by
  induction bs with
  | nil => simp
  | cons b r ih =>
    simp only [List.map_cons, List.findSome?_cons, ih]
    cases b.saved with
    | none => simp
    | some gs =>
      simp only [Option.map_some, Option.bind_some, find_updGroups _ _ _ _ hf]
      by_cases hm : m = n
      · simp only [hm, if_true]
        cases gs.find? fun x => x.gid == n <;> rfl
      · simp only [hm, if_false]

/-- A group is updated where it stands, and every other one is as before. -/
theorem State.grp?_updGrp (s : State) (n m : Nat) (f : Group → Group) (hf : ∀ x, (f x).gid = x.gid) :
    (s.updGrp n f).grp? m = if m = n then (s.grp? m).map f else s.grp? m := by
  unfold State.updGrp
  split
  · next h =>
    simp only [State.grp?, find_updGroups _ _ _ _ hf]
    by_cases hm : m = n
    · subst hm
      obtain ⟨g, hg⟩ := Option.isSome_iff_exists.1 (List.find?_isSome (p := fun x : Group => x.gid == m).2 (by simpa using h))
      simp [hg]
    · simp only [hm, if_false]
  · next h =>
    have hn : (s.groups.find? fun x => x.gid == n) = none := by simpa using h
    simp only [State.grp?, findSome?_updGroups _ _ _ _ hf]
    by_cases hm : m = n
    · subst hm
      simp [hn]
    · simp only [hm, if_false]

theorem updGrp_groups_blocks (s : State) (n : Nat) (f : Group → Group) :
    s.updGrp n f = { s with groups := (s.updGrp n f).groups, blocks := (s.updGrp n f).blocks } := by
  unfold State.updGrp
  split <;> rfl

/-! ## Statement -/

/-- A result whose words have come lands, with or without an error on its way. -/
theorem execLongLatencyResult_landed {gid tid id : Nat} {s : State} {g : Group} {p : Pend} (err : Bool) (hg : s.grp? gid = some g)
    (hp : (g.thr tid).pend.find? (fun q => q.id == id) = some p) (hb : p.bad = none) (ht : p.tile = none)
    (hw : ∀ w ∈ p.words, w ≠ none) : execLongLatencyResult gid tid id err s = .next
      (if err then softError (countErr s 8 true) g else wake (s.updGrp gid fun g => landWords g tid p)) := by
  have hw' : (p.words.any fun w => w.isNone) = false := by simpa using hw
  simp only [execLongLatencyResult, hg, hp, hb, hw', tileSettled, readTile, ht]
  cases err <;> rfl

theorem lt_of_find_pend {g : Group} {tid : Nat} {f : Pend → Bool} {p : Pend} (h : (g.thr tid).pend.find? f = some p) :
    tid < g.threads.length := by
  by_contra hn
  simp [Group.thr, List.getD_eq_getElem?_getD, List.getElem?_eq_none (Nat.le_of_not_lt hn)] at h

/-- Settles O42: arbitration by `nextIssue_spec` and `pathOf_spec`, landings by `landWords_spec`. -/
theorem runsAndLandings : Obligations.runsAndLandings := by
  unfold Obligations.runsAndLandings
  refine ⟨fun core part s hr ⟨h0, hh0, hne⟩ => ?_, fun s g k => thr_retry s g, fun core part s => ⟨fun h => ?_, fun h => ?_⟩,
    fun s cx c hc => ?_, fun gid tid s g hg hrd hst hw => ?_, fun gid tid id s g p hg hp hb ht hw hl hn => ⟨?_, ?_⟩,
    fun gid tid id err s g p c hg hp hb => ?_⟩
  · have hc : contenders s core part ≠ [] := List.ne_nil_of_mem (mem_contenders.2 ⟨h0, hh0, rfl, hne⟩)
    obtain ⟨g, hg, hmem, hle⟩ := nextIssue_spec hc
    obtain ⟨g0, hg0, rfl, hmay⟩ := mem_contenders.1 hmem
    obtain ⟨t, ht, hpath, hlow, hfirst⟩ := pathOf_spec (g0.retry s) hmay
    have htids (k : Nat) : k ∈ (g0.retry s).candidate s ↔
        k ∈ (g0.retry s).mayIssue s ∧ ((g0.retry s).thr k).pc = ((g0.retry s).thr t).pc := by
      rw [Group.candidate, hpath, List.mem_filter, beq_iff_eq]
    have htt := (htids t).2 ⟨ht, rfl⟩
    refine ⟨_, _, g0, _, ((g0.retry s).thr t).pc, (exec_issueArbitration ..).trans (execIssueArbitration_spec hg hr), hg0, rfl, rfl,
      rfl, rfl, fun c hc => by rw [hc]; rfl, List.ne_nil_of_mem htt, fun k => ready_of_mem_mayIssue, htids, hlow,
      fun k hk v hv => ⟨t, htt, hfirst k hk v hv⟩, fun h hh hmay' => hle _ (mem_contenders.2 ⟨h, hh, rfl, hmay'⟩)⟩
  · rw [exec_runTimeLimit, execRunTimeLimit_eq, if_pos h]
    rfl
  · rw [exec_runTimeLimit, execRunTimeLimit_eq, if_neg]
    rintro ⟨r, hm, hc, hp, hs, ht⟩
    rcases h r hm hc hp with h | h
    · simp_all
    · omega
  · rw [fairPeriod, hc]
    rfl
  · exact (exec_pathStarved ..).trans (execPathStarved_of_due hg hrd hst hw)
  · exact (exec_longLatencyResult ..).trans (execLongLatencyResult_landed true hg hp hb ht hw)
  · obtain rfl : p.id = id := by simpa using List.find?_some hp
    obtain ⟨hrest, hlen, hself, hgone, hothers, hset, hkeep⟩ := landWords_spec (lt_of_find_pend hp) hw hl hn
    have hgrp (m : Nat) := State.grp?_updGrp s gid m (fun g => landWords g tid p) fun _ => rfl
    exact ⟨_, (exec_longLatencyResult ..).trans (execLongLatencyResult_landed false hg hp hb ht hw), updGrp_groups_blocks ..,
      fun n hne => (hgrp n).trans (if_neg hne), landWords g tid p, (hgrp gid).trans (by rw [if_pos rfl, hg]; rfl), hrest, hlen,
      hself, hgone, hothers, hset, hkeep⟩
  · rw [exec_longLatencyResult]
    simp only [execLongLatencyResult, hg, hp, hb]

end Sys2Proof.Machine
end

section
/-! Blocks, supervisors, handlers and trap handlers are placed and end (R25 to R28, R45, R48, R308, R309, R337, R382, R407). -/

namespace Sys2Proof.Machine

/-! ## Where blocks and groups are put (R26, R28) -/

/-- From s to t groups and blocks are placed on cores that `ok` allows: older groups stay, and no core's storage is overdrawn
(R28). -/
structure PlacedOn (ok : Nat → Prop) (s t : State) : Prop where
  groups : ∀ g ∈ t.groups, g ∈ s.groups ∨ ok g.core
  pad : ∀ k, padUsed t k ≤ max (padUsed s k) 0x80000
  acc : ∀ k, accUsed t k ≤ max (accUsed s k) 48

theorem PlacedOn.refl (ok : Nat → Prop) (s : State) : PlacedOn ok s s :=
  ⟨fun _ => .inl, fun _ => le_max_left .., fun _ => le_max_left ..⟩

theorem PlacedOn.trans {ok : Nat → Prop} {s t r : State} (h : PlacedOn ok s t) (k : PlacedOn ok t r) : PlacedOn ok s r := by
  refine ⟨fun g hg => (k.groups g hg).elim (h.groups g) .inr, fun c => ?_, fun c => ?_⟩
  · exact (k.pad c).trans (max_le (h.pad c) (le_max_right ..))
  · exact (k.acc c).trans (max_le (h.acc c) (le_max_right ..))

/-- States that differ in neither groups nor blocks. -/
theorem PlacedOn.congr {ok : Nat → Prop} {s t s' t' : State} (h : PlacedOn ok s t) (hs : s'.groups = s.groups)
    (hsb : s'.blocks = s.blocks) (ht : t'.groups = t.groups) (htb : t'.blocks = t.blocks) : PlacedOn ok s' t' := by
  refine ⟨by rw [hs, ht]; exact h.groups, fun k => ?_, fun k => ?_⟩
  · rw [padUsed, padUsed, hsb, htb]
    exact h.pad k
  · rw [accUsed, accUsed, hsb, htb]
    exact h.acc k

/-- A group that is placed stands on its core, and is otherwise as it was given. -/
theorem addGroup_some {core part pick : Nat} {lane : Option Nat} {g : Group} {s t : State}
    (h : addGroup core part lane pick g s = some t) :
    ∃ base slot, t = { s with groups := s.groups ++ [{ g with core := core, part := part, base := base, slot := slot }] } := by
  unfold addGroup at h
  split at h
  · cases h
  · obtain ⟨x, -, rfl⟩ := Option.map_eq_some_iff.1 h
    exact ⟨x.1, x.2, rfl⟩

/-- Groups that are placed one after the other stand on their cores; blocks stay. -/
theorem addGroups_some {gs : List (Group × Nat × Nat × Option Nat)} {pick : Nat} {s t : State}
    (h : addGroups gs pick s = some t) : t.blocks = s.blocks ∧ ∀ g ∈ t.groups, g ∈ s.groups ∨ ∃ x ∈ gs, g.core = x.2.1 := by
  induction gs generalizing pick s with
  | nil => cases h; exact ⟨rfl, fun _ => .inl⟩
  | cons x gs ih =>
    obtain ⟨g, core, part, lane⟩ := x
    obtain ⟨r, hr, h⟩ := Option.bind_eq_some_iff.1 h
    obtain ⟨base, slot, rfl⟩ := addGroup_some hr
    obtain ⟨hb, hg⟩ := ih h
    refine ⟨hb, fun y hy => ?_⟩
    rcases hg y hy with hy | ⟨x, hx, e⟩
    · rcases List.mem_append.1 hy with hy | hy
      · exact .inl hy
      · rw [List.mem_singleton.1 hy]
        exact .inr ⟨_, .head _, rfl⟩
    · exact .inr ⟨x, .tail _ hx, e⟩

theorem groupHome_mem_cores (b : Block) (n g : Nat) : (groupHome b n g).1 ∈ b.cores := by
  unfold groupHome Block.cores
  split <;> split <;> simp_all

/-- What the placed blocks of a list use of a core. -/
def usedOn (f : Block → Nat) (k : Nat) (bs : List Block) : Nat :=
  ((bs.filter fun b => b.placed && b.cores.contains k).map f).sum

theorem usedOn_append (f : Block → Nat) (k : Nat) (as bs : List Block) :
    usedOn f k (as ++ bs) = usedOn f k as + usedOn f k bs := by
  simp only [usedOn, List.filter_append, List.map_append, List.sum_append]

theorem usedOn_filter_le (f : Block → Nat) (k : Nat) (q : Block → Bool) (bs : List Block) :
    usedOn f k (bs.filter q) ≤ usedOn f k bs :=
  ((List.filter_sublist.filter _).map f).sum_le_sum fun _ _ => Nat.zero_le _

/-- A block takes its place: where its cores have room for it, no core is overdrawn. -/
theorem usedOn_replace_le {f : Block → Nat} {bs : List Block} {b b' : Block} {k m : Nat} (q : Block → Bool)
    (hc : b'.cores = b.cores) (hf : f b' = f b) (hb : k ∈ b.cores → usedOn f k bs + f b ≤ m) :
    usedOn f k (bs.filter q ++ [b']) ≤ max (usedOn f k bs) m := by
  have hle := usedOn_filter_le f k q bs
  rw [usedOn_append]
  by_cases hk : k ∈ b.cores
  · have h1 : usedOn f k [b'] ≤ f b := by
      unfold usedOn
      by_cases hp : b'.placed <;> simp [hp, hc, hk, hf]
    have := hb hk
    omega
  · have h0 : usedOn f k [b'] = 0 := by simp [usedOn, hc, hk]
    omega

/-- A block that is placed with its groups stands on cores of the set, within their storage. -/
theorem placedOn_putBlock {set : BitVec 192} {b : Block} {gs : List Group} {pick : Nat} {s t : State}
    (h : putBlock set b gs pick s = some t) : PlacedOn (fun c => set.getLsbD c = true) s t := by
  unfold putBlock at h
  split at h
  · cases h
  · next hroom =>
    simp only [Bool.not_eq_true', Bool.not_eq_false, List.all_eq_true, Bool.and_eq_true, decide_eq_true_eq] at hroom
    obtain ⟨hb, hg⟩ := addGroups_some h
    refine ⟨fun g hgt => (hg g hgt).imp id ?_, fun k => ?_, fun k => ?_⟩
    · rintro ⟨x, hx, e⟩
      obtain ⟨y, -, rfl⟩ := List.mem_map.1 hx
      rw [e]
      refine (hroom _ ?_).1
      split <;> exact groupHome_mem_cores ..
    · rw [padUsed, hb]
      exact usedOn_replace_le (f := Block.smem) (b := b) _ rfl rfl fun hk => (hroom k hk).2.1
    · rw [accUsed, hb]
      exact usedOn_replace_le (f := Block.acc) (b := b) _ rfl rfl fun hk => (hroom k hk).2.2

theorem placedOn_putUnit {set : BitVec 192} {core pick : Nat} {us : List (Block × List Group)} {s t : State}
    (h : putUnit set core pick us s = some t) : PlacedOn (fun c => set.getLsbD c = true) s t := by
  induction us generalizing pick s with
  | nil => cases h; exact .refl ..
  | cons u us ih =>
    obtain ⟨r, hr, h⟩ := Option.bind_eq_some_iff.1 h
    exact (placedOn_putBlock hr).trans (ih h)

/-- A result that a function has over a list is its result at one of them. -/
theorem nthSome_some {α β : Type} {f : α → Option β} {l : List α} {k : Nat} {b : β} (h : nthSome f l k = some b) :
    ∃ a ∈ l, f a = some b := by
  induction l generalizing k with
  | nil => cases h
  | cons a l ih =>
    unfold nthSome at h
    split at h
    · obtain ⟨x, hx, e⟩ := ih h
      exact ⟨x, .tail _ hx, e⟩
    · next e => exact ⟨a, .head _, e.trans h⟩
    · obtain ⟨x, hx, e⟩ := ih h
      exact ⟨x, .tail _ hx, e⟩

theorem placedOn_putAll {set : BitVec 192} {r : List Word} {cores : List Nat} {pick : Nat} {us : List (List (Block × List Group))}
    {s t : State} (h : putAll set r cores pick us s = some t) : PlacedOn (fun c => set.getLsbD c = true) s t := by
  induction us generalizing pick s with
  | nil => cases h; exact .refl ..
  | cons u us ih =>
    unfold putAll at h
    split at h
    · next s' hs =>
      obtain ⟨c, -, hc⟩ := nthSome_some hs
      split at hc
      · exact (placedOn_putUnit hc).trans (ih h)
      · cases hc
    · cases h

/-- The next unit of a context is placed on cores of its set where no handler group waits. -/
theorem placedOn_placeHead {cx core pick : Nat} {s t : State} (h : placeHead s cx core pick = some t) :
    PlacedOn (fun c => (blockSet s cx).getLsbD c = true) s t := by
  unfold placeHead at h
  extract_lets set at h
  split at h
  · cases h
  · split at h
    · exact placedOn_putUnit h
    · cases h
  · next x new us _ =>
    split at h
    · cases h
    · extract_lets s' placed at h
      obtain ⟨r, hr, rfl⟩ := Option.map_eq_some_iff.1 h
      have hs' : s'.groups = s.groups ∧ s'.blocks = s.blocks := by
        unfold s'; split <;> exact ⟨rfl, rfl⟩
      have hp : PlacedOn (fun c => set.getLsbD c = true) s' r := by
        unfold placed at hr
        split at hr
        · exact placedOn_putAll hr
        · split at hr
          · exact placedOn_putUnit hr
          · cases hr
      refine hp.congr hs'.1.symm hs'.2.symm ?_ ?_ <;> split <;> rfl

/-- Bits cleared from a mask of cores. -/
theorem getLsbD_foldl_clear (cs : List Nat) (m : BitVec 192) (k : Nat)
    (h : (cs.foldl (fun m c => m &&& ~~~((1 : BitVec 192) <<< c)) m).getLsbD k = true) : m.getLsbD k = true ∧ k ∉ cs := by
  induction cs generalizing m with
  | nil => exact ⟨h, List.not_mem_nil⟩
  | cons c cs ih =>
    obtain ⟨hm, hk⟩ := ih _ h
    simp only [BitVec.getLsbD_and, BitVec.getLsbD_not, BitVec.getLsbD_shiftLeft, Bool.and_eq_true] at hm
    obtain ⟨hm, hlt, hclear⟩ := hm
    refine ⟨hm, fun hmem => (List.mem_cons.1 hmem).elim (fun e => ?_) hk⟩
    subst e
    simp [of_decide_eq_true hlt] at hclear

/-- Cores where blocks may be placed: those of the run set, where no handler group waits (R48, R382). -/
theorem getLsbD_blockSet {s : State} {cx c : Nat} (h : (blockSet s cx).getLsbD c = true) :
    (placeSet s cx).getLsbD c = true ∧ c ∉ handlerCores s := getLsbD_foldl_clear _ _ _ h

/-! ## Handler groups (R48, R382) -/

/-- A handler group that is placed stands on its core, and is otherwise as it was given. -/
theorem putHandler_some {s t : State} {core pick : Nat} {x : Block × Group} (h : putHandler s core pick x = some t) :
    ∃ part base slot, t = { s with
      groups := s.groups ++ [{ x.2 with core := core, part := part, base := base, slot := slot }]
      blocks := s.blocks ++ [{ x.1 with core := core }], nextId := s.nextId + 3 } := by
  obtain ⟨k, -, hk⟩ := List.exists_of_findSome?_eq_some h
  obtain ⟨base, slot, rfl⟩ := addGroup_some hk
  exact ⟨_, base, slot, rfl⟩

/-- The group that a handler starts: as `handlerGroup` gives it, on its core. -/
def startedHandler (s : State) (cx : Nat) (kind : GKind) (n : Nat) (pc : DWord) (v : Nat → List (Nat × Word)) (sr : List (Nat × Word))
    (seen : Known) (core part base slot : Nat) : Group :=
  { (handlerGroup s cx kind n pc v sr seen).2 with core := core, part := part, base := base, slot := slot }

theorem startedHandler_thr {s : State} {cx : Nat} {kind : GKind} {n : Nat} {pc : DWord} {v : Nat → List (Nat × Word)}
    {sr : List (Nat × Word)} {seen : Known} {core part base slot k : Nat} (hk : k < 16) :
    ((startedHandler s cx kind n pc v sr seen core part base slot).thr k).pc = pc ∧
    ((startedHandler s cx kind n pc v sr seen core part base slot).thr k).v = v k := by
  simp only [startedHandler, handlerGroup, Group.thr, List.getD_eq_getElem?_getD, List.getElem?_map, List.getElem?_range hk,
    Option.map_some, Option.getD_some, and_self]

/-! ## Messages (R308, R309) -/

theorem updMsg_eq (s : State) (k : Nat) (f : Msg → Msg) :
    s.updMsg k f = { s with msgs := s.msgs.map fun x => if x.id == k then f x else x } := rfl

/-- The lowest core that passes a test. -/
theorem find_range_eq {n k : Nat} {p : Nat → Bool} (hk : k < n) (hp : p k = true) (hlow : ∀ j < k, p j = false) :
    (List.range n).find? p = some k := by
  rw [List.find?_range_eq_some]
  exact ⟨hp, List.mem_range.2 hk, fun j hj => by simp [hlow j hj]⟩

/-! ## Retirement (R45) -/

theorem foldl_msgGone (gs : List Group) (s : State) : gs.foldl msgGone s = { s with msgs := (gs.foldl msgGone s).msgs } := by
  induction gs generalizing s with
  | nil => rfl
  | cons g gs ih =>
    rw [List.foldl_cons, ih]
    rfl

theorem retired_only (s : State) (bid : Nat) (gs : List Group) :
    let t := gs.foldl msgGone { settleLaunches s gs with
      groups := s.groups.filter fun g => g.bid != bid
      runs := s.runs.filter fun r => !gs.any fun g => g.gid == r.gid
      blocks := (s.blocks.filter fun x => x.bid != bid).map fun x => { x with full := false } }
    t = { s with groups := t.groups, runs := t.runs, blocks := t.blocks, ctxs := t.ctxs, msgs := t.msgs } ∧
    (∀ g ∈ t.groups, g.bid ≠ bid) ∧ (∀ x ∈ t.blocks, x.bid ≠ bid) ∧ t.grids = s.grids := by
  intro t
  have ht : t = _ := foldl_msgGone gs _
  have hg : t.groups = s.groups.filter fun g => g.bid != bid := by rw [ht]
  have hb : t.blocks = (s.blocks.filter fun x => x.bid != bid).map fun x => { x with full := false } := by rw [ht]
  refine ⟨by rw [ht]; rfl, fun g h => ?_, fun x h => ?_, by rw [ht]; rfl⟩
  · rw [hg] at h
    simpa using (List.mem_filter.1 h).2
  · obtain ⟨y, hy, rfl⟩ := List.mem_map.1 (hb ▸ h)
    simpa using (List.mem_filter.1 hy).2

theorem execBlockRetire_of_done {bid : Nat} {s : State} {b : Block} (hb : s.blk? bid = some b)
    (hd : ∀ g ∈ allGroups s b, groupDone s g = true) :
    let t := (allGroups s b).foldl msgGone { settleLaunches s (allGroups s b) with
      groups := s.groups.filter fun g => g.bid != bid
      runs := s.runs.filter fun r => !(allGroups s b).any fun g => g.gid == r.gid
      blocks := (s.blocks.filter fun x => x.bid != bid).map fun x => { x with full := false } }
    execBlockRetire bid s = .next (wake (settleStops { t with
      grids := if (allGroups s b).any fun g => g.kind == .supervisor then s.grids.filter fun g => g.gr != b.gr else s.grids })) := by
  intro t
  have hgr : t.grids = s.grids := (retired_only s bid (allGroups s b)).2.2.2
  simp only [execBlockRetire, hb, if_pos (List.all_eq_true.2 hd)]
  change Host.Outcome.next (wake (settleStops (if _ then { t with grids := t.grids.filter _ } else t))) = _
  split
  · rw [hgr]
  · rw [← hgr]

/-! ## The supervisor (R337) -/

/-- The placement of a supervisor group's unit: on the lowest core that fits it, where no handler group waits. -/
def supervisorPlace (set : BitVec 192) (pick : Nat) (us : List (Block × List Group)) (s : State) : Option State :=
  match (List.range 192).find? fun k => set.getLsbD k && (putUnit set k pick us s).isSome with
  | some k => if msgWaits s k || trapWaits s k then none else putUnit set k pick us s
  | none => none

theorem supervisorPlace_lowest {set : BitVec 192} {pick k : Nat} {us : List (Block × List Group)} {s t : State}
    (hlow : ∀ j < k, set.getLsbD j = true → putUnit set j pick us s = none) (hk : k < 192) (hb : set.getLsbD k = true)
    (hp : putUnit set k pick us s = some t) (hm : msgWaits s k = false) (ht : trapWaits s k = false) :
    supervisorPlace set pick us s = some t := by
  have hf : ((List.range 192).find? fun k => set.getLsbD k && (putUnit set k pick us s).isSome) = some k :=
    find_range_eq hk (by simp [hb, hp]) fun j hj => by
      cases hs : set.getLsbD j
      · rfl
      · simp [hlow j hj hs]
  rw [supervisorPlace, hf]
  simp [hm, ht, hp]

/-- The grid that stands for a new supervisor group. -/
def supervisorGrid (s : State) (cx : Nat) (c : Ctx) : Grid :=
  { gr := s.nextId, cxid := cx, lrec := supRecord c, q := 0, leftAt := s.nextId, next := 1, sup := true, first := s.nextId
    seen := s.allWrites }

theorem execSupervisorStart_eq {cx pick : Nat} {s : State} {c : Ctx} (hc : s.ctx? cx = some c) (hs : placeSet s cx ≠ 0) :
    execSupervisorStart cx pick s =
      if c.wantSup then
        match supervisorPlace (placeSet s cx) pick [newBlock (supervisorGrid s cx c) 0 (s.nextId + 1)] { s with
          grids := s.grids ++ [supervisorGrid s cx c], nextId := s.nextId + 1 + blockIds (supervisorGrid s cx c) } with
        | some t => .next (t.updCtx cx fun c => { c with wantSup := false })
        | none => .next s
      else match savedOf s fun b => b.cxid == cx && s.grids.any fun g => g.gr == b.gr && g.sup with
        | u :: _ => match supervisorPlace (placeSet s cx) pick [u] s with
          | some t => .next (wake (amhWake t))
          | none => .next s
        | [] => .next s := by
  rw [execSupervisorStart, hc]
  exact if_neg hs

/-! ## Messages and trap records as events -/

theorem execAmHandlerStart_of_turn {msg pick : Nat} {s : State} {m : Msg} (hm : s.msgs.find? (fun m => m.id == msg) = some m)
    (hq : m.st = .queued) (hp : (placeSet s m.cxid).getLsbD m.core = true) (hb : msgBehind s m = false)
    (ht : trapWaits s m.core = false) : execAmHandlerStart msg pick s =
      match handlerEntry s m.cxid m.h with
      | none => .next (amhWake (msgDone s m))
      | some (n, code) =>
        let x := handlerGroup s m.cxid (.handler msg) n code (fun t => [(0, m.pay.getD t 0), (1, m.sender)]) [] (senderKnown s m)
        match putHandler s m.core pick x with
        | none => .next s
        | some s => .next (amhWake (s.updMsg msg fun y => { y with st := .running x.2.gid })) := by
  rw [execAmHandlerStart, hm]
  exact if_neg (by simp [hq, hp, hb, ht])

theorem execAmComplete_of_done {msg gid : Nat} {s : State} {m : Msg} (hm : s.msgs.find? (fun m => m.id == msg) = some m)
    (hr : m.st = .running gid) (hd : ∀ g, s.grp? gid = some g → g.live = [] ∧ ∀ r ∈ s.reqs, r.gid = gid → r.performed = true) :
    execAmComplete msg s = .next (msgDone s m) := by
  rw [execAmComplete, hm]
  simp only [hr]
  refine if_pos ?_
  cases hg : s.grp? gid with
  | none => rfl
  | some g =>
    obtain ⟨hl, hreqs⟩ := hd g hg
    simpa [hl, ← imp_iff_not_or] using hreqs

/-- Settles O44: each event by the lemma about what it places. -/
theorem placementEvents : Obligations.placementEvents := by
  unfold Obligations.placementEvents
  refine ⟨?_, ?_, ?_, ?_, ?_, ?_, ?_, ?_, ?_⟩
  · intro cx core pick s t hsup hturn hp
    have hpl := placedOn_placeHead hp
    refine ⟨?_, fun g hg => (hpl.groups g hg).imp id getLsbD_blockSet, fun k => ⟨hpl.pad k, hpl.acc k⟩⟩
    rw [exec_blockPlace, execBlockPlace, hturn, hp]
    simp [hsup]
  · intro bid s b hb hd t
    obtain ⟨honly, hg, hbl, -⟩ := retired_only s bid (allGroups s b)
    exact ⟨honly, hg, hbl, (exec_blockRetire ..).trans (execBlockRetire_of_done hb hd)⟩
  · intro gr s g hg he hn
    have he' : g.ending.isSome = true := Option.isSome_iff_ne_none.2 he
    rw [exec_gridEnd, execGridEnd, hg]
    simp [he', hn]
  · intro cx pick k s t c hc hs hw x us s1 hlow hk hb hp hm ht
    have hplace : supervisorPlace (placeSet s cx) pick us s1 = some t := supervisorPlace_lowest hlow hk hb hp hm ht
    rw [exec_supervisorStart, execSupervisorStart_eq hc hs, if_pos hw]
    exact hplace ▸ rfl
  · intro cx pick k s t c u us hc hs hw hsaved hlow hk hb hp hm ht
    rw [exec_supervisorStart, execSupervisorStart_eq hc hs, if_neg (by simp [hw]), hsaved]
    simp only [supervisorPlace_lowest hlow hk hb hp hm ht]
  · intro msg s m c hm hc
    rw [exec_amAdmit, execAmAdmit, hm]
    simp only [hc, Option.map_some, Option.getD_some]
    refine ⟨fun hf hcore hrun hq hbf hu => ?_, fun hi hcore hper hord => ?_, fun hst hcore k hlow hk => ?_⟩
    · simp only [hf, hcore, hrun, hq, hbf, hu]
      rfl
    · have hfirst : (s.msgs.any fun x => x.op == m.op && decide (x.id < m.id) && x.st == .issue) = false := by
        simpa using hord
      simp only [hi, hcore, hper, hfirst]
      rfl
    · have hwait : (m.st == .issue || m.st == .fabric || m.st == .queued) = true := by simpa [or_assoc] using hst
      simp only [hwait, hcore, find_range_eq (BitVec.lt_of_getLsbD hk) hk hlow, beq_iff_eq, Bool.not_false, if_true, updMsg_eq]
  · intro msg pick s m hm hq hp hb ht
    rw [exec_amHandlerStart, execAmHandlerStart_of_turn hm hq hp hb ht]
    refine ⟨fun he => by rw [he], fun n code he hput => ?_⟩
    obtain ⟨t, hput⟩ := Option.isSome_iff_exists.1 hput
    obtain ⟨part, base, slot, rfl⟩ := putHandler_some hput
    simp only [he, hput]
    refine ⟨_, startedHandler s m.cxid (.handler msg) n code (fun t => [(0, m.pay.getD t 0), (1, m.sender)]) [] (senderKnown s m)
      m.core part base slot, rfl, List.mem_append_right _ (.head _), rfl, rfl, rfl, rfl, rfl, rfl, rfl,
      fun k hk => startedHandler_thr hk⟩
  · intro msg gid s m hm hr hd
    rw [exec_amComplete, execAmComplete_of_done hm hr hd]
  · intro cx pick core s r c hcx hlen hr hc hcore hput
    obtain ⟨t, hput⟩ := Option.isSome_iff_exists.1 hput
    obtain ⟨part, base, slot, rfl⟩ := putHandler_some hput
    rw [exec_trapHandlerStart, execTrapHandlerStart, hr, hc, if_neg (by simp [hcx, hlen])]
    simp only [hcore, hput]
    have hzero : ∀ i < 8, assoc i ((List.range 8).map fun i => (i, (0 : Word))) = some 0 := by decide
    refine ⟨_, startedHandler s cx (.trapHandler r.seq) 32 c.tvec (fun t => [(0, (trapWords r.trap cx r.seq).getD t 0)])
      ((List.range 8).map fun i => (i, 0)) s.allWrites core part base slot, rfl, List.mem_append_right _ (.head _), rfl, rfl, rfl,
      rfl, rfl, rfl, hzero, rfl, fun k hk => startedHandler_thr hk⟩

end Sys2Proof.Machine
end

section
/-! One step of the device (R36, R84, R128, R229, R414): its turn's word, its turn's event, or time. -/

namespace Sys2Proof.Machine

/-! ## Fetching -/

/-- Four bytes in order spell the number that they stand for, little-endian (R9). -/
theorem bytesWord_eq_leNat (b0 b1 b2 b3 : Byte) :
    bytesWord [b0, b1, b2, b3] = some (BitVec.ofNat 32 (leNat [b0, b1, b2, b3])) := by
  refine congrArg some (BitVec.eq_of_toNat_eq ?_)
  have h0 := b0.isLt
  have h1 := b1.isLt
  have h2 := b2.isLt
  have h3 := b3.isLt
  rw [BitVec.toNat_append, BitVec.toNat_append, BitVec.toNat_append, ← Nat.shiftLeft_add_eq_or_of_lt h2,
    ← Nat.shiftLeft_add_eq_or_of_lt h1, ← Nat.shiftLeft_add_eq_or_of_lt h0, BitVec.toNat_ofNat]
  simp only [leNat, Nat.shiftLeft_eq]
  omega

/-- A load that may miss no write returns what stands in memory. -/
theorem codeBytes_of_age_zero {s : State} {p : Spot} (first : Nat) (he : erasing s p.b p.off = false) :
    codeBytes s p 0 first = s.readBuf p.b p.off 4 := by
  simp [codeBytes, loadBytes, he, missable, readBefore]

theorem fetchUnit_of_gcheck_error {s : State} {r : Run} {u : Issue} {f : XFault}
    (h : gcheck s u.grp.cxid u.ipc 4 .fetch = .error f) : fetchUnit s r u = .error f := by
  rw [fetchUnit, fetchWord, h]

theorem fetchUnit_of_gcheck_ok {s : State} {r : Run} {u : Issue} {p : Spot} (h : gcheck s u.grp.cxid u.ipc 4 .fetch = .ok p)
    (hp : placeFault s u.grp.cxid u.ipc p 4 = none) (he : erasing s p.b p.off = false) (ha : r.age = 0) :
    fetchUnit s r u = .ok (BitVec.ofNat 32 (leNat (s.readBuf p.b p.off 4)), p) := by
  simp only [fetchUnit, fetchWord, h, hp, ha, codeBytes_of_age_zero _ he]
  rw [show bytesWord (s.readBuf p.b p.off 4) = _ from bytesWord_eq_leNat ..]
  rfl

/-! ## The turn that issues a word -/

theorem step_cons {s : State} {t : Turn} {rest : List Turn} (h : s.agenda = t :: rest) :
    step s = runTurn t { s with agenda := rest } := by rw [step, h]

theorem issueWord_of_run {s s1 : State} {core part : Nat} {r : Run} {u : Issue} (hb : isBusy s core part = false)
    (h1 : { s with cur := some (core, part) } = s1) (hr : s1.run? = some r) (hu : s1.issue? = some u) :
    issueWord core part s = if (r.single = false ∧ r.start + 32 ≤ s1.clk) ∨ ¬∃ g ∈ issuers s1 core part, g.gid = r.gid
      then .next (endRunAt s1 core part) else issueUnit r u s1 := by
  rw [issueWord, hb, h1]
  simp only [hr, hu, Bool.false_eq_true, if_false]
  refine if_congr ?_ rfl rfl
  simp [Run.timedOut]

theorem afterClk_next {core part : Nat} {cost : State → Nat} (t : State) : afterClk core part cost (.next t) =
    .next (if cost t = 0 then t
      else { t with busy := (core, part, t.clk + cost t) :: t.busy.filter fun b => !(b.1 == core && b.2.1 == part) }) := rfl

theorem issueUnit_of_fetchUnit_ok {s : State} {r : Run} {u : Issue} {w : Word} {p : Spot} (h : fetchUnit s r u = .ok (w, p)) :
    issueUnit r u s = if fetchPaid s u p = false then .next s
      else afterClk u.core u.part (turnCost (decode w) u s) (exec (decode w) (fetched s u p)) := by
  rw [issueUnit, h]
  cases hp : fetchPaid s u p <;> simp [hp]

/-! ## The turn in which time passes -/

/-- n clk: the clock and the reference clock go on, and memory and the agenda stand. -/
theorem tick_clocks {n : Nat} (hn : 0 < n) (s : State) : (tick n s).clk = s.clk + n ∧
    (tick n s).ref252 = s.ref252 + n * 2520 / s.steps ∧ (tick n s).mem = s.mem ∧ (tick n s).agenda = s.agenda := by
  rw [tick, if_neg hn.ne']
  exact ⟨rfl, rfl, rfl, rfl⟩

theorem steps_eq (s : State) : s.steps = if s.freq = 0 then 1 else s.freq := by
  unfold State.steps
  split <;> omega

/-- Settles O60: `step` is the turn's own function, read at each kind of turn. -/
theorem stepRunsDecodedInstruction : Obligations.stepRunsDecodedInstruction := by
  unfold Obligations.stepRunsDecodedInstruction
  refine ⟨?_, fun s i rest hs => step_cons hs, ?_⟩
  · intro s core part rest r u hs hb s1 hr hu late here
    have hfree : isBusy { s with agenda := rest } core part = false := by
      simpa [isBusy] using hb
    have hi := issueWord_of_run hfree rfl hr hu
    have hstep : step s = issueWord core part { s with agenda := rest } := step_cons hs
    rw [hstep, hi]
    refine ⟨fun h => if_pos h, fun hl hh => ?_⟩
    have hno : ¬(late ∨ ¬here) := fun h => h.elim hl fun h => h hh
    rw [if_neg hno]
    refine ⟨fun f hf => ?_, fun f => fetchUnit_of_gcheck_error, fun p => fetchUnit_of_gcheck_ok, fun w p hf => ?_⟩
    · rw [issueUnit, hf]; rfl
    · rw [issueUnit_of_fetchUnit_ok hf]
      refine ⟨fun hp => if_pos hp, fun hp => ?_⟩
      rw [if_neg (by simp [hp])]
      cases exec (decode w) (fetched s1 u p) with
      | next t => exact afterClk_next t
      | fault f => rfl
      | refused f => rfl
  · intro s n rest hs s1
    have hstep : step s = .next (if mayPass s1 n then tick n s1 else s1) := step_cons hs
    refine ⟨fun hm => ?_, fun hm hn => ⟨tick n s1, ?_, ?_⟩⟩
    · rw [hstep, hm]; rfl
    · rw [hstep, hm]; rfl
    · obtain ⟨hc, hr, hmem, ha⟩ := tick_clocks hn s1
      exact ⟨hc, hr.trans (by rw [steps_eq]; rfl), hmem, ha⟩

end Sys2Proof.Machine
end

section
/-! Compares and predicate logic (R53, R172 to R174): predicate writes, and the order of finite values as rational numbers. -/

namespace Sys2Proof.Machine

/-! ## Predicates (R53) -/

theorem getLsbD_predBit (i k : Nat) : ((1 : BitVec 12) <<< i).getLsbD k = (decide (i < 12) && decide (i = k)) :=
  BitVec.getLsbD_twoPow i k

/-- A predicate after a write: 15 reads true, the written one reads its new value, any other its old one. -/
theorem Thread.prd_setP (th : Thread) {i : BitVec 4} (j : BitVec 4) (b : Bool) (hi : i.toNat ≤ 11 ∨ i = 15) :
    (th.setP i b).prd j = if j = 15 then true else if j = i then b else th.prd j := by
  unfold Thread.prd
  by_cases hj : j = 15
  · simp only [hj, if_true]
  simp only [hj, if_false]
  by_cases h15 : i = 15
  · have hne : j ≠ i := h15 ▸ hj
    simp only [Thread.setP, h15, if_true, if_neg (h15 ▸ hne)]
  have hlt : i.toNat < 12 := by
    rcases hi with h | h
    · omega
    · exact absurd h h15
  have hbit : ((1 : BitVec 12) <<< i.toNat).getLsbD j.toNat = decide (j = i) := by
    simp only [getLsbD_predBit, hlt, decide_true, Bool.true_and, BitVec.toNat_inj, eq_comm]
  simp only [Thread.setP, if_neg h15]
  cases b with
  | true =>
    simp only [if_true, BitVec.getLsbD_or, hbit]
    by_cases h : j = i <;> simp [h]
  | false =>
    simp only [Bool.false_eq_true, if_false, BitVec.getLsbD_and, BitVec.getLsbD_not, hbit]
    by_cases h : j = i
    · simp [h]
    · by_cases h12 : j.toNat < 12
      · simp [h, h12]
      · simp [h, BitVec.getLsbD_of_ge _ _ (Nat.not_lt.1 h12)]

/-- A write of a predicate leaves the rest of the thread alone. -/
theorem Thread.setP_only (th : Thread) (i : BitVec 4) (b : Bool) : th.setP i b = { th with p := (th.setP i b).p } := by
  unfold Thread.setP
  split <;> rfl

/-! ## Comparisons as those of rational numbers (R173) -/

/-- Scaling a finite value to a lower power of two gives an integer multiple of that power. -/
theorem finInt_mul_zpow (s : Bool) (m : Nat) {e q : Int} (h : q ≤ e) : (finInt s m (e - q) : ℚ) * 2 ^ q = (FVal.fin s m e).rat := by
  obtain ⟨n, rfl⟩ := Int.le.dest h
  have hpow : (2 : ℚ) ^ (q + n) = 2 ^ n * 2 ^ q := by rw [zpow_add₀ (by norm_num), zpow_natCast, mul_comm]
  cases s <;> simp [finInt, FVal.rat, hpow, Nat.shiftLeft_eq, mul_assoc]

@[simp] theorem finInt_zero (s : Bool) (n : Int) : finInt s 0 n = 0 := by cases s <;> simp [finInt]

@[simp] theorem rat_zero (s : Bool) (e : Int) : (FVal.fin s 0 e).rat = 0 := by simp [FVal.rat]

/-- `ltF` is the order of the rational numbers on finite values. -/
theorem ltF_fin (a b : Bool) (m n : Nat) (e k : Int) :
    ltF (.fin a m e) (.fin b n k) = true ↔ (FVal.fin a m e).rat < (FVal.fin b n k).rat := by
  let q := if e < k then e else k
  have scaled (s : Bool) (l : Nat) (x : Int) (hx : q ≤ x) :
      (finInt s l ((if l = 0 then q else x) - q) : ℚ) * 2 ^ q = (FVal.fin s l x).rat := by
    by_cases hl : l = 0
    · simp [hl]
    · rw [if_neg hl, finInt_mul_zpow s l hx]
  have hpos : (0 : ℚ) < 2 ^ q := zpow_pos (by norm_num) q
  rw [← scaled a m e (by grind), ← scaled b n k (by grind), mul_lt_mul_iff_left₀ hpos, Int.cast_lt]
  exact decide_eq_true_iff

/-- `eqF` is the equality of the rational numbers on finite values. -/
theorem eqF_fin (a b : Bool) (m n : Nat) (e k : Int) :
    eqF (.fin a m e) (.fin b n k) = true ↔ (FVal.fin a m e).rat = (FVal.fin b n k).rat := by
  have hx := ltF_fin a b m n e k
  have hy := ltF_fin b a n m k e
  simp only [eqF, Bool.and_eq_true, Bool.not_eq_true', ← Bool.not_eq_true, hx, hy, not_lt]
  grind

/-! ## Compares and predicate logic (R172 to R174) -/

/-- An instruction whose effect is one predicate in each active lane writes it there and changes nothing else. -/
theorem transforms_pred {i : Instr} {pd : BitVec 4} (f : Issue → State → Nat → Bool)
    (hx : ∀ s, exec i s = execUnit i (fun u s => .ok (writePreds u s pd (f u s))) s) (hc : i.closing = false)
    (hm : i.matrix = false) (hf : ∀ u s, f u (advance i u s) = f u s) :
    Transforms i (fun _ _ => True) fun u s k th => th.setP pd (f u s k) :=
  transforms_of _ hx hc hm fun u s _ _ => by simp only [writePreds, hf]

theorem FVal.beq_nan (x : FVal) : (x == .nan) = x.isNan := by cases x <;> rfl

/-- Settles O8: a predicate write is a write of one bit, each instruction's effect is one such write in each active lane, and a
finite value scaled to the lower of two exponents is an integer. -/
theorem compareResults : Obligations.compareResults := by
  unfold Obligations.compareResults
  refine ⟨fun th i j b hi => ⟨th.prd_setP j b hi, th.setP_only i b⟩, fun o => ⟨?isetpI32, ?isetpN32, ?fsetp⟩, fun o => ?plop,
    fun a b k c d j => ⟨ltF_fin a c b d k j, eqF_fin a c b d k j⟩⟩
  case isetpI32 =>
    exact transforms_pred (fun u s t => intCond o.cond (u.rd s t o.a.toNat).toInt (u.rd s t o.b.toNat).toInt)
      (exec_isetpI32 o) rfl rfl fun u s => by simp only [rd_advance]
  case isetpN32 =>
    exact transforms_pred (fun u s t => intCond o.cond (u.rd s t o.a.toNat).toNat (u.rd s t o.b.toNat).toNat)
      (exec_isetpN32 o) rfl rfl fun u s => by simp only [rd_advance]
  case fsetp =>
    have h := transforms_pred
      (fun u s t => floatCond o.cond (u.pfx.in32 (u.rd s t o.a.toNat)) (u.pfx.in32 (u.rd s t o.b.toNat)))
      (exec_fsetp o) rfl rfl fun u s => by simp only [rd_advance]
    simp only [floatCond, FVal.beq_nan] at h
    exact h
  case plop =>
    exact transforms_pred (fun u _ t => plopOf o.op ((u.grp.thr t).prd o.pa != (o.na == 1)) ((u.grp.thr t).prd o.pb != (o.nb == 1)))
      (exec_plop o) rfl rfl fun u s => rfl

end Sys2Proof.Machine
end

section
/-! Special registers (R56, R57, R191): what SRD reads in a unit whose threads have passed it. -/

namespace Sys2Proof.Machine

theorem special_advance {i : Instr} {u : Issue} {s : State} (h : s.issue? = some u) (t n : Nat) :
    special u (advance i u s) t n = special u s t n := by
  rw [advance_only h]; rfl

theorem refTicks_advance {i : Instr} {u : Issue} {s : State} (h : s.issue? = some u) :
    (advance i u s).refTicks = s.refTicks := by
  rw [advance_only h]; rfl

/-- Settles O10: a special register is read from what passing a unit leaves alone; of the 32-bit ones those of the block read 0
in a thread that is in none, and the last reads the context. -/
theorem specialRegisterReads : Obligations.specialRegisterReads := by
  unfold Obligations.specialRegisterReads
  intro o
  refine computes_of _ (exec_srd o) rfl rfl fun u s h => ?_
  simp only [special_advance h, refTicks_advance h]
  congr 2
  funext t
  by_cases hticks : o.n = 0x0A
  · rw [if_pos hticks, hticks]; rfl
  by_cases hlink : o.n = 0x0C
  · rw [if_neg hticks, if_pos hlink, hlink]; rfl
  rw [if_neg hticks, if_neg hlink]
  have hticks : o.n.toNat ≠ 0x0A := fun h => hticks (BitVec.eq_of_toNat_eq h)
  have hlink : o.n.toNat ≠ 0x0C := fun h => hlink (BitVec.eq_of_toNat_eq h)
  generalize o.n.toNat = n at hticks hlink ⊢
  rcases Nat.lt_or_ge n 10 with hlow | hhigh
  · dsimp only [special]
    generalize s.blk? u.grp.bid = b
    interval_cases n <;> cases b <;> rfl
  · obtain ⟨k, rfl⟩ := Nat.exists_eq_add_of_le' hhigh
    match k, hticks, hlink with
    | 0, hticks, _ => exact absurd rfl hticks
    | 1, _, _ => rfl
    | 2, _, hlink => exact absurd rfl hlink
    | _ + 3, _, _ => rfl

end Sys2Proof.Machine
end

section
/-! The debug port (R63, R376, R396 to R398): what each command answers on a live target within its reach, and what it does there. -/

namespace Sys2Proof.Machine

/-! ## Answer records (R396, Table 18-8) -/

/-- A window of a list: the elements there, then the default. -/
theorem map_getD_range {α : Type} (l : List α) (k n : Nat) (d : α) : (List.range n).map (fun i => l.getD (k + i) d) =
    (l.drop k).take n ++ List.replicate (n - (l.length - k)) d := by
  refine List.ext_getElem (by simp; omega) fun i hi _ => ?_
  have hi : i < n := by simpa using hi
  by_cases hl : k + i < l.length
  · have hd : i < ((l.drop k).take n).length := by simp; omega
    simp [List.getElem_append_left hd, hl]
  · have hd : ((l.drop k).take n).length ≤ i := by simp; omega
    simp [List.getElem_append_right hd, List.getElem?_eq_none (Nat.le_of_not_lt hl)]

theorem dbgRecord_data (c : DbgCmd) (st : DbgSt) (data : List Word) :
    (dbgRecord c st data).drop 4 = data.take 4 ++ List.replicate (4 - data.length) 0 := by
  simp only [dbgRecord, List.cons_append, List.nil_append, List.drop_succ_cons, List.drop_zero]
  simpa only [Nat.zero_add, Nat.sub_zero, List.drop_zero] using map_getD_range data 0 4 0

/-- The rest of a trap record, 12 words, takes two answers. -/
theorem answersOf_drop_four {w : List Word} (h : w.length = 16) :
    answersOf (w.drop 4) = [(w.drop 4).take 8, w.drop 12 ++ List.replicate 4 0] := by
  have hlen : (w.drop 4).length = 12 := by simp [h]
  have first : (List.range 8).map (fun i => (w.drop 4).getD (8 * 0 + i) 0) = (w.drop 4).take 8 := by
    rw [map_getD_range, hlen]; simp
  have second : (List.range 8).map (fun i => (w.drop 4).getD (8 * 1 + i) 0) = w.drop 12 ++ List.replicate 4 0 := by
    rw [map_getD_range, hlen, List.drop_drop, List.take_of_length_le (by simp [h])]
  rw [answersOf, hlen]
  exact congrArg₂ (fun a b => [a, b]) first second

/-! ## Targets (R396) -/

/-- A command that its port takes, on a live context within the port's reach. -/
structure LiveTarget (s : State) (c : DbgCmd) : Prop where
  free : portFree s c = true
  reach : inReach s c = true
  live : ∃ x, s.ctx? c.cxid = some x ∧ x.state ≠ .killed

section
variable {s : State} {c : DbgCmd}

theorem onTarget_denied (eff : Ctx → State → State) (hp : portFree s c = true) (hr : inReach s c = false) :
    onTarget c s eff = .next (dbgReply s c .denied []) := by
  simp [onTarget, hp, hr]

theorem LiveTarget.onTarget (T : LiveTarget s c) (eff : State → State) : onTarget c s (fun _ => eff) = .next (eff s) := by
  obtain ⟨x, hx, hk⟩ := T.live
  simp [Machine.onTarget, T.free, T.reach, hx, hk]

theorem LiveTarget.onGroup (T : LiveTarget s c) {g : Group} (hg : namedGroup s c = some g) (eff : Group → State → State) :
    onGroup c s eff = .next (eff g s) := by
  rw [Machine.onGroup, T.onTarget, hg]

theorem LiveTarget.onGroup_none (T : LiveTarget s c) (hg : namedGroup s c = none) (eff : Group → State → State) :
    Machine.onGroup c s eff = .next (dbgReply s c .noTarget []) := by
  rw [Machine.onGroup, T.onTarget, hg]

/-- Every command of the port runs on its target. -/
theorem exec_onTarget {i : Instr} (hi : i ∈ [Instr.attach c, .detach c, .event c, .halt c, .resume c, .step c, .restart c,
    .rdreg c, .wrreg c, .rdmem c, .wrmem c]) : ∃ eff, exec i s = onTarget c s eff := by
  simp only [List.mem_cons, List.not_mem_nil, or_false] at hi
  obtain rfl | rfl | rfl | rfl | rfl | rfl | rfl | rfl | rfl | rfl | rfl := hi
  exacts [⟨_, exec_attach c s⟩, ⟨_, exec_detach c s⟩, ⟨_, exec_event c s⟩, ⟨_, by rw [exec_halt, execHalt, onGroup]⟩,
    ⟨_, by rw [exec_resume, execResume, onGroup]⟩, ⟨_, by rw [exec_step, execStep, onGroup]⟩,
    ⟨_, by rw [exec_restart, execRestart, onGroup]⟩, ⟨_, by rw [exec_rdreg, execRdreg, regCommand, onGroup]⟩,
    ⟨_, by rw [exec_wrreg, execWrreg, regCommand, onGroup]⟩, ⟨_, by rw [exec_rdmem, execRdmem, memCommand]⟩,
    ⟨_, by rw [exec_wrmem, execWrmem, memCommand]⟩]

/-- The commands on threads and registers run on the group that they name. -/
theorem exec_onGroup {i : Instr} (hi : i ∈ [Instr.halt c, .resume c, .step c, .restart c, .rdreg c, .wrreg c]) :
    ∃ eff, exec i s = onGroup c s eff := by
  simp only [List.mem_cons, List.not_mem_nil, or_false] at hi
  obtain rfl | rfl | rfl | rfl | rfl | rfl := hi
  exacts [⟨_, exec_halt c s⟩, ⟨_, exec_resume c s⟩, ⟨_, exec_step c s⟩, ⟨_, exec_restart c s⟩,
    ⟨_, by rw [exec_rdreg, execRdreg, regCommand]⟩, ⟨_, by rw [exec_wrreg, execWrreg, regCommand]⟩]

/-! ## ATTACH, DETACH and EVENT (R397) -/

theorem LiveTarget.attach (T : LiveTarget s c) : exec (.attach c) s = .next (dbgReply { s with
    attach := ⟨c.who, c.cxid, BitVec.ofNat 32 (c.addr.toNat % 2 ^ 26 / 2 * 2)⟩ ::
      s.attach.filter fun a => !(a.who == c.who && a.cxid == c.cxid) } c .ok []) := by
  rw [exec_attach, execAttach, T.onTarget]

theorem LiveTarget.detach (T : LiveTarget s c) : exec (.detach c) s = .next (dbgReply { s with
    attach := s.attach.filter fun a => !(a.who == c.who && a.cxid == c.cxid) } c .ok []) := by
  rw [exec_detach, execDetach, T.onTarget]

theorem LiveTarget.event_none (T : LiveTarget s c) (h : ∀ w ∈ s.dbgEvents, eventFor s c w = false) :
    exec (.event c) s = .next (dbgReply s c .noEvent []) := by
  rw [exec_event, execEvent, T.onTarget, List.find?_eq_none.2 (by simpa using h)]

theorem LiveTarget.event_some (T : LiveTarget s c) {w : List Word} (h : s.dbgEvents.find? (eventFor s c) = some w) :
    exec (.event c) s = .next { dbgReply { s with dbgEvents := s.dbgEvents.erase w } c .ok (w.take 4) with
      dbgNext := answersOf (w.drop 4) } := by
  rw [exec_event, execEvent, T.onTarget, h]

/-! ## HALT, RESUME, STEP and RESTART (R376, R397) -/

theorem LiveTarget.halt (T : LiveTarget s c) {g : Group} (hg : namedGroup s c = some g) : exec (.halt c) s =
    .next (dbgReply ((if c.thr = 63 ∧ c.num = 0x1FF ∧ g.gr ≠ 0 then gridGroups s g.gr else [g]).foldl haltGroup s) c .ok []) := by
  rw [exec_halt, execHalt, T.onGroup hg]
  simp [and_assoc]

theorem LiveTarget.restart (T : LiveTarget s c) {g : Group} (hg : namedGroup s c = some g) (hh : g.hold = none) :
    exec (.restart c) s = .next (dbgReply ((endRun s g.gid).updGrp g.gid fun g =>
      { g with hold := some ⟨.debugger false, false⟩ }) c .ok []) := by
  rw [exec_restart, execRestart, T.onGroup hg]
  simp [hh]

theorem fairPeriod_haltGroup (s : State) (g : Group) (cx : Nat) : fairPeriod (haltGroup s g) cx = fairPeriod s cx := by
  simp only [fairPeriod, State.ctx?, haltGroup, stopThreads, State.updGrp_ctxs, endRun_ctxs]

theorem pathOf_ne_nil (g : Group) {ts : List Nat} (h : ts ≠ []) : g.pathOf ts ≠ [] := by
  obtain ⟨t, ht, hp, -⟩ := pathOf_spec g h
  have hmem : t ∈ g.pathOf ts := by rw [hp]; exact List.mem_filter.2 ⟨ht, beq_self_eq_true _⟩
  exact List.ne_nil_of_mem hmem

/-- The run of one unit that STEP gives a path. -/
def stepRun (s : State) (g : Group) : Run :=
  { core := g.core, part := g.part, gid := g.gid, tids := g.pathOf (steppable g), start := s.clk, single := true
    sdbg := ((s.ctx? g.cxid).map Ctx.sdbg).getD false }

theorem stepRun_haltGroup (s : State) (g : Group) (f : Group → Group) :
    stepRun ((haltGroup s g).updGrp g.gid f) g = stepRun s g := by
  simp only [stepRun, State.ctx?, haltGroup, stopThreads, State.updGrp_clk, State.updGrp_ctxs, endRun_clk, endRun_ctxs]

/-- What STEP makes of a group: the threads of its candidate path may go on, and a new fairness period counts from now. -/
def stepped (s : State) (g x : Group) : Group :=
  { x.updThrs (g.pathOf (steppable g)) fun th => { th.reentered with stopped := false } with fper := fairPeriod s x.cxid }

theorem startRun_eq_stepped (s : State) (g x : Group) : (x.updThrs (g.pathOf (steppable g)) fun th =>
    { th.reentered with stopped := false }).startRun (haltGroup s g) = stepped s g x := by
  rw [Group.startRun, fairPeriod_haltGroup]
  rfl

theorem LiveTarget.step (T : LiveTarget s c) {g : Group} (hg : namedGroup s c = some g) (hh : g.hold = none)
    (ht : steppable g ≠ []) (hr : ∀ r ∈ s.runs, r.core = g.core → r.part = g.part → r.gid = g.gid) :
    let t := (haltGroup s g).updGrp g.gid (stepped s g)
    exec (.step c) s = .next (dbgReply { t with runs := t.runs ++ [stepRun s g] } c .ok []) := by
  have hidle : (s.runs.any fun r => r.core == g.core && r.part == g.part && r.gid != g.gid) = false := by
    simpa using hr
  have hpath : (g.pathOf (steppable g)).isEmpty = false := by simpa using pathOf_ne_nil g ht
  rw [exec_step, execStep, T.onGroup hg]
  simp only [hh, hpath, hidle, Option.isSome_none, Bool.or_false, Bool.false_eq_true, if_false]
  rw [← stepRun_haltGroup, ← funext (startRun_eq_stepped s g)]
  rfl

/-! ## RDREG and WRREG (R63, R398) -/

theorem dbgThread_gone {g : Group} (h : ¬(c.thr < g.width ∧ (g.thr c.thr).exited = false)) : dbgThread g c = .error .noTarget := by
  rw [dbgThread, if_pos]
  simpa [Nat.lt_iff_le_pred, or_iff_not_imp_left] using h

theorem dbgThread_running {g : Group} (h : c.thr < g.width ∧ (g.thr c.thr).exited = false) (hs : (g.thr c.thr).stopped = false)
    (hh : g.hold = none) : dbgThread g c = .error .notStopped := by
  simp [dbgThread, h, hs, hh]

theorem dbgThread_stopped {g : Group} (h : c.thr < g.width ∧ (g.thr c.thr).exited = false)
    (hs : (g.thr c.thr).stopped = true ∨ g.hold ≠ none) : dbgThread g c = .ok (g.thr c.thr) := by
  have hs : ((g.thr c.thr).stopped || g.hold.isSome) = true := by simpa [Option.isSome_iff_ne_none] using hs
  simp [dbgThread, h, hs]

/-- A register command whose thread is not to be had answers why, and does nothing. -/
theorem LiveTarget.regCommand_error (T : LiveTarget s c) {g : Group} (hg : namedGroup s c = some g) {e : DbgSt}
    (hd : dbgThread g c = .error e) (wr : Bool) : regCommand wr c s = .next (dbgReply s c e []) := by
  rw [regCommand, T.onGroup hg, hd]

section
variable {g : Group} {th : Thread}

theorem LiveTarget.regCommand_badReg (T : LiveTarget s c) (hg : namedGroup s c = some g) (hd : dbgThread g c = .ok th)
    (hn : regNamed g c = false) (wr : Bool) : regCommand wr c s = .next (dbgReply s c .badReg []) := by
  rw [regCommand, T.onGroup hg, hd]
  simp [hn]

theorem LiveTarget.regCommand_over (T : LiveTarget s c) (hg : namedGroup s c = some g) (hd : dbgThread g c = .ok th)
    (hn : regNamed g c = true) (ho : holdOver s = true) (wr : Bool) : regCommand wr c s = .next (dbgReply s c .busy []) := by
  rw [regCommand, T.onGroup hg, hd]
  simp [hn, ho]

theorem LiveTarget.regCommand_held (T : LiveTarget s c) (hg : namedGroup s c = some g) (hd : dbgThread g c = .ok th)
    (hn : regNamed g c = true) (ho : holdOver s = false) (hp : regPending g c = true) (wr : Bool) :
    regCommand wr c s = .next { s with dbgHold := some (s.dbgHold.getD { cmd := c, wr := wr, since := s.clk }) } := by
  rw [regCommand, T.onGroup hg, hd]
  simp [hn, ho, hp]

theorem LiveTarget.rdreg (T : LiveTarget s c) (hg : namedGroup s c = some g) (hd : dbgThread g c = .ok th)
    (hn : regNamed g c = true) (ho : holdOver s = false) (hp : regPending g c = false) :
    exec (.rdreg c) s = .next (dbgReply { s with free := s.free + 1 } c .ok (regRead s g c)) := by
  rw [exec_rdreg, execRdreg, regCommand, T.onGroup hg, hd]
  simp [hn, ho, hp]

theorem LiveTarget.wrreg (T : LiveTarget s c) (hg : namedGroup s c = some g) (hd : dbgThread g c = .ok th)
    (hn : regNamed g c = true) (ho : holdOver s = false) (hp : regPending g c = false) :
    exec (.wrreg c) s = .next (dbgReply (regWrite s g c) c .ok []) := by
  rw [exec_wrreg, execWrreg, regCommand, T.onGroup hg, hd]
  simp [hn, ho, hp]

end

/-- The command that a port holds is the one that it takes. -/
theorem cmd_of_portFree (hp : portFree s c = true) {h : DbgHold} (hh : s.dbgHold = some h) : h.cmd = c := by
  simp only [portFree, hh, Bool.and_eq_true, beq_iff_eq] at hp
  obtain ⟨⟨-, hcmd⟩, -⟩ := hp
  exact hcmd

/-! ## RDMEM and WRMEM (R397) -/

/-- An engine's access caches its entry and marks its frames; nothing else changes. -/
theorem touch_only (s : State) (p : Spot) : touch s p = { s with tlb := (touch s p).tlb, frames := (touch s p).frames } := by
  rw [touch, firstAccess_only, (cacheEnt_fields s p.ent).1]

theorem readBuf_congr {s t : State} (hb : t.bufs = s.bufs) (hm : t.mem = s.mem) (hf : t.free = s.free) (b o n : Nat) :
    t.readBuf b o n = s.readBuf b o n := by
  induction n generalizing o with
  | zero => rfl
  | succ n ih => simp only [State.readBuf, State.buf?, hb, hm, hf, ih]

theorem readBuf_touch (s : State) (p : Spot) (b o n : Nat) : (touch s p).readBuf b o n = s.readBuf b o n := by
  have h := touch_only s p
  exact readBuf_congr (by rw [h]) (by rw [h]) (by rw [h]) b o n

theorem loadBytes_touch {s : State} {p : Spot} (b o n : Nat) (h : erasing s b o = false) :
    loadBytes (touch s p) b o n = s.readBuf b o n := by
  have ht : erasing (touch s p) b o = false := by rw [touch_only]; exact h
  rw [loadBytes, ht, Bool.false_and, if_neg Bool.false_ne_true, readBuf_touch]

/-- Word i of a number kept in 128 bits. -/
theorem extractLsb'_ofNat_word (x : Nat) {i : Nat} (hi : i < 4) :
    (BitVec.ofNat 128 x).extractLsb' (32 * i) 32 = BitVec.ofNat 32 (x / 2 ^ (32 * i)) := by
  apply BitVec.eq_of_getLsbD_eq
  intro k hk
  have hlt : 32 * i + k < 128 := by omega
  rw [BitVec.getLsbD_extractLsb', BitVec.getLsbD_ofNat, BitVec.getLsbD_ofNat, Nat.testBit_div_two_pow,
    Nat.add_comm k]
  simp only [hk, hlt, decide_true, Bool.true_and]

theorem LiveTarget.mem_ok (T : LiveTarget s c) {need : Need} {p : Spot} (hn : c.num ∈ [1, 2, 4, 8, 16])
    (hp : dbgAccess s c need = .ok p) (eff : Spot → State → State) : memCommand c need eff s = .next (eff p (touch s p)) := by
  have hn : [1, 2, 4, 8, 16].contains c.num = true := by simpa using hn
  rw [memCommand, T.onTarget, hn, hp]
  rfl

theorem LiveTarget.mem_error (T : LiveTarget s c) {need : Need} {k : Nat} (hn : c.num ∈ [1, 2, 4, 8, 16])
    (hk : dbgAccess s c need = .error k) (eff : Spot → State → State) :
    memCommand c need eff s = .next (dbgReply s c .fault [BitVec.ofNat 32 k]) := by
  have hn : [1, 2, 4, 8, 16].contains c.num = true := by simpa using hn
  rw [memCommand, T.onTarget, hn, hk]
  rfl

/-- RDMEM reads at the place that its checks give, once the access has touched it. -/
theorem LiveTarget.rdmem (T : LiveTarget s c) {p : Spot} (hn : c.num ∈ [1, 2, 4, 8, 16]) (hp : dbgAccess s c .load = .ok p) :
    exec (.rdmem c) s = .next (dbgReply { touch s p with free := s.free + 1 } c .ok
      ((List.range 4).map fun i => BitVec.ofNat 32 (leNat (loadBytes (touch s p) p.b p.off c.num) / 2 ^ (32 * i)))) := by
  have hfree : (touch s p).free = s.free := by rw [touch_only]
  rw [exec_rdmem, execRdmem, T.mem_ok hn hp, hfree]
  simp only [List.map_congr_left fun i hi => extractLsb'_ofNat_word _ (List.mem_range.1 hi)]

theorem LiveTarget.wrmem (T : LiveTarget s c) {p : Spot} (hn : c.num ∈ [1, 2, 4, 8, 16]) (hp : dbgAccess s c .store = .ok p) :
    exec (.wrmem c) s = .next (dbgReply (wake ((touch s p).writeMem p.b p.off (leBytes c.num (dbgData c).toNat))) c .ok []) := by
  rw [exec_wrmem, execWrmem, T.mem_ok hn hp]

end

/-! ## Statement -/

/-- Settles O55: a command answers in one record, what it does on a live target within its port's reach is the equation of that
command, the path that STEP gives its unit is not empty, and touching memory leaves the bytes that RDMEM reads. -/
theorem debugCommands : Obligations.debugCommands := by
  unfold Obligations.debugCommands
  intro s c hp answers
  have reply {i : Instr} {t : State} (st : DbgSt) (data : List Word) (h : exec i s = .next (dbgReply t c st data)) :
      answers i t st.code data := ⟨[_, _, _], rfl, h⟩
  refine ⟨fun hr i hi => ?denied, fun x hr hx hl => ?live⟩
  case denied =>
    obtain ⟨eff, he⟩ := exec_onTarget (s := s) hi
    exact reply .denied [] (he.trans (onTarget_denied eff hp hr))
  have T : LiveTarget s c := ⟨hp, hr, x, hx, hl⟩
  refine ⟨reply .ok [] T.attach, reply .ok [] T.detach, fun h => reply .noEvent [] (T.event_none h), ?event, ?noGroup,
    fun g hg => ⟨?halt, ?haltGrid, ?resume, ?restart, ?step, ?gone, ?running, ?stopped⟩, ?rdmem, ?wrmem, ?memFault, ?timeout⟩
  case event =>
    intro w hw hlen
    refine ⟨_, T.event_some hw, rfl, ?_, answersOf_drop_four hlen⟩
    have h4 : (w.take 4).length = 4 := by simp [hlen]
    exact (dbgRecord_data ..).trans (by simp [h4])
  case noGroup =>
    intro hg i hi
    obtain ⟨eff, he⟩ := exec_onGroup (s := s) hi
    exact reply .noTarget [] (he.trans (T.onGroup_none hg eff))
  case halt =>
    intro h
    refine reply .ok [] ((T.halt hg).trans ?_)
    rw [if_neg fun ⟨hthr, hnum, _⟩ => h ⟨hthr, hnum⟩]
    rfl
  case haltGrid =>
    intro hthr hnum hgr
    refine reply .ok [] ((T.halt hg).trans ?_)
    rw [if_pos ⟨hthr, hnum, hgr⟩]
    rfl
  case resume =>
    refine reply .ok [] ?_
    rw [exec_resume, execResume, T.onGroup hg]
    congr 3
    funext y
    obtain h | ⟨⟨_ | _, b⟩, h⟩ := y.hold.eq_none_or_eq_some <;> simp [h]
  case restart => exact fun hh => reply .ok [] (T.restart hg hh)
  case step =>
    exact fun hh ht hrun => ⟨_, stepRun s g, reply .ok [] (T.step hg hh ht hrun), rfl, rfl, rfl, rfl, rfl, rfl, rfl, rfl⟩
  case gone =>
    intro h
    have hd := dbgThread_gone h
    exact ⟨reply .noTarget [] (T.regCommand_error hg hd false), reply .noTarget [] (T.regCommand_error hg hd true)⟩
  case running =>
    intro h hs hh
    have hd := dbgThread_running h hs hh
    exact ⟨reply .notStopped [] (T.regCommand_error hg hd false), reply .notStopped [] (T.regCommand_error hg hd true)⟩
  case stopped =>
    intro h hs
    have hd := dbgThread_stopped h hs
    refine ⟨
      fun hn => ⟨reply .badReg [] (T.regCommand_badReg hg hd hn false), reply .badReg [] (T.regCommand_badReg hg hd hn true)⟩,
      fun hn ho => ⟨reply .busy [] (T.regCommand_over hg hd hn ho false), reply .busy [] (T.regCommand_over hg hd hn ho true)⟩,
      fun hn ho hw => ⟨_, T.regCommand_held hg hd hn ho hw false, ?held⟩,
      fun hn ho hw => ⟨reply .ok _ (T.rdreg hg hd hn ho hw), ?write⟩⟩
    case held =>
      cases hh : s.dbgHold with
      | none => rfl
      | some h => exact cmd_of_portFree hp hh
    case write =>
      have hwr := T.wrreg hg hd hn ho hw
      have write {t : State} (h : regWrite s g c = t) : answers (.wrreg c) t 0 [] := reply .ok [] (h ▸ hwr)
      exact ⟨fun h => write (by simp only [regWrite, h]), fun h => write (by simp only [regWrite, h]),
        fun h => write (by simp only [regWrite, h]), fun h => write (by simp only [regWrite, h]),
        fun h => write (by simp only [regWrite, h]), fun h => write (by simp only [regWrite, h]),
        fun h hn => write (by simp only [regWrite, h, hn, if_true]),
        fun h hn => write (by simp only [regWrite, h, hn, one_ne_zero, if_false])⟩
  case rdmem => exact fun p hn hp => ⟨_, reply .ok _ (T.rdmem hn hp), fun he => by rw [loadBytes_touch _ _ _ he]⟩
  case wrmem => exact fun p hn hp => reply .ok [] (T.wrmem hn hp)
  case memFault => exact fun k hn hk => reply .fault _ (by rw [exec_rdmem, execRdmem, T.mem_error hn hk])
  case timeout =>
    intro h hh ho hc
    have hover : holdOver s = true := by simpa [holdOver, hh] using ho
    refine reply .busy [] ?_
    rw [exec_debugHoldTimeout, execDebugHoldTimeout, hh]
    simp only [hover, hc, if_true]

end Sys2Proof.Machine
end

section
/-! Sums, products and one rounding to binary32 (R65, R67, R161): the exact operations as those of rational numbers, an integer
rounded in a mode, and the value of the pattern that holds it. -/

namespace Sys2Proof.Machine

/-! ## Exact sums and products (R161) -/

/-- The factor of a sign. -/
def signFactor (s : Bool) : ℚ := if s then -1 else 1

theorem rat_fin (s : Bool) (m : Nat) (e : Int) : (FVal.fin s m e).rat = signFactor s * (m * 2 ^ e) := mul_assoc _ _ _

@[simp] theorem abs_signFactor (s : Bool) : |signFactor s| = 1 := by cases s <;> norm_num [signFactor]

theorem signFactor_bne (a b : Bool) : signFactor (a != b) = signFactor a * signFactor b := by
  cases a <;> cases b <;> norm_num [signFactor]

/-- An integer kept as its sign and its magnitude. -/
theorem rat_fin_natAbs (i q : Int) : (FVal.fin (i < 0) i.natAbs q).rat = i * 2 ^ q := by
  rw [FVal.rat, Nat.cast_natAbs]
  by_cases hi : i < 0
  · simp [hi, abs_of_neg hi]
  · simp [hi, abs_of_nonneg (not_lt.1 hi)]

/-- The sum of two finite values is exact: both are integers at the lower of their exponents. -/
theorem addF_rat (mode : Rnd) (a b : Bool) (m n : Nat) (e k : Int) :
    (addF mode (.fin a m e) (.fin b n k)).rat = (FVal.fin a m e).rat + (FVal.fin b n k).rat := by
  by_cases hm : m = 0
  · by_cases hn : n = 0 <;> simp [addF, hm, hn]
  by_cases hn : n = 0
  · simp [addF, hm, hn]
  have hsum : ((finInt a m (e - min e k) + finInt b n (k - min e k) : Int) : ℚ) * 2 ^ min e k =
      (FVal.fin a m e).rat + (FVal.fin b n k).rat := by
    rw [Int.cast_add, add_mul, finInt_mul_zpow a m (min_le_left e k), finInt_mul_zpow b n (min_le_right e k)]
  have hmin : (if e < k then e else k) = min e k := by grind
  simp only [addF, hm, hn, false_and, if_false, hmin, ← hsum]
  split
  next hzero => simp [hzero]
  next => exact rat_fin_natAbs _ _

/-- The product of two finite values is exact. -/
theorem mulF_rat (a b : Bool) (m n : Nat) (e k : Int) :
    (mulF (.fin a m e) (.fin b n k)).rat = (FVal.fin a m e).rat * (FVal.fin b n k).rat := by
  simp only [mulF]
  split
  next hzero =>
    rw [hzero, rat_zero]
    obtain rfl | rfl := Nat.mul_eq_zero.1 hzero <;> simp
  next =>
    rw [rat_fin, rat_fin, rat_fin, signFactor_bne, zpow_add₀ two_ne_zero, Nat.cast_mul]
    ring

/-! ## An integer rounded in a mode (R67) -/

/-- Whether a mode is directed away from zero at a sign. -/
def Rnd.away (neg : Bool) : Rnd → Bool
  | .ru => !neg
  | .rd => neg
  | .rn | .rz => false

/-- The integer n is the magnitude x of a number of the given sign, rounded in a mode (R67). -/
structure RoundsTo (mode : Rnd) (neg : Bool) (x : ℚ) (n : Nat) : Prop where
  near : mode = .rn → 2 * |n - x| ≤ 1
  outward : mode.away neg = true → x ≤ n ∧ n < x + 1
  inward : mode ≠ .rn → mode.away neg = false → n ≤ x ∧ x < n + 1

namespace RoundsTo
variable {mode : Rnd} {neg : Bool} {x : ℚ} {n : Nat}

/-- An integer rounds to itself. -/
theorem self (mode : Rnd) (neg : Bool) (n : Nat) : RoundsTo mode neg n n :=
  ⟨fun _ => by norm_num, fun _ => by simp, fun _ _ => by simp⟩

/-- A rounded number is less than one unit away. -/
theorem lt_one (h : RoundsTo mode neg x n) : |n - x| < 1 := by
  by_cases hrn : mode = .rn
  · linarith [h.near hrn]
  cases ha : mode.away neg with
  | false => obtain ⟨hle, hlt⟩ := h.inward hrn ha; exact abs_sub_lt_iff.2 ⟨by linarith, by linarith⟩
  | true => obtain ⟨hle, hlt⟩ := h.outward ha; exact abs_sub_lt_iff.2 ⟨by linarith, by linarith⟩

/-- Rounding does not pass an integer from below. -/
theorem le_of_le (h : RoundsTo mode neg x n) {k : Nat} (hx : x ≤ k) : n ≤ k := by
  have hlt : (n : ℚ) < (k + 1 : Nat) := by push_cast; linarith [(abs_lt.1 h.lt_one).2]
  exact Nat.lt_succ_iff.1 (Nat.cast_lt.1 hlt)

/-- Rounding does not pass an integer from above. -/
theorem ge_of_ge (h : RoundsTo mode neg x n) {k : Nat} (hx : (k : ℚ) ≤ x) : k ≤ n := by
  have hlt : (k : ℚ) < (n + 1 : Nat) := by push_cast; linarith [(abs_lt.1 h.lt_one).1]
  exact Nat.lt_succ_iff.1 (Nat.cast_lt.1 hlt)

/-- Of a number with the rest f above the integer n, to nearest goes up by the half that f is in, a mode directed away from zero
whenever there is a rest, and the others never. -/
theorem add_toNat {f : ℚ} {up : Bool} (hf : 0 ≤ f) (hf' : f < 1) (hrn : mode = .rn → if up then 1 / 2 ≤ f else f ≤ 1 / 2)
    (hout : mode.away neg = true → (up = true ↔ f ≠ 0)) (hin : mode ≠ .rn → mode.away neg = false → up = false) :
    RoundsTo mode neg (n + f) (n + up.toNat : Nat) := by
  cases up with
  | false =>
    simp only [Bool.toNat_false, Nat.add_zero]
    refine ⟨fun h => ?_, fun h => ?_, fun _ _ => ⟨by linarith, by linarith⟩⟩
    · have hhalf : f ≤ 1 / 2 := hrn h
      rw [abs_of_nonpos (by linarith)]
      linarith
    · have hrest : f = 0 := by simpa using hout h
      rw [hrest]
      exact ⟨by simp, by linarith⟩
  | true =>
    rw [Bool.toNat_true]
    refine ⟨fun h => ?_, fun h => ?_, fun h h' => absurd (hin h h') (by decide)⟩
    · have hhalf : 1 / 2 ≤ f := hrn h
      rw [Nat.cast_add_one, abs_of_nonneg (by linarith)]
      linarith
    · have hrest : 0 < f := lt_of_le_of_ne hf ((hout h).1 rfl).symm
      rw [Nat.cast_add_one]
      exact ⟨by linarith, by linarith⟩

/-- In units of u and with its sign, a rounded number lies as the mode says. -/
theorem signed (h : RoundsTo mode neg x n) (hx : 0 ≤ x) {u : ℚ} (hu : 0 < u) :
    let a := signFactor neg * (x * u)
    let b := signFactor neg * (n * u)
    (mode = .rn → 2 * |b - a| ≤ u) ∧ (mode = .rz → |b - a| < u ∧ |b| ≤ |a|) ∧
      (mode = .rd → |b - a| < u ∧ b ≤ a) ∧ (mode = .ru → |b - a| < u ∧ a ≤ b) := by
  intro a b
  have hdist : |b - a| = |n - x| * u := by
    rw [← mul_sub, ← sub_mul, abs_mul, abs_signFactor, one_mul, abs_mul, abs_of_pos hu]
  have hlt : |b - a| < u := hdist ▸ mul_lt_of_lt_one_left hu h.lt_one
  have hin (hrn : mode ≠ .rn) (ha : mode.away neg = false) : n * u ≤ x * u :=
    mul_le_mul_of_nonneg_right (h.inward hrn ha).1 hu.le
  have hout (ha : mode.away neg = true) : x * u ≤ n * u := mul_le_mul_of_nonneg_right (h.outward ha).1 hu.le
  refine ⟨?rn, ?rz, ?rd, ?ru⟩
  case rn =>
    intro hrn
    rw [hdist, ← mul_assoc]
    exact mul_le_of_le_one_left hu.le (h.near hrn)
  case rz =>
    rintro rfl
    refine ⟨hlt, ?_⟩
    simp only [a, b, abs_mul (signFactor neg), abs_signFactor, one_mul]
    rw [abs_of_nonneg (by positivity), abs_of_nonneg (by positivity)]
    exact hin (by decide) rfl
  case rd =>
    rintro rfl
    refine ⟨hlt, ?_⟩
    cases neg with
    | false => simpa [a, b, signFactor] using hin (by decide) rfl
    | true => simpa [a, b, signFactor] using hout rfl
  case ru =>
    rintro rfl
    refine ⟨hlt, ?_⟩
    cases neg with
    | false => simpa [a, b, signFactor] using hout rfl
    | true => simpa [a, b, signFactor] using hin (by decide) rfl

end RoundsTo

/-- Whether a quotient n with the remainder r of a division by 2 * h is rounded to n + 1. -/
def roundsUp (mode : Rnd) (neg : Bool) (n r h : Nat) : Bool := match mode with
  | .rn => decide (r > h ∨ (r = h ∧ n % 2 = 1))
  | mode => decide (r ≠ 0) && mode.away neg

theorem roundsTo_quotient (mode : Rnd) (neg : Bool) (n : Nat) {r h : Nat} (hr : r < 2 * h) :
    RoundsTo mode neg (n + r / (2 * h)) (n + (roundsUp mode neg n r h).toNat) := by
  have hpos : (0 : ℚ) < 2 * h := by exact_mod_cast hr.pos
  have hf0 : (0 : ℚ) ≤ r / (2 * h) := by positivity
  have hf1 : (r : ℚ) / (2 * h) < 1 := (div_lt_one hpos).2 (by exact_mod_cast hr)
  have hrest : (r : ℚ) / (2 * h) ≠ 0 ↔ r ≠ 0 := by simp [hpos.ne']
  refine .add_toNat hf0 hf1 ?nearest ?outward fun hrn ha => ?inward
  case nearest =>
    rintro rfl
    split
    next hup =>
      have hh : h ≤ r := by grind [roundsUp]
      rw [le_div_iff₀ hpos]
      linarith [(Nat.cast_le (α := ℚ)).2 hh]
    next hup =>
      have hh : r ≤ h := by grind [roundsUp]
      rw [div_le_iff₀ hpos]
      linarith [(Nat.cast_le (α := ℚ)).2 hh]
  case outward =>
    intro ha
    rw [hrest]
    cases mode <;> simp_all [roundsUp, Rnd.away]
  case inward => cases mode <;> simp_all [roundsUp]

/-- A shift beyond the magnitude gives the quotient and the remainder too: 0 and the whole magnitude. -/
theorem roundShift_eq (mode : Rnd) (neg : Bool) (m d : Nat) :
    roundShift mode neg m (d + 1) = m / 2 ^ (d + 1) + (roundsUp mode neg (m / 2 ^ (d + 1)) (m % 2 ^ (d + 1)) (2 ^ d)).toNat := by
  have hbelow (hd : d + 1 > Nat.log2 m + 1) : m < 2 ^ d ∧ m / 2 ^ (d + 1) = 0 ∧ m % 2 ^ (d + 1) = m := by
    have hm : m < 2 ^ d := Nat.lt_of_lt_of_le Nat.lt_log2_self (Nat.pow_le_pow_right two_pos (by omega))
    have hm' : m < 2 ^ (d + 1) := by rw [pow_succ]; omega
    exact ⟨hm, Nat.div_eq_of_lt hm', Nat.mod_eq_of_lt hm'⟩
  simp only [roundShift, if_neg d.succ_ne_zero, Nat.add_sub_cancel, Nat.shiftRight_eq_div_pow]
  cases mode with
  | rn | rz => grind [roundsUp, Rnd.away]
  | ru | rd => cases neg <;> grind [roundsUp, Rnd.away]

/-- `roundShift` rounds the quotient of a magnitude by a power of two. -/
theorem roundShift_roundsTo (mode : Rnd) (neg : Bool) (m d : Nat) :
    RoundsTo mode neg ((m : ℚ) / 2 ^ d) (roundShift mode neg m d) := by
  cases d with
  | zero => simpa [roundShift] using RoundsTo.self mode neg m
  | succ d =>
    have hr : m % 2 ^ (d + 1) < 2 * 2 ^ d := by rw [← pow_succ']; exact Nat.mod_lt _ (by positivity)
    have hx : (m : ℚ) / 2 ^ (d + 1) = (m / 2 ^ (d + 1) : Nat) + (m % 2 ^ (d + 1) : Nat) / (2 * (2 ^ d : Nat)) := by
      have hdiv : (m : ℚ) = 2 ^ (d + 1) * (m / 2 ^ (d + 1) : Nat) + (m % 2 ^ (d + 1) : Nat) := by
        exact_mod_cast (Nat.div_add_mod m (2 ^ (d + 1))).symm
      rw [Nat.cast_pow, Nat.cast_ofNat, ← pow_succ', div_eq_iff (by positivity), add_mul, div_mul_cancel₀ _ (by positivity),
        mul_comm, ← hdiv]
    rw [roundShift_eq, hx]
    exact roundsTo_quotient mode neg _ hr

/-! ## Rounding at a power of two -/

/-- The magnitude m * 2^e in units of 2^q, rounded to an integer. -/
def roundAt (mode : Rnd) (neg : Bool) (m : Nat) (e q : Int) : Nat :=
  if e ≥ q then m <<< (e - q).toNat else roundShift mode neg m (q - e).toNat

theorem roundAt_roundsTo (mode : Rnd) (neg : Bool) (m : Nat) (e q : Int) :
    RoundsTo mode neg (m * 2 ^ (e - q)) (roundAt mode neg m e q) := by
  unfold roundAt
  split
  next h =>
    obtain ⟨d, hd⟩ := Int.eq_ofNat_of_zero_le (Int.sub_nonneg_of_le h)
    have hx : (m : ℚ) * 2 ^ (e - q) = (m <<< d : Nat) := by rw [hd]; simp [Nat.shiftLeft_eq]
    rw [hx, hd]
    exact RoundsTo.self mode neg _
  next h =>
    obtain ⟨d, hd⟩ := Int.eq_ofNat_of_zero_le (show 0 ≤ q - e by omega)
    have hx : (m : ℚ) * 2 ^ (e - q) = m / 2 ^ d := by
      rw [← Int.neg_sub, hd, zpow_neg, div_eq_mul_inv]; simp
    rw [hx, hd]
    exact roundShift_roundsTo mode neg m d

/-- The largest exponent of a format. -/
def Fmt.emax (f : Fmt) : Int := if f = .e4m3 then 8 else f.bias

/-- The exponent of the last place of a value of the magnitude m * 2^e, m > 0: the subnormals share the lowest. -/
def Fmt.ulp (f : Fmt) (m : Nat) (e : Int) : Int :=
  (if (Nat.log2 m : Int) + e < 1 - f.bias then 1 - (f.bias : Int) else Nat.log2 m + e) - f.fb

/-- The pattern of the magnitude n * 2^q, where n is below twice the hidden bit. -/
def Fmt.deliver (f : Fmt) (mode : Rnd) (sat ftz neg : Bool) (n : Nat) (q : Int) : Nat :=
  if n < 2 ^ f.fb then (if ftz then signPat f neg 0 else signPat f neg n)
  else if q + f.fb > f.emax ∨ (f = .e4m3 ∧ q + f.fb = 8 ∧ n = 15) then overflowPat f mode sat neg
  else signPat f neg ((q + f.fb + f.bias).toNat * 2 ^ f.fb + (n - 2 ^ f.fb))

/-- A value whose exponent the format has is rounded to an integer at its last place; a carry into twice the hidden bit raises the
exponent. -/
theorem roundF_fin (f : Fmt) (mode : Rnd) (sat ftz neg : Bool) {m : Nat} {e : Int} (hm : m ≠ 0)
    (htop : ¬(Nat.log2 m : Int) + e > f.emax) :
    let q := f.ulp m e
    let n := roundAt mode neg m e q
    roundF f mode sat ftz (.fin neg m e) =
      if n ≥ 2 ^ (f.fb + 1) then f.deliver mode sat ftz neg (n / 2) (q + 1) else f.deliver mode sat ftz neg n q := by
  intro q n
  have hcarry (b : Prop) [Decidable b] (x y : Nat × Int) :
      (if b then f.deliver mode sat ftz neg x.1 x.2 else f.deliver mode sat ftz neg y.1 y.2) =
        f.deliver mode sat ftz neg (if b then x else y).1 (if b then x else y).2 := by split <;> rfl
  rw [hcarry _ (n / 2, q + 1) (n, q)]
  exact (if_neg hm).trans (if_neg htop)

/-! ## The value of a rounded binary32 pattern (R65) -/

/-- The value of a binary32 pattern whose exponent field is not the highest. -/
theorem decF_signPat_f32 (s : Bool) {x f : Nat} (hx : x < 255) (hf : f < 2 ^ 23) :
    decF .f32 (signPat .f32 s (x * 2 ^ 23 + f)) = if x = 0 then .fin s f (-149) else .fin s (f + 2 ^ 23) (x - 150) := by
  have hs : bitOf (signPat .f32 s (x * 2 ^ 23 + f)) 31 = s := by
    cases s <;> simp [bitOf, signPat, Fmt.eb, Fmt.fb, Nat.shiftRight_eq_div_pow] <;> omega
  have he : bitsOf (signPat .f32 s (x * 2 ^ 23 + f)) 23 8 = x := by
    cases s <;> simp [bitsOf, signPat, Fmt.eb, Fmt.fb, Nat.shiftRight_eq_div_pow] <;> omega
  have hm : bitsOf (signPat .f32 s (x * 2 ^ 23 + f)) 0 23 = f := by
    cases s <;> simp [bitsOf, signPat, Fmt.eb, Fmt.fb] <;> omega
  have hexp : (x : Int) - 127 - 23 = x - 150 := by omega
  generalize signPat .f32 s (x * 2 ^ 23 + f) = w at hs he hm
  simp [decF, Fmt.eb, Fmt.fb, Fmt.bias, hs, he, hm, hx.ne, hexp]

theorem decF_deliver_f32 (mode : Rnd) (sat neg : Bool) {n : Nat} {q : Int} (hn : n < 2 ^ 24) (hq : -149 ≤ q) (hq' : q ≤ 104)
    (hsub : n < 2 ^ 23 → q = -149) : decF .f32 (Fmt.f32.deliver mode sat false neg n q) = .fin neg n q := by
  have hfit : ¬(q + Fmt.f32.fb > Fmt.f32.emax ∨ (Fmt.f32 = .e4m3 ∧ q + Fmt.f32.fb = 8 ∧ n = 15)) := by
    simp only [Fmt.fb, Fmt.emax, Fmt.bias, reduceCtorEq, false_and, or_false, if_false]
    omega
  unfold Fmt.deliver
  by_cases h : n < 2 ^ 23
  · rw [if_pos (show n < 2 ^ Fmt.f32.fb from h)]
    simpa [hsub h] using decF_signPat_f32 neg (x := 0) (by norm_num) h
  · rw [if_neg (show ¬n < 2 ^ Fmt.f32.fb from h), if_neg hfit]
    refine (decF_signPat_f32 neg (x := (q + 23 + 127).toNat) (f := n - 2 ^ 23) (by omega) (by omega)).trans ?_
    rw [if_neg (by omega), Nat.sub_add_cancel (by omega)]
    congr 1
    omega

theorem ulp_f32 (m : Nat) (e : Int) : Fmt.f32.ulp m e = max ((Nat.log2 m : Int) + e) (-126) - 23 := by
  simp only [Fmt.ulp, Fmt.bias, Fmt.fb]
  omega

theorem two_zpow_log2_le {m : Nat} (hm : m ≠ 0) (e : Int) : (2 : ℚ) ^ ((Nat.log2 m : Int) + e) ≤ m * 2 ^ e := by
  rw [zpow_add₀ two_ne_zero, zpow_natCast]
  exact mul_le_mul_of_nonneg_right (by exact_mod_cast Nat.log2_self_le hm) (by positivity)

theorem lt_two_zpow_log2 (m : Nat) (e : Int) : (m : ℚ) * 2 ^ e < 2 ^ ((Nat.log2 m : Int) + 1 + e) := by
  rw [zpow_add₀ two_ne_zero]
  exact mul_lt_mul_of_pos_right (by exact_mod_cast Nat.lt_log2_self) (by positivity)

/-- A magnitude no larger than the largest finite binary32 value is read back, once rounded, as its rounded integer at the last
place. -/
theorem rat_decF_roundF_f32 (mode : Rnd) (s : Bool) {m : Nat} {e : Int} (hm : m ≠ 0)
    (hmax : (m : ℚ) * 2 ^ e ≤ 2 ^ 128 - 2 ^ 104) : (decF .f32 (roundF .f32 mode false false (.fin s m e))).rat =
      (FVal.fin s (roundAt mode s m e (Fmt.f32.ulp m e)) (Fmt.f32.ulp m e)).rat := by
  have htop : (Nat.log2 m : Int) + e < 128 := by
    refine (zpow_lt_zpow_iff_right₀ (one_lt_two (α := ℚ))).1 (lt_of_le_of_lt ((two_zpow_log2_le hm e).trans hmax) ?_)
    norm_num
  have hround := roundAt_roundsTo mode s m e (Fmt.f32.ulp m e)
  rw [roundF_fin .f32 mode false false s hm (not_lt.2 (Int.lt_add_one_iff.1 htop))]
  have hulp := ulp_f32 m e
  generalize Fmt.f32.ulp m e = q at hround hulp ⊢
  generalize roundAt mode s m e q = n at hround ⊢
  have hle : n ≤ 2 ^ 24 := by
    refine hround.le_of_le ((lt_two_zpow_log2 m _).le.trans ?_)
    rw [Nat.cast_pow, Nat.cast_ofNat, ← zpow_natCast]
    exact zpow_le_zpow_right₀ one_le_two (by omega)
  have hfin : q = 104 → n ≤ 2 ^ 24 - 1 := by
    rintro rfl
    refine hround.le_of_le ?_
    rw [zpow_sub₀ two_ne_zero, ← mul_div_assoc, div_le_iff₀ (by positivity)]
    norm_num at hmax ⊢
    exact hmax
  have hsub : -149 < q → 2 ^ 23 ≤ n := by
    intro hlt
    refine hround.ge_of_ge (le_trans ?_ (two_zpow_log2_le hm _))
    rw [Nat.cast_pow, Nat.cast_ofNat, ← zpow_natCast]
    exact zpow_le_zpow_right₀ one_le_two (by omega)
  change (decF .f32 (if n ≥ 2 ^ 24 then _ else _)).rat = _
  split
  next hcarry =>
    have hn : n = 2 ^ 24 := le_antisymm hle hcarry
    rw [decF_deliver_f32 _ _ _ (by omega) (by omega) (by omega) (by omega), hn, rat_fin, rat_fin, zpow_add₀ two_ne_zero,
      zpow_one]
    push_cast
    ring
  next => rw [decF_deliver_f32 _ _ _ (by omega) (by omega) (by omega) (by omega)]

/-- Settles O5: the sum and the product are those of rational numbers, and the pattern of a rounded value reads as its magnitude
in units of the last place rounded to an integer. -/
theorem binary32RoundsOnce : Obligations.binary32RoundsOnce := by
  unfold Obligations.binary32RoundsOnce
  refine ⟨fun mode a b k c d j => addF_rat mode a c b d k j, fun a b k c d j => mulF_rat a c b d k j, ?rounding⟩
  intro s m e mode hm hmax x y unit
  have hunit : unit = 2 ^ Fmt.f32.ulp m e := by rw [ulp_f32]
  have hx : x = signFactor s * (m * 2 ^ (e - Fmt.f32.ulp m e) * unit) := by
    rw [hunit, mul_assoc, ← zpow_add₀ two_ne_zero, sub_add_cancel, ← rat_fin]
  have hmag : (m : ℚ) * 2 ^ e ≤ 2 ^ 128 - 2 ^ 104 := by
    rwa [rat_fin, abs_mul, abs_signFactor, one_mul, abs_of_nonneg (by positivity)] at hmax
  have hy : y = signFactor s * (roundAt mode s m e (Fmt.f32.ulp m e) * unit) := by
    rw [hunit, ← rat_fin, ← rat_decF_roundF_f32 mode s hm.ne' hmag]
  rw [hx, hy]
  exact (roundAt_roundsTo mode s m e _).signed (by positivity) (zpow_pos two_pos _)

end Sys2Proof.Machine
end

section
/-! Control transfer (R196, R197, R199) and the traps that an instruction raises (R85, R200). -/

namespace Sys2Proof.Machine

/-! ## Threads that move -/

/-- An update of active threads that changes none of them. -/
theorem updAct_self (u : Issue) (s : State) : updAct u s (fun _ th => th) = s := by
  have hg (g : Group) : g.updThrs' u.act (fun _ th => th) = g := by
    have : (g.threads.mapIdx fun k th => if u.act.contains k then th else th) = g.threads :=
      List.ext_getElem (by simp) (by simp)
    rw [Group.updThrs', this]
  have hs : updGroups u.gid (fun g => g) = id := funext fun gs => by simp [updGroups]
  simp only [updAct, hg, State.updGrp, hs, id_eq, Option.map_id, List.map_id', ite_self]

/-- The word offset of a branch (R196): its field with two zero bits below, sign extended. -/
theorem branchTarget_eq (u : Issue) (o : BRF) :
    branchTarget u o = u.ipc + (o.off ++ (0 : BitVec 2)).signExtend 64 := by
  have h : (o.off ++ (0 : BitVec 2)).toInt = 4 * signedOf o.off.toNat 18 := by
    have := o.off.isLt
    simp only [BitVec.toInt_eq_toNat_cond, BitVec.toNat_append, BitVec.ofNat_eq_ofNat, BitVec.toNat_ofNat, Nat.zero_mod,
      Nat.or_zero, Nat.shiftLeft_eq, signedOf]
    split <;> split <;> omega
  rw [branchTarget, BitVec.signExtend, h]

theorem branchTaken_eq (o : BRF) (th : Thread) : branchTaken o th = (th.prd o.p ^^ (o.neg == 1)) := rfl

/-! ## Jumps -/

section
variable (u : Issue) (s : State) (tgt : Nat → DWord)

/-- Every lane has an aligned canonical target: each goes to its own (R197). -/
theorem jumpLanes_ok (h : ∀ k ∈ u.act, (tgt k).toNat % 4 = 0 ∧ canonical (tgt k) = true) :
    jumpLanes u s tgt = .ok (updAct u s fun k th => { th with pc := tgt k }) := by
  have hodd : (u.act.filter fun k => (tgt k).toNat % 4 != 0) = [] :=
    List.filter_eq_nil_iff.2 fun k hk => by simp [(h k hk).1]
  have hfar : (u.act.filter fun k => !canonical (tgt k)) = [] :=
    List.filter_eq_nil_iff.2 fun k hk => by simp [(h k hk).2]
  simp only [jumpLanes, hodd, hfar]

/-- Misaligned targets fail before any other (R197). -/
theorem jumpLanes_misaligned {k : Nat} {r : List Nat} (h : (u.act.filter fun k => (tgt k).toNat % 4 != 0) = k :: r) :
    jumpLanes u s tgt = .trap (u.ti .misaligned (k :: r) (tgt k)) := by
  simp only [jumpLanes, h]

theorem jumpLanes_protection {k : Nat} {r : List Nat} (hodd : (u.act.filter fun k => (tgt k).toNat % 4 != 0) = [])
    (h : (u.act.filter fun k => !canonical (tgt k)) = k :: r) :
    jumpLanes u s tgt = .trap (u.ti .protection (k :: r) (tgt k)) := by
  simp only [jumpLanes, hodd, h]

end

/-- What an instruction is to do that moves each lane to a target of its own (R197). -/
def Jumps (i : Instr) (target : Issue → State → Nat → DWord) : Prop :=
  Transforms i (fun u s => ∀ k ∈ u.act, (target u s k).toNat % 4 = 0 ∧ canonical (target u s k) = true)
    (fun u s k th => { th with pc := target u s k }) ∧
  ∀ u s, Issues i u s →
    (∀ k r, (u.act.filter fun k => (target u s k).toNat % 4 != 0) = k :: r →
      exec i s = .next (raise s u.grp (u.ti .misaligned (k :: r) (target u s k)))) ∧
    ∀ k r, (u.act.filter fun k => (target u s k).toNat % 4 != 0) = [] →
      (u.act.filter fun k => !canonical (target u s k)) = k :: r →
      exec i s = .next (raise s u.grp (u.ti .protection (k :: r) (target u s k)))

/-- An instruction whose effect is a jump to targets that passing the unit leaves as they are. -/
theorem jumps_of {i : Instr} {target : Issue → State → Nat → DWord}
    (hx : ∀ s, exec i s = execUnit i (fun u s => jumpLanes u s (target u s)) s)
    (ht : ∀ u s, target u (advance i u s) = target u s) (hc : i.closing = false) (hm : i.matrix = false) : Jumps i target := by
  refine ⟨transforms_of _ hx hc hm fun u s _ hok => ?_, fun u s h => ⟨fun k r hodd => ?_, fun k r hodd hfar => ?_⟩⟩
  · rw [ht]
    exact jumpLanes_ok _ _ _ hok
  all_goals
    rw [hx]
    refine execUnit_trap h ?_
    rw [ht]
  · exact jumpLanes_misaligned _ _ _ hodd
  · exact jumpLanes_protection _ _ _ hodd hfar

/-! ## Statement -/

/-- Settles O13: branches and NOP are updates of active threads, RET and JIDX are `jumpLanes`, and TRAP and BRK raise where a
thread is active. -/
theorem controlTransferAndTraps : Obligations.controlTransferAndTraps := by
  unfold Obligations.controlTransferAndTraps
  refine ⟨⟨fun o => ⟨?br, ?call⟩, ⟨fun o => ?ret, fun o => ?jidx⟩, fun o => ?nop⟩, fun o u s h ha => ?trap, fun o u s h ha => ?brk,
    fun o => ?noTrap, fun o => ?noBrk⟩
  case br =>
    refine transforms_of _ (fun s => exec_br o s) rfl rfl fun u s _ _ => ?_
    simp only [branchTaken_eq, branchTarget_eq]
  case call =>
    refine transforms_of _ (fun s => exec_call o s) rfl rfl fun u s _ _ => ?_
    simp only [branchTaken_eq, branchTarget_eq]
  case ret =>
    exact jumps_of (target := fun u _ k => (u.grp.thr k).lr) (fun s => exec_ret o s) (fun _ _ => rfl) rfl rfl
  case jidx =>
    exact jumps_of (target := fun u s k => u.rd64 s k o.a.toNat) (fun s => exec_jidx o s)
      (fun u s => funext fun k => rd64_advance ..) rfl rfl
  case nop =>
    exact transforms_of _ (fun s => exec_nop o s) rfl rfl fun u s _ _ => by rw [updAct_self]
  case trap =>
    exact (exec_trap o s).trans (execUnit_trap h (if_neg (by simpa using ha)))
  case brk =>
    exact (exec_brk o s).trans (execUnit_trap h (if_neg (by simpa using ha)))
  case noTrap =>
    exact transforms_of _ (fun s => exec_trap o s) rfl rfl fun u s _ ha => by rw [updAct_self]; exact if_pos (by simp [ha])
  case noBrk =>
    exact transforms_of _ (fun s => exec_brk o s) rfl rfl fun u s _ ha => by rw [updAct_self]; exact if_pos (by simp [ha])

end Sys2Proof.Machine
end

section
/-! Stores (R106, R119, R120, R207, R209, R210): held by their threads, trapped, or issued again once there is room. -/

namespace Sys2Proof.Machine

/-! ## Units that cannot issue yet -/

/-- A unit whose effect has to wait for `w` parks for it. -/
theorem parks_of {i : Instr} {u : Issue} {s : State} {eff : Issue → State → Res} {w : Wait} (h : Issues i u s)
    (hx : ∀ s, exec i s = execUnit i eff s) (he : eff u (advance i u s) = .retry w) : Parks i u s w := by
  have hp : exec i s = .next (parkResource i eff w u s) := by simp [hx, execUnit, h.1, h.2, he]
  refine ⟨⟨eff, hx, hp⟩, fun hall => ?_⟩
  have hoff : (u.tids.filter fun t => !u.act.contains t) = [] := List.filter_eq_nil_iff.2 fun k hk => by simp [hall k hk]
  rw [hp, parkResource, hoff]

/-! ## Stores -/

/-- What a store is to do with its `size` bytes per lane at the places that the lanes pass their checks with. -/
def StoresAt (i : Instr) (r size pol : Nat) (place : Issue → State → Nat → Except XFault Acc) : Prop := ∀ u s, Issues i u s →
  (∀ as, checkLanes u true u.act (place u (advance i u s)) = .ok as →
    let full := u.tids.filter fun k => decide (8 ≤ (u.grp.thr k).nst)
    let bytes := u.act.length * size
    let room := chunkRoom (advance i u s) u.grp bytes
    (full = [] → room = true → Ends i u s fun t =>
      t = { s with groups := t.groups, tlb := t.tlb, lastPages := t.lastPages, frames := t.frames, nextId := s.nextId + 1 } ∧
      TablesRead s t ∧ Acts i u s t (fun g => { g with held := chunkNeed s u.grp bytes }) (holds u size pol s.nextId
        (fun k => BitVec.ofNat 128 (leNat (wordsBytes (u.rdN s k r (sizeRegs size))) % 2 ^ (8 * size))) as)) ∧
    (full ≠ [] → exec i s = .next (raise s u.grp { cause := .regionFull, lanes := full, fpc := u.upc,
                                                   cxid := u.grp.cxid, wr := true })) ∧
    (full = [] → room = false → Parks i u s (.bytes bytes))) ∧
  ∀ ti, checkLanes u true u.act (place u (advance i u s)) = .error ti → exec i s = .next (raise s u.grp ti)

/-- An instruction whose effect is to check its lanes' places, and to have its threads hold a store at them. -/
theorem storesAt_of {i : Instr} {r size pol : Nat} {place : Issue → State → Nat → Except XFault Acc} {eff : Issue → State → Res}
    (hx : ∀ s, exec i s = execUnit i eff s)
    (he : ∀ u s, eff u (advance i u s) = bufferStores u (advance i u s) size pol
      (fun k => storeData u (advance i u s) k r size) (checkLanes u true u.act (place u (advance i u s)))) :
    StoresAt i r size pol place := by
  intro u s h
  refine ⟨fun as ha => ?_, fun ti ht => ?_⟩
  · obtain ⟨held, wait, ninth⟩ := bufferStores_spec (i := i) (s0 := advance i u s) h.1 size pol
      (fun k => storeData u (advance i u s) k r size) as rfl
    refine ⟨fun hf hr => ?_, fun hf => ?_, fun hf hr => ?_⟩
    · obtain ⟨t, ht, only, tables, acts⟩ := held hf hr
      simp only [storeData, rdN_advance] at acts
      have hl : (advance i u s).l1 = s.l1 := by rw [advance_only h.1]
      exact ends_of h (hx s) (by rw [he, ha, ht]) ⟨only.trans (by rw [hl]), tables, acts⟩
    · exact (hx s).trans (execUnit_trap h (by rw [he, ha, ninth hf]; rfl))
    · exact parks_of h hx (by rw [he, ha, wait hf hr])
  · exact (hx s).trans (execUnit_trap h (by rw [he, ht]; rfl))

/-- Settles O16: `bufferStores_spec` gives the three ends of a store whose lanes pass their checks, which a failed check replaces by
its trap. -/
theorem storesAreHeld : Obligations.storesAreHeld := by
  unfold Obligations.storesAreHeld
  refine ⟨fun o => ?_, fun o => ?_, fun o => ?_⟩
  · have glob (i : Instr) (size : Nat) (hx : ∀ s, exec i s = execUnit i (storeGlobal i o size) s) :
        StoresAt i o.t.toNat size o.cp.toNat fun u s k =>
          accGlobal u s (u.rd64 s k o.b.toNat + BitVec.ofInt 64 (immOf i u.pfx * size)) size .store :=
      storesAt_of hx fun u s => rfl
    exact ⟨glob _ 1 fun _ => exec_stB .., glob _ 2 fun _ => exec_stH .., glob _ 4 fun _ => exec_stW ..,
      glob _ 8 fun _ => exec_stD .., glob _ 16 fun _ => exec_stQ ..⟩
  · have h : StoresAt (.sts o) o.t.toNat (widthBytes o.w) 0 fun u s k =>
        accPad u s (padOff (.sts o) u s o.o (widthBytes o.w) k) (widthBytes o.w) :=
      storesAt_of (fun _ => exec_sts o _) fun u s => rfl
    exact h
  · have h : StoresAt (.stp o) o.t.toNat (widthBytes o.w) 0 fun u s k =>
        accPeer u s o.rank.toNat (padOff (.stp o) u s o.o (widthBytes o.w) k) (widthBytes o.w) :=
      storesAt_of (fun _ => exec_stp o _) fun u s => rfl
    exact h

end Sys2Proof.Machine
end

section
/-! The checks of an access (R84, R85, R206): their order, the lanes that a trap of theirs names, and the place of an access that
passes them. -/

namespace Sys2Proof.Machine

/-! ## The order of failed checks -/

theorem Cause.code_bounds (c : Cause) : 1 ≤ c.code ∧ c.code ≤ 25 := by
  cases c <;> decide

/-- The causes in the order of their codes (Table 18-1). -/
def Cause.ofCode (n : Nat) : Cause :=
  [.illegalOp, .illegalPfx, .privileged, .misaligned, .deadRead, .unsettledRead, .regionFull, .reentryLimit, .pageFault, .protection,
    .bounds, .tileOob, .peerAbsent, .multiDeny, .ruNocache, .ruFault, .ruUndefined, .btFault, .barrierMismatch, .breakpoint,
    .software, .uncorrectable, .ctxBudget, .tileSplit, .watchdog].getD (n - 1) .software

theorem Cause.ofCode_code (c : Cause) : Cause.ofCode c.code = c := by
  cases c <;> rfl

theorem Cause.code_inj {c d : Cause} (h : c.code = d.code) : c = d := by
  rw [← c.ofCode_code, h, d.ofCode_code]

/-- Within a step of R206 an absent page comes first, then the causes by their codes. -/
def Cause.place (c : Cause) : Nat := if c = .pageFault then 0 else c.code

theorem Cause.place_le (c : Cause) : c.place ≤ 25 := by
  unfold Cause.place
  have := c.code_bounds
  split <;> omega

theorem Cause.place_inj {c d : Cause} (h : c.place = d.place) : c = d := by
  have hc := c.code_bounds
  have hd := d.code_bounds
  unfold Cause.place at h
  by_cases h1 : c = .pageFault <;> by_cases h2 : d = .pageFault
  · rw [h1, h2]
  · rw [if_pos h1, if_neg h2] at h; omega
  · rw [if_neg h1, if_pos h2] at h; omega
  · rw [if_neg h1, if_neg h2] at h; exact Cause.code_inj h

theorem XFault.order_eq (x : XFault) : x.order = 32 * x.rank + x.cause.place := by
  simp only [XFault.order, Cause.place, beq_iff_eq]

theorem XFault.order_lt {x y : XFault} (h : x.rank < y.rank) : x.order < y.order := by
  have := x.cause.place_le
  rw [x.order_eq, y.order_eq]
  omega

/-- Checks of one place in the order are of one step and have one cause. -/
theorem XFault.of_order_eq {x y : XFault} (h : x.order = y.order) : x.rank = y.rank ∧ x.cause = y.cause := by
  have hx := x.cause.place_le
  have hy := y.cause.place_le
  rw [x.order_eq, y.order_eq] at h
  exact ⟨by omega, Cause.place_inj (by omega)⟩

/-! ## The trap of failed checks -/

theorem foldl_min_spec {l : List Nat} {a : Nat} (hne : l ≠ []) (hle : ∀ x ∈ l, x ≤ a) :
    l.foldl min a ∈ l ∧ ∀ x ∈ l, l.foldl min a ≤ x := by
  obtain ⟨m, hm⟩ := Option.isSome_iff_exists.1 (List.isSome_min?_of_ne_nil hne)
  obtain ⟨hmem, hlow⟩ := List.min?_eq_some_iff.1 hm
  rw [List.foldl_min, hm, Option.getD_some, min_eq_right (hle m hmem)]
  exact ⟨hmem, hlow⟩

/-- The trap of failed checks names the first check in the order, the first lane that failed it with its address, and every lane that
failed it (R85). -/
theorem failTrap_spec (u : Issue) (wr : Bool) {fs : List (Nat × XFault)} (hne : fs ≠ []) (hle : ∀ y ∈ fs, y.2.order ≤ 9999) :
    ∃ k x, fs.find? (fun y => y.2.order == x.order) = some (k, x) ∧ (∀ y ∈ fs, x.order ≤ y.2.order) ∧
      failTrap u wr fs = { cause := x.cause, lanes := (fs.filter fun y => y.2.order == x.order).map Prod.fst, fpc := u.upc, faddr := x.va
                           cxid := x.cxid, wr := wr && !x.walk, walk := x.walk, reads := fs.flatMap fun y => y.2.reads } := by
  obtain ⟨hmem, hlow⟩ := foldl_min_spec (l := fs.map fun y => y.2.order) (a := 9999) (by simpa using hne) (List.forall_mem_map.2 hle)
  generalize hm : (fs.map fun y => y.2.order).foldl min 9999 = m at hmem hlow
  obtain ⟨y, hy, hym⟩ := List.mem_map.1 hmem
  obtain ⟨⟨k, x⟩, r, hf⟩ := List.exists_cons_of_ne_nil
    (List.ne_nil_of_mem (List.mem_filter.2 ⟨hy, beq_iff_eq.2 hym⟩ : y ∈ fs.filter fun y => y.2.order == m))
  have hfind : fs.find? (fun y => y.2.order == m) = some (k, x) := by rw [← List.head?_filter, hf]; rfl
  obtain rfl : x.order = m := by simpa using List.find?_some hfind
  refine ⟨k, x, hfind, fun y hy => hlow _ (List.mem_map_of_mem hy), ?_⟩
  simp only [failTrap, hm, hf, List.map_cons]

/-! ## The checks of all lanes -/

section
variable {α : Type} {u : Issue} {wr : Bool} {ls : List Nat} {f : Nat → Except XFault α}

/-- The lanes that fail their checks, each with its fault. -/
def failures (ls : List Nat) (f : Nat → Except XFault α) : List (Nat × XFault) :=
  (ls.map fun t => (t, f t)).filterMap fun x => match x.2 with
    | .error e => some (x.1, e)
    | .ok _ => none

theorem mem_failures {k : Nat} {x : XFault} : (k, x) ∈ failures ls f ↔ k ∈ ls ∧ f k = .error x := by
  simp only [failures, List.mem_filterMap, List.mem_map]
  constructor
  · rintro ⟨-, ⟨t, ht, rfl⟩, h⟩
    cases hf : f t with
    | error e => simp only [hf, Option.some.injEq, Prod.mk.injEq] at h; obtain ⟨rfl, rfl⟩ := h; exact ⟨ht, hf⟩
    | ok a => simp [hf] at h
  · rintro ⟨hk, hf⟩
    exact ⟨_, ⟨k, hk, rfl⟩, by simp [hf]⟩

theorem failures_fst_sublist : ((failures ls f).map Prod.fst).Sublist ls := by
  induction ls with
  | nil => exact .slnil
  | cons t ls ih =>
    simp only [failures, List.map_cons, List.filterMap_cons] at ih ⊢
    cases f t with
    | error e => exact ih.cons_cons t
    | ok a => exact ih.cons t

/-- The places that lanes pass their checks with. -/
theorem checkLanes_ok_mem {as : List (Nat × α)} (h : checkLanes u wr ls f = .ok as) {x : Nat × α} (hx : x ∈ as) :
    f x.1 = .ok x.2 := by
  simp only [checkLanes] at h
  split at h
  · cases h
    obtain ⟨y, hm, he⟩ := List.mem_filterMap.1 hx
    obtain ⟨t, -, rfl⟩ := List.mem_map.1 hm
    cases hf : f t with
    | error e => simp [hf] at he
    | ok a => simp only [hf, Option.some.injEq] at he; subst he; exact hf
  · cases h

/-- All lanes pass, exactly where there is a place for each of them, in order. -/
theorem checkLanes_eq_ok {as : List (Nat × α)} :
    checkLanes u wr ls f = .ok as ↔ ls.map f = as.map (fun x => .ok x.2) ∧ as.map Prod.fst = ls := by
  constructor
  · intro h
    have hl := checkLanes_lanes h
    refine ⟨?_, hl⟩
    rw [← hl, List.map_map]
    exact List.map_congr_left fun x hx => checkLanes_ok_mem h hx
  · rintro ⟨hf, rfl⟩
    have hrs : ((as.map Prod.fst).map fun t => (t, f t)) = as.map fun x => (x.1, Except.ok x.2) := by
      rw [List.map_map, List.map_inj_left] at *
      intro x hx
      exact congrArg (x.1, ·) (hf x hx)
    have hb : ∀ as : List (Nat × α), (as.filterMap fun _ => (none : Option (Nat × XFault))) = [] := by simp
    simp only [checkLanes, hrs, List.filterMap_map, Function.comp_def, hb, List.isEmpty_nil, if_true, Prod.mk.eta, List.filterMap_some]

/-- A lane fails: the unit traps with the failures of all lanes. -/
theorem checkLanes_eq_error {ti : TrapInfo} (h : checkLanes u wr ls f = .error ti) :
    failures ls f ≠ [] ∧ ti = failTrap u wr (failures ls f) := by
  simp only [checkLanes] at h
  split at h
  · cases h
  · next hb =>
    cases h
    exact ⟨fun h0 => hb (List.isEmpty_iff.2 h0), rfl⟩

end

/-- The trap of a failed lane (R85). -/
theorem checkLanes_trap {u : Issue} {wr : Bool} {ls : List Nat} {f : Nat → Except XFault Acc} {ti : TrapInfo}
    (hls : ls.Pairwise (· < ·)) (hrank : ∀ k ∈ ls, ∀ x, f k = .error x → x.rank ≤ 99) (h : checkLanes u wr ls f = .error ti) :
    ∃ k x, k ∈ ls ∧ f k = .error x ∧ (∀ j ∈ ls, ∀ y, f j = .error y → x.order ≤ y.order) ∧
      (∀ j, j ∈ ti.lanes ↔ j ∈ ls ∧ ∃ y, f j = .error y ∧ y.order = x.order) ∧ k ∈ ti.lanes ∧ (∀ j ∈ ti.lanes, k ≤ j) ∧
      ti.lanes.Pairwise (· < ·) ∧ ti.cause = x.cause ∧ ti.faddr = x.va ∧ ti.fpc = u.upc ∧ ti.cxid = x.cxid ∧
      ti.wr = (wr && !x.walk) := by
  obtain ⟨hne, rfl⟩ := checkLanes_eq_error h
  have hle : ∀ y ∈ failures ls f, y.2.order ≤ 9999 := fun ⟨j, y⟩ hy => by
    obtain ⟨hj, he⟩ := mem_failures.1 hy
    have := hrank j hj y he
    have := y.cause.place_le
    rw [y.order_eq]
    omega
  obtain ⟨k, x, hfind, hlow, he⟩ := failTrap_spec u wr hne hle
  obtain ⟨hk, hfk⟩ := mem_failures.1 (List.mem_of_find?_eq_some hfind)
  have hlanes : (failTrap u wr (failures ls f)).lanes =
      ((failures ls f).filter fun y => y.2.order == x.order).map Prod.fst := by rw [he]
  have hpair : ((failTrap u wr (failures ls f)).lanes).Pairwise (· < ·) := by
    rw [hlanes]
    exact hls.sublist ((List.filter_sublist.map _).trans failures_fst_sublist)
  obtain ⟨r, hr⟩ : ∃ r, (failTrap u wr (failures ls f)).lanes = k :: r := by
    rw [← List.head?_filter] at hfind
    obtain ⟨r, hr⟩ := List.head?_eq_some_iff.1 hfind
    exact ⟨r.map Prod.fst, by rw [hlanes, hr]; rfl⟩
  refine ⟨k, x, hk, hfk, fun j hj y hy => hlow (j, y) (mem_failures.2 ⟨hj, hy⟩), fun j => ?_, by simp [hr], fun j hj => ?_,
    hpair, by rw [he], by rw [he], by rw [he], by rw [he], by rw [he]⟩
  · simp only [hlanes, List.mem_map, List.mem_filter, Prod.exists, beq_iff_eq, mem_failures]
    constructor
    · rintro ⟨_, y, ⟨⟨hj, hy⟩, ho⟩, rfl⟩
      exact ⟨hj, y, hy, ho⟩
    · rintro ⟨hj, y, hy, ho⟩
      exact ⟨j, y, ⟨⟨hj, hy⟩, ho⟩, rfl⟩
  · rw [hr] at hpair hj
    rcases List.mem_cons.1 hj with rfl | hj
    · exact le_rfl
    · exact Nat.le_of_lt ((List.pairwise_cons.1 hpair).1 j hj)

/-! ## A global access -/

section
variable {s : State} {cx size : Nat} {va : DWord} {need : Need}

theorem gcheck_misaligned (h : va.toNat % size ≠ 0) :
    gcheck s cx va size need = .error { cause := .misaligned, cxid := cx, va := va, rank := 0 } := if_pos h

theorem gcheck_not_canonical (h : va.toNat % size = 0) (hc : canonical va = false) :
    gcheck s cx va size need = .error { cause := .protection, cxid := cx, va := va, rank := 1 } := by
  simp [gcheck, gaccess, h, hc]

/-- An access that passes is aligned and canonical, and its place is the one that the composed entry gives. -/
theorem gcheck_ok {p : Spot} (h : gcheck s cx va size need = .ok p) : va.toNat % size = 0 ∧ canonical va = true ∧
    ∃ e, compose s cx va = .ok e ∧ p = { b := e.b, off := e.off + va.toNat % 65536, owner := e.owner, ent := e } := by
  unfold gcheck gaccess at h
  split at h
  · cases h
  · next ha =>
    split at h
    · cases h
    · next hc =>
      cases he : compose s cx va with
      | error f => simp [he] at h
      | ok e =>
        simp only [he] at h
        split at h
        · cases h
        · cases h
          exact ⟨not_not.1 ha, by simpa using hc, e, rfl, rfl⟩

end

/-! ## Statement -/

/-- Settles O17: `checkLanes_eq_ok` and `checkLanes_trap` say when lanes pass and how they trap; a global access is `gcheck`, in the
order of its branches. -/
theorem accessChecksInOrder : Obligations.accessChecksInOrder := by
  unfold Obligations.accessChecksInOrder
  refine ⟨fun u wr ls f hls hrank => ⟨fun as => checkLanes_eq_ok, fun ti => checkLanes_trap hls hrank⟩,
    fun x y => ⟨XFault.order_lt, XFault.of_order_eq, fun hr hc => ?absent⟩, fun s cx va size need =>
    ⟨fun h => ⟨_, gcheck_misaligned h, rfl, rfl⟩, fun h hc => ⟨_, gcheck_not_canonical h hc, rfl, rfl⟩, fun p h => ?place⟩⟩
  case absent =>
    rw [x.order_eq, y.order_eq, hr, hc]
    exact Nat.add_le_add_left (Nat.zero_le _) _
  case place =>
    obtain ⟨ha, hc, e, he, rfl⟩ := gcheck_ok h
    exact ⟨ha, hc, e, he, rfl, rfl⟩

end Sys2Proof.Machine
end

section
/-! Changes of one group, thread by thread: one after the other, and as the effect of a unit. -/

namespace Sys2Proof.Machine

/-- From s to t a resident group g becomes g', which is `G` of g with its thread k become `F k` of itself; no other group changes. -/
structure GroupBy (n : Nat) (s t : State) (g g' : Group) (G : Group → Group) (F : Nat → Thread → Thread) : Prop where
  moved : GroupTo n s t g g'
  rest : g' = { G g with threads := g'.threads }
  size : g'.threads.length = g.threads.length
  thr : ∀ k, k < g.threads.length → g'.thr k = F k (g.thr k)

theorem GroupBy.refl {s : State} {n : Nat} {g : Group} (h : (s.groups.find? fun x => x.gid == n) = some g) :
    GroupBy n s s g g id fun _ th => th := ⟨.refl h, rfl, rfl, fun _ _ => rfl⟩

/-- Two changes, the second of which does not look at threads in what it makes of the rest of the group. -/
theorem GroupBy.trans {n : Nat} {s t r : State} {g g' g'' : Group} {G H : Group → Group} {F f : Nat → Thread → Thread}
    (h : GroupBy n s t g g' G F) (k : GroupBy n t r g' g'' H f)
    (hH : ∀ (g : Group) ts ts', { H { g with threads := ts } with threads := ts' } = { H g with threads := ts' }) :
    GroupBy n s r g g'' (fun g => H (G g)) fun k th => f k (F k th) := by
  refine ⟨h.moved.trans k.moved, k.rest.trans ?_, k.size.trans h.size, fun j hj => ?_⟩
  · rw [h.rest, hH]
  · rw [k.thr j (by rw [h.size]; exact hj), h.thr j hj]

/-- A state with the same groups and blocks. -/
theorem GroupBy.same {n : Nat} {s t r : State} {g g' : Group} {G : Group → Group} {F : Nat → Thread → Thread}
    (h : GroupBy n s t g g' G F) (hg : r.groups = t.groups) (hb : r.blocks = t.blocks) : GroupBy n s r g g' G F :=
  ⟨h.moved.same hg hb, h.rest, h.size, h.thr⟩

/-- An update of the group's threads, each by its index, and of the rest of the group. -/
theorem groupBy_updGrp {s : State} {n : Nat} {g : Group} {G : Group → Group} {F : Nat → Thread → Thread} {f : Group → Group}
    (h : (s.groups.find? fun x => x.gid == n) = some g) (hf : ∀ x, f x = { G x with threads := x.threads.mapIdx F })
    (hG : ∀ x, (G x).gid = x.gid) : GroupBy n s (s.updGrp n f) g (f g) G F := by
  refine ⟨(OneGroup.of_updGrp f (fun x => by rw [hf]; exact hG x) h).to, by rw [hf], by simp [hf], fun k hk => ?_⟩
  simp only [hf, Group.thr, List.getD_eq_getElem?_getD, List.getElem?_mapIdx, List.getElem?_eq_getElem hk, Option.map_some,
    Option.getD_some]

/-- A unit's threads pass it. -/
theorem advance_by {i : Instr} {u : Issue} {s : State} (h : s.issue? = some u) :
    ∃ g, GroupBy u.gid s (advance i u s) u.grp g id (passed i u) := by
  obtain ⟨g, o, rest, len, thr⟩ := advance_spec i u s (State.issue?_spec h).1
  exact ⟨g, o.to, rest, len, thr⟩

/-- What has become of a unit's group is the effect of the unit on it. -/
theorem GroupBy.acts {i : Instr} {u : Issue} {s t : State} {g : Group} {G : Group → Group} {F f : Nat → Thread → Thread}
    (h : GroupBy u.gid s t u.grp g G F) (hf : ∀ k th, F k th = f k (passed i u k th)) : Acts i u s t G f :=
  ⟨h.moved.others, g, State.grp?_of_find h.moved.new, h.rest, h.size, fun k hk => (h.thr k hk).trans (hf k _)⟩

/-- Active threads that change, each by its index. -/
theorem updAct_by {u : Issue} {s : State} {g : Group} (h : (s.groups.find? fun x => x.gid == u.gid) = some g)
    (f : Nat → Thread → Thread) : ∃ g', GroupBy u.gid s (updAct u s f) g g' id (onAct u f) :=
  ⟨_, groupBy_updGrp h (fun _ => rfl) fun _ => rfl⟩

theorem updAct_only {u : Issue} {s : State} {g : Group} (h : (s.groups.find? fun x => x.gid == u.gid) = some g)
    (f : Nat → Thread → Thread) : updAct u s f = { s with groups := (updAct u s f).groups } :=
  (OneGroup.of_updGrp (fun g => g.updThrs' u.act f) (fun _ => rfl) h).only

/-! ## One thread of a group -/

theorem Group.thr_updThr (g : Group) (t : Nat) (f : Thread → Thread) {k : Nat} (hk : k < g.threads.length) :
    (g.updThr t f).thr k = if k = t then f (g.thr k) else g.thr k := by
  simp only [Group.thr, Group.updThr, List.getD_eq_getElem?_getD, List.getElem?_modify, List.getElem?_eq_getElem hk,
    eq_comm (a := t)]
  split <;> rfl

theorem Group.length_updThr (g : Group) (t : Nat) (f : Thread → Thread) :
    (g.updThr t f).threads.length = g.threads.length := List.length_modify ..

end Sys2Proof.Machine
end

section
/-! Tile accesses (R211, R301): the shape record, the lanes inside the extents, and the loads and stores that they make. -/

namespace Sys2Proof.Machine

/-! ## Loads and stores that start from any state -/

/-- Loads that lanes start: results on their way in one group, and requests. -/
theorem startLoads_at {u : Issue} {s : State} {g : Group} (hg : (s.groups.find? fun x => x.gid == u.gid) = some g)
    (d size pol : Nat) (as : List (Nat × Acc)) :
    let t := startLoads u s d size pol as
    ∃ rs g', t = { s with groups := t.groups, tlb := t.tlb, lastPages := t.lastPages, frames := t.frames, reqs := s.reqs ++ rs
                          ticket := t.ticket, nextId := s.nextId + u.act.length + rs.length } ∧
      GroupBy u.gid s t g g' id (allPending u s.nextId (fun k => ((List.range (sizeRegs size)).map (d + ·),
          List.replicate (sizeRegs size) (if as.any fun x => x.1 == k then none else some 0))) true) ∧
      Made u pol (fun _ => .load) (piecesOf size as) rs := by
  obtain ⟨hc, -⟩ := cacheAccs_spec u s as
  let r : Nat → List Nat × List (Option Word) := fun t => ((List.range (sizeRegs size)).map fun k => d + k,
    (List.range (sizeRegs size)).map fun _ => if as.any (fun x => x.1 == t) then none else some 0)
  have hr : r = fun k => ((List.range (sizeRegs size)).map (d + ·),
      List.replicate (sizeRegs size) (if as.any fun x => x.1 == k then none else some 0)) := by
    funext k
    simp only [r, List.map_const', List.length_range]
  have hn : ((cacheAccs u s as).groups.find? fun x => x.gid == u.gid) = some g := by rw [hc]; exact hg
  obtain ⟨g', o, e, rest, len, thr⟩ := addPends_spec u (cacheAccs u s as) r true false g hn
  let rs0 := loadReqs u (cacheAccs u s as).nextId size u.pfx.ord.1 u.pfx.ord.2 pol (addPends u (cacheAccs u s as) r true).nextId as
  obtain ⟨rs, ea, places, -, mem⟩ := addReqs_spec (addPends u (cacheAccs u s as) r true) rs0
  have hlen : rs0.length = rs.length := by simpa using (congrArg List.length places).symm
  have ht : startLoads u s d size pol as = addReqs (addPends u (cacheAccs u s as) r true) rs0 := rfl
  refine ⟨rs, g', ?_, ⟨?_, rest, len, fun k hk => ?_⟩, places.trans ?_, fun q hq => ?_⟩
  · rw [ht, ea, hlen, e, hc]
  · have ho : GroupTo u.gid s (cacheAccs u s as) g g := (GroupTo.refl hg).same (by rw [hc]) (by rw [hc])
    rw [ht]
    refine (ho.trans o).same ?_ ?_ <;> rw [ea]
  · rw [thr k hk, hr]
    rw [hc]
  · simp [rs0, loadReqs, piecesOf, Req.place, mkReq, List.map_flatMap, Function.comp_def]
  · obtain ⟨q', hq', n, k, rfl⟩ := mem q hq
    simp only [rs0, loadReqs, List.mem_flatMap, List.mem_map] at hq'
    obtain ⟨x, hx, p, hp, rfl⟩ := hq'
    simp [mkReq]

/-- Stores that lanes hold, where no thread has held eight and the buffer has room. -/
theorem bufferStores_at {u : Issue} {s : State} {g : Group} (hg : (s.groups.find? fun x => x.gid == u.gid) = some g)
    (size pol : Nat) (data : Nat → BitVec 128) (as : List (Nat × Acc)) (hf : ∀ k ∈ u.tids, (u.grp.thr k).nst < 8)
    (hr : chunkRoom s u.grp (u.act.length * size) = true) :
    ∃ t g', bufferStores u s size pol data (.ok as) = .ok t ∧
      t = { s with groups := t.groups, tlb := (cacheAccs u s as).tlb, lastPages := (cacheAccs u s as).lastPages
                   frames := (cacheAccs u s as).frames, nextId := s.nextId + 1 } ∧
      GroupBy u.gid s t g g' (fun g => { g with held := chunkNeed s u.grp (u.act.length * size) })
        (holds u size pol s.nextId data as) := by
  obtain ⟨tl, lp, fr, hc⟩ : ∃ tl lp fr, cacheAccs u s as = { s with tlb := tl, lastPages := lp, frames := fr } :=
    ⟨_, _, _, (cacheAccs_spec u s as).1⟩
  have hfull : (u.tids.filter fun k => decide (8 ≤ (u.grp.thr k).nst)) = [] :=
    List.filter_eq_nil_iff.2 fun k hk => by simpa using hf k hk
  let f : Group → Group := fun g => { g with
    held := chunkNeed s u.grp (u.act.length * size)
    threads := g.threads.mapIdx fun k th => holds u size pol s.nextId data as k th }
  obtain ⟨o, rest, len, thr⟩ := groupBy_updGrp (s := { s with tlb := tl, lastPages := lp, frames := fr })
    (G := fun g => { g with held := chunkNeed s u.grp (u.act.length * size) }) (F := holds u size pol s.nextId data as) (f := f)
    hg (fun _ => rfl) fun _ => rfl
  refine ⟨{ ({ s with tlb := tl, lastPages := lp, frames := fr } : State).updGrp u.gid f with nextId := s.nextId + 1 }, f g, ?_, ?_,
    ⟨hg, o.new, o.others⟩, rest, len, thr⟩
  · simp only [bufferStores, hfull, hr, hc, List.isEmpty_nil, Bool.not_true, Bool.false_eq_true, if_false, updGrp_fields]
    rfl
  · have ho := (OneGroup.of_updGrp (s := { s with tlb := tl, lastPages := lp, frames := fr }) f (fun _ => rfl) hg).only
    rw [ho, hc]

/-! ## Room for stores -/

/-- Room in the store buffer rests on requests, and on what groups hold, where they are placed and how old they are. -/
theorem chunkRoom_congr {s t : State} {f : Group → Group} (hg : t.groups = s.groups.map f) (hq : t.reqs = s.reqs)
    (hf : ∀ x, (f x).core = x.core ∧ (f x).part = x.part ∧ (f x).held = x.held ∧ (f x).born = x.born ∧ (f x).g = x.g)
    (g : Group) (bytes : Nat) : chunkNeed t g bytes = chunkNeed s g bytes ∧ chunkRoom t g bytes = chunkRoom s g bytes := by
  have hneed : chunkNeed t g bytes = chunkNeed s g bytes := by simp only [chunkNeed, bytesHeld, hq]
  have hold : oldestHolder t g = oldestHolder s g := by
    simp only [oldestHolder, hg, List.all_map, Function.comp_def, hf]
  have hused : chunksUsed t g = chunksUsed s g := by
    simp only [chunksUsed, hg, List.filter_map, List.map_map, Function.comp_def, hf]
  exact ⟨hneed, by simp only [chunkRoom, hneed, hold, hused]⟩

/-! ## The record that was read -/

theorem dropL1s_only (s : State) (core b k0 : Nat) (ks : List Nat) :
    ks.foldl (fun s k => dropL1 s core b (k0 + k)) s =
      { s with l1 := (ks.foldl (fun s k => dropL1 s core b (k0 + k)) s).l1 } := by
  induction ks generalizing s with
  | nil => rfl
  | cons k ks ih =>
    rw [List.foldl_cons, ih]
    rfl

/-- Reading a record takes its tokens, changes caches and frames, and has the lowest active thread know what it read; room in the
store buffer stays as it was. -/
theorem readTouch_spec {u : Issue} {s : State} {g : Group} (hg : (s.groups.find? fun x => x.gid == u.gid) = some g) (p : Spot)
    (n : Nat) :
    let t := readTouch u s p n
    t = { s with groups := t.groups, tlb := t.tlb, l1 := t.l1, frames := t.frames
                 ctxs := (takeTokens s u.grp.cxid (n / 32)).ctxs } ∧
    (∀ g bytes, chunkNeed t g bytes = chunkNeed s g bytes ∧ chunkRoom t g bytes = chunkRoom s g bytes) ∧
    ∃ g' v, GroupBy u.gid s t g g' id (hasRead u v) := by
  let s1 := touch (takeTokens s u.grp.cxid (n / 32)) p
  let s2 := (List.range (ceilDiv n 128)).foldl (fun s k => dropL1 s u.core p.b (p.off / 128 + k)) s1
  let kn := readFrom s2 (u.grp.agent u.low) 0 4 (readBefore s2 { b := p.b, off := p.off, n := n } 0 []).2
  let f : Group → Group := fun x => x.updThr u.low (Thread.learn s2.nextId kn)
  have h1 : s1 = { s with tlb := s1.tlb, frames := s1.frames, ctxs := (takeTokens s u.grp.cxid (n / 32)).ctxs } :=
    touch_only ..
  have h2 : s2 = { s1 with l1 := s2.l1 } := dropL1s_only ..
  have hs2 : s2 = { s with tlb := s2.tlb, l1 := s2.l1, frames := s2.frames
                           ctxs := (takeTokens s u.grp.cxid (n / 32)).ctxs } := by rw [h2, h1]
  have hn : (s2.groups.find? fun x => x.gid == u.gid) = some g := by rw [hs2]; exact hg
  have o : OneGroup u.gid s2 (readTouch u s p n) g (f g) := OneGroup.of_updGrp f (fun _ => rfl) hn
  have hgroups : (readTouch u s p n).groups = s.groups.map fun x => if x.gid == u.gid then f x else x := by
    refine (congrArg State.groups (State.updGrp_of_find f hn)).trans ?_
    rw [hs2]; rfl
  have hreqs : (readTouch u s p n).reqs = s.reqs := by rw [o.only, hs2]
  refine ⟨?_, chunkRoom_congr hgroups hreqs fun x => ?_, f g, (g.thr u.low).view.add s2.nextId kn, ?_, rfl,
    Group.length_updThr .., fun k hk => ?_⟩
  · rw [o.only, hs2]
  · split <;> exact ⟨rfl, rfl, rfl, rfl, rfl⟩
  · exact ((GroupTo.refl hg).same (by rw [hs2]) (by rw [hs2])).trans o.to
  · rw [Group.thr_updThr _ _ _ hk, hasRead]
    split
    · next h => rw [h]; rfl
    · rfl

/-! ## The shape record -/

/-- A shape record that has to wait is waited for as such. -/
theorem tileShape_retry {u : Issue} {s : State} {o : TLF} {wr : Bool} {w : Wait} (h : tileShape u s o wr = .error (.retry w)) :
    w = .record u.low (u.rd64 s u.low o.s.toNat) 64 := by
  unfold tileShape at h
  dsimp only at h
  split at h
  · cases h
  · split at h
    · cases h
    · cases h; rfl
    · repeat' split at h
      all_goals cases h

/-- What the checks of a shape record give (R301). -/
theorem tileShape_ok {u : Issue} {s : State} {o : TLF} {wr : Bool} {w : List Word} {p : Spot}
    (h : tileShape u s o wr = .ok (w, p)) :
    (u.rd64 s u.low o.s.toNat).toNat % 64 = 0 ∧ shapeOk w = true ∧ o.t.toNat % sizeRegs (shZ w) = 0 := by
  unfold tileShape at h
  dsimp only at h
  split at h
  · cases h
  · next ha =>
    split at h
    · cases h
    · cases h
    · split at h
      · cases h
      · next hs =>
        split at h
        · cases h
        · next hr =>
          split at h
          · cases h
          · cases h
            exact ⟨not_not.1 ha, by simpa using hs, not_not.1 fun hn => hr (.inl hn)⟩

/-- The dimensions and the element size of a legal shape record. -/
theorem bounds_of_shapeOk {w : List Word} (h : shapeOk w = true) : 1 ≤ shD w ∧ shD w ≤ 5 ∧ shZ w ≤ 16 := by
  simp only [shapeOk, Bool.and_eq_true, decide_eq_true_eq] at h
  obtain ⟨⟨⟨⟨⟨⟨hlo, hhi⟩, hz⟩, -⟩, -⟩, -⟩, -⟩ := h
  exact ⟨hlo, hhi, Nat.pow_le_pow_right (by norm_num) hz⟩

section
variable (i : Instr) (u : Issue) (s : State) (o : TLF) (w : List Word)

theorem tileInside_advance : tileInside u (advance i u s) o w = tileInside u s o w := by
  have hc : tileCoord u (advance i u s) o = tileCoord u s o := by
    funext k j
    simp only [tileCoord, rd_advance]
  funext k
  rw [tileInside, hc, tileInside]

theorem tileVa_advance : tileVa u (advance i u s) o w = tileVa u s o w := by
  have hc : tileCoord u (advance i u s) o = tileCoord u s o := by
    funext k j
    simp only [tileCoord, rd_advance]
  funext k
  rw [tileVa, hc, tileVa]

/-- The active lanes whose coordinates lie inside the extents. -/
def lanesInside : List Nat := u.act.filter fun k => tileInside u s o w k

/-- The active lanes whose coordinates lie outside the extents. -/
def lanesOutside : List Nat := u.act.filter fun k => !tileInside u s o w k

end

/-! ## TLD and TST -/

section
variable {o : TLF} {u : Issue} {s : State} {w : List Word} {p : Spot}

/-- Lanes outside the extents of a record that does not permit them trap (R211). -/
theorem tld_takes_outside (h : Issues (.tld o) u s) (ha : u.act ≠ []) (hs : tileShape u (advance (.tld o) u s) o false = .ok (w, p))
    (hout : lanesOutside u s o w ≠ []) (hp : shPermit w = false) : Takes (.tld o) u s .tileOob (lanesOutside u s o w) := by
  have he : u.act.isEmpty = false := by simpa using ha
  have hout : (u.act.filter fun k => !tileInside u s o w k).isEmpty = false := by simpa [lanesOutside] using hout
  refine (exec_tld o s).trans (execUnit_trap h ?_)
  simp only [he, hs, tileInside_advance, hout, hp]
  rfl

theorem tst_takes_outside (h : Issues (.tst o) u s) (ha : u.act ≠ []) (hs : tileShape u (advance (.tst o) u s) o true = .ok (w, p))
    (hout : lanesOutside u s o w ≠ []) (hp : shPermit w = false) :
    Takes (.tst o) u s .tileOob (lanesOutside u s o w) 0 true := by
  have he : u.act.isEmpty = false := by simpa using ha
  have hout : (u.act.filter fun k => !tileInside u s o w k).isEmpty = false := by simpa [lanesOutside] using hout
  refine (exec_tst o s).trans (execUnit_trap h ?_)
  simp only [he, hs, tileInside_advance, hout, hp]
  rfl

theorem permitted (hout : lanesOutside u s o w = [] ∨ shPermit w = true) :
    (!(u.act.filter fun k => !tileInside u s o w k).isEmpty && !shPermit w) = false := by
  rcases hout with hout | hout
  · rw [lanesOutside] at hout
    simp [hout]
  · simp [hout]

/-- An active lane has a place where it lies inside the extents. -/
theorem any_lanesInside {as : List (Nat × Acc)} (hl : as.map Prod.fst = lanesInside u s o w) {k : Nat} (hk : k ∈ u.act) :
    (as.any fun x => x.1 == k) = tileInside u s o w k := by
  have hm : k ∈ as.map Prod.fst ↔ tileInside u s o w k = true := by rw [hl, lanesInside, List.mem_filter]; simp [hk]
  rw [Bool.eq_iff_iff, ← hm]
  simp

theorem cacheAccs_nil (u : Issue) (s : State) : cacheAccs u s [] = s := rfl

/-- Where the lanes inside pass their checks, and the record permits those outside, the lanes inside load and the others get zeros
(R211). -/
theorem tld_loads {as : List (Nat × Acc)} (h : Issues (.tld o) u s) (ha : u.act ≠ [])
    (hs : tileShape u (advance (.tld o) u s) o false = .ok (w, p)) (hout : lanesOutside u s o w = [] ∨ shPermit w = true)
    (hl : checkLanes u false (lanesInside u s o w) (fun k =>
      accGlobal u (advance (.tld o) u s) (tileVa u s o w k) (shZ w) .load) = .ok as) :
    Ends (.tld o) u s fun t => ∃ rs v,
      t = { s with groups := t.groups, tlb := t.tlb, lastPages := t.lastPages, l1 := t.l1, frames := t.frames
                   ctxs := (takeTokens s u.grp.cxid 2).ctxs
                   reqs := s.reqs ++ rs, ticket := t.ticket, nextId := s.nextId + u.act.length + rs.length } ∧
      Acts (.tld o) u s t id (fun k th => allPending u s.nextId (fun k => ((List.range (sizeRegs (shZ w))).map (o.t.toNat + ·),
        List.replicate (sizeRegs (shZ w)) (if tileInside u s o w k then none else some 0))) true false k (hasRead u v k th)) ∧
      Made u u.pfx.cp (fun _ => .load) (piecesOf (shZ w) as) rs := by
  have he : u.act.isEmpty = false := by simpa using ha
  obtain ⟨g1, passed_⟩ := advance_by (i := .tld o) h.1
  obtain ⟨only, -, g2, v, read⟩ := readTouch_spec passed_.moved.new p 64
  obtain ⟨rs, g3, only', loads, made⟩ := startLoads_at read.moved.new o.t.toNat (shZ w) u.pfx.cp as
  have hid : (readTouch u (advance (.tld o) u s) p 64).nextId = s.nextId := by rw [only, advance_only h.1]
  rw [hid] at loads
  refine ends_of h (exec_tld o s) (s1 := startLoads u (readTouch u (advance (.tld o) u s) p 64) o.t.toNat (shZ w) u.pfx.cp as)
    ?_ ⟨rs, v, ?_, ?_, made⟩
  · rw [lanesInside] at hl
    simp only [he, hs, tileInside_advance, tileVa_advance, permitted hout, hl]
    rfl
  · rw [only', only, advance_only h.1]
    rfl
  · refine ((passed_.trans read fun _ _ _ => rfl).trans loads fun _ _ _ => rfl).acts fun k th => allPending_congr fun j hj => ?_
    rw [any_lanesInside (checkLanes_lanes hl) hj]

/-- Where the lanes inside pass their checks, and the record permits those outside, the lanes inside hold a store (R211). -/
theorem tst_holds {as : List (Nat × Acc)} (h : Issues (.tst o) u s) (ha : u.act ≠ [])
    (hs : tileShape u (advance (.tst o) u s) o true = .ok (w, p)) (hout : lanesOutside u s o w = [] ∨ shPermit w = true)
    (hl : checkLanes u true (lanesInside u s o w) (fun k =>
      accGlobal u (advance (.tst o) u s) (tileVa u s o w k) (shZ w) .store) = .ok as)
    (hf : ∀ k ∈ u.tids, (u.grp.thr k).nst < 8) (hr : chunkRoom (advance (.tst o) u s) u.grp (u.act.length * shZ w) = true) :
    Ends (.tst o) u s fun t => ∃ v,
      t = { s with groups := t.groups, tlb := t.tlb, lastPages := t.lastPages, l1 := t.l1, frames := t.frames
                   ctxs := (takeTokens s u.grp.cxid 2).ctxs, nextId := s.nextId + 1 } ∧
      Acts (.tst o) u s t (fun g => { g with held := chunkNeed s u.grp (u.act.length * shZ w) })
        (fun k th => holds u (shZ w) u.pfx.cp s.nextId (fun k => storeData u s k o.t.toNat (shZ w)) as k (hasRead u v k th)) := by
  have he : u.act.isEmpty = false := by simpa using ha
  have hdata : storeData u (advance (.tst o) u s) = storeData u s := by
    funext k r size
    simp only [storeData, rdN_advance]
  obtain ⟨g1, passed_⟩ := advance_by (i := .tst o) h.1
  obtain ⟨only, room, g2, v, read⟩ := readTouch_spec passed_.moved.new p 64
  obtain ⟨t, g3, ht, only', held⟩ := bufferStores_at read.moved.new (shZ w) u.pfx.cp
    (fun k => storeData u s k o.t.toNat (shZ w)) as hf ((room ..).2.trans hr)
  have hid : (readTouch u (advance (.tst o) u s) p 64).nextId = s.nextId := by rw [only, advance_only h.1]
  have hneed (g : Group) (n : Nat) : chunkNeed (readTouch u (advance (.tst o) u s) p 64) g n = chunkNeed s g n := by
    rw [(room g n).1, advance_only h.1]
    rfl
  rw [hid, hneed] at held
  refine ends_of h (exec_tst o s) (s1 := t) ?_ ⟨v, ?_, ?_⟩
  · rw [lanesInside] at hl
    simp only [he, hs, tileInside_advance, tileVa_advance, permitted hout, hl, hdata]
    exact ht
  · rw [only', only, advance_only h.1]
    rfl
  · exact ((passed_.trans read fun _ _ _ => rfl).trans held fun _ _ _ => rfl).acts fun _ _ => rfl

/-- A TST without an active lane only counts as a store of its threads. -/
theorem tst_counts (h : Issues (.tst o) u s) (ha : u.act = []) (hf : ∀ k ∈ u.tids, (u.grp.thr k).nst < 8)
    (hr : chunkRoom (advance (.tst o) u s) u.grp 0 = true) : Ends (.tst o) u s fun t =>
      t = { s with groups := t.groups, nextId := s.nextId + 1 } ∧
      Acts (.tst o) u s t (fun g => { g with held := chunkNeed s u.grp 0 })
        fun k th => if u.tids.contains k then { th with nst := th.nst + 1 } else th := by
  have h0 : u.act.length * 1 = 0 := by simp [ha]
  obtain ⟨g1, passed_⟩ := advance_by (i := .tst o) h.1
  obtain ⟨t, g2, ht, only, held⟩ := bufferStores_at passed_.moved.new 1 0 (fun _ => 0) [] hf (by rw [h0]; exact hr)
  have hneed : chunkNeed (advance (.tst o) u s) u.grp (u.act.length * 1) = chunkNeed s u.grp 0 := by
    rw [h0, advance_only h.1]
    rfl
  rw [hneed] at held
  refine ends_of h (exec_tst o s) (s1 := t) ?_ ⟨?_, (passed_.trans held fun _ _ _ => rfl).acts fun k th => ?_⟩
  · simp only [ha, List.isEmpty_nil, if_true]
    exact ht
  · rw [only, cacheAccs_nil, advance_only h.1]
  · simp only [holds, List.filter_nil, List.map_nil, List.append_nil]

end

/-! ## Statement -/

/-- Settles O25: the record fails or waits as `tileShape` says; with a record, lanes outside trap, and those inside load or hold a
store as lanes with places of their own do. -/
theorem tileAccesses : Obligations.tileAccesses := by
  unfold Obligations.tileAccesses
  refine ⟨fun o => ?idle, fun o u s h ha => tst_counts h ha, fun o => ⟨fun u s h ha => ⟨fun ti ht => ?tldTrap, fun w hw => ?tldWait⟩,
    fun u s h ha => ⟨fun ti ht => ?tstTrap, fun w hw => ?tstWait⟩⟩,
    fun o u s w p h ha hs => ⟨tld_takes_outside h ha hs, fun hout as => tld_loads h ha hs hout⟩,
    fun o u s w p h ha hs => ⟨tst_takes_outside h ha hs, fun hout as => tst_holds h ha hs hout⟩,
    fun o u s w p wr hs => ?shape⟩
  case idle =>
    refine transforms_of _ (fun s => exec_tld o s) rfl rfl fun u s _ ha => ?_
    rw [updAct_self]
    exact if_pos (by simp [ha])
  case tldTrap =>
    refine (exec_tld o s).trans (execUnit_trap h ?_)
    simp only [List.isEmpty_iff, ha, if_false, ht]
  case tldWait =>
    refine ⟨(tileShape_retry hw).trans (by rw [rd64_advance]), parks_of h (fun s => exec_tld o s) ?_⟩
    simp only [List.isEmpty_iff, ha, if_false, hw]
  case tstTrap =>
    refine (exec_tst o s).trans (execUnit_trap h ?_)
    simp only [List.isEmpty_iff, ha, if_false, ht]
  case tstWait =>
    refine ⟨(tileShape_retry hw).trans (by rw [rd64_advance]), parks_of h (fun s => exec_tst o s) ?_⟩
    simp only [List.isEmpty_iff, ha, if_false, hw]
  case shape =>
    obtain ⟨haligned, hok, hregs⟩ := tileShape_ok hs
    obtain ⟨hlo, hhi, hz⟩ := bounds_of_shapeOk hok
    exact ⟨haligned, hok, hlo, hhi, hz, hregs⟩

end Sys2Proof.Machine
end

section
/-! Transfers as issued (R287, R302 to R306): BTX.START and TCOPY start an operation of their channel, and AMTEST tests a word. -/

namespace Sys2Proof.Machine

/-! ## The faults of a translation -/

/-- A walk of the stages fails in the translation, where its table reads do (R206). -/
theorem walkStages_rank {rd : Nat → Except XFault TabRead} (hrd : ∀ t f, rd t = .error f → f.rank = 2) {c : Ctx} {va : Nat}
    {via : List Hop} {reads : List (Nat × Nat)} {stages : List Nat} {t : Nat} {f : XFault}
    (h : walkStages rd c va via reads stages t = .error f) : f.rank = 2 := by
  induction stages generalizing via reads t with
  | nil => cases h; rfl
  | cons stage more ih =>
    unfold walkStages at h
    split at h
    · next f' hf =>
      cases h
      exact hrd _ f' hf
    · dsimp only at h
      split at h
      · cases h; rfl
      · split at h
        · cases h; rfl
        · split at h
          · cases h
          · exact ih h

theorem rootEntry_rank {s : State} {cx va t : Nat} {f : XFault} (h : rootEntry s cx va t = .error f) : f.rank = 2 := by
  unfold rootEntry at h
  dsimp only at h
  split at h
  · cases h; rfl
  · split at h
    · cases h; rfl
    · split at h <;> cases h
      rfl

/-- A composed walk fails in the translation, at whichever context of the chain (R206, R362). -/
theorem xlate_rank {s : State} {n cx va : Nat} {f : XFault} (h : xlate s n cx va = .error f) : f.rank = 2 := by
  induction n generalizing cx va f with
  | zero => cases h; rfl
  | succ n ih =>
    unfold xlate at h
    split at h
    · cases h; rfl
    · dsimp only at h
      split at h
      · next hw =>
        cases h
        refine walkStages_rank (fun t f hf => ?_) hw
        split at hf
        · cases hf
        · split at hf
          · exact rootEntry_rank hf
          · split at hf
            · cases hf; rfl
            · split at hf
              · cases hf; rfl
              · split at hf <;> cases hf
                rfl
      · split at h
        · split at h
          · next f' hx =>
            cases h
            exact ih (f := f') hx
          · cases h
        · cases h

theorem compose_rank {s : State} {cx : Nat} {va : DWord} {f : XFault} (h : compose s cx va = .error f) : f.rank = 2 := by
  unfold compose at h
  split at h
  · cases h
  · split at h
    · next hx =>
      cases h
      exact xlate_rank hx
    · cases h

theorem permit_rank {s : State} {cx : Nat} {x : XEnt} {o size : Nat} {need : Need} {c : Cause} {k : Nat}
    (h : permit s cx x o size need = some (c, k)) : k ≤ 6 := by
  unfold permit at h
  dsimp only at h
  repeat' split at h
  all_goals cases h
  all_goals simp

/-- The checks of a global access are the first seven of R206. -/
theorem gcheck_rank {s : State} {cx : Nat} {va : DWord} {size : Nat} {need : Need} {f : XFault}
    (h : gcheck s cx va size need = .error f) : f.rank ≤ 6 := by
  unfold gcheck gaccess at h
  split at h
  · cases h; simp
  · split at h
    · cases h; simp
    · split at h
      · next hc =>
        cases h
        rw [compose_rank hc]
        simp
      · dsimp only at h
        split at h
        · next hp =>
          cases h
          exact permit_rank hp
        · cases h

theorem XFault.order_le {f : XFault} (h : f.rank ≤ 99) : f.order ≤ 9999 := by
  have := f.cause.place_le
  rw [f.order_eq]
  omega

/-- The trap of lanes that failed one check alike. -/
theorem failTrap_alike {u : Issue} {wr : Bool} {ls : List Nat} {f : XFault} (hls : ls ≠ []) (hf : f.rank ≤ 99) :
    (failTrap u wr (ls.map fun t => (t, f))).cause = f.cause ∧ (failTrap u wr (ls.map fun t => (t, f))).fpc = u.upc := by
  obtain ⟨k, x, hfind, -, he⟩ := failTrap_spec u wr (fs := ls.map fun t => (t, f)) (by simpa using hls) fun y hy => by
    obtain ⟨t, -, rfl⟩ := List.mem_map.1 hy
    exact XFault.order_le hf
  obtain ⟨t, -, hx⟩ := List.mem_map.1 (List.mem_of_find?_eq_some hfind)
  cases hx
  rw [he]
  exact ⟨rfl, rfl⟩

/-! ## Commits, and what follows them -/

/-- The commit of a unit's region, once its threads have passed it and the entries of its accesses are cached. -/
theorem closeRegion_by {i : Instr} {u : Issue} {s s0 : State} {tl : List XEnt} {lp : List LastPage} {fr : List Frame}
    (h : s.issue? = some u) (h0 : s0 = { advance i u s with tlb := tl, lastPages := lp, frames := fr }) :
    ∃ n g' rs gs k, closeRegion u s0 = { s with
        groups := gs, reqs := s.reqs ++ rs, nextId := n, ticket := k, ctxs := (s.leave u.grp.cxid (freedWords i u)).ctxs
        tlb := tl, lastPages := lp, frames := fr } ∧
      GroupBy u.gid s (closeRegion u s0) u.grp g' (reentered u) (fun k th => recommit u n k (passed i u k th)) ∧
      FromHeld u u.tids rs := by
  obtain ⟨g1, o1, r1, l1, t1⟩ := advance_spec i u s (State.issue?_spec h).1
  obtain ⟨gs, hA⟩ : ∃ gs, advance i u s = { s with groups := gs } := ⟨_, o1.only⟩
  have ho : GroupTo u.gid (advance i u s) s0 g1 g1 := (GroupTo.refl o1.new).same (by rw [h0]) (by rw [h0])
  obtain ⟨n, g', rs, o, e, held, rest, len, thr⟩ := closeRegion_spec ho l1 r1 t1 (by rw [h0, hA])
  refine ⟨n, g', rs, (closeRegion u s0).groups, (closeRegion u s0).ticket, e.trans ?_, ⟨o1.to.trans o, rest, len, thr⟩, held⟩
  generalize (closeRegion u s0).groups = gs'
  generalize (closeRegion u s0).ticket = k'
  rw [h0, hA]
  rfl

/-- Without an active lane, a transfer instruction commits. -/
theorem closeRegion_commits {i : Instr} {u : Issue} {s : State} (h : s.issue? = some u) :
    ∃ n, closeRegion u (advance i u s) = afterCommit i u s (closeRegion u (advance i u s)) n ∧
      Commits i u s (closeRegion u (advance i u s)) n [] id fun _ th => th := by
  obtain ⟨n, g', rs, gs, k, e, by_, held⟩ := closeRegion_by (i := i) (s0 := advance i u s) (tl := s.tlb) (lp := s.lastPages)
    (fr := s.frames) h (by rw [advance_only h])
  refine ⟨n, ?_, by_.acts fun _ _ => rfl, rs, held, ?_⟩
  · rw [e]
    rfl
  · rw [e, List.append_nil]

/-! ## Transfers that start -/

/-- An operation of a channel starts once the region has committed, counted on cnt.bt (R287, R302). -/
theorem startTransfer_spec {i : Instr} {u : Issue} {s s0 : State} {tl : List XEnt} {fr : List Frame} (h : s.issue? = some u)
    (h0 : s0 = { advance i u s with tlb := tl, lastPages := s.lastPages, frames := fr }) (ch : Nat) (ptr : DWord)
    (rec : Option (List Word)) :
    let t := startTransfer u s0 ch ptr rec
    t.frames = fr ∧ ∃ n, t = { afterCommit i u s t (n + 1) with tlb := t.tlb, frames := t.frames, bts := s.bts ++
        [{ id := n, gid := u.gid, cxid := u.grp.cxid, bid := u.grp.bid, core := u.core, ch := ch, tids := u.act, ptr := ptr
           tcopy := rec }] } ∧
      Commits i u s t n [] (fun g => { g with ops := g.ops ++ [⟨n, 0, false, []⟩] }) fun _ th => th := by
  obtain ⟨n, g', rs, gs, k, e, by_, held⟩ := closeRegion_by h h0
  have hn : (gs.find? fun x => x.gid == u.gid) = some g' := by
    have := by_.moved.new
    rwa [e] at this
  let op : BtOp := { id := n, gid := u.gid, cxid := u.grp.cxid, bid := u.grp.bid, core := u.core, ch := ch, tids := u.act
                     ptr := ptr, tcopy := rec }
  let s1 : State := { closeRegion u s0 with bts := s.bts ++ [op], nextId := n + 1 }
  have hs1 : s1.groups.find? (fun x => x.gid == u.gid) = some g' := by
    simp only [s1, e]
    exact hn
  have ht : startTransfer u s0 ch ptr rec = s1.updGrp u.gid fun g => { g with ops := g.ops ++ [⟨n, 0, false, []⟩] } := by
    simp only [startTransfer, s1, op, e]
  have o := OneGroup.of_updGrp (fun g => { g with ops := g.ops ++ [⟨n, 0, false, []⟩] }) (fun _ => rfl) hs1
  rw [← ht] at o
  have only : startTransfer u s0 ch ptr rec = { s1 with groups := (startTransfer u s0 ch ptr rec).groups } := o.only
  have mine : GroupBy u.gid (closeRegion u s0) (startTransfer u s0 ch ptr rec) g'
      { g' with ops := g'.ops ++ [⟨n, 0, false, []⟩] }
      (fun g => { g with ops := g.ops ++ [⟨n, 0, false, []⟩] }) fun _ th => th :=
    ⟨⟨by_.moved.new, o.new, o.others⟩, rfl, rfl, fun _ _ => rfl⟩
  refine ⟨by rw [only]; simp only [s1, e], n, ?_, (by_.trans mine fun _ _ _ => rfl).acts fun _ _ => rfl, rs, held, ?_⟩
  · rw [only]
    simp only [s1, e]
    rfl
  · rw [only]
    simp only [s1, e, List.append_nil]

/-! ## BTX.START and TCOPY -/

section
variable {u : Issue} {s : State}

/-- An entry that is cached after a unit's threads have passed it. -/
theorem cacheEnt_unit {i : Instr} (h : s.issue? = some u) (e : XEnt) : ∃ tl fr l,
    cacheEnt (advance i u s) e = { advance i u s with tlb := tl, lastPages := s.lastPages, frames := fr } ∧
    fr = (s.walked l).frames := by
  obtain ⟨hc, l, hl⟩ := cacheEnt_fields (advance i u s) e
  have hp : (advance i u s).lastPages = s.lastPages := by rw [advance_only h]
  refine ⟨(cacheEnt (advance i u s) e).tlb, (cacheEnt (advance i u s) e).frames, l, by rw [← hp]; exact hc, hl.trans (walked_frames ?_ ?_ l)⟩ <;>
    rw [advance_only h]

/-- The record's address of a BTX.START is checked; where it passes and the channel has room, an operation starts (R302). -/
theorem btxStart_starts {o : BSF} {p : Spot} (h : Issues (.btxStart o) u s) (ha : u.act ≠ [])
    (hp : gcheck (advance (.btxStart o) u s) u.grp.cxid (u.rd64 s u.low (2 * o.ap.toNat)) 64 .load = .ok p)
    (hf : channelFull u (advance (.btxStart o) u s) o.ch.toNat = false) :
    Ends (.btxStart o) u s fun t => ∃ n,
      TablesRead s t ∧ t = { afterCommit (.btxStart o) u s t (n + 1) with tlb := t.tlb, frames := t.frames, bts := s.bts ++
        [{ id := n, gid := u.gid, cxid := u.grp.cxid, bid := u.grp.bid, core := u.core, ch := o.ch.toNat, tids := u.act
           ptr := u.rd64 s u.low (2 * o.ap.toNat), tcopy := none }] } ∧
      Commits (.btxStart o) u s t n [] (fun g => { g with ops := g.ops ++ [⟨n, 0, false, []⟩] }) fun _ th => th := by
  have he : u.act.isEmpty = false := by simpa using ha
  obtain ⟨tl, fr, l, h0, hl⟩ := cacheEnt_unit (i := .btxStart o) h.1 p.ent
  obtain ⟨hfr, n, only, commits⟩ := startTransfer_spec (i := .btxStart o) h.1 h0 o.ch.toNat (u.rd64 s u.low (2 * o.ap.toNat)) none
  refine ends_of h (exec_btxStart o s) ?_ ⟨n, ⟨l, hfr.trans hl⟩, only, commits⟩
  simp [he, hp, hf]

/-- A TCOPY whose record passes its checks starts an operation where the channel has room (R304). -/
theorem tcopy_starts {o : TCF} (h : Issues (.tcopy o) u s) (ha : u.act ≠ [])
    (hs : strictRegs (fun t => if t = u.low ∧ btCwv (tcopyRec (u.rdN s u.low o.v.toNat 8)) then
      [o.v.toNat + 6, o.v.toNat + 7] else []) u (advance (.tcopy o) u s) = none)
    (hc : tcopyFault u (advance (.tcopy o) u s) (u.rdN s u.low o.v.toNat 8) (tcopyRec (u.rdN s u.low o.v.toNat 8)) = none)
    (hf : channelFull u (advance (.tcopy o) u s) o.ch.toNat = false) :
    Ends (.tcopy o) u s fun t => ∃ n,
      TablesRead s t ∧ t = { afterCommit (.tcopy o) u s t (n + 1) with tlb := t.tlb, frames := t.frames, bts := s.bts ++
        [{ id := n, gid := u.gid, cxid := u.grp.cxid, bid := u.grp.bid, core := u.core, ch := o.ch.toNat, tids := u.act
           ptr := 0, tcopy := some (tcopyRec (u.rdN s u.low o.v.toNat 8)) }] } ∧
      Commits (.tcopy o) u s t n [] (fun g => { g with ops := g.ops ++ [⟨n, 0, false, []⟩] }) fun _ th => th := by
  have he : u.act.isEmpty = false := by simpa using ha
  obtain ⟨hfr, n, only, commits⟩ := startTransfer_spec (i := .tcopy o) (s0 := advance (.tcopy o) u s) (tl := s.tlb)
    (fr := s.frames) h.1 (by rw [advance_only h.1]) o.ch.toNat 0 (some (tcopyRec (u.rdN s u.low o.v.toNat 8)))
  refine ends_of h (exec_tcopy o s) ?_ ⟨n, ⟨[], hfr⟩, only, commits⟩
  simp [he, hs, hc, hf]

end

/-! ## AMTEST -/

/-- An update of the active threads looks at the update of each of them alone. -/
theorem updAct_congr {u : Issue} {f f' : Nat → Thread → Thread} (h : ∀ k ∈ u.act, f k = f' k) (s : State) :
    updAct u s f = updAct u s f' := by
  have hg (g : Group) : g.updThrs' u.act f = g.updThrs' u.act f' := by
    have : (fun k th => if u.act.contains k then f k th else th) = fun k th => if u.act.contains k then f' k th else th := by
      funext k th
      split
      · next hk => rw [h k (by simpa using hk)]
      · rfl
    rw [Group.updThrs', Group.updThrs', this]
  simp only [updAct, hg]

/-- A place in the own scratchpad is at its offset. -/
theorem accPad_off {u : Issue} {s : State} {o size : Nat} {a : Acc} (h : accPad u s o size = .ok a) : a.off = o := by
  unfold accPad at h
  repeat' split at h
  all_goals cases h
  rfl

/-- The place that a lane passes its check with. -/
theorem assoc_checkLanes {α : Type} {u : Issue} {wr : Bool} {ls : List Nat} {f : Nat → Except XFault α} {as : List (Nat × α)}
    (h : checkLanes u wr ls f = .ok as) {k : Nat} (hk : k ∈ ls) : ∃ a, assoc k as = some a ∧ f k = .ok a := by
  have hmem : ∀ x ∈ as, f x.1 = .ok x.2 := fun x hx => checkLanes_ok_mem h hx
  rw [← checkLanes_lanes h] at hk
  clear h
  induction as with
  | nil => cases hk
  | cons x xs ih =>
    unfold assoc
    split
    · next hx => exact ⟨x.2, rfl, by rw [← hx]; exact hmem x List.mem_cons_self⟩
    · next hx =>
      refine ih ?_ fun y hy => hmem y (List.mem_cons_of_mem _ hy)
      rcases List.mem_cons.1 hk with rfl | hk
      · exact absurd rfl hx
      · exact hk

/-- The test of an AMTEST in one lane: the bits of its scratchpad word that its mask has set, and the writes that it found. -/
def amtestLane (o : AMF) (u : Issue) (s : State) (k : Nat) (th : Thread) : Thread :=
  let off := (u.rd s k (2 * o.ap.toNat)).toNat
  let word : DWord := match s.blk? u.grp.bid with
    | some b => BitVec.ofNat 64 (leNat (padBytesOf s u k b off 8))
    | none => 0
  (th.setP o.pd (word &&& u.rd64 s k o.m.toNat == u.rd64 s k o.m.toNat)).learn s.nextId (padRead u (advance (.amtest o) u s) k off)

/-- AMTEST tests where every lane's place passes, and no acquire of a lane comes before it (R306). -/
theorem amtest_tests (o : AMF) : Transforms (.amtest o)
    (fun u s => (∃ as, checkLanes u false u.act (fun k =>
        accPad u (advance (.amtest o) u s) (u.rd s k (2 * o.ap.toNat)).toNat 8) = .ok as) ∧
      ∀ k ∈ u.act, acquiring (advance (.amtest o) u s) u.gid k = false) (amtestLane o) := by
  refine transforms_of _ (fun s => exec_amtest o s) rfl rfl fun u s h hok => ?_
  obtain ⟨⟨as, hl⟩, hq⟩ := hok
  have hany : (u.act.any fun k => acquiring (advance (.amtest o) u s) u.gid k) = false := by simpa using hq
  simp only [rd_advance, rd64_advance, hl, hany, Bool.false_eq_true, if_false]
  refine congrArg Res.ok (updAct_congr (fun k hk => ?_) _)
  obtain ⟨a, hassoc, hplace⟩ := assoc_checkLanes hl hk
  have hoff : ((assoc k as).map Acc.off).getD 0 = (u.rd s k (2 * o.ap.toNat)).toNat := by
    rw [hassoc]
    exact accPad_off hplace
  have hb : (advance (.amtest o) u s).blk? u.grp.bid = s.blk? u.grp.bid := by rw [advance_only h]; rfl
  have hw (b : Block) (n : Nat) : padBytesOf (advance (.amtest o) u s) u k b n 8 = padBytesOf s u k b n 8 := by
    rw [advance_only h]; rfl
  have hid : (advance (.amtest o) u s).nextId = s.nextId := by rw [advance_only h]
  funext th
  simp only [amtestLane, hoff, hb, hw, hid] <;> rfl

/-! ## Statement -/

/-- Settles O27: `startTransfer_spec` gives the state in which an operation starts, and AMTEST changes its active threads alone. -/
theorem transferInstructions : Obligations.transferInstructions := by
  unfold Obligations.transferInstructions
  refine ⟨fun o u s h => ⟨fun ha => ?btxIdle, fun p ha hp => ⟨btxStart_starts h ha hp, fun hf => ?btxFull⟩, fun f ha hf => ?btxFault⟩,
    fun o u s h => ⟨fun ha => ?tcopyIdle, fun ha => ?tcopy⟩,
    fun o u s h => ⟨fun ti ht => ?amFault, fun as hl => ⟨fun hq => ?amWaits, fun hq => ?amTests⟩⟩⟩
  case btxIdle =>
    obtain ⟨n, only, commits⟩ := closeRegion_commits (i := .btxStart o) h.1
    exact ends_of h (exec_btxStart o s) (by simp [ha]) ⟨n, only, commits⟩
  case btxFull =>
    exact parks_of h (fun s => exec_btxStart o s) (by simp [ha, hp, hf])
  case btxFault =>
    obtain ⟨hcause, hfpc⟩ := failTrap_alike (u := u) (wr := false) ha (le_trans (gcheck_rank hf) (by norm_num))
    exact ⟨_, (exec_btxStart o s).trans (execUnit_trap h (by simp [ha, hf])), hcause, hfpc⟩
  case tcopyIdle =>
    obtain ⟨n, only, commits⟩ := closeRegion_commits (i := .tcopy o) h.1
    exact ends_of h (exec_tcopy o s) (by simp [ha]) ⟨n, only, commits⟩
  case tcopy =>
    dsimp only
    refine ⟨fun c ls hs => ?_, fun hs => ⟨fun hc => tcopy_starts h ha hs hc, fun hc hf => ?_, fun c hc => ?_⟩⟩
    · exact (exec_tcopy o s).trans (execUnit_trap h (by simp [ha, hs]; rfl))
    · exact parks_of h (fun s => exec_tcopy o s) (by simp [ha, hs, hc, hf])
    · exact (exec_tcopy o s).trans (execUnit_trap h (by simp [ha, hs, hc]; rfl))
  case amFault =>
    exact (exec_amtest o s).trans (execUnit_trap h (by simp [ht]))
  case amWaits =>
    refine parks_of h (fun s => exec_amtest o s) ?_
    have hany : (u.act.any fun k => acquiring (advance (.amtest o) u s) u.gid k) = true := by simpa using hq
    simp [hl, hany]
  case amTests =>
    obtain ⟨t, e, only, done_⟩ := amtest_tests o u s h ⟨⟨as, hl⟩, hq⟩
    exact ⟨t, fun k => padRead u (advance (.amtest o) u s) k (u.rd s k (2 * o.ap.toNat)).toNat, e, only, done_⟩

end Sys2Proof.Machine
end

section
/-! Precise traps as taken (R85, R123, R379 to R384): the record, the threads that stop, and the grids that end. -/

namespace Sys2Proof.Machine

/-! ## The record -/

/-- The device once a precise trap of a group has its record and the group's run has ended (R380, R381). -/
def recorded (s : State) (g : Group) (ti : TrapInfo) : State :=
  { s with runs := s.runs.filter (fun r => r.gid != g.gid), nextId := s.nextId + 1, free := s.free + 1
           traps := s.traps ++ [mkTrap s g ti], frames := (s.walked ti.reads).frames }

/-- A trap is recorded; then its group is held, or its threads stop, and a fatal one ends what it names. -/
theorem raise_eq (s : State) (g : Group) (ti : TrapInfo) : raise s g ti =
    if ti.cause = .pageFault then
      (recorded s g ti).updGrp g.gid fun x => { x with hold := some ⟨.pageFault (mkTrap s g ti), false⟩ }
    else if ti.cause.fatal then endTrapped 8 (stopThreads (recorded s g ti) g.gid ti.lanes) (mkTrap s g ti)
    else stopThreads (recorded s g ti) g.gid ti.lanes := by
  obtain ⟨fr, hw⟩ : ∃ fr, s.walked ti.reads = { s with frames := fr } := ⟨_, walked_only ..⟩
  rw [raise, recorded, hw]
  rfl

theorem find_recorded {s : State} {g : Group} {n : Nat} (h : (s.groups.find? fun x => x.gid == n) = some g) (ti : TrapInfo) :
    ((recorded s g ti).groups.find? fun x => x.gid == n) = some g := h

theorem fatal_iff (c : Cause) : c.fatal = decide (c = .regionFull ∨ c = .uncorrectable) := by
  cases c <;> rfl

theorem ne_pageFault_of_fatal {c : Cause} (h : c.fatal = true) : c ≠ .pageFault := by
  rintro rfl
  cases h

/-- A group that `grp?` gives, and that is resident, stands among the groups. -/
theorem find_of_grp? {s : State} {n : Nat} {g : Group} (h : s.grp? n = some g) (hr : ∃ x ∈ s.groups, x.gid = n) :
    (s.groups.find? fun x => x.gid == n) = some g := by
  obtain ⟨x, hx, hn⟩ := hr
  cases hf : s.groups.find? fun x => x.gid == n with
  | none => exact absurd (List.find?_eq_none.1 hf x hx) (by simp [hn])
  | some y => rw [← h, State.grp?, hf]

/-! ## What a fatal trap ends -/

theorem dropGroup_traps (s : State) (g : Group) : (dropGroup s g).traps = s.traps := by
  rw [dropGroup, State.updGrp_traps, endRun_traps, exitThrs, State.updGrp_traps]
  split <;> rfl

theorem unwaitSrc_traps (s : State) (t : Trap) : (unwaitSrc s t).traps = s.traps := by
  unfold unwaitSrc; split <;> rfl

/-- Ending what a trap names queues no further trap. -/
theorem endTrapped_traps (n : Nat) (s : State) (t : Trap) : (endTrapped n s t).traps = s.traps := by
  induction n generalizing s t with
  | zero => exact unwaitSrc_traps ..
  | succ n ih =>
    unfold endTrapped
    dsimp only
    repeat' split
    all_goals simp only [ih, dropGroup_traps, unwaitSrc_traps, unbind, markEnding, State.updGrid]

/-- A trap of threads ends its grid, and a group that is neither a message handler nor a trap handler goes on with it (R384). -/
theorem endTrapped_grid {n : Nat} {s : State} {t : Trap} {g : Group} (hs : t.src = .threads) (ha : t.async = false)
    (hg : s.grp? t.gid = some g) (hk : g.isHandler = false) : endTrapped (n + 1) s t = markEnding s t.gr t.cause.code := by
  have hm : (markEnding s t.gr t.cause.code).grp? t.gid = some g := hg
  unfold endTrapped
  simp only [unwaitSrc, hs, ha, hm, Bool.false_eq_true, if_false]
  cases hkind : g.kind <;> simp_all [Group.isHandler]

/-- A trap of a message handler's threads ends the grid of the sender, and drops the handler (R310, R384). -/
theorem endTrapped_handler {n m : Nat} {s : State} {t : Trap} {g : Group} (hs : t.src = .threads) (ha : t.async = false)
    (hg : s.grp? t.gid = some g) (hk : g.kind = .handler m) :
    endTrapped (n + 1) s t = dropGroup (markEnding s t.gr t.cause.code) g := by
  have hm : (markEnding s t.gr t.cause.code).grp? t.gid = some g := hg
  unfold endTrapped
  simp only [unwaitSrc, hs, ha, hm, hk, Bool.false_eq_true, if_false]

/-- A group that is dropped has no thread left, and no other group changes. -/
theorem dropGroup_spec {s : State} {n : Nat} {g : Group} (hid : g.gid = n) (h : (s.groups.find? fun x => x.gid == n) = some g) :
    ∃ ws g',
    dropGroup s g = { s with groups := (dropGroup s g).groups, ctxs := (s.leave g.cxid ws).ctxs
                             runs := s.runs.filter fun r => r.gid != n } ∧
    GroupTo n s (dropGroup s g) g g' ∧ ∀ k, k < g.threads.length → (g'.thr k).exited = true := by
  subst hid
  obtain ⟨o, ws, e⟩ := exitThrs_spec g.live h
  have hn : ((endRun (exitThrs s g.gid g.live) g.gid).groups.find? fun x => x.gid == g.gid) = some (g.exited g.live) := o.new
  have o2 := OneGroup.of_updGrp (fun g => { g with hold := none }) (fun _ => rfl) hn
  have only : dropGroup s g = { endRun (exitThrs s g.gid g.live) g.gid with groups := (dropGroup s g).groups } := o2.only
  have o1 : GroupTo g.gid s (endRun (exitThrs s g.gid g.live) g.gid) g (g.exited g.live) := o.same rfl rfl
  refine ⟨ws, { g.exited g.live with hold := none }, ?_, o1.trans o2.to, fun k hk => ?_⟩
  · rw [only, endRun, e]
  · show ((g.exited g.live).thr k).exited = true
    rw [Group.thr_exited _ _ _ hk]
    split
    · rfl
    · next hl =>
      by_contra hx
      exact hl (by simpa [Group.live, hk] using hx)

/-! ## Statement -/

/-- A precise trap queues its own record alone. -/
theorem raise_traps (s : State) (g : Group) (ti : TrapInfo) : (raise s g ti).traps = s.traps ++ [mkTrap s g ti] := by
  rw [raise_eq]
  split
  · exact State.updGrp_traps ..
  · split
    · rw [endTrapped_traps]
      exact State.updGrp_traps ..
    · exact State.updGrp_traps ..

section
variable {s : State} {g : Group} {ti : TrapInfo} (h : (s.groups.find? fun x => x.gid == g.gid) = some g)
include h

/-- The threads of the lane mask stop, and no other group changes (R123). -/
theorem stopThreads_recorded : OneGroup g.gid (recorded s g ti) (stopThreads (recorded s g ti) g.gid ti.lanes) g
    (g.updThrs ti.lanes fun th => { th with stopped := true }) :=
  OneGroup.of_updGrp (fun g => g.updThrs ti.lanes fun th => { th with stopped := true }) (fun _ => rfl) (find_recorded h ti)

/-- A page fault holds the group (R376). -/
theorem raise_holds (hp : ti.cause = .pageFault) : OneGroup g.gid (recorded s g ti) (raise s g ti) g
    { g with hold := some ⟨.pageFault (mkTrap s g ti), false⟩ } := by
  rw [raise_eq, if_pos hp]
  exact OneGroup.of_updGrp (fun x => { x with hold := some ⟨.pageFault (mkTrap s g ti), false⟩ }) (fun _ => rfl) (find_recorded h ti)

/-- A cause that is neither a page fault nor fatal stops the threads of the lane mask. -/
theorem raise_stops (hp : ti.cause ≠ .pageFault) (hf : ti.cause.fatal = false) : OneGroup g.gid (recorded s g ti) (raise s g ti) g
    (g.updThrs ti.lanes fun th => { th with stopped := true }) := by
  rw [raise_eq, if_neg hp, hf, if_neg Bool.false_ne_true]
  exact stopThreads_recorded h

/-- A fatal trap of a group that is not a handler. -/
theorem raise_fatal_grid (hf : ti.cause.fatal = true) (hk : g.isHandler = false) : raise s g ti =
    markEnding (stopThreads (recorded s g ti) g.gid ti.lanes) g.gr ti.cause.code := by
  have hgr : fatalGrid s g = g.gr := by
    unfold fatalGrid
    cases hkind : g.kind <;> simp_all [Group.isHandler]
  have hn := State.grp?_of_find (stopThreads_recorded (ti := ti) h).new
  rw [raise_eq, if_neg (ne_pageFault_of_fatal hf), if_pos hf, endTrapped_grid (t := mkTrap s g ti) rfl rfl hn hk, mkTrap, hgr]

/-- A fatal trap of a message handler. -/
theorem raise_fatal_handler {n : Nat} (hf : ti.cause.fatal = true) (hk : g.kind = .handler n) : raise s g ti =
    dropGroup (markEnding (stopThreads (recorded s g ti) g.gid ti.lanes)
      (((s.msgs.find? fun m => m.id == n).map Msg.gr).getD 0) ti.cause.code)
      (g.updThrs ti.lanes fun th => { th with stopped := true }) := by
  have hgr : fatalGrid s g = ((s.msgs.find? fun m => m.id == n).map Msg.gr).getD 0 := by rw [fatalGrid, hk]
  have hn := State.grp?_of_find (stopThreads_recorded (ti := ti) h).new
  rw [raise_eq, if_neg (ne_pageFault_of_fatal hf), if_pos hf, endTrapped_handler (t := mkTrap s g ti) rfl rfl hn hk, mkTrap, hgr]

end

/-- Settles O39: the record is `mkTrap`, and what stands after it is the group's hold, its threads' stop, or the end of what the trap
names. -/
theorem preciseTrapEntry : Obligations.preciseTrapEntry := by
  unfold Obligations.preciseTrapEntry
  intro s g ti hg hr
  have h := find_of_grp? hg hr
  have stop := stopThreads_recorded (ti := ti) h
  have only : stopThreads (recorded s g ti) g.gid ti.lanes =
      { recorded s g ti with groups := (stopThreads (recorded s g ti) g.gid ti.lanes).groups } := stop.only
  dsimp only
  refine ⟨⟨mkTrap s g ti, raise_traps s g ti, rfl, rfl, rfl, rfl, rfl, rfl, rfl, rfl, rfl, ?fatal, ?cocoon, rfl, rfl, rfl, rfl, rfl, rfl,
    rfl⟩, fun hk => ?threads, fun n hk hf => ?handler⟩
  case fatal => exact fatal_iff ti.cause
  case cocoon => exact beq_eq_decide ti.cause .pageFault
  case handler =>
    rw [← fatal_iff] at hf
    obtain ⟨ws, g', e, o, gone⟩ := dropGroup_spec (s := markEnding (stopThreads (recorded s g ti) g.gid ti.lanes)
      (((s.msgs.find? fun m => m.id == n).map Msg.gr).getD 0) ti.cause.code)
      (n := g.gid) (g := g.updThrs ti.lanes fun th => { th with stopped := true }) rfl stop.new
    rw [← raise_fatal_handler h hf hk] at e o
    refine ⟨?_, fun n hn => (o.others n hn).trans (stop.others n hn), g', State.grp?_of_find o.new,
      fun k hk => gone k (by simpa using hk)⟩
    have hc := congrArg State.ctxs e
    refine e.trans ?_
    rw [hc, raise_traps, only]
    simp only [recorded, markEnding, State.updGrid, List.filter_filter, Bool.and_self, beq_iff_eq]
  case threads =>
    rw [← fatal_iff] at hk ⊢
    by_cases hp : ti.cause = .pageFault
    · have hf : ti.cause.fatal = false := by rw [hp]; rfl
      have held := raise_holds h hp
      refine ⟨?_, held.others, _, State.grp?_of_find held.new, ?_⟩
      · refine held.only.trans ?_
        rw [raise_traps, hf]
        rfl
      · rw [if_pos hp]
        exact ⟨rfl, mkTrap s g ti, rfl, raise_traps s g ti⟩
    · cases hf : ti.cause.fatal with
      | false =>
        have stopped := raise_stops h hp hf
        refine ⟨?_, stopped.others, _, State.grp?_of_find stopped.new, by rw [if_neg hp]⟩
        refine stopped.only.trans ?_
        rw [raise_traps]
        rfl
      | true =>
        have he := raise_fatal_grid h hf (hk.resolve_right (by simp [hf]))
        have ended : GroupTo g.gid s (raise s g ti) g (g.updThrs ti.lanes fun th => { th with stopped := true }) := by
          rw [he]
          exact ⟨h, stop.new, stop.others⟩
        refine ⟨?_, ended.others, _, State.grp?_of_find ended.new, by rw [if_neg hp]⟩
        rw [raise_traps, he, only]
        simp only [recorded, markEnding, State.updGrid, beq_iff_eq]
        rfl

end Sys2Proof.Machine
end

section
/-! Long waits and their ends (R103, R219, R221, R366): FENCE, TLBINV and WAITA, and the timeout of a WAITA. -/

namespace Sys2Proof.Machine

/-! ## FENCE and TLBINV -/

section
variable {s : State} {g : Group} {gid tid upto : Nat}

theorem fence_iff {ord : Nat} {ticket : Option Nat} :
    ((ord != 1 && !performed s gid tid upto) || (ord != 2 && !returned s gid tid upto (g.thr tid)) ||
      !(ticket.all fun k => ticketNext s k)) = false ↔
    (ord ≠ 1 → performed s gid tid upto = true) ∧ (ord ≠ 2 → returned s gid tid upto (g.thr tid) = true) ∧
      ∀ k, ticket = some k → ticketNext s k = true := by
  cases ticket <;> simp [and_assoc]

/-- A FENCE goes on once everything that its parts wait for is there, and stays until then (R103, R219). -/
theorem fenceComplete_spec {ord scope : Nat} {ticket : Option Nat} (hg : s.grp? gid = some g)
    (hp : (g.thr tid).park = some (.fence upto ord scope ticket)) :
    let go := (ord ≠ 1 → performed s gid tid upto = true) ∧ (ord ≠ 2 → returned s gid tid upto (g.thr tid) = true) ∧
      ∀ k, ticket = some k → ticketNext s k = true
    (¬go → exec (.fenceComplete gid tid) s = .next s) ∧
    (go → exec (.fenceComplete gid tid) s = .next
      ({ s with scSeen := if ord = 4 then union s.scSeen (ownWrites s gid tid upto) else s.scSeen }.updThr gid tid fun th =>
        { (th.learn upto (fenceKnown s g tid upto ord scope)).release with
          unsettled := if ord = 2 then th.unsettled else th.unsettled.filter fun e => !e.2.2 || decide (upto ≤ e.2.1) })) := by
  intro go
  rw [exec_fenceComplete, execFenceComplete]
  simp only [hg, hp]
  refine ⟨fun hn => ?_, fun hgo => ?_⟩
  · rw [if_pos (Bool.eq_true_of_not_eq_false fun h => hn (fence_iff.1 h))]
  · rw [if_neg (ne_true_of_eq_false (fence_iff.2 hgo))]
    by_cases h4 : ord = 4 <;> by_cases h2 : ord = 2 <;> simp [h4, h2]

/-- What a TLBINV has to wait for: the thread's own writes, and accesses and remote updates through removed entries (R366). -/
theorem tlbinv_iff {gone : List XEnt} :
    (uncovered s gid tid upto || (s.reqs.any fun r => r.blk.isNone && !r.performed && viaRemoved gone r.cxid r.va) ||
      (s.rus.any fun r => !r.applied && (ruVas r).any (viaRemoved gone r.cxid))) = false ↔
    uncovered s gid tid upto = false ∧
      (∀ r ∈ s.reqs, r.blk = none → r.performed = false → viaRemoved gone r.cxid r.va = false) ∧
      ∀ r ∈ s.rus, r.applied = false → ∀ va ∈ ruVas r, viaRemoved gone r.cxid va = false := by
  simp [and_assoc]

/-- The walk entries that a TLBINV removes (Table 17-6). -/
def tlbinvWalk (s : State) (g : Group) (kind : Nat) (x : DWord) (w : WalkEnt) : Bool :=
  if kind = 0 then (w.cxid == g.cxid && ((pathOf s g.cxid (x.toNat % 2 ^ 57)).map Prod.fst).contains w.va) ||
    w.via.any (Hop.maps g.cxid x)
  else if kind = 1 then w.cxid == x.toNat else inSubtree s x.toNat w.cxid

/-- Once nothing is left to wait for, the entries are gone, regions with stores through them are discarded, and the thread goes on. -/
theorem tlbinvComplete_spec {kind : Nat} {x : DWord} (hg : s.grp? gid = some g)
    (hp : (g.thr tid).park = some (.tlbinv kind x upto)) :
    let gone := s.tlb.filter (tlbHit s g.cxid kind x)
    let go := uncovered s gid tid upto = false ∧
      (∀ r ∈ s.reqs, r.blk = none → r.performed = false → viaRemoved gone r.cxid r.va = false) ∧
      ∀ r ∈ s.rus, r.applied = false → ∀ va ∈ ruVas r, viaRemoved gone r.cxid va = false
    (¬go → exec (.tlbinvComplete gid tid) s = .next s) ∧
    (go → exec (.tlbinvComplete gid tid) s = .next (wake (learnAll
      ((discardWhere (dropWalks (dropEnts s (tlbHit s g.cxid kind x)) (tlbinvWalk s g kind x)) fun b =>
        b.glob && viaRemoved gone b.cxid b.va).updThr gid tid Thread.release) gid [tid]))) := by
  intro gone go
  rw [exec_tlbinvComplete, execTlbinvComplete]
  simp only [hg, hp]
  refine ⟨fun hn => ?_, fun hgo => ?_⟩
  · rw [if_pos (Bool.eq_true_of_not_eq_false fun h => hn (tlbinv_iff.1 h))]
  · rw [if_neg (ne_true_of_eq_false (tlbinv_iff.2 hgo))]
    rcases kind with _ | _ | k
    · rfl
    · rfl
    · rfl

/-! ## WAITA -/

/-- A WAITA whose word can be loaded goes on where it meets the condition, and stays else (R221). -/
theorem waitaSatisfied_spec {ne : Bool} {val : Word} {va upc : DWord} {left full : Option Nat} {p : Spot}
    (hg : s.grp? gid = some g) (hp : (g.thr tid).park = some (.waita ne val va left full upc)) (hr : g.runs s = true)
    (hl : loadAt s g.cxid va 4 = .ok p) (ho : ownPending s gid tid p.b p.off 4 = false) (ha : acquiring s gid tid = false) :
    let w : Word := BitVec.ofNat 32 (leNat (s.readBuf p.b p.off 4))
    ((if ne then w = val else w ≠ val) → exec (.waitaSatisfied gid tid) s = .next s) ∧
    ((if ne then w ≠ val else w = val) → exec (.waitaSatisfied gid tid) s = .next (wake ((touch s p).updThr gid tid fun th =>
      (th.learn s.nextId
        (readFrom s (g.agent tid) 1 5 (readBefore s { b := p.b, off := p.off, n := 4 } 0 []).2)).release))) := by
  intro w
  rw [exec_waitaSatisfied, execWaitaSatisfied]
  simp only [hg, hp, hr, hl, ho, ha, Bool.not_true, Bool.or_self, Bool.false_eq_true, if_false]
  cases ne with
  | true => exact ⟨fun h => if_neg (by simpa using h), fun h => if_pos (by simpa using h)⟩
  | false => exact ⟨fun h => if_neg (by simpa using h), fun h => if_pos (by simpa using h)⟩

end

/-! ## Timeouts -/

/-- A thread of a WAITA that traps stands at its unit again, with its region entry there. -/
def Thread.backToWaita (th : Thread) : Thread :=
  match th.park with
  | some (.waita _ _ _ _ _ upc) => { th with pc := upc, rpc := upc, park := none }
  | _ => th

theorem Thread.backToWaita_of_park {th : Thread} {ne : Bool} {val : Word} {va upc : DWord} {left full : Option Nat}
    (h : th.park = some (.waita ne val va left full upc)) : th.backToWaita = { th with pc := upc, rpc := upc, park := none } := by
  rw [backToWaita, h]

theorem backToWaita_eq (s : State) (n t : Nat) : backToWaita s n t = s.updThr n t Thread.backToWaita := rfl

/-- A thread that is parked at nothing is back already. -/
theorem Thread.backToWaita_twice (th : Thread) : th.backToWaita.backToWaita = th.backToWaita := by
  cases h : th.park with
  | none => simp only [backToWaita, h]
  | some p => cases p <;> simp only [backToWaita, h]

theorem Group.thr_of_le {g : Group} {k : Nat} (h : g.threads.length ≤ k) : g.thr k = { pc := 0, rpc := 0 } :=
  List.getD_eq_default _ _ h

/-- Threads of a WAITA that go back to it one after the other. -/
theorem foldl_backToWaita {s : State} {n : Nat} {g : Group} (h : (s.groups.find? fun x => x.gid == n) = some g) (ts : List Nat) :
    ∃ g', OneGroup n s (ts.foldl (fun s t => backToWaita s n t) s) g g' ∧ g' = { g with threads := g'.threads } ∧
      g'.threads.length = g.threads.length ∧
      ∀ k, k < g.threads.length → g'.thr k = if k ∈ ts then (g.thr k).backToWaita else g.thr k := by
  induction ts generalizing s g with
  | nil => exact ⟨g, .refl h, rfl, rfl, fun k _ => by simp⟩
  | cons t ts ih =>
    have o := OneGroup.of_updGrp (fun x => x.updThr t Thread.backToWaita) (fun _ => rfl) h
    obtain ⟨g', o', rest, len, thr⟩ := ih o.new
    rw [Group.length_updThr] at len
    refine ⟨g', o.trans o', by rw [rest]; rfl, len, fun k hk => ?_⟩
    rw [thr k (by rw [Group.length_updThr]; exact hk), Group.thr_updThr _ _ _ hk]
    simp only [List.mem_cons]
    by_cases hkt : k = t
    · simp only [hkt, if_true, true_or, Thread.backToWaita_twice, ite_self]
    · simp only [hkt, if_false, false_or]

/-- A trap of live threads that wait at one WAITA, of a cause that stops its lanes: they stand at the WAITA, stopped (R127, R221). -/
theorem waitaTrap_spec {s : State} {n : Nat} {g : Group} {ts : List Nat} {c : Cause} {f : DWord} {cx : Nat} {walk : Bool}
    (h : (s.groups.find? fun x => x.gid == n) = some g) (hp : c ≠ .pageFault) (hf : c.fatal = false) :
    ∃ g2 g', (waitaTrap s n ts c f cx walk).traps = s.traps ++ [mkTrap (ts.foldl (fun s t => backToWaita s n t) s) g2
        { cause := c, lanes := ts, fpc := (g2.thr (ts.headD 0)).pc, faddr := f, cxid := cx, walk := walk }] ∧
      (waitaTrap s n ts c f cx walk).grp? n = some g' ∧ g2.gid = g.gid ∧ g'.threads.length = g.threads.length ∧
      (∀ k, k < g.threads.length → g2.thr k = if k ∈ ts then (g.thr k).backToWaita else g.thr k) ∧
      ∀ k, k < g.threads.length → g'.thr k = if k ∈ ts then { (g.thr k).backToWaita with stopped := true } else g.thr k := by
  obtain ⟨g2, o, rest, len, thr⟩ := foldl_backToWaita h ts
  obtain rfl : g2.gid = n := by simpa using List.find?_some o.new
  let ti : TrapInfo := { cause := c, lanes := ts, fpc := (g2.thr (ts.headD 0)).pc, faddr := f, cxid := cx, walk := walk }
  have ht : waitaTrap s g2.gid ts c f cx walk = raise (ts.foldl (fun s t => backToWaita s g2.gid t) s) g2 ti := by
    simp only [waitaTrap, State.grp?_of_find o.new, ti]
  have o2 := raise_stops (ti := ti) o.new hp hf
  refine ⟨g2, g2.updThrs ts fun th => { th with stopped := true }, ?_, ?_, by rw [rest], by rw [Group.length_updThrs, len], thr,
    fun k hk => ?_⟩
  · rw [ht, raise_traps, o.only]
  · rw [ht]
    exact State.grp?_of_find o2.new
  · rw [Group.thr_updThrs _ _ _ _ (by rw [len]; exact hk), thr k hk]
    by_cases hk : k ∈ ts <;> simp [hk]

/-- Settles O43: each wait ends by its own condition, and a timeout by the trap of the threads whose WAITA has expired. -/
theorem longWaitsEnd : Obligations.longWaitsEnd := by
  unfold Obligations.longWaitsEnd
  refine ⟨fun gid tid upto ord scope ticket s g hg hp => fenceComplete_spec hg hp,
    fun gid tid kind upto x s g hg hp => ⟨(tlbinvComplete_spec hg hp).1, fun hgo => ⟨_, rfl, fun e => ?entries,
      (tlbinvComplete_spec hg hp).2 hgo⟩⟩,
    fun gid tid ne val va upc left full s g p hg hp hr hl ho ha => waitaSatisfied_spec hg hp hr hl ho ha,
    fun gid tid s g hg hlive hx hr => ⟨fun hm => ?met, fun hm => ?expired⟩⟩
  case entries =>
    show e ∈ s.tlb.filter _ ↔ _
    rw [List.mem_filter]
    simp
  case met =>
    obtain ⟨va, hva⟩ := Option.isSome_iff_exists.1 hx
    rw [exec_watchdog, exec_waitaSatisfied, execWatchdog]
    simp only [State.grp?_of_find hg, hva, hm, if_true]
  case expired =>
    obtain ⟨va, hva⟩ := Option.isSome_iff_exists.1 hx
    let ts := g.live.filter fun t => (expiredAt (g.thr t)).isSome && (g.thr t).pc == (g.thr tid).pc && !waitaMet s g t
    have htid : tid ∈ ts := List.mem_filter.2 ⟨hlive, by simp [hx, hm]⟩
    obtain ⟨k0, ks, hts⟩ := List.exists_cons_of_ne_nil (List.ne_nil_of_mem htid)
    have hmem : ∀ k ∈ ts, k < g.threads.length ∧ (expiredAt (g.thr k)).isSome = true := fun k hk => by
      obtain ⟨hkl, hkx⟩ := List.mem_filter.1 hk
      simp only [Bool.and_eq_true] at hkx
      exact ⟨by simpa using (List.mem_filter.1 hkl).1, hkx.1.1⟩
    have hhead : ∀ d, ts.headD d = k0 := fun d => by rw [hts]; rfl
    have hk0 : k0 ∈ ts := by rw [hts]; exact List.mem_cons_self
    obtain ⟨va0, hva0⟩ := Option.isSome_iff_exists.1 (hmem k0 hk0).2
    obtain ⟨g2, g', htraps, hg', hid, len, thr2, thr⟩ := waitaTrap_spec (ts := ts) (c := .watchdog) (f := va0) (cx := g.cxid)
      (walk := false) hg (by decide) rfl
    refine ⟨_, _, g', ?_, htraps, hg', rfl, rfl, rfl, hid, rfl, ?_, ?_, ?_, ?_⟩
    · rw [exec_watchdog, execWatchdog]
      have hh : ((expiredAt (g.thr (ts.headD tid))).getD va) = va0 := by rw [hhead, hva0]; rfl
      simp only [State.grp?_of_find hg, hva, hm, hr, Bool.false_eq_true, if_false, if_true]
      exact congrArg (fun f => Host.Outcome.next (waitaTrap s gid ts .watchdog f g.cxid false)) hh
    · exact (congrArg (fun k => expiredAt (g.thr k)) (hhead 0)).trans hva0
    · intro ne v a l f upc hp
      have hp : (g.thr k0).park = some (.waita ne v a l f upc) := by rw [← hhead 0]; exact hp
      show (g2.thr (ts.headD 0)).pc = upc
      rw [hhead, thr2 k0 (hmem k0 hk0).1, if_pos hk0, Thread.backToWaita_of_park hp]
    · intro k hk ne v a l f upc hp
      rw [thr k (hmem k hk).1, if_pos hk, Thread.backToWaita_of_park hp]
    · intro k hk
      by_cases hlt : k < g.threads.length
      · rw [thr k hlt, if_neg hk]
      · rw [Group.thr_of_le (by omega), Group.thr_of_le (by omega)]

end Sys2Proof.Machine
end

section
/-! Tile rows in the scratchpad (R102, R104, R121, R249, R250): AST writes them, and ALD reads them back into the tile. -/

namespace Sys2Proof.Machine

/-! ## Bytes -/

theorem Memory.getN_eq_map (m : Memory) (a n : Nat) : m.getN a n = (List.range n).map fun i => m.get (a + i) := by
  induction n generalizing a with
  | zero => rfl
  | succ n ih =>
    rw [Memory.getN, ih, List.range_succ_eq_map, List.map_cons, List.map_map]
    exact congrArg _ (List.map_congr_left fun i _ => by simp only [Function.comp]; congr 1; omega)

/-- Bytes that are gathered into a mask and a word, from the places that have one. -/
def gather {α : Type} (p : Nat → Option α) (v : Nat → α → Nat) (n : Nat) : Nat × DWord :=
  (List.range n).foldl (fun acc i => match p i with
    | some b => (acc.1 ||| (1 <<< i), acc.2 ||| BitVec.ofNat 64 (v i b <<< (8 * i)))
    | none => acc) (0, 0)

section
variable {α : Type} {p : Nat → Option α} {v : Nat → α → Nat}

theorem gather_succ (n : Nat) : gather p v (n + 1) = match p n with
    | some b => ((gather p v n).1 ||| (1 <<< n), (gather p v n).2 ||| BitVec.ofNat 64 (v n b <<< (8 * n)))
    | none => gather p v n := by
  rw [gather, List.range_succ, List.foldl_append]
  rfl

theorem gather_mask (n i : Nat) : (gather p v n).1.testBit i = (decide (i < n) && (p i).isSome) := by
  induction n with
  | zero => simp [gather]
  | succ n ih =>
    rw [gather_succ]
    by_cases hin : i = n
    · subst hin
      cases hp : p i with
      | none => simp [hp, ih]
      | some b => simp [hp, ih, Nat.testBit_shiftLeft]
    · have hlt : i < n + 1 ↔ i < n := by omega
      cases hp : p n with
      | none => simp [ih, hlt]
      | some b =>
        have : (1 <<< n : Nat).testBit i = false := by
          rw [Nat.one_shiftLeft]
          exact Nat.testBit_two_pow_of_ne (Ne.symm hin)
        simp [ih, hlt, this]

/-- A bit of the gathered word is that of its byte. -/
theorem gather_bit (hv : ∀ i b, v i b < 256) (n j : Nat) (hj : j < 64) :
    (gather p v n).2.getLsbD j = (decide (j / 8 < n) && (p (j / 8)).any fun b => (v (j / 8) b).testBit (j % 8)) := by
  induction n with
  | zero => simp [gather]
  | succ n ih =>
    rw [gather_succ]
    have hbit (b : α) : (BitVec.ofNat 64 (v n b <<< (8 * n))).getLsbD j =
        (decide (j / 8 = n) && (v n b).testBit (j % 8)) := by
      rw [BitVec.getLsbD_ofNat, Nat.testBit_shiftLeft]
      by_cases h : j / 8 = n
      · have h8 : j - 8 * n = j % 8 := by omega
        have hge : 8 * n ≤ j := by omega
        simp [hj, h, h8, hge]
      · by_cases hge : 8 * n ≤ j
        · have : (v n b).testBit (j - 8 * n) = false :=
            Nat.testBit_lt_two_pow (lt_of_lt_of_le (hv n b) (Nat.pow_le_pow_right (n := 2) (by norm_num) (by omega : 8 ≤ j - 8 * n)))
          simp [h, this]
        · simp [h, hge]
    by_cases hin : j / 8 = n
    · cases hp : p n with
      | none => simp [hin, hp, ih]
      | some b => simp [hin, hp, ih, hbit, BitVec.getLsbD_or]
    · have hlt : j / 8 < n + 1 ↔ j / 8 < n := by omega
      cases hp : p n with
      | none => simp [ih, hlt]
      | some b => simp [ih, hlt, hbit, hin, BitVec.getLsbD_or]

/-- A gathered byte. -/
theorem gather_byte (hv : ∀ i b, v i b < 256) {n i : Nat} (hi : i < n) (h8 : i < 8) {b : α} (hb : p i = some b) :
    BitVec.ofNat 8 (bitsOf (gather p v n).2.toNat (8 * i) 8) = BitVec.ofNat 8 (v i b) := by
  refine BitVec.eq_of_getLsbD_eq fun j hj => ?_
  have hd : (8 * i + j) / 8 = i := by omega
  have hm : (8 * i + j) % 8 = j := by omega
  have hbit := gather_bit (p := p) hv n (8 * i + j) (by omega)
  rw [hd, hm, hb] at hbit
  rw [BitVec.getLsbD_ofNat, BitVec.getLsbD_ofNat, bitsOf, Nat.testBit_mod_two_pow, Nat.testBit_shiftRight,
    ← BitVec.getLsbD, hbit]
  simp [hj, hi]

end

/-! ## Rows as ALD reads them -/

/-- The newest store of a thread to a byte of a block's scratchpad. -/
def newestStore (th : Thread) (bid a : Nat) : Option BStore :=
  th.stores.reverse.find? fun x => !x.glob && x.blk == bid && decide (x.off ≤ a ∧ a < x.off + x.size)

/-- A byte of a block's scratchpad as a thread reads it: from its newest store to it, if any (R106). -/
def ownByte (th : Thread) (b : Block) (a : Nat) : Byte :=
  match newestStore th b.bid a with
  | some x => BitVec.ofNat 8 (x.data.toNat / 2 ^ (8 * (a - x.off)))
  | none => Memory.get b.pad a

/-- What a thread's stores forward to an access of a block's scratchpad. -/
theorem fwdBytes_pad {th : Thread} {a : Acc} {bid : Nat} (ha : a.blk = some bid) (lo n : Nat) :
    fwdBytes th a lo n = gather (fun i => newestStore th bid (a.off + lo + i))
      (fun i x => bitsOf x.data.toNat (8 * (a.off + lo + i - x.off)) 8) n := by
  simp only [fwdBytes, gather, newestStore, ha, Bool.decide_and, Bool.and_assoc]
  congr 1
  funext acc i
  generalize List.find? _ _ = z
  cases z <;> rfl

/-- The bytes of an access to a block's scratchpad with what the thread's stores forward are those that the thread reads. -/
theorem mergedBytes {th : Thread} {a : Acc} {b : Block} (ha : a.blk = some b.bid) (lo : Nat) {n : Nat} (hn : n ≤ 8) :
    ((Memory.getN b.pad (a.off + lo) n).mapIdx fun i y =>
      if (fwdBytes th a lo n).1.testBit i then BitVec.ofNat 8 (bitsOf (fwdBytes th a lo n).2.toNat (8 * i) 8) else y) =
    (List.range n).map fun i => ownByte th b (a.off + lo + i) := by
  rw [Memory.getN_eq_map, fwdBytes_pad ha]
  refine List.ext_getElem (by simp) fun i hi _ => ?_
  have hi : i < n := by simpa using hi
  simp only [List.getElem_mapIdx, List.getElem_map, List.getElem_range, gather_mask, hi, decide_true, Bool.true_and, ownByte]
  cases hs : newestStore th b.bid (a.off + lo + i) with
  | none => simp
  | some x =>
    have hb := gather_byte (p := fun i => newestStore th b.bid (a.off + lo + i))
      (v := fun i (x : BStore) => bitsOf x.data.toNat (8 * (a.off + lo + i - x.off)) 8)
      (fun _ _ => Nat.mod_lt _ (by norm_num)) hi (by omega) hs
    rw [Option.isSome_some, if_pos rfl, hb]
    refine BitVec.eq_of_toNat_eq ?_
    simp [bitsOf, Nat.shiftRight_eq_div_pow]

theorem astBytes_le (f : BitVec 3) : astBytes f ≤ 8 := by
  unfold astBytes
  repeat' split
  all_goals norm_num

/-- The words of a row image that a thread's ALD reads. -/
theorem aldRow_eq {u : Issue} {b : Block} {o : ASF} {x : Nat × Acc} (hx : x.2.blk = some b.bid) :
    aldRow u b o x = (List.range 64).map fun j => aldIn o.fmt (leNat ((List.range (astBytes o.fmt)).map fun i =>
      ownByte (u.grp.thr x.1) b (x.2.off + j * astBytes o.fmt + i))) := by
  simp only [aldRow, mergedBytes hx _ (astBytes_le o.fmt)]

/-! ## Tiles -/

theorem Block.bid_setTile (b : Block) (half t row col : Nat) (ws : List Word) : (b.setTile half t row col ws).bid = b.bid := rfl

theorem Block.saved_setTile (b : Block) (half t row col : Nat) (ws : List Word) : (b.setTile half t row col ws).saved = b.saved :=
  rfl

theorem Block.setTile_rest (b : Block) (half t row col : Nat) (ws : List Word) :
    b.setTile half t row col ws = { b with tiles := (b.setTile half t row col ws).tiles } := rfl

/-- A tile word after words of a row of a tile have been written from a column on. -/
theorem Block.tile_setTile (b : Block) (half t row col : Nat) (ws : List Word) (h k r c : Nat) :
    (b.setTile half t row col ws).tile h k r c =
      if h = half ∧ k = t ∧ r = row ∧ col ≤ c ∧ c < col + ws.length then ws.getD (c - col) 0 else b.tile h k r c := by
  let new : List TileWord := (ws.mapIdx fun i w => (⟨half, t, row, col + i, w⟩ : TileWord)).filter fun x => x.w != 0
  let keep (x : TileWord) : Bool := !(x.half == half && x.t == t && x.row == row && col ≤ x.col && decide (x.col < col + ws.length))
  let key (x : TileWord) : Bool := x.half == h && x.t == k && x.row == r && x.col == c
  have htile (y : Block) : y.tile h k r c = ((y.tiles.find? key).map TileWord.w).getD 0 := by
    unfold Block.tile
    cases y.tiles.find? key <;> rfl
  have hnew : ∀ x ∈ new, key x = true → h = half ∧ k = t ∧ r = row ∧ ∃ i, ∃ hi : i < ws.length, c = col + i ∧ x.w = ws[i] := by
    intro x hx hkey
    obtain ⟨i, hi, rfl⟩ := List.mem_mapIdx.1 (List.mem_filter.1 hx).1
    simp only [key, Bool.and_eq_true, beq_iff_eq] at hkey
    obtain ⟨⟨⟨h1, h2⟩, h3⟩, h4⟩ := hkey
    exact ⟨h1.symm, h2.symm, h3.symm, i, hi, h4.symm, rfl⟩
  rw [htile, htile]
  show (((new ++ b.tiles.filter keep).find? key).map TileWord.w).getD 0 = _
  rw [List.find?_append]
  split
  · next hin =>
    obtain ⟨rfl, rfl, rfl, hlo, hhi⟩ := hin
    have hold : (b.tiles.filter keep).find? key = none := List.find?_eq_none.2 fun x hx => by
      have hx := (List.mem_filter.1 hx).2
      simp only [keep, key] at hx ⊢
      grind
    have hlt : c - col < ws.length := by omega
    rw [hold, Option.or_none, List.getD_eq_getElem _ _ hlt]
    cases hf : new.find? key with
    | some x =>
      obtain ⟨-, -, -, i, hi, hc, hw⟩ := hnew x (List.mem_of_find?_eq_some hf) (List.find?_some hf)
      have : c - col = i := by omega
      simp only [Option.map_some, Option.getD_some, hw, this]
    | none =>
      by_contra hz
      have hmem : (⟨h, k, r, c, ws[c - col]⟩ : TileWord) ∈ new := by
        refine List.mem_filter.2 ⟨List.mem_mapIdx.2 ⟨c - col, hlt, ?_⟩, bne_iff_ne.2 (Ne.symm hz)⟩
        rw [Nat.add_sub_cancel' hlo]
      exact List.find?_eq_none.1 hf _ hmem (by simp [key])
  · next hout =>
    have hn : new.find? key = none := List.find?_eq_none.2 fun x hx hkey => by
      obtain ⟨h1, h2, h3, i, hi, hc, -⟩ := hnew x hx hkey
      exact hout ⟨h1, h2, h3, by omega, by omega⟩
    have hk (x : TileWord) (hx : key x = true) : keep x = true := by
      simp only [keep, key] at hx ⊢
      grind
    have hsame : (fun x => decide (keep x = true ∧ key x = true)) = key := by
      funext x
      cases hx : key x
      · simp
      · simp [hk x hx]
    rw [hn, Option.none_or, List.find?_filter, hsame]

/-! ## Changes of one block -/

theorem State.blk?_updBlk (s : State) (n : Nat) {f : Block → Block} (hf : ∀ x, (f x).bid = x.bid) (m : Nat) :
    (s.updBlk n f).blk? m = if m = n then (s.blk? n).map f else s.blk? m := by
  simp only [State.blk?, State.updBlk, List.find?_map]
  have hc : ((fun x : Block => x.bid == m) ∘ fun x => if x.bid == n then f x else x) = fun x => x.bid == m := by
    funext x
    simp only [Function.comp]
    split <;> simp [hf]
  rw [hc]
  split
  · next h =>
    subst h
    cases hx : s.blocks.find? fun x => x.bid == m with
    | none => rfl
    | some x =>
      have hm : x.bid = m := by simpa using List.find?_some (p := fun x : Block => x.bid == m) hx
      simp [hm]
  · next h =>
    cases hx : s.blocks.find? fun x => x.bid == m with
    | none => rfl
    | some x =>
      have hm : x.bid = m := by simpa using List.find?_some (p := fun x : Block => x.bid == m) hx
      simp [hm, h]

/-- From s to t a block goes from b to b', no other block changes, and each keeps what was saved with it. -/
structure BlockTo (n : Nat) (s t : State) (b b' : Block) : Prop where
  old : s.blk? n = some b
  new : t.blk? n = some b'
  others : ∀ m, m ≠ n → t.blk? m = s.blk? m
  kept : ∃ f : Block → Block, (∀ x, (f x).saved = x.saved) ∧ t.blocks = s.blocks.map f

section
variable {n : Nat} {s t r : State} {b b' b'' : Block}

theorem BlockTo.refl (h : s.blk? n = some b) : BlockTo n s s b b := ⟨h, h, fun _ _ => rfl, id, fun _ => rfl, (List.map_id _).symm⟩

theorem BlockTo.trans (h : BlockTo n s t b b') (k : BlockTo n t r b' b'') : BlockTo n s r b b'' := by
  obtain ⟨f, hf, ef⟩ := h.kept
  obtain ⟨f', hf', ef'⟩ := k.kept
  exact ⟨h.old, k.new, fun m hm => (k.others m hm).trans (h.others m hm), f' ∘ f, fun x => (hf' _).trans (hf x),
    by rw [ef', ef, List.map_map]⟩

theorem BlockTo.same (h : BlockTo n s t b b') (hr : r.blocks = t.blocks) : BlockTo n s r b b' :=
  ⟨h.old, by rw [State.blk?, hr]; exact h.new, fun m hm => by rw [← h.others m hm, State.blk?, hr, State.blk?], by rw [hr]; exact h.kept⟩

theorem BlockTo.of_updBlk {f : Block → Block} (hf : ∀ x, (f x).bid = x.bid) (hs : ∀ x, (f x).saved = x.saved)
    (h : s.blk? n = some b) : BlockTo n s (s.updBlk n f) b (f b) := by
  refine ⟨h, ?_, fun m hm => ?_, _, fun x => ?_, rfl⟩
  · rw [State.blk?_updBlk s n hf, if_pos rfl, h]; rfl
  · rw [State.blk?_updBlk s n hf, if_neg hm]
  · split
    · exact hs x
    · rfl

/-- Groups stay as they are while a block changes. -/
theorem BlockTo.group (h : BlockTo n s t b b') (hg : t.groups = s.groups) {m : Nat} {g : Group}
    (hm : (s.groups.find? fun x => x.gid == m) = some g) : GroupTo m s t g g := by
  obtain ⟨f, hf, ef⟩ := h.kept
  exact (GroupTo.refl hm).blocks hg f hf ef

/-- A change of one group leaves blocks as they are. -/
theorem blk?_of_only {gs : List Group} (h : t = { s with groups := gs }) (m : Nat) : t.blk? m = s.blk? m := by rw [h]; rfl

end

/-! ## The checks of AST and ALD -/

/-- The places of lanes that pass the checks are their offsets in the scratchpad of the own block. -/
theorem astCheck_ok {u : Issue} {s : State} {o : ASF} {wr : Bool} {as : List (Nat × Acc)} {b : Block}
    (h : astCheck u s o wr = .ok as) (hb : s.blk? u.grp.bid = some b) :
    as.map Prod.fst = u.act ∧ ∀ x ∈ as, x.2.off = (u.rd s x.1 o.o.toNat).toNat ∧ x.2.blk = some b.bid := by
  unfold astCheck at h
  split at h
  · cases h
  · split at h
    · cases h
    · next as' hl =>
      split at h
      · cases h
        refine ⟨checkLanes_lanes hl, fun ⟨k, a⟩ hx => ?_⟩
        have hx := checkLanes_ok_mem hl hx
        simp only [hb] at hx
        repeat' split at hx
        all_goals cases hx
        exact ⟨rfl, rfl⟩
      · cases h

/-! ## AST -/

theorem half_of_blk {u : Issue} {s : State} {b : Block} (hb : s.blk? u.grp.bid = some b) : u.half s = u.core - b.core := by
  rw [Issue.half, hb]
  rfl

/-- The row image that AST writes for a lane, from the tiles of its block. -/
def astImage (u : Issue) (b : Block) (o : ASF) (k : Nat) : List Byte :=
  (List.range 64).flatMap fun j => leBytes (astBytes o.fmt) (astOut o.fmt (u.pfx.sat == 1)
    (b.tile (u.core - b.core) o.acc.toNat k j))

theorem astRow_eq {u : Issue} {s : State} {b : Block} (hb : s.blk? u.grp.bid = some b) (o : ASF) (k : Nat) :
    astRow u s o k = astImage u b o k := by
  rw [astRow, half_of_blk hb, hb]
  rfl

/-- Rows written to the scratchpad one after the other change its bytes, and what is known of writes, alone. -/
theorem astRows_spec {u : Issue} {s : State} {b : Block} (o : ASF) (as : List (Nat × Acc)) (hb : s.blk? u.grp.bid = some b) :
    let t := as.foldl (fun s x => s.writePad u.grp.bid x.2.off (astRow u s o x.1) (u.wrBy s x.1)) s
    t = { s with hist := t.hist, nextId := t.nextId, blocks := t.blocks } ∧ ∃ b', BlockTo u.grp.bid s t b b' ∧
      b' = { b with pad := b'.pad, sus := b'.sus } ∧
      b'.pad = as.foldl (fun m x => Memory.putN m x.2.off (astImage u b o x.1)) b.pad := by
  induction as generalizing s b with
  | nil => exact ⟨rfl, b, .refl hb, rfl, rfl⟩
  | cons x xs ih =>
    let f (k : Block) : Block := { k with
      pad := Memory.putN k.pad x.2.off (astRow u s o x.1)
      sus := k.sus.filter fun w => !decide (x.2.off ≤ 4 * w ∧ 4 * w + 4 ≤ x.2.off + (astRow u s o x.1).length) }
    let l : State := s.logWrite (u.wrBy s x.1) { blk := some u.grp.bid, off := x.2.off, n := (astRow u s o x.1).length }
      (Memory.getN b.pad x.2.off (astRow u s o x.1).length)
    have hw : s.writePad u.grp.bid x.2.off (astRow u s o x.1) (u.wrBy s x.1) = l.updBlk u.grp.bid f := by
      rw [State.writePad, hb]
    have hl : BlockTo u.grp.bid s l b b := (BlockTo.refl hb).same rfl
    have h1 : BlockTo u.grp.bid s (l.updBlk u.grp.bid f) b (f b) :=
      hl.trans (.of_updBlk (fun _ => rfl) (fun _ => rfl) hl.new)
    obtain ⟨only, b', h2, hb', hpad⟩ := ih h1.new
    dsimp only
    rw [List.foldl_cons, hw]
    refine ⟨only, b', h1.trans h2, hb', hpad.trans ?_⟩
    rw [List.foldl_cons, ← astRow_eq hb]
    rfl

theorem tileBusy_advance {i : Instr} {u : Issue} {s : State} (h : s.issue? = some u) (acc : Nat) :
    tileBusy u (advance i u s) acc = tileBusy u s acc := by
  rw [advance_only h]
  rfl

/-- AST writes its rows where the lanes pass their checks, nothing is on its way to the tile, and no access comes first. -/
theorem ast_writes {o : ASF} {u : Issue} {s : State} {as : List (Nat × Acc)} {b : Block} (h : Issues (.ast o) u s)
    (hc : astCheck u (advance (.ast o) u s) o true = .ok as) (hb : s.blk? u.grp.bid = some b)
    (ht : tileBusy u s o.acc.toNat = false) (hp : padWaits u (advance (.ast o) u s) true = false) :
    EndsAwake (.ast o) u s fun t =>
      t = { s with groups := t.groups, hist := t.hist, nextId := t.nextId, blocks := t.blocks } ∧
      (∀ m, m ≠ u.grp.bid → t.blk? m = s.blk? m) ∧
      ∃ b', t.blk? u.grp.bid = some b' ∧ b' = { b with pad := b'.pad, sus := b'.sus } ∧
      b'.pad = u.act.foldl (fun m k => Memory.putN m (u.rd s k o.o.toNat).toNat ((List.range 64).flatMap fun j =>
        leBytes (astBytes o.fmt) (astOut o.fmt (u.pfx.sat == 1) (b.tile (u.half s) o.acc.toNat k j)))) b.pad ∧
      Acts (.ast o) u s t id fun _ th => th := by
  have hblk := blk?_of_only (advance_only (i := .ast o) h.1)
  have hb' : (advance (.ast o) u s).blk? u.grp.bid = some b := (hblk _).trans hb
  obtain ⟨only, b', moved, hrest, hpad⟩ := astRows_spec o as hb'
  obtain ⟨hlanes, hplace⟩ := astCheck_ok hc hb'
  obtain ⟨g, passed_⟩ := advance_by (i := .ast o) h.1
  refine endsAwake_of h (exec_ast o s) ?_ ⟨?_, fun m hm => (moved.others m hm).trans (hblk m), b', moved.new, hrest, ?_, ?_⟩
  · simp [hc, tileBusy_advance h.1, ht, hp]
  · generalize as.foldl (fun s x => s.writePad u.grp.bid x.2.off (astRow u s o x.1) (u.wrBy s x.1)) (advance (.ast o) u s) = t at only ⊢
    rw [advance_only h.1] at only
    have hgs : t.groups = (advance (.ast o) u s).groups := by rw [only]
    rw [hgs]
    exact only
  · rw [hpad, ← hlanes, List.foldl_map]
    refine List.foldl_ext _ _ _ fun m x hx => ?_
    rw [(hplace x hx).1, rd_advance, astImage, half_of_blk hb]
  · have stay := moved.group (by rw [only]) passed_.moved.new
    exact GroupBy.acts ⟨passed_.moved.trans stay, passed_.rest, passed_.size, passed_.thr⟩ fun _ _ => rfl

/-! ## ALD -/

/-- From s to t, threads of a group have read rows of their block's scratchpad into a tile: the tile has the words, and the threads
know the writes that they found. -/
structure RowsRead (u : Issue) (o : ASF) (W : Nat → Nat → Word) (ks : List Nat) (s t : State) (g g' : Group) (b b' : Block) : Prop where
  only : t = { s with groups := t.groups, blocks := t.blocks }
  moved : GroupTo u.gid s t g g'
  rest : g' = { g with threads := g'.threads }
  size : g'.threads.length = g.threads.length
  thr : ∀ k, k < g.threads.length → g'.thr k = { g.thr k with view := (g'.thr k).view }
  others : ∀ k, k < g.threads.length → k ∉ ks → g'.thr k = g.thr k
  block : t.blk? u.grp.bid = some b'
  tiles : b' = { b with tiles := b'.tiles }
  tile : ∀ h k r c, b'.tile h k r c =
    if h = u.core - b.core ∧ k = o.acc.toNat ∧ r ∈ ks ∧ c < 64 then W r c else b.tile h k r c

section
variable {u : Issue} {o : ASF} {W : Nat → Nat → Word} {s t r : State} {g g' g'' : Group} {b b' b'' : Block}

theorem RowsRead.nil (hg : (s.groups.find? fun x => x.gid == u.gid) = some g) (hb : s.blk? u.grp.bid = some b) :
    RowsRead u o W [] s s g g b b :=
  ⟨rfl, .refl hg, rfl, rfl, fun _ _ => rfl, fun _ _ _ => rfl, hb, rfl, fun _ _ _ _ => by simp⟩

theorem RowsRead.cons {j : Nat} {ks : List Nat} (h : RowsRead u o W [j] s t g g' b b') (k : RowsRead u o W ks t r g' g'' b' b'') :
    RowsRead u o W (j :: ks) s r g g'' b b'' := by
  refine ⟨?_, h.moved.trans k.moved, by rw [k.rest, h.rest], k.size.trans h.size, fun i hi => ?_, fun i hi hn => ?_, k.block,
    by rw [k.tiles, h.tiles], fun x y row c => ?_⟩
  · have e := k.only
    rw [h.only] at e
    exact e
  · rw [k.thr i (by rw [h.size]; exact hi), h.thr i hi]
  · rw [List.mem_cons, not_or] at hn
    rw [k.others i (by rw [h.size]; exact hi) hn.2, h.others i hi (by simpa using hn.1)]
  · have hcore : b'.core = b.core := by rw [h.tiles]
    rw [k.tile, h.tile, hcore]
    simp only [List.mem_cons, List.mem_nil_iff, or_false]
    grind

/-- One row. -/
theorem aldRow_read {x : Nat × Acc} (hg : (s.groups.find? fun x => x.gid == u.gid) = some g) (hb : s.blk? u.grp.bid = some b)
    (hW : aldRow u b o x = (List.range 64).map (W x.1)) :
    ∃ g' b', RowsRead u o W [x.1] s (aldLearn u o (s.updBlk u.grp.bid fun b =>
      b.setTile (u.half s) o.acc.toNat x.1 0 (aldRow u b o x)) x) g g' b b' := by
  let f (b : Block) : Block := b.setTile (u.half s) o.acc.toNat x.1 0 (aldRow u b o x)
  have hs : BlockTo u.grp.bid s (s.updBlk u.grp.bid f) b (f b) :=
    .of_updBlk (fun _ => Block.bid_setTile ..) (fun _ => Block.saved_setTile ..) hb
  show ∃ g' b', RowsRead u o W [x.1] s (aldLearn u o (s.updBlk u.grp.bid f) x) g g' b b'
  obtain ⟨bs, hbs⟩ : ∃ bs, s.updBlk u.grp.bid f = { s with blocks := bs } := ⟨_, rfl⟩
  generalize s.updBlk u.grp.bid f = s1 at hs hbs ⊢
  let q (g : Group) : Group := g.updThr x.1 (Thread.learn s1.nextId (readFrom s1 (u.grp.agent x.1) 0 4
    (readBefore s1 { blk := some u.grp.bid, off := x.2.off, n := 64 * astBytes o.fmt } 0 []).2))
  have hg1 : GroupTo u.gid s s1 g g := hs.group (by rw [hbs]) hg
  have o2 : OneGroup u.gid s1 (aldLearn u o s1 x) g (q g) := .of_updGrp q (fun _ => rfl) hg1.new
  refine ⟨q g, f b, ?_, hg1.trans o2.to, rfl, Group.length_updThr .., fun k hk => ?_, fun k hk hn => ?_,
    (blk?_of_only o2.only _).trans hs.new, Block.setTile_rest .., fun h k r c => ?_⟩
  · have e := o2.only
    have hblocks : (aldLearn u o s1 x).blocks = bs := by rw [e, hbs]
    rw [hblocks]
    refine e.trans ?_
    rw [hbs]
  · rw [Group.thr_updThr _ _ _ hk]
    split <;> rfl
  · rw [Group.thr_updThr _ _ _ hk, if_neg (by simpa using hn)]
  · rw [Block.tile_setTile, half_of_blk hb, hW]
    simp only [List.mem_singleton, List.length_map, List.length_range, Nat.zero_add, Nat.zero_le, true_and, Nat.sub_zero]
    refine ite_congr rfl (fun hin => ?_) fun _ => rfl
    obtain ⟨-, -, rfl, hc⟩ := hin
    simp [hc]

/-- Rows read one after the other. -/
theorem aldRows_read (xs : List (Nat × Acc)) (hg : (s.groups.find? fun x => x.gid == u.gid) = some g) (hb : s.blk? u.grp.bid = some b)
    (hW : ∀ x ∈ xs, aldRow u b o x = (List.range 64).map (W x.1)) :
    ∃ g' b', RowsRead u o W (xs.map Prod.fst) s (xs.foldl (fun s x => aldLearn u o (s.updBlk u.grp.bid fun b =>
      b.setTile (u.half s) o.acc.toNat x.1 0 (aldRow u b o x)) x) s) g g' b b' := by
  induction xs generalizing s g b with
  | nil => exact ⟨g, b, .nil hg hb⟩
  | cons x xs ih =>
    obtain ⟨g1, b1, h1⟩ := aldRow_read hg hb (hW x List.mem_cons_self)
    obtain ⟨g2, b2, h2⟩ := ih h1.moved.new h1.block fun y hy => by
      rw [← hW y (List.mem_cons_of_mem _ hy), h1.tiles]
      rfl
    exact ⟨g2, b2, h1.cons h2⟩

end

/-- The word of a tile column that a lane's ALD reads, in the format of the instruction. -/
def aldWord (u : Issue) (s : State) (o : ASF) (b : Block) (r c : Nat) : Word :=
  aldIn o.fmt (leNat ((List.range (astBytes o.fmt)).map fun i =>
    ownByte (u.grp.thr r) b ((u.rd s r o.o.toNat).toNat + c * astBytes o.fmt + i)))

section
variable {o : ASF} {u : Issue} {s : State} {as : List (Nat × Acc)} {b : Block}

/-- The rows of the threads without a skip count are read once every active thread has been counted (R121). -/
theorem ald_counts_reads (h : Issues (.ald o) u s) (hc : astCheck u (advance (.ald o) u s) o false = .ok as)
    (hb : s.blk? u.grp.bid = some b) (hs : u.ordFull = [])
    (hw : u.writers = [] ∨ (padWaits u (advance (.ald o) u s) false = false ∧ tileBusy u s o.acc.toNat = false)) :
    ∃ t g g' b' ks, exec (.ald o) s = .next (finish (.ald o) u t) ∧
      GroupBy u.gid s (countTile u (advance (.ald o) u s)) u.grp g id (fun k th =>
        onAct u (fun _ th => { th with ord := th.ord + 1, skip := th.skip - 1 }) k (passed (.ald o) u k th)) ∧
      RowsRead u o (aldWord u s o b) ks (countTile u (advance (.ald o) u s)) t g g' b b' ∧ ∀ k, k ∈ ks ↔ k ∈ u.writers := by
  obtain ⟨g0, passed_⟩ := advance_by (i := .ald o) h.1
  obtain ⟨g, counted⟩ := updAct_by (u := u) passed_.moved.new fun _ th => { th with ord := th.ord + 1, skip := th.skip - 1 }
  have hfull : u.ordFull.isEmpty = true := by simp [hs]
  have hb1 : (advance (.ald o) u s).blk? u.grp.bid = some b := (blk?_of_only (advance_only h.1) _).trans hb
  have hb2 : (countTile u (advance (.ald o) u s)).blk? u.grp.bid = some b :=
    (blk?_of_only (updAct_only passed_.moved.new _) _).trans hb1
  have both : GroupBy u.gid s (countTile u (advance (.ald o) u s)) u.grp g id (fun k th =>
      onAct u (fun _ th => { th with ord := th.ord + 1, skip := th.skip - 1 }) k (passed (.ald o) u k th)) :=
    passed_.trans counted fun _ _ _ => rfl
  by_cases hn : u.writers = []
  · refine ⟨countTile u (advance (.ald o) u s), g, g, b, [], (exec_ald o s).trans (execUnit_ok h ?_), both, .nil both.moved.new hb2,
      fun k => by rw [hn]⟩
    simp [hc, hn, tileWrite, hfull]
  · obtain ⟨hp, ht⟩ := hw.resolve_left hn
    obtain ⟨hlanes, hplace⟩ := astCheck_ok hc hb1
    obtain ⟨g', b', read⟩ := aldRows_read (W := aldWord u s o b) (as.filter fun x => u.writers.contains x.1) both.moved.new hb2
      fun x hx => by
        obtain ⟨hoff, hblk⟩ := hplace x (List.mem_filter.1 hx).1
        rw [aldRow_eq hblk, hoff, rd_advance]
        rfl
    have hks (k : Nat) : k ∈ (as.filter fun x => u.writers.contains x.1).map Prod.fst ↔ k ∈ u.writers := by
      refine ⟨fun hk => ?_, fun hk => ?_⟩
      · obtain ⟨x, hx, rfl⟩ := List.mem_map.1 hk
        simpa using (List.mem_filter.1 hx).2
      · have hact : k ∈ as.map Prod.fst := by rw [hlanes]; exact (List.mem_filter.1 hk).1
        obtain ⟨x, hx, rfl⟩ := List.mem_map.1 hact
        exact List.mem_map_of_mem (List.mem_filter.2 ⟨hx, by simpa using hk⟩)
    refine ⟨_, g, g', b', _, (exec_ald o s).trans (execUnit_ok h ?_), both, read, hks⟩
    simp [hc, hn, hp, tileWrite, hfull, tileBusy_advance h.1, ht]

/-- ALD ends with its rows in the tile, every active thread counted, and the reading threads' knowledge of what they found. -/
theorem ald_reads (h : Issues (.ald o) u s) (hc : astCheck u (advance (.ald o) u s) o false = .ok as)
    (hb : s.blk? u.grp.bid = some b) (hs : u.ordFull = [])
    (hw : u.writers = [] ∨ (padWaits u (advance (.ald o) u s) false = false ∧ tileBusy u s o.acc.toNat = false)) :
    Ends (.ald o) u s fun t => ∃ v : Nat → View, t = { s with groups := t.groups, blocks := t.blocks } ∧
      Acts (.ald o) u s t id (onAct u fun k th => { th with
        ord := th.ord + 1, skip := th.skip - 1, view := if u.writers.contains k then v k else th.view }) ∧
      ∃ b', t.blk? u.grp.bid = some b' ∧ b' = { b with tiles := b'.tiles } ∧
      ∀ h k r c, b'.tile h k r c = if h = u.half s ∧ k = o.acc.toNat ∧ u.writers.contains r ∧ c < 64 then aldWord u s o b r c
        else b.tile h k r c := by
  obtain ⟨t, g, g', b', ks, e, both, read, hks⟩ := ald_counts_reads h hc hb hs hw
  refine ⟨t, e, fun k => (g'.thr k).view, ?_, ⟨fun m hm => (read.moved.others m hm).trans (both.moved.others m hm), g',
    State.grp?_of_find read.moved.new, ?_, read.size.trans both.size, fun k hk => ?_⟩, b', read.block, read.tiles, fun x y r c => ?_⟩
  · obtain ⟨g0, passed_⟩ := advance_by (i := .ald o) h.1
    have only := read.only
    rw [countTile, updAct_only passed_.moved.new, advance_only h.1] at only
    exact only
  · rw [read.rest, both.rest]
  · have hk' : k < g.threads.length := by rw [both.size]; exact hk
    have hsub : k ∈ u.writers → k ∈ u.act := fun hm => (List.mem_filter.1 hm).1
    by_cases hm : k ∈ u.writers
    · rw [read.thr k hk', both.thr k hk]
      simp [onAct, hm, hsub hm]
    · rw [read.others k hk' (fun hn => hm ((hks k).1 hn)), both.thr k hk]
      simp [onAct, hm]
  · rw [read.tile, half_of_blk hb]
    simp only [hks, List.contains_iff_mem]

end

/-! ## Statement -/

/-- Settles O32: `astRows_spec` and `aldRows_read` give the rows that are written and read, one lane after the other. -/
theorem tileRowsToScratchpad : Obligations.tileRowsToScratchpad := by
  unfold Obligations.tileRowsToScratchpad
  refine ⟨fun o u s h => ⟨fun ti ht => ?astTrap, fun as b hc hb => ⟨fun hw => ?astWaits, fun ht hp => ast_writes h hc hb ht hp⟩⟩,
    fun o u s h => ⟨fun ti ht => ?aldTrap, fun as hc hs hw => ?aldFull, fun as b hc hb hs => ⟨fun hn hw => ?aldWaits, fun hw => ?aldReads⟩⟩⟩
  case astTrap => exact (exec_ast o s).trans (execUnit_trap h (by simp [ht]))
  case astWaits =>
    refine parks_of h (fun s => exec_ast o s) ?_
    simp only [hc, tileBusy_advance h.1]
    cases ht : tileBusy u s o.acc.toNat with
    | true => rfl
    | false => simp [hw.resolve_left (by simp [ht])]
  case aldTrap => exact (exec_ald o s).trans (execUnit_trap h (by simp [ht]))
  case aldFull =>
    have hf : u.ordFull ≠ [] := hs
    refine (exec_ald o s).trans (execUnit_trap (ti := u.ti .regionFull u.ordFull) h ?_)
    have hgo : (!u.writers.isEmpty && padWaits u (advance (.ald o) u s) false) = false := by
      rcases hw with hw | hw <;> simp [hw]
    simp [hc, hgo, tileWrite, hf]
  case aldWaits =>
    have hf : u.ordFull = [] := hs
    refine parks_of h (fun s => exec_ald o s) ?_
    cases hp : padWaits u (advance (.ald o) u s) false with
    | true => simp [hc, hn]
    | false => simp [hc, hn, tileWrite, hf, tileBusy_advance h.1, hw.resolve_left (by simp [hp])]
  case aldReads =>
    obtain ⟨t, e, v, only, acts, b', hb', rest, tile⟩ := ald_reads h hc hb hs hw
    refine ⟨t, e, v, only, acts, b', hb', rest, fun x y r c => ?_⟩
    split
    · next hin => exact (tile x y r c).trans (if_pos hin)
    · next hout => exact (tile x y r c).trans (if_neg hout)

end Sys2Proof.Machine
end

section
/-! Requests on their way (R91, R94, R273, R414, R432 to R434): admission, refusal and retry, the slice, and the reply. -/

namespace Sys2Proof.Machine

/-! ## What threads that go on leave as it is -/

section
variable {α : Type}

theorem foldl_keeps {β : Type} {p : State → α} {f : State → β → State} (hf : ∀ s x, p (f s x) = p s) (l : List β) (s : State) :
    p (l.foldl f s) = p s := by
  induction l generalizing s with
  | nil => rfl
  | cons x l ih => rw [List.foldl_cons, ih, hf]

/-- A part of the device that groups, blocks, grids, write-backs and the lines of slices have no say in. -/
def Apart (p : State → α) : Prop := ∀ s gs bs xs ws ls,
  p { s with groups := gs, blocks := bs, grids := xs, wbs := ws, l2 := ls } = p s

variable {p : State → α} (h : Apart p)
include h

theorem Apart.updGrp (s : State) (n : Nat) (f : Group → Group) : p (s.updGrp n f) = p s := by
  unfold State.updGrp
  split
  · exact h s _ s.blocks s.grids s.wbs s.l2
  · exact h s s.groups _ s.grids s.wbs s.l2

theorem Apart.barRelease (gs : List Group) (s : State) (seen : Rel) (q : Park → Bool) : p (barRelease gs s seen q) = p s :=
  foldl_keeps (fun _ _ => h.updGrp ..) gs s

theorem Apart.updBlk (s : State) (n : Nat) (f : Block → Block) : p (s.updBlk n f) = p s :=
  h s s.groups _ s.grids s.wbs s.l2

theorem Apart.barComplete (s : State) (bid : Nat) (k : BarSt) : p (barComplete s bid k) = p s := by
  unfold Machine.barComplete
  dsimp only
  split
  · rfl
  · split
    · rfl
    · split
      · exact h.updBlk ..
      · rw [h.barRelease, h.updBlk]

theorem Apart.cbarComplete (s : State) (gr : Nat) (e : Nat × BarSt) : p (cbarComplete s gr e) = p s := by
  unfold Machine.cbarComplete
  dsimp only
  split
  · rfl
  · rw [h.barRelease]
    exact h s s.groups s.blocks _ s.wbs s.l2

/-- Threads that go on leave such a part as it is. -/
theorem Apart.wake (s : State) : p (wake s) = p s := by
  rw [wake_eq, clusterBarriers, foldl_keeps fun s x => foldl_keeps (fun s e => h.cbarComplete ..) _ s, blockBarriers,
    foldl_keeps fun s b => foldl_keeps (fun s k => h.barComplete ..) _ s]
  exact h s _ s.blocks s.grids _ _

end

theorem wake_reqs (s : State) : (wake s).reqs = s.reqs := Apart.wake (fun _ _ _ _ _ _ => rfl) s

theorem wake_bufs (s : State) : (wake s).bufs = s.bufs := Apart.wake (fun _ _ _ _ _ _ => rfl) s

/-! ## What performing a request makes of the requests -/

theorem writeMem_reqs (s : State) (b o : Nat) (ys : List Byte) (by_ : By) : (s.writeMem b o ys by_).reqs = s.reqs := by
  rw [State.writeMem_mem]

theorem writePad_reqs (s : State) (bid o : Nat) (ys : List Byte) (by_ : By) : (s.writePad bid o ys by_).reqs = s.reqs := by
  unfold State.writePad
  split <;> rfl

theorem fillL2_reqs (s : State) (cx b off owner : Nat) : (fillL2 s cx b off owner).reqs = s.reqs := by
  unfold fillL2
  dsimp only
  repeat' split
  all_goals rfl

theorem fillL1_reqs (s : State) (core b off owner : Nat) : (fillL1 s core b off owner).reqs = s.reqs := by
  unfold fillL1
  dsimp only
  repeat' split
  all_goals rfl

theorem firstAccess_reqs (s : State) (b off : Nat) : (firstAccess s b off).reqs = s.reqs := by rw [firstAccess_only]

theorem clearAtom_reqs (s : State) (b off : Nat) : (clearAtom s b off).reqs = s.reqs := by
  unfold clearAtom
  split <;> rfl

/-- From s to t the requests of one number are performed, with a value and perhaps a failure. -/
def Performed (id : Nat) (s t : State) : Prop :=
  ∃ v bad, t.reqs = s.reqs.map fun x => if x.id == id then Req.done v bad x else x

theorem performed_updReq {id : Nat} {s t : State} (h : t.reqs = s.reqs) (v : DWord) (bad : Option Cause) :
    Performed id s (t.updReq id (Req.done v bad)) := ⟨v, bad, by rw [State.updReq, h]⟩

theorem Performed.same {id : Nat} {s t r : State} (h : Performed id s t) (hr : r.reqs = t.reqs) : Performed id s r := by
  obtain ⟨v, bad, e⟩ := h
  exact ⟨v, bad, hr.trans e⟩

theorem learnRead_reqs (s : State) (r : Req) (ws : List Wr) : (learnRead s r ws).reqs = s.reqs := State.updThr_reqs ..

theorem performPad_performed (s : State) (r : Req) (k : Nat) : Performed r.id s (performPad s r k) := by
  unfold performPad
  split
  · exact performed_updReq rfl ..
  · split
    · exact performed_updReq (writePad_reqs ..) ..
    · exact performed_updReq (learnRead_reqs ..) ..

theorem performPeer_performed (s : State) (r : Req) : Performed r.id s (performPeer s r) := by
  unfold performPeer
  dsimp only
  refine Performed.same ?_ (wake_reqs _)
  split
  · refine Performed.same ?_ (State.updThr_reqs ..)
    exact performed_updReq rfl ..
  · exact performed_updReq rfl ..

/-! ### At memory -/

/-- The device as the access of a request to memory finds it: the frame is owned, and the core's older copy of the line is gone. -/
def atMemory (s : State) (r : Req) : State :=
  let s1 := dropL1 (firstAccess s r.b r.off) r.core r.b (r.off / 128)
  { s1 with free := s1.free + 1 }

/-- The bytes that a request finds at memory, and the writes that they come from. -/
def foundBytes (s : State) (r : Req) : List Byte × List Wr :=
  if erasing s r.b r.off then (loadBytes s r.b r.off r.size, [])
  else readBefore s r.loc (missed s r) (loadBytes s r.b r.off r.size)

/-- The failure of a request that consumes poison (R395). -/
def foundPoison (s : State) (r : Req) : Option Cause := if s.poisoned r.b r.off r.size then some .uncorrectable else none

theorem atMemory_only (s : State) (r : Req) : atMemory s r = { s with
    frames := (atMemory s r).frames, l1 := (atMemory s r).l1, free := s.free + 1 } := by
  obtain ⟨fr, h⟩ : ∃ fr, firstAccess s r.b r.off = { s with frames := fr } := ⟨_, firstAccess_only ..⟩
  rw [atMemory, h]
  rfl

/-- What a request does at memory, before the line goes to the core's L1. -/
def memEffect (s : State) (r : Req) : State :=
  match r.kind with
  | .load => (learnRead s r (foundBytes s r).2).updReq r.id (Req.done (mergeFwd r (foundBytes s r).1) (foundPoison s r))
  | .store =>
    let s1 := if wholeAtom s r then clearAtom s r.b r.off else s
    (dirtyLine (s1.writeMem r.b r.off (leBytes r.size r.data.toNat) (r.by_ s1 false)) r.b r.off).updReq r.id (Req.done 0 none)
  | .rmw op b c =>
    let old := BitVec.ofNat 64 (leNat (foundBytes s r).1)
    let s' := if (foundPoison s r).isSome then s else match rmwNew op r.size old b c with
      | some x => dirtyLine (s.writeMem r.b r.off (leBytes r.size x.toNat) (r.by_ s true)) r.b r.off
      | none => s
    (learnRead s' r (foundBytes s r).2).updReq r.id (Req.done old (foundPoison s r))

/-- A request that reaches its frame takes effect at memory, and its line may go to the core's L1 (R91, R371). -/
theorem performMem_reached {s : State} {r : Req} (h : reaches s r.b r.off r.cxid r.opens = true) : ∃ t l1,
    performMem s r = wake t ∧ t = { memEffect (atMemory s r) r with l1 := l1 } := by
  have hfill (t : State) (c b off owner : Nat) : fillL1 t c b off owner = { t with l1 := (fillL1 t c b off owner).l1 } := by
    unfold fillL1
    dsimp only
    repeat' split
    all_goals rfl
  have e : performMem s r = wake (if r.kind == .load && r.pol != 1 && (foundPoison (atMemory s r) r).isNone &&
      !erasing (memEffect (atMemory s r) r) r.b r.off then
        fillL1 (memEffect (atMemory s r) r) r.core r.b r.off (ownerTag (memEffect (atMemory s r) r) r.b r.off)
      else memEffect (atMemory s r) r) := by
    unfold performMem
    rw [h, if_neg (by decide)]
    rfl
  rw [e]
  split
  · exact ⟨_, _, rfl, hfill ..⟩
  · exact ⟨_, (memEffect (atMemory s r) r).l1, rfl, rfl⟩

theorem atMemory_reqs (s : State) (r : Req) : (atMemory s r).reqs = s.reqs := by rw [atMemory_only]

theorem memEffect_performed (s : State) (r : Req) : Performed r.id s (memEffect s r) := by
  unfold memEffect
  cases r.kind with
  | load => exact performed_updReq (learnRead_reqs ..) ..
  | store =>
    refine performed_updReq ((writeMem_reqs ..).trans ?_) ..
    split
    · exact clearAtom_reqs ..
    · rfl
  | rmw op b c =>
    refine performed_updReq ((learnRead_reqs ..).trans ?_) ..
    split
    · rfl
    · split
      · exact writeMem_reqs ..
      · rfl

/-- A request whose frame has passed to an owner that does not open it fails (R371). -/
theorem performMem_unreached {s : State} {r : Req} (h : reaches s r.b r.off r.cxid r.opens = false) :
    performMem s r = wake (s.updReq r.id (Req.done 0 (some .protection))) := by
  unfold performMem
  rw [h]
  rfl

theorem performMem_performed (s : State) (r : Req) : Performed r.id s (performMem s r) := by
  cases h : reaches s r.b r.off r.cxid r.opens with
  | true =>
    obtain ⟨t, l1, e, ht⟩ := performMem_reached h
    obtain ⟨v, bad, hv⟩ := memEffect_performed (atMemory s r) r
    refine ⟨v, bad, ?_⟩
    rw [e, wake_reqs, ht, ← atMemory_reqs s r]
    exact hv
  | false =>
    rw [performMem_unreached h]
    exact (performed_updReq rfl ..).same (wake_reqs _)

/-- A request that is performed where it stands. -/
theorem perform_performed (s : State) (r : Req) : Performed r.id s (perform s r) := by
  unfold perform
  split
  · exact (performPad_performed ..).same (wake_reqs _)
  · split
    · exact performPeer_performed ..
    · exact performMem_performed ..

/-- The request that is found under a number once it has been performed. -/
theorem Performed.find {id : Nat} {s t : State} {r : Req} (h : Performed id s t) (hr : (s.reqs.find? fun r => r.id == id) = some r) :
    ∃ r1, (t.reqs.find? fun r => r.id == id) = some r1 ∧ r1.id = id ∧ r1.performed = true := by
  obtain ⟨v, bad, e⟩ := h
  have hid : (r.id == id) = true := List.find?_some (p := fun r : Req => r.id == id) hr
  have hc : ((fun r : Req => r.id == id) ∘ fun x => if x.id == id then Req.done v bad x else x) = fun r => r.id == id := by
    funext x
    simp only [Function.comp]
    split <;> rfl
  refine ⟨Req.done v bad r, ?_, eq_of_beq hid, rfl⟩
  rw [e, List.find?_map, hc, hr, Option.map_some, if_pos hid]

/-! ### Buffers stay as they are -/

theorem writePad_bufs (s : State) (bid o : Nat) (ys : List Byte) (by_ : By) : (s.writePad bid o ys by_).bufs = s.bufs := by
  unfold State.writePad
  split <;> rfl

theorem writeMem_bufs (s : State) (b o : Nat) (ys : List Byte) (by_ : By) : (s.writeMem b o ys by_).bufs = s.bufs := by
  rw [State.writeMem_mem]

theorem learnRead_bufs (s : State) (r : Req) (ws : List Wr) : (learnRead s r ws).bufs = s.bufs := State.updThr_bufs ..

theorem memEffect_bufs (s : State) (r : Req) : (memEffect s r).bufs = s.bufs := by
  unfold memEffect
  cases r.kind with
  | load => exact learnRead_bufs ..
  | store =>
    refine (writeMem_bufs ..).trans ?_
    split
    · unfold clearAtom
      split <;> rfl
    · rfl
  | rmw op b c =>
    refine (learnRead_bufs ..).trans ?_
    split
    · rfl
    · split
      · exact writeMem_bufs ..
      · rfl

theorem performPad_bufs (s : State) (r : Req) (k : Nat) : (performPad s r k).bufs = s.bufs := by
  unfold performPad
  split
  · rfl
  · split
    · exact writePad_bufs ..
    · exact learnRead_bufs ..

theorem performPeer_bufs (s : State) (r : Req) : (performPeer s r).bufs = s.bufs := by
  unfold performPeer
  dsimp only
  rw [wake_bufs]
  split
  · exact State.updThr_bufs ..
  · rfl

theorem perform_bufs (s : State) (r : Req) : (perform s r).bufs = s.bufs := by
  unfold perform
  split
  · rw [wake_bufs, performPad_bufs]
  · split
    · exact performPeer_bufs ..
    · cases h : reaches s r.b r.off r.cxid r.opens with
      | true =>
        obtain ⟨t, l1, e, ht⟩ := performMem_reached h
        rw [e, wake_bufs, ht]
        exact (memEffect_bufs ..).trans (by rw [atMemory_only])
      | false => rw [performMem_unreached h, wake_bufs, State.updReq]

/-! ## Admission -/

theorem nodup_eraseDups {α : Type} [BEq α] [LawfulBEq α] (l : List α) : l.eraseDups.Nodup := by
  induction hn : l.length using Nat.strong_induction_on generalizing l with
  | _ n ih =>
    cases l with
    | nil => exact List.nodup_nil
    | cons x xs =>
      rw [List.eraseDups_cons, List.nodup_cons]
      refine ⟨by simp [List.mem_eraseDups], ih _ ?_ _ rfl⟩
      rw [← hn]
      exact Nat.lt_succ_of_le (List.length_filter_le ..)

theorem mem_leaving {s : State} {r x : Req} :
    x ∈ leaving s r ↔ x ∈ s.reqs ∧ r.mate x = true ∧ x.stage = .waiting ∧ heldBehind s x = false := by
  simp [leaving, and_assoc]

section
variable {s : State} {id : Nat} {r : Req}

/-- A request that waits and that nothing holds back is served from a copy in L1 where there is one (R91, R432). -/
theorem requestAdmission_l1Hit (hr : (s.reqs.find? fun r => r.id == id) = some r) (hs : r.stage = .waiting)
    (hh : heldBehind s r = false) (hl : l1Hit s r = true) :
    exec (.requestAdmission id) s = .next (if mayPerform s r then perform s r else s) := by
  rw [exec_requestAdmission, execRequestAdmission]
  simp [hr, hs, hh, hl]

/-- Else the pieces that may leave take their tokens and a permit, and leave together (R414, R432). -/
theorem requestAdmission_sends (hr : (s.reqs.find? fun r => r.id == id) = some r) (hs : r.stage = .waiting)
    (hh : heldBehind s r = false) (hl : l1Hit s r = false) (ht : hasTokens s r.cxid (reqTokens s r) = true)
    (hp : permits s r.core ((r.home s).getD 0) < 6) :
    exec (.requestAdmission id) s = .next { takeTokens s r.cxid (reqTokens s r) with
      reqs := s.reqs.map fun x => if ((leaving s r).map Req.id).contains x.id then
        { x with stage := .sent, admittedAt := s.ref252 } else x } := by
  rw [exec_requestAdmission, execRequestAdmission]
  simp [hr, hs, hh, hl, ht, hp]

/-- The sectors that the leaving pieces move. -/
def sectors (s : State) (r : Req) : List Nat := ((leaving s r).map fun x => x.off / 32).eraseDups

theorem mem_sectors {k : Nat} : k ∈ sectors s r ↔
    ∃ x ∈ s.reqs, (r.mate x = true ∧ x.stage = .waiting ∧ heldBehind s x = false) ∧ x.off / 32 = k := by
  rw [sectors, List.mem_eraseDups, List.mem_map]
  simp only [mem_leaving, and_assoc]

/-! ## The slice -/

/-- A slice refuses a request, with every piece of it (R433). -/
theorem sliceRequestAdmit_refuses {hint : Nat} (hr : (s.reqs.find? fun r => r.id == id) = some r) (hs : r.stage = .sent)
    (hb : behindRefused s r = false) (h1 : 1 ≤ hint) (h15 : hint ≤ 15) (h16 : r.refusals < 16) :
    exec (.sliceRequestAdmit id hint) s = .next { s with
      reqs := s.reqs.map fun x =>
        if (r.mate x ∧ x.stage = .sent) then { x with stage := .refused s.clk hint, refusals := x.refusals + 1 } else x } := by
  rw [exec_sliceRequestAdmit, execSliceRequestAdmit]
  simp [hr, hs, hb, h1, h15, h16]

/-- A slice takes a request that it does not refuse, once it may be performed. -/
theorem sliceRequestAdmit_takes {hint : Nat} (hr : (s.reqs.find? fun r => r.id == id) = some r) (hs : r.stage = .sent)
    (hb : behindRefused s r = false) (hh : hint = 0 ∨ 16 ≤ r.refusals) (hm : mayPerform s r = true) :
    exec (.sliceRequestAdmit id hint) s =
      if isPeer s r.b then .next ((arriveReq s id).updReq id fun r => { r with stage := .port })
      else if s.l2.any fun l => l.b == r.b && l.line == r.off / 128 && l.tag == r.owner then .next (perform s r)
      else .next ((arriveReq s id).updReq id fun x =>
        { x with stage := if (s.buf? r.b).map Buf.kind == some .hbm then .chan else .port }) := by
  have hn : ¬(1 ≤ hint ∧ hint ≤ 15 ∧ r.refusals < 16) := by omega
  rw [exec_sliceRequestAdmit, execSliceRequestAdmit]
  simp [hr, hs, hb, hn, hm]

/-- A request that arrives at its home slice and goes on from there. -/
theorem arriveReq_updReq (s : State) (id : Nat) (st : ReqStage) : (arriveReq s id).updReq id (fun r => { r with stage := st }) =
    { s with
      nextId := s.nextId + 1
      reqs := s.reqs.map fun x => if x.id == id then { x with arrived := s.nextId, stage := st } else x } := by
  have hf : ((fun x : Req => if x.id == id then { x with stage := st } else x) ∘
      fun x => if x.id == id then { x with arrived := s.nextId } else x) =
      fun x => if x.id == id then { x with arrived := s.nextId, stage := st } else x := by
    funext x
    by_cases hx : x.id = id <;> simp [hx]
  simp only [arriveReq, State.updReq, List.map_map, hf]

theorem isPeer_of_buf {b : Buf} {n : Nat} (h : s.buf? n = some b) : isPeer s n = decide (b.kind = .peer) := by
  rw [isPeer, h, Option.map_some, Bool.eq_iff_iff]
  simp

/-! ## Remote updates -/

section
variable {x : RuReq}

/-- A remote update leaves once those of lower lanes have left, with its granule's tokens and a permit (R273, R414, R432). -/
theorem requestAdmission_sendsRu (hn : ∀ x ∈ s.reqs, x.id ≠ id) (hr : s.ru? id = some x) (hs : x.sent = false)
    (he : ∀ y ∈ s.rus, y.op = x.op → y.id < x.id → y.sent = true) (ht : hasTokens s x.cxid (ruTokens x.defn) = true)
    (hp : permits s x.core (ruSlice s x) < 6) :
    exec (.requestAdmission id) s = .next ((takeTokens s x.cxid (ruTokens x.defn)).updRu x.id fun r => { r with sent := true }) := by
  have hf : (s.reqs.find? fun r => r.id == id) = none := List.find?_eq_none.2 fun y hy => by simpa using hn y hy
  have hearly : (s.rus.any fun y => y.op == x.op && decide (y.id < x.id) && !y.sent) = false := by
    simpa using he
  rw [exec_requestAdmission, execRequestAdmission]
  simp only [hf, hr, sendRu, hs, hearly, ht]
  simp [hp]

theorem sliceRequestAdmit_refusesRu {hint : Nat} (hn : ∀ x ∈ s.reqs, x.id ≠ id) (hr : s.ru? id = some x) (hs : x.sent = true)
    (ha : x.admitted = false) (hf : x.refused = none) (h16 : x.refusals < 16) (h1 : 1 ≤ hint) (h15 : hint ≤ 15) :
    exec (.sliceRequestAdmit id hint) s = .next { s with
      rus := s.rus.map fun x => if x.id == id then { x with refused := some (s.clk, hint), refusals := x.refusals + 1 } else x } := by
  have hnone : (s.reqs.find? fun r => r.id == id) = none := List.find?_eq_none.2 fun y hy => by simpa using hn y hy
  rw [exec_sliceRequestAdmit, execSliceRequestAdmit]
  simp [hnone, hr, hs, ha, hf, h16, h1, h15, State.updRu]

theorem requestRetry_ru {since hint : Nat} (hn : ∀ x ∈ s.reqs, x.id ≠ id) (hr : s.ru? id = some x)
    (hf : x.refused = some (since, hint)) (hc : since + 8 * hint ≤ s.clk) : exec (.requestRetry id) s =
      .next { s with rus := s.rus.map fun x => if x.id == id then { x with refused := none } else x } := by
  have hnone : (s.reqs.find? fun r => r.id == id) = none := List.find?_eq_none.2 fun y hy => by simpa using hn y hy
  rw [exec_requestRetry, execRequestRetry]
  simp [hnone, hr, hf, hc, State.updRu]

end

/-! ## Retries and replies -/

theorem requestRetry_req {since hint : Nat} (hr : (s.reqs.find? fun r => r.id == id) = some r)
    (hs : r.stage = .refused since hint) (hc : since + 8 * hint ≤ s.clk) : exec (.requestRetry id) s = .next { s with
      reqs := s.reqs.map fun x => if (r.mate x ∧ x.stage = r.stage) then { x with stage := .sent } else x } := by
  rw [exec_requestRetry, execRequestRetry]
  simp [hr, hs, hc]

theorem memoryReply_done (hr : (s.reqs.find? fun r => r.id == id) = some r) (hs : r.stage = .done) :
    exec (.memoryReply id) s = .next (reply s r) := by
  rw [exec_memoryReply, execMemoryReply]
  simp only [hr, hs]

/-- A request at a port or a scratchpad is performed and answered at once (R434). -/
theorem memoryReply_port (hr : (s.reqs.find? fun r => r.id == id) = some r) (hs : r.stage = .port) (hm : mayPerform s r = true)
    (ho : outOfTime s r = false) : ∃ r1, r1.id = id ∧ r1.performed = true ∧ exec (.memoryReply id) s =
      .next (reply (if r.blk.isNone && !isPeer s r.b then fillL2 (perform s r) r.cxid r.b r.off r.owner else perform s r) r1) := by
  have hpeer : isPeer (perform s r) r.b = isPeer s r.b := by rw [isPeer, State.buf?, perform_bufs, isPeer, State.buf?]
  have hid : r.id = id := by simpa using List.find?_some (p := fun r : Req => r.id == id) hr
  have hp : Performed id s (if r.blk.isNone && !isPeer s r.b then fillL2 (perform s r) r.cxid r.b r.off r.owner else perform s r) := by
    have hp := perform_performed s r
    rw [hid] at hp
    split
    · exact hp.same (fillL2_reqs ..)
    · exact hp
  obtain ⟨r1, hf, h1, hd⟩ := hp.find hr
  refine ⟨r1, h1, hd, ?_⟩
  rw [exec_memoryReply, execMemoryReply]
  simp only [hr, hs, hm, ho, hpeer, Bool.not_true, Bool.or_self, Bool.false_eq_true, if_false, hf]

/-- The reply of a load that has not failed gives its words to the pending result. -/
theorem reply_load {g : Group} (hg : s.grp? r.gid = some g) (hk : r.kind = .load) (hb : r.bad = none) : reply s r =
    wake (State.updThr { s with reqs := s.reqs.filter fun x => x.id != r.id } r.gid r.tid fun th =>
      { th with pend := th.pend.map fun p => if p.id == r.pend then { p with words := replyWords r p.words } else p }) := by
  have hg' : ({ s with reqs := s.reqs.filter fun x => x.id != r.id } : State).grp? r.gid = some g := hg
  have ha : Thread.answer r = fun th =>
      { th with pend := th.pend.map fun p => if p.id == r.pend then { p with words := replyWords r p.words } else p } := by
    funext th
    rw [Thread.answer, hb]
  rw [reply, ← ha]
  simp only [hg', hk, hb]

end

/-! ## Statement -/

/-- Settles O50: each event has the effect that its lemma gives where its request is found and nothing holds it back. -/
theorem requestEvents_hold : Obligations.requestEvents := by
  unfold Obligations.requestEvents
  refine ⟨fun id s r hr hs hh => ⟨requestAdmission_l1Hit hr hs hh, fun hl => ?leaves⟩,
    fun id hint s r hr hs hb => ⟨sliceRequestAdmit_refuses hr hs hb, fun hh hm b hbuf => ⟨fun hk => ?peer, fun hk hl => ?line,
      fun hk hl => ?goesOn⟩⟩,
    fun id s r hn hr => ⟨requestAdmission_sendsRu hn hr, fun hs ha hf h16 hint h1 h15 => ?ruRefused,
      fun since hint hf hc => requestRetry_ru hn hr hf hc⟩,
    fun id since hint s r hr hs hc => requestRetry_req hr hs hc,
    fun id s r hr => ⟨memoryReply_done hr, memoryReply_port hr, fun g hs hg hk hb => ?loadReply⟩⟩
  case leaves =>
    refine ⟨sectors s r, nodup_eraseDups _, fun k => mem_sectors, fun ht hp =>
      ⟨_, requestAdmission_sends hr hs hh hl ht hp, rfl, List.length_map .., fun k x y hx hy => ?_⟩⟩
    have hy' : (if ((leaving s r).map Req.id).contains x.id then { x with stage := .sent, admittedAt := s.ref252 } else x) = y := by
      simpa [hx] using hy
    refine ⟨fun ⟨z, hz, hg, hid⟩ => ?_, fun hno => ?_⟩
    · rw [← hy', if_pos]
      simpa using ⟨z, mem_leaving.2 ⟨hz, hg⟩, hid⟩
    · rw [← hy', if_neg]
      simp only [List.contains_iff_mem, List.mem_map, not_exists, not_and]
      exact fun z hz => hno z (mem_leaving.1 hz).1 (mem_leaving.1 hz).2
  case peer =>
    rw [sliceRequestAdmit_takes hr hs hb hh hm, isPeer_of_buf hbuf, decide_eq_true hk, if_pos rfl, arriveReq_updReq]
  case line =>
    have hany : (s.l2.any fun l => l.b == r.b && l.line == r.off / 128 && l.tag == r.owner) = true := by
      simpa [and_assoc] using hl
    rw [sliceRequestAdmit_takes hr hs hb hh hm, isPeer_of_buf hbuf, decide_eq_false hk, hany, if_neg Bool.false_ne_true, if_pos rfl]
  case goesOn =>
    have hany : (s.l2.any fun l => l.b == r.b && l.line == r.off / 128 && l.tag == r.owner) = false := by
      simpa [and_assoc] using hl
    rw [sliceRequestAdmit_takes hr hs hb hh hm, isPeer_of_buf hbuf, decide_eq_false hk, hany, if_neg Bool.false_ne_true,
      if_neg Bool.false_ne_true, arriveReq_updReq, hbuf]
    simp
  case ruRefused => exact sliceRequestAdmit_refusesRu hn hr hs ha hf h16 h1 h15
  case loadReply =>
    have hid : r.id = id := by simpa using List.find?_some (p := fun r : Req => r.id == id) hr
    rw [memoryReply_done hr hs, reply_load hg hk hb, hid]

end Sys2Proof.Machine
end

section
/-! The memory system's events (R91 to R93, R371, R395, R419, R424, R425, R427, R430, R448): channels, memory, hot rows, patrol reads,
timeouts, erasure and L1 fusion. -/

namespace Sys2Proof.Machine

/-! ## Channels -/

section
variable {s : State} {id bank : Nat} {ecc : Bool} {r : Req} {b : Buf} {a : Nat}

/-- What a channel makes of an access that may be performed, to a bank that is not held. -/
theorem channelAccess_eq (hr : (s.reqs.find? fun r => r.id == id) = some r) (hb : s.buf? r.b = some b) (hp : place b r.off = some a)
    (hs : r.stage = .chan) (hm : mayPerform s r = true) (hk : bank % 16 = bankOf a)
    (hh : heldBank s (chanOf b r.off) (bank % 16) (tenant s r.cxid) = false) : exec (.channelAccess id bank ecc) s =
      if !addrExists a || decide (chanBytes ≤ a - chanOf b r.off * chanBytes) then .fault .noSuchAddress
      else
        let s1 := activate s (chanOf b r.off) (bank % 16) (a % chanBytes / 1024) (tenant s r.cxid)
        .next (fillL2 (perform (if ecc then poisonAtom s1 (a / 32) else s1) r) r.cxid r.b r.off r.owner) := by
  rw [exec_channelAccess, execChannelAccess]
  simp only [hr, hb, hp, hs, hk, hm, hk ▸ hh, bne_self_eq_false, Bool.not_true, Bool.or_self, Bool.false_eq_true, if_false]

end

/-! ## Memory -/

/-- Bytes of a buffer that is not a peer's rest on memory alone. -/
theorem readBuf_of_mem {s t : State} {b : Nat} (hb : t.bufs = s.bufs) (hm : t.mem = s.mem) (hp : isPeer s b = false) (o n : Nat) :
    t.readBuf b o n = s.readBuf b o n := by
  have hbuf : t.buf? b = s.buf? b := by rw [State.buf?, hb, State.buf?]
  induction n generalizing o with
  | zero => rfl
  | succ n ih =>
    rw [State.readBuf, State.readBuf, ih, hbuf, hm]
    congr 1
    cases hx : s.buf? b with
    | none => rfl
    | some x =>
      have hk : x.kind ≠ .peer := by
        intro hk
        rw [isPeer, hx, Option.map_some, hk] at hp
        exact absurd hp (by decide)
      have hplace : ∃ a, place x o = some a := by
        unfold place
        cases hkind : x.kind with
        | peer => exact absurd hkind hk
        | _ => exact ⟨_, rfl⟩
      obtain ⟨a, ha⟩ := hplace
      simp only [ha]

theorem writeBuf_mem_congr {s t : State} (hb : t.bufs = s.bufs) (hm : t.mem = s.mem) (b o : Nat) (ys : List Byte) :
    (t.writeBuf b o ys).mem = (s.writeBuf b o ys).mem := by
  induction ys generalizing s t o with
  | nil => exact hm
  | cons y ys ih =>
    have hbuf : t.buf? b = s.buf? b := by rw [State.buf?, hb, State.buf?]
    rw [State.writeBuf, State.writeBuf, hbuf]
    cases s.buf? b with
    | none => exact ih hb hm _
    | some x =>
      dsimp only
      cases place x o with
      | none => exact ih hb hm _
      | some a => exact ih (s := { s with mem := Memory.put s.mem a y }) (t := { t with mem := Memory.put t.mem a y }) hb (by rw [hm]) _

/-- What a write makes of memory rests on buffers, memory and poison, not on who writes. -/
theorem writeMem_mem_congr {s t : State} (hb : t.bufs = s.bufs) (hm : t.mem = s.mem) (hp : t.poison = s.poison) (b o : Nat)
    (ys : List Byte) (by_ by' : By) : (t.writeMem b o ys by_).mem = (s.writeMem b o ys by').mem := by
  have hbuf : t.buf? b = s.buf? b := by rw [State.buf?, hb, State.buf?]
  rw [State.writeMem, State.writeMem, hbuf, hp]
  cases s.buf? b with
  | none => exact hm
  | some x =>
    dsimp only
    cases place x o with
    | none => exact hm
    | some a =>
      dsimp only
      split
      · exact hm
      · split <;> exact writeBuf_mem_congr (by exact hb) (by exact hm) _ _ _

theorem readBefore_zero (s : State) (l : Loc) (bytes : List Byte) : (readBefore s l 0 bytes).1 = bytes := rfl

section
variable {s : State} {r : Req}

/-- A request that reaches its frame takes effect on memory and on the requests as they stand. -/
theorem perform_reached (hb : r.blk = none) (hp : isPeer s r.b = false) (h : reaches s r.b r.off r.cxid r.opens = true) :
    ∃ t, perform s r = wake t ∧ t.mem = (memEffect (atMemory s r) r).mem ∧ t.reqs = (memEffect (atMemory s r) r).reqs := by
  obtain ⟨t, l1, e, ht⟩ := performMem_reached h
  refine ⟨t, ?_, by rw [ht], by rw [ht]⟩
  simp only [perform, hb, hp, Bool.false_eq_true, if_false, e]

/-- What a request finds at memory, where no erasure is under way: memory's bytes, or as they were before some newest writes. -/
theorem foundBytes_atMemory (hp : isPeer s r.b = false) (he : erasing s r.b r.off = false) :
    foundBytes (atMemory s r) r = readBefore s r.loc (missed (atMemory s r) r) (s.readBuf r.b r.off r.size) := by
  have he' : erasing (atMemory s r) r.b r.off = false := by rw [atMemory_only]; exact he
  have hread : (atMemory s r).readBuf r.b r.off r.size = s.readBuf r.b r.off r.size :=
    readBuf_of_mem (by rw [atMemory_only]) (by rw [atMemory_only]) hp _ _
  rw [foundBytes, he', if_neg Bool.false_ne_true, loadBytes, he', Bool.false_and, if_neg Bool.false_ne_true, hread, readBefore,
    readBefore, State.writes, atMemory_only]
  rfl

theorem foundPoison_atMemory : foundPoison (atMemory s r) r = if s.poisoned r.b r.off r.size then some .uncorrectable else none := by
  rw [foundPoison, atMemory_only]
  rfl

/-- Only a relaxed load misses writes (R91). -/
theorem missed_eq_zero (h : r.kind ≠ .load ∨ r.ord ≠ 0) : missed s r = 0 := by
  have : (r.kind == .load && r.ord == 0) = false := by
    rcases h with h | h <;> simp [h]
  rw [missed, this, if_neg Bool.false_ne_true]

/-- A request of the number among those of which that number is performed. -/
theorem mem_done {rs : List Req} {id : Nat} {v : DWord} {bad : Option Cause} {x : Req}
    (hx : x ∈ rs.map fun x => if x.id == id then Req.done v bad x else x) (hid : x.id = id) :
    x.performed = true ∧ x.stage = .done ∧ x.val = v ∧ x.bad = bad := by
  obtain ⟨y, -, he⟩ := List.mem_map.1 hx
  by_cases hy : (y.id == id) = true
  · rw [if_pos hy] at he
    rw [← he]
    exact ⟨rfl, rfl, rfl, rfl⟩
  · rw [if_neg hy] at he
    exact absurd (by rw [he, hid]; exact beq_self_eq_true id) hy

theorem memEffect_load (hk : r.kind = .load) : (memEffect s r).mem = s.mem ∧ (memEffect s r).reqs =
    s.reqs.map fun x => if x.id == r.id then Req.done (mergeFwd r (foundBytes s r).1) (foundPoison s r) x else x := by
  have e : memEffect s r =
      (learnRead s r (foundBytes s r).2).updReq r.id (Req.done (mergeFwd r (foundBytes s r).1) (foundPoison s r)) := by
    rw [memEffect, hk]
  rw [e]
  exact ⟨State.updThr_mem .., by rw [State.updReq, learnRead_reqs]⟩

theorem clearAtom_bufs (s : State) (b off : Nat) : (clearAtom s b off).bufs = s.bufs := by
  unfold clearAtom
  split <;> rfl

theorem clearAtom_mem (s : State) (b off : Nat) : (clearAtom s b off).mem = s.mem := by
  unfold clearAtom
  split <;> rfl

theorem clearAtom_poison {t : State} (hb : t.bufs = s.bufs) (hp : t.poison = s.poison) (b off : Nat) :
    (clearAtom t b off).poison = (clearAtom s b off).poison := by
  have hbuf : t.buf? b = s.buf? b := by rw [State.buf?, hb, State.buf?]
  rw [clearAtom, clearAtom, hbuf]
  split
  · rw [hp]
  · exact hp

theorem memEffect_store (hk : r.kind = .store) :
    let s1 := if wholeAtom s r then clearAtom s r.b r.off else s
    (memEffect s r).mem = (s1.writeMem r.b r.off (leBytes r.size r.data.toNat)).mem ∧
    (memEffect s r).reqs = s.reqs.map fun x => if x.id == r.id then Req.done 0 none x else x := by
  intro s1
  have e : memEffect s r =
      (dirtyLine (s1.writeMem r.b r.off (leBytes r.size r.data.toNat) (r.by_ s1 false)) r.b r.off).updReq r.id (Req.done 0 none) := by
    rw [memEffect, hk]
  have hq : s1.reqs = s.reqs := by
    simp only [s1]
    split
    · exact clearAtom_reqs ..
    · rfl
  rw [e]
  refine ⟨writeMem_mem_congr rfl rfl rfl .., ?_⟩
  show (s1.writeMem r.b r.off (leBytes r.size r.data.toNat) (r.by_ s1 false)).reqs.map _ = _
  rw [writeMem_reqs, hq]

theorem memEffect_rmw {op : Nat} {y z w : DWord} (hk : r.kind = .rmw op y z) (hp : foundPoison s r = none)
    (hw : rmwNew op r.size (BitVec.ofNat 64 (leNat (foundBytes s r).1)) y z = some w) :
    (memEffect s r).mem = (s.writeMem r.b r.off (leBytes r.size w.toNat)).mem ∧
    (memEffect s r).reqs = s.reqs.map fun x =>
      if x.id == r.id then Req.done (BitVec.ofNat 64 (leNat (foundBytes s r).1)) none x else x := by
  have e : memEffect s r = (learnRead (dirtyLine (s.writeMem r.b r.off (leBytes r.size w.toNat) (r.by_ s true)) r.b r.off) r
      (foundBytes s r).2).updReq r.id (Req.done (BitVec.ofNat 64 (leNat (foundBytes s r).1)) none) := by
    rw [memEffect, hk]
    simp only [hp, hw, Option.isSome_none, Bool.false_eq_true, if_false]
  rw [e]
  refine ⟨(State.updThr_mem ..).trans (writeMem_mem_congr rfl rfl rfl ..), ?_⟩
  rw [State.updReq, learnRead_reqs]
  exact congrArg _ (writeMem_reqs ..)

end

/-! ## Patrol reads and timeouts -/

theorem patrolRead_absent {ch atom : Nat} (h : 256 ≤ ch ∨ 0x60000000 / 32 ≤ atom) (ecc : Bool) (s : State) :
    exec (.patrolRead ch atom ecc) s = .fault .noSuchAddress := by
  rw [exec_patrolRead, execPatrolRead]
  exact if_pos h

theorem patrolRead_unused {ch atom : Nat} {s : State} (hs : s.service ≠ .full) (hlo : 128 ≤ ch) (hhi : ch < 256)
    (ha : atom < 0x60000000 / 32) (ecc : Bool) : exec (.patrolRead ch atom ecc) s = .next s := by
  have hn : ¬(256 ≤ ch ∨ chanBytes / 32 ≤ atom) := by
    rw [chanBytes]
    omega
  rw [exec_patrolRead, execPatrolRead, if_neg hn]
  simp [hs, hlo]

theorem patrolRead_reads {ch atom : Nat} {s : State} (hc : ch < 128 ∨ (s.service = .full ∧ ch < 256)) (ha : atom < 0x60000000 / 32)
    (ecc : Bool) : exec (.patrolRead ch atom ecc) s =
      .next (if ecc then poisonAtom s (hbmAddr ch 0 / 32 + atom) else s) := by
  have hn : ¬(256 ≤ ch ∨ chanBytes / 32 ≤ atom) := by
    rw [chanBytes]
    omega
  have hs : (s.service != .full && decide (128 ≤ ch)) = false := by
    rcases hc with hc | ⟨hf, -⟩
    · simp; omega
    · simp [hf]
  rw [exec_patrolRead, execPatrolRead, if_neg hn, hs, if_neg Bool.false_ne_true]

/-- An atom that is poisoned joins those that are. -/
theorem mem_poisonAtom {s : State} {a k : Nat} : k ∈ (poisonAtom s a).poison ↔ k ∈ s.poison ∨ k = a := by
  show k ∈ (if s.poison.contains a then s.poison else a :: s.poison) ↔ _
  split
  · next h =>
    have h : a ∈ s.poison := by simpa using h
    refine ⟨.inl, fun hk => hk.elim id ?_⟩
    rintro rfl
    exact h
  · rw [List.mem_cons, or_comm]

section
variable {s : State} {id : Nat} {r : Req} {b : Buf}

theorem cxlTimeout_eq (hr : (s.reqs.find? fun r => r.id == id) = some r) (hs : r.stage = .port) (hk : r.blk = none)
    (hb : s.buf? r.b = some b) (ha : r.admittedAt + 62500 * 252 ≤ s.ref252) (hc : b.kind = .cxl) :
    exec (.cxlTimeout id) s = .next (cxlFail s r) := by
  have ht : ¬s.ref252 < r.admittedAt + fiftyMicros := not_lt.2 ha
  rw [exec_cxlTimeout, execCxlTimeout]
  simp [hr, hs, hk, hb, hc, ht]

theorem linkTimeout_eq (hr : (s.reqs.find? fun r => r.id == id) = some r) (hs : r.stage = .port) (hk : r.blk = none)
    (hb : s.buf? r.b = some b) (ha : r.admittedAt + 62500 * 252 ≤ s.ref252) (hc : b.kind = .peer) :
    exec (.linkTimeout id) s = .next (peerFail s id) := by
  have ht : r.admittedAt + fiftyMicros ≤ s.ref252 := ha
  have hp : isPeer s r.b = true := by rw [isPeer_of_buf hb, decide_eq_true hc]
  rw [exec_linkTimeout, execLinkTimeout]
  simp [hr, hs, hk, hp, ht]

end

/-! ## Statement -/

/-- Settles O51: each event has the effect that its lemma gives; what a request does at memory is `memEffect`. -/
theorem memorySystemEvents : Obligations.memorySystemEvents := by
  unfold Obligations.memorySystemEvents
  refine ⟨fun id bank ecc s r b a hr hb hp hs hm hk hh => ⟨fun hx => ?absent, fun hx ha => ?accessed⟩,
    fun id s r hr hid hb hp he => ⟨fun h => ?unreached, fun h => ?reached⟩,
    fun ch bank cx s => ⟨⟨_, rfl, rfl, fun x => ?window⟩, _, rfl, rfl, fun h => ?hold⟩,
    fun ch atom s => ⟨fun h ecc => patrolRead_absent h ecc s, fun hs hlo hhi ha ecc => patrolRead_unused hs hlo hhi ha ecc,
      fun hc ha => ⟨patrolRead_reads hc ha false, _, patrolRead_reads hc ha true, rfl, fun k => ?patrol⟩⟩,
    fun id s r b hr hs hk hb ha => ⟨fun hc hl => ?cxlLoad, fun hc hl => ?cxlStore, fun hc => ?peer⟩,
    fun blk s k hk hb he => ?erase, fun clu s hf => ?fusion⟩
  case absent =>
    rw [channelAccess_eq hr hb hp hs hm hk hh, if_pos]
    simpa using hx
  case accessed =>
    rw [channelAccess_eq hr hb hp hs hm hk hh, if_neg]
    simp [hx, ha]
  case unreached =>
    have e : perform s r = performMem s r := by simp only [perform, hb, hp, Bool.false_eq_true, if_false]
    rw [e, performMem_unreached h, State.updReq, hid]
  case reached =>
    obtain ⟨t, e, hmem, hreqs⟩ := perform_reached hb hp h
    have hfound := foundBytes_atMemory (r := r) hp he
    refine ⟨t, e, fun hk => ?load, fun hk => ?store, fun op y z w hk hpo hw => ?rmw⟩
    case load =>
      obtain ⟨hm, hq⟩ := memEffect_load (s := atMemory s r) hk
      refine ⟨by rw [hmem, hm, atMemory_only], fun x hx hxid => ?_⟩
      rw [hreqs, hq, hid] at hx
      obtain ⟨hperf, hstage, hval, hbad⟩ := mem_done hx hxid
      rw [hfound] at hval
      rw [foundPoison_atMemory] at hbad
      refine ⟨hperf, hstage, fun hpo => by rw [hbad, hpo]; rfl, fun hpo => by rw [hbad, hpo]; rfl, ⟨_, hval⟩, fun ho => ?_⟩
      rw [hval, missed_eq_zero (.inr ho), readBefore_zero]
    case store =>
      obtain ⟨hm, hq⟩ := memEffect_store (s := atMemory s r) hk
      refine ⟨?_, fun x hx hxid => ?_⟩
      · rw [hmem, hm]
        have hwhole : wholeAtom (atMemory s r) r = wholeAtom s r := by rw [wholeAtom, atMemory_reqs, wholeAtom]
        rw [hwhole]
        split
        · exact writeMem_mem_congr (by rw [clearAtom_bufs, clearAtom_bufs, atMemory_only])
            (by rw [clearAtom_mem, clearAtom_mem, atMemory_only])
            (clearAtom_poison (by rw [atMemory_only]) (by rw [atMemory_only]) ..) ..
        · exact writeMem_mem_congr (by rw [atMemory_only]) (by rw [atMemory_only]) (by rw [atMemory_only]) ..
      · rw [hreqs, hq, hid] at hx
        obtain ⟨hperf, hstage, -, hbad⟩ := mem_done hx hxid
        exact ⟨hperf, hstage, hbad⟩
    case rmw =>
      have hnone : foundPoison (atMemory s r) r = none := by rw [foundPoison_atMemory, hpo]; rfl
      have hold : (foundBytes (atMemory s r) r).1 = s.readBuf r.b r.off r.size := by
        rw [hfound, missed_eq_zero (.inl (by rw [hk]; exact nofun)), readBefore_zero]
      obtain ⟨hm, hq⟩ := memEffect_rmw hk hnone (by rw [hold]; exact hw)
      refine ⟨?_, fun x hx hxid => ?_⟩
      · rw [hmem, hm]
        exact writeMem_mem_congr (by rw [atMemory_only]) (by rw [atMemory_only]) (by rw [atMemory_only]) ..
      · rw [hreqs, hq, hid] at hx
        obtain ⟨hperf, -, hval, hbad⟩ := mem_done hx hxid
        exact ⟨hperf, hbad, by rw [hval, hold]⟩
  case window =>
    rw [List.mem_filter]
    simp [Decidable.imp_iff_not_or]
  case hold =>
    rw [List.mem_filter]
    refine and_congr Iff.rfl ?_
    rw [Bool.not_eq_true', ← Bool.not_eq_true, not_iff_not]
    simp [and_assoc]
  case patrol =>
    rw [if_pos rfl, mem_poisonAtom, hbmAddr, chanBytes]
    refine or_congr Iff.rfl ?_
    omega
  case cxlLoad =>
    have hid : r.id = id := by simpa using List.find?_some (p := fun r : Req => r.id == id) hr
    have hn : (r.kind == .store) = false := by simpa using hl
    rw [cxlTimeout_eq hr hs hk hb ha hc, cxlFail, hn, hid]
    rfl
  case cxlStore =>
    have hid : r.id = id := by simpa using List.find?_some (p := fun r : Req => r.id == id) hr
    have hn : (r.kind == .store) = true := by simpa using hl
    rw [cxlTimeout_eq hr hs hk hb ha hc, cxlFail, hn, hid]
    rfl
  case peer =>
    rw [linkTimeout_eq hr hs hk hb ha hc]
    rfl
  case erase =>
    have hany : (s.flash.any fun k => k.blk == blk && k.erasing) = true := List.any_eq_true.2 ⟨k, hk, by simp [hb, he]⟩
    refine ⟨_, (exec_flashEraseComplete blk s).trans (if_pos hany), rfl, rfl, fun a => ?_, ?_⟩
    · refine (Memory.get_zero ..).trans ?_
      have hiff : (flashBase + blk * 2 ^ 20 ≤ a ∧ a < flashBase + blk * 2 ^ 20 + 2 ^ 20) ↔
          2 ^ 60 + blk * 2 ^ 20 ≤ a ∧ a < 2 ^ 60 + (blk + 1) * 2 ^ 20 := by
        rw [flashBase]
        omega
      simp only [hiff]
      rfl
    · have hlast : (!s.flash.any fun k => k.erasing && k.blk != blk) = true ↔ ¬∃ k ∈ s.flash, k.erasing = true ∧ k.blk ≠ blk := by
        simp
      by_cases hx : ∃ k ∈ s.flash, k.erasing = true ∧ k.blk ≠ blk
      · rw [if_pos hx]
        exact if_neg (mt hlast.1 (not_not.2 hx))
      · rw [if_neg hx]
        exact if_pos (hlast.2 hx)
  case fusion =>
    have hne : (fusable s clu == s.fused.contains clu) = false := by simpa using hf
    refine ⟨_, (exec_l1FusionChange clu s).trans (if_neg (by rw [hne]; exact Bool.false_ne_true)), rfl, fun c => ?_, fun k => ?_⟩
    · rw [List.mem_filter]
      simp
    · cases hw : fusable s clu with
      | true =>
        rw [hw] at hf
        have hout : clu ∉ s.fused := by simpa using hf.symm
        rw [if_pos rfl, List.mem_cons]
        have hne (hk : k ∈ s.fused) : k ≠ clu := fun e => hout (e ▸ hk)
        refine ⟨fun hk => hk.imp (⟨·, rfl⟩) fun hk => ⟨hk, hne hk⟩, fun hk => hk.imp And.left And.left⟩
      | false =>
        rw [if_neg Bool.false_ne_true, List.mem_filter]
        simp

end Sys2Proof.Machine
end

section
/-! Returning from a precise trap (R123, R124, R128, R149, R356): stopped threads that go on in a new region, and those that re-enter
theirs. -/

namespace Sys2Proof.Machine

/-! ## Threads that learn -/

/-- Threads that change alike, and then come to know every write so far. -/
theorem learnAll_updThrs {s : State} {n : Nat} {g : Group} (h : (s.groups.find? fun x => x.gid == n) = some g) (ts : List Nat)
    (f : Thread → Thread) : ∃ g', OneGroup n s (learnAll (s.updGrp n fun g => g.updThrs ts f) n ts) g g' ∧
      g' = { g with threads := g'.threads } ∧ g'.threads.length = g.threads.length ∧ ∀ k, k < g.threads.length →
        g'.thr k = if ts.contains k then { f (g.thr k) with view := (g'.thr k).view } else g.thr k := by
  have changed := OneGroup.of_updGrp (fun g => g.updThrs ts f) (fun _ => rfl) h
  generalize s.updGrp n (fun g => g.updThrs ts f) = s1 at changed ⊢
  have learnt := OneGroup.of_updGrp (fun g => g.updThrs ts (Thread.learn s1.nextId s1.allWrites)) (fun _ => rfl) changed.new
  refine ⟨_, changed.trans learnt, rfl, by simp, fun k hk => ?_⟩
  rw [Group.thr_updThrs _ _ _ _ (by simpa using hk), Group.thr_updThrs _ _ _ _ hk]
  split <;> rfl

/-! ## Threads that re-enter their regions -/

/-- Re-entry changes threads of the group alone (R124). -/
theorem reenterThrs_spec {s : State} {n : Nat} {g : Group} (h : (s.groups.find? fun x => x.gid == n) = some g) (ts : List Nat) :
    ∃ g', OneGroup n s (reenterThrs s n ts) g g' ∧ g' = { g with threads := g'.threads } ∧
      g'.threads.length = g.threads.length ∧ ∀ k, k < g.threads.length →
        g'.thr k = if ts.contains k then { (g.thr k).reenter with view := (g'.thr k).view } else g.thr k := by
  unfold reenterThrs
  split
  · next he => exact ⟨g, .refl h, rfl, rfl, fun k _ => by simp [List.isEmpty_iff.1 he]⟩
  · exact learnAll_updThrs h ts Thread.reenter

/-- A thread whose region was discarded continues from its region entry, its ordinal as its skip count (R121, R124). -/
theorem reenter_of_redo {th : Thread} (h : th.redo = true) : th.reenter = { th with
    pc := th.rpc, skip := th.ord, ord := 0, redo := false, stopped := false, waited := 0, starved := none, settle := none
    guard := th.rguard } := by
  simp only [Thread.reenter, h, if_true, Thread.reentered]

/-! ## Threads that go on in a new region -/

/-- A thread that goes on at an address in a new region: its guard state stays only at the faulting PC (R123, R128, R149). -/
def Thread.resumed (pc fpc : DWord) (th : Thread) : Thread :=
  { th with pc := pc, stopped := false, waited := 0, starved := none, park := none, settle := none
            guard := if pc = fpc then th.guard else none, rguard := if pc = fpc then th.guard else none }

/-- Resuming threads, if any, commits their regions; nothing but their group, the requests of their stores, tickets and the words that
they free changes (R123). -/
theorem resumeAt_spec {s : State} {n : Nat} {g : Group} (h : (s.groups.find? fun x => x.gid == n) = some g) (ts : List Nat)
    (pc fpc : DWord) : let t := if ts.isEmpty then s else resumeAt s n ts pc fpc
    ∃ g' rs ws id, GroupTo n s t g g' ∧
      t = { s with groups := t.groups, reqs := s.reqs ++ rs, nextId := t.nextId, ticket := t.ticket
                   ctxs := (s.leave g.cxid ws).ctxs } ∧
      rs.map Req.key = (ts.flatMap fun k => (g.thr k).stores.flatMap fun b => (pieces b.size).map fun p =>
        (k, b.va + BitVec.ofNat 64 p.1, p.2, BitVec.ofNat 64 (b.data.toNat >>> (8 * p.1)))) ∧
      (∀ r ∈ rs, r.gid = n ∧ r.kind = .store ∧ r.performed = false) ∧
      g' = { g with threads := g'.threads, remask := g'.remask, instar := g'.instar } ∧
      g'.threads.length = g.threads.length ∧ ∀ k, k < g.threads.length → g'.thr k =
        if ts.contains k then { ((g.thr k).committed pc id).resumed pc fpc with view := (g'.thr k).view } else g.thr k := by
  by_cases he : ts = []
  · subst he
    refine ⟨g, [], [], 0, .refl h, ?_, rfl, fun _ hr => absurd hr List.not_mem_nil, rfl, rfl, fun k _ => by simp⟩
    simp [State.leave, State.updCtx]
  · have hid : g.gid = n := by simpa using List.find?_some h
    obtain ⟨g1, rs, id, moved, only, keys, stores, rest, len, thr⟩ := commit_spec s g ts (fun _ => pc) n hid h
    obtain ⟨g', o, rest', len', thr'⟩ := learnAll_updThrs moved.new ts (Thread.resumed pc fpc)
    have ht : (if ts.isEmpty = true then s else resumeAt s n ts pc fpc) = learnAll ((commit s n ts fun _ => pc).updGrp n
        fun g => g.updThrs ts (Thread.resumed pc fpc)) n ts := if_neg (by simpa using he)
    dsimp only
    rw [ht]
    generalize learnAll ((commit s n ts fun _ => pc).updGrp n fun g => g.updThrs ts (Thread.resumed pc fpc)) n ts = t at o ⊢
    refine ⟨g', rs, ts.flatMap fun k => (g.thr k).freed, id, moved.trans o.to, ?_, keys, stores, ?_, len'.trans len, fun k hk => ?_⟩
    · have e := o.only
      rw [only] at e
      rw [e]
    · rw [rest', rest]
      rfl
    · rw [thr' k (by rw [len]; exact hk), thr k hk]
      split <;> rfl

theorem contains_filter_range {w : Nat} {f : Nat → Bool} (h : ∀ k, f k = true → k < w) (k : Nat) :
    ((List.range w).filter f).contains k = f k := by
  rw [Bool.eq_iff_iff, List.contains_iff_mem, List.mem_filter, List.mem_range]
  exact ⟨And.right, fun hk => ⟨h k hk, hk⟩⟩

/-! ## Statement -/

/-- Settles O40: the threads whose region was discarded re-enter it by `reenterThrs_spec`, the others go on by `resumeAt_spec`. -/
theorem returnFromPreciseTrap : Obligations.returnFromPreciseTrap := by
  unfold Obligations.returnFromPreciseTrap
  intro s r g pc hg hres hid hf ha hc hl t back on
  let again : List Nat := (List.range g.width).filter fun k => back k && (g.thr k).redo
  rw [← hid] at hg
  have hfind := find_of_grp? hg hres
  have hback : ((maskTids g.width r.trap.lmask).filter fun t => (g.thr t).stopped) = (List.range g.width).filter back := by
    rw [maskTids, List.filter_filter]
    refine List.filter_congr fun k hk => ?_
    simp [back, List.mem_range.1 hk, Bool.and_comm]
  obtain ⟨g1, o, rest, len, thr⟩ := reenterThrs_spec hfind again
  have ht : t = if on.isEmpty then reenterThrs s g.gid again
      else resumeAt (reenterThrs s g.gid again) g.gid on pc r.trap.fpc := by
    have hne : (r.trap.cause == .reentryLimit) = false := by simpa using hl
    simp only [t, trapReturn, ← hid, hf, ha, hc, hg, hne, hback, resumeThreads, List.filter_filter, Bool.or_self, Bool.false_eq_true,
      if_false]
    simp only [on, again, Bool.and_comm]
  obtain ⟨g', rs, ws, id, moved, only, keys, stores, rest', len', thr'⟩ := resumeAt_spec o.new on pc r.trap.fpc
  rw [← ht] at moved only
  clear_value t
  generalize reenterThrs s g.gid again = s1 at o only moved ⊢
  have hlt (k : Nat) (hk : (g.thr k).stopped = true) : k < g.threads.length := by
    by_contra hle
    rw [Group.thr_of_le (by omega)] at hk
    cases hk
  have hwidth (k : Nat) (hk : back k = true) : k < g.width := by
    simp only [back, Bool.and_eq_true, decide_eq_true_eq] at hk
    exact hk.1.1
  have hstop (k : Nat) (hk : back k = true) : (g.thr k).stopped = true := (Bool.and_eq_true_iff.1 hk).2
  have mem_on (k : Nat) : on.contains k = (back k && !(g.thr k).redo) :=
    contains_filter_range (fun k hk => hwidth k (Bool.and_eq_true_iff.1 hk).1) k
  have mem_again (k : Nat) : again.contains k = (back k && (g.thr k).redo) :=
    contains_filter_range (fun k hk => hwidth k (Bool.and_eq_true_iff.1 hk).1) k
  have hcx : g1.cxid = g.cxid := by rw [rest]
  have hthr (k : Nat) (hk : k < g.threads.length) (hn : again.contains k = false) : g1.thr k = g.thr k := by
    rw [thr k hk, if_neg (by rw [hn]; exact Bool.false_ne_true)]
  refine ⟨⟨ws, ?_⟩, ⟨rs, ?_, stores, keys.trans ?_⟩, fun m hm => (moved.others m hm).trans (o.others m hm), g',
    State.grp?_of_find moved.new, ?_, len'.trans len, fun k hk => ?_⟩
  · have e := only
    rw [o.only, hcx] at e
    rw [e]
    rfl
  · have e := congrArg State.reqs only
    rw [o.only] at e
    exact e
  · refine List.flatMap_congr fun k hk => ?_
    have hb : (back k && !(g.thr k).redo) = true := by rw [← mem_on]; simpa using hk
    simp only [Bool.and_eq_true, Bool.not_eq_true'] at hb
    rw [hthr k (hlt k (hstop k hb.1)) (by rw [mem_again, hb.2, Bool.and_false])]
  · rw [rest', rest]
  · have step := thr' k (by rw [len]; exact hk)
    rw [mem_on] at step
    cases hb : back k with
    | false =>
      have stays : g1.thr k = g.thr k := hthr k hk (by rw [mem_again, hb, Bool.false_and])
      rw [hb, Bool.false_and, if_neg Bool.false_ne_true, stays] at step
      exact step
    | true =>
      rw [hb, Bool.true_and] at step
      rw [if_pos rfl]
      cases hr : (g.thr k).redo with
      | true =>
        have first := thr k hk
        rw [mem_again, hb, hr, Bool.and_self, if_pos rfl, reenter_of_redo hr] at first
        rw [hr, Bool.not_true, if_neg Bool.false_ne_true] at step
        rw [if_pos rfl, step]
        exact first
      | false =>
        rw [hthr k hk (by rw [mem_again, hr, Bool.and_false]), hr, Bool.not_false, if_pos rfl] at step
        rw [if_neg Bool.false_ne_true, step]
        exact ⟨rfl, rfl, rfl, rfl, rfl, rfl, rfl, rfl, rfl, rfl, rfl, rfl⟩

end Sys2Proof.Machine
end

section
/-! Supervisor instructions (R356, R357, R365, R366): TRAPRET, TLBINV and FRMSTAT. -/

namespace Sys2Proof.Machine

/-! ## Commits of a unit, and changes of its active threads after them -/

/-- Active threads that change once the unit's region has committed. -/
theorem closeRegion_updAct {i : Instr} {u : Issue} {s : State} (h : s.issue? = some u) (f : Nat → Nat → Thread → Thread) :
    let t := updAct u (closeRegion u (advance i u s)) (f (closeRegion u (advance i u s)).nextId)
    ∃ n, t = afterCommit i u s t n ∧ Commits i u s t n [] id (onAct u (f n)) := by
  obtain ⟨n, g', rs, gs, k, e, by_, held⟩ := closeRegion_by (i := i) (s0 := advance i u s) (tl := s.tlb) (lp := s.lastPages)
    (fr := s.frames) h (by rw [advance_only h])
  have hid : (closeRegion u (advance i u s)).nextId = n := by rw [e]
  obtain ⟨g2, act⟩ := updAct_by (u := u) by_.moved.new (f n)
  have only := updAct_only (u := u) by_.moved.new (f n)
  dsimp only
  rw [hid]
  generalize updAct u (closeRegion u (advance i u s)) (f n) = t at act only ⊢
  rw [e] at only
  refine ⟨n, ?_, (by_.trans act fun _ _ _ => rfl).acts fun _ _ => rfl, rs, held, ?_⟩
  · rw [only]
    rfl
  · rw [only, List.append_nil]

/-! ## TRAPRET -/

/-- A group's bound record is found by its kind, its context and its number. -/
theorem boundRec_congr {s t : State} {g g' : Group} (hr : t.recs = s.recs) (hk : g'.kind = g.kind) (hc : g'.cxid = g.cxid)
    (hn : g'.gid = g.gid) : boundRec t g' = boundRec s g := by
  simp only [boundRec, hr, hk, hc, hn]

theorem endTrapret_of_bound {s : State} {gid : Nat} {g : Group} {r : TrapRec} (hg : s.grp? gid = some g)
    (hb : boundRec s g = some r) (ts : List Nat) (fin : Bool) (pc : DWord) :
    endTrapret gid ts fin pc s = exitEffect (unbind (trapReturn s r fin pc) g.cxid r.seq) gid ts := by
  simp [endTrapret, hg, hb]

section
variable {o : RCF} {u : Issue} {s : State} {r : TrapRec}

/-- The check of the address that a TRAPRET is to resume at, where it is to resume threads (R356). -/
def trapretFault (s : State) (r : TrapRec) : Option Cause :=
  if !(r.act == 1) && needsPc s r then traprPcFault r.pc else none

theorem trapretFault_of_wants (ha : r.act ≠ 1) (hn : needsPc s r = true) : trapretFault s r = traprPcFault r.pc := by
  rw [trapretFault, beq_eq_false_iff_ne.2 ha, hn]
  rfl

/-- A TRAPRET whose address fails its check traps. -/
theorem trapret_takes {c : Cause} (h : Issues (.trapret o) u s) (hb : boundRec (advance (.trapret o) u s) u.grp = some r)
    (hc : trapretFault (advance (.trapret o) u s) r = some c) :
    exec (.trapret o) s = .next (raise s u.grp (u.ti c u.act r.pc)) := by
  refine (exec_trapret o s).trans (execUnit_trap h ?_)
  rw [trapretFault] at hc
  simp only [hb, hc]

/-- A TRAPRET that passes its check commits; it takes effect at once where its threads' stores are performed, and parks else (R356). -/
theorem trapret_returns (h : Issues (.trapret o) u s) (hb : boundRec (advance (.trapret o) u s) u.grp = some r)
    (hc : trapretFault (advance (.trapret o) u s) r = none) : Ends (.trapret o) u s fun t => ∃ n s0,
      s0 = afterCommit (.trapret o) u s s0 n ∧ Commits (.trapret o) u s s0 n [] id (fun _ th => th) ∧
      ((∀ k ∈ u.act, uncovered s0 u.gid k n = false) →
        t = exitEffect (unbind (trapReturn s0 r (r.act == 1) r.pc) u.grp.cxid r.seq) u.gid u.act) ∧
      ((∃ k ∈ u.act, uncovered s0 u.gid k n = true) →
        t = s0.updGrp u.gid fun g => g.updThrs u.act fun th => { th with park := some (.trapret (r.act == 1) r.pc) }) := by
  obtain ⟨n, only, commits⟩ := closeRegion_commits (i := .trapret o) h.1
  have hid : (closeRegion u (advance (.trapret o) u s)).nextId = n := by rw [only]; rfl
  obtain ⟨g, hg, rest, -, -⟩ := commits.1.group
  have hrec : (closeRegion u (advance (.trapret o) u s)).recs = (advance (.trapret o) u s).recs := by
    rw [only, advance_only h.1]
    rfl
  have hbound : boundRec (closeRegion u (advance (.trapret o) u s)) g = some r := by
    rw [← hb]
    exact boundRec_congr hrec (by rw [rest]; rfl) (by rw [rest]; rfl) (by rw [rest]; rfl)
  have hcx : g.cxid = u.grp.cxid := by rw [rest]; rfl
  rw [trapretFault] at hc
  by_cases hp : ∀ k ∈ u.act, uncovered (closeRegion u (advance (.trapret o) u s)) u.gid k n = false
  · refine ends_of h (exec_trapret o s) (s1 := endTrapret u.gid u.act (r.act == 1) r.pc (closeRegion u (advance (.trapret o) u s)))
      ?_ ⟨n, _, only, commits, fun _ => ?_, fun ⟨k, hk, ht⟩ => absurd (hp k hk) (by simp [ht])⟩
    · simp only [hb, hc, hid]
      exact if_pos (List.all_eq_true.2 fun k hk => by simp [hp k hk])
    · rw [endTrapret_of_bound hg hbound, hcx]
  · refine ends_of h (exec_trapret o s) ?_ ⟨n, _, only, commits, fun ha => absurd ha hp, fun _ => rfl⟩
    simp only [hb, hc, hid]
    refine (if_neg fun ha => hp fun k hk => ?_).trans rfl
    simpa using List.all_eq_true.1 ha k hk

end

/-! ## TLBINV -/

/-- What TLBINV checks of its pair: an address that is canonical, or a context of the issuer's subtree (R365). -/
def tlbinvOk (kind : Nat) (u : Issue) (s : State) (x : DWord) : Prop :=
  if kind = 0 then canonical x = true else x.toNat < 65536 ∧ ∃ c ∈ subtree s u.grp.cxid, c.cxid = x.toNat

/-- TLBINV commits, and parks its active threads, where its pair passes; else it traps (R365). -/
theorem tlbinv_unit {i : Instr} {u : Issue} {s : State} {o : TIF} {kind : Nat} (hx : exec i s = execUnit i (tlbinv kind o) s)
    (h : Issues i u s) : let x := u.rd64 s u.low (2 * o.ap.toNat)
    (u.act = [] ∨ tlbinvOk kind u s x → Ends i u s fun t => ∃ n, t = afterCommit i u s t n ∧
      Commits i u s t n [] id (parked u fun _ => .tlbinv kind x n)) ∧
    (u.act ≠ [] → ¬tlbinvOk kind u s x → ∃ ti, exec i s = .next (raise s u.grp ti) ∧ ti.lanes = u.act ∧
      ti.cause = if kind ≠ 0 ∧ 65536 ≤ x.toNat then .illegalOp else .protection) := by
  intro x
  have hrd : u.rd64 (advance i u s) u.low (2 * o.ap.toNat) = x := rd64_advance ..
  have hsub : subtree (advance i u s) u.grp.cxid = subtree s u.grp.cxid := by rw [advance_only h.1]; rfl
  have hfit (hok : tlbinvOk kind u s x) : ¬(kind ≠ 0 ∧ 65536 ≤ x.toNat) := fun ⟨hk, hx⟩ => by
    rw [tlbinvOk, if_neg hk] at hok
    omega
  have hcheck (hb : ¬(kind ≠ 0 ∧ 65536 ≤ x.toNat)) : (if kind = 0 then !canonical x
      else !((subtree s u.grp.cxid).any fun c => c.cxid == x.toNat)) = true ↔ ¬tlbinvOk kind u s x := by
    rw [tlbinvOk]
    split
    · simp
    · next hk =>
      have hlt : x.toNat < 65536 := by omega
      simp [hlt]
  obtain ⟨n, only, commits⟩ := closeRegion_updAct (i := i) h.1 fun n _ th => { th with park := some (.tlbinv kind x n) }
  refine ⟨fun hok => ends_of h hx ?_ ⟨n, only, commits⟩, fun ha hok => ?_⟩
  · by_cases ha : u.act = []
    · rw [updAct_nil ha]
      simp [tlbinv, ha]
    · have hok := hok.resolve_left ha
      simp only [tlbinv, hrd, hsub]
      rw [if_neg (by simpa using ha), if_neg (hfit hok), if_neg (fun hc => (hcheck (hfit hok)).1 hc hok)]
  · by_cases hb : kind ≠ 0 ∧ 65536 ≤ x.toNat
    · refine ⟨u.ti .illegalOp u.act, hx.trans (execUnit_trap h ?_), rfl, (if_pos hb).symm⟩
      simp only [tlbinv, hrd, hsub]
      rw [if_neg (by simpa using ha), if_pos hb]
    · refine ⟨u.ti .protection u.act x, hx.trans (execUnit_trap h ?_), rfl, (if_neg hb).symm⟩
      simp only [tlbinv, hrd, hsub]
      rw [if_neg (by simpa using ha), if_neg hb, if_pos ((hcheck hb).2 hok)]

/-! ## Statement -/

/-- Settles O36: TRAPRET by `trapret_takes` and `trapret_returns`, TLBINV by `tlbinv_unit`, and FRMSTAT gives results on their way. -/
theorem supervisorInstructions : Obligations.supervisorInstructions := by
  unfold Obligations.supervisorInstructions
  refine ⟨fun o u s h => ⟨fun hb => ?unbound, fun r hb => ⟨fun hw hodd => ?misaligned, fun hw heven hfar => ?far, fun hw => ?returns⟩⟩,
    fun o => ⟨fun u s h => ?page, fun u s h => ?ctx, fun u s h => ?subtree⟩, fun o u s h => ⟨fun hf => ?states, fun k r hf => ?outside⟩⟩
  case unbound => exact (exec_trapret o s).trans (execUnit_trap h (by simp [hb]; rfl))
  case misaligned => exact trapret_takes h hb ((trapretFault_of_wants hw.1 hw.2).trans (by simp [traprPcFault, hodd]))
  case far => exact trapret_takes h hb ((trapretFault_of_wants hw.1 hw.2).trans (by simp [traprPcFault, heven, hfar]))
  case returns =>
    refine trapret_returns h hb ?_
    rw [trapretFault]
    rcases hw with hw | ⟨heven, hcan⟩
    · exact if_neg fun hc => hw (by simpa using hc)
    · simp [traprPcFault, heven, hcan]
  case page => exact tlbinv_unit (exec_tlbinvPage o s) h
  case ctx => exact tlbinv_unit (exec_tlbinvCtx o s) h
  case subtree => exact tlbinv_unit (exec_tlbinvSubtree o s) h
  case states =>
    have hf : (u.act.filter fun k => !canonical (u.rd64 s k (2 * o.ap.toNat))) = [] := hf
    refine ends_of h (exec_frmstat o s) (by simp only [rd64_advance, hf]; rfl) ?_
    simpa only [rd64_advance] using addPends_advance (i := .frmstat o) h.1
      (fun k => ([o.d.toNat], [some (frmWord (advance (.frmstat o) u s) u.grp.cxid (u.rd64 s k (2 * o.ap.toNat)))])) false false
  case outside =>
    have hf : (u.act.filter fun k => !canonical (u.rd64 s k (2 * o.ap.toNat))) = k :: r := hf
    exact (exec_frmstat o s).trans (execUnit_trap h (by simp only [rd64_advance, hf]; rfl))

end Sys2Proof.Machine
end

section
/-! Two groups of a partition, of which one holds the latch (R241): a statement about MSTR that the model does not meet. -/

namespace Sys2Proof.Machine

/-- The program's group with every lane switched off by a guard range that has run out. -/
def switchedOff : Group :=
  { programGroup with threads := programGroup.threads.map fun th => { th with guard := some ⟨0, false, 0, false⟩ } }

/-- A second group of the program's partition, whose A the partition's latch keeps. -/
def latchHolder : Group := { programGroup with gid := 2, g := 1, slot := 1, latch := some ⟨0, 0, 1, none, []⟩ }

/-- The program at its first word with its lanes switched off, beside the group that holds the latch. -/
def besideLatch : State := { layProgram State.reset [] with groups := [switchedOff, latchHolder] }

/-- The unit in progress there, which has no active lane. -/
def idleUnit : Issue :=
  { core := 0, part := 0, gid := 1, grp := switchedOff, tids := List.range 16, act := [], upc := programPc, ipc := programPc, pfx := {} }

theorem issues_idleUnit : Issues (.mstr ⟨0, 0, 0⟩) idleUnit besideLatch :=
  ⟨by decide +kernel, by decide +kernel⟩

theorem latch_besideLatch : ((besideLatch.grp? 2).bind Group.latch).isSome = true := by decide +kernel

/-- An MSTR without an active lane only ends its unit. -/
theorem exec_mstr_idle {o : MQF} {u : Issue} {s : State} (h : Issues (.mstr o) u s) (ha : u.act = []) :
    exec (.mstr o) s = .next (finish (.mstr o) u (advance (.mstr o) u s)) := by
  rw [exec_mstr]
  exact execUnit_ok h (by simp [ha])

/-- The end of that unit releases the latch that the other group holds. -/
theorem latch_finish_idleUnit : ((finish (.mstr ⟨0, 0, 0⟩) idleUnit (advance (.mstr ⟨0, 0, 0⟩) idleUnit besideLatch)).grp? 2).bind
    Group.latch = none := by decide +kernel

/-- Refutes O30: its clause for an MSTR without an active lane asks that no other group change. The end of every matrix
instruction's unit releases the latches of the other groups of its partition, with or without an active lane, so in
`besideLatch` the second group loses the latch that it holds. Only a unit whose lanes a guard range switches off is without an
active lane, and MSTR takes no GUARD (R154): the range of this state has run out, and the statement does not shut it out. -/
theorem not_tileInstructions : ¬ Obligations.tileInstructions := by
  unfold Obligations.tileInstructions
  rintro ⟨-, idle, -⟩
  obtain ⟨t, ht, -, done⟩ := idle ⟨0, 0, 0⟩ idleUnit besideLatch issues_idleUnit rfl
  rw [exec_mstr_idle issues_idleUnit rfl, Host.Outcome.next.injEq] at ht
  have kept : t.grp? 2 = besideLatch.grp? 2 := done.others 2 (by decide)
  have held := latch_besideLatch
  rw [← kept, ← ht, latch_finish_idleUnit] at held
  exact absurd held (by decide)

end Sys2Proof.Machine
end

section
/-! MMA and MLOOP (R121, R236, R241, R244 to R246): their checks, what they count and latch, and their entry into the sequencer's
queue. -/

namespace Sys2Proof.Machine

/-! ## The checks at issue -/

/-- What an MMA or MLOOP traps for as ILLEGAL_OP: its pairing, its stream, its tile or the tile's mode (R245). -/
def MxBad (u : Issue) (s : State) (o : MXF) : Prop :=
  (o.pairing.toNat = 15 ∧ s.service ≠ .full) ∨ msValid (u.stream o.stream) = false ∨ u.accCount s ≤ o.acc.toNat ∨
    pairMode o.pairing.toNat (u.tileMode s o.acc.toNat) = false

/-- Whether its footprint stays inside the scratchpad of the unit's block (R245). -/
def MxFits (u : Issue) (s : State) (o : MXF) : Prop :=
  footprint o (u.stream o.stream) ≤ ((s.blk? u.grp.bid).map Block.size).getD 0

theorem mxCheck_bad {u : Issue} {s : State} {o : MXF} (h : MxBad u s o) : mxCheck u s o = some (u.ti .illegalOp u.act) := by
  rcases h with hpairing | hstream | hcount | hmode
  · simp [mxCheck, hpairing]
  · simp [mxCheck, hstream]
  · simp [mxCheck, hcount]
  · simp [mxCheck, hmode]

/-- An MMA or MLOOP whose pairing, stream and tile pass goes on to the footprint and the ordinals. -/
theorem mxCheck_of_not_bad {u : Issue} {s : State} {o : MXF} (h : ¬MxBad u s o) : mxCheck u s o =
    if ((s.blk? u.grp.bid).map Block.size).getD 0 < footprint o (u.stream o.stream) then
      some (u.ti .protection u.act (BitVec.ofNat 64 (msBase (u.stream o.stream))))
    else if !u.ordFull.isEmpty then some (u.ti .regionFull u.ordFull) else none := by
  obtain ⟨hp, hv, ha, hm⟩ : ¬(o.pairing.toNat = 15 ∧ s.service ≠ .full) ∧ ¬msValid (u.stream o.stream) = false ∧
      ¬u.accCount s ≤ o.acc.toNat ∧ ¬pairMode o.pairing.toNat (u.tileMode s o.acc.toNat) = false := by
    simpa only [MxBad, not_or] using h
  unfold mxCheck
  dsimp only
  rw [if_neg hp, if_neg (by simpa using hv), if_neg ha, if_neg (by simpa using hm)]

theorem mxCheck_not_fits {u : Issue} {s : State} {o : MXF} (h : ¬MxBad u s o) (hf : ¬MxFits u s o) :
    mxCheck u s o = some (u.ti .protection u.act (BitVec.ofNat 64 (msBase (u.stream o.stream)))) := by
  rw [mxCheck_of_not_bad h, if_pos (not_le.1 hf)]

theorem mxCheck_fits {u : Issue} {s : State} {o : MXF} (h : ¬MxBad u s o) (hf : MxFits u s o) :
    mxCheck u s o = if u.ordFull = [] then none else some (u.ti .regionFull u.ordFull) := by
  rw [mxCheck_of_not_bad h, if_neg (not_lt.2 hf)]
  cases u.ordFull <;> rfl

/-- Passing the unit changes nothing that the checks look at. -/
theorem mxCheck_advance {i : Instr} {u : Issue} {s : State} (h : s.issue? = some u) (o : MXF) :
    mxCheck u (advance i u s) o = mxCheck u s o := by
  rw [advance_only h]
  rfl

/-! ## Counts and the latch -/

/-- A thread whose A the latch keeps, or no more (R241). -/
def keptThread (u : Issue) (o : MXF) (k : Nat) (th : Thread) : Thread :=
  { th with kept := if (o.reuse = 1 ∧ u.writers ≠ []) ∧ u.writers.contains k then aReads u.pfx o else [] }

/-- The same of a thread that has counted a tile-writing instruction (R121). -/
def latchedThread (u : Issue) (o : MXF) (k : Nat) (th : Thread) : Thread :=
  keptThread u o k (onAct u (fun _ th => { th with ord := th.ord + 1, skip := th.skip - 1 }) k th)

/-- A group after an operation with reuse, which has latched its A, or without, which has released the latch (R241). -/
def Group.latched (u : Issue) (o : MXF) (g : Group) : Group :=
  { g with latch := if o.reuse = 1 ∧ u.writers ≠ [] then some { latchKey u.pfx o with tids := u.writers } else none }

/-- Setting the latch changes the unit's group alone. -/
theorem setLatch_by {u : Issue} {s : State} {g : Group} (h : (s.groups.find? fun x => x.gid == u.gid) = some g) (o : MXF) :
    setLatch u o s = { s with groups := (setLatch u o s).groups } ∧
      ∃ g', GroupBy u.gid s (setLatch u o s) g g' (Group.latched u o) (keptThread u o) := by
  have keep : (o.reuse == 1 && !u.writers.isEmpty) = decide (o.reuse = 1 ∧ u.writers ≠ []) := by
    rw [Bool.eq_iff_iff]
    simp
  unfold setLatch
  simp only [keep, decide_eq_true_eq, Bool.and_eq_true]
  exact ⟨OneGroup.only (OneGroup.of_updGrp _ (fun _ => rfl) h), _, groupBy_updGrp h (fun _ => rfl) fun _ => rfl⟩

/-- Counting the operation and setting the latch change the unit's group alone. -/
theorem setLatch_countTile {u : Issue} {s : State} {g : Group} (h : (s.groups.find? fun x => x.gid == u.gid) = some g) (o : MXF) :
    let t := setLatch u o (countTile u s)
    t = { s with groups := t.groups } ∧ ∃ g', GroupBy u.gid s t g g' (Group.latched u o) (latchedThread u o) := by
  have counts : countTile u s = { s with groups := (countTile u s).groups } := updAct_only h _
  obtain ⟨g1, counted⟩ := updAct_by (u := u) h fun _ th => { th with ord := th.ord + 1, skip := th.skip - 1 }
  obtain ⟨latches, g2, latched⟩ := setLatch_by (s := countTile u s) counted.moved.new o
  refine ⟨?_, g2, counted.trans latched fun _ _ _ => rfl⟩
  generalize setLatch u o (countTile u s) = t at latches ⊢
  rw [counts] at latches
  exact latches

/-! ## The effect -/

/-- What an MMA or MLOOP that has entered the queue as operation `id` leaves of its group: the threads that it is performed for
parked, or the operation counted on cnt.mx (R244). -/
def Group.entered (u : Issue) (mma : Bool) (id : Nat) (g : Group) : Group :=
  if mma then g.updThrs u.writers fun th => { th with park := some (.mma id) } else { g with ops := g.ops ++ [⟨id, 1, false, []⟩] }

/-- The effect that MMA and MLOOP share. -/
def mxEffect (o : MXF) (mma : Bool) (u : Issue) (s : State) : Res := match mxCheck u s o with
  | some ti => .trap ti
  | none =>
    if u.writers.isEmpty then .ok (setLatch u o (countTile u s))
    else if mxFull u s then .retry .sequencer
    else if !mma && u.grp.cnt 1 == 65535 then .retry (.counter 1)
    else .ok ((setLatch u o (countTile u (mxAccept u s o mma u.writers))).updGrp u.gid (Group.entered u mma s.nextId))

theorem exec_mma_effect (o : MXF) (s : State) : exec (.mma o) s = execUnit (.mma o) (mxEffect o true) s := rfl

theorem exec_mloop_effect (o : MXF) (s : State) : exec (.mloop o) s = execUnit (.mloop o) (mxEffect o false) s := rfl

/-- The operation that an MMA or MLOOP enters into the queue, with its captured words of A (R246). -/
def mxOp (u : Issue) (s : State) (o : MXF) (mma : Bool) : MxOp :=
  { id := s.nextId, gid := u.gid, cxid := u.grp.cxid, bid := u.grp.bid, core := u.core, part := u.part,
    half := u.half s, acc := o.acc.toNat, pairing := o.pairing.toNat, kg := kgOf o.kgc,
    a := u.writers.map fun t => (t, u.rdN s t o.a.toNat (aPer o.pairing.toNat * kgOf o.kgc)),
    ea := if (pairTypes o.pairing.toNat).1.isBx then u.writers.map fun t => (t, (List.range (kgOf o.kgc)).map fun g =>
      bitsOf (u.rd s t (aScaleReg u.pfx o g).1).toNat (8 * (aScaleReg u.pfx o g).2) 8) else [],
    ms := u.stream o.stream, mma := mma, ovl := groupPadBytes s u.grp, fpc := u.upc }

theorem rampStart_only (s : State) (core part : Nat) : rampStart s core part = { s with ramps := (rampStart s core part).ramps } := by
  unfold rampStart
  dsimp only
  split <;> rfl

/-- Accepting an operation appends it to the queue and may start the ramp (R242, R246). -/
theorem mxAccept_only (u : Issue) (s : State) (o : MXF) (mma : Bool) : mxAccept u s o mma u.writers =
    { s with ramps := (mxAccept u s o mma u.writers).ramps, mxs := s.mxs ++ [mxOp u s o mma], nextId := s.nextId + 1 } :=
  rampStart_only _ _ _

/-- A group with its operation counted on cnt.mx, unless its threads wait for it (R244). -/
def Group.counts (mma : Bool) (id : Nat) (g : Group) : Group := if mma then g else { g with ops := g.ops ++ [⟨id, 1, false, []⟩] }

/-- A thread that the operation is performed for, parked until its last tile write, or running on (R244). -/
def enteredThread (u : Issue) (mma : Bool) (id k : Nat) (th : Thread) : Thread :=
  if mma ∧ u.writers.contains k then { th with park := some (.mma id) } else th

theorem entered_eq (u : Issue) (mma : Bool) (id : Nat) (g : Group) :
    g.entered u mma id = { g.counts mma id with threads := g.threads.mapIdx (enteredThread u mma id) } := by
  cases mma with
  | true =>
    have parks : enteredThread u true id = fun k th => if u.writers.contains k then { th with park := some (.mma id) } else th := by
      funext k th
      simp [enteredThread]
    rw [parks]
    rfl
  | false =>
    have stays : enteredThread u false id = fun _ th => th := by
      funext k th
      simp [enteredThread]
    have same : (g.threads.mapIdx fun _ th => th) = g.threads := List.ext_getElem (by simp) (by simp)
    rw [stays, same]
    rfl

theorem gid_counts (mma : Bool) (id : Nat) (g : Group) : (g.counts mma id).gid = g.gid := by cases mma <;> rfl

/-! ## The clauses -/

section
variable {i : Instr} {o : MXF} {mma : Bool} {u : Issue} {s : State}

/-- The threads without a skip count are none: the operation is counted and sets the latch, and no more (R121). -/
theorem mx_skipped (hx : ∀ s, exec i s = execUnit i (mxEffect o mma) s) (h : Issues i u s)
    (hc : mxCheck u (advance i u s) o = none) (hw : u.writers = []) : Ends i u s fun t =>
      t = { s with groups := t.groups } ∧ Acts i u s t (Group.latched u o) (latchedThread u o) := by
  obtain ⟨g1, passed_⟩ := advance_by (i := i) h.1
  obtain ⟨only, g2, latched⟩ := setLatch_countTile passed_.moved.new o
  refine ends_of h (hx s) (s1 := setLatch u o (countTile u (advance i u s))) ?_
    ⟨?_, (passed_.trans latched fun _ _ _ => rfl).acts fun _ _ => rfl⟩
  · simp [mxEffect, hc, hw]
  · generalize setLatch u o (countTile u (advance i u s)) = t at only ⊢
    rw [advance_only h.1] at only
    exact only

/-- A full queue or a full counter makes the operation wait (R236, R244). -/
theorem mx_waits (hx : ∀ s, exec i s = execUnit i (mxEffect o mma) s) (h : Issues i u s)
    (hc : mxCheck u (advance i u s) o = none) (hw : u.writers ≠ [])
    (hfull : mxFull u (advance i u s) = true ∨ (mma = false ∧ u.grp.cnt 1 = 65535)) :
    Parks i u s (if mxFull u (advance i u s) then .sequencer else .counter 1) := by
  refine parks_of h hx ?_
  cases hq : mxFull u (advance i u s) with
  | true => simp [mxEffect, hc, hw, hq]
  | false =>
    obtain ⟨hm, hn⟩ := hfull.resolve_left (by simp [hq])
    simp [mxEffect, hc, hw, hq, hm, hn]

/-- Any other operation enters the queue (R246). -/
theorem mx_accepted (hx : ∀ s, exec i s = execUnit i (mxEffect o mma) s) (h : Issues i u s)
    (hc : mxCheck u (advance i u s) o = none) (hw : u.writers ≠ [])
    (hroom : ¬(mxFull u (advance i u s) = true ∨ (mma = false ∧ u.grp.cnt 1 = 65535))) : Ends i u s fun t =>
      t = { s with groups := t.groups, ramps := t.ramps, mxs := s.mxs ++ [mxOp u (advance i u s) o mma], nextId := s.nextId + 1 } ∧
      Acts i u s t (fun g => (g.latched u o).counts mma s.nextId)
        fun k th => enteredThread u mma s.nextId k (latchedThread u o k th) := by
  obtain ⟨hq, hn⟩ := not_or.1 hroom
  have passedOnly := advance_only (i := i) h.1
  have hid : (advance i u s).nextId = s.nextId := by rw [passedOnly]
  have hmxs : (advance i u s).mxs = s.mxs := by rw [passedOnly]
  have hok : mxEffect o mma u (advance i u s) = .ok ((setLatch u o (countTile u (mxAccept u (advance i u s) o mma u.writers))).updGrp
      u.gid (Group.entered u mma s.nextId)) := by
    have hcount : (!mma && u.grp.cnt 1 == 65535) = false := by
      rw [Bool.eq_false_iff]
      simpa using hn
    simp [mxEffect, hc, hw, hq, hcount, hid]
  have acceptOnly := mxAccept_only u (advance i u s) o mma
  rw [hid, hmxs] at acceptOnly
  generalize mxAccept u (advance i u s) o mma u.writers = a at hok acceptOnly
  obtain ⟨g1, passed_⟩ := advance_by (i := i) h.1
  have accepted := passed_.same (r := a) (by rw [acceptOnly]) (by rw [acceptOnly])
  obtain ⟨latchOnly, g2, latched⟩ := setLatch_countTile accepted.moved.new o
  generalize setLatch u o (countTile u a) = l at hok latchOnly latched
  have entered := groupBy_updGrp latched.moved.new (entered_eq u mma s.nextId) (gid_counts mma s.nextId)
  have enterOnly := (OneGroup.of_updGrp (Group.entered u mma s.nextId)
    (fun g => by rw [entered_eq]; exact gid_counts mma s.nextId g) latched.moved.new).only
  refine ends_of h (hx s) hok ⟨?_, ((accepted.trans latched fun _ _ _ => rfl).trans entered fun g _ _ => ?_).acts fun _ _ => rfl⟩
  · generalize l.updGrp u.gid (Group.entered u mma s.nextId) = t at enterOnly ⊢
    generalize mxOp u (advance i u s) o mma = op at acceptOnly ⊢
    rw [latchOnly, acceptOnly, passedOnly] at enterOnly
    rw [enterOnly]
  · cases mma <;> rfl

end

/-- Settles O31: `mxCheck` gives the traps in the order of R245, and `mx_skipped`, `mx_waits` and `mx_accepted` say what becomes of
an operation that passes it. -/
theorem matrixInstructions : Obligations.matrixInstructions := by
  unfold Obligations.matrixInstructions
  intro counted enters
  have shared {i : Instr} {o : MXF} {mma : Bool} (hx : ∀ s, exec i s = execUnit i (mxEffect o mma) s) : enters i o mma := by
    intro u s h s' keep latched kept full p m bad fits spill
    have traps {ti : TrapInfo} (hc : mxCheck u s o = some ti) : exec i s = .next (raise s u.grp ti) :=
      (hx s).trans (execUnit_trap h (by rw [mxEffect, mxCheck_advance h.1, hc]))
    refine ⟨fun hb => traps (mxCheck_bad hb), fun hb hf => traps (mxCheck_not_fits hb hf), fun hb hf hs => traps ?_, fun hb hf hs => ?_,
      mx_skipped hx h, mx_waits hx h, fun hc hw hroom => ?_⟩
    · exact (mxCheck_fits hb hf).trans (if_neg hs)
    · exact (mxCheck_advance h.1 o).trans ((mxCheck_fits hb hf).trans (if_pos hs))
    · obtain ⟨t, ht, only, acts⟩ := mx_accepted hx h hc hw hroom
      exact ⟨t, ht, _, only, acts, by rw [advance_only h.1]; rfl, rfl, rfl, rfl, rfl, rfl, rfl, rfl, rfl, rfl, rfl, by
        simp only [mxOp, rdN_advance]; rfl⟩
  exact fun o => ⟨shared (exec_mma_effect o), shared (exec_mloop_effect o)⟩

end Sys2Proof.Machine
end

section
/-! Instructions and their words (R131 to R155). -/

namespace Sys2Proof.Machine

open Laws

/-- An instruction that has a word is read back from it (R132 to R153): the round trips of all instructions. -/
theorem decode_encode {i : Instr} (hi : i.isWord = true) : decode (encode i) = i := by
  cases i with
  | iadd o => exact RoundTrip.iadd o hi | isub o => exact RoundTrip.isub o hi | imul o => exact RoundTrip.imul o hi
  | imulhI32 o => exact RoundTrip.imulhI32 o hi | imulhN32 o => exact RoundTrip.imulhN32 o hi
  | imad o => exact RoundTrip.imad o hi | iminImaxI32 o => exact RoundTrip.iminImaxI32 o hi
  | iminImaxN32 o => exact RoundTrip.iminImaxN32 o hi | and o => exact RoundTrip.and o hi | or o => exact RoundTrip.or o hi
  | xor o => exact RoundTrip.xor o hi | andn o => exact RoundTrip.andn o hi | iadd64 o => exact RoundTrip.iadd64 o hi
  | isub64 o => exact RoundTrip.isub64 o hi | bfx o => exact RoundTrip.bfx o hi | bfi o => exact RoundTrip.bfi o hi
  | shlImm o => exact RoundTrip.shlImm o hi | shlReg o => exact RoundTrip.shlReg o hi | shrImm o => exact RoundTrip.shrImm o hi
  | shrReg o => exact RoundTrip.shrReg o hi | sarImm o => exact RoundTrip.sarImm o hi | sarReg o => exact RoundTrip.sarReg o hi
  | rotlImm o => exact RoundTrip.rotlImm o hi | rotlReg o => exact RoundTrip.rotlReg o hi
  | iaddImm o => exact RoundTrip.iaddImm o hi | andImm o => exact RoundTrip.andImm o hi | orImm o => exact RoundTrip.orImm o hi
  | xorImm o => exact RoundTrip.xorImm o hi | movi o => exact RoundTrip.movi o hi | movhi o => exact RoundTrip.movhi o hi
  | lea o => exact RoundTrip.lea o hi | isetpI32 o => exact RoundTrip.isetpI32 o hi | isetpN32 o => exact RoundTrip.isetpN32 o hi
  | fsetp o => exact RoundTrip.fsetp o hi | plop o => exact RoundTrip.plop o hi | ppack o => exact RoundTrip.ppack o hi
  | punpk o => exact RoundTrip.punpk o hi | cmov o => exact RoundTrip.cmov o hi | fadd o => exact RoundTrip.fadd o hi
  | fsub o => exact RoundTrip.fsub o hi | fmul o => exact RoundTrip.fmul o hi | ffma o => exact RoundTrip.ffma o hi
  | ffms o => exact RoundTrip.ffms o hi | fnfma o => exact RoundTrip.fnfma o hi | fminFmax o => exact RoundTrip.fminFmax o hi
  | fscb o => exact RoundTrip.fscb o hi | hadd2Bf16 o => exact RoundTrip.hadd2Bf16 o hi
  | hadd2F16 o => exact RoundTrip.hadd2F16 o hi | hmul2Bf16 o => exact RoundTrip.hmul2Bf16 o hi
  | hmul2F16 o => exact RoundTrip.hmul2F16 o hi | hfma2Bf16 o => exact RoundTrip.hfma2Bf16 o hi
  | hfma2F16 o => exact RoundTrip.hfma2F16 o hi | hmin2Hmax2Bf16 o => exact RoundTrip.hmin2Hmax2Bf16 o hi
  | hmin2Hmax2F16 o => exact RoundTrip.hmin2Hmax2F16 o hi | not o => exact RoundTrip.not o hi | neg o => exact RoundTrip.neg o hi
  | iabs o => exact RoundTrip.iabs o hi | popc o => exact RoundTrip.popc o hi | clz o => exact RoundTrip.clz o hi
  | brev o => exact RoundTrip.brev o hi | sext8 o => exact RoundTrip.sext8 o hi | sext16 o => exact RoundTrip.sext16 o hi
  | zext8 o => exact RoundTrip.zext8 o hi | zext16 o => exact RoundTrip.zext16 o hi | fneg o => exact RoundTrip.fneg o hi
  | fabs o => exact RoundTrip.fabs o hi | frint o => exact RoundTrip.frint o hi | fexpx o => exact RoundTrip.fexpx o hi
  | cvt o => exact RoundTrip.cvt o hi | rcpe o => exact RoundTrip.rcpe o hi | rsqe o => exact RoundTrip.rsqe o hi
  | ex2e o => exact RoundTrip.ex2e o hi | lg2e o => exact RoundTrip.lg2e o hi | sinpe o => exact RoundTrip.sinpe o hi
  | cospe o => exact RoundTrip.cospe o hi | tanhe o => exact RoundTrip.tanhe o hi | bxq o => exact RoundTrip.bxq o hi
  | bxd o => exact RoundTrip.bxd o hi | mov o => exact RoundTrip.mov o hi | srd o => exact RoundTrip.srd o hi
  | swr o => exact RoundTrip.swr o hi | mskr o => exact RoundTrip.mskr o hi | mskw o => exact RoundTrip.mskw o hi
  | mskp o => exact RoundTrip.mskp o hi | pmsk o => exact RoundTrip.pmsk o hi | br o => exact RoundTrip.br o hi
  | call o => exact RoundTrip.call o hi | nop o => exact RoundTrip.nop o hi | exit o => exact RoundTrip.exit o hi
  | ret o => exact RoundTrip.ret o hi | jidx o => exact RoundTrip.jidx o hi | brk o => exact RoundTrip.brk o hi
  | trap o => exact RoundTrip.trap o hi | jenr o => exact RoundTrip.jenr o hi | jwait o => exact RoundTrip.jwait o hi
  | ldB o => exact RoundTrip.ldB o hi | ldH o => exact RoundTrip.ldH o hi | ldW o => exact RoundTrip.ldW o hi
  | ldD o => exact RoundTrip.ldD o hi | ldQ o => exact RoundTrip.ldQ o hi | stB o => exact RoundTrip.stB o hi
  | stH o => exact RoundTrip.stH o hi | stW o => exact RoundTrip.stW o hi | stD o => exact RoundTrip.stD o hi
  | stQ o => exact RoundTrip.stQ o hi | lds o => exact RoundTrip.lds o hi | sts o => exact RoundTrip.sts o hi
  | ldp o => exact RoundTrip.ldp o hi | stp o => exact RoundTrip.stp o hi | tld o => exact RoundTrip.tld o hi
  | tst o => exact RoundTrip.tst o hi | prfL1 o => exact RoundTrip.prfL1 o hi | prfL2 o => exact RoundTrip.prfL2 o hi
  | cctlInv1 o => exact RoundTrip.cctlInv1 o hi | cctlInva o => exact RoundTrip.cctlInva o hi
  | cctlWb o => exact RoundTrip.cctlWb o hi | cctlWbi o => exact RoundTrip.cctlWbi o hi
  | atomAdd o => exact RoundTrip.atomAdd o hi | atomMin o => exact RoundTrip.atomMin o hi
  | atomMax o => exact RoundTrip.atomMax o hi | atomAnd o => exact RoundTrip.atomAnd o hi
  | atomOr o => exact RoundTrip.atomOr o hi | atomXor o => exact RoundTrip.atomXor o hi
  | atomXchg o => exact RoundTrip.atomXchg o hi | atomCas o => exact RoundTrip.atomCas o hi | stm o => exact RoundTrip.stm o hi
  | fence o => exact RoundTrip.fence o hi | wait o => exact RoundTrip.wait o hi | waita o => exact RoundTrip.waita o hi
  | bar o => exact RoundTrip.bar o hi | barPe o => exact RoundTrip.barPe o hi | bara o => exact RoundTrip.bara o hi
  | barw o => exact RoundTrip.barw o hi | cbar o => exact RoundTrip.cbar o hi | rgn o => exact RoundTrip.rgn o hi
  | rgncnt o => exact RoundTrip.rgncnt o hi | shfl o => exact RoundTrip.shfl o hi | voteAny o => exact RoundTrip.voteAny o hi
  | voteAll o => exact RoundTrip.voteAll o hi | voteBallot o => exact RoundTrip.voteBallot o hi
  | gredAdd o => exact RoundTrip.gredAdd o hi | gredMin o => exact RoundTrip.gredMin o hi
  | gredMax o => exact RoundTrip.gredMax o hi | rdef o => exact RoundTrip.rdef o hi | rop o => exact RoundTrip.rop o hi
  | ropr o => exact RoundTrip.ropr o hi | btxStart o => exact RoundTrip.btxStart o hi | btxStat o => exact RoundTrip.btxStat o hi
  | tcopy o => exact RoundTrip.tcopy o hi | amtest o => exact RoundTrip.amtest o hi | amsg o => exact RoundTrip.amsg o hi
  | amh o => exact RoundTrip.amh o hi | launch o => exact RoundTrip.launch o hi | mma o => exact RoundTrip.mma o hi
  | mloop o => exact RoundTrip.mloop o hi | mstr o => exact RoundTrip.mstr o hi | aclr o => exact RoundTrip.aclr o hi
  | aread o => exact RoundTrip.aread o hi | awrite o => exact RoundTrip.awrite o hi | ast o => exact RoundTrip.ast o hi
  | ald o => exact RoundTrip.ald o hi | mburst o => exact RoundTrip.mburst o hi | csrr o => exact RoundTrip.csrr o hi
  | csrw o => exact RoundTrip.csrw o hi | ctxNew o => exact RoundTrip.ctxNew o hi | ctxRun o => exact RoundTrip.ctxRun o hi
  | ctxStop o => exact RoundTrip.ctxStop o hi | ctxGrant o => exact RoundTrip.ctxGrant o hi
  | ctxRevoke o => exact RoundTrip.ctxRevoke o hi | ctxKill o => exact RoundTrip.ctxKill o hi
  | ctxStat o => exact RoundTrip.ctxStat o hi | trapret o => exact RoundTrip.trapret o hi
  | tlbinvPage o => exact RoundTrip.tlbinvPage o hi | tlbinvCtx o => exact RoundTrip.tlbinvCtx o hi
  | tlbinvSubtree o => exact RoundTrip.tlbinvSubtree o hi | frmstat o => exact RoundTrip.frmstat o hi
  | guard o => exact RoundTrip.guard o hi | block o => exact RoundTrip.block o hi | mod o => exact RoundTrip.mod o hi
  | mxsc o => exact RoundTrip.mxsc o hi | imm o => exact RoundTrip.imm o hi
  | _ => exact nomatch hi

/-- A word names an instruction or none, never an event: each family's selecting fields are split as its major is. -/
theorem all_isWord_identifyIn (m : Nat) (w : Word) : (identifyIn m w).all Instr.isWord = true := by
  unfold identifyIn id10 id11 id12 id13 id1F id30 id31 id33 id34 id35 id3A id3C id4E id4F id53 idCas id55 id57 id5B id5E id72 id74
  repeat' split
  all_goals rfl

theorem isWord_of_identify {w : Word} {i : Instr} (h : identify w = some i) : i.isWord = true := by
  have words : (identify w).all Instr.isWord = true := all_isWord_identifyIn _ w
  rwa [h, Option.all_some] at words

/-- A word is illegal, or names the instruction that it decodes to and is that instruction's encoding (R155). -/
theorem decode_named (w : Word) : decode w = .illegalWord w ∨ identify w = some (decode w) ∧ encode (decode w) = w := by
  unfold decode
  split
  next i hi =>
    by_cases he : encode i = w
    · rw [if_pos he]
      exact .inr ⟨hi, he⟩
    · exact .inl (if_neg he)
  next => exact .inl rfl

/-- Settles O56: `decode_encode` for the instructions; a word that is not illegal is the encoding of the instruction it names. -/
theorem encodedInstructionsDecode : Obligations.encodedInstructionsDecode := by
  unfold Obligations.encodedInstructionsDecode
  refine ⟨fun i => decode_encode, fun w hw => ?word, fun w hw => ?illegal⟩
  case word =>
    rcases decode_named w with hill | ⟨-, he⟩
    · rw [hill] at hw
      exact nomatch hw
    · exact he
  case illegal =>
    refine (decode_named w).resolve_right fun ⟨hi, _⟩ => ?_
    rw [isWord_of_identify hi] at hw
    exact nomatch hw

/-- The fields of a word of major 0x07, put together again, are the word. -/
theorem encode_iminImaxN32_fields {w : Word} (h : w.extractLsb' 25 7 = 0x07#7) :
    encode (.iminImaxN32 ⟨w.extractLsb' 23 2, w.extractLsb' 16 7, w.extractLsb' 9 7, w.extractLsb' 2 7, w.extractLsb' 1 1,
      w.extractLsb' 0 1⟩) = w := by
  rw [encode, ← h]
  iterate 6 rw [BitVec.extractLsb'_append_extractLsb'_eq_extractLsb' (by decide)]
  exact extract_all w

/-- Settles O57: the written words are decoded, and a word of major 0x07 has no fixed bits that its fields leave out. -/
theorem writtenWordsDecode : Obligations.writtenWordsDecode := by
  unfold Obligations.writtenWordsDecode
  refine ⟨by decide, by decide, by decide, by decide, by decide, by decide, by decide, by decide, by decide, by decide, by decide,
    by decide, by decide, fun w h => ?_⟩
  rw [decode, identify_at (k := 0x07) (congrArg BitVec.toNat h)]
  exact if_pos (encode_iminImaxN32_fields h)

end Sys2Proof.Machine
end

section
/-! Prefixing words (R148 to R153), and words that name no instruction (R155). -/

namespace Sys2Proof.Machine

/-- The first prefixing word of its kind is recorded in the unit's run (R148). -/
theorem pfxWord_first {s : State} {u : Issue} {twice : Pfx → Bool} (h : s.issue? = some u) (ht : ¬twice u.pfx = true)
    (put : Pfx → Pfx) : pfxWord twice put s = .next { s with runs := s.runs.map fun r =>
      if r.core = u.core ∧ r.part = u.part then { r with pfx := put r.pfx, off := r.off + 1 } else r } := by
  simp [pfxWord, h, ht]

/-- A second one traps at its own address (R148). -/
theorem pfxWord_twice {s : State} {u : Issue} {twice : Pfx → Bool} (h : s.issue? = some u) (ht : twice u.pfx = true)
    (put : Pfx → Pfx) : pfxWord twice put s = .next (raise s u.grp u.pfxTrap) := by
  simp [pfxWord, h, ht]

/-- GUARD is refused within a GUARD range of the unit's threads (R149). -/
theorem inGuard_iff {s : State} {u : Issue} (h : s.issue? = some u) :
    inGuard s = true ↔ ∃ k ∈ u.tids, (u.grp.thr k).guard ≠ none := by
  simp [inGuard, h, Option.isSome_iff_ne_none]

/-- Bits [24:23] of every prefixing word are 00 (R148). -/
theorem bits_23_encode_of_pfx {w : Word} {i : Instr} (hw : 0x78 ≤ fieldNat w 25 7) (hi : identify w = some i) :
    (encode i).extractLsb' 23 2 = 0 := by
  have hlt : fieldNat w 25 7 < 2 ^ 7 := (w.extractLsb' 25 7).isLt
  rw [identify] at hi
  generalize fieldNat w 25 7 = m at hw hlt hi
  interval_cases m
  all_goals
    cases hi
    simp (disch := decide) only [encode, extract_append_high, extract_append_low, Nat.reduceSub]
    rfl

/-- A word that breaks this decodes to no instruction. -/
theorem decode_pfx_reserved {w : Word} (hw : 0x78 ≤ fieldNat w 25 7) (hr : w.extractLsb' 23 2 ≠ 0) :
    decode w = .illegalWord w := by
  refine (decode_named w).resolve_right fun ⟨hi, he⟩ => hr ?_
  have bits := bits_23_encode_of_pfx hw hi
  rwa [he] at bits

theorem exec_pfx_reserved {w : Word} {s : State} {u : Issue} (hw : 0x78 ≤ fieldNat w 25 7) (hr : w.extractLsb' 23 2 ≠ 0)
    (h : s.issue? = some u) : exec (.illegalWord w) s = .next (raise s u.grp u.pfxTrap) := by
  have hp : isPfxWord w = true := decide_eq_true hw
  have hr : fieldNat w 23 2 ≠ 0 := fun h0 => hr (BitVec.eq_of_toNat_eq h0)
  rw [exec_illegalWord, execIllegalWord, if_pos hp, badPfxWord, if_pos hr]
  exact pfxWord_twice h rfl id

/-- A word that names no instruction traps at the start of its unit, whatever stands in front of it (R155 step 2). -/
theorem exec_unnamed {w : Word} {s : State} {u : Issue} (hp : isPfxWord w = false) (hi : identify w = none)
    (h : s.issue? = some u) : exec (.illegalWord w) s = .next (raise s u.grp (u.ti .illegalOp u.tids)) := by
  simp [exec_illegalWord, execIllegalWord, hp, hi, h]

/-- Settles O37: `pfxWord_first` and `pfxWord_twice` say what every prefixing word does, and the words that are none trap. -/
theorem pfxWords : Obligations.pfxWords := by
  unfold Obligations.pfxWords
  intro records
  have shared {i : Instr} {again : State → Pfx → Bool} {twice : Issue → Prop} {put : Pfx → Pfx}
      (hx : ∀ s, exec i s = pfxWord (again s) put s)
      (ht : ∀ u s, s.issue? = some u → (again s u.pfx = true ↔ twice u)) : records i twice put := fun u s h =>
    ⟨fun hn => (hx s).trans (pfxWord_first h (mt (ht u s h).1 hn) put),
      fun hy => (hx s).trans (pfxWord_twice h ((ht u s h).2 hy) put)⟩
  refine ⟨fun o => shared (exec_guard o) fun u s h => ?guard, fun o => shared (exec_block o) fun u s _ => Option.isSome_iff_ne_none,
    fun o => shared (exec_mod o) fun u s _ => Option.isSome_iff_ne_none,
    fun o => shared (exec_mxsc o) fun u s _ => Option.isSome_iff_ne_none,
    fun o => shared (exec_imm o) fun u s _ => Option.isSome_iff_ne_none,
    fun w u s hw hr h => ⟨decode_pfx_reserved hw hr, exec_pfx_reserved hw hr h⟩, fun w u s hp hi h => exec_unnamed hp hi h⟩
  rw [Bool.or_eq_true, Option.isSome_iff_ne_none, inGuard_iff h]

end Sys2Proof.Machine
end

section
/-! The checks of a unit, in the order of R155. -/

namespace Sys2Proof.Machine

/-- Every instruction that ends a unit is executed as one, whatever its effect. -/
theorem exec_eq_execUnit {i : Instr} (hi : i.isWord = true) (hm : i.major < 0x78) : ∃ eff, ∀ s, exec i s = execUnit i eff s := by
  cases i
  all_goals simp only [Instr.isWord, Bool.false_eq_true] at hi
  case guard | block | mod | mxsc => exact absurd hm (of_decide_eq_false rfl)
  case imm o =>
    change 0x7C + o.h.toNat < 0x78 at hm
    omega
  all_goals
    unfold exec
    exact ⟨_, fun _ => rfl⟩

/-- A unit that fails a check takes its trap. -/
theorem execUnit_illegal {i : Instr} {u : Issue} {s : State} {ti : TrapInfo} {eff : Issue → State → Res} (h : s.issue? = some u)
    (hti : illegal i u s = some ti) : execUnit i eff s = .next (raise s u.grp ti) := by
  simp [execUnit, h, hti]

/-- A privileged instruction of a group in user mode (R336). -/
def NeedsSup (i : Instr) (u : Issue) : Prop := 0x70 ≤ i.major ∧ i.major ≤ 0x75 ∧ u.grp.isSup = false

section
variable {i : Instr} {u : Issue} {s : State}

theorem illegal_refused (hr : refused i u = true) : illegal i u s = some u.pfxTrap := by
  rw [illegal, if_pos hr]
  rfl

theorem illegal_privileged (hr : refused i u = false) (hs : NeedsSup i u) : illegal i u s = some (u.ti .privileged u.tids) := by
  obtain ⟨hlo, hhi, hu⟩ := hs
  simp [illegal, hr, hlo, hhi, hu, Issue.ti]

theorem illegal_encoding (hr : refused i u = false) (hs : ¬NeedsSup i u) (he : encodingBad i u = true) :
    illegal i u s = some (u.ti .illegalOp u.tids) := by
  have hs : ¬(0x70 ≤ i.major && i.major ≤ 0x75 && !u.grp.isSup) = true := by simpa [NeedsSup] using hs
  rw [illegal, if_neg (by simp [hr]), if_neg hs, if_pos he]
  rfl

theorem illegal_strict (hr : refused i u = false) (hs : ¬NeedsSup i u) (he : encodingBad i u = false) :
    illegal i u s = (strictBad i u s).map fun x => u.ti x.1 x.2 := by
  have hs : ¬(0x70 ≤ i.major && i.major ≤ 0x75 && !u.grp.isSup) = true := by simpa [NeedsSup] using hs
  rw [illegal, if_neg (by simp [hr]), if_neg hs, if_neg (by simp [he])]
  cases strictBad i u s <;> rfl

/-- The strict-debug checks: their two causes, and only in a run of strict-debug mode (R42, R44, R340). -/
theorem strictBad_cases {c : Cause} {ls : List Nat} (h : strictBad i u s = some (c, ls)) :
    (c = .unsettledRead ∨ c = .deadRead) ∧ s.run?.map Run.sdbg = some true := by
  unfold strictBad strictRegs at h
  split at h
  case isFalse => cases h
  case isTrue hon =>
    refine ⟨?_, by simpa [Option.getD_eq_iff] using hon⟩
    dsimp only at h
    split at h
    · cases h
      exact .inl rfl
    · split at h
      · cases h
        exact .inr rfl
      · cases h

/-- What a unit that fails a check traps for: the first of its checks that fails, in the order of R155. -/
theorem illegal_cases {ti : TrapInfo} (h : illegal i u s = some ti) :
    ti = u.pfxTrap ∨ ti = u.ti .privileged u.tids ∨ ti = u.ti .illegalOp u.tids ∨
      ∃ c ls, strictBad i u s = some (c, ls) ∧ ti = u.ti c ls := by
  by_cases hr : refused i u = true
  · rw [illegal_refused hr] at h
    exact .inl (Option.some.inj h).symm
  rw [Bool.not_eq_true] at hr
  by_cases hs : NeedsSup i u
  · rw [illegal_privileged hr hs] at h
    exact .inr (.inl (Option.some.inj h).symm)
  by_cases he : encodingBad i u = true
  · rw [illegal_encoding hr hs he] at h
    exact .inr (.inr (.inl (Option.some.inj h).symm))
  rw [Bool.not_eq_true] at he
  rw [illegal_strict hr hs he, Option.map_eq_some_iff] at h
  obtain ⟨⟨c, ls⟩, hstrict, rfl⟩ := h
  exact .inr (.inr (.inr ⟨c, ls, hstrict, rfl⟩))

/-- What a handler group must not execute fails its encoding check (R49). -/
theorem encodingBad_of_handler (hh : u.grp.isHandler = true) (hn : i.notInHandler = true) : encodingBad i u = true := by
  rw [encodingBad, hh, hn, Bool.and_self, Bool.or_true]

theorem illegal_handler (hh : u.grp.isHandler = true) (hn : i.notInHandler = true) : illegal i u s ≠ none := by
  cases hr : refused i u with
  | true => simp [illegal_refused hr]
  | false =>
    by_cases hs : NeedsSup i u
    · simp [illegal_privileged hr hs]
    · simp [illegal_encoding hr hs (encodingBad_of_handler hh hn)]

/-- A word of an instruction with a reserved value is judged after the prefixing words and the privilege (R155). -/
theorem exec_reserved {w : Word} (hp : isPfxWord w = false) (hi : identify w = some i) (h : s.issue? = some u) :
    exec (.illegalWord w) s = .next (raise s u.grp (if refused i u then u.pfxTrap
      else if 0x70 ≤ i.major ∧ i.major ≤ 0x75 ∧ u.grp.isSup = false then u.ti .privileged u.tids
      else u.ti .illegalOp u.tids)) := by
  simp [exec_illegalWord, execIllegalWord, hp, hi, h, and_assoc]

end

/-- Settles O38: `illegal_refused`, `illegal_privileged`, `illegal_encoding` and `illegal_strict` follow the checks in order, and
every instruction is executed as a unit that takes their answer. -/
theorem unitChecksInOrder : Obligations.unitChecksInOrder := by
  unfold Obligations.unitChecksInOrder
  refine ⟨fun i hi hm u s ti h hti => ?unit, fun w i u s hp hi h => ?word, fun i u s => ⟨illegal_refused,
    fun hr hlo hhi hu => illegal_privileged hr ⟨hlo, hhi, hu⟩, fun hr hs he => ?encoding, fun ti hti => ?strict, illegal_handler⟩⟩
  case unit =>
    obtain ⟨eff, hx⟩ := exec_eq_execUnit hi hm
    exact (hx s).trans (execUnit_illegal h hti)
  case word =>
    intro ans priv
    have hx := exec_reserved hp hi h
    refine ⟨fun hr => ?_, fun hr hs => ?_, fun hr hs => ?_⟩
    · exact hx.trans (by rw [if_pos hr]; rfl)
    · exact hx.trans (by rw [hr, if_neg Bool.false_ne_true, if_pos hs]; rfl)
    · exact hx.trans (by rw [hr, if_neg Bool.false_ne_true, if_neg hs]; rfl)
  case encoding =>
    refine illegal_encoding hr (fun ⟨hlo, hhi, hu⟩ => ?_) he
    rcases hs with h | h | h
    · omega
    · omega
    · simp [hu] at h
  case strict =>
    rcases illegal_cases hti with rfl | rfl | rfl | ⟨c, ls, hstrict, rfl⟩
    · simp [Issue.pfxTrap]
    · simp [Issue.ti]
    · simp [Issue.ti]
    · obtain ⟨rfl | rfl, hrun⟩ := strictBad_cases hstrict
      · simp [Issue.ti, hrun]
      · simp [Issue.ti, hrun]

end Sys2Proof.Machine
end

section
/-! Group reads (R202 to R205, R228, R303): masks and ballots as pairs, shuffles, and reductions over the fixed tree. -/

namespace Sys2Proof.Machine

/-! ## Ballots and shuffles -/

/-- A ballot has the bits of the threads for which the predicate holds (R203). -/
theorem tmask_filter (ts : List Nat) (p : Nat → Bool) :
    tmask (ts.filter p) = BitVec.ofFnLE fun j : Fin 64 => ts.contains j.val && p j.val :=
  eq_ofFnLE (f := fun j => ts.contains j && p j) fun j hj => by
    rw [getLsbD_tmask _ j hj, Bool.eq_iff_iff]
    simp

/-- The thread whose word a shuffle gives thread t, of the source that its operand names (R204). -/
def shflFrom (u : Issue) (t : Nat) (src : Int) : Nat :=
  if 0 ≤ src ∧ src < u.grp.width ∧ u.act.contains src.toNat then src.toNat else t

theorem shflFrom_natCast (u : Issue) (t n : Nat) : shflFrom u t n = if n < u.grp.width ∧ n ∈ u.act then n else t := by
  simp [shflFrom]

theorem shflFrom_neg (u : Issue) (t : Nat) {src : Int} (h : src < 0) : shflFrom u t src = t :=
  if_neg fun hs => absurd hs.1 (by omega)

/-- The word that a shuffle from a thread's number gives: the thread's own where that thread is not active. -/
theorem rd_shflFrom (u : Issue) (s : State) (t n a : Nat) :
    u.rd s (shflFrom u t n) a = if n < u.grp.width ∧ n ∈ u.act then u.rd s n a else u.rd s t a := by
  rw [shflFrom_natCast, apply_ite (u.rd s · a)]

/-- A source below thread 0 is no thread. -/
theorem rd_shflFrom_sub (u : Issue) (s : State) (t n a : Nat) :
    u.rd s (shflFrom u t ((t : Int) - n)) a =
      if n ≤ t then if t - n < u.grp.width ∧ t - n ∈ u.act then u.rd s (t - n) a else u.rd s t a else u.rd s t a := by
  split
  · next h => rw [← Int.ofNat_sub h, rd_shflFrom]
  · next h => rw [shflFrom_neg u t (by omega)]

/-! ## The fixed tree (R205) -/

/-- Two values of a level combined, an absent one giving the other. -/
def combine (f : Word → Word → Word) : Option Word → Option Word → Option Word
  | some a, some b => some (f a b)
  | some a, none => some a
  | none, b => b

section
variable (f : Word → Word → Word)

theorem combine_none_right (x : Option Word) : combine f x none = x := by cases x <;> rfl

theorem treeOf_succ (n : Nat) (x : Nat → Option Word) (k : Nat) :
    treeOf f (n + 1) x k = combine f (treeOf f n x (2 * k)) (treeOf f n x (2 * k + 1)) := rfl

theorem gredLevel_cons_cons (x y : Option Word) (l : List (Option Word)) :
    gredLevel f (x :: y :: l) = combine f x y :: gredLevel f l := rfl

/-- The tree over leaves is the tree, one level lower, over their first level. -/
theorem treeOf_level (n : Nat) (x : Nat → Option Word) (k : Nat) :
    treeOf f (n + 1) x k = treeOf f n (fun j => combine f (x (2 * j)) (x (2 * j + 1))) k := by
  induction n generalizing k with
  | zero => rfl
  | succ n ih => rw [treeOf_succ, ih, ih, treeOf_succ]

/-- A tree without leaves but for the first is that leaf. -/
theorem treeOf_single (n : Nat) (x : Nat → Option Word) (h : ∀ k, 1 ≤ k → x k = none) : treeOf f n x 0 = x 0 := by
  induction n generalizing x with
  | zero => rfl
  | succ n ih =>
    rw [treeOf_level, ih _ fun k hk => by rw [h _ (by omega), h _ (by omega)]; rfl, h 1 (by omega), combine_none_right]

theorem getD_gredLevel : ∀ (l : List (Option Word)) (k : Nat),
    (gredLevel f l).getD k none = combine f (l.getD (2 * k) none) (l.getD (2 * k + 1) none)
  | [], _ => rfl
  | [x], 0 => (combine_none_right f x).symm
  | [_], _ + 1 => rfl
  | _ :: _ :: _, 0 => rfl
  | _ :: _ :: l, k + 1 => getD_gredLevel l k

theorem length_gredLevel : ∀ l : List (Option Word), (gredLevel f l).length = (l.length + 1) / 2
  | [] => rfl
  | [_] => by simp [gredLevel]
  | _ :: _ :: l => by
    simp only [gredLevel_cons_cons, List.length_cons, length_gredLevel l]
    omega

/-- The levels taken one after the other give the root of the tree. -/
theorem gredTree_eq_treeOf (n : Nat) (l : List (Option Word)) (h : l.length ≤ 2 ^ n) :
    gredTree f n l = treeOf f n (fun k => l.getD k none) 0 := by
  induction n generalizing l with
  | zero => cases l <;> rfl
  | succ n ih =>
    unfold gredTree
    split
    · next hl =>
      rw [treeOf_single f _ _ fun k hk => List.getD_eq_default _ _ (by omega)]
      cases l <;> rfl
    · rw [ih _ (by rw [length_gredLevel]; omega), treeOf_level]
      simp only [getD_gredLevel]

end

/-! ## What a reduction combines with (Table 9-3) -/

/-- Where equal keys have equal values, a choice by less-than is one by at-most. -/
theorem ite_lt_eq_ite_le {α : Type} [LinearOrder α] {x y : α} {a b : Word} (h : x = y → a = b) :
    (if x < y then a else b) = if x ≤ y then a else b := by
  rcases lt_trichotomy x y with hl | he | hg
  · rw [if_pos hl, if_pos hl.le]
  · rw [h he, ite_self, ite_self]
  · rw [if_neg hg.asymm, if_neg hg.not_ge]

theorem minI_eq (a b : Word) : minI a b = if a.toInt ≤ b.toInt then a else b := by
  simp only [minI, BitVec.slt_iff_toInt_lt]
  exact ite_lt_eq_ite_le BitVec.eq_of_toInt_eq

theorem maxI_eq (a b : Word) : maxI a b = if a.toInt ≤ b.toInt then b else a := by
  simp only [maxI, BitVec.slt_iff_toInt_lt]
  exact ite_lt_eq_ite_le fun h => (BitVec.eq_of_toInt_eq h).symm

theorem minN_eq (a b : Word) : minN a b = if a.toNat ≤ b.toNat then a else b := by
  simp only [minN, BitVec.ult_iff_toNat_lt]
  exact ite_lt_eq_ite_le BitVec.eq_of_toNat_eq

theorem maxN_eq (a b : Word) : maxN a b = if a.toNat ≤ b.toNat then b else a := by
  simp only [maxN, BitVec.ult_iff_toNat_lt]
  exact ite_lt_eq_ite_le fun h => (BitVec.eq_of_toNat_eq h).symm

/-- The combination of a type: of unsigned words, of binary32 numbers, or of signed words. -/
def ofType (ty : BitVec 2) (i n g : Word → Word → Word) : Word → Word → Word :=
  match ty.toNat with
  | 1 => n
  | 2 => g
  | _ => i

theorem ofType_apply (ty : BitVec 2) (i n g : Word → Word → Word) (a b : Word) :
    ofType ty i n g a b = if ty = 2 then g a b else if ty = 1 then n a b else i a b := by
  have h : ty = 0 ∨ ty = 1 ∨ ty = 2 ∨ ty = 3 := by
    revert ty; decide
  rcases h with rfl | rfl | rfl | rfl <;> rfl

/-- A reduction gives every active lane the root of the tree over the words of the active threads. -/
theorem gred_results {i : Instr} {o : GRF} {f : BitVec 2 → Word → Word → Word} {u : Issue} {s : State} (hw : u.grp.width ≤ 64)
    (h : Issues i u s) (hx : exec i s = execUnit i (gred o f) s) (hc : i.closing = false) (hm : i.matrix = false) :
    ∃ t, exec i s = .next t ∧ LaneResults i u u.act (fun _ => [(o.d.toNat, (treeOf (f o.ty) 7 (fun t =>
      if t < u.grp.width ∧ t ∈ u.act then some (u.rd s t o.a.toNat) else none) 0).getD 0)]) s t := by
  rw [hx]
  refine lanes_of u.act _ h hc hm ?_
  have hleaf : (fun k => ((List.range u.grp.width).map fun t => if u.act.contains t then some (u.rd s t o.a.toNat) else none).getD
      k none) = fun t => if t < u.grp.width ∧ t ∈ u.act then some (u.rd s t o.a.toNat) else none := by
    funext t
    by_cases ht : t < u.grp.width <;> simp [ht]
  rw [← hleaf, ← gredTree_eq_treeOf _ _ _ (by simpa using by omega)]
  simp only [gred, rd_advance]
  rfl

/-- An operation on binary32 numbers, rounded once. -/
def onF32 (f : FVal → FVal → FVal) (a b : Word) : Word := round32 .rn false (f (f32 a) (f32 b))

theorem gredAddOf_eq (ty : BitVec 2) : gredAddOf ty = ofType ty (· + ·) (· + ·) (onF32 (addF .rn)) := by
  funext a b
  rw [ofType_apply, ite_self]
  rfl

theorem gredMinOf_eq (ty : BitVec 2) : gredMinOf ty = ofType ty (fun a b => if a.toInt ≤ b.toInt then a else b)
    (fun a b => if a.toNat ≤ b.toNat then a else b) (onF32 minF) := by
  funext a b
  rw [ofType_apply, ← minI_eq, ← minN_eq]
  rfl

theorem gredMaxOf_eq (ty : BitVec 2) : gredMaxOf ty = ofType ty (fun a b => if a.toInt ≤ b.toInt then b else a)
    (fun a b => if a.toNat ≤ b.toNat then b else a) (onF32 maxF) := by
  funext a b
  rw [ofType_apply, ← maxI_eq, ← maxN_eq]
  rfl

/-! ## Statements -/

/-- Settles O11: a ballot is `tmask_filter`, a shuffle reads the word of `shflFrom`, and the others read what passing a unit leaves
as it is. -/
theorem groupReadResults : Obligations.groupReadResults := by
  unfold Obligations.groupReadResults
  refine ⟨fun o => ?mskr, fun o => ?ballot, fun o => ?shfl, fun o => ?rgncnt, fun o => ?btxStat⟩
  case mskr => exact computes_of _ (fun s => exec_mskr o s) rfl rfl fun _ _ _ => rfl
  case ballot =>
    refine computes_of _ (fun s => exec_voteBallot o s) rfl rfl fun u s _ => ?_
    simp only [tmask_filter]
    rfl
  case shfl =>
    refine computes_of _ (fun s => exec_shfl o s) rfl rfl fun u s _ =>
      congrArg (fun w => Res.ok (writeLanes u _ w)) (funext fun t => congrArg (fun x => [(o.d.toNat, x)]) ?_)
    simp only [rd_advance]
    show u.rd s (shflFrom u t _) o.a.toNat = _
    unfold shflSource
    generalize o.mode.toNat = m
    match m with
    | 0 => exact rd_shflFrom ..
    | 1 => exact rd_shflFrom_sub ..
    | 2 => exact rd_shflFrom u s t (t + _) _
    | _ + 3 => exact rd_shflFrom ..
  case rgncnt => exact computes_of _ (fun s => exec_rgncnt o s) rfl rfl fun _ _ _ => rfl
  case btxStat =>
    refine computes_of _ (fun s => exec_btxStat o s) rfl rfl fun u s h => ?_
    rw [advance_only h, List.countP_eq_length_filter]

/-- Settles O12: `gred_results` gives the root of the tree, and each form combines as its type has it. -/
theorem groupReductionResults : Obligations.groupReductionResults := by
  unfold Obligations.groupReductionResults
  intro o
  refine ⟨fun u s hw h => ?add, fun u s hw h => ?min, fun u s hw h => ?max⟩
  case add =>
    have hr := gred_results hw h (exec_gredAdd o s) rfl rfl
    rw [gredAddOf_eq] at hr
    exact hr
  case min =>
    have hr := gred_results hw h (exec_gredMin o s) rfl rfl
    rw [gredMinOf_eq] at hr
    exact hr
  case max =>
    have hr := gred_results hw h (exec_gredMax o s) rfl rfl
    rw [gredMaxOf_eq] at hr
    exact hr

end Sys2Proof.Machine
end

section
/-! Atomics (R215 to R217): the values that they write, and the requests that they make once their region has committed. -/

namespace Sys2Proof.Machine

/-! ## Values (Table 9-9) -/

theorem pairLo_eq_setWidth (x : DWord) : pairLo x = x.setWidth 32 := (BitVec.setWidth_eq_extractLsb' (by omega)).symm

/-- A compare and swap writes where the old value equals the comparand (R217). -/
theorem rmwNew_cas (a b c : DWord) :
    rmwNew 16 4 a b c = (if a.setWidth 32 = b.setWidth 32 then some ((c.setWidth 32).setWidth 64) else none) ∧
    rmwNew 16 8 a b c = if a = b then some c else none := by
  constructor <;> simp only [rmwNew, pairLo_eq_setWidth] <;> simp

/-! ## Requests -/

/-- Results on their way, thread by thread. -/
theorem addPends_by {u : Issue} {s : State} {g : Group} (h : (s.groups.find? fun x => x.gid == u.gid) = some g)
    (r : Nat → List Nat × List (Option Word)) (mem eng : Bool) : ∃ g' gs,
      GroupBy u.gid s (addPends u s r mem eng) g g' id (allPending u s.nextId r mem eng) ∧
      addPends u s r mem eng = { s with groups := gs, nextId := s.nextId + u.act.length } := by
  obtain ⟨g', moved, only, rest, len, thr⟩ := addPends_spec u s r mem eng g h
  exact ⟨g', _, ⟨moved, rest, len, thr⟩, only⟩

/-- The entries of accesses that are cached after a unit's threads have passed it. -/
theorem cacheAccs_passed {i : Instr} {u : Issue} {s : State} (h : s.issue? = some u) (as : List (Nat × Acc)) : ∃ tl lp fr l,
    cacheAccs u (advance i u s) as = { advance i u s with tlb := tl, lastPages := lp, frames := fr } ∧
    fr = (s.walked l).frames := by
  obtain ⟨hc, l, hl⟩ := cacheAccs_spec u (advance i u s) as
  refine ⟨_, _, _, l, hc, hl.trans (walked_frames ?_ ?_ l)⟩ <;> rw [advance_only h]

/-- The requests of an atomic: one per lane, for the lane's result (R215). -/
def rmwReqs (u : Issue) (op size pid inst : Nat) (b c : Nat → DWord) (as : List (Nat × Acc)) : List Req :=
  as.map fun x => { mkReq u (.rmw op (b x.1) (c x.1)) x.1 x.2 0 size u.pfx.ord.1 u.pfx.ord.2 u.pfx.cp inst with
    pend := pid + u.act.idxOf x.1 }

/-- Requests of lanes, numbered and with tickets, ask for what they asked for. -/
theorem made_rmwReqs {u : Issue} {op size pid inst : Nat} {b c : Nat → DWord} {as : List (Nat × Acc)} {rs : List Req}
    (hp : rs.map Req.place = (rmwReqs u op size pid inst b c as).map Req.place)
    (hq : ∀ r ∈ rs, ∃ q ∈ rmwReqs u op size pid inst b c as, ∃ n k, r = { q with id := n, ticket := k }) :
    Made u u.pfx.cp (fun k => .rmw op (b k) (c k)) (as.map fun x => (x.1, x.2.va, size)) rs ∧
    ∀ r ∈ rs, r.pend = pid + u.act.idxOf r.tid := by
  have of {r : Req} (hr : r ∈ rs) : ∃ x ∈ as, ∃ n k, r = { mkReq u (.rmw op (b x.1) (c x.1)) x.1 x.2 0 size u.pfx.ord.1 u.pfx.ord.2
      u.pfx.cp inst with pend := pid + u.act.idxOf x.1, id := n, ticket := k } := by
    obtain ⟨q, hq, n, k, rfl⟩ := hq r hr
    obtain ⟨x, hx, rfl⟩ := List.mem_map.1 hq
    exact ⟨x, hx, n, k, rfl⟩
  refine ⟨⟨hp.trans ?_, fun r hr => ?_⟩, fun r hr => ?_⟩
  · simp [rmwReqs, Req.place, mkReq]
  · obtain ⟨x, -, n, k, rfl⟩ := of hr
    exact ⟨rfl, rfl, rfl, rfl, rfl, rfl, rfl⟩
  · obtain ⟨x, -, n, k, rfl⟩ := of hr
    rfl

/-- From s to t an atomic commits its region, and makes requests at the places of its lanes, whose old values are on their way to
the registers from d on (R215). -/
def Swapped (i : Instr) (u : Issue) (s : State) (d size op : Nat) (b c : Nat → DWord) (as : List (Nat × Acc)) (t : State) : Prop :=
  ∃ n rs, t = { afterCommit i u s t (n + u.act.length + rs.length) with
      tlb := t.tlb, lastPages := t.lastPages, frames := t.frames } ∧ TablesRead s t ∧
    Commits i u s t n rs id (allPending u n (awaited d (sizeRegs size)) true) ∧
    Made u u.pfx.cp (fun k => .rmw op (b k) (c k)) (as.map fun x => (x.1, x.2.va, size)) rs ∧
    ∀ r ∈ rs, r.pend = n + u.act.idxOf r.tid

/-- An atomic whose lanes pass their checks commits its region, and makes its requests then (R215). -/
theorem atomic_ends {i : Instr} {u : Issue} {s : State} {eff : Issue → State → Res} {d ap size op : Nat} {b c : Nat → DWord}
    {as : List (Nat × Acc)} (h : Issues i u s) (hx : exec i s = execUnit i eff s)
    (he : eff u (advance i u s) = atomic d ap size op b c u (advance i u s))
    (hl : checkLanes u true u.act (fun k => accGlobal u (advance i u s) (u.rd64 s k (2 * ap)) size .rmw) = .ok as) :
    Ends i u s (Swapped i u s d size op b c as) := by
  obtain ⟨tl, lp, fr, l, hc, hfr⟩ := cacheAccs_passed (i := i) h.1 as
  obtain ⟨n, g', held, gs, k, ec, commit, fromHeld⟩ := closeRegion_by h.1 hc
  obtain ⟨g'', gs', pend, ep⟩ := addPends_by commit.moved.new (awaited d (sizeRegs size)) true false
  have hn : (closeRegion u (cacheAccs u (advance i u s) as)).nextId = n := by rw [ec]
  rw [hn] at pend ep
  let s1 : State := addPends u (closeRegion u (cacheAccs u (advance i u s) as)) (awaited d (sizeRegs size)) true
  obtain ⟨rs, er, places, -, each⟩ := addReqs_spec s1 (rmwReqs u op size n s1.nextId b c as)
  have hlen : (rmwReqs u op size n s1.nextId b c as).length = rs.length := by simpa using (congrArg List.length places).symm
  obtain ⟨made, results⟩ := made_rmwReqs places each
  have heff : eff u (advance i u s) = .ok (addReqs s1 (rmwReqs u op size n s1.nextId b c as)) := by
    simp only [he, atomic, rd64_advance, hl, hn, List.map_const', List.length_range]
    rfl
  have hs1 : s1 = { s with groups := gs', reqs := s.reqs ++ held, nextId := n + u.act.length, ticket := k, tlb := tl, lastPages := lp,
                           frames := fr, ctxs := (s.leave u.grp.cxid (freedWords i u)).ctxs } := by
    simp only [s1, ep, ec]
  generalize addReqs s1 _ = t at er heff
  rw [hlen] at er
  refine ends_of h hx heff ⟨n, rs, ?_, ⟨l, ?_⟩, ⟨?_, held, fromHeld, ?_⟩, made, results⟩
  · rw [er, hs1]
    rfl
  · rw [er, hs1, ← hfr]
  · refine ((commit.trans pend fun _ _ _ => rfl).same ?_ ?_).acts fun _ _ => rfl
    · rw [er]
    · rw [er]
  · rw [er, hs1]

/-- What an atomic is to do: read and write `size` bytes at each lane's address by an operation, with the old value on its way. -/
def Swaps (i : Instr) (d ap size op : Nat) (b c : Issue → State → Nat → DWord) : Prop := ∀ u s, Issues i u s →
  (∀ as, checkLanes u true u.act (fun k => accGlobal u (advance i u s) (u.rd64 s k (2 * ap)) size .rmw) = .ok as →
    Ends i u s (Swapped i u s d size op (b u s) (c u s) as)) ∧
  ∀ ti, checkLanes u true u.act (fun k => accGlobal u (advance i u s) (u.rd64 s k (2 * ap)) size .rmw) = .error ti →
    exec i s = .next (raise s u.grp ti)

theorem swaps_of {i : Instr} {eff : Issue → State → Res} {d ap size op : Nat} {b c : Issue → State → Nat → DWord}
    (hx : ∀ s, exec i s = execUnit i eff s)
    (he : ∀ u s, eff u (advance i u s) = atomic d ap size op (b u s) (c u s) u (advance i u s)) : Swaps i d ap size op b c := by
  intro u s h
  refine ⟨fun as hl => atomic_ends h (hx s) (he u s) hl, fun ti ht => ?_⟩
  rw [hx]
  exact execUnit_trap h (by simp only [he, atomic, rd64_advance, ht])

/-! ## Operands of the forms (R216, R217) -/

@[simp] theorem operand_advance (i : Instr) (u : Issue) (s : State) (t r size : Nat) :
    operand u (advance i u s) t r size = operand u s t r size := by
  simp only [operand, rd_advance, rd64_advance]

theorem swaps_typed {i : Instr} {base : Nat} {o : ATF} (hx : ∀ s, exec i s = execUnit i (atomTyped base o) s) :
    Swaps i o.d.toNat o.ap.toNat (if o.t = 3 then 8 else 4) (base + o.t.toNat)
      (fun u s t => operand u s t o.b.toNat (if o.t = 3 then 8 else 4)) fun _ _ _ => 0 :=
  swaps_of hx fun u s => by simp only [atomTyped, operand_advance]

theorem swaps_bits {i : Instr} {k : Nat} {o : ATB} (hx : ∀ s, exec i s = execUnit i (atomBits k o) s) :
    Swaps i o.d.toNat o.ap.toNat (if o.x = 1 then 8 else 4) (rmwBit + k)
      (fun u s t => operand u s t o.b.toNat (if o.x = 1 then 8 else 4)) fun _ _ _ => 0 :=
  swaps_of hx fun u s => by simp only [atomBits, operand_advance]

/-! ## Statement -/

/-- Settles O18: the values are those of `rmwNew` code by code, and `atomic_ends` says what an atomic does. -/
theorem atomicResults : Obligations.atomicResults := by
  unfold Obligations.atomicResults
  refine ⟨fun a b c => ⟨?values, rmwNew_cas a b c⟩, fun o => ?typed, fun o => ?bits, fun o => ?cas⟩
  case values =>
    simp only [← pairLo_eq_setWidth, ← BitVec.slt_iff_toInt_lt, ← BitVec.ult_iff_lt]
    rfl
  case typed =>
    exact ⟨swaps_typed fun s => exec_atomAdd o s, swaps_typed fun s => exec_atomMin o s, swaps_typed fun s => exec_atomMax o s⟩
  case bits =>
    exact ⟨swaps_bits fun s => exec_atomAnd o s, swaps_bits fun s => exec_atomOr o s, swaps_bits fun s => exec_atomXor o s,
      swaps_bits fun s => exec_atomXchg o s⟩
  case cas => exact swaps_of (fun s => exec_atomCas o s) fun u s => by simp only [operand_advance]; rfl

end Sys2Proof.Machine
end

section
/-! Barriers (R222, R223, R225): arrivals in the generation that is current, and the threads that park, go on or trap. -/

namespace Sys2Proof.Machine

/-! ## Commits, and changes that follow them -/

/-- Active threads that change once the unit's region has committed, and blocks and grids with it. -/
theorem closeRegion_updAct_with {i : Instr} {u : Issue} {s : State} (h : s.issue? = some u) (B : Nat → Block → Block)
    (hB : ∀ n b, (B n b).saved = b.saved) (X : Nat → Grid → Grid) (f : Nat → Thread → Thread) :
    let c := closeRegion u (advance i u s)
    let t := updAct u { c with blocks := c.blocks.map (B c.nextId), grids := c.grids.map (X c.nextId) } f
    ∃ n, t = { afterCommit i u s t n with blocks := s.blocks.map (B n), grids := s.grids.map (X n) } ∧
      Commits i u s t n [] id (onAct u f) := by
  intro c t
  obtain ⟨n, g', rs, gs, k, e, by_, held⟩ := closeRegion_by (i := i) (s0 := advance i u s) (tl := s.tlb) (lp := s.lastPages)
    (fr := s.frames) h (by rw [advance_only h])
  have ec : c = _ := e
  have moved : GroupBy u.gid s { c with blocks := c.blocks.map (B c.nextId), grids := c.grids.map (X c.nextId) } u.grp g'
      (reentered u) fun k th => recommit u n k (passed i u k th) :=
    ⟨by_.moved.blocks rfl _ (hB c.nextId) rfl, by_.rest, by_.size, by_.thr⟩
  obtain ⟨g2, act⟩ := updAct_by (u := u) moved.moved.new f
  have only : t = { c with blocks := c.blocks.map (B c.nextId), grids := c.grids.map (X c.nextId), groups := t.groups } :=
    updAct_only (u := u) moved.moved.new f
  refine ⟨n, ?_, (moved.trans act fun _ _ _ => rfl).acts fun _ _ => rfl, rs, held, ?_⟩
  · rw [only, ec]
    rfl
  · rw [only, ec, List.append_nil]

/-- What a commit makes of a unit's thread leaves its BARAs as they are. -/
theorem recommit_bara (i : Instr) (u : Issue) (n k : Nat) (th : Thread) : (recommit u n k (passed i u k th)).bara = th.bara := by
  have hp : (passed i u k th).bara = th.bara := by
    unfold passed
    split
    · split <;> rfl
    · rfl
  rw [← hp]
  unfold recommit
  split <;> rfl

/-- A commit's change of threads, told by what the committed threads become. -/
theorem Commits.congr {i : Instr} {u : Issue} {s t : State} {n : Nat} {more : List Req} {G : Group → Group}
    {f f' : Nat → Thread → Thread} (h : Commits i u s t n more G f)
    (hf : ∀ k, f k (recommit u n k (passed i u k (u.grp.thr k))) = f' k (recommit u n k (passed i u k (u.grp.thr k)))) :
    Commits i u s t n more G f' := by
  obtain ⟨⟨others, g', hg, rest, len, thr⟩, held⟩ := h
  exact ⟨⟨others, g', hg, rest, len, fun k hk => (thr k hk).trans (hf k)⟩, held⟩

/-! ## Barriers of blocks -/

/-- A barrier of the unit's block is as it was before the unit's threads passed it. -/
theorem bar_advance {i : Instr} {u : Issue} {s : State} (h : s.issue? = some u) (id : Nat) :
    u.bar (advance i u s) id = u.bar s id := by
  rw [advance_only h]
  rfl

/-- A block at whose barrier the unit's active threads have arrived, with the requests numbered below n (R105, R222). -/
def arrivedAt (u : Issue) (id : Nat) (idx : Option Nat) (n : Nat) (b : Block) : Block :=
  if b.bid = u.grp.bid then b.setBar { b.bar id with
    arrived := (b.bar id).arrived ++ u.act.map fun k => (u.gid, k, n), idx := idx.or (b.bar id).idx } else b

theorem arrive_eq (u : Issue) (s : State) (id : Nat) (idx : Option Nat) :
    arrive u s id idx = { s with blocks := s.blocks.map (arrivedAt u id idx s.nextId) } := by
  simp only [arrive, State.updBlk, Option.orElse_eq_or, beq_iff_eq]
  rfl

theorem arrivedAt_saved (u : Issue) (id : Nat) (idx : Option Nat) (n : Nat) (b : Block) : (arrivedAt u id idx n b).saved = b.saved := by
  unfold arrivedAt
  split <;> rfl

/-- The unit's region commits, its active threads arrive at a barrier of the block, and change. -/
theorem arrive_updAct {i : Instr} {u : Issue} {s : State} (h : s.issue? = some u) (id : Nat) (idx : Option Nat)
    (f : Nat → Thread → Thread) :
    let t := updAct u (arrive u (closeRegion u (advance i u s)) id idx) f
    ∃ n, t = { afterCommit i u s t n with blocks := s.blocks.map (arrivedAt u id idx n) } ∧
      Commits i u s t n [] (fun g => g) (onAct u f) := by
  have hc := closeRegion_updAct_with (i := i) h (arrivedAt u id idx) (arrivedAt_saved u id idx) (fun _ x => x) f
  simp only [List.map_id'] at hc
  rw [arrive_eq]
  exact hc

/-- The active threads that hold a BARA on a barrier, or those that hold none. -/
def holders (u : Issue) (id : Nat) (yes : Bool) : List Nat :=
  u.act.filter fun k => ((u.grp.thr k).bara.any fun e => e.1 == id) == yes

theorem heldBara_isSome (th : Thread) (id : Nat) : (heldBara th id).isSome = th.bara.any fun e => e.1 == id := by
  rw [heldBara, Option.isSome_map, List.isSome_find?]

theorem filter_heldBara (u : Issue) (id : Nat) : (u.act.filter fun t => (heldBara (u.grp.thr t) id).isSome) = holders u id true := by
  simp only [holders, heldBara_isSome, beq_true]

theorem filter_no_heldBara (u : Issue) (id : Nat) : (u.act.filter fun t => (heldBara (u.grp.thr t) id).isNone) = holders u id false := by
  simp only [holders, ← heldBara_isSome, beq_false, Option.not_isSome]

/-- BAR and BARA: a BARA held is a BARRIER_MISMATCH of its threads; else the threads arrive, and become `f` of themselves (R223). -/
theorem arrives_or_mismatches {i : Instr} {u : Issue} {s : State} {eff : Issue → State → Res} {id : Nat} {f : Nat → Thread → Thread}
    (h : Issues i u s) (hx : exec i s = execUnit i eff s)
    (he : eff u (advance i u s) = if !(holders u id true).isEmpty then .trap (u.ti .barrierMismatch (holders u id true))
      else .ok (wake (updAct u (arrive u (closeRegion u (advance i u s)) id none) f))) :
    (holders u id true = [] → EndsAwake i u s fun t => ∃ n,
      t = { afterCommit i u s t n with blocks := s.blocks.map (arrivedAt u id none n) } ∧
      Commits i u s t n [] (fun g => g) (onAct u f)) ∧
    (holders u id true ≠ [] → exec i s = .next (raise s u.grp (u.ti .barrierMismatch (holders u id true)))) := by
  refine ⟨fun hn => endsAwake_of h hx (by rw [he, hn]; rfl) (arrive_updAct h.1 id none f), fun hn => ?_⟩
  rw [hx]
  exact execUnit_trap h (by rw [he, if_pos (by simpa using hn)])

/-! ## BARW -/

/-- A thread after its BARW: its BARA is used up, and it waits for the generation that it arrived in where that is not over (R223). -/
def afterBarw (id : Nat) (k : BarSt) (n : Nat) (own : Option (Nat × Nat)) (th : Thread) : Thread :=
  let past := own.all fun e => decide (e.2 < k.gen)
  { th with
    bara := th.bara.filter fun e => e.1 != id
    park := if past then none else own.map fun e => .barw id e.2
    view := if past then th.view.add n k.seen.known else th.view }

/-- What becomes of an active thread at a BARW, by what it holds (R223). -/
def barwThread (u : Issue) (s : State) (id n k : Nat) (th : Thread) : Thread :=
  afterBarw id (u.bar s id) n ((u.grp.thr k).bara.find? fun e => e.1 == id) th

theorem barw_commits {o : BIF} {u : Issue} {s : State} (h : Issues (.barw o) u s) (hn : holders u o.id.toNat false = []) :
    Ends (.barw o) u s fun t => ∃ n, t = afterCommit (.barw o) u s t n ∧
      Commits (.barw o) u s t n [] (fun g => g) (onAct u (barwThread u s o.id.toNat n)) := by
  obtain ⟨n, only, commits⟩ := closeRegion_updAct (i := .barw o) h.1 fun n _ th =>
    afterBarw o.id.toNat (u.bar s o.id.toNat) n (th.bara.find? fun e => e.1 == o.id.toNat) th
  refine ends_of h (exec_barw o s) ?_ ⟨n, only, commits.congr fun k => ?_⟩
  · simp only [filter_no_heldBara, hn, List.isEmpty_nil, Bool.not_true, Bool.false_eq_true, if_false, bar_advance h.1]
    refine congrArg (fun f => Res.ok (updAct u _ f)) (funext fun _ => funext fun th => ?_)
    rcases hf : th.bara.find? fun e => e.1 == o.id.toNat with _ | e
    · simp [heldBara, afterBarw, hf, Thread.learn]
    · by_cases hp : e.2 < (u.bar s o.id.toNat).gen <;> simp [heldBara, afterBarw, hf, hp, Thread.learn]
  · simp only [onAct, barwThread, recommit_bara]

/-! ## The gang's barrier (R225) -/

/-- The cluster barrier of a block's gang in its grid. -/
def gangBar (b : Block) (x : Grid) : BarSt := (assoc b.gang x.cbars).getD { id := 0, gen := 0, arrived := [] }

/-- A grid at whose cluster barrier the unit's active threads have arrived. -/
def gangArrived (u : Issue) (b : Block) (n : Nat) (x : Grid) : Grid :=
  if x.gr = b.gr then
    { x with cbars := assocSet b.gang { gangBar b x with
      arrived := (gangBar b x).arrived ++ u.act.map fun k => (u.gid, k, n) } x.cbars } else x

theorem cbar_arrives {o : RCF} {u : Issue} {s : State} {b : Block} (h : Issues (.cbar o) u s) (hb : s.blk? u.grp.bid = some b) :
    EndsAwake (.cbar o) u s fun t => ∃ n,
      t = { afterCommit (.cbar o) u s t n with grids := s.grids.map (gangArrived u b n) } ∧
      Commits (.cbar o) u s t n [] (fun g => g) (parked u fun _ => .cbar (((s.grid? b.gr).map fun x => (gangBar b x).gen).getD 0)) := by
  have hc := closeRegion_updAct_with (i := .cbar o) h.1 (fun _ b => b) (fun _ _ => rfl) (gangArrived u b)
    fun _ th => { th with park := some (.cbar (((s.grid? b.gr).map fun x => (gangBar b x).gen).getD 0)) }
  simp only [List.map_id'] at hc
  refine endsAwake_of h (exec_cbar o s) ?_ hc
  have hb' : (advance (.cbar o) u s).blk? u.grp.bid = some b := by
    rw [advance_only h.1]
    exact hb
  have hg : (advance (.cbar o) u s).grid? b.gr = s.grid? b.gr := by
    rw [advance_only h.1]
    rfl
  simp only [hb', hg, State.updGrid, beq_iff_eq]
  rfl

/-! ## Statement -/

/-- Settles O23: BAR, BARA and BAR.PE are arrivals at a barrier of the block, BARW is `barw_commits` and CBAR `cbar_arrives`. -/
theorem barrierArrivals : Obligations.barrierArrivals := by
  unfold Obligations.barrierArrivals
  refine ⟨fun o u s h => ?bar, fun o u s h => ?bara, fun o u s h => ⟨barw_commits h, fun hn => ?barw⟩,
    fun o u s h => ⟨fun hi => ?barPe, fun j hj hne => ?index⟩, fun o u s b h hb => cbar_arrives h hb⟩
  case bar =>
    refine arrives_or_mismatches h (exec_bar o s) (f := fun _ th =>
      { th with park := some (.bar o.id.toNat (u.bar s o.id.toNat).gen) }) ?_
    simp only [filter_heldBara, bar_advance h.1]
    rfl
  case bara =>
    refine arrives_or_mismatches h (exec_bara o s) (f := fun _ th =>
      { th with bara := (o.id.toNat, (u.bar s o.id.toNat).gen) :: th.bara }) ?_
    simp only [filter_heldBara, bar_advance h.1]
  case barw =>
    have hn : holders u o.id.toNat false ≠ [] := hn
    refine (exec_barw o s).trans (execUnit_trap h (ti := u.ti .barrierMismatch (holders u o.id.toNat false)) ?_)
    simp [filter_no_heldBara, hn]
  case barPe =>
    refine endsAwake_of h (exec_barPe o s) ?_ (arrive_updAct h.1 16 (some o.idx.toNat) _)
    rw [bar_advance h.1]
    rcases hi with hi | hi <;> simp [hi, parkAct]
  case index =>
    refine (exec_barPe o s).trans (execUnit_trap h (ti := u.ti .barrierMismatch u.act) ?_)
    rw [bar_advance h.1]
    simp [hj, hne]

end Sys2Proof.Machine
end

section
/-! Prefetches and cache control (R212): what they do to the caches, line by line, and the write-backs that `wake` performs. -/

namespace Sys2Proof.Machine

/-! ## Changes of caches -/

theorem TablesRead.refl (s : State) : TablesRead s s := ⟨[], rfl⟩

theorem TablesRead.trans {s t r : State} (h : TablesRead s t) (k : TablesRead t r) (hb : t.bufs = s.bufs) : TablesRead s r := by
  obtain ⟨l, hl⟩ := h
  obtain ⟨m, hm⟩ := k
  refine ⟨l ++ m, hm.trans ?_⟩
  rw [walked_append]
  refine walked_frames ?_ hl m
  rw [walked_only]
  exact hb

/-- From s to t caches and write-backs alone change, and frames as table reads change them. -/
structure CachesMoved (s t : State) : Prop where
  only : t = { s with tlb := t.tlb, frames := t.frames, l1 := t.l1, l2 := t.l2, wbs := t.wbs }
  tables : TablesRead s t

theorem CachesMoved.refl (s : State) : CachesMoved s s := ⟨rfl, .refl s⟩

theorem CachesMoved.trans {s t r : State} (h : CachesMoved s t) (k : CachesMoved t r) : CachesMoved s r := by
  refine ⟨?_, h.tables.trans k.tables (by rw [h.only])⟩
  have h := h.only
  have k := k.only
  rw [k, h]

theorem CachesMoved.cacheEnt (s : State) (e : XEnt) : CachesMoved s (cacheEnt s e) :=
  ⟨by rw [(cacheEnt_fields s e).1], (cacheEnt_fields s e).2⟩

/-- From s to t a unit passes its threads, and changes nothing else but caches, write-backs, and frames as table reads do. -/
structure CacheUnit (i : Instr) (u : Issue) (s t : State) : Prop where
  only : t = { s with groups := t.groups, tlb := t.tlb, frames := t.frames, l1 := t.l1, l2 := t.l2, wbs := t.wbs }
  tables : TablesRead s t
  acts : Acts i u s t id fun _ th => th

theorem CachesMoved.unit {i : Instr} {u : Issue} {s t : State} (h : s.issue? = some u) (k : CachesMoved (advance i u s) t) :
    CacheUnit i u s t := by
  have only := k.only
  have ha : advance i u s = _ := advance_only h
  obtain ⟨l, hl⟩ := k.tables
  obtain ⟨g, by_⟩ := advance_by (i := i) h
  refine ⟨?_, ⟨l, hl.trans (walked_frames ?_ ?_ l)⟩, (by_.same ?_ ?_).acts fun _ _ => rfl⟩
  · rw [only, ha]
  · rw [ha]
  · rw [ha]
  · rw [only]
  · rw [only]

/-! ## Fills -/

theorem fillL1_only (s : State) (core b off owner : Nat) :
    fillL1 s core b off owner = { s with l1 := (fillL1 s core b off owner).l1 } := by
  unfold fillL1
  repeat' split
  all_goals rfl

theorem fillL2_only (s : State) (cx b off owner : Nat) : fillL2 s cx b off owner = { s with l2 := (fillL2 s cx b off owner).l2 } := by
  unfold fillL2
  split
  · dsimp only
    repeat' split
    all_goals rfl
  · rfl

/-! ## Line by line -/

/-- The device once something has been done with the line of each active lane. -/
def visitLines (i : Instr) (o : CCF) (f : State → Nat → Spot → State) (u : Issue) (s : State) : State :=
  u.act.foldl (fun s' t => match lineOf i o u s t with
    | some p => f (cacheEnt s' p.ent) t p
    | none => s') s

theorem eachLine_eq (i : Instr) (o : CCF) (f : State → Nat → Spot → State) (u : Issue) (s : State) :
    eachLine i o f u s = .ok (wake (visitLines i o f u s)) := rfl

/-- What every visit of a line keeps, all of them keep; and what a visit of a line brings about holds of it in the end. -/
theorem visitLines_spec {i : Instr} {o : CCF} {f : State → Nat → Spot → State} {u : Issue} {R : State → State → Prop}
    {Q : Nat → Spot → State → Prop} (refl : ∀ s, R s s) (trans : ∀ {s t r}, R s t → R t r → R s r)
    (visit : ∀ s k p, R s (f (cacheEnt s p.ent) k p)) (made : ∀ s k p, Q k p (f s k p))
    (kept : ∀ {k p s t}, R s t → Q k p s → Q k p t) (s : State) :
    R s (visitLines i o f u s) ∧ ∀ k ∈ u.act, ∀ p, lineOf i o u s k = some p → Q k p (visitLines i o f u s) := by
  unfold visitLines
  generalize lineOf i o u s = line
  induction u.act generalizing s with
  | nil => exact ⟨refl s, by simp⟩
  | cons j js ih =>
    rw [List.foldl_cons]
    cases hj : line j with
    | none =>
      obtain ⟨rest, reached⟩ := ih s
      refine ⟨rest, fun k hk p hp => ?_⟩
      rcases List.mem_cons.1 hk with rfl | hk
      · cases hj.symm.trans hp
      · exact reached k hk p hp
    | some p =>
      obtain ⟨rest, reached⟩ := ih (f (cacheEnt s p.ent) j p)
      refine ⟨trans (visit s j p) rest, fun k hk q hq => ?_⟩
      rcases List.mem_cons.1 hk with rfl | hk
      · cases hj.symm.trans hq
        exact kept rest (made _ k p)
      · exact reached k hk q hq

/-- A transitive relation of states that holds where groups, translations and frames alone change. -/
def CacheRel (K : State → State → Prop) : Prop :=
  (∀ s gs tl fr, K s { s with groups := gs, tlb := tl, frames := fr }) ∧ ∀ {s t r}, K s t → K t r → K s r

/-- An instruction that visits the lines of its active lanes changes caches alone, as `K` has it, and brings about `Q` of each line. -/
theorem eachLine_ends {i : Instr} {o : CCF} {f : Issue → State → Nat → Spot → State} {K : State → State → Prop}
    {Q : Issue → Nat → Spot → State → Prop} (hx : ∀ s, exec i s = execUnit i (fun u s => eachLine i o (f u) u s) s)
    (hK : CacheRel K) (visit : ∀ u s k p, CachesMoved s (f u s k p) ∧ K s (f u s k p))
    (made : ∀ u s k p, Q u k p (f u s k p)) (kept : ∀ {u k p s t}, CachesMoved s t → K s t → Q u k p s → Q u k p t)
    {u : Issue} {s : State} (h : Issues i u s) : EndsAwake i u s fun t =>
    CacheUnit i u s t ∧ K s t ∧ ∀ k ∈ u.act, ∀ p, lineOf i o u (advance i u s) k = some p → Q u k p t := by
  obtain ⟨along, trans⟩ := hK
  have entry (s : State) (e : XEnt) : K s (cacheEnt s e) := by
    rw [(cacheEnt_fields s e).1]
    exact along s s.groups _ _
  obtain ⟨⟨moved, changed⟩, reached⟩ := visitLines_spec (i := i) (o := o) (f := f u) (u := u)
    (R := fun s t => CachesMoved s t ∧ K s t) (Q := Q u) (fun s => ⟨.refl s, along s s.groups s.tlb s.frames⟩)
    (fun h k => ⟨h.1.trans k.1, trans h.2 k.2⟩)
    (fun s k p => ⟨(CachesMoved.cacheEnt s p.ent).trans (visit u _ k p).1, trans (entry s p.ent) (visit u _ k p).2⟩) (made u)
    (fun h => kept h.1 h.2) (advance i u s)
  refine endsAwake_of h (hx s) (eachLine_eq ..) ⟨moved.unit h.1, trans ?_ changed, reached⟩
  rw [advance_only h.1]
  exact along s _ s.tlb s.frames

/-! ## Write-backs -/

theorem barRelease_l2 (gs : List Group) (s : State) (seen : Rel) (q : Park → Bool) : (barRelease gs s seen q).l2 = s.l2 :=
  foldl_keeps (p := State.l2) (fun _ _ => State.updGrp_l2 ..) gs s

theorem barComplete_l2 (s : State) (bid : Nat) (k : BarSt) : (barComplete s bid k).l2 = s.l2 := by
  unfold barComplete
  extract_lets gs
  split
  · rfl
  · split
    · rfl
    · split
      · rfl
      · rw [barRelease_l2]
        rfl

theorem cbarComplete_l2 (s : State) (gr : Nat) (e : Nat × BarSt) : (cbarComplete s gr e).l2 = s.l2 := by
  unfold cbarComplete
  extract_lets gs seen s1
  split
  · rfl
  · rw [barRelease_l2]
    rfl

/-- Of what lets threads go on, write-backs alone change the lines of slices. -/
theorem wake_l2 (s : State) : (wake s).l2 = (writeBacks s).l2 := by
  rw [wake_eq, clusterBarriers, foldl_keeps (p := State.l2) fun s x => foldl_keeps (fun s e => cbarComplete_l2 ..) _ s, blockBarriers,
    foldl_keeps (p := State.l2) fun s b => foldl_keeps (fun s k => barComplete_l2 ..) _ s]
  rfl

/-- Whether none of the stores that a write-back covers is on its way (R212). -/
def WriteBack.due (s : State) (w : WriteBack) : Bool :=
  !s.reqs.any fun r => r.gid == w.gid && r.tid == w.tid && r.id < w.upto && r.kind == .store && r.blk.isNone &&
    !r.performed && r.b == w.b && r.off / 128 == w.line

/-- Whether a write-back is due and is that of a line. -/
def WriteBack.dueOf (s : State) (w : WriteBack) (l : L2Line) : Bool :=
  w.due s && w.b == l.b && w.line == l.line && w.tag == l.tag

theorem writeBacks_l2 (s : State) : (writeBacks s).l2 =
    (s.l2.filter fun l => !s.wbs.any fun w => w.inv && w.dueOf s l).map fun l =>
      if s.wbs.any fun w => w.dueOf s l then { l with dirty := false } else l := rfl

theorem WriteBack.due_of {s : State} {w : WriteBack} (h : ∀ r ∈ s.reqs, r.gid = w.gid → r.tid = w.tid → r.kind = .store →
    r.performed = false → r.blk = none → r.b = w.b → r.off / 128 ≠ w.line) : w.due s = true := by
  simp only [WriteBack.due, Bool.not_eq_true', List.any_eq_false, Bool.and_eq_true, beq_iff_eq, Option.isNone_iff_eq_none]
  rintro r hr ⟨⟨⟨⟨⟨⟨⟨hg, ht⟩, -⟩, hk⟩, hblk⟩, hp⟩, hb⟩, hl⟩
  exact h r hr hg ht hk hp hblk hb hl

/-- The line of a write-back that is due is clean, and gone where the write-back invalidates it. -/
theorem wake_writesBack {s : State} {w : WriteBack} (hw : w ∈ s.wbs) (hd : w.due s = true) {l : L2Line} (hl : l ∈ (wake s).l2)
    (hb : l.b = w.b) (hline : l.line = w.line) (htag : l.tag = w.tag) : l.dirty = false ∧ w.inv = false := by
  rw [wake_l2, writeBacks_l2] at hl
  obtain ⟨x, hx, rfl⟩ := List.mem_map.1 hl
  have stays : (s.wbs.any fun w => w.inv && w.dueOf s x) = false := by simpa using (List.mem_filter.1 hx).2
  by_cases hany : (s.wbs.any fun w => w.dueOf s x) = true
  · simp only [hany, if_true] at hb hline htag ⊢
    have hof : w.dueOf s x = true := by simp [WriteBack.dueOf, hd, hb, hline, htag]
    exact ⟨trivial, by simpa [hof] using List.any_eq_false.1 stays w hw⟩
  · rw [if_neg hany] at hb hline htag
    exact absurd (List.any_eq_true.2 ⟨w, hw, by simp [WriteBack.dueOf, hd, hb, hline, htag]⟩) hany

/-! ## The instructions -/

theorem CachesMoved.fillL1 (s : State) (core b off owner : Nat) : CachesMoved s (fillL1 s core b off owner) := by
  rw [fillL1_only]
  exact ⟨rfl, .refl s⟩

theorem CachesMoved.fillL2 (s : State) (cx b off owner : Nat) : CachesMoved s (fillL2 s cx b off owner) := by
  rw [fillL2_only]
  exact ⟨rfl, .refl s⟩

/-- Whether no copy of a line is left in the L1 that serves the unit's core. -/
def NoCopy (u : Issue) (_ : Nat) (p : Spot) (t : State) : Prop :=
  ∀ c ∈ t.l1, c.core = l1Of t u.core → c.b = p.b → c.line ≠ p.off / 128

/-- Whether the line of a thread of the unit is to be written back. -/
def ToWriteBack (inv : Bool) (u : Issue) (k : Nat) (p : Spot) (t : State) : Prop :=
  ∃ n, ({ gid := u.gid, tid := k, b := p.b, line := p.off / 128, tag := p.owner, upto := n, inv := inv } : WriteBack) ∈ t.wbs

/-- CCTL.inv1 leaves no copy of the lines of its active lanes. -/
theorem cctlInv1_ends {o : CCF} {u : Issue} {s : State} (h : Issues (.cctlInv1 o) u s) : EndsAwake (.cctlInv1 o) u s fun t =>
    CacheUnit (.cctlInv1 o) u s t ∧ (t.l2 = s.l2 ∧ t.wbs = s.wbs ∧ t.l1.Sublist s.l1) ∧
    ∀ k ∈ u.act, ∀ p, lineOf (.cctlInv1 o) o u (advance (.cctlInv1 o) u s) k = some p → NoCopy u k p t := by
  refine eachLine_ends (f := fun u s _ p => dropL1 s u.core p.b (p.off / 128))
    (K := fun s t => t.l2 = s.l2 ∧ t.wbs = s.wbs ∧ t.l1.Sublist s.l1) (Q := NoCopy) (fun s => exec_cctlInv1 o s)
    ⟨fun _ _ _ _ => ⟨rfl, rfl, .refl _⟩, fun h k => ⟨k.1.trans h.1, k.2.1.trans h.2.1, k.2.2.trans h.2.2⟩⟩
    (fun u s k p => ⟨⟨rfl, .refl s⟩, rfl, rfl, List.filter_sublist⟩) (fun u s k p c hc hcore hb hl => ?_)
    (fun moved kept hq c hc hcore => ?_) h
  · have := (List.mem_filter.1 hc).2
    have hcore : c.core = l1Of s u.core := hcore
    simp [hcore, hb, hl] at this
  · refine hq c (kept.2.2.subset hc) (hcore.trans ?_)
    rw [l1Of, l1Of, moved.only]

/-- CCTL.wb and CCTL.wbi put the lines of their active lanes on the device's list of write-backs. -/
theorem writeBack_ends {i : Instr} {o : CCF} {inv : Bool} {u : Issue} {s : State}
    (hx : ∀ s, exec i s = execUnit i (fun u s => eachLine i o (writeBack u inv) u s) s) (h : Issues i u s) : EndsAwake i u s fun t =>
    CacheUnit i u s t ∧ (t.l1 = s.l1 ∧ t.l2 = s.l2 ∧ s.wbs ⊆ t.wbs) ∧
    ∀ k ∈ u.act, ∀ p, lineOf i o u (advance i u s) k = some p → ToWriteBack inv u k p t :=
  eachLine_ends (f := fun u => writeBack u inv) (K := fun s t => t.l1 = s.l1 ∧ t.l2 = s.l2 ∧ s.wbs ⊆ t.wbs) (Q := ToWriteBack inv) hx
    ⟨fun _ _ _ _ => ⟨rfl, rfl, List.Subset.refl _⟩,
      fun h k => ⟨k.1.trans h.1, k.2.1.trans h.2.1, List.Subset.trans h.2.2 k.2.2⟩⟩
    (fun u s k p => ⟨⟨rfl, .refl s⟩, rfl, rfl, List.subset_append_left ..⟩) (fun u s k p => ⟨s.nextId, by simp [writeBack]⟩)
    (fun _ kept ⟨n, hn⟩ => ⟨n, kept.2.2 hn⟩) h

/-- Once no store of the thread to the line is on its way, the line to be written back is clean, and gone where it is invalidated. -/
theorem writtenBack {inv : Bool} {u : Issue} {k : Nat} {p : Spot} {t : State} (h : ToWriteBack inv u k p t)
    (quiet : ∀ r ∈ t.reqs, r.gid = u.gid → r.tid = k → r.kind = .store → r.performed = false → r.blk = none → r.b = p.b →
      r.off / 128 ≠ p.off / 128) :
    ∀ l ∈ (wake t).l2, l.b = p.b → l.line = p.off / 128 → l.tag = p.owner → l.dirty = false ∧ inv = false := by
  obtain ⟨n, hw⟩ := h
  exact fun l hl hb hline htag => wake_writesBack hw (WriteBack.due_of quiet) hl hb hline htag

/-- A line that a context's lookups cannot hit has not its tag, and no cached entry of it reaches it (R92, R364). -/
theorem not_hits {s : State} {cx : Nat} {c : L1Copy} (h : hits s cx c = false) :
    c.tag ≠ cx ∧ ∀ e ∈ s.tlb, e.cxid = cx → e.b = c.b → e.off / 65536 ≠ c.line / 512 := by
  simp only [hits, Bool.or_eq_false_iff, beq_eq_false_iff_ne] at h
  obtain ⟨⟨htag, htlb⟩, -⟩ := h
  refine ⟨htag, fun e he hc hb hl => ?_⟩
  simpa [hc, hb, hl] using List.any_eq_false.1 htlb e he

/-- What CCTL.inva leaves in the L1s: of the core's own, the lines that the context's lookups cannot hit. -/
def invaL1 (u : Issue) (s : State) : List L1Copy :=
  if u.act.isEmpty then s.l1 else s.l1.filter fun c => !(c.core == l1Of s u.core && hits s u.grp.cxid c)

theorem invaL1_spec (u : Issue) (s : State) : (invaL1 u s).Sublist s.l1 ∧
    (∀ c ∈ s.l1, c.core ≠ l1Of s u.core → c ∈ invaL1 u s) ∧
    (u.act ≠ [] → ∀ c ∈ invaL1 u s, c.core = l1Of s u.core → c.tag ≠ u.grp.cxid ∧
      ∀ e ∈ s.tlb, e.cxid = u.grp.cxid → e.b = c.b → e.off / 65536 ≠ c.line / 512) := by
  unfold invaL1
  split
  · next he => exact ⟨.refl _, fun c hc _ => hc, fun hn => absurd (List.isEmpty_iff.1 he) hn⟩
  · refine ⟨List.filter_sublist, fun c hc hne => List.mem_filter.2 ⟨hc, by simp [hne]⟩, fun _ c hc hcore => not_hits ?_⟩
    simpa [hcore] using (List.mem_filter.1 hc).2

theorem cctlInva_ends {o : RCF} {u : Issue} {s : State} (h : Issues (.cctlInva o) u s) : Ends (.cctlInva o) u s fun t =>
    t = { s with groups := t.groups, l1 := t.l1 } ∧ Acts (.cctlInva o) u s t id (fun _ th => th) ∧
    t.l1.Sublist s.l1 ∧ (∀ c ∈ s.l1, c.core ≠ l1Of s u.core → c ∈ t.l1) ∧
    (u.act ≠ [] → ∀ c ∈ t.l1, c.core = l1Of s u.core → c.tag ≠ u.grp.cxid ∧
      ∀ e ∈ s.tlb, e.cxid = u.grp.cxid → e.b = c.b → e.off / 65536 ≠ c.line / 512) := by
  obtain ⟨g, by_⟩ := advance_by (i := .cctlInva o) h.1
  have spec := invaL1_spec u (advance (.cctlInva o) u s)
  generalize hl : invaL1 u (advance (.cctlInva o) u s) = l1 at spec
  have acts : Acts (.cctlInva o) u s { advance (.cctlInva o) u s with l1 := l1 } id fun _ th => th :=
    GroupBy.acts (by_.same (r := { advance (.cctlInva o) u s with l1 := l1 }) rfl rfl) fun _ _ => rfl
  refine ends_of h (exec_cctlInva o s) (s1 := { advance (.cctlInva o) u s with l1 := l1 }) ?_ ⟨?_, acts, ?_⟩
  · rw [← hl, invaL1]
    split <;> rfl
  · rw [advance_only h.1]
  · rw [advance_only h.1] at spec ⊢
    exact spec

/-! ## Statement -/

/-- Settles O26: each instruction visits the lines of its active lanes, and `wake` performs the write-backs that are due. -/
theorem cacheInstructions : Obligations.cacheInstructions := by
  unfold Obligations.cacheInstructions
  refine ⟨fun o => ⟨fun u s h => ?prfL1, fun u s h => ?prfL2, fun u s h => ?inv1, fun u s h => ?wb, fun u s h => ?wbi⟩,
    fun o u s h => cctlInva_ends h⟩
  case prfL1 =>
    obtain ⟨t, he, ⟨only, tables, acts⟩, wbs, -⟩ := eachLine_ends (K := fun s t => t.wbs = s.wbs) (Q := fun _ _ _ _ => True)
      (f := fun u s _ p => fillL1 (fillL2 s u.grp.cxid p.b p.off p.owner) u.core p.b p.off p.owner) (fun s => exec_prfL1 o s)
      ⟨fun _ _ _ _ => rfl, fun h k => k.trans h⟩
      (fun u s k p => ⟨(CachesMoved.fillL2 ..).trans (.fillL1 ..), by rw [fillL1_only, fillL2_only]⟩) (fun _ _ _ _ => trivial)
      (fun _ _ _ => trivial) h
    exact ⟨t, he, only, tables, acts, wbs⟩
  case prfL2 =>
    obtain ⟨t, he, ⟨only, tables, acts⟩, kept, -⟩ := eachLine_ends (K := fun s t => t.l1 = s.l1 ∧ t.wbs = s.wbs)
      (Q := fun _ _ _ _ => True) (f := fun u s _ p => fillL2 s u.grp.cxid p.b p.off p.owner) (fun s => exec_prfL2 o s)
      ⟨fun _ _ _ _ => ⟨rfl, rfl⟩, fun h k => ⟨k.1.trans h.1, k.2.trans h.2⟩⟩
      (fun u s k p => ⟨.fillL2 .., by rw [fillL2_only]; exact ⟨rfl, rfl⟩⟩) (fun _ _ _ _ => trivial) (fun _ _ _ => trivial) h
    exact ⟨t, he, only, tables, acts, kept⟩
  case inv1 =>
    obtain ⟨t, he, ⟨only, tables, acts⟩, ⟨l2, wbs, l1⟩, none_⟩ := cctlInv1_ends h
    refine ⟨t, he, only, tables, acts, fun k hk p hp => ⟨l2, wbs, l1, fun c hc hcore => none_ k hk p hp c hc (hcore.trans ?_)⟩⟩
    rw [l1Of, l1Of, only]
  case wb =>
    obtain ⟨t, he, ⟨only, tables, acts⟩, ⟨l1, l2, -⟩, listed⟩ := writeBack_ends (fun s => exec_cctlWb o s) h
    have hr : t.reqs = s.reqs := by rw [only]
    exact ⟨t, he, only, tables, acts, fun k hk p hp => ⟨l1, l2, fun quiet l hl hb hline htag =>
      (writtenBack (listed k hk p hp) (hr ▸ quiet) l hl hb hline htag).1⟩⟩
  case wbi =>
    obtain ⟨t, he, ⟨only, tables, acts⟩, ⟨l1, l2, -⟩, listed⟩ := writeBack_ends (fun s => exec_cctlWbi o s) h
    have hr : t.reqs = s.reqs := by rw [only]
    exact ⟨t, he, only, tables, acts, fun k hk p hp => ⟨l1, l2, fun quiet l hl hb hline htag =>
      absurd (writtenBack (listed k hk p hp) (hr ▸ quiet) l hl hb hline htag).2 (by decide)⟩⟩

end Sys2Proof.Machine
end

section
/-! The matrix sequencers and the power ramp (R236 to R246, R252, Table 10-1): how the operation at the head of a queue starts, sums
its k-groups and ends, what one k-group makes of a tile, and how an array's ramp moves. -/

namespace Sys2Proof.Machine

/-! ## The operation at the head of a queue (R236, R240, R244) -/

/-- The clk from which the next k-group of an operation may be written (R252). -/
def MxOp.due (s : State) (m : MxOp) : Nat :=
  m.at_ + stepClk m.pairing (((s.grp? m.gid).map Group.width).getD 16) (msCols m.ms)

section
variable {core part : Nat} {s : State} {m : MxOp}

theorem execSequencerStart_hot (hm : headMx s core part = some m) (hs : m.started = false) (hr : (s.ramp core part).st = .hot)
    (hw : areadWaits s m = false) :
    execSequencerStart core part s = .next (s.updMx m.id fun x => { x with started := true, at_ := s.clk }) := by
  simp [execSequencerStart, hm, hs, hr, hw]

theorem execMatrixStep_of_not_due (hm : headMx s core part = some m) (hd : s.clk < m.due s) (err : Bool) :
    execMatrixStep core part err s = .next s := by
  unfold MxOp.due at hd
  simp [execMatrixStep, hm, hd]

/-- A k-group that is due is summed, or ends in the error that was detected. -/
theorem execMatrixStep_of_due (hm : headMx s core part = some m) (hs : m.started = true) (hk : m.next < m.kg)
    (hd : m.due s ≤ s.clk) (err : Bool) : execMatrixStep core part err s =
      if err && m.next == 0 then .next (mxEarlyError (countErr s 10 true) m)
      else
        let t := if err then mxLateError (countErr s 10 true) m else s
        let r := (t.updBlk m.bid (mxStep (fun k j => unpredictable t m.cxid (Config.badStep t.free k j)) m)).updMx m.id fun x =>
          { x with next := x.next + 1, at_ := t.clk }
        .next { r with free := r.free + 1 } := by
  have hopen : (!m.started || decide (m.kg ≤ m.next) || decide (s.clk < m.due s)) = false := by
    simp [hs, hk, hd]
  unfold MxOp.due at hopen
  simp only [execMatrixStep, hm, hopen]
  rfl

/-- Before its first tile write an MLOOP is performed again from its captured operands (R240). -/
theorem mxEarlyError_mloop (hl : m.mma = false) (s : State) :
    mxEarlyError s m = s.updMx m.id fun x => { x with started := false } := by
  simp [mxEarlyError, hl]

theorem execMatrixOpComplete_of_summed (hm : headMx s core part = some m) (hs : m.started = true) (hk : m.kg ≤ m.next) :
    execMatrixOpComplete core part s = .next (wake (if m.mma = true then
      (dropMx s fun x => x.id == m.id).updGrp m.gid fun g => { g with
        threads := g.threads.map fun th => if th.park = some (.mma m.id) then th.release else th }
      else (dropMx s fun x => x.id == m.id).updGrp m.gid fun g => g.opDone m.id [])) := by
  simp [execMatrixOpComplete, hm, hs, hk]

end

/-! ## One k-group in a tile (R81, R235, R246) -/

section
variable {half t : Nat} {w : Nat × List Word → List Word} {l : List (Nat × List Word)}

/-- Rows that are not written keep their words. -/
theorem Block.tile_setRows_of_notMem {r : Nat} (hr : r ∉ l.map Prod.fst) (b : Block) (c : Nat) :
    (l.foldl (fun b e => b.setTile half t e.1 0 (w e)) b).tile half t r c = b.tile half t r c := by
  induction l generalizing b with
  | nil => rfl
  | cons e l ih =>
    rw [List.map_cons, List.mem_cons, not_or] at hr
    rw [List.foldl_cons, ih hr.2, Block.tile_setTile, if_neg fun h => hr.1 h.2.2.1]

/-- Each row that is written has its own words, where no row is written twice. -/
theorem Block.tile_setRows_of_mem (hn : (l.map Prod.fst).Nodup) {e : Nat × List Word} (he : e ∈ l) {c : Nat}
    (hc : c < (w e).length) (b : Block) :
    (l.foldl (fun b e => b.setTile half t e.1 0 (w e)) b).tile half t e.1 c = (w e).getD c 0 := by
  induction l generalizing b with
  | nil => cases he
  | cons d l ih =>
    rw [List.map_cons, List.nodup_cons] at hn
    rw [List.foldl_cons]
    rcases List.mem_cons.1 he with rfl | hl
    · rw [Block.tile_setRows_of_notMem hn.1, Block.tile_setTile, if_pos ⟨rfl, rfl, rfl, Nat.zero_le c, by omega⟩, Nat.sub_zero]
    · exact ih hn.2 hl _

end

section
variable (bad : Nat → Word) (b : Block) (m : MxOp) (g k : Nat) (a : List Word)

theorem length_mxRow : (mxRow bad b m g k a).length = msCols m.ms := by simp [mxRow]

/-- A word of a row whose tile has a mode that the pairing allows. -/
theorem mxRow_getD {j : Nat} (hj : j < msCols m.ms) (hp : pairMode m.pairing (b.mode m.half m.acc) = true) :
    (mxRow bad b m g k a).getD j 0 = stepWord (pairTypes m.pairing).1 (pairTypes m.pairing).2 (b.mode m.half m.acc)
      (b.tile m.half m.acc k j)
      ((List.range 16).map (fieldA ((a.drop (aPer m.pairing * g)).take (aPer m.pairing)) (pairTypes m.pairing).1.store))
      (((assoc k m.ea).getD []).getD g 0) ((List.range 16).map fun c => bElem b m g c j) (bExp b m g j) := by
  simp [mxRow, hj, hp]

end

/-- A thread's row is summed from the words that the tile had before the k-group. -/
theorem mxStep_tile (bad : Nat → Nat → Word) {m : MxOp} (b : Block) {k j : Nat} {a : List Word} (hn : (m.a.map Prod.fst).Nodup)
    (ha : (k, a) ∈ m.a) (hj : j < msCols m.ms) :
    (mxStep bad m b).tile m.half m.acc k j = (mxRow (bad k) b m m.next k a).getD j 0 :=
  Block.tile_setRows_of_mem (w := fun e => mxRow (bad e.1) b m m.next e.1 e.2) hn ha (by rwa [length_mxRow]) b

/-! ## The power ramp (Table 10-1) -/

section
variable {core part : Nat} {s : State}

theorem headMx_eq_none : headMx s core part = none ↔ ∀ m ∈ s.mxs, ¬(m.core = core ∧ m.part = part) := by
  simp [headMx]

theorem execRampupDone_of_due (hs : (s.ramp core part).st = .rampUp)
    (hd : (s.ramp core part).since + (s.ramp core part).upFor ≤ s.clk) :
    execRampupDone core part s = .next (s.setRamp { s.ramp core part with st := .hot, since := s.clk }) := by
  simp [execRampupDone, hs, hd]

theorem execRampdownStart_of_idle (hs : (s.ramp core part).st = .hot) (hi : headMx s core part = none)
    (hd : max (s.ramp core part).since (s.ramp core part).window + 240 ≤ s.clk) :
    execRampdownStart core part s = .next (s.setRamp { s.ramp core part with st := .rampDown, since := s.clk }) := by
  simp only [execRampdownStart, hs, hi, hd]
  rfl

theorem execRampdownDone_of_due (hs : (s.ramp core part).st = .rampDown) (hd : (s.ramp core part).since + 16 ≤ s.clk) :
    execRampdownDone core part s = .next (s.setRamp { s.ramp core part with st := .cold, since := s.clk }) := by
  simp [execRampdownDone, hs, hd]

end

/-! ## Statement -/

/-- Settles O48: the head of the queue starts, sums a k-group that is due and ends by the equation of its event, a word of the tile
is that of `mxRow`, and each move of the ramp has its own condition. -/
theorem matrixEvents_hold : Obligations.matrixEvents := by
  unfold Obligations.matrixEvents
  refine ⟨fun core part s m hm => ⟨fun hs hr hw => ?start, fun hd err => ?early, fun hs hk hd => ?sums,
      fun hs h0 hk hd hl => ?again, fun hs hk => ⟨fun hl => ?mloop, fun hl => ?mma⟩⟩,
    fun bad m b k j a hn ha hj hp => ?word, fun core part s => ⟨fun hs hd => ?up, fun hs hi hd => ?down, fun hs hd => ?cold⟩⟩
  case start => exact (exec_sequencerStart ..).trans (execSequencerStart_hot hm hs hr hw)
  case early => exact (exec_matrixStep ..).trans (execMatrixStep_of_not_due hm hd err)
  case sums => exact (exec_matrixStep ..).trans (execMatrixStep_of_due hm hs hk hd false)
  case again =>
    rw [exec_matrixStep, execMatrixStep_of_due hm hs (h0 ▸ hk) hd, h0, mxEarlyError_mloop hl]
    rfl
  case mloop => rw [exec_matrixOpComplete, execMatrixOpComplete_of_summed hm hs hk, if_neg (by simp [hl])]
  case mma => rw [exec_matrixOpComplete, execMatrixOpComplete_of_summed hm hs hk, if_pos hl]
  case word => exact (mxStep_tile bad b hn ha hj).trans (mxRow_getD (bad k) b m m.next k a hj hp)
  case up => exact (exec_rampupDone ..).trans (execRampupDone_of_due hs hd)
  case down => exact (exec_rampdownStart ..).trans (execRampdownStart_of_idle hs (headMx_eq_none.2 hi) hd)
  case cold => exact (exec_rampdownDone ..).trans (execRampdownDone_of_due hs hd)

end Sys2Proof.Machine
end

section
/-! Canonical form (notes/assumptions/4.md): memory and the scratchpads are lists of cells in rising order of address without a
cell that holds the fill value. Only a write, a scrub, an erase, a save and a placement touch them; each operation of the state
keeps the form, so each instruction and each event does, and so does a step. -/

namespace Sys2Proof.Machine

set_option Elab.async false

/-- The state that an effect leaves, if it leaves one, is in canonical form. -/
def Res.Canonical (r : Res) : Prop := ∀ s, r = .ok s → s.Canonical

/-- The next state of an outcome, if it has one, is in canonical form. -/
def NextCanonical (o : Host.Outcome State Fault Refusal) : Prop := ∀ s, o = .next s → s.Canonical

section
variable {s t : State}

protected theorem State.Canonical.same (hs : s.Canonical) (hm : t.mem = s.mem := by rfl) (hb : t.blocks = s.blocks := by rfl) :
    t.Canonical := by
  rw [State.Canonical, hm, hb]; exact hs

protected theorem State.Canonical.foldl {α : Type*} {f : State → α → State} (hs : s.Canonical)
    (hf : ∀ s a, s.Canonical → (f s a).Canonical) (l : List α) : (l.foldl f s).Canonical := by
  induction l generalizing s with
  | nil => exact hs
  | cons a l ih => exact ih (hf s a hs)

theorem Memory.wf_pads_map {bs : List Block} {f : Block → Block} (hs : ∀ b ∈ bs, Memory.wf b.pad) (hf : ∀ b, (f b).pad = b.pad) :
    ∀ b ∈ bs.map f, Memory.wf b.pad := fun b hb => by
  obtain ⟨c, hc, rfl⟩ := List.mem_map.1 hb
  rw [hf]; exact hs c hc

protected theorem State.Canonical.updBlk {n : Nat} {f : Block → Block} (hs : s.Canonical)
    (hf : ∀ b, (f b).pad = b.pad := by intro _; rfl) : (s.updBlk n f).Canonical :=
  ⟨hs.1, Memory.wf_pads_map hs.2 fun b => by split <;> simp [hf]⟩

protected theorem State.Canonical.updGrp {n : Nat} {f : Group → Group} (hs : s.Canonical) : (s.updGrp n f).Canonical := by
  unfold State.updGrp
  split
  · exact hs
  · exact ⟨hs.1, Memory.wf_pads_map hs.2 fun _ => rfl⟩

protected theorem State.Canonical.writeBuf {b o : Nat} {ys : List Byte} (hs : s.Canonical) : (s.writeBuf b o ys).Canonical :=
  ⟨s.writeBuf_wf b o ys hs.1, by rw [State.writeBuf_mem]; exact hs.2⟩

protected theorem State.Canonical.writeMem {b o : Nat} {ys : List Byte} {by_ : By} (hs : s.Canonical) :
    (s.writeMem b o ys by_).Canonical :=
  ⟨s.writeMem_wf b o ys by_ hs.1, by rw [State.writeMem_mem]; exact hs.2⟩

protected theorem State.Canonical.writePad {b o : Nat} {ys : List Byte} {by_ : By} (hs : s.Canonical) :
    (s.writePad b o ys by_).Canonical :=
  ⟨by unfold State.writePad; split <;> exact hs.1, s.writePad_wf b o ys by_ hs.2⟩

protected theorem State.Canonical.walked {l : List (Nat × Nat)} (hs : s.Canonical) : (s.walked l).Canonical := by
  rw [walked_only]; exact hs

protected theorem State.Canonical.ite {c : Prop} [Decidable c] (hs : s.Canonical) (ht : t.Canonical) :
    (if c then s else t).Canonical := by
  split
  · exact hs
  · exact ht

protected theorem State.Canonical.ok (hs : s.Canonical) : (Res.ok s).Canonical := fun _ e => by cases e; exact hs
protected theorem Res.Canonical.trap {ti : TrapInfo} : (Res.trap ti).Canonical := fun _ e => nomatch e
protected theorem Res.Canonical.retry {w : Wait} : (Res.retry w).Canonical := fun _ e => nomatch e
protected theorem Res.Canonical.ite {c : Prop} [Decidable c] {a b : Res} (ha : a.Canonical) (hb : b.Canonical) :
    (if c then a else b).Canonical := by
  split
  · exact ha
  · exact hb
protected theorem State.Canonical.next (hs : s.Canonical) : NextCanonical (.next s) := fun _ e => by cases e; exact hs
protected theorem NextCanonical.fault {f : Fault} : NextCanonical (.fault f) := fun _ e => nomatch e
protected theorem NextCanonical.refused {f : Refusal} : NextCanonical (.refused f) := fun _ e => nomatch e
end
/-! ## The state operations, each before the operations that use it -/

protected theorem State.Canonical.updCtx {s : State} {c : Nat} {f : Ctx → Ctx} (hs : s.Canonical) : (s.updCtx c f).Canonical := by
  unfold State.updCtx
  exact hs.same

protected theorem State.Canonical.leave {s : State} {cx : Nat} {ws : List Word} (hs : s.Canonical) : (s.leave cx ws).Canonical := by
  unfold State.leave
  exact hs.updCtx

protected theorem State.Canonical.setFrame {s : State} {x : Frame} (hs : s.Canonical) : (s.setFrame x).Canonical := by
  unfold State.setFrame
  exact hs.same

protected theorem State.Canonical.setKick {s : State} {k : KickQ} (hs : s.Canonical) : (s.setKick k).Canonical := by
  unfold State.setKick
  exact hs.same

protected theorem State.Canonical.setRamp {s : State} {r : Ramp} (hs : s.Canonical) : (s.setRamp r).Canonical := by
  unfold State.setRamp
  exact hs.same

protected theorem State.Canonical.updBt {s : State} {k : Nat} {f : BtOp → BtOp} (hs : s.Canonical) : (s.updBt k f).Canonical := by
  unfold State.updBt
  exact hs.same

protected theorem State.Canonical.setRec {s : State} {o : BtOp} {r : BtRec} (hs : s.Canonical) : (s.setRec o r).Canonical := by
  unfold State.setRec
  exact hs.updBt

protected theorem State.Canonical.setVf {s : State} {v : Vf} (hs : s.Canonical) : (s.setVf v).Canonical := by
  unfold State.setVf
  exact hs.same

protected theorem State.Canonical.updGrid {s : State} {g : Nat} {f : Grid → Grid} (hs : s.Canonical) : (s.updGrid g f).Canonical := by
  unfold State.updGrid
  exact hs.same

protected theorem State.Canonical.updMsg {s : State} {k : Nat} {f : Msg → Msg} (hs : s.Canonical) : (s.updMsg k f).Canonical := by
  unfold State.updMsg
  exact hs.same

protected theorem State.Canonical.updMx {s : State} {k : Nat} {f : MxOp → MxOp} (hs : s.Canonical) : (s.updMx k f).Canonical := by
  unfold State.updMx
  exact hs.same

protected theorem State.Canonical.updReq {s : State} {k : Nat} {f : Req → Req} (hs : s.Canonical) : (s.updReq k f).Canonical := by
  unfold State.updReq
  exact hs.same

protected theorem State.Canonical.updRu {s : State} {k : Nat} {f : RuReq → RuReq} (hs : s.Canonical) : (s.updRu k f).Canonical := by
  unfold State.updRu
  exact hs.same

protected theorem State.Canonical.updThr {s : State} {g t : Nat} {f : Thread → Thread} (hs : s.Canonical) : (s.updThr g t
    f).Canonical := by
  unfold State.updThr
  exact hs.updGrp

protected theorem State.Canonical.firstAccess {s : State} {b off : Nat} (hs : s.Canonical) : (firstAccess s b off).Canonical := by
  unfold Machine.firstAccess
  split
  · split
    · extract_lets
      split
      · exact hs.setFrame
      · exact hs
    · exact hs
  · exact hs

protected theorem State.Canonical.countErr {s : State} {k : Nat} {uncorrectable : Bool} (hs : s.Canonical) : (countErr s k
    uncorrectable).Canonical := by
  unfold Machine.countErr
  exact hs.same

protected theorem State.Canonical.writeAtoms {b o : Nat} {by_ : By} {yss : List (List Byte)} {s : State} (hs : s.Canonical) :
    (s.writeAtoms b o by_ yss).Canonical := by
  induction yss generalizing s o with
  | nil => exact hs
  | cons ys yss ih => exact ih hs.writeMem

protected theorem State.Canonical.dropMx {s : State} {p : MxOp → Bool} (hs : s.Canonical) : (dropMx s p).Canonical := by
  unfold Machine.dropMx
  exact hs.same

protected theorem State.Canonical.abandon {s : State} {gids : List Nat} (hs : s.Canonical) : (abandon s gids).Canonical := by
  unfold Machine.abandon
  exact hs.same

protected theorem State.Canonical.activate {s : State} {ch bank row t : Nat} (hs : s.Canonical) : (activate s ch bank row
    t).Canonical := by
  unfold Machine.activate
  extract_lets
  split
  exact hs.same

protected theorem State.Canonical.activateLines {s : State} {cx : Nat} {ls : List (Nat × Nat)} (hs : s.Canonical) :
    (activateLines s cx ls).Canonical := by
  unfold Machine.activateLines
  refine (hs).foldl (fun _ _ hs => ?_) _
  split
  · exact hs.activate
  · exact hs

protected theorem State.Canonical.addGroup {core part : Nat} {lane : Option Nat} {pick : Nat} {g : Group} {s t : State} (hs
    : s.Canonical)
    (ht : addGroup core part lane pick g s = some t) : t.Canonical := by
  unfold Machine.addGroup at ht
  split at ht
  · cases ht
  · obtain ⟨x, -, rfl⟩ := Option.map_eq_some_iff.1 ht
    exact hs

protected theorem State.Canonical.addGroups {gs : List (Group × Nat × Nat × Option Nat)} {pick : Nat} {s t : State} (hs : s.Canonical)
    (ht : addGroups gs pick s = some t) : t.Canonical := by
  induction gs generalizing s pick with
  | nil => cases ht; exact hs
  | cons g gs ih =>
    obtain ⟨t', h1, h2⟩ := Option.bind_eq_some_iff.1 ht
    exact ih (hs.addGroup h1) h2

protected theorem State.Canonical.updAct {u : Issue} {s : State} {f : Nat → Thread → Thread} (hs : s.Canonical) : (updAct u s
    f).Canonical := by
  unfold Machine.updAct
  exact hs.updGrp

protected theorem State.Canonical.addPends {u : Issue} {s : State} {f : Nat → List Nat × List (Option Word)} {mem eng : Bool}
    (hs : s.Canonical) : (addPends u s f mem eng).Canonical := by
  unfold Machine.addPends
  exact hs.updAct.same

protected theorem State.Canonical.addReqs {s : State} {rs : List Req} (hs : s.Canonical) : (addReqs s rs).Canonical := by
  unfold Machine.addReqs
  exact hs.same

protected theorem State.Canonical.advance {i : Instr} {u : Issue} {s : State} (hs : s.Canonical) : (advance i u s).Canonical := by
  unfold Machine.advance
  exact hs.updGrp

protected theorem State.Canonical.occupy {core part n : Nat} {s : State} (hs : s.Canonical) : (occupy core part n s).Canonical := by
  unfold Machine.occupy
  split
  · exact hs
  · exact hs.same

protected theorem State.Canonical.aldLearn {u : Issue} {o : ASF} {s : State} {x : Nat × Acc} (hs : s.Canonical) : (aldLearn u o
    s x).Canonical := by
  unfold Machine.aldLearn
  exact hs.updThr

protected theorem State.Canonical.setHandler {s : State} {cx h count : Nat} {code : DWord} (hs : s.Canonical) : (setHandler s cx
    h count code).Canonical := by
  unfold Machine.setHandler
  exact hs.updCtx

protected theorem State.Canonical.amhRelease {gid cx : Nat} {s : State} {t : Nat} (hs : s.Canonical) : (amhRelease gid cx s
    t).Canonical := by
  unfold Machine.amhRelease
  split
  · split
    · exact hs
    · exact hs.setHandler.updThr
  · exact hs

protected theorem State.Canonical.amhWake {s : State} (hs : s.Canonical) : (amhWake s).Canonical := by
  unfold Machine.amhWake
  exact hs.foldl (fun _ _ hs => (hs.foldl (fun _ _ hs => hs.amhRelease) _)) _

protected theorem State.Canonical.answerPort {s : State} {port : Option Nat} {code : Nat} {data : List Byte} (hs : s.Canonical)
    : (answerPort s port code data).Canonical := by
  unfold Machine.answerPort
  exact hs.same

protected theorem State.Canonical.appendPage {s : State} {p : Spot} {ys : List Byte} (hs : s.Canonical) : (appendPage s p
    ys).Canonical := by
  unfold Machine.appendPage
  split
  · exact hs
  · exact hs.writeBuf.same

protected theorem State.Canonical.arrive {u : Issue} {s : State} {id : Nat} {idx : Option Nat} (hs : s.Canonical) : (arrive u s
    id idx).Canonical := by
  unfold Machine.arrive
  exact hs.updBlk

protected theorem State.Canonical.arriveReq {s : State} {id : Nat} (hs : s.Canonical) : (arriveReq s id).Canonical := by
  unfold Machine.arriveReq
  exact hs.same.updReq

protected theorem State.Canonical.arriveWords {s : State} {gid tid pid : Nat} {ws : List Word} (hs : s.Canonical) : (arriveWords
    s gid tid pid ws).Canonical := by
  unfold Machine.arriveWords
  exact hs.updThr

protected theorem State.Canonical.reply440 {s : State} {w : Nat} {data : List Word} (hs : s.Canonical) : (reply440 s w
    data).Canonical := by
  unfold Machine.reply440
  exact hs.same

protected theorem State.Canonical.asRoot {s : State} {op : State → Ctx → CtxAns} (hs : s.Canonical) (ho : ∀ i, (op s i).st.Canonical) :
    NextCanonical (asRoot s op) := by
  unfold Machine.asRoot
  split
  · exact hs.next
  · split
    · exact hs.next
    · exact (ho _).reply440.next

protected theorem State.Canonical.askLeave {s : State} {bs : List Nat} {urgent : Bool} {deadline : Option Nat} (hs : s.Canonical) :
    (askLeave s bs urgent deadline).Canonical :=
  ⟨hs.1, Memory.wf_pads_map hs.2 fun b => by split <;> rfl⟩

protected theorem State.Canonical.dropL1 {s : State} {core b line : Nat} (hs : s.Canonical) : (dropL1 s core b line).Canonical := by
  unfold Machine.dropL1
  exact hs.same

protected theorem State.Canonical.atMemory {s : State} {x1 : Req} (hs : s.Canonical) : (atMemory s x1).Canonical := by
  unfold Machine.atMemory
  exact hs.firstAccess.same

protected theorem State.Canonical.commit {s : State} {gid : Nat} {ts : List Nat} {pc : Nat → DWord} (hs : s.Canonical) : (commit
    s gid ts pc).Canonical := by
  unfold Machine.commit
  split
  · exact hs
  · exact hs.same.leave.updGrp

protected theorem State.Canonical.closeRegion {u : Issue} {s : State} (hs : s.Canonical) : (closeRegion u s).Canonical := by
  unfold Machine.closeRegion
  exact hs.commit

protected theorem State.Canonical.setLastPage {s : State} {core lane cx : Nat} {va : DWord} (hs : s.Canonical) : (setLastPage s
    core lane cx va).Canonical := by
  unfold Machine.setLastPage
  exact hs.same

protected theorem State.Canonical.cacheEnt {s : State} {e : XEnt} (hs : s.Canonical) : (cacheEnt s e).Canonical := by
  unfold Machine.cacheEnt
  split
  · exact hs
  · exact hs.walked.same

protected theorem State.Canonical.cacheAccs {u : Issue} {s : State} {as : List (Nat × Acc)} (hs : s.Canonical) : (cacheAccs u s
    as).Canonical := by
  unfold Machine.cacheAccs
  refine (hs).foldl (fun _ _ hs => ?_) _
  split
  · exact hs.cacheEnt.setLastPage
  · exact hs

protected theorem State.Canonical.atomic {d ap size op : Nat} {b c : Nat → DWord} {u : Issue} {s : State} (hs : s.Canonical) :
    (atomic d ap size op b c u s).Canonical := by
  unfold Machine.atomic
  extract_lets
  split
  · exact .trap
  · extract_lets
    split
    exact hs.cacheAccs.closeRegion.addPends.addReqs.ok

protected theorem State.Canonical.atomBits {k : Nat} {o : ATB} {u : Issue} {s : State} (hs : s.Canonical) : (atomBits k o u
    s).Canonical := by
  unfold Machine.atomBits
  exact hs.atomic

protected theorem State.Canonical.atomTyped {base : Nat} {o : ATF} {u : Issue} {s : State} (hs : s.Canonical) : (atomTyped base
    o u s).Canonical := by
  unfold Machine.atomTyped
  exact hs.atomic

protected theorem State.Canonical.backToWaita {s : State} {gid tid : Nat} (hs : s.Canonical) : (backToWaita s gid tid).Canonical := by
  unfold Machine.backToWaita
  exact hs.updThr

protected theorem State.Canonical.endRun {s : State} {gid : Nat} (hs : s.Canonical) : (endRun s gid).Canonical := by
  unfold Machine.endRun
  exact hs.same

protected theorem State.Canonical.stopThreads {s : State} {gid : Nat} {ts : List Nat} (hs : s.Canonical) : (stopThreads s gid
    ts).Canonical := by
  unfold Machine.stopThreads
  exact hs.updGrp

protected theorem State.Canonical.unwaitSrc {s : State} {t : Trap} (hs : s.Canonical) : (unwaitSrc s t).Canonical := by
  unfold Machine.unwaitSrc
  split
  · exact hs.same
  · exact hs.updCtx
  · exact hs.updGrid
  · exact hs
  · exact hs
  · exact hs

protected theorem State.Canonical.markEnding {s : State} {gr code : Nat} (hs : s.Canonical) : (markEnding s gr code).Canonical := by
  unfold Machine.markEnding
  exact hs.updGrid

protected theorem State.Canonical.exitThrs {s : State} {gid : Nat} {ts : List Nat} (hs : s.Canonical) :
    (exitThrs s gid ts).Canonical := by
  refine State.Canonical.updGrp ?_
  split
  · exact hs.leave
  · exact hs

protected theorem State.Canonical.dropGroup {s : State} {g : Group} (hs : s.Canonical) : (dropGroup s g).Canonical := by
  unfold Machine.dropGroup
  exact hs.exitThrs.endRun.updGrp

protected theorem State.Canonical.unbind {s : State} {cx seq : Nat} (hs : s.Canonical) : (unbind s cx seq).Canonical := by
  unfold Machine.unbind
  exact hs.same

protected theorem State.Canonical.endTrapped {n : Nat} {s : State} {t : Trap} (hs : s.Canonical) : (endTrapped n s t).Canonical := by
  induction n generalizing s t with
  | zero => exact hs.markEnding.unwaitSrc
  | succ n ih =>
    have hm : (Machine.unwaitSrc (Machine.markEnding s t.gr t.cause.code) t).Canonical := hs.markEnding.unwaitSrc
    simp only [Machine.endTrapped]
    split
    · exact hm
    · split
      · exact hm
      · split
        · exact hm.dropGroup
        · split
          · exact ih hm.dropGroup.unbind
          · exact hm.dropGroup
        · exact hm

protected theorem State.Canonical.raise {s : State} {g : Group} {ti : TrapInfo} (hs : s.Canonical) : (raise s g ti).Canonical := by
  unfold Machine.raise
  extract_lets
  split
  · exact hs.walked.same.endRun.updGrp
  · split
    · exact hs.walked.same.endRun.stopThreads.endTrapped
    · exact hs.walked.same.endRun.stopThreads

protected theorem State.Canonical.pfxWord {twice : Pfx → Bool} {put : Pfx → Pfx} {s : State} (hs : s.Canonical) : NextCanonical
    (pfxWord twice put s) := by
  unfold Machine.pfxWord
  split
  · exact hs.next
  · split
    · exact hs.raise.next
    · exact hs.same.next

protected theorem State.Canonical.badPfxWord {w : Word} {s : State} (hs : s.Canonical) : NextCanonical (badPfxWord w s) := by
  unfold Machine.badPfxWord
  split
  · exact hs.pfxWord
  · split <;> exact hs.pfxWord

protected theorem State.Canonical.barRelease {gs : List Group} {s : State} {seen : Rel} {p : Park → Bool} (hs : s.Canonical) :
    (barRelease gs s seen p).Canonical := by
  unfold Machine.barRelease
  exact hs.foldl (fun _ _ hs => hs.updGrp) _

protected theorem State.Canonical.barComplete {s : State} {bid : Nat} {k : BarSt} (hs : s.Canonical) : (barComplete s bid
    k).Canonical := by
  unfold Machine.barComplete
  extract_lets
  split
  · exact hs
  · split
    · exact hs
    · split
      · exact hs.updBlk
      · exact hs.updBlk.barRelease

protected theorem State.Canonical.writeBacks {s : State} (hs : s.Canonical) : (writeBacks s).Canonical := by
  unfold Machine.writeBacks
  exact hs.same

protected theorem State.Canonical.beginStop {urgent : Bool} {deadline : Option Nat} {top : Nat} {s : State} {x : Ctx} (hs :
    s.Canonical) : (beginStop urgent deadline top s x).Canonical := by
  unfold Machine.beginStop
  exact hs.askLeave.updCtx

protected theorem State.Canonical.touch {s : State} {p : Spot} (hs : s.Canonical) : (touch s p).Canonical := by
  unfold Machine.touch
  exact hs.cacheEnt.firstAccess

protected theorem State.Canonical.readEntry {s t : State} {o : BtOp} {r q : BtRec} {j : Nat} (hs : s.Canonical)
    (ht : readEntry s o r j = .ok (t, q)) : t.Canonical := by
  unfold Machine.readEntry at ht
  split at ht
  · cases ht; exact hs
  · split at ht
    · cases ht
    · dsimp only at ht
      split at ht
      · cases ht
      · cases ht; exact hs.touch

protected theorem State.Canonical.readUnits {s t : State} {o : BtOp} {r q : BtRec} {as : List DWord} (hs : s.Canonical)
    (ht : readUnits s o r as = .ok (t, q)) : t.Canonical := by
  induction as generalizing s r with
  | nil => cases ht; exact hs
  | cons a as ih =>
    simp only [Machine.readUnits] at ht
    split at ht
    · exact ih hs ht
    · split at ht
      · cases ht
      · exact ih hs.touch ht

protected theorem State.Canonical.btBytes {s t : State} {o : BtOp} {r q : BtRec} {i n : Nat} {ys : List Byte} (hs : s.Canonical)
    (ht : btBytes s o r i n = .ok (t, q, ys)) : t.Canonical := by
  unfold Machine.btBytes at ht
  split at ht
  · cases ht
  · next h1 =>
    dsimp only at ht
    split at ht
    · cases ht
    · next h2 =>
      cases ht
      exact (hs.readEntry h1).readUnits h2

protected theorem State.Canonical.btFail {s : State} {k code : Nat} {f : DWord} {wr : Bool} (hs : s.Canonical) : (btFail s k
    code f wr).Canonical := by
  unfold Machine.btFail
  exact hs.updBt

protected theorem State.Canonical.raiseAsync {s : State} {cxid : Nat} {cause : Cause} {faddr : DWord} {eng : Bool} {g : Option
    Group} {src : TrapSrc} {detail : Nat} {walk wr : Bool} {gr : Nat} (hs : s.Canonical) : (raiseAsync s cxid cause faddr eng g
    src detail walk wr gr).Canonical := by
  unfold Machine.raiseAsync
  exact hs.same

protected theorem State.Canonical.btXFault {s : State} {o : BtOp} {f : XFault} {wr : Bool} (hs : s.Canonical) : (btXFault s o f
    wr).Canonical := by
  unfold Machine.btXFault
  extract_lets
  split
  · exact hs.walked.raiseAsync.updBt
  · exact hs.walked.btFail

protected theorem State.Canonical.btTake {s : State} {o : BtOp} {w sh : List Word} (hs : s.Canonical) : (btTake s o w
    sh).Canonical := by
  unfold Machine.btTake
  extract_lets
  split
  · exact hs.btFail
  · split
    · exact hs
    · exact hs.updBt

protected theorem State.Canonical.takeTokens {s : State} {cx k : Nat} (hs : s.Canonical) : (takeTokens s cx k).Canonical := by
  unfold Machine.takeTokens
  exact hs.same

protected theorem State.Canonical.btCheck {s t : State} {o : BtOp} {w : List Word} (hs : s.Canonical) (ht : btCheck s o w = some t) :
    t.Canonical := by
  unfold Machine.btCheck at ht
  split at ht
  · cases ht; exact hs.btFail
  · split at ht
    · split at ht
      · cases ht; exact hs.btFail
      · split at ht
        · cases ht
        · split at ht
          · cases ht; exact hs.btXFault
          · cases ht; exact hs.touch.takeTokens.btTake
    · cases ht; exact hs.btTake

protected theorem State.Canonical.btCxlFail {s : State} {o : BtOp} (hs : s.Canonical) : (btCxlFail s o).Canonical := by
  unfold Machine.btCxlFail
  split
  · exact hs
  · split
    · exact hs.btXFault
    · exact hs.same
    · exact hs

protected theorem State.Canonical.btLanded {s : State} {o : BtOp} {cs : List Nat} (hs : s.Canonical) : (btLanded s o
    cs).Canonical := by
  unfold Machine.btLanded
  exact hs.updBt

protected theorem State.Canonical.btPeerFail {s : State} {o : BtOp} (hs : s.Canonical) : (btPeerFail s o).Canonical := by
  unfold Machine.btPeerFail
  split
  · exact hs
  · split
    · exact hs.btXFault
    · exact hs

protected theorem State.Canonical.btPiece {s t : State} {o : BtOp} {r q : BtRec} {c : Nat} {e : Nat × Nat} (hs : s.Canonical)
    (ht : btPiece s o r c e = .ok (t, q)) : t.Canonical := by
  unfold Machine.btPiece at ht
  split at ht
  · cases ht
  · next h1 =>
    replace h1 := hs.btBytes h1
    split at ht
    · split at ht
      · cases ht
      · cases ht
        exact h1.foldl (fun _ _ hs => hs.touch.writeMem) _
    · cases ht
      exact h1.writePad

protected theorem State.Canonical.btPieces {s : State} {o : BtOp} {c : Nat} {r : BtRec} {es : List (Nat × Nat)} (hs : s.Canonical) :
    (btPieces s o c r es).1.Canonical := by
  induction es generalizing s r with
  | nil => exact hs
  | cons e es ih =>
    simp only [Machine.btPieces]
    split
    · exact ih hs
    · split
      · exact hs
      · next h1 => exact ih (hs.btPiece h1)

protected theorem State.Canonical.btUnchecked {s t : State} {o : BtOp} {r : BtRec} (hs : s.Canonical) (ht
    : btUnchecked s o r = some t) :
    t.Canonical := by
  unfold Machine.btUnchecked at ht
  split at ht
  · cases ht
  · split at ht
    · cases ht; exact hs.btFail
    · obtain ⟨f, -, rfl⟩ := Option.map_eq_some_iff.1 ht
      exact hs.btXFault

protected theorem State.Canonical.bufferStores {x0 : Issue} {s : State} {x2 : ℕ} {x3 : ℕ} {x4 : (ℕ → BitVec 128)} {x5 : Except
    TrapInfo (List (ℕ × Acc))} (hs : s.Canonical) : (bufferStores x0 s x2 x3 x4 x5).Canonical := by
  unfold Machine.bufferStores
  extract_lets
  split
  · exact .trap
  · split
    · exact .trap
    · split
      · exact .retry
      · split
        exact hs.cacheAccs.updGrp.same.ok

protected theorem State.Canonical.cbarComplete {s : State} {gr : Nat} {e : Nat × BarSt} (hs : s.Canonical) : (cbarComplete s gr
    e).Canonical := by
  unfold Machine.cbarComplete
  extract_lets
  split
  · exact hs
  · exact hs.updGrid.barRelease

protected theorem State.Canonical.chunkStart_error {s t : State} {o : BtOp} {r : BtRec} {c : Nat} (hs : s.Canonical)
    (ht : chunkStart s o r c = .error t) : t.Canonical := by
  unfold chunkStart at ht
  split at ht
  · next h1 => cases ht; exact hs.btUnchecked h1
  · split at ht
    · cases ht; exact hs.btXFault
    · next h1 =>
      have h1 := hs.readEntry h1
      dsimp only at ht
      split at ht
      · cases ht; exact hs
      · split at ht
        · cases ht; exact h1.takeTokens.setRec
        · cases ht
protected theorem State.Canonical.chunkStart_ok {s t : State} {o : BtOp} {r q : BtRec} {c : Nat} (hs : s.Canonical)
    (ht : chunkStart s o r c = .ok (t, q)) : t.Canonical := by
  unfold chunkStart at ht
  split at ht
  · cases ht
  · split at ht
    · cases ht
    · next h1 =>
      have h1 := hs.readEntry h1
      dsimp only at ht
      split at ht
      · cases ht
      · split at ht
        · cases ht
        · cases ht; exact h1.takeTokens.activateLines

protected theorem State.Canonical.clearAtom {s : State} {b off : Nat} (hs : s.Canonical) : (clearAtom s b off).Canonical := by
  unfold Machine.clearAtom
  split
  · exact hs.same
  · exact hs

protected theorem State.Canonical.coldState {s : State} {img : FwImage} (hs : s.Canonical) : (coldState s img).Canonical :=
  ⟨Memory.wf_filter _ _ hs.1, fun b hb => by cases hb⟩

protected theorem State.Canonical.command {s : State} {refused busy : Bool} {eff : State → State} (hs : s.Canonical) (he :
    (eff s).Canonical) :
    NextCanonical (command s refused busy eff) := by
  unfold Machine.command
  split
  · exact hs.next
  · split
    · exact hs.reply440.next
    · split
      · exact hs.reply440.next
      · exact he.reply440.next

protected theorem State.Canonical.copyTurn {op chunk piece : Nat} {s : State} (hs : s.Canonical) :
    (copyTurn op chunk piece s).Canonical := by
  unfold Machine.copyTurn
  split
  · exact hs
  · split
    · exact hs
    · split
      · exact hs
      · split
        · next h1 => exact hs.chunkStart_error h1
        · next s' r' h1 =>
          have h2 (o : BtOp) (es : List (Nat × Nat)) : (btPieces { s' with free := s'.free + 1 } o chunk r' es).1.Canonical :=
            (hs.chunkStart_ok h1).same.btPieces
          split
          · next e => exact (e ▸ h2 _ _).setRec.btXFault
          · next e => exact (e ▸ h2 _ _).setRec

protected theorem State.Canonical.countTile {u : Issue} {s : State} (hs : s.Canonical) : (countTile u s).Canonical := by
  unfold Machine.countTile
  exact hs.updAct

protected theorem State.Canonical.updBound {s : State} {g : Group} {f : TrapRec → TrapRec} (hs : s.Canonical) : (updBound s g
    f).Canonical := by
  unfold Machine.updBound
  split
  · exact hs
  · exact hs.same

protected theorem State.Canonical.csrWrite {s : State} {g : Group} {n : Nat} {x : Word} (hs : s.Canonical) : (csrWrite s g n
    x).Canonical := by
  unfold Machine.csrWrite
  extract_lets
  split
  · exact hs.updCtx
  · exact hs.updCtx
  · exact hs.updCtx
  · exact hs.updCtx
  · exact hs.updCtx
  · exact hs.updBound
  · exact hs.updBound
  · exact hs.updBound
  · exact hs

protected theorem State.Canonical.forget {s : State} {b o n : Nat} (hs : s.Canonical) : (forget s b o n).Canonical := by
  unfold Machine.forget
  exact hs.same

protected theorem State.Canonical.invalidateRange {s : State} {b o n : Nat} (hs : s.Canonical) : (invalidateRange s b o
    n).Canonical := by
  unfold Machine.invalidateRange
  exact hs.same.forget

protected theorem State.Canonical.dropEnts {s : State} {p : XEnt → Bool} (hs : s.Canonical) : (dropEnts s p).Canonical := by
  unfold Machine.dropEnts
  exact hs.same

protected theorem State.Canonical.dropFrameEnts {s : State} {b f : Nat} (hs : s.Canonical) : (dropFrameEnts s b f).Canonical := by
  unfold Machine.dropFrameEnts
  exact hs.dropEnts

protected theorem State.Canonical.giveFrame {owner : Nat} {s : State} {x : Frame} (hs : s.Canonical) : (giveFrame owner s
    x).Canonical := by
  unfold Machine.giveFrame
  exact hs.setFrame.dropFrameEnts.invalidateRange

protected theorem State.Canonical.walkRange {s : State} {es : List (Option XEnt)} (hs : s.Canonical) : (walkRange s
    es).Canonical := by
  unfold Machine.walkRange
  exact hs.walked

protected theorem State.Canonical.ctxGrant {s : State} {i : Ctx} {vb : Nat} {r : List Word} (hs : s.Canonical) :
    (ctxGrant s i vb r).st.Canonical := by
  unfold Machine.ctxGrant
  -- the kernel must not evaluate the check of the budgets
  obtain ⟨budget, hb⟩ : ∃ b, grantBudget = b := ⟨_, rfl⟩
  rw [hb]
  split
  · exact hs
  · split
    · exact hs
    · dsimp only
      split
      · exact hs
      · split
        · exact hs
        · split
          · exact hs
          · exact hs.walkRange.updCtx.foldl (fun _ _ hs => hs.giveFrame) _

protected theorem State.Canonical.dropWork {s : State} {p : Nat → Bool} (hs : s.Canonical) : (dropWork s p).Canonical :=
  ⟨hs.1, fun b hb => hs.2 b (List.mem_filter.1 hb).1⟩

protected theorem State.Canonical.discard {s : State} {gid : Nat} {ts : List Nat} {now : Bool} (hs : s.Canonical) : (discard s
    gid ts now).Canonical := by
  unfold Machine.discard
  split
  · exact hs
  · extract_lets
    split
    · exact hs
    · split
      · split
        · exact hs.endRun.updGrp
        · exact hs.endRun.updGrp.raise.stopThreads
      · exact hs.endRun.updGrp.updGrp

protected theorem State.Canonical.discardWhere {s : State} {p : BStore → Bool} (hs : s.Canonical) : (discardWhere s p).Canonical := by
  unfold Machine.discardWhere
  exact hs.foldl (fun _ _ hs => (State.Canonical.ite hs hs.discard)) _

protected theorem State.Canonical.freeFrame {next : Nat} {s : State} {x : Frame} (hs : s.Canonical) : (freeFrame next s
    x).Canonical := by
  unfold Machine.freeFrame
  exact hs.same.dropFrameEnts.discardWhere

protected theorem State.Canonical.freeFrames {s : State} {p : Nat → Bool} {next : Nat} (hs : s.Canonical) : (freeFrames s p
    next).Canonical := by
  unfold Machine.freeFrames
  exact (hs.same).foldl (fun _ _ hs => hs.freeFrame) _

protected theorem State.Canonical.wake {s : State} (hs : s.Canonical) : (wake s).Canonical := by
  unfold Machine.wake
  exact (((hs.same.writeBacks).foldl (fun _ _ hs => (hs.foldl (fun _ _ hs => hs.barComplete) _)) _)).foldl (fun _ _ hs =>
      (hs.foldl (fun _ _ hs => hs.cbarComplete) _)) _

protected theorem State.Canonical.dropWalks {s : State} {p : WalkEnt → Bool} (hs : s.Canonical) : (dropWalks s p).Canonical := by
  unfold Machine.dropWalks
  exact hs.same

protected theorem State.Canonical.killTree {s : State} {top next : Nat} (hs : s.Canonical) : (killTree s top next).Canonical := by
  unfold Machine.killTree
  exact hs.dropWork.freeFrames.same.dropEnts.dropWalks.wake

protected theorem State.Canonical.ctxKill {s : State} {i : Ctx} {vb : Nat} (hs : s.Canonical) : (ctxKill s i vb).st.Canonical := by
  unfold Machine.ctxKill
  split
  · exact hs
  · split
    · exact hs
    · exact hs.killTree

protected theorem State.Canonical.ctxNew {s : State} {i : Ctx} {r : List Word} (hs : s.Canonical) : (ctxNew s i r).st.Canonical := by
  unfold Machine.ctxNew
  extract_lets x
  split
  · exact hs
  · split
    · exact hs
    · split
      · exact hs
      · split
        · exact hs
        · extract_lets s'
          have hs' : s'.Canonical := hs.same
          split
          · split
            · exact hs
            · exact hs'.same
          · exact hs'

protected theorem State.Canonical.readTouch {u : Issue} {s : State} {p : Spot} {n : Nat} (hs : s.Canonical) : (readTouch u s p
    n).Canonical := by
  unfold Machine.readTouch
  exact ((hs.takeTokens.touch).foldl (fun _ _ hs => hs.dropL1) _).updThr

protected theorem State.Canonical.ctxRecord {u : Issue} {s : State} {ap : BitVec 6} {n : Nat} {k : List Word → State → Res}
    (hs : s.Canonical) (hk : ∀ w t, t.Canonical → (k w t).Canonical) : (ctxRecord u s ap n k).Canonical := by
  unfold Machine.ctxRecord
  extract_lets
  split
  · exact hs.closeRegion.ok
  · split
    · exact .trap
    · split
      · exact .trap
      · exact .retry
      · exact hk _ _ hs.readTouch

protected theorem State.Canonical.handlerGone {s : State} {g : Group} (hs : s.Canonical) : (handlerGone s g).Canonical := by
  unfold Machine.handlerGone
  split
  · split
    · exact hs.unbind.endTrapped
    · exact hs
  · exact hs

protected theorem State.Canonical.evictNsv {s : State} {c : Nat} {cores : BitVec 192} (hs : s.Canonical) : (evictNsv s c
    cores).Canonical := by
  unfold Machine.evictNsv
  extract_lets
  refine ((hs.foldl (fun _ _ hs => (State.Canonical.ite hs hs.markEnding)) _).abandon).foldl (fun _ _ hs => ?_) _
  extract_lets
  split
  · exact hs.exitThrs.endRun.handlerGone
  · exact hs.exitThrs.endRun

protected theorem State.Canonical.vacate {s : State} {c : Nat} {cores : BitVec 192} {urgent : Bool} {deadline : Option Nat}
    {revoked : Bool} (hs : s.Canonical) : (vacate s c cores urgent deadline revoked).Canonical := by
  unfold Machine.vacate
  exact hs.askLeave.updCtx

protected theorem State.Canonical.revokeCores {cores : BitVec 192} {nsv : Bool} {s : State} {x : Ctx} (hs : s.Canonical) :
    (revokeCores cores nsv s x).Canonical := by
  unfold Machine.revokeCores
  exact (State.Canonical.ite hs.same.evictNsv hs.same.vacate).updCtx

protected theorem State.Canonical.revokeWays {ways : BitVec 16} {s : State} {x : Ctx} (hs : s.Canonical) : (revokeWays ways s
    x).Canonical := by
  unfold Machine.revokeWays
  exact hs.updCtx

protected theorem State.Canonical.resumeLevel {s : State} {lvl : Nat} (hs : s.Canonical) : (resumeLevel s lvl).Canonical := by
  unfold Machine.resumeLevel
  exact hs.same

protected theorem State.Canonical.resumeTree {s : State} (hs : s.Canonical) : (resumeTree s).Canonical := by
  unfold Machine.resumeTree
  exact hs.foldl (fun _ _ hs => hs.resumeLevel) _

protected theorem State.Canonical.settleStops {s : State} (hs : s.Canonical) : (settleStops s).Canonical := by
  unfold Machine.settleStops
  exact hs.same.resumeTree

protected theorem State.Canonical.ctxRevoke {s : State} {i : Ctx} {vb : Nat} {r : List Word} (hs : s.Canonical) :
    (ctxRevoke s i vb r).st.Canonical := by
  unfold Machine.ctxRevoke
  split
  · exact hs
  · cases childOf s i.cxid vb with
    | none => exact hs
    | some x =>
      dsimp only
      split
      · exact hs
      · split
        · exact hs
        · exact ((((hs.walkRange.foldl (fun _ _ hs => hs.freeFrame) _).updCtx.foldl (fun _ _ hs => hs.revokeCores) _).foldl
            (fun _ _ hs => hs.revokeWays) _).settleStops).wake

protected theorem State.Canonical.vacateBelow {s : State} {c : Nat} {cores : BitVec 192} {urgent : Bool} {deadline : Option Nat}
    (hs : s.Canonical) : (vacateBelow s c cores urgent deadline).Canonical := by
  unfold Machine.vacateBelow
  exact (hs.foldl (fun _ _ hs => (State.Canonical.ite hs.beginStop hs.vacate)) _).settleStops

protected theorem State.Canonical.ctxRun {s : State} {i : Ctx} {vb : Nat} {r : List Word} (hs : s.Canonical) :
    (ctxRun s i vb r).st.Canonical := by
  unfold Machine.ctxRun
  split
  · exact hs
  · split
    · exact hs
    · dsimp only
      split
      · exact hs
      · split
        · exact hs
        · split
          · exact hs
          · split
            · exact hs
            · exact ((State.Canonical.ite hs hs.vacate.vacateBelow).updCtx).resumeTree

protected theorem State.Canonical.ctxStat {s : State} {i : Ctx} {vb : Nat} (hs : s.Canonical) : (ctxStat s i vb).st.Canonical := by
  unfold Machine.ctxStat
  split <;> exact hs

protected theorem State.Canonical.stopTree {s : State} {c : Nat} {urgent : Bool} {deadline : Nat} (hs : s.Canonical) : (stopTree
    s c urgent deadline).Canonical := by
  unfold Machine.stopTree
  exact (hs.foldl (fun _ _ hs => hs.beginStop) _).settleStops

protected theorem State.Canonical.hurryTree {s : State} {c : Nat} (hs : s.Canonical) : (hurryTree s c).Canonical := by
  unfold Machine.hurryTree
  exact hs.askLeave

protected theorem State.Canonical.ctxStop {s : State} {i : Ctx} {vb kind d : Nat} (hs : s.Canonical) :
    (ctxStop s i vb kind d).st.Canonical := by
  unfold Machine.ctxStop
  split
  · exact hs
  · split
    · exact hs
    · split
      · exact hs
      · exact hs.stopTree
      · exact State.Canonical.ite hs.hurryTree hs
      · exact hs

protected theorem State.Canonical.ctxStep {s : State} {i : Ctx} {r : CtxReq} (hs : s.Canonical) : (ctxStep s i r).st.Canonical := by
  unfold Machine.ctxStep
  split
  · exact hs.ctxNew
  · exact hs.ctxRun
  · exact hs.ctxStop
  · exact hs.ctxGrant
  · exact hs.ctxRevoke
  · exact hs.ctxKill
  · exact hs.ctxStat

protected theorem State.Canonical.storeImage {s : State} {r : CtxReq} {image : List Word} (hs : s.Canonical) : (storeImage s r
    image).Canonical := by
  unfold Machine.storeImage
  split
  · exact hs
  · split
    · exact hs.touch.writeAtoms
    · exact hs.raise
    · exact hs

protected theorem State.Canonical.runCtx {s : State} {r : CtxReq} (hs : s.Canonical) : (runCtx s r).Canonical := by
  unfold Machine.runCtx
  dsimp only
  split
  · exact hs
  · exact (State.Canonical.ctxStep (s := { s with ctxops := s.ctxops.filter fun x => x.id != r.id }) hs).storeImage.updGrp.wake

protected theorem State.Canonical.tryCtx {s : State} {r : CtxReq} (hs : s.Canonical) : (tryCtx s r).Canonical := by
  unfold Machine.tryCtx
  split
  · exact hs.runCtx
  · exact hs

protected theorem State.Canonical.ctxUnit {d : BitVec 7} {kind : CtxKind} {u : Issue} {s : State} {child : Nat} {w : List Word}
    {va : DWord} (hs : s.Canonical) : (ctxUnit d kind u s child w va).Canonical := by
  unfold Machine.ctxUnit
  exact hs.closeRegion.updAct.same.tryCtx.ok

protected theorem State.Canonical.cxlFail {s : State} {r : Req} (hs : s.Canonical) : (cxlFail s r).Canonical := by
  unfold Machine.cxlFail
  exact (State.Canonical.ite hs.same hs.updReq).wake

protected theorem State.Canonical.ruDown {c : Cause} {s : State} {k : Nat} (hs : s.Canonical) : (ruDown c s k).Canonical := by
  unfold Machine.ruDown
  exact hs.same

protected theorem State.Canonical.gridFail {s : State} {g : Grid} {kind : BufKind} (hs : s.Canonical) : (gridFail s g
    kind).Canonical := by
  unfold Machine.gridFail
  split
  · exact hs
  · extract_lets
    split
    · exact hs.updGrid.raiseAsync
    · exact hs.same

protected theorem State.Canonical.waitaTrap {s : State} {gid : Nat} {ts : List Nat} {c : Cause} {f : DWord} {cx : Nat} {walk :
    Bool} (hs : s.Canonical) : (waitaTrap s gid ts c f cx walk).Canonical := by
  unfold Machine.waitaTrap
  extract_lets
  split
  · exact (hs.foldl (fun _ _ hs => hs.backToWaita) _).raise
  · exact hs.foldl (fun _ _ hs => hs.backToWaita) _

protected theorem State.Canonical.waitaFail {s : State} {g : Group} {kind : BufKind} (hs : s.Canonical) : (waitaFail s g
    kind).Canonical := by
  unfold Machine.waitaFail
  extract_lets
  split
  · exact hs
  · extract_lets
    split
    · exact hs.waitaTrap
    · exact hs

protected theorem State.Canonical.outsideFail {s : State} {id : Nat} {kind : BufKind} (hs : s.Canonical) : (outsideFail s id
    kind).Canonical := by
  unfold Machine.outsideFail
  split
  · split
    · exact hs.btPeerFail
    · exact hs.btCxlFail
  · split
    · exact hs.gridFail
    · split
      · exact hs.waitaFail
      · exact hs

protected theorem State.Canonical.cxlPoison {s : State} {id : Nat} (hs : s.Canonical) : (cxlPoison s id).Canonical := by
  unfold Machine.cxlPoison
  split
  · split
    · exact hs.cxlFail
    · exact hs
  · split
    · split
      · exact hs.ruDown
      · exact hs
    · exact hs.outsideFail

protected theorem State.Canonical.dbgReply {s : State} {c : DbgCmd} {st : DbgSt} {data : List Word} (hs : s.Canonical) :
    (dbgReply s c st data).Canonical := by
  unfold Machine.dbgReply
  exact hs.same

protected theorem State.Canonical.softError {s : State} {g : Group} (hs : s.Canonical) : (softError s g).Canonical := by
  unfold Machine.softError
  exact hs.discard.wake

protected theorem State.Canonical.markSite {s : State} {g : Group} {e : ErrSite} (hs : s.Canonical) : (markSite s g e).Canonical := by
  unfold Machine.markSite
  split
  · exact hs.updThr
  · exact hs.updGrp
  · exact hs.updBlk (f := fun b => { b with sus := _ :: b.sus }) fun _ => rfl
  · exact hs.dropL1
  · exact hs
  · exact hs

protected theorem State.Canonical.detect {gid : Nat} {site : ErrSite} {s : State} (hs : s.Canonical) : (detect gid site
    s).Canonical := by
  unfold Machine.detect
  split
  · exact hs
  · split
    · exact hs
    · split
      · exact hs.countErr.raise
      · exact hs.countErr.markSite.softError

protected theorem State.Canonical.dirtyLine {s : State} {b off : Nat} (hs : s.Canonical) : (dirtyLine s b off).Canonical := by
  unfold Machine.dirtyLine
  exact hs.same

protected theorem State.Canonical.flrStop {s : State} {n : Nat} (hs : s.Canonical) : (flrStop s n).Canonical := by
  unfold Machine.flrStop
  extract_lets
  split
  · split
    · exact hs
    · split
      · exact hs.setVf
      · exact hs.killTree.setVf
  · exact hs.setVf

protected theorem State.Canonical.startFlr {s : State} {n : Nat} (hs : s.Canonical) : (startFlr s n).Canonical := by
  unfold Machine.startFlr
  exact hs.setVf.flrStop

protected theorem State.Canonical.disableVfs {s : State} (hs : s.Canonical) : (disableVfs s).Canonical := by
  unfold Machine.disableVfs
  split
  · exact hs
  · extract_lets
    split <;> exact (hs.foldl (fun _ _ hs => hs.startFlr) _).same

protected theorem State.Canonical.dropEnt {s : State} {k : Nat} (hs : s.Canonical) : (dropEnt s k).Canonical := by
  unfold Machine.dropEnt
  split
  · split
    · exact hs
    · exact hs.dropEnts
  · exact hs

protected theorem State.Canonical.dropOvl {s : State} {r : Req} (hs : s.Canonical) : (dropOvl s r).Canonical := by
  unfold Machine.dropOvl
  exact hs.same

protected theorem State.Canonical.eachLine {i : Instr} {o : CCF} {f : State → Nat → Spot → State} {u : Issue} {s : State}
    (hs : s.Canonical) (hf : ∀ s t p, s.Canonical → (f s t p).Canonical) : (eachLine i o f u s).Canonical := by
  refine State.Canonical.ok (State.Canonical.wake (hs.foldl (fun _ _ hs => ?_) _))
  split
  · exact hf _ _ _ hs.cacheEnt
  · exact hs

protected theorem State.Canonical.newVfCtx {s : State} {n : Nat} (hs : s.Canonical) : (newVfCtx s n).Canonical := by
  unfold Machine.newVfCtx
  split
  · extract_lets
    split
    · split
      · exact hs
      · exact hs.same.setVf
    · exact hs
  · exact hs

protected theorem State.Canonical.enableVfs {s : State} (hs : s.Canonical) : (enableVfs s).Canonical := by
  unfold Machine.enableVfs
  split
  · exact hs
  · exact (hs.foldl (fun _ _ hs => (State.Canonical.ite hs hs.newVfCtx)) _).same

protected theorem State.Canonical.endGrid {s : State} {gr : Nat} (hs : s.Canonical) : (endGrid s gr).Canonical :=
  have h1 := hs.updGrid.foldl (fun _ _ hs => hs.dropGroup) _
  ⟨h1.1, Memory.wf_pads_map h1.2 fun b => by split <;> rfl⟩

protected theorem State.Canonical.endRunAt {s : State} {core part : Nat} (hs : s.Canonical) : (endRunAt s core part).Canonical := by
  unfold Machine.endRunAt
  exact hs.same

protected theorem State.Canonical.exitEffect {s : State} {gid : Nat} {ts : List Nat} (hs : s.Canonical) : (exitEffect s gid
    ts).Canonical := by
  unfold Machine.exitEffect
  extract_lets
  split
  · exact (State.Canonical.ite hs.commit.exitThrs.handlerGone hs.commit.exitThrs).wake
  · exact hs.commit.exitThrs

protected theorem State.Canonical.learnAll {s : State} {gid : Nat} {ts : List Nat} (hs : s.Canonical) : (learnAll s gid
    ts).Canonical := by
  unfold Machine.learnAll
  exact hs.updGrp

protected theorem State.Canonical.reenterThrs {s : State} {gid : Nat} {ts : List Nat} (hs : s.Canonical) : (reenterThrs s gid
    ts).Canonical := by
  unfold Machine.reenterThrs
  split
  · exact hs
  · exact hs.updGrp.learnAll

protected theorem State.Canonical.resumeAt {s : State} {gid : Nat} {ts : List Nat} {pc fpc : DWord} (hs : s.Canonical) :
    (resumeAt s gid ts pc fpc).Canonical := by
  unfold Machine.resumeAt
  exact hs.commit.updGrp.learnAll

protected theorem State.Canonical.resumeLimit {s : State} {gid : Nat} {ts : List Nat} {pc fpc : DWord} (hs : s.Canonical) :
    (resumeLimit s gid ts pc fpc).Canonical := by
  unfold Machine.resumeLimit
  split
  · exact hs
  · extract_lets
    split
    · exact hs.reenterThrs
    · exact hs.reenterThrs.resumeAt

protected theorem State.Canonical.resumeThreads {s : State} {gid : Nat} {ts : List Nat} {pc fpc : DWord} (hs : s.Canonical) :
    (resumeThreads s gid ts pc fpc).Canonical := by
  unfold Machine.resumeThreads
  split
  · exact hs
  · extract_lets
    split
    · exact hs.reenterThrs
    · exact hs.reenterThrs.resumeAt

protected theorem State.Canonical.trapReturn {s : State} {r : TrapRec} {fin : Bool} {pc : DWord} (hs : s.Canonical) :
    (trapReturn s r fin pc).Canonical := by
  unfold Machine.trapReturn
  split
  · exact hs.endTrapped
  · split
    · exact hs.unwaitSrc
    · split
      · exact hs
      · split
        · exact hs
        · extract_lets
          split
          · exact hs.resumeLimit
          · exact hs.resumeThreads

protected theorem State.Canonical.endTrapret {gid : Nat} {ts : List Nat} {fin : Bool} {pc : DWord} {s : State} (hs :
    s.Canonical) : (endTrapret gid ts fin pc s).Canonical := by
  unfold Machine.endTrapret
  split
  · exact hs.trapReturn.unbind.exitEffect
  · exact hs.exitEffect

protected theorem State.Canonical.estimate {fn : Nat} {o : CL} {u : Issue} {s : State} (hs : s.Canonical) : (estimate fn o u
    s).Canonical := by
  unfold Machine.estimate
  exact hs.addPends.ok

protected theorem State.Canonical.examined {s : State} {cx q : Nat} (hs : s.Canonical) : (examined s cx q).Canonical := by
  unfold Machine.examined
  split
  · exact hs.updCtx
  · exact hs

protected theorem State.Canonical.settleThreads {u : Issue} {s : State} (hs : s.Canonical) : (settleThreads u s).Canonical := by
  unfold Machine.settleThreads
  exact hs.updGrp

protected theorem State.Canonical.releaseLatches {u : Issue} {s : State} (hs : s.Canonical) : (releaseLatches u s).Canonical := by
  unfold Machine.releaseLatches
  exact hs.same

protected theorem State.Canonical.finishGroups {i : Instr} {u : Issue} {s : State} (hs : s.Canonical) :
    (finishGroups i u s).Canonical := by
  unfold Machine.finishGroups
  extract_lets s1 s2 s3 s4
  have h1 : s1.Canonical := .ite hs.updGrp hs
  have h2 : s2.Canonical := .ite h1.settleThreads h1
  have h3 : s3.Canonical := .ite h2.releaseLatches h2
  have h4 : s4.Canonical := .ite h3.updGrp h3
  exact h4.updGrp

protected theorem State.Canonical.finishRun {x0 : Instr} {x1 : Issue} {s : State} (hs : s.Canonical) : (finishRun x0 x1
    s).Canonical := by
  unfold Machine.finishRun
  split
  · exact hs
  · split
    · extract_lets
      split
      · exact hs.endRunAt.updGrp
      · exact hs.endRunAt
    · exact hs.same

protected theorem State.Canonical.finish {i : Instr} {u : Issue} {s : State} (hs : s.Canonical) : (finish i u s).Canonical := by
  rw [finish_steps]
  exact State.Canonical.finishRun hs.finishGroups.same

protected theorem State.Canonical.parkResource {i : Instr} {eff : Issue → State → Res} {w : Wait} {u : Issue} {s : State} (hs
    : s.Canonical)
    (he : ∀ u s, s.Canonical → (eff u s).Canonical) : (parkResource i eff w u s).Canonical := by
  unfold Machine.parkResource
  refine State.Canonical.updGrp (State.Canonical.endRunAt ?_)
  split
  · exact hs
  · exact (he _ _ hs.advance _ ‹_›).finish
  · exact hs.raise
  · exact hs

protected theorem State.Canonical.execUnit {i : Instr} {eff : Issue → State → Res} {s : State} (hs : s.Canonical)
    (he : ∀ u s, s.Canonical → (eff u s).Canonical) : NextCanonical (execUnit i eff s) := by
  unfold Machine.execUnit
  split
  · exact hs.next
  · split
    · exact hs.raise.next
    · split
      · exact (he _ _ hs.advance _ ‹_›).finish.next
      · exact hs.raise.next
      · exact (hs.parkResource he).next

protected theorem State.Canonical.writeLanes {u : Issue} {s : State} {f : Nat → LaneWrites} (hs : s.Canonical) : (writeLanes u s
    f).Canonical := by
  unfold Machine.writeLanes
  exact hs.updGrp

protected theorem State.Canonical.threeReg {o : TR} {f : Pfx → Word → Word → Word → Word} {u : Issue} {s : State} (hs :
    s.Canonical) : (threeReg o f u s).Canonical := by
  unfold Machine.threeReg
  exact hs.writeLanes.ok

protected theorem State.Canonical.pairReg {o : TR} {f : DWord → DWord → DWord} {u : Issue} {s : State} (hs : s.Canonical) :
    (pairReg o f u s).Canonical := by
  unfold Machine.pairReg
  exact hs.writeLanes.ok

protected theorem State.Canonical.shiftImm {o : SI} {f : Word → Nat → Word} {u : Issue} {s : State} (hs : s.Canonical) :
    (shiftImm o f u s).Canonical := by
  unfold Machine.shiftImm
  exact hs.writeLanes.ok

protected theorem State.Canonical.shiftReg {o : SR} {f : Word → Nat → Word} {u : Issue} {s : State} (hs : s.Canonical) :
    (shiftReg o f u s).Canonical := by
  unfold Machine.shiftReg
  exact hs.writeLanes.ok

protected theorem State.Canonical.immReg {i : Instr} {o : IM} {f : Pfx → Word → Int → Word} {u : Issue} {s : State} (hs :
    s.Canonical) : (immReg i o f u s).Canonical := by
  unfold Machine.immReg
  exact hs.writeLanes.ok

protected theorem State.Canonical.writePreds {u : Issue} {s : State} {p : BitVec 4} {f : Nat → Bool} (hs : s.Canonical) :
    (writePreds u s p f).Canonical := by
  unfold Machine.writePreds
  exact hs.updAct

protected theorem State.Canonical.oneReg {d a : BitVec 7} {f : Pfx → Word → Word} {u : Issue} {s : State} (hs : s.Canonical) :
    (oneReg d a f u s).Canonical := by
  unfold Machine.oneReg
  exact hs.writeLanes.ok

protected theorem State.Canonical.setMask {u : Issue} {s : State} {k : BitVec 3} {x : DWord} (hs : s.Canonical) : (setMask u s k
    x).Canonical := by
  unfold Machine.setMask
  exact hs.updGrp

protected theorem State.Canonical.jumpLanes {u : Issue} {s : State} {tgt : Nat → DWord} (hs : s.Canonical) :
    (jumpLanes u s tgt).Canonical := by
  unfold Machine.jumpLanes
  dsimp only
  split
  · exact .trap
  · exact .trap
  · exact hs.updAct.ok

protected theorem State.Canonical.startLoads {u : Issue} {s : State} {d size pol : Nat} {as : List (Nat × Acc)} (hs :
    s.Canonical) : (startLoads u s d size pol as).Canonical := by
  unfold Machine.startLoads
  split
  exact hs.cacheAccs.addPends.addReqs

protected theorem State.Canonical.loadGlobal {i : Instr} {o : ME} {size : Nat} {u : Issue} {s : State} (hs : s.Canonical) :
    (loadGlobal i o size u s).Canonical := by
  unfold Machine.loadGlobal
  split
  · exact .trap
  · exact hs.startLoads.ok

protected theorem State.Canonical.storeGlobal {i : Instr} {o : ME} {size : Nat} {u : Issue} {s : State} (hs : s.Canonical) :
    (storeGlobal i o size u s).Canonical := by
  unfold Machine.storeGlobal
  exact hs.bufferStores

protected theorem State.Canonical.fillL1 {s : State} {core b off owner : Nat} (hs : s.Canonical) : (fillL1 s core b off
    owner).Canonical := by
  unfold Machine.fillL1
  split
  · split
    · exact hs
    · exact hs.same
  · exact hs

protected theorem State.Canonical.fillL2 {s : State} {cx b off owner : Nat} (hs : s.Canonical) : (fillL2 s cx b off
    owner).Canonical := by
  unfold Machine.fillL2
  split
  · extract_lets
    split
    · exact hs
    · split
      · exact hs
      · exact hs.same
  · exact hs

protected theorem State.Canonical.writeBack {u : Issue} {inv : Bool} {s : State} {t : Nat} {p : Spot} (hs : s.Canonical) :
    (writeBack u inv s t p).Canonical := by
  unfold Machine.writeBack
  exact hs.same

protected theorem State.Canonical.parkAct {u : Issue} {s : State} {f : Nat → Park} (hs : s.Canonical) : (parkAct u s
    f).Canonical := by
  unfold Machine.parkAct
  exact hs.updAct

protected theorem State.Canonical.gred {o : GRF} {f : BitVec 2 → Word → Word → Word} {u : Issue} {s : State} (hs : s.Canonical)
    : (gred o f u s).Canonical := by
  unfold Machine.gred
  exact hs.writeLanes.ok

protected theorem State.Canonical.remote {o : ROF} {ropr : Bool} {u : Issue} {s : State} (hs : s.Canonical) : (remote o ropr u
    s).Canonical := by
  unfold Machine.remote
  split
  · exact hs.closeRegion.ok
  · split
    · exact .retry
    · split
      · exact .trap
      · extract_lets
        split
        · exact .trap
        · split
          · exact .trap
          · split
            · exact .trap
            · split
              · exact .retry
              · extract_lets
                split
                exact (State.Canonical.ite (State.Canonical.ite hs.cacheAccs.closeRegion.addPends hs.cacheAccs.closeRegion).same
                    (State.Canonical.ite hs.cacheAccs.closeRegion.addPends hs.cacheAccs.closeRegion).same.updGrp).ok

protected theorem State.Canonical.startTransfer {u : Issue} {s : State} {ch : Nat} {ptr : DWord} {rec : Option (List Word)} (hs
    : s.Canonical) : (startTransfer u s ch ptr rec).Canonical := by
  unfold Machine.startTransfer
  exact hs.closeRegion.same.updGrp

protected theorem State.Canonical.pushQueue {s : State} {cx q : Nat} {e : QEntry} (hs : s.Canonical) : (pushQueue s cx q
    e).Canonical := by
  unfold Machine.pushQueue
  exact hs.updCtx

protected theorem State.Canonical.setLatch {u : Issue} {o : MXF} {s : State} (hs : s.Canonical) : (setLatch u o s).Canonical := by
  unfold Machine.setLatch
  exact hs.updGrp

protected theorem State.Canonical.rampStart {s : State} {core part : Nat} (hs : s.Canonical) : (rampStart s core part).Canonical := by
  unfold Machine.rampStart
  extract_lets
  split
  · exact hs.setRamp
  · exact hs.setRamp
  · exact hs

protected theorem State.Canonical.mxAccept {u : Issue} {s : State} {o : MXF} {mma : Bool} {ts : List Nat} (hs : s.Canonical) :
    (mxAccept u s o mma ts).Canonical := by
  unfold Machine.mxAccept
  exact hs.same.rampStart

protected theorem State.Canonical.tileWrite {u : Issue} {s : State} {acc : Nat} {f : List Nat → State → State} (hs : s.Canonical)
    (hf : ∀ ts s, s.Canonical → (f ts s).Canonical) : (tileWrite u s acc f).Canonical := by
  unfold Machine.tileWrite
  split
  · exact .trap
  · split
    · exact hs.countTile.ok
    · split
      · exact .retry
      · exact (hf _ _ hs.countTile).ok

protected theorem State.Canonical.tlbinv {kind : Nat} {o : TIF} {u : Issue} {s : State} (hs : s.Canonical) :
    (tlbinv kind o u s).Canonical := by
  unfold Machine.tlbinv
  extract_lets
  split
  · exact hs.closeRegion.ok
  · split
    · exact .trap
    · exact .ite .trap hs.closeRegion.updAct.ok

protected theorem State.Canonical.putBlock {set : BitVec 192} {b : Block} {gs : List Group} {pick : Nat} {s t : State} (hs
    : s.Canonical)
    (hb : Memory.wf b.pad) (ht : putBlock set b gs pick s = some t) : t.Canonical := by
  unfold Machine.putBlock at ht
  split at ht
  · cases ht
  · dsimp only at ht
    refine State.Canonical.addGroups (?_ : State.Canonical _) ht
    refine ⟨hs.1, fun x hx => ?_⟩
    rcases List.mem_append.1 hx with hx | hx
    · exact hs.2 x (List.mem_filter.1 hx).1
    · rw [List.mem_singleton.1 hx]; exact hb

def PadsWf (us : List (Block × List Group)) : Prop := ∀ u ∈ us, Memory.wf u.1.pad
protected theorem State.Canonical.putUnit {set : BitVec 192} {core pick : Nat} {us : List (Block × List Group)} {s t : State} (hs
    : s.Canonical)
    (hu : PadsWf us) (ht : putUnit set core pick us s = some t) : t.Canonical := by
  induction us generalizing s pick with
  | nil => cases ht; exact hs
  | cons u us ih =>
    obtain ⟨t', h1, h2⟩ := Option.bind_eq_some_iff.1 ht
    exact ih (hs.putBlock (b := { u.1 with core := core + u.1.rank }) (hu u (by simp)) h1) (fun x hx => hu x (by simp [hx])) h2

theorem nthSome_eq_some {α β : Type} {f : α → Option β} {l : List α} {k : Nat} {b : β} (hs : nthSome f l k = some b)
    : ∃ a, f a = some b := by
  induction l generalizing k with
  | nil => cases hs
  | cons a l ih =>
    unfold nthSome at hs
    split at hs
    · exact ih hs
    · cases hs; exact ⟨a, ‹_›⟩
    · exact ih hs
protected theorem State.Canonical.putAll {set : BitVec 192} {r : List Word} {cores : List Nat} {pick : Nat} {us : List (List
    (Block × List Group))}
    {s t : State} (hs : s.Canonical) (hu : ∀ u ∈ us, PadsWf u) (ht : putAll set r cores pick us s = some t) : t.Canonical := by
  induction us generalizing s pick with
  | nil => cases ht; exact hs
  | cons u us ih =>
    simp only [Machine.putAll] at ht
    split at ht
    · next s' hs' =>
      obtain ⟨c, hc⟩ := nthSome_eq_some hs'
      split at hc
      · exact ih (hs.putUnit (hu u (by simp)) hc) (fun x hx => hu x (by simp [hx])) ht
      · cases hc
    · cases ht

theorem padsWf_savedOf {s : State} (hs : s.Canonical) (p : Block → Bool) : PadsWf (savedOf s p) := fun u hu => by
  obtain ⟨b, hb, e⟩ := List.mem_filterMap.1 hu
  obtain ⟨gs, -, rfl⟩ := Option.map_eq_some_iff.1 e
  exact hs.2 b (List.mem_filter.1 hb).1
theorem padsWf_newBlocks (x : Grid) (n lin id : Nat) : PadsWf (newBlocks x n lin id) := by
  induction n generalizing lin id with
  | zero => intro u hu; cases hu
  | succ n ih =>
    intro u hu
    rcases List.mem_cons.1 hu with rfl | hu
    · exact Memory.wf_nil
    · exact ih _ _ u hu
theorem firstSaved_mem {us : List (Block × List Group)} {u : Block × List Group} (hs : firstSaved us = some u) : u ∈ us := by
  induction us with
  | nil => cases hs
  | cons a us ih =>
    unfold firstSaved at hs
    split at hs
    · cases hs; simp
    · next x hx =>
      split at hs
      · cases hs; exact List.mem_cons_of_mem _ (ih hx)
      · cases hs; simp
theorem padsWf_foldr_insLin {us : List (Block × List Group)} (hs : PadsWf us) : PadsWf (us.foldr insLin []) := by
  have ins (u : Block × List Group) (l : List (Block × List Group)) (hu : Memory.wf u.1.pad) (hl : PadsWf l) : PadsWf (insLin u l) := by
    induction l with
    | nil => intro x hx; simp [insLin] at hx; subst hx; exact hu
    | cons a l ih =>
      unfold insLin
      have ha := hl a (by simp)
      have hl' : PadsWf l := fun x hx => hl x (by simp [hx])
      split
      · intro x hx
        rcases List.mem_cons.1 hx with rfl | hx
        · exact hu
        · exact hl x hx
      · intro x hx
        rcases List.mem_cons.1 hx with rfl | hx
        · exact ha
        · exact ih hl' x hx
  induction us with
  | nil => intro x hx; cases hx
  | cons u us ih => exact ins u _ (hs u (by simp)) (ih fun x hx => hs x (by simp [hx]))
theorem padsWf_nextOfGrid {s : State} (hs : s.Canonical) {x : Grid} {u : Bool × List (Block × List Group)} (hu
    : nextOfGrid s x = some u) :
    PadsWf u.2 := by
  unfold nextOfGrid at hu
  split at hu
  · cases hu; exact padsWf_foldr_insLin (padsWf_savedOf hs _)
  · split at hu
    · cases hu; exact padsWf_newBlocks _ _ _ _
    · cases hu
theorem padsWf_headUnit {s : State} (hs : s.Canonical) {cx : Nat} {x : Option Grid} {n : Bool} {us : List (Block × List Group)}
    (hu : headUnit s cx = some (x, n, us)) : PadsWf us := by
  unfold headUnit at hu
  split at hu
  · next b hb =>
    cases hu
    intro u hu
    rw [List.mem_singleton.1 hu]
    exact padsWf_savedOf hs _ b (firstSaved_mem hb)
  · split at hu
    · obtain ⟨u, hu', e⟩ := Option.map_eq_some_iff.1 hu
      cases e; exact padsWf_nextOfGrid hs hu'
    · cases hu
theorem PadsWf.byGang {us : List (Block × List Group)} (hs : PadsWf us) : ∀ u ∈ byGang us, PadsWf u := fun u hu x hx => by
  obtain ⟨j, -, rfl⟩ := List.mem_map.1 hu
  exact hs x (List.mem_filter.1 hx).1
protected theorem State.Canonical.placeHead {s t : State} {cx core pick : Nat} (hs : s.Canonical) (ht
    : placeHead s cx core pick = some t) :
    t.Canonical := by
  unfold Machine.placeHead at ht
  extract_lets set at ht
  split at ht
  · cases ht
  · next us hx =>
    split at ht
    · exact hs.putUnit (padsWf_headUnit hs hx) ht
    · cases ht
  · next x new us hx =>
    split at ht
    · cases ht
    · extract_lets s' placed at ht
      have hs' : s'.Canonical := State.Canonical.ite hs.same hs
      obtain ⟨t', hp, rfl⟩ := Option.map_eq_some_iff.1 ht
      have ht' : t'.Canonical := by
        unfold placed at hp
        split at hp
        · exact hs'.putAll (padsWf_headUnit hs hx).byGang hp
        · split at hp
          · exact hs'.putUnit (padsWf_headUnit hs hx) hp
          · cases hp
      exact State.Canonical.ite ht'.same ht'

protected theorem State.Canonical.settleLaunches {s : State} {gs : List Group} (hs : s.Canonical) : (settleLaunches s
    gs).Canonical := by
  unfold Machine.settleLaunches
  exact hs.same

protected theorem State.Canonical.msgGone {s : State} {g : Group} (hs : s.Canonical) : (msgGone s g).Canonical := by
  unfold Machine.msgGone
  exact hs.same

protected theorem State.Canonical.mkGrid {s : State} {cx q : Nat} {w : List Word} {reject : Nat} {seen : Known} (hs :
    s.Canonical) : (mkGrid s cx q w reject seen).Canonical := by
  unfold Machine.mkGrid
  exact hs.same

protected theorem State.Canonical.setQueue {s : State} {cx q : Nat} {l : List QEntry} (hs : s.Canonical) : (setQueue s cx q
    l).Canonical := by
  unfold Machine.setQueue
  exact hs.updCtx

protected theorem State.Canonical.gridWord {s : State} {g : Grid} {va : DWord} {w : Word} (hs : s.Canonical) :
    (gridWord s g va w).1.Canonical := by
  unfold Machine.gridWord
  split
  · exact hs
  · split
    · exact hs.raiseAsync
    · split
      · exact hs.touch.writeMem
      · split
        · exact hs.walked.raiseAsync.updGrid
        · exact hs.walked.raiseAsync

protected theorem State.Canonical.sendIrq {s : State} {fn vec : Nat} (hs : s.Canonical) : (sendIrq s fn vec).Canonical := by
  unfold Machine.sendIrq
  split
  · split <;> exact hs.same
  · exact hs.same

protected theorem State.Canonical.msgDone {s : State} {m : Msg} (hs : s.Canonical) : (msgDone s m).Canonical := by
  unfold Machine.msgDone
  extract_lets
  split
  · exact hs.same.updGrp.wake
  · exact hs.updMsg

protected theorem State.Canonical.putHandler {s t : State} {core pick : Nat} {x : Block × Group} (hs : s.Canonical) (hx : x.1.pad = [])
    (ht : putHandler s core pick x = some t) : t.Canonical := by
  obtain ⟨k, -, hk⟩ := List.exists_of_findSome?_eq_some ht
  refine State.Canonical.addGroup (?_ : State.Canonical _) hk
  refine ⟨hs.1, fun b hb => ?_⟩
  rcases List.mem_append.1 hb with hb | hb
  · exact hs.2 b hb
  · rw [List.mem_singleton.1 hb]; exact hx ▸ Memory.wf_nil

protected theorem State.Canonical.holdForDebugger {s : State} {t : Trap} (hs : s.Canonical) : (holdForDebugger s t).Canonical := by
  unfold Machine.holdForDebugger
  split
  · exact hs.updGrp
  · exact hs

protected theorem State.Canonical.ringWrite {s : State} {dest : Nat} {a : DWord} {by_ : By} {w : List Word} (hs : s.Canonical) :
    (ringWrite s dest a by_ w).Canonical := by
  unfold Machine.ringWrite
  split
  · exact hs
  · split
    · exact hs.touch.writeAtoms
    · exact hs

protected theorem State.Canonical.saveRegionError {s : State} {g : Group} (hs : s.Canonical) : (saveRegionError s g).Canonical := by
  unfold Machine.saveRegionError
  extract_lets
  split
  · exact hs.same.markEnding.dropGroup.handlerGone
  · exact hs.same.markEnding.dropGroup.handlerGone
  · exact hs.same.markEnding

protected theorem State.Canonical.leaveFrame {s : State} {gid : Nat} {stopped : Bool} (hs : s.Canonical) : (leaveFrame s gid
    stopped).Canonical := by
  unfold Machine.leaveFrame
  extract_lets
  refine State.Canonical.wake ?_
  split
  · exact hs.updGrp.learnAll
  · exact hs.updGrp

protected theorem State.Canonical.takeOff {s : State} {b : Block} {f : Group → Group} (hs : s.Canonical) (hb : Memory.wf b.pad) :
    (takeOff s b f).Canonical := by
  refine State.Canonical.wake (State.Canonical.settleStops ⟨hs.1, fun x hx => ?_⟩)
  obtain ⟨c, hc, rfl⟩ := List.mem_map.1 hx
  split
  · exact hb
  · exact hs.2 c hc

protected theorem State.Canonical.scrub {s : State} {b f : Nat} (hs : s.Canonical) : (scrub s b f).Canonical := by
  refine State.Canonical.invalidateRange ⟨?_, hs.2⟩
  have hz (l : List (Nat × Nat)) (m : Memory) (hm : Memory.wf m) : Memory.wf (l.foldl (fun m e => Memory.zero m e.1 e.2) m) := by
    induction l generalizing m with
    | nil => exact hm
    | cons e l ih => exact ih _ (Memory.wf_zero m _ _ hm)
  exact hz _ _ hs.1

protected theorem State.Canonical.setArrival {s : State} {o : BtOp} {w : List Word} {c : Nat} (hs : s.Canonical) : (setArrival s
    o w c).Canonical := by
  unfold Machine.setArrival
  split
  · exact hs
  · extract_lets
    split
    · exact hs
    · exact hs.writePad

protected theorem State.Canonical.setArrivals {s : State} {o : BtOp} {w : List Word} {cs : List Nat} (hs : s.Canonical) :
    (setArrivals s o w cs).Canonical := by
  unfold Machine.setArrivals
  exact hs.foldl (fun _ _ hs => hs.setArrival) _

protected theorem State.Canonical.landPage {s : State} {o : BtOp} {r : BtRec} {c : Nat} (hs : s.Canonical) :
    (landPage s o r c).Canonical := by
  unfold Machine.landPage
  dsimp only
  split
  · exact hs.btLanded
  · split
    · exact hs.btXFault
    · next h1 =>
      have h1 := hs.btBytes h1
      split
      · exact h1.setRec.btXFault
      · split
        · exact h1.setRec.cacheEnt.appendPage.btLanded.setArrivals.wake
        · exact h1.setRec.btXFault

protected theorem State.Canonical.landChunk {s : State} {o : BtOp} {r : BtRec} {c : Nat} (hs : s.Canonical) :
    (landChunk s o r c).Canonical := by
  unfold Machine.landChunk
  have h1 := State.Canonical.btPieces (o := o) (c := c) (r := r) (es := chunkCuts r c) hs
  split
  · next e => exact (e ▸ h1).setRec.btXFault
  · next e => exact (e ▸ h1).setRec.btLanded.setArrival.wake

protected theorem State.Canonical.writeCompletion {s : State} {o : BtOp} {w : List Word} {p : Option Spot} (hs : s.Canonical) :
    (writeCompletion s o w p).Canonical := by
  unfold Machine.writeCompletion
  split
  · exact hs
  · exact hs.touch.writeMem

protected theorem State.Canonical.mxEarlyError {s : State} {m : MxOp} (hs : s.Canonical) : (mxEarlyError s m).Canonical := by
  unfold Machine.mxEarlyError
  split
  · extract_lets
    split
    · exact hs.dropMx.updGrp.discard.wake
    · exact hs.dropMx.updGrp
  · exact hs.updMx

protected theorem State.Canonical.mxLateError {s : State} {m : MxOp} (hs : s.Canonical) : (mxLateError s m).Canonical := by
  unfold Machine.mxLateError
  split
  · exact hs.raise
  · exact hs

protected theorem State.Canonical.ruLearn {s : State} {r : RuReq} (hs : s.Canonical) : (ruLearn s r).Canonical := by
  unfold Machine.ruLearn
  extract_lets
  split
  · exact hs.updThr
  · exact hs

protected theorem State.Canonical.ruWrite {by_ : By} {d : List Word} {g0 : Nat} {s : State} {l : Option (Nat × Nat)} {x : Line}
    (hs : s.Canonical) : (ruWrite by_ d g0 s l x).Canonical := by
  unfold Machine.ruWrite
  split
  · exact hs
  · exact hs.writeAtoms.dirtyLine

protected theorem State.Canonical.ruApplication {s : State} {r : RuReq} (hs : s.Canonical) : (ruApplication s r).s.Canonical := by
  unfold Machine.ruApplication
  dsimp only
  split
  · exact hs
  · exact hs.foldl (fun _ _ hs => hs.ruWrite) _

protected theorem State.Canonical.ruFill {s : State} {r : RuReq} (hs : s.Canonical) : (ruFill s r).Canonical := by
  unfold Machine.ruFill
  split
  · exact hs
  · exact hs.foldl (fun _ _ hs => hs.fillL2) _

protected theorem State.Canonical.ruOwn {s : State} {r : RuReq} (hs : s.Canonical) : (ruOwn s r).Canonical := by
  unfold Machine.ruOwn
  exact hs.foldl (fun _ _ hs => hs.updThr) _

protected theorem State.Canonical.ruLog {s : State} {r : RuReq} (hs : s.Canonical) : (ruLog s r).Canonical := by
  unfold Machine.ruLog
  split
  · exact hs
  · split
    · exact hs
    · extract_lets
      split
      · exact hs.updCtx.ringWrite
      · exact hs.updCtx.ringWrite.raiseAsync

protected theorem State.Canonical.ruSettle {s : State} {r : RuReq} {x : RuDone} (hs : s.Canonical) : (ruSettle s r x).Canonical := by
  unfold Machine.ruSettle
  exact hs.foldl (fun _ _ hs => (State.Canonical.ite hs.updRu.ruLog hs.updRu)) _

protected theorem State.Canonical.sendRu {s : State} {r : RuReq} (hs : s.Canonical) : (sendRu s r).Canonical := by
  unfold Machine.sendRu
  extract_lets
  split
  · exact hs
  · exact hs.takeTokens.updRu

protected theorem State.Canonical.learnRead {s : State} {r : Req} {ws : List Wr} (hs : s.Canonical) : (learnRead s r
    ws).Canonical := by
  unfold Machine.learnRead
  exact hs.updThr

protected theorem State.Canonical.performPad {s : State} {r : Req} {k : Nat} (hs : s.Canonical) : (performPad s r k).Canonical := by
  unfold Machine.performPad
  split
  · exact hs.updReq
  · split
    · exact hs.dropOvl.writePad.updReq
    · split
      exact hs.learnRead.updReq

protected theorem State.Canonical.performPeer {s : State} {r : Req} (hs : s.Canonical) : (performPeer s r).Canonical := by
  unfold Machine.performPeer
  exact (State.Canonical.ite hs.same.updReq.updThr hs.same.updReq).wake

protected theorem State.Canonical.memEffect {s : State} {r : Req} (hs : s.Canonical) : (memEffect s r).Canonical := by
  unfold Machine.memEffect
  split
  · exact hs.learnRead.updReq
  · exact (State.Canonical.ite hs.clearAtom hs).writeMem.dirtyLine.updReq
  · refine State.Canonical.updReq (State.Canonical.learnRead ?_)
    split
    · exact hs
    · split
      · exact hs.writeMem.dirtyLine
      · exact hs

protected theorem State.Canonical.performMem {s : State} {r : Req} (hs : s.Canonical) : (performMem s r).Canonical := by
  cases hr : reaches s r.b r.off r.cxid r.opens with
  | false =>
    simp only [Machine.performMem, hr, Bool.not_false, if_true]
    exact hs.updReq.wake
  | true =>
    obtain ⟨t, l1, ht, rfl⟩ := performMem_reached hr
    rw [ht]
    exact State.Canonical.wake (State.Canonical.same hs.atMemory.memEffect)

protected theorem State.Canonical.perform {s : State} {r : Req} (hs : s.Canonical) : (perform s r).Canonical := by
  unfold Machine.perform
  split
  · exact hs.performPad.wake
  · split
    · exact hs.performPeer
    · exact hs.performMem

protected theorem State.Canonical.reply {s : State} {r : Req} (hs : s.Canonical) : (reply s r).Canonical := by
  unfold Machine.reply
  extract_lets s1
  have h1 : s1.Canonical := hs.same
  split
  · exact hs
  · split
    · split
      · exact hs
      · exact h1.raise.wake
    · exact h1.wake
    · exact h1.updThr.wake

protected theorem State.Canonical.poisonAt {s : State} {a : Nat} (hs : s.Canonical) : (poisonAt s a).Canonical := by
  unfold Machine.poisonAt
  exact hs.same

protected theorem State.Canonical.poisonAtom {s : State} {a : Nat} (hs : s.Canonical) : (poisonAtom s a).Canonical := by
  unfold Machine.poisonAtom
  exact hs.poisonAt.countErr

protected theorem State.Canonical.ruPeerFail {s : State} {k : Nat} (hs : s.Canonical) : (ruPeerFail s k).Canonical := by
  unfold Machine.ruPeerFail
  exact hs.ruDown

protected theorem State.Canonical.peerFail {s : State} {id : Nat} (hs : s.Canonical) : (peerFail s id).Canonical := by
  unfold Machine.peerFail
  exact hs.updReq.wake

protected theorem State.Canonical.stopAll {s : State} {code : Nat} (hs : s.Canonical) : (stopAll s code).Canonical :=
  State.Canonical.wake (State.Canonical.same (s := dropWork s fun _ => true) hs.dropWork)

protected theorem State.Canonical.performPeerUpdate {s : State} {port : Nat} {e : Ingress} {off : Nat} {d pay : List Word} (hs
    : s.Canonical) :
    (performPeerUpdate s port e off d pay).Canonical := by
  unfold Machine.performPeerUpdate
  dsimp only
  split
  · exact hs
  · exact (State.Canonical.ruApplication (hs.foldl (fun _ _ hs => hs.firstAccess) _)).same.ruFill.answerPort.wake

protected theorem State.Canonical.performOutside {s : State} {b off : Nat} {port : Option Nat} {op : PeerOp} {bytes : List Byte}
    (hs : s.Canonical) : (performOutside s b off port op bytes).Canonical := by
  unfold Machine.performOutside
  extract_lets s1
  have h1 : s1.Canonical := hs.firstAccess
  split
  · split
    · exact h1.answerPort
    · exact State.Canonical.answerPort h1.same
  · exact h1.writeAtoms.answerPort.wake
  · extract_lets old t
    have ht : t.Canonical := by
      unfold t
      split
      · exact h1.writeMem
      · exact h1
    split
    · exact h1.answerPort
    · exact ht.answerPort.wake
  · exact h1

protected theorem State.Canonical.kick {s : State} {page q : Nat} {a : DWord} (hs : s.Canonical) :
    (Machine.kick s page q a).Canonical := by
  unfold Machine.kick
  dsimp only
  split
  · exact hs.setKick
  · split
    · exact hs
    · split
      · exact hs.setKick.setKick
      · split
        · exact hs.setKick.setKick
        · exact hs.setKick.updCtx

protected theorem State.Canonical.frozenWrite {s : State} {n : Nat} {put : State → State} (hs : s.Canonical) (hp : (put s).Canonical) :
    (frozenWrite s n put).Canonical := by
  unfold Machine.frozenWrite
  split
  · exact hs
  · exact hp
  · exact hp.startFlr

protected theorem State.Canonical.msixEntryWrite {s : State} {fn : Nat} {put : Bool → State → State} (hs : s.Canonical)
    (hp : ∀ b, (put b s).Canonical) : (msixEntryWrite s fn put).Canonical := by
  unfold Machine.msixEntryWrite
  split
  · exact hp _
  · exact hs.frozenWrite (hp _)

protected theorem State.Canonical.maskEntry {s : State} {fn vec : Nat} {masked quiet : Bool} (hs : s.Canonical) : (maskEntry s
    fn vec masked quiet).Canonical := by
  unfold Machine.maskEntry
  exact hs.same

protected theorem State.Canonical.sriovWrite {s : State} {off : Nat} {val : Word} (hs : s.Canonical) : (sriovWrite s off
    val).Canonical := by
  unfold Machine.sriovWrite
  exact ((State.Canonical.ite (State.Canonical.ite hs.same.enableVfs hs.same.disableVfs) hs.same)).foldl (fun _ _ hs => hs.startFlr) _

protected theorem State.Canonical.msixWrite {fn off : Nat} {val : Word} {quiet : Bool} {s : State} (hs : s.Canonical) :
    (msixWrite fn off val quiet s).Canonical := by
  unfold Machine.msixWrite
  split
  · exact hs.maskEntry
  · exact hs.same

protected theorem State.Canonical.kickPageWrite {s : State} {page off : Nat} {val : Word} (hs : s.Canonical) : (kickPageWrite s
    page off val).Canonical := by
  unfold Machine.kickPageWrite
  split
  · exact hs.setKick
  · split
    · exact hs.same
    · exact hs

protected theorem State.Canonical.respond {s : State} {ok : Bool} {ws : List Word} (hs : s.Canonical) : (respond s ok
    ws).Canonical := by
  unfold Machine.respond
  split
  · exact hs
  · exact hs.same

protected theorem State.Canonical.onTarget {c : DbgCmd} {s : State} {eff : Ctx → State → State} (hs : s.Canonical)
    (he : ∀ x, (eff x s).Canonical) : NextCanonical (onTarget c s eff) := by
  unfold Machine.onTarget
  split
  · exact hs.next
  · split
    · exact hs.dbgReply.next
    · split
      · exact hs.dbgReply.next
      · split
        · exact hs.dbgReply.next
        · exact (he _).next

protected theorem State.Canonical.onGroup {c : DbgCmd} {s : State} {eff : Group → State → State} (hs : s.Canonical)
    (he : ∀ g, (eff g s).Canonical) : NextCanonical (onGroup c s eff) := by
  refine hs.onTarget fun _ => ?_
  split
  · exact he _
  · exact hs.dbgReply

protected theorem State.Canonical.haltGroup {s : State} {g : Group} (hs : s.Canonical) : (haltGroup s g).Canonical := by
  unfold Machine.haltGroup
  exact hs.endRun.stopThreads

protected theorem State.Canonical.regWrite {s : State} {g : Group} {c : DbgCmd} (hs : s.Canonical) : (regWrite s g c).Canonical := by
  unfold Machine.regWrite
  extract_lets
  split
  · exact hs.updThr
  · exact hs.updGrp
  · exact hs.updThr
  · exact hs.updGrp.wake
  · exact hs.commit.updThr
  · exact hs.updThr
  · exact hs.updGrp

protected theorem State.Canonical.regCommand {wr : Bool} {c : DbgCmd} {s : State} (hs : s.Canonical) : NextCanonical
    (regCommand wr c s) := by
  refine hs.onGroup fun _ => ?_
  split
  · exact hs.dbgReply
  · split
    · exact hs.dbgReply
    · split
      · exact hs.dbgReply
      · split
        · exact hs
        · split
          · exact hs.regWrite.dbgReply
          · exact State.Canonical.dbgReply hs.same

protected theorem State.Canonical.memCommand {c : DbgCmd} {need : Need} {eff : Spot → State → State} {s : State} (hs : s.Canonical)
    (he : ∀ p s, s.Canonical → (eff p s).Canonical) : NextCanonical (memCommand c need eff s) := by
  refine hs.onTarget fun _ => ?_
  split
  · exact hs.dbgReply
  · split
    · exact hs.dbgReply
    · exact he _ _ hs.touch

protected theorem State.Canonical.failTurn {what : Failure} {s : State} (hs : s.Canonical) : (failTurn what s).Canonical := by
  unfold Machine.failTurn
  split
  · split
    · split
      · exact hs.poisonAt.countErr
      · exact hs
    · exact hs
  · split
    · exact (hs.foldl (fun _ _ hs => hs.poisonAt) _).countErr
    · exact hs
  · split
    · split
      · exact hs.saveRegionError.countErr
      · exact hs
    · exact hs
  · exact hs.stopAll.countErr
  · exact hs.cxlPoison

protected theorem State.Canonical.fetched {s : State} {u : Issue} {p : Spot} (hs : s.Canonical) : (fetched s u p).Canonical := by
  unfold Machine.fetched
  exact (State.Canonical.ite hs.touch (State.Canonical.ite hs.touch.takeTokens hs.touch.takeTokens.fillL1)).same

protected theorem State.Canonical.keepWalk {s : State} {cx va : Nat} (hs : s.Canonical) : (keepWalk s cx va).Canonical := by
  unfold Machine.keepWalk
  exact hs.walked.same

protected theorem State.Canonical.noteFusion {s : State} (hs : s.Canonical) : (noteFusion s).Canonical := by
  unfold Machine.noteFusion
  exact hs.same

protected theorem State.Canonical.retryAll {s : State} (hs : s.Canonical) : (retryAll s).Canonical := by
  unfold Machine.retryAll
  exact hs.same

protected theorem State.Canonical.tick {n : Nat} {s : State} (hs : s.Canonical) : (tick n s).Canonical := by
  unfold Machine.tick
  split
  · exact hs
  · exact hs.same.noteFusion

protected theorem State.Canonical.pass {n : Nat} {s : State} (hs : s.Canonical) : (pass n s).Canonical := by
  unfold Machine.pass
  extract_lets
  split
  · exact hs.retryAll.tick
  · exact hs.retryAll

protected theorem State.Canonical.retryHeld {s : State} (hs : s.Canonical) : NextCanonical (retryHeld s) := by
  unfold Machine.retryHeld
  split
  · exact hs.regCommand
  · exact hs.next

protected theorem State.Canonical.trapretTurn {gid tid : Nat} {s : State} (hs : s.Canonical) : (trapretTurn gid tid s).Canonical := by
  unfold Machine.trapretTurn
  split
  · exact hs
  · split
    · extract_lets
      split
      · exact hs.endTrapret
      · exact hs
    · exact hs

/-! ## The instructions and the events -/

protected theorem NextCanonical.of_eq {o o' : Host.Outcome State Fault Refusal} (e : o = o') (ho : NextCanonical o') :
    NextCanonical o := e ▸ ho

theorem tileShape_error_canonical {u : Issue} {s : State} {o : TLF} {wr : Bool} {r : Res} (e : tileShape u s o wr = .error r) :
    r.Canonical := by
  unfold tileShape at e
  dsimp only at e
  repeat' split at e
  all_goals cases e
  exacts [.trap, .trap, .retry, .trap, .trap, .trap]

theorem setTile_pad (b : Block) (h acc t c : Nat) (ws : List Word) : (b.setTile h acc t c ws).pad = b.pad := rfl

theorem mxStep_pad (bad : Nat → Nat → Word) (m : MxOp) (b : Block) : (mxStep bad m b).pad = b.pad :=
  List.foldlRecOn (motive := fun b' : Block => b'.pad = b.pad) m.a _ rfl fun _ h _ _ => h

protected theorem State.Canonical.execMskw {o : MWF} {s : State} (hs : s.Canonical) : NextCanonical (execMskw o s) := by
  unfold Machine.execMskw
  refine hs.execUnit fun u s hs => ?_
  split
  · exact hs.ok
  · exact hs.setMask.wake.ok

protected theorem State.Canonical.execLds {o : LSF} {s : State} (hs : s.Canonical) : NextCanonical (execLds o s) := by
  unfold Machine.execLds
  refine hs.execUnit fun u s hs => ?_
  extract_lets
  split
  · exact .trap
  · exact hs.startLoads.ok

protected theorem State.Canonical.execLdp {o : LPF} {s : State} (hs : s.Canonical) : NextCanonical (execLdp o s) := by
  unfold Machine.execLdp
  refine hs.execUnit fun u s hs => ?_
  extract_lets
  split
  · exact .trap
  · exact hs.startLoads.ok

protected theorem State.Canonical.execTld {o : TLF} {s : State} (hs : s.Canonical) : NextCanonical (execTld o s) := by
  unfold Machine.execTld
  refine hs.execUnit fun u s hs => ?_
  split
  · exact hs.ok
  · split
    · next e => exact tileShape_error_canonical e
    · extract_lets
      split
      · exact .trap
      · split
        · exact .trap
        · exact hs.readTouch.startLoads.ok

protected theorem State.Canonical.execTst {o : TLF} {s : State} (hs : s.Canonical) : NextCanonical (execTst o s) := by
  unfold Machine.execTst
  refine hs.execUnit fun u s hs => ?_
  split
  · exact hs.bufferStores
  · split
    · next e => exact tileShape_error_canonical e
    · extract_lets
      split
      · exact .trap
      · exact hs.readTouch.bufferStores

protected theorem State.Canonical.execStm {o : STF} {s : State} (hs : s.Canonical) : NextCanonical (execStm o s) := by
  unfold Machine.execStm
  refine hs.execUnit fun u s hs => ?_
  extract_lets
  split
  · exact .trap
  · split
    exact hs.cacheAccs.closeRegion.addReqs.ok

protected theorem State.Canonical.execWaita {o : WAF} {s : State} (hs : s.Canonical) : NextCanonical (execWaita o s) := by
  unfold Machine.execWaita
  refine hs.execUnit fun u s hs => ?_
  extract_lets
  split
  · exact .trap
  · exact hs.cacheAccs.closeRegion.parkAct.ok

protected theorem State.Canonical.execCbar {o : RCF} {s : State} (hs : s.Canonical) : NextCanonical (execCbar o s) := by
  unfold Machine.execCbar
  refine hs.execUnit fun u s hs => ?_
  split
  · exact hs.ok
  · exact hs.closeRegion.updGrid.parkAct.wake.ok

protected theorem State.Canonical.execRdef {o : RDF} {s : State} (hs : s.Canonical) : NextCanonical (execRdef o s) := by
  unfold Machine.execRdef
  refine hs.execUnit fun u s hs => ?_
  split
  · exact hs.ok
  · extract_lets
    split
    · exact .trap
    · split
      · exact .trap
      · exact .retry
      · next w p _ => exact ((hs.readTouch (u := u) (p := p) (n := 256)).addPends.same).ok

protected theorem State.Canonical.execBtxStart {o : BSF} {s : State} (hs : s.Canonical) : NextCanonical (execBtxStart o s) := by
  unfold Machine.execBtxStart
  refine hs.execUnit fun u s hs => ?_
  split
  · exact hs.closeRegion.ok
  · extract_lets
    split
    · exact .trap
    · split
      · exact .retry
      · exact hs.cacheEnt.startTransfer.ok

protected theorem State.Canonical.execTcopy {o : TCF} {s : State} (hs : s.Canonical) : NextCanonical (execTcopy o s) := by
  unfold Machine.execTcopy
  refine hs.execUnit fun u s hs => ?_
  split
  · exact hs.closeRegion.ok
  · extract_lets
    split
    · exact .trap
    · split
      · exact .trap
      · split
        · exact .retry
        · exact hs.startTransfer.ok

protected theorem State.Canonical.execAmtest {o : AMF} {s : State} (hs : s.Canonical) : NextCanonical (execAmtest o s) := by
  unfold Machine.execAmtest
  refine hs.execUnit fun u s hs => ?_
  split
  · exact .trap
  · extract_lets
    split
    · exact .retry
    · exact hs.updAct.ok

protected theorem State.Canonical.execAmsg {o : MSF} {s : State} (hs : s.Canonical) : NextCanonical (execAmsg o s) := by
  unfold Machine.execAmsg
  refine hs.execUnit fun u s hs => ?_
  split
  · exact hs.closeRegion.ok
  · extract_lets
    split
    · exact .trap
    · split
      · exact .trap
      · split
        · exact .retry
        · exact hs.closeRegion.same.updGrp.ok

protected theorem State.Canonical.execLaunch {o : LNF} {s : State} (hs : s.Canonical) : NextCanonical (execLaunch o s) := by
  unfold Machine.execLaunch
  refine hs.execUnit fun u s hs => ?_
  split
  · exact hs.closeRegion.ok
  · extract_lets
    split
    · exact .trap
    · split
      · exact .trap
      · extract_lets
        split
        · exact .retry
        · exact (State.Canonical.ite hs.readTouch.closeRegion.addPends.pushQueue hs.readTouch.closeRegion.addPends).ok
      · exact .retry

protected theorem State.Canonical.execMma {o : MXF} {s : State} (hs : s.Canonical) : NextCanonical (execMma o s) := by
  unfold Machine.execMma
  refine hs.execUnit fun u s hs => ?_
  split
  · exact .trap
  · split
    · exact hs.countTile.setLatch.ok
    · split
      · exact .retry
      · exact hs.mxAccept.countTile.setLatch.updGrp.ok

protected theorem State.Canonical.execMloop {o : MXF} {s : State} (hs : s.Canonical) : NextCanonical (execMloop o s) := by
  unfold Machine.execMloop
  refine hs.execUnit fun u s hs => ?_
  split
  · exact .trap
  · split
    · exact hs.countTile.setLatch.ok
    · split
      · exact .retry
      · split
        · exact .retry
        · exact hs.mxAccept.countTile.setLatch.updGrp.ok

protected theorem State.Canonical.execAst {o : ASF} {s : State} (hs : s.Canonical) : NextCanonical (execAst o s) := by
  unfold Machine.execAst
  refine hs.execUnit fun u s hs => ?_
  split
  · exact .trap
  · split
    · exact .retry
    · split
      · exact .retry
      · exact (hs.foldl (fun _ _ hs => hs.writePad) _).wake.ok

protected theorem State.Canonical.execAld {o : ASF} {s : State} (hs : s.Canonical) : NextCanonical (execAld o s) := by
  unfold Machine.execAld
  refine hs.execUnit fun u s hs => ?_
  split
  · exact .trap
  · split
    · exact .retry
    · exact hs.tileWrite fun _ _ hs => hs.foldl (fun _ _ hs => (hs.updBlk fun _ => setTile_pad ..).aldLearn) _

protected theorem State.Canonical.execCsrr {o : CRF} {s : State} (hs : s.Canonical) : NextCanonical (execCsrr o s) := by
  unfold Machine.execCsrr
  refine hs.execUnit fun u s hs => ?_
  split
  · exact .trap
  · exact hs.writeLanes.ok

protected theorem State.Canonical.execCtxStat {o : CBF} {s : State} (hs : s.Canonical) : NextCanonical (execCtxStat o s) := by
  unfold Machine.execCtxStat
  refine hs.execUnit fun u s hs => ?_
  extract_lets
  split
  · exact hs.closeRegion.ok
  · split
    · exact .trap
    · exact hs.cacheEnt.ctxUnit

protected theorem State.Canonical.execTrapret {o : RCF} {s : State} (hs : s.Canonical) : NextCanonical (execTrapret o s) := by
  unfold Machine.execTrapret
  refine hs.execUnit fun u s hs => ?_
  split
  · exact .trap
  · extract_lets
    split
    · exact .trap
    · split
      · exact hs.closeRegion.endTrapret.ok
      · exact hs.closeRegion.updAct.ok

protected theorem State.Canonical.execFrmstat {o : CNF} {s : State} (hs : s.Canonical) : NextCanonical (execFrmstat o s) := by
  unfold Machine.execFrmstat
  refine hs.execUnit fun u s hs => ?_
  extract_lets
  split
  · exact .trap
  · exact hs.addPends.ok

protected theorem State.Canonical.execIllegalWord {w : Word} {s : State} (hs : s.Canonical) : NextCanonical (execIllegalWord w s) := by
  unfold Machine.execIllegalWord
  split
  · exact hs.badPfxWord
  · split
    · exact hs.next
    · exact hs.raise.next

protected theorem State.Canonical.execIssueArbitration {core part : Nat} {s : State} (hs : s.Canonical) : NextCanonical
    (execIssueArbitration core part s) := by
  unfold Machine.execIssueArbitration
  split
  · exact hs.next
  · split
    · exact hs.next
    · exact hs.same.next

protected theorem State.Canonical.execRunTimeLimit {core part : Nat} {s : State} (hs : s.Canonical) : NextCanonical
    (execRunTimeLimit core
    part s) := by
  unfold Machine.execRunTimeLimit
  split
  · exact hs.endRunAt.next
  · exact hs.next

protected theorem State.Canonical.execPathStarved {gid tid : Nat} {s : State} (hs : s.Canonical) : NextCanonical
    (execPathStarved gid tid
    s) := by
  unfold Machine.execPathStarved
  split
  · exact hs.next
  · split
    · exact hs.updThr.next
    · exact hs.next

protected theorem State.Canonical.execLongLatencyResult {gid tid id : Nat} {err : Bool} {s : State} (hs : s.Canonical) : NextCanonical
    (execLongLatencyResult gid tid id err s) := by
  unfold Machine.execLongLatencyResult
  split
  · exact hs.next
  · split
    · exact hs.next
    · split
      · exact hs.updThr.raise.next
      · split
        · exact hs.next
        · split
          · exact hs.countErr.softError.next
          · exact hs.updGrp.wake.next

protected theorem State.Canonical.execBlockPlace {cx core pick : Nat} {s : State} (hs : s.Canonical) : NextCanonical (execBlockPlace cx
    core pick s) := by
  unfold Machine.execBlockPlace
  split
  · exact hs.next
  · split
    · exact hs.next
    · split
      · exact hs.next
      · next h => exact ((hs.placeHead h).amhWake.same.wake).next

protected theorem State.Canonical.execBlockRetire {bid : Nat} {s : State} (hs : s.Canonical) : NextCanonical
    (execBlockRetire bid s) := by
  unfold Machine.execBlockRetire
  split
  · exact hs.next
  · extract_lets gs sup u t t' t''
    have ht : t.Canonical := by
      exact ⟨(hs.settleLaunches (gs := gs)).1, Memory.wf_pads_map (f := fun x => { x with full := false })
        (fun b hb => hs.2 b (List.mem_filter.1 hb).1) fun _ => rfl⟩
    have ht' : t'.Canonical := by
      unfold t'
      exact ht.foldl (fun _ _ hs => hs.msgGone) _
    split
    · exact (State.Canonical.ite (ht'.same (t := { t' with grids := _ })) ht').settleStops.wake.next
    · exact hs.next

protected theorem State.Canonical.execGridLeaveQueue {cx q : Nat} {s : State} (hs : s.Canonical) : NextCanonical
    (execGridLeaveQueue cx q
    s) := by
  unfold Machine.execGridLeaveQueue
  split
  · exact hs.next
  · extract_lets
    split
    · exact hs.examined.next
    · split
      · exact hs.examined.next
      · split
        · split
          · exact hs.setQueue.mkGrid.next
          · exact hs.examined.next
        · split
          · extract_lets
            split
            · exact hs.walked.raiseAsync.examined.updCtx.next
            · exact hs.walked.raiseAsync.examined.setQueue.mkGrid.next
          · extract_lets
            split
            · exact hs.touch.setQueue.mkGrid.next
            · exact hs.touch.examined.next

protected theorem State.Canonical.execHostListRead {cx q : Nat} {s : State} (hs : s.Canonical) : NextCanonical
    (execHostListRead cx q s) :=
    by
  unfold Machine.execHostListRead
  split
  · exact hs.next
  · split
    · split
      · exact hs.examined.next
      · extract_lets
        split
        · exact hs.raiseAsync.setQueue.next
        · split
          · exact hs.raiseAsync.setQueue.next
          · split
            · exact hs.examined.next
            · split
              · split
                · exact hs.walked.raiseAsync.examined.updCtx.next
                · exact hs.raiseAsync.setQueue.next
              · extract_lets
                split
                · exact hs.touch.takeTokens.setQueue.next
                · exact hs.touch.takeTokens.setQueue.mkGrid.next
    · exact hs.examined.next

protected theorem State.Canonical.execGridComplete {gr : Nat} {s : State} (hs : s.Canonical) : NextCanonical
    (execGridComplete gr s) := by
  unfold Machine.execGridComplete
  split
  · exact hs.next
  · next g _ =>
    split
    · exact hs.next
    · extract_lets first t second u v
      have h1 : first.1.Canonical := by
        unfold first
        split
        · exact hs.gridWord
        · exact hs
      have ht : t.Canonical := h1.updGrid
      have h2 : second.1.Canonical := by
        unfold second
        split
        · exact ht.gridWord
        · exact ht
      split
      · exact h1.next
      · split
        · exact h2.next
        · exact (State.Canonical.ite h2.sendIrq h2).same.next

protected theorem State.Canonical.execGridEnd {gr : Nat} {s : State} (hs : s.Canonical) : NextCanonical (execGridEnd gr s) := by
  unfold Machine.execGridEnd
  split
  · exact hs.next
  · split
    · exact hs.endGrid.wake.next
    · exact hs.next

protected theorem State.Canonical.execSupervisorStart {cx pick : Nat} {s : State} (hs : s.Canonical) : NextCanonical
    (execSupervisorStart
    cx pick s) := by
  unfold Machine.execSupervisorStart
  split
  · exact hs.next
  · next c _ =>
    extract_lets set go
    have hgo {us : List (Block × List Group)} {s t : State} (hs : s.Canonical) (hu : PadsWf us) (ht : go us s = some t) :
        t.Canonical := by
      unfold go at ht
      split at ht
      · split at ht
        · cases ht
        · exact hs.putUnit hu ht
      · cases ht
    split
    · exact hs.next
    · split
      · split
        · next h => exact (hgo hs.same (padsWf_newBlocks _ 1 _ _) h).updCtx.next
        · exact hs.next
      · split
        · next us e =>
          split
          · next h => exact ((hgo hs (fun x hx => padsWf_savedOf hs _ x (e ▸ List.mem_cons.2 (.inl
              (List.mem_singleton.1 hx)))) h).amhWake.wake).next
          · exact hs.next
        · exact hs.next

protected theorem State.Canonical.execAmAdmit {msg : Nat} {s : State} (hs : s.Canonical) : NextCanonical (execAmAdmit msg s) := by
  unfold Machine.execAmAdmit
  split
  · exact hs.next
  · extract_lets
    split
    · split
      · split
        · exact hs.updMsg.next
        · exact hs.next
      · split
        · split
          · exact hs.updMsg.next
          · exact hs.next
        · split
          · exact hs.same.next
          · exact hs.next
    · exact hs.next

protected theorem State.Canonical.execAmHandlerStart {msg pick : Nat} {s : State} (hs : s.Canonical) : NextCanonical (execAmHandlerStart
    msg pick s) := by
  unfold Machine.execAmHandlerStart
  split
  · exact hs.next
  · split
    · exact hs.next
    · split
      · exact hs.msgDone.amhWake.next
      · extract_lets x
        split
        · exact hs.next
        · next h => exact (hs.putHandler rfl h).updMsg.amhWake.next

protected theorem State.Canonical.execAmComplete {msg : Nat} {s : State} (hs : s.Canonical) : NextCanonical (execAmComplete msg s) := by
  unfold Machine.execAmComplete
  split
  · exact hs.next
  · split
    · split
      · exact hs.msgDone.next
      · exact hs.next
    · exact hs.next

protected theorem State.Canonical.execTrapDelivery {tr : Nat} {s : State} (hs : s.Canonical) : NextCanonical
    (execTrapDelivery tr s) := by
  unfold Machine.execTrapDelivery
  split
  · exact hs.next
  · extract_lets
    split
    · exact hs.next
    · split
      · exact hs.same.same.holdForDebugger.next
      · split
        · exact hs.next
        · split
          · exact hs.next
          · exact (State.Canonical.ite hs.same.ringWrite.sendIrq hs.same.ringWrite).next

protected theorem State.Canonical.execTrapHandlerStart {cx pick : Nat} {s : State} (hs : s.Canonical) : NextCanonical
    (execTrapHandlerStart
    cx pick s) := by
  unfold Machine.execTrapHandlerStart
  split
  · exact hs.next
  · split
    · split
      · exact hs.next
      · extract_lets w g
        split
        · exact hs.next
        · next h => exact (hs.putHandler rfl h).same.next
    · exact hs.next

protected theorem State.Canonical.execCocoonSave {gid : Nat} {s : State} (hs : s.Canonical) : NextCanonical (execCocoonSave gid s) := by
  unfold Machine.execCocoonSave
  split
  · exact hs.next
  · split
    · split
      · exact hs.next
      · exact hs.discard.updGrp.wake.next
    · exact hs.next

protected theorem State.Canonical.execCocoonRestore {gid : Nat} {bad : Bool} {s : State} (hs : s.Canonical) : NextCanonical
    (execCocoonRestore gid bad s) := by
  unfold Machine.execCocoonRestore
  split
  · exact hs.next
  · split
    · split
      · exact hs.next
      · split
        · exact hs.saveRegionError.countErr.next
        · split
          · exact (State.Canonical.ite hs.leaveFrame hs).next
          · split
            · exact hs.next
            · split
              · exact hs.cacheEnt.leaveFrame.next
              · exact hs.walked.same.updGrp.next
    · exact hs.next

protected theorem State.Canonical.execBlockSave {bid : Nat} {s : State} (hs : s.Canonical) : NextCanonical (execBlockSave bid s) := by
  unfold Machine.execBlockSave
  split
  · exact hs.next
  · next b hb =>
    have hw : Memory.wf b.pad := hs.2 _ (List.mem_of_find?_eq_some hb)
    split
    · exact hs.next
    · split
      · exact hs.next
      · extract_lets gs size frames e d
        split
        · have he : e.Canonical := hs.updBlk
          exact he.same.wake.next
        · split
          · split
            · exact hs.next
            · have hd : d.Canonical := by
                unfold d
                exact hs.foldl (fun _ _ hs => hs.discard) _
              split
              · next hc => exact (hd.takeOff (hd.2 _ (List.mem_of_find?_eq_some hc))).next
              · exact hd.next
          · split
            · split
              · exact (hs.takeOff (Memory.wf_filter _ _ hw)).next
              · exact hs.next
            · exact hs.next

protected theorem State.Canonical.execGracefulDeadline {cx : Nat} {s : State} (hs : s.Canonical) : NextCanonical
    (execGracefulDeadline cx
    s) := by
  unfold Machine.execGracefulDeadline
  extract_lets
  split
  · exact hs.next
  · exact hs.askLeave.next

protected theorem State.Canonical.execSliceExpiry {cx : Nat} {s : State} (hs : s.Canonical) : NextCanonical (execSliceExpiry cx s) := by
  unfold Machine.execSliceExpiry
  split
  · exact hs.next
  · split
    · exact hs.updCtx.stopTree.next
    · exact hs.next

protected theorem State.Canonical.execVacateComplete {cx : Nat} {s : State} (hs : s.Canonical) : NextCanonical
    (execVacateComplete cx s) :=
    by
  unfold Machine.execVacateComplete
  split
  · exact hs.next
  · split
    · exact hs.updCtx.next
    · exact hs.next

protected theorem State.Canonical.execWaySweepComplete {cx : Nat} {s : State} (hs : s.Canonical) : NextCanonical
    (execWaySweepComplete cx
    s) := by
  unfold Machine.execWaySweepComplete
  split
  · exact hs.next
  · split
    · exact hs.next
    · exact hs.same.updCtx.next

protected theorem State.Canonical.execFrameScrubStart {b f : Nat} {s : State} (hs : s.Canonical) : NextCanonical
    (execFrameScrubStart b f
    s) := by
  unfold Machine.execFrameScrubStart
  extract_lets
  split
  · exact hs.next
  · exact hs.setFrame.next

protected theorem State.Canonical.execFrameScrubComplete {b f : Nat} {s : State} (hs : s.Canonical) : NextCanonical
    (execFrameScrubComplete
    b f s) := by
  unfold Machine.execFrameScrubComplete
  extract_lets
  split
  · exact hs.next
  · exact hs.scrub.setFrame.next

protected theorem State.Canonical.execCxidRelease {cx : Nat} {s : State} (hs : s.Canonical) : NextCanonical (execCxidRelease cx s) := by
  unfold Machine.execCxidRelease
  split
  · split
    · exact hs.same.dropEnts.dropWalks.next
    · exact hs.next
  · exact hs.next

protected theorem State.Canonical.execBtRecordStart {op : Nat} {s : State} (hs : s.Canonical) : NextCanonical
    (execBtRecordStart op s) := by
  unfold Machine.execBtRecordStart
  have hget {o : BtOp} {w : List Word} {t : State} (ht : t.Canonical) : ((btCheck t o w).getD s).Canonical := by
    cases e : btCheck t o w with
    | none => exact hs
    | some t' => exact ht.btCheck e
  split
  · exact hs.next
  · split
    · exact hs.next
    · split
      · exact (hget hs).next
      · split
        · exact hs.updBt.next
        · split
          · exact hs.next
          · split
            · exact hs.btXFault.next
            · extract_lets t
              split
              · exact hs.touch.takeTokens.updBt.next
              · exact (hget hs.touch.takeTokens).next

protected theorem State.Canonical.execBtChunkLanded {op chunk : Nat} {s : State} (hs : s.Canonical) : NextCanonical
    (execBtChunkLanded op
    chunk s) := by
  unfold Machine.execBtChunkLanded
  split
  · exact hs.next
  · split
    · exact hs.next
    · split
      · exact hs.next
      · split
        · next h => exact (hs.chunkStart_error h).next
        · next h =>
          have ht := hs.chunkStart_ok h
          exact (State.Canonical.ite ht.same.landPage ht.same.landChunk).next

protected theorem State.Canonical.execBtRecordComplete {op : Nat} {s : State} (hs : s.Canonical) : NextCanonical
    (execBtRecordComplete op
    s) := by
  unfold Machine.execBtRecordComplete
  split
  · exact hs.next
  · split
    · exact hs.next
    · split
      · exact hs.next
      · split
        · exact hs.btXFault.next
        · extract_lets t t' nx
          have ht : t.Canonical := hs.same.writeCompletion
          have ht' : t'.Canonical := by
            unfold t'
            split
            · exact ht.touch.writeMem
            · exact ht
          exact ht'.updBt.next

protected theorem State.Canonical.execBtRecordFault {op : Nat} {s : State} (hs : s.Canonical) : NextCanonical
    (execBtRecordFault op s) := by
  unfold Machine.execBtRecordFault
  split
  · exact hs.next
  · split
    · exact hs.next
    · exact hs.updGrp.raiseAsync.updBt.next

protected theorem State.Canonical.execBtOperationComplete {op : Nat} {s : State} (hs : s.Canonical) : NextCanonical
    (execBtOperationComplete op s) := by
  unfold Machine.execBtOperationComplete
  split
  · exact hs.next
  · split
    · exact hs.same.updGrp.wake.next
    · exact hs.next

protected theorem State.Canonical.execSequencerStart {core part : Nat} {s : State} (hs : s.Canonical) : NextCanonical
    (execSequencerStart
    core part s) := by
  unfold Machine.execSequencerStart
  split
  · exact hs.next
  · split
    · exact hs.next
    · exact hs.updMx.next

protected theorem State.Canonical.execMatrixStep {core part : Nat} {err : Bool} {s : State} (hs : s.Canonical) : NextCanonical
    (execMatrixStep core part err s) := by
  unfold Machine.execMatrixStep
  split
  · exact hs.next
  · extract_lets rows t bad t'
    have ht : t.Canonical := .ite hs.countErr.mxLateError hs
    have ht' : t'.Canonical := (ht.updBlk (mxStep_pad _ _)).updMx
    split
    · exact hs.next
    · split
      · exact hs.countErr.mxEarlyError.next
      · exact ht'.same.next

protected theorem State.Canonical.execMatrixOpComplete {core part : Nat} {s : State} (hs : s.Canonical) : NextCanonical
    (execMatrixOpComplete core part s) := by
  unfold Machine.execMatrixOpComplete
  split
  · exact hs.next
  · split
    · exact hs.next
    · exact (State.Canonical.ite hs.dropMx.updGrp hs.dropMx.updGrp).wake.next

protected theorem State.Canonical.execRampupDone {core part : Nat} {s : State} (hs : s.Canonical) : NextCanonical
    (execRampupDone core part
    s) := by
  unfold Machine.execRampupDone
  extract_lets
  split
  · exact hs.setRamp.next
  · exact hs.next

protected theorem State.Canonical.execRampdownStart {core part : Nat} {s : State} (hs : s.Canonical) : NextCanonical (execRampdownStart
    core part s) := by
  unfold Machine.execRampdownStart
  extract_lets
  split
  · exact hs.setRamp.next
  · exact hs.next

protected theorem State.Canonical.execRampdownDone {core part : Nat} {s : State} (hs : s.Canonical) : NextCanonical
    (execRampdownDone core
    part s) := by
  unfold Machine.execRampdownDone
  extract_lets
  split
  · exact hs.setRamp.next
  · exact hs.next

protected theorem State.Canonical.execRuAdmit {rid : Nat} {s : State} (hs : s.Canonical) : NextCanonical (execRuAdmit rid s) := by
  unfold Machine.execRuAdmit
  split
  · exact hs.next
  · split
    · exact hs.next
    · extract_lets ls good cause t t' r'
      have ht : t.Canonical := hs.foldl (fun _ _ hs => hs.touch) _
      have ht' : t'.Canonical := .ite (ht.foldl (fun _ _ hs => hs.same) _) ht
      exact ht'.same.updRu.next

protected theorem State.Canonical.execRuCombine {r1 r2 : Nat} {s : State} (hs : s.Canonical) : NextCanonical
    (execRuCombine r1 r2 s) := by
  unfold Machine.execRuCombine
  split
  · extract_lets
    split
    · exact hs.same.next
    · exact hs.next
  · exact hs.next

protected theorem State.Canonical.execRuApply {rid : Nat} {s : State} (hs : s.Canonical) : NextCanonical (execRuApply rid s) := by
  unfold Machine.execRuApply
  split
  · exact hs.next
  · split
    · exact hs.next
    · extract_lets t x y u v
      have hx : y.Canonical := hs.ruLearn.activateLines.ruApplication
      have hu : u.Canonical := by
        unfold u
        exact State.Canonical.foldl hx.same (fun _ _ hs => hs.dropL1) _
      have hv : v.Canonical := hu.ruSettle.ruOwn.ruFill
      exact hv.same.wake.next

protected theorem State.Canonical.execRopComplete {op : Nat} {s : State} (hs : s.Canonical) : NextCanonical (execRopComplete op s) := by
  unfold Machine.execRopComplete
  split
  · exact hs.next
  · split
    · exact hs.next
    · exact hs.same.updGrp.wake.next

protected theorem State.Canonical.execRoprResult {rid : Nat} {s : State} (hs : s.Canonical) : NextCanonical (execRoprResult rid s) := by
  unfold Machine.execRoprResult
  split
  · exact hs.next
  · split
    · exact hs.next
    · exact hs.arriveWords.same.wake.next

protected theorem State.Canonical.execRdefComplete {id : Nat} {s : State} (hs : s.Canonical) : NextCanonical
    (execRdefComplete id s) := by
  unfold Machine.execRdefComplete
  split
  · exact hs.next
  · extract_lets
    split
    · exact hs.next
    · exact ((hs.updCtx).foldl (fun _ _ hs => hs.arriveWords) _).same.wake.next

protected theorem State.Canonical.execRequestAdmission {id : Nat} {s : State} (hs : s.Canonical) : NextCanonical
    (execRequestAdmission id
    s) := by
  unfold Machine.execRequestAdmission
  split
  · split
    · exact hs.sendRu.next
    · exact hs.next
  · split
    · exact hs.next
    · split
      · exact (State.Canonical.ite hs.perform hs).next
      · extract_lets
        split
        · exact hs.next
        · exact hs.same.next

protected theorem State.Canonical.execSliceRequestAdmit {id hint : Nat} {s : State} (hs : s.Canonical) : NextCanonical
    (execSliceRequestAdmit id hint s) := by
  unfold Machine.execSliceRequestAdmit
  split
  · split
    · exact (State.Canonical.ite hs.updRu hs).next
    · exact hs.next
  · split
    · exact hs.next
    · split
      · exact hs.same.next
      · split
        · exact hs.next
        · split
          · exact hs.arriveReq.updReq.next
          · split
            · exact hs.perform.next
            · exact hs.arriveReq.updReq.next

protected theorem State.Canonical.execRequestRetry {id : Nat} {s : State} (hs : s.Canonical) : NextCanonical
    (execRequestRetry id s) := by
  unfold Machine.execRequestRetry
  split
  · split
    · exact (State.Canonical.ite hs.updRu hs).next
    · exact hs.next
  · split
    · split
      · exact hs.same.next
      · exact hs.next
    · exact hs.next

protected theorem State.Canonical.execMemoryReply {id : Nat} {s : State} (hs : s.Canonical) : NextCanonical (execMemoryReply id s) := by
  unfold Machine.execMemoryReply
  split
  · exact hs.next
  · split
    · exact hs.reply.next
    · split
      · exact hs.next
      · extract_lets
        split
        · exact (State.Canonical.ite hs.perform.fillL2 hs.perform).reply.next
        · exact (State.Canonical.ite hs.perform.fillL2 hs.perform).next
    · exact hs.next

protected theorem State.Canonical.execChannelAccess {id bank : Nat} {ecc : Bool} {s : State} (hs : s.Canonical) : NextCanonical
    (execChannelAccess id bank ecc s) := by
  unfold Machine.execChannelAccess
  split
  · exact hs.next
  · split
    · exact hs.next
    · split
      · exact hs.next
      · extract_lets
        split
        · exact hs.next
        · split
          · exact .fault
          · exact (State.Canonical.ite hs.activate.poisonAtom hs.activate).perform.fillL2.next

protected theorem State.Canonical.execPatrolRead {ch atom : Nat} {ecc : Bool} {s : State} (hs : s.Canonical) : NextCanonical
    (execPatrolRead ch atom ecc s) := by
  unfold Machine.execPatrolRead
  split
  · exact .fault
  · split
    · exact hs.next
    · exact (State.Canonical.ite hs.poisonAtom hs).next

protected theorem State.Canonical.execCxlTimeout {id : Nat} {s : State} (hs : s.Canonical) : NextCanonical (execCxlTimeout id s) := by
  unfold Machine.execCxlTimeout
  split
  · split
    · exact (State.Canonical.ite hs.ruDown hs).next
    · exact hs.outsideFail.next
  · split
    · exact hs.next
    · exact hs.cxlFail.next

protected theorem State.Canonical.execLinkTimeout {id : Nat} {s : State} (hs : s.Canonical) : NextCanonical (execLinkTimeout id s) := by
  unfold Machine.execLinkTimeout
  split
  · split
    · exact (State.Canonical.ite hs.ruPeerFail hs).next
    · exact hs.outsideFail.next
  · split
    · exact hs.peerFail.next
    · exact hs.next

protected theorem State.Canonical.execFlashEraseComplete {blk : Nat} {s : State} (hs : s.Canonical) : NextCanonical
    (execFlashEraseComplete
    blk s) := by
  unfold Machine.execFlashEraseComplete
  split
  · exact State.Canonical.next ⟨Memory.wf_zero _ _ _ hs.1, hs.2⟩
  · exact hs.next

protected theorem State.Canonical.execFenceComplete {gid tid : Nat} {s : State} (hs : s.Canonical) : NextCanonical
    (execFenceComplete gid
    tid s) := by
  unfold Machine.execFenceComplete
  split
  · exact hs.next
  · split
    · split
      · exact hs.next
      · exact (State.Canonical.ite hs.same hs).updThr.next
    · exact hs.next

protected theorem State.Canonical.execTlbinvComplete {gid tid : Nat} {s : State} (hs : s.Canonical) : NextCanonical
    (execTlbinvComplete gid
    tid s) := by
  unfold Machine.execTlbinvComplete
  split
  · exact hs.next
  · split
    · extract_lets
      split
      · exact hs.next
      · exact hs.dropEnts.dropWalks.discardWhere.updThr.learnAll.wake.next
    · exact hs.next

protected theorem State.Canonical.execWaitaSatisfied {gid tid : Nat} {s : State} (hs : s.Canonical) : NextCanonical
    (execWaitaSatisfied gid
    tid s) := by
  unfold Machine.execWaitaSatisfied
  split
  · exact hs.next
  · split
    · split
      · exact hs.next
      · split
        · exact hs.walked.waitaTrap.next
        · split
          · exact hs.next
          · extract_lets
            split
            · exact hs.touch.updThr.wake.next
            · exact hs.next
    · exact hs.next

protected theorem State.Canonical.execWatchdog {gid tid : Nat} {s : State} (hs : s.Canonical) : NextCanonical
    (execWatchdog gid tid s) := by
  unfold Machine.execWatchdog
  split
  · exact hs.next
  · split
    · split
      · exact hs.execWaitaSatisfied
      · extract_lets
        split
        · exact hs.waitaTrap.next
        · exact hs.next
    · exact hs.next

protected theorem State.Canonical.execDebugHoldTimeout {s : State} (hs : s.Canonical) : NextCanonical (execDebugHoldTimeout s) := by
  unfold Machine.execDebugHoldTimeout
  split
  · split
    · exact hs.dbgReply.next
    · exact hs.next
  · exact hs.next

protected theorem State.Canonical.execL1FusionChange {clu : Nat} {s : State} (hs : s.Canonical) : NextCanonical
    (execL1FusionChange clu s)
    := by
  unfold Machine.execL1FusionChange
  extract_lets
  split
  · exact hs.next
  · exact hs.same.next

protected theorem State.Canonical.execFlr {vf : Nat} {s : State} (hs : s.Canonical) : NextCanonical (execFlr vf s) := by
  unfold Machine.execFlr
  split
  · exact hs.next
  · exact hs.startFlr.next

protected theorem State.Canonical.execFlrComplete {vf : Nat} {s : State} (hs : s.Canonical) : NextCanonical (execFlrComplete vf s) := by
  unfold Machine.execFlrComplete
  split
  · exact hs.next
  · split
    · exact hs.flrStop.next
    · split
      · exact hs.next
      · exact (State.Canonical.ite hs.setVf.newVfCtx.same hs.setVf.newVfCtx).next

protected theorem State.Canonical.execRecoveryImage {img : FwImage} {s : State} (hs : s.Canonical) : NextCanonical
    (execRecoveryImage img
    s) := by
  unfold Machine.execRecoveryImage
  split
  · exact hs.coldState.next
  · exact hs.next

protected theorem State.Canonical.execThermalStop {s : State} (hs : s.Canonical) : NextCanonical (execThermalStop s) := by
  unfold Machine.execThermalStop
  split
  · exact hs.stopAll.next
  · exact hs.next

protected theorem State.Canonical.execBridgeFailure {s : State} (hs : s.Canonical) : NextCanonical (execBridgeFailure s) := by
  unfold Machine.execBridgeFailure
  split
  · exact hs.stopAll.next
  · exact hs.next

protected theorem State.Canonical.execLinkUp {port : Nat} {verified : Bool} {s : State} (hs : s.Canonical) : NextCanonical
    (execLinkUp port
    verified s) := by
  unfold Machine.execLinkUp
  split
  · exact hs.next
  · exact hs.same.next

protected theorem State.Canonical.execPeerRequest {port b off : Nat} {op : PeerOp} {data : List Byte} {s : State} (hs : s.Canonical) :
    NextCanonical (execPeerRequest port b off op data s) := by
  unfold Machine.execPeerRequest
  split
  · exact hs.next
  · split
    · exact hs.next
    · extract_lets
      split
      · exact hs.answerPort.next
      · split
        · exact hs.answerPort.next
        · split
          · exact hs.performPeerUpdate.next
          · exact hs.performOutside.next

protected theorem State.Canonical.execHostMemoryAccess {b off : Nat} {wr : Bool} {data : DWord} {s : State} (hs : s.Canonical) :
    NextCanonical (execHostMemoryAccess b off wr data s) := by
  unfold Machine.execHostMemoryAccess
  split
  · exact hs.next
  · split
    · exact hs.next
    · exact hs.performOutside.next

protected theorem State.Canonical.execQkickWrite {page : HostAt} {q : Nat} {val : DWord} {s : State} (hs : s.Canonical) : NextCanonical
    (execQkickWrite page q val s) := by
  unfold Machine.execQkickWrite
  split
  · exact hs.next
  · exact hs.kick.next

protected theorem State.Canonical.execQkickLowWrite {page : HostAt} {q : Nat} {val : Word} {s : State} (hs : s.Canonical)
    : NextCanonical
    (execQkickLowWrite page q val s) := by
  unfold Machine.execQkickLowWrite
  split
  · exact hs.next
  · exact hs.setKick.next

protected theorem State.Canonical.execQkickHighWrite {page : HostAt} {q : Nat} {val : Word} {s : State} (hs : s.Canonical)
    : NextCanonical
    (execQkickHighWrite page q val s) := by
  unfold Machine.execQkickHighWrite
  split
  · exact hs.next
  · split
    · exact hs.kick.next
    · exact hs.next

protected theorem State.Canonical.execSentryWrite {page : HostAt} {val : DWord} {s : State} (hs : s.Canonical) : NextCanonical
    (execSentryWrite page val s) := by
  unfold Machine.execSentryWrite
  split
  · exact hs.next
  · split
    · exact hs.updCtx.next
    · exact hs.next

protected theorem State.Canonical.execScfgWrite {page : HostAt} {val : Word} {s : State} (hs : s.Canonical) : NextCanonical
    (execScfgWrite
    page val s) := by
  unfold Machine.execScfgWrite
  extract_lets
  split
  · split
    · exact hs.next
    · exact hs.updCtx.next
  · exact hs.next

protected theorem State.Canonical.execMsixUnmask {fn : HostAt} {vec : Nat} {s : State} (hs : s.Canonical) : NextCanonical
    (execMsixUnmask
    fn vec s) := by
  unfold Machine.execMsixUnmask
  split
  · exact hs.next
  · exact (hs.msixEntryWrite fun _ => hs.maskEntry).next

protected theorem State.Canonical.execFrozenSetWrite {fn off : Nat} {val : Word} {s : State} (hs : s.Canonical) : NextCanonical
    (execFrozenSetWrite fn off val s) := by
  unfold Machine.execFrozenSetWrite
  split
  · exact hs.next
  · split
    · exact hs.sriovWrite.next
    · split
      · exact hs.next
      · exact (hs.frozenWrite hs.setVf).next

protected theorem State.Canonical.execRootCtxNew {rec : List Word} {s : State} (hs : s.Canonical) : NextCanonical
    (execRootCtxNew rec s) :=
    by
  unfold Machine.execRootCtxNew
  exact hs.asRoot fun _ => hs.ctxNew

protected theorem State.Canonical.execRootCtxRun {child : Nat} {rec : List Word} {s : State} (hs : s.Canonical) : NextCanonical
    (execRootCtxRun child rec s) := by
  unfold Machine.execRootCtxRun
  exact hs.asRoot fun _ => hs.ctxRun

protected theorem State.Canonical.execRootCtxStop {child : Nat} {kind deadline : Word} {s : State} (hs : s.Canonical) : NextCanonical
    (execRootCtxStop child kind deadline s) := by
  unfold Machine.execRootCtxStop
  exact hs.asRoot fun _ => hs.ctxStop

protected theorem State.Canonical.execRootCtxGrant {child : Nat} {rec : List Word} {s : State} (hs : s.Canonical) : NextCanonical
    (execRootCtxGrant child rec s) := by
  unfold Machine.execRootCtxGrant
  exact hs.asRoot fun _ => hs.ctxGrant

protected theorem State.Canonical.execRootCtxRevoke {child : Nat} {rec : List Word} {s : State} (hs : s.Canonical) : NextCanonical
    (execRootCtxRevoke child rec s) := by
  unfold Machine.execRootCtxRevoke
  split
  · exact hs.next
  · exact hs.asRoot fun _ => hs.ctxRevoke

protected theorem State.Canonical.execRootCtxKill {child : Nat} {s : State} (hs : s.Canonical) : NextCanonical
    (execRootCtxKill child s) :=
    by
  unfold Machine.execRootCtxKill
  split
  · exact hs.next
  · exact hs.asRoot fun _ => hs.ctxKill

protected theorem State.Canonical.execRootCtxStat {child : Nat} {s : State} (hs : s.Canonical) : NextCanonical
    (execRootCtxStat child s) :=
    by
  unfold Machine.execRootCtxStat
  exact hs.asRoot fun _ => hs.ctxStat

protected theorem State.Canonical.execTrapretCommand {seq : Nat} {pc : DWord} {fin : Bool} {s : State} (hs : s.Canonical)
    : NextCanonical
    (execTrapretCommand seq pc fin s) := by
  unfold Machine.execTrapretCommand
  split
  · exact hs.command hs
  · exact hs.command hs.trapReturn.unbind.wake

protected theorem State.Canonical.execWritePtroot {val : DWord} {s : State} (hs : s.Canonical) : NextCanonical
    (execWritePtroot val s) := by
  unfold Machine.execWritePtroot
  exact hs.command hs.updCtx

protected theorem State.Canonical.execWriteBufferEntry {idx : Nat} {rec : List Word} {s : State} (hs : s.Canonical) : NextCanonical
    (execWriteBufferEntry idx rec s) := by
  unfold Machine.execWriteBufferEntry
  extract_lets
  split
  · exact hs.next
  · refine hs.command ?_
    extract_lets
    exact (hs.same.discardWhere).wake

protected theorem State.Canonical.execWritePartitionRecord {i : Nat} {rec : List Word} {s : State} (hs : s.Canonical) : NextCanonical
    (execWritePartitionRecord i rec s) := by
  unfold Machine.execWritePartitionRecord
  exact hs.command hs.same

protected theorem State.Canonical.execEraseFlashBlocks {first count : Nat} {s : State} (hs : s.Canonical) : NextCanonical
    (execEraseFlashBlocks first count s) := by
  unfold Machine.execEraseFlashBlocks
  extract_lets
  split
  · exact hs.command hs
  · split
    · exact hs.next
    · exact hs.same.next

protected theorem State.Canonical.execWriteHrowCtl {ch : Nat} {val : Word} {s : State} (hs : s.Canonical) : NextCanonical
    (execWriteHrowCtl
    ch val s) := by
  unfold Machine.execWriteHrowCtl
  exact hs.command hs.same

protected theorem State.Canonical.execSetSaveRegionSize {bytes : Nat} {s : State} (hs : s.Canonical) : NextCanonical
    (execSetSaveRegionSize
    bytes s) := by
  unfold Machine.execSetSaveRegionSize
  exact hs.command hs.same

protected theorem State.Canonical.execReadErrorCounts {sel : Nat} {s : State} (hs : s.Canonical) : NextCanonical
    (execReadErrorCounts sel
    s) := by
  unfold Machine.execReadErrorCounts
  extract_lets
  split
  · exact hs.next
  · exact hs.same.next

protected theorem State.Canonical.execPromote {s : State} (hs : s.Canonical) : NextCanonical (execPromote s) := by
  unfold Machine.execPromote
  exact hs.command (State.Canonical.updCtx hs.same)

protected theorem State.Canonical.execGetAttestationReport {s : State} (hs : s.Canonical) : NextCanonical
    (execGetAttestationReport s) := by
  unfold Machine.execGetAttestationReport
  split
  · exact hs.next
  · exact hs.same.next

protected theorem State.Canonical.execWriteIngressEntry {rec : List Word} {s : State} (hs : s.Canonical) : NextCanonical
    (execWriteIngressEntry rec s) := by
  unfold Machine.execWriteIngressEntry
  exact hs.command hs.same

protected theorem State.Canonical.execLockInterfaceRequest {vf stream : Nat} {dbg : Bool} {s : State} (hs : s.Canonical) : NextCanonical
    (execLockInterfaceRequest vf stream dbg s) := by
  unfold Machine.execLockInterfaceRequest
  extract_lets
  split
  · exact hs.respond.next
  · split
    · exact hs.next
    · exact hs.setVf.respond.next

protected theorem State.Canonical.execStartInterfaceRequest {vf : Nat} {s : State} (hs : s.Canonical) : NextCanonical
    (execStartInterfaceRequest vf s) := by
  unfold Machine.execStartInterfaceRequest
  extract_lets
  split
  · exact hs.setVf.respond.next
  · exact hs.respond.next

protected theorem State.Canonical.execStopInterfaceRequest {vf : Nat} {s : State} (hs : s.Canonical) : NextCanonical
    (execStopInterfaceRequest vf s) := by
  unfold Machine.execStopInterfaceRequest
  extract_lets
  split
  · exact hs.respond.next
  · split
    · exact hs.next
    · exact hs.setVf.respond.next

protected theorem State.Canonical.execGetDeviceInterfaceReport {vf : Nat} {s : State} (hs : s.Canonical) : NextCanonical
    (execGetDeviceInterfaceReport vf s) := by
  unfold Machine.execGetDeviceInterfaceReport
  extract_lets
  split <;> exact hs.respond.next

protected theorem State.Canonical.execStep {c : DbgCmd} {s : State} (hs : s.Canonical) : NextCanonical (execStep c s) := by
  unfold Machine.execStep
  refine hs.onGroup fun g => ?_
  extract_lets
  split
  · exact hs.dbgReply
  · split
    · exact hs
    · exact (hs.endRun.stopThreads.updGrp).same.dbgReply

protected theorem State.Canonical.execEvent {c : DbgCmd} {s : State} (hs : s.Canonical) : NextCanonical (execEvent c s) := by
  unfold Machine.execEvent
  refine hs.onTarget fun _ => ?_
  split
  · exact hs.dbgReply
  · next w _ =>
    have ht : (Machine.dbgReply { s with dbgEvents := s.dbgEvents.erase w } c .ok (w.take 4)).Canonical := hs.same.dbgReply
    exact ht.same

/-! ## The mailbox, and the dispatch -/

protected theorem State.Canonical.mailCommand {s : State} (hs : s.Canonical) : NextCanonical (mailCommand s) := by
  unfold Machine.mailCommand
  extract_lets
  split
  · exact hs.execRootCtxNew
  · exact hs.execRootCtxRun
  · exact hs.execRootCtxStop
  · exact hs.execRootCtxGrant
  · exact hs.execRootCtxRevoke
  · exact hs.execRootCtxKill
  · exact hs.execRootCtxStat
  · exact hs.execTrapretCommand
  · exact hs.execWritePtroot
  · exact hs.execWriteBufferEntry
  · exact hs.execWritePartitionRecord
  · exact hs.execEraseFlashBlocks
  · exact hs.execWriteHrowCtl
  · exact hs.execSetSaveRegionSize
  · exact hs.execReadErrorCounts
  · exact hs.execPromote
  · exact hs.execGetAttestationReport
  · exact hs.execWriteIngressEntry
  · exact hs.reply440.next

protected theorem State.Canonical.mailTurn {s : State} (hs : s.Canonical) : NextCanonical (mailTurn s) := by
  have hm : NextCanonical (Machine.mailCommand { s with answer := [], hostif := { s.hostif with go := false } }) :=
    State.Canonical.mailCommand hs
  unfold Machine.mailTurn
  split
  · exact hs.next
  · split
    · next t e => exact (State.Canonical.ite hs (hm t e)).next
    · exact hm

protected theorem State.Canonical.mailWrite {off : Nat} {val : Word} {s : State} (hs : s.Canonical) : NextCanonical
    (mailWrite s off val) := by
  unfold Machine.mailWrite
  split
  · exact hs.next
  · split
    · exact hs.same.next
    · split
      · exact State.Canonical.mailTurn hs
      · exact hs.next

protected theorem State.Canonical.execRegisterWrite {dst : HostAt} {bar off : Nat} {val : Word} {s : State} (hs : s.Canonical) :
    NextCanonical (execRegisterWrite dst bar off val s) := by
  unfold Machine.execRegisterWrite
  extract_lets fn
  split
  · exact hs.next
  · split
    · split
      · exact (hs.msixEntryWrite fun _ => hs.msixWrite).next
      · exact hs.next
    · split
      · exact hs.next
      · exact hs.kickPageWrite.next
    · split
      · exact hs.mailWrite
      · exact hs.next
    · split
      · exact hs.same.next
      · exact hs.execFrozenSetWrite
    · exact hs.next

/-- Every instruction and every event keeps the canonical form. -/
theorem exec_canonical {s : State} (hs : s.Canonical) : ∀ i, NextCanonical (exec i s)
  | .iadd _ => .of_eq (exec_iadd ..) <| hs.execUnit fun _ _ hs => hs.threeReg
  | .isub _ => .of_eq (exec_isub ..) <| hs.execUnit fun _ _ hs => hs.threeReg
  | .imul _ => .of_eq (exec_imul ..) <| hs.execUnit fun _ _ hs => hs.threeReg
  | .imulhI32 _ => .of_eq (exec_imulhI32 ..) <| hs.execUnit fun _ _ hs => hs.threeReg
  | .imulhN32 _ => .of_eq (exec_imulhN32 ..) <| hs.execUnit fun _ _ hs => hs.threeReg
  | .imad _ => .of_eq (exec_imad ..) <| hs.execUnit fun _ _ hs => hs.threeReg
  | .iminImaxI32 _ => .of_eq (exec_iminImaxI32 ..) <| hs.execUnit fun _ _ hs => hs.threeReg
  | .iminImaxN32 _ => .of_eq (exec_iminImaxN32 ..) <| hs.execUnit fun _ _ hs => hs.threeReg
  | .and _ => .of_eq (exec_and ..) <| hs.execUnit fun _ _ hs => hs.threeReg
  | .or _ => .of_eq (exec_or ..) <| hs.execUnit fun _ _ hs => hs.threeReg
  | .xor _ => .of_eq (exec_xor ..) <| hs.execUnit fun _ _ hs => hs.threeReg
  | .andn _ => .of_eq (exec_andn ..) <| hs.execUnit fun _ _ hs => hs.threeReg
  | .iadd64 _ => .of_eq (exec_iadd64 ..) <| hs.execUnit fun _ _ hs => hs.pairReg
  | .isub64 _ => .of_eq (exec_isub64 ..) <| hs.execUnit fun _ _ hs => hs.pairReg
  | .bfx _ => .of_eq (exec_bfx ..) <| hs.execUnit fun _ _ hs => hs.threeReg
  | .bfi _ => .of_eq (exec_bfi ..) <| hs.execUnit fun _ _ hs => hs.threeReg
  | .shlImm _ => .of_eq (exec_shlImm ..) <| hs.execUnit fun _ _ hs => hs.shiftImm
  | .shlReg _ => .of_eq (exec_shlReg ..) <| hs.execUnit fun _ _ hs => hs.shiftReg
  | .shrImm _ => .of_eq (exec_shrImm ..) <| hs.execUnit fun _ _ hs => hs.shiftImm
  | .shrReg _ => .of_eq (exec_shrReg ..) <| hs.execUnit fun _ _ hs => hs.shiftReg
  | .sarImm _ => .of_eq (exec_sarImm ..) <| hs.execUnit fun _ _ hs => hs.shiftImm
  | .sarReg _ => .of_eq (exec_sarReg ..) <| hs.execUnit fun _ _ hs => hs.shiftReg
  | .rotlImm _ => .of_eq (exec_rotlImm ..) <| hs.execUnit fun _ _ hs => hs.shiftImm
  | .rotlReg _ => .of_eq (exec_rotlReg ..) <| hs.execUnit fun _ _ hs => hs.shiftReg
  | .iaddImm _ => .of_eq (exec_iaddImm ..) <| hs.execUnit fun _ _ hs => hs.immReg
  | .andImm _ => .of_eq (exec_andImm ..) <| hs.execUnit fun _ _ hs => hs.immReg
  | .orImm _ => .of_eq (exec_orImm ..) <| hs.execUnit fun _ _ hs => hs.immReg
  | .xorImm _ => .of_eq (exec_xorImm ..) <| hs.execUnit fun _ _ hs => hs.immReg
  | .movi _ => .of_eq (exec_movi ..) <| hs.execUnit fun _ _ hs => hs.writeLanes.ok
  | .movhi _ => .of_eq (exec_movhi ..) <| hs.execUnit fun _ _ hs => hs.writeLanes.ok
  | .lea _ => .of_eq (exec_lea ..) <| hs.execUnit fun _ _ hs => hs.writeLanes.ok
  | .isetpI32 _ => .of_eq (exec_isetpI32 ..) <| hs.execUnit fun _ _ hs => hs.writePreds.ok
  | .isetpN32 _ => .of_eq (exec_isetpN32 ..) <| hs.execUnit fun _ _ hs => hs.writePreds.ok
  | .fsetp _ => .of_eq (exec_fsetp ..) <| hs.execUnit fun _ _ hs => hs.writePreds.ok
  | .plop _ => .of_eq (exec_plop ..) <| hs.execUnit fun _ _ hs => hs.writePreds.ok
  | .ppack _ => .of_eq (exec_ppack ..) <| hs.execUnit fun _ _ hs => hs.writeLanes.ok
  | .punpk _ => .of_eq (exec_punpk ..) <| hs.execUnit fun _ _ hs => hs.updAct.ok
  | .cmov _ => .of_eq (exec_cmov ..) <| hs.execUnit fun _ _ hs => hs.updGrp.ok
  | .fadd _ => .of_eq (exec_fadd ..) <| hs.execUnit fun _ _ hs => hs.threeReg
  | .fsub _ => .of_eq (exec_fsub ..) <| hs.execUnit fun _ _ hs => hs.threeReg
  | .fmul _ => .of_eq (exec_fmul ..) <| hs.execUnit fun _ _ hs => hs.threeReg
  | .ffma _ => .of_eq (exec_ffma ..) <| hs.execUnit fun _ _ hs => hs.threeReg
  | .ffms _ => .of_eq (exec_ffms ..) <| hs.execUnit fun _ _ hs => hs.threeReg
  | .fnfma _ => .of_eq (exec_fnfma ..) <| hs.execUnit fun _ _ hs => hs.threeReg
  | .fminFmax _ => .of_eq (exec_fminFmax ..) <| hs.execUnit fun _ _ hs => hs.threeReg
  | .fscb _ => .of_eq (exec_fscb ..) <| hs.execUnit fun _ _ hs => hs.threeReg
  | .hadd2Bf16 _ => .of_eq (exec_hadd2Bf16 ..) <| hs.execUnit fun _ _ hs => hs.threeReg
  | .hadd2F16 _ => .of_eq (exec_hadd2F16 ..) <| hs.execUnit fun _ _ hs => hs.threeReg
  | .hmul2Bf16 _ => .of_eq (exec_hmul2Bf16 ..) <| hs.execUnit fun _ _ hs => hs.threeReg
  | .hmul2F16 _ => .of_eq (exec_hmul2F16 ..) <| hs.execUnit fun _ _ hs => hs.threeReg
  | .hfma2Bf16 _ => .of_eq (exec_hfma2Bf16 ..) <| hs.execUnit fun _ _ hs => hs.threeReg
  | .hfma2F16 _ => .of_eq (exec_hfma2F16 ..) <| hs.execUnit fun _ _ hs => hs.threeReg
  | .hmin2Hmax2Bf16 _ => .of_eq (exec_hmin2Hmax2Bf16 ..) <| hs.execUnit fun _ _ hs => hs.threeReg
  | .hmin2Hmax2F16 _ => .of_eq (exec_hmin2Hmax2F16 ..) <| hs.execUnit fun _ _ hs => hs.threeReg
  | .not _ => .of_eq (exec_not ..) <| hs.execUnit fun _ _ hs => hs.oneReg
  | .neg _ => .of_eq (exec_neg ..) <| hs.execUnit fun _ _ hs => hs.oneReg
  | .iabs _ => .of_eq (exec_iabs ..) <| hs.execUnit fun _ _ hs => hs.oneReg
  | .popc _ => .of_eq (exec_popc ..) <| hs.execUnit fun _ _ hs => hs.oneReg
  | .clz _ => .of_eq (exec_clz ..) <| hs.execUnit fun _ _ hs => hs.oneReg
  | .brev _ => .of_eq (exec_brev ..) <| hs.execUnit fun _ _ hs => hs.oneReg
  | .sext8 _ => .of_eq (exec_sext8 ..) <| hs.execUnit fun _ _ hs => hs.oneReg
  | .sext16 _ => .of_eq (exec_sext16 ..) <| hs.execUnit fun _ _ hs => hs.oneReg
  | .zext8 _ => .of_eq (exec_zext8 ..) <| hs.execUnit fun _ _ hs => hs.oneReg
  | .zext16 _ => .of_eq (exec_zext16 ..) <| hs.execUnit fun _ _ hs => hs.oneReg
  | .fneg _ => .of_eq (exec_fneg ..) <| hs.execUnit fun _ _ hs => hs.oneReg
  | .fabs _ => .of_eq (exec_fabs ..) <| hs.execUnit fun _ _ hs => hs.oneReg
  | .frint _ => .of_eq (exec_frint ..) <| hs.execUnit fun _ _ hs => hs.oneReg
  | .fexpx _ => .of_eq (exec_fexpx ..) <| hs.execUnit fun _ _ hs => hs.oneReg
  | .cvt _ => .of_eq (exec_cvt ..) <| hs.execUnit fun _ _ hs => hs.writeLanes.ok
  | .rcpe _ => .of_eq (exec_rcpe ..) <| hs.execUnit fun _ _ hs => hs.estimate
  | .rsqe _ => .of_eq (exec_rsqe ..) <| hs.execUnit fun _ _ hs => hs.estimate
  | .ex2e _ => .of_eq (exec_ex2e ..) <| hs.execUnit fun _ _ hs => hs.estimate
  | .lg2e _ => .of_eq (exec_lg2e ..) <| hs.execUnit fun _ _ hs => hs.estimate
  | .sinpe _ => .of_eq (exec_sinpe ..) <| hs.execUnit fun _ _ hs => hs.estimate
  | .cospe _ => .of_eq (exec_cospe ..) <| hs.execUnit fun _ _ hs => hs.estimate
  | .tanhe _ => .of_eq (exec_tanhe ..) <| hs.execUnit fun _ _ hs => hs.estimate
  | .bxq _ => .of_eq (exec_bxq ..) <| hs.execUnit fun _ _ hs => hs.writeLanes.ok
  | .bxd _ => .of_eq (exec_bxd ..) <| hs.execUnit fun _ _ hs => hs.oneReg
  | .mov _ => .of_eq (exec_mov ..) <| hs.execUnit fun _ _ hs => hs.oneReg
  | .srd _ => .of_eq (exec_srd ..) <| hs.execUnit fun _ _ hs => hs.writeLanes.ok
  | .swr _ => .of_eq (exec_swr ..) <| hs.execUnit fun _ _ hs => hs.updAct.ok
  | .mskr _ => .of_eq (exec_mskr ..) <| hs.execUnit fun _ _ hs => hs.writeLanes.ok
  | .mskw _ => .of_eq (exec_mskw ..) hs.execMskw
  | .mskp _ => .of_eq (exec_mskp ..) <| hs.execUnit fun _ _ hs => hs.writePreds.ok
  | .pmsk _ => .of_eq (exec_pmsk ..) <| hs.execUnit fun _ _ hs => hs.setMask.wake.ok
  | .br _ => .of_eq (exec_br ..) <| hs.execUnit fun _ _ hs => hs.updAct.ok
  | .call _ => .of_eq (exec_call ..) <| hs.execUnit fun _ _ hs => hs.updAct.ok
  | .nop _ => .of_eq (exec_nop ..) <| hs.execUnit fun _ _ hs => hs.ok
  | .exit _ => .of_eq (exec_exit ..) <| hs.execUnit fun _ _ hs => hs.exitEffect.ok
  | .ret _ => .of_eq (exec_ret ..) <| hs.execUnit fun _ _ hs => hs.jumpLanes
  | .jidx _ => .of_eq (exec_jidx ..) <| hs.execUnit fun _ _ hs => hs.jumpLanes
  | .brk _ => .of_eq (exec_brk ..) <| hs.execUnit fun _ _ hs => .ite hs.ok .trap
  | .trap _ => .of_eq (exec_trap ..) <| hs.execUnit fun _ _ hs => .ite hs.ok .trap
  | .jenr _ => .of_eq (exec_jenr ..) <| hs.execUnit fun _ _ hs => hs.setMask.wake.ok
  | .jwait _ => .of_eq (exec_jwait ..) <| hs.execUnit fun _ _ hs => .ite .trap hs.closeRegion.updGrp.wake.ok
  | .ldB _ => .of_eq (exec_ldB ..) <| hs.execUnit fun _ _ hs => hs.loadGlobal
  | .ldH _ => .of_eq (exec_ldH ..) <| hs.execUnit fun _ _ hs => hs.loadGlobal
  | .ldW _ => .of_eq (exec_ldW ..) <| hs.execUnit fun _ _ hs => hs.loadGlobal
  | .ldD _ => .of_eq (exec_ldD ..) <| hs.execUnit fun _ _ hs => hs.loadGlobal
  | .ldQ _ => .of_eq (exec_ldQ ..) <| hs.execUnit fun _ _ hs => hs.loadGlobal
  | .stB _ => .of_eq (exec_stB ..) <| hs.execUnit fun _ _ hs => hs.storeGlobal
  | .stH _ => .of_eq (exec_stH ..) <| hs.execUnit fun _ _ hs => hs.storeGlobal
  | .stW _ => .of_eq (exec_stW ..) <| hs.execUnit fun _ _ hs => hs.storeGlobal
  | .stD _ => .of_eq (exec_stD ..) <| hs.execUnit fun _ _ hs => hs.storeGlobal
  | .stQ _ => .of_eq (exec_stQ ..) <| hs.execUnit fun _ _ hs => hs.storeGlobal
  | .lds _ => .of_eq (exec_lds ..) hs.execLds
  | .sts _ => .of_eq (exec_sts ..) <| hs.execUnit fun _ _ hs => hs.bufferStores
  | .ldp _ => .of_eq (exec_ldp ..) hs.execLdp
  | .stp _ => .of_eq (exec_stp ..) <| hs.execUnit fun _ _ hs => hs.bufferStores
  | .tld _ => .of_eq (exec_tld ..) hs.execTld
  | .tst _ => .of_eq (exec_tst ..) hs.execTst
  | .prfL1 _ => .of_eq (exec_prfL1 ..) <| hs.execUnit fun _ _ hs => hs.eachLine fun _ _ _ hs => hs.fillL2.fillL1
  | .prfL2 _ => .of_eq (exec_prfL2 ..) <| hs.execUnit fun _ _ hs => hs.eachLine fun _ _ _ hs => hs.fillL2
  | .cctlInv1 _ => .of_eq (exec_cctlInv1 ..) <| hs.execUnit fun _ _ hs => hs.eachLine fun _ _ _ hs => hs.dropL1
  | .cctlInva _ => .of_eq (exec_cctlInva ..) <| hs.execUnit fun _ _ hs => (State.Canonical.ite hs hs.same).ok
  | .cctlWb _ => .of_eq (exec_cctlWb ..) <| hs.execUnit fun _ _ hs => hs.eachLine fun _ _ _ hs => hs.writeBack
  | .cctlWbi _ => .of_eq (exec_cctlWbi ..) <| hs.execUnit fun _ _ hs => hs.eachLine fun _ _ _ hs => hs.writeBack
  | .atomAdd _ => .of_eq (exec_atomAdd ..) <| hs.execUnit fun _ _ hs => hs.atomTyped
  | .atomMin _ => .of_eq (exec_atomMin ..) <| hs.execUnit fun _ _ hs => hs.atomTyped
  | .atomMax _ => .of_eq (exec_atomMax ..) <| hs.execUnit fun _ _ hs => hs.atomTyped
  | .atomAnd _ => .of_eq (exec_atomAnd ..) <| hs.execUnit fun _ _ hs => hs.atomBits
  | .atomOr _ => .of_eq (exec_atomOr ..) <| hs.execUnit fun _ _ hs => hs.atomBits
  | .atomXor _ => .of_eq (exec_atomXor ..) <| hs.execUnit fun _ _ hs => hs.atomBits
  | .atomXchg _ => .of_eq (exec_atomXchg ..) <| hs.execUnit fun _ _ hs => hs.atomBits
  | .atomCas _ => .of_eq (exec_atomCas ..) <| hs.execUnit fun _ _ hs => hs.atomic
  | .stm _ => .of_eq (exec_stm ..) hs.execStm
  | .fence _ => .of_eq (exec_fence ..) <| hs.execUnit fun _ _ hs => (State.Canonical.ite hs.closeRegion.same
      hs.closeRegion).parkAct.ok
  | .wait _ => .of_eq (exec_wait ..) <| hs.execUnit fun _ _ hs => hs.closeRegion.parkAct.wake.ok
  | .waita _ => .of_eq (exec_waita ..) hs.execWaita
  | .bar _ => .of_eq (exec_bar ..) <| hs.execUnit fun _ _ hs => .ite .trap hs.closeRegion.arrive.parkAct.wake.ok
  | .barPe _ => .of_eq (exec_barPe ..) <| hs.execUnit fun _ _ hs => .ite .trap hs.closeRegion.arrive.parkAct.wake.ok
  | .bara _ => .of_eq (exec_bara ..) <| hs.execUnit fun _ _ hs => .ite .trap hs.closeRegion.arrive.updAct.wake.ok
  | .barw _ => .of_eq (exec_barw ..) <| hs.execUnit fun _ _ hs => .ite .trap hs.closeRegion.updAct.ok
  | .cbar _ => .of_eq (exec_cbar ..) hs.execCbar
  | .rgn _ => .of_eq (exec_rgn ..) <| hs.execUnit fun _ _ hs => hs.closeRegion.ok
  | .rgncnt _ => .of_eq (exec_rgncnt ..) <| hs.execUnit fun _ _ hs => hs.writeLanes.ok
  | .shfl _ => .of_eq (exec_shfl ..) <| hs.execUnit fun _ _ hs => hs.writeLanes.ok
  | .voteAny _ => .of_eq (exec_voteAny ..) <| hs.execUnit fun _ _ hs => hs.writePreds.ok
  | .voteAll _ => .of_eq (exec_voteAll ..) <| hs.execUnit fun _ _ hs => hs.writePreds.ok
  | .voteBallot _ => .of_eq (exec_voteBallot ..) <| hs.execUnit fun _ _ hs => hs.writeLanes.ok
  | .gredAdd _ => .of_eq (exec_gredAdd ..) <| hs.execUnit fun _ _ hs => hs.gred
  | .gredMin _ => .of_eq (exec_gredMin ..) <| hs.execUnit fun _ _ hs => hs.gred
  | .gredMax _ => .of_eq (exec_gredMax ..) <| hs.execUnit fun _ _ hs => hs.gred
  | .rdef _ => .of_eq (exec_rdef ..) hs.execRdef
  | .rop _ => .of_eq (exec_rop ..) <| hs.execUnit fun _ _ hs => hs.remote
  | .ropr _ => .of_eq (exec_ropr ..) <| hs.execUnit fun _ _ hs => hs.remote
  | .btxStart _ => .of_eq (exec_btxStart ..) hs.execBtxStart
  | .btxStat _ => .of_eq (exec_btxStat ..) <| hs.execUnit fun _ _ hs => hs.writeLanes.ok
  | .tcopy _ => .of_eq (exec_tcopy ..) hs.execTcopy
  | .amtest _ => .of_eq (exec_amtest ..) hs.execAmtest
  | .amsg _ => .of_eq (exec_amsg ..) hs.execAmsg
  | .amh _ => .of_eq (exec_amh ..) <| hs.execUnit fun _ _ hs => .ite hs.ok (.ite .trap (.ite .trap (.ite .trap
      hs.updAct.amhWake.ok)))
  | .launch _ => .of_eq (exec_launch ..) hs.execLaunch
  | .mma _ => .of_eq (exec_mma ..) hs.execMma
  | .mloop _ => .of_eq (exec_mloop ..) hs.execMloop
  | .mstr _ => .of_eq (exec_mstr ..) <| hs.execUnit fun _ _ hs => .ite hs.ok (.ite .trap (.ite .trap hs.updGrp.ok))
  | .aclr _ => .of_eq (exec_aclr ..) <| hs.execUnit fun _ _ hs => .ite .trap (hs.tileWrite fun _ _ hs => hs.updBlk)
  | .aread _ => .of_eq (exec_aread ..) <| hs.execUnit fun _ _ hs => .ite .trap (State.Canonical.ite hs.addPends.updAct
      hs.addPends).ok
  | .awrite _ => .of_eq (exec_awrite ..) <| hs.execUnit fun _ _ hs => .ite .trap (hs.tileWrite fun _ _ hs => hs.foldl (fun _ _ hs
      => hs.updBlk fun _ => setTile_pad ..) _)
  | .ast _ => .of_eq (exec_ast ..) hs.execAst
  | .ald _ => .of_eq (exec_ald ..) hs.execAld
  | .mburst _ => .of_eq (exec_mburst ..) <| hs.execUnit fun _ _ hs => .ite hs.ok hs.rampStart.setRamp.ok
  | .csrr _ => .of_eq (exec_csrr ..) hs.execCsrr
  | .csrw _ => .of_eq (exec_csrw ..) <| hs.execUnit fun _ _ hs => .ite .trap (.ite hs.closeRegion.ok (.ite .trap
      hs.closeRegion.csrWrite.ok))
  | .ctxNew _ => .of_eq (exec_ctxNew ..) <| hs.execUnit fun _ _ hs => hs.ctxRecord fun _ _ hs => hs.ctxUnit
  | .ctxRun _ => .of_eq (exec_ctxRun ..) <| hs.execUnit fun _ _ hs => hs.ctxRecord fun _ _ hs => hs.ctxUnit
  | .ctxStop _ => .of_eq (exec_ctxStop ..) <| hs.execUnit fun _ _ hs => .ite hs.closeRegion.ok hs.ctxUnit
  | .ctxGrant _ => .of_eq (exec_ctxGrant ..) <| hs.execUnit fun _ _ hs => hs.ctxRecord fun _ _ hs => hs.ctxUnit
  | .ctxRevoke _ => .of_eq (exec_ctxRevoke ..) <| hs.execUnit fun _ _ hs => hs.ctxRecord fun _ _ hs => hs.ctxUnit
  | .ctxKill _ => .of_eq (exec_ctxKill ..) <| hs.execUnit fun _ _ hs => .ite hs.closeRegion.ok hs.ctxUnit
  | .ctxStat _ => .of_eq (exec_ctxStat ..) hs.execCtxStat
  | .trapret _ => .of_eq (exec_trapret ..) hs.execTrapret
  | .tlbinvPage _ => .of_eq (exec_tlbinvPage ..) <| hs.execUnit fun _ _ hs => hs.tlbinv
  | .tlbinvCtx _ => .of_eq (exec_tlbinvCtx ..) <| hs.execUnit fun _ _ hs => hs.tlbinv
  | .tlbinvSubtree _ => .of_eq (exec_tlbinvSubtree ..) <| hs.execUnit fun _ _ hs => hs.tlbinv
  | .frmstat _ => .of_eq (exec_frmstat ..) hs.execFrmstat
  | .guard _ => .of_eq (exec_guard ..) hs.pfxWord
  | .block _ => .of_eq (exec_block ..) hs.pfxWord
  | .mod _ => .of_eq (exec_mod ..) hs.pfxWord
  | .mxsc _ => .of_eq (exec_mxsc ..) hs.pfxWord
  | .imm _ => .of_eq (exec_imm ..) hs.pfxWord
  | .illegalWord _ => .of_eq (exec_illegalWord ..) hs.execIllegalWord
  | .issueArbitration _ _ => .of_eq (exec_issueArbitration ..) hs.execIssueArbitration
  | .runTimeLimit _ _ => .of_eq (exec_runTimeLimit ..) hs.execRunTimeLimit
  | .pathStarved _ _ => .of_eq (exec_pathStarved ..) hs.execPathStarved
  | .longLatencyResult _ _ _ _ => .of_eq (exec_longLatencyResult ..) hs.execLongLatencyResult
  | .blockPlace _ _ _ => .of_eq (exec_blockPlace ..) hs.execBlockPlace
  | .blockRetire _ => .of_eq (exec_blockRetire ..) hs.execBlockRetire
  | .gridLeaveQueue _ _ => .of_eq (exec_gridLeaveQueue ..) hs.execGridLeaveQueue
  | .hostListRead _ _ => .of_eq (exec_hostListRead ..) hs.execHostListRead
  | .gridComplete _ => .of_eq (exec_gridComplete ..) hs.execGridComplete
  | .gridEnd _ => .of_eq (exec_gridEnd ..) hs.execGridEnd
  | .supervisorStart _ _ => .of_eq (exec_supervisorStart ..) hs.execSupervisorStart
  | .amAdmit _ => .of_eq (exec_amAdmit ..) hs.execAmAdmit
  | .amHandlerStart _ _ => .of_eq (exec_amHandlerStart ..) hs.execAmHandlerStart
  | .amComplete _ => .of_eq (exec_amComplete ..) hs.execAmComplete
  | .trapDelivery _ => .of_eq (exec_trapDelivery ..) hs.execTrapDelivery
  | .trapHandlerStart _ _ => .of_eq (exec_trapHandlerStart ..) hs.execTrapHandlerStart
  | .cocoonSave _ => .of_eq (exec_cocoonSave ..) hs.execCocoonSave
  | .cocoonRestore _ _ => .of_eq (exec_cocoonRestore ..) hs.execCocoonRestore
  | .blockSave _ => .of_eq (exec_blockSave ..) hs.execBlockSave
  | .gracefulDeadline _ => .of_eq (exec_gracefulDeadline ..) hs.execGracefulDeadline
  | .sliceExpiry _ => .of_eq (exec_sliceExpiry ..) hs.execSliceExpiry
  | .vacateComplete _ => .of_eq (exec_vacateComplete ..) hs.execVacateComplete
  | .waySweepComplete _ => .of_eq (exec_waySweepComplete ..) hs.execWaySweepComplete
  | .frameScrubStart _ _ => .of_eq (exec_frameScrubStart ..) hs.execFrameScrubStart
  | .frameScrubComplete _ _ => .of_eq (exec_frameScrubComplete ..) hs.execFrameScrubComplete
  | .cxidRelease _ => .of_eq (exec_cxidRelease ..) hs.execCxidRelease
  | .btRecordStart _ => .of_eq (exec_btRecordStart ..) hs.execBtRecordStart
  | .btChunkLanded _ _ => .of_eq (exec_btChunkLanded ..) hs.execBtChunkLanded
  | .btRecordComplete _ => .of_eq (exec_btRecordComplete ..) hs.execBtRecordComplete
  | .btRecordFault _ => .of_eq (exec_btRecordFault ..) hs.execBtRecordFault
  | .btOperationComplete _ => .of_eq (exec_btOperationComplete ..) hs.execBtOperationComplete
  | .sequencerStart _ _ => .of_eq (exec_sequencerStart ..) hs.execSequencerStart
  | .matrixStep _ _ _ => .of_eq (exec_matrixStep ..) hs.execMatrixStep
  | .matrixOpComplete _ _ => .of_eq (exec_matrixOpComplete ..) hs.execMatrixOpComplete
  | .rampupDone _ _ => .of_eq (exec_rampupDone ..) hs.execRampupDone
  | .rampdownStart _ _ => .of_eq (exec_rampdownStart ..) hs.execRampdownStart
  | .rampdownDone _ _ => .of_eq (exec_rampdownDone ..) hs.execRampdownDone
  | .ruAdmit _ => .of_eq (exec_ruAdmit ..) hs.execRuAdmit
  | .ruCombine _ _ => .of_eq (exec_ruCombine ..) hs.execRuCombine
  | .ruApply _ => .of_eq (exec_ruApply ..) hs.execRuApply
  | .ropComplete _ => .of_eq (exec_ropComplete ..) hs.execRopComplete
  | .roprResult _ => .of_eq (exec_roprResult ..) hs.execRoprResult
  | .rdefComplete _ => .of_eq (exec_rdefComplete ..) hs.execRdefComplete
  | .requestAdmission _ => .of_eq (exec_requestAdmission ..) hs.execRequestAdmission
  | .sliceRequestAdmit _ _ => .of_eq (exec_sliceRequestAdmit ..) hs.execSliceRequestAdmit
  | .requestRetry _ => .of_eq (exec_requestRetry ..) hs.execRequestRetry
  | .memoryReply _ => .of_eq (exec_memoryReply ..) hs.execMemoryReply
  | .channelAccess _ _ _ => .of_eq (exec_channelAccess ..) hs.execChannelAccess
  | .hrowWindowEnd _ => .of_eq (exec_hrowWindowEnd ..) hs.same.next
  | .hrowHoldEnd _ _ _ => .of_eq (exec_hrowHoldEnd ..) hs.same.next
  | .patrolRead _ _ _ => .of_eq (exec_patrolRead ..) hs.execPatrolRead
  | .cxlTimeout _ => .of_eq (exec_cxlTimeout ..) hs.execCxlTimeout
  | .linkTimeout _ => .of_eq (exec_linkTimeout ..) hs.execLinkTimeout
  | .flashEraseComplete _ => .of_eq (exec_flashEraseComplete ..) hs.execFlashEraseComplete
  | .fenceComplete _ _ => .of_eq (exec_fenceComplete ..) hs.execFenceComplete
  | .tlbinvComplete _ _ => .of_eq (exec_tlbinvComplete ..) hs.execTlbinvComplete
  | .waitaSatisfied _ _ => .of_eq (exec_waitaSatisfied ..) hs.execWaitaSatisfied
  | .watchdog _ _ => .of_eq (exec_watchdog ..) hs.execWatchdog
  | .debugHoldTimeout => .of_eq (exec_debugHoldTimeout ..) hs.execDebugHoldTimeout
  | .l1FusionChange _ => .of_eq (exec_l1FusionChange ..) hs.execL1FusionChange
  | .flr _ => .of_eq (exec_flr ..) hs.execFlr
  | .flrComplete _ => .of_eq (exec_flrComplete ..) hs.execFlrComplete
  | .coldReset _ => .of_eq (exec_coldReset ..) hs.coldState.next
  | .recoveryImage _ => .of_eq (exec_recoveryImage ..) hs.execRecoveryImage
  | .thermalThrottle _ => .of_eq (exec_thermalThrottle ..) hs.same.next
  | .thermalStop => .of_eq (exec_thermalStop ..) hs.execThermalStop
  | .bridgeFailure => .of_eq (exec_bridgeFailure ..) hs.execBridgeFailure
  | .linkUp _ _ => .of_eq (exec_linkUp ..) hs.execLinkUp
  | .linkDown _ => .of_eq (exec_linkDown ..) <| ((((hs.same).foldl (fun _ _ hs => hs.peerFail) _)).foldl (fun _ _ hs =>
      hs.ruPeerFail) _).next
  | .peerRequest _ _ _ _ _ => .of_eq (exec_peerRequest ..) hs.execPeerRequest
  | .hostMemoryAccess _ _ _ _ => .of_eq (exec_hostMemoryAccess ..) hs.execHostMemoryAccess
  | .ideIntegrityFailure _ => .of_eq (exec_ideIntegrityFailure ..) <| (hs.foldl (fun _ _ hs => hs.startFlr) _).next
  | .qkickWrite _ _ _ => .of_eq (exec_qkickWrite ..) hs.execQkickWrite
  | .qkickLowWrite _ _ _ => .of_eq (exec_qkickLowWrite ..) hs.execQkickLowWrite
  | .qkickHighWrite _ _ _ => .of_eq (exec_qkickHighWrite ..) hs.execQkickHighWrite
  | .sentryWrite _ _ => .of_eq (exec_sentryWrite ..) hs.execSentryWrite
  | .scfgWrite _ _ => .of_eq (exec_scfgWrite ..) hs.execScfgWrite
  | .vfEnableSet => .of_eq (exec_vfEnableSet ..) <| (State.Canonical.ite hs hs.enableVfs).next
  | .vfEnableClear => .of_eq (exec_vfEnableClear ..) hs.disableVfs.next
  | .msixUnmask _ _ => .of_eq (exec_msixUnmask ..) hs.execMsixUnmask
  | .frozenSetWrite _ _ _ => .of_eq (exec_frozenSetWrite ..) hs.execFrozenSetWrite
  | .registerWrite _ _ _ _ => .of_eq (exec_registerWrite ..) hs.execRegisterWrite
  | .lockInterfaceRequest _ _ _ => .of_eq (exec_lockInterfaceRequest ..) hs.execLockInterfaceRequest
  | .startInterfaceRequest _ => .of_eq (exec_startInterfaceRequest ..) hs.execStartInterfaceRequest
  | .stopInterfaceRequest _ => .of_eq (exec_stopInterfaceRequest ..) hs.execStopInterfaceRequest
  | .getDeviceInterfaceReport _ => .of_eq (exec_getDeviceInterfaceReport ..) hs.execGetDeviceInterfaceReport
  | .rootCtxNew _ => .of_eq (exec_rootCtxNew ..) hs.execRootCtxNew
  | .rootCtxRun _ _ => .of_eq (exec_rootCtxRun ..) hs.execRootCtxRun
  | .rootCtxStop _ _ _ => .of_eq (exec_rootCtxStop ..) hs.execRootCtxStop
  | .rootCtxGrant _ _ => .of_eq (exec_rootCtxGrant ..) hs.execRootCtxGrant
  | .rootCtxRevoke _ _ => .of_eq (exec_rootCtxRevoke ..) hs.execRootCtxRevoke
  | .rootCtxKill _ => .of_eq (exec_rootCtxKill ..) hs.execRootCtxKill
  | .rootCtxStat _ => .of_eq (exec_rootCtxStat ..) hs.execRootCtxStat
  | .trapretCommand _ _ _ => .of_eq (exec_trapretCommand ..) hs.execTrapretCommand
  | .writePtroot _ => .of_eq (exec_writePtroot ..) hs.execWritePtroot
  | .writeBufferEntry _ _ => .of_eq (exec_writeBufferEntry ..) hs.execWriteBufferEntry
  | .writePartitionRecord _ _ => .of_eq (exec_writePartitionRecord ..) hs.execWritePartitionRecord
  | .eraseFlashBlocks _ _ => .of_eq (exec_eraseFlashBlocks ..) hs.execEraseFlashBlocks
  | .writeHrowCtl _ _ => .of_eq (exec_writeHrowCtl ..) hs.execWriteHrowCtl
  | .setSaveRegionSize _ => .of_eq (exec_setSaveRegionSize ..) hs.execSetSaveRegionSize
  | .readErrorCounts _ => .of_eq (exec_readErrorCounts ..) hs.execReadErrorCounts
  | .promote => .of_eq (exec_promote ..) hs.execPromote
  | .getAttestationReport => .of_eq (exec_getAttestationReport ..) hs.execGetAttestationReport
  | .writeIngressEntry _ => .of_eq (exec_writeIngressEntry ..) hs.execWriteIngressEntry
  | .attach _ => .of_eq (exec_attach ..) <| hs.onTarget fun _ => hs.same.dbgReply
  | .detach _ => .of_eq (exec_detach ..) <| hs.onTarget fun _ => hs.same.dbgReply
  | .halt _ => .of_eq (exec_halt ..) <| hs.onGroup fun _ => (hs.foldl (fun _ _ hs => hs.haltGroup) _).dbgReply
  | .resume _ => .of_eq (exec_resume ..) <| hs.onGroup fun _ => hs.updGrp.dbgReply
  | .step _ => .of_eq (exec_step ..) hs.execStep
  | .restart _ => .of_eq (exec_restart ..) <| hs.onGroup fun _ => .ite hs.dbgReply hs.endRun.updGrp.dbgReply
  | .rdreg _ => .of_eq (exec_rdreg ..) hs.regCommand
  | .wrreg _ => .of_eq (exec_wrreg ..) hs.regCommand
  | .rdmem _ => .of_eq (exec_rdmem ..) <| hs.memCommand fun _ _ hs => hs.same.dbgReply
  | .wrmem _ => .of_eq (exec_wrmem ..) <| hs.memCommand fun _ _ hs => hs.writeMem.wake.dbgReply
  | .event _ => .of_eq (exec_event ..) hs.execEvent
  | .spdmAttestationRequest => .of_eq (exec_spdmAttestationRequest ..) hs.respond.same.next

/-! ## A step -/

protected theorem NextCanonical.afterClk {core part : Nat} {cost : State → Nat} {o : Host.Outcome State Fault Refusal}
    (ho : NextCanonical o) : NextCanonical (afterClk core part cost o) := by
  cases o with
  | next s => exact (ho s rfl).occupy.next
  | fault => exact .fault
  | refused => exact .refused

protected theorem State.Canonical.issueUnit {r : Run} {u : Issue} {s : State} (hs : s.Canonical) : NextCanonical (issueUnit r u s) := by
  unfold Machine.issueUnit
  split
  · exact hs.raise.next
  · split
    · exact hs.next
    · exact (exec_canonical hs.fetched _).afterClk

protected theorem State.Canonical.issueWord {core part : Nat} {s : State} (hs : s.Canonical) : NextCanonical
    (issueWord core part s) := by
  unfold Machine.issueWord
  split
  · exact hs.next
  · extract_lets t
    have ht : t.Canonical := hs
    split
    · split
      · exact ht.endRunAt.next
      · exact ht.issueUnit
    · exact ht.endRunAt.next

/-- Each turn that a step may take keeps the canonical form. -/
theorem runTurn_canonical {s : State} (hs : s.Canonical) : ∀ t, NextCanonical (runTurn t s)
  | .ev i => exec_canonical (s := { s with cur := none }) hs i
  | .issue _ _ => hs.issueWord
  | .pass _ => hs.pass.next
  | .detect _ _ => hs.detect.next
  | .fail _ => hs.failTurn.next
  | .missLoad _ _ => hs.updReq.next
  | .missFetch _ _ _ => State.Canonical.next hs
  | .evictL1 _ => State.Canonical.next hs
  | .evictTlb _ => hs.dropEnt.next
  | .keepWalk _ _ => hs.keepWalk.next
  | .held => hs.retryHeld
  | .copy _ _ _ => hs.copyTurn.next
  | .context op => by
    refine State.Canonical.next ?_
    split
    · exact hs.tryCtx
    · exact hs
  | .trapret _ _ => hs.trapretTurn.next
  | .mailbox => hs.mailTurn

/-- Settles O58: a step runs the turn that is due, on a state with the same memory and scratchpads, and each turn keeps the
form. -/
theorem stepKeepsMemoryCanonical : Obligations.stepKeepsMemoryCanonical := by
  unfold Obligations.stepKeepsMemoryCanonical
  intro s t hs ht
  unfold step at ht
  split at ht
  · next d rest _ => exact runTurn_canonical (s := { s with agenda := rest }) hs d t ht
  · exact runTurn_canonical hs _ t ht

end Sys2Proof.Machine
end

section
/-! Control registers (R340, R341, Table 16-4): what CSRR reads and what CSRW writes. -/

namespace Sys2Proof.Machine

set_option Elab.async false

/-! ## The registers of a unit's context -/

/-- The word of a register that a unit reads, if its context is there and the register is one of Table 16-4. -/
def csrKnown (u : Issue) (s : State) (n : Nat) : Option Word := (s.ctx? u.grp.cxid).bind fun c => csrRead s u.grp c n

theorem csrKnown_advance {i : Instr} {u : Issue} {s : State} (h : s.issue? = some u) (n : Nat) :
    csrKnown u (advance i u s) n = csrKnown u s n := by
  rw [advance_only h]
  rfl

/-- What a write makes of the context (Table 16-4); read-only registers and reserved bits keep their values. -/
def csrCtx (n : Nat) (x : Word) (c : Ctx) : Ctx := match n with
  | 2 => { c with sdbg := x.getLsbD 31, fper := x.toNat % 256 }
  | 4 => { c with tvec := c.tvec.extractLsb' 32 32 ++ x }
  | 5 => { c with tvec := x ++ c.tvec.extractLsb' 0 32 }
  | 6 => { c with rulogBase := c.rulogBase.extractLsb' 32 32 ++ x }
  | 7 => { c with rulogBase := x ++ c.rulogBase.extractLsb' 0 32 }
  | _ => c

/-- What a write makes of the trap record that is bound to the group. -/
def csrRec (n : Nat) (x : Word) (r : TrapRec) : TrapRec := match n with
  | 0x33 => { r with pc := r.pc.extractLsb' 32 32 ++ x }
  | 0x34 => { r with pc := x ++ r.pc.extractLsb' 0 32 }
  | 0x35 => { r with act := x &&& 1 }
  | _ => r

/-- The trap records after a write. -/
def csrRecs (s : State) (g : Group) (n : Nat) (x : Word) : List TrapRec := match boundRec s g with
  | none => s.recs
  | some b => s.recs.map fun r => if r.dest = b.dest ∧ r.seq = b.seq then csrRec n x r else r

theorem bitOf_toNat (x : Word) (k : Nat) : bitOf x.toNat k = x.getLsbD k := by
  rw [bitOf, BitVec.getLsbD, Nat.testBit_eq_decide_div_mod_eq, Nat.shiftRight_eq_div_pow]
  exact beq_eq_decide ..

theorem csrCtx_of_not_mem {n : Nat} (h : n ∉ [2, 4, 5, 6, 7]) (x : Word) : csrCtx n x = id := by
  funext c
  unfold csrCtx
  split
  case h_6 => rfl
  all_goals exact absurd h (by simp)

theorem csrRec_of_not_mem {n : Nat} (h : n ∉ [0x33, 0x34, 0x35]) (x : Word) : csrRec n x = id := by
  funext r
  unfold csrRec
  split
  case h_4 => rfl
  all_goals exact absurd h (by simp)

theorem updCtx_id (s : State) (c : Nat) : s.updCtx c id = s := by
  simp [State.updCtx]

theorem csrRecs_of_not_mem {n : Nat} (h : n ∉ [0x33, 0x34, 0x35]) (s : State) (g : Group) (x : Word) : csrRecs s g n x = s.recs := by
  rw [csrRecs, csrRec_of_not_mem h]
  cases boundRec s g <;> simp

theorem updBound_eq (s : State) (g : Group) (n : Nat) (x : Word) : updBound s g (csrRec n x) = { s with recs := csrRecs s g n x } := by
  unfold updBound csrRecs
  cases boundRec s g with
  | none => rfl
  | some b => simp

theorem csrRecs_congr {s t : State} (hr : t.recs = s.recs) (g : Group) (n : Nat) (x : Word) : csrRecs t g n x = csrRecs s g n x := by
  rw [csrRecs, csrRecs, boundRec_congr hr rfl rfl rfl, hr]

/-- A write changes the context's register, or that of the record that is bound to the group, and nothing else (R340, R341). -/
theorem csrWrite_eq (s : State) (g : Group) (n : Nat) (x : Word) : csrWrite s g n x =
    { s.updCtx g.cxid (csrCtx n x) with recs := csrRecs s g n x } := by
  by_cases hc : n ∈ [2, 4, 5, 6, 7]
  · rw [csrRecs_of_not_mem (by simp at hc ⊢; omega)]
    have h2 : csrCtx 2 x = fun c => { c with sdbg := bitOf x.toNat 31, fper := bitsOf x.toNat 0 8 } := by
      funext c
      rw [bitOf_toNat]
      rfl
    fin_cases hc
    · rw [h2]; rfl
    all_goals rfl
  · rw [csrCtx_of_not_mem hc, updCtx_id, ← updBound_eq]
    by_cases hr : n ∈ [0x33, 0x34, 0x35]
    · fin_cases hr <;> rfl
    · have hid : updBound s g id = s := by
        rw [← csrRec_of_not_mem hr x, updBound_eq, csrRecs_of_not_mem hr]
      rw [csrRec_of_not_mem hr, hid]
      unfold csrWrite
      split
      case h_9 => rfl
      all_goals simp at hc hr

/-! ## CSRW -/

/-- A commit, and then a change of the contexts and of the trap records. -/
theorem Commits.ctxs {i : Instr} {u : Issue} {s t : State} {n : Nat} {more : List Req} {G : Group → Group}
    {f : Nat → Thread → Thread} (h : Commits i u s t n more G f) (cs : List Ctx) (rs : List TrapRec) :
    Commits i u s { t with ctxs := cs, recs := rs } n more G f :=
  ⟨⟨h.1.others, h.1.group⟩, h.2⟩

theorem csrUnknown {i : Instr} {u : Issue} {s : State} {n : Nat} (h : s.issue? = some u) :
    (((advance i u s).ctx? u.grp.cxid).bind fun c => csrRead (advance i u s) u.grp c n).isNone = true ↔ csrKnown u s n = none := by
  rw [← csrKnown_advance (i := i) h]
  exact Option.isNone_iff_eq_none

/-- A CSRW that passes its checks commits and writes its register (R341). -/
theorem csrw_writes {o : CWF} {u : Issue} {s : State} (h : Issues (.csrw o) u s) (hk : csrKnown u s o.csr.toNat ≠ none)
    (ha : u.act ≠ []) (hodd : ¬((o.csr.toNat = 4 ∧ (u.rd s u.low o.r.toNat).toNat % 4 ≠ 0) ∨
      (o.csr.toNat = 6 ∧ (u.rd s u.low o.r.toNat).toNat % 4096 ≠ 0))) :
    Ends (.csrw o) u s fun t => ∃ n, t = { afterCommit (.csrw o) u s t n with ctxs := t.ctxs, recs := t.recs } ∧
      Commits (.csrw o) u s t n [] id (fun _ th => th) ∧
      t.ctxs = ((s.leave u.grp.cxid (freedWords (.csrw o) u)).updCtx u.grp.cxid (csrCtx o.csr.toNat (u.rd s u.low o.r.toNat))).ctxs ∧
      t.recs = csrRecs s u.grp o.csr.toNat (u.rd s u.low o.r.toNat) := by
  obtain ⟨n, only, commits⟩ := closeRegion_commits (i := .csrw o) h.1
  have hcs := congrArg State.ctxs only
  have hrs := congrArg State.recs only
  refine ends_of h (exec_csrw o s) (s1 := csrWrite (closeRegion u (advance (.csrw o) u s)) u.grp o.csr.toNat (u.rd s u.low o.r.toNat))
    ?_ ⟨n, ?_, ?_, ?_, ?_⟩
  · simp only [rd_advance]
    rw [if_neg (mt (csrUnknown h.1).1 hk), if_neg (by simpa using ha), if_neg hodd]
  · rw [csrWrite_eq, only]
    rfl
  · rw [csrWrite_eq]
    exact commits.ctxs _ _
  · rw [csrWrite_eq]
    simp only [State.updCtx, hcs]
    rfl
  · rw [csrWrite_eq]
    exact csrRecs_congr (hrs.trans rfl) ..

/-! ## Statement -/

/-- Settles O33: CSRR gives results in the active lanes, and CSRW is a commit and then `csrWrite_eq`. -/
theorem controlRegisterAccess : Obligations.controlRegisterAccess := by
  unfold Obligations.controlRegisterAccess
  intro known bad
  refine ⟨fun o u s h => ⟨fun x hx => ?reads, fun hn => ?noRead⟩,
    fun o u s h => ⟨fun hn => ?noWrite, fun hk ha hodd => ?odd, fun hk ha => ?idle, fun hk ha hodd => ?writes⟩⟩
  case reads =>
    have hx : csrKnown u (advance (.csrr o) u s) o.csr.toNat = some x := (csrKnown_advance h.1 _).trans hx
    rw [exec_csrr, execCsrr]
    refine lanes_of u.act (fun _ => [(o.r.toNat, x)]) h rfl rfl ?_
    rw [csrKnown] at hx
    simp only [hx]
    rfl
  case noRead =>
    have hn : csrKnown u (advance (.csrr o) u s) o.csr.toNat = none := (csrKnown_advance h.1 _).trans hn
    refine (exec_csrr o s).trans (execUnit_trap h ?_)
    rw [csrKnown] at hn
    simp only [hn]
    rfl
  case noWrite =>
    refine (exec_csrw o s).trans (execUnit_trap h ?_)
    exact if_pos (csrUnknown h.1 |>.2 hn)
  case odd =>
    refine (exec_csrw o s).trans (execUnit_trap h ?_)
    simp only [rd_advance]
    rw [if_neg (mt (csrUnknown h.1).1 hk), if_neg (by simpa using ha), if_pos hodd]
    rfl
  case idle =>
    obtain ⟨n, only, commits⟩ := closeRegion_commits (i := .csrw o) h.1
    refine ends_of h (exec_csrw o s) ?_ ⟨n, only, commits⟩
    dsimp only
    rw [if_neg (mt (csrUnknown h.1).1 hk), if_pos (by simpa using ha)]
  case writes =>
    obtain ⟨t, e, n, only, commits, hctxs, hrecs⟩ := csrw_writes h hk ha hodd
    refine ⟨t, e, n, only, commits, hctxs.trans ?_, ?_⟩
    · refine congrArg (fun f => (s.leave u.grp.cxid (freedWords (.csrw o) u)).ctxs.map f) (funext fun c => ?_)
      by_cases hc : c.cxid = u.grp.cxid
      · rw [if_pos (by simpa using hc), if_neg (by simpa using hc)]
        rfl
      · rw [if_neg (by simpa using hc), if_pos hc]
    · rw [csrRecs] at hrecs
      split
      · next hb => simpa only [hb] using hrecs
      · next b hb =>
        simp only [hb] at hrecs
        exact hrecs
end Sys2Proof.Machine
end

section
/-! The context engine (R342, R344, R346 to R352): what an operation that is refused changes, whom an operation names, and the
engine's turn. -/

namespace Sys2Proof.Machine

set_option Elab.async false

/-! ## Answers of the engine -/

/-- An answer with a code other than DONE leaves the state as it is, and one with DONE meets `P` (R342). -/
def CtxAns.Sound (s : State) (P : CtxAns → Prop) (a : CtxAns) : Prop := (a.code ≠ 0 → a.st = s) ∧ (a.code = 0 → P a)

section
variable {s : State} {P : CtxAns → Prop}

theorem CtxAns.sound_fail {c : Nat} (d : Nat) (hc : c ≠ 0) : (ctxFail s c d).Sound s P :=
  ⟨fun _ => rfl, fun h => absurd h hc⟩

theorem CtxAns.sound_done {a : CtxAns} (hc : a.code = 0) (hp : P a) : a.Sound s P := ⟨fun h => absurd hc h, fun _ => hp⟩

end

/-- A child that an operation names: a context whose parent is the issuer (R344). -/
def IsChild (s : State) (i : Ctx) (vb : Nat) : Prop :=
  vb < 65536 ∧ ∃ x, s.ctx? vb = some x ∧ x.parent = i.cxid ∧ x.level ≠ 0

theorem isChild_of_childOf {s : State} {i x : Ctx} {vb : Nat} (h : childOf s i.cxid vb = some x) : IsChild s i vb := by
  unfold childOf at h
  split at h
  · cases h
  · next hv =>
    obtain ⟨y, hy, hx⟩ := Option.bind_eq_some_iff.1 h
    split at hx
    · next hp =>
      cases hx
      simp only [Bool.and_eq_true, beq_iff_eq, bne_iff_ne] at hp
      exact ⟨by omega, x, hy, hp⟩
    · cases hx

section
variable (s : State) (i : Ctx) (vb : Nat) (r : List Word)

theorem ctxRun_sound : (ctxRun s i vb r).Sound s fun _ => IsChild s i vb := by
  unfold ctxRun
  split
  · exact CtxAns.sound_fail 0 (by decide)
  · split
    · exact CtxAns.sound_fail 0 (by decide)
    · next x hx =>
      extract_lets set
      split
      · exact CtxAns.sound_fail 0 (by decide)
      · split
        · exact CtxAns.sound_fail 0 (by decide)
        · split
          · exact CtxAns.sound_fail 0 (by decide)
          · split
            · exact CtxAns.sound_fail 0 (by decide)
            · exact CtxAns.sound_done rfl (isChild_of_childOf hx)

theorem ctxStop_sound (kind deadline : Nat) : (ctxStop s i vb kind deadline).Sound s fun _ => IsChild s i vb := by
  unfold ctxStop
  split
  · exact CtxAns.sound_fail 0 (by decide)
  · split
    · exact CtxAns.sound_fail 0 (by decide)
    · next x hx =>
      have hc := isChild_of_childOf hx
      split
      · exact CtxAns.sound_fail 0 (by decide)
      all_goals exact CtxAns.sound_done rfl hc

theorem ctxGrant_sound : (ctxGrant s i vb r).Sound s fun _ => IsChild s i vb := by
  unfold ctxGrant
  obtain ⟨budget, hb⟩ : ∃ b, grantBudget = b := ⟨_, rfl⟩
  rw [hb]
  split
  · exact CtxAns.sound_fail 0 (by decide)
  · split
    · exact CtxAns.sound_fail 0 (by decide)
    · next x hx =>
      dsimp only
      split
      · exact CtxAns.sound_fail _ (by decide)
      · split
        · exact CtxAns.sound_fail 0 (by decide)
        · split
          · exact CtxAns.sound_fail 0 (by decide)
          · exact CtxAns.sound_done rfl (isChild_of_childOf hx)

theorem ctxRevoke_sound : (ctxRevoke s i vb r).Sound s fun _ => IsChild s i vb := by
  unfold ctxRevoke
  split
  · exact CtxAns.sound_fail 0 (by decide)
  · split
    · exact CtxAns.sound_fail 0 (by decide)
    · next x hx =>
      dsimp only
      split
      · exact CtxAns.sound_fail _ (by decide)
      · split
        · exact CtxAns.sound_fail 0 (by decide)
        · exact CtxAns.sound_done rfl (isChild_of_childOf hx)

theorem ctxKill_sound : (ctxKill s i vb).Sound s fun _ => IsChild s i vb := by
  unfold ctxKill
  split
  · exact CtxAns.sound_fail 0 (by decide)
  · next x hx =>
    split
    · exact CtxAns.sound_fail 0 (by decide)
    · exact CtxAns.sound_done rfl (isChild_of_childOf hx)

theorem ctxStat_sound : (ctxStat s i vb).Sound s fun _ => IsChild s i vb := by
  unfold ctxStat
  split
  · exact CtxAns.sound_fail 0 (by decide)
  · next x hx => exact CtxAns.sound_done rfl (isChild_of_childOf hx)

end

/-! ## CTX.NEW -/

/-- A number that is free is one of 16 bits, is not that of the root, and names no context. -/
theorem freeCxid_spec {s : State} {n : Nat} (h : freeCxid s = some n) : s.ctx? n = none ∧ 0 < n ∧ n < 65536 := by
  have hp := List.find?_some h
  obtain ⟨k, -, rfl⟩ := List.mem_map.1 (List.mem_of_find?_eq_some h)
  simp only [Bool.and_eq_true, decide_eq_true_eq, Option.isNone_iff_eq_none] at hp
  exact ⟨hp.2, Nat.succ_pos k, hp.1⟩

theorem firstFail_eq_none {l : List (Nat × Bool)} : firstFail l = none ↔ ∀ e ∈ l, e.2 = true := by
  induction l with
  | nil => simp [firstFail]
  | cons e l ih =>
    unfold firstFail
    rw [List.forall_mem_cons, ← ih]
    cases e.2 <;> simp

/-- What CTX.NEW keeps within its issuer's: cores, ways, frames and burst (R346). -/
theorem newBudget_none {s : State} {i x : Ctx} (h : newBudget s i x = none) : x.cores &&& ~~~i.cores = 0 ∧
    x.wmask &&& ~~~i.wmask = 0 ∧ fcommit s i.cxid + x.fbud ≤ i.fbud ∧ x.tburst ≤ i.tburst := by
  have h := firstFail_eq_none.1 h
  simp only [List.forall_mem_cons, within, beq_iff_eq, decide_eq_true_eq] at h
  obtain ⟨hcores, hways, hframes, -, -, -, hburst, -⟩ := h
  exact ⟨hcores, hways, hframes, hburst⟩

/-- The context that CTX.NEW makes (R346). -/
def MadeChild (s : State) (i : Ctx) (a : CtxAns) : Prop :=
  ∃ x, a.st.ctxs = s.ctxs ++ [x] ∧ x.cxid = a.value ∧ s.ctx? x.cxid = none ∧ 0 < x.cxid ∧ x.cxid < 65536 ∧ x.parent = i.cxid ∧
    x.level = i.level + 1 ∧ i.level ≠ 7 ∧ x.state = .created ∧ x.cores &&& ~~~i.cores = 0 ∧ x.wmask &&& ~~~i.wmask = 0 ∧
    fcommit s i.cxid + x.fbud ≤ i.fbud ∧ x.tburst ≤ i.tburst

theorem ctxNew_sound (s : State) (i : Ctx) (r : List Word) : (ctxNew s i r).Sound s (MadeChild s i) := by
  unfold ctxNew
  extract_lets x
  split
  · exact CtxAns.sound_fail 0 (by decide)
  · split
    · exact CtxAns.sound_fail _ (by decide)
    · next hb =>
      split
      · exact CtxAns.sound_fail 0 (by decide)
      · next h7 =>
        split
        · exact CtxAns.sound_fail 0 (by decide)
        · next n hn =>
          obtain ⟨hnone, hpos, hlt⟩ := freeCxid_spec hn
          obtain ⟨hcores, hways, hframes, hburst⟩ := newBudget_none hb
          have made (a : CtxAns) (hs : a.st.ctxs = s.ctxs ++ [{ x with cxid := n }]) (hv : a.value = n) : MadeChild s i a :=
            ⟨_, hs, hv.symm, hnone, hpos, hlt, rfl, rfl, h7, rfl, hcores, hways, hframes, hburst⟩
          extract_lets s'
          split
          · split
            · exact CtxAns.sound_fail 0 (by decide)
            · exact CtxAns.sound_done rfl (made _ rfl rfl)
          · exact CtxAns.sound_done rfl (made _ rfl rfl)

/-! ## The engine's turn -/

theorem runTurn_context {s : State} {r : CtxReq} (hf : (s.ctxops.find? fun x => x.id == r.id) = some r) (hr : ctxReady s r = true) :
    runTurn (.context r.id) s = .next (runCtx s r) := by
  simp [runTurn, hf, tryCtx, hr]

/-- An operation without an image gives its threads its status word, and what the engine knows (R344). -/
theorem runCtx_of_no_image {s : State} {r : CtxReq} {x : Ctx} (hx : s.ctx? r.cxid = some x)
    (hi : (ctxStep { s with ctxops := s.ctxops.filter fun x => x.id != r.id } x r).image = []) :
    let a := ctxStep { s with ctxops := s.ctxops.filter fun x => x.id != r.id } x r
    runCtx s r = wake (a.st.updGrp r.gid fun g => g.updThrs r.tids fun th => (th.status r a.word).learn r.id a.st.allWrites) := by
  have hx : ({ s with ctxops := s.ctxops.filter fun x => x.id != r.id } : State).ctx? r.cxid = some x := hx
  simp only [runCtx, hx, hi, storeImage, List.isEmpty_nil, if_true]

/-! ## Statement -/

/-- Settles O35: each operation's answer is sound, and the engine's turn is `runCtx`. -/
theorem contextEngineChecks : Obligations.contextEngineChecks := by
  unfold Obligations.contextEngineChecks
  intro s i vb k d r
  refine ⟨?refused, ?child, (ctxNew_sound s i r).2, fun r _ hf hr => ⟨runTurn_context hf hr, ?turn⟩⟩
  case refused =>
    simp only [List.forall_mem_cons]
    exact ⟨(ctxNew_sound s i r).1, (ctxRun_sound s i vb r).1, (ctxStop_sound s i vb k d).1, (ctxGrant_sound s i vb r).1,
      (ctxRevoke_sound s i vb r).1, (ctxKill_sound s i vb).1, (ctxStat_sound s i vb).1, by simp⟩
  case child =>
    simp only [List.forall_mem_cons]
    exact ⟨(ctxRun_sound s i vb r).2, (ctxStop_sound s i vb k d).2, (ctxGrant_sound s i vb r).2,
      (ctxRevoke_sound s i vb r).2, (ctxKill_sound s i vb).2, (ctxStat_sound s i vb).2, by simp⟩
  case turn =>
    intro s1 x hx a hi
    have ha : ctxStep s1 x r = a := by
      cases hk : r.kind <;> simp only [ctxStep, a, hk]
    have h := runCtx_of_no_image hx (r := r) (ha ▸ hi)
    rw [h, ha]
    rfl

end Sys2Proof.Machine
end

section
/-! Queues, host lists, grids that are done, and writes to a kick page (R312, R315, R400 to R406, R441). -/

namespace Sys2Proof.Machine

set_option Elab.async false

/-! ## The head of a queue (R312, R315, R403) -/

section
variable {s : State} {cx q : Nat} {c : Ctx} {w : List Word} {p : Spot}

theorem examined_of_dispatches (h : dispatches s cx = true) : examined s cx q = s.updCtx cx fun c =>
    { c with pendBits := c.pendBits &&& ~~~((1 : DWord) <<< q) } := if_pos h

/-- What a dependence word has to be (R403). -/
theorem depHolds_of {x : Nat} (h1 : lrDcond w = 1 → x = lrDval w) (h2 : lrDcond w = 2 → lrDval w ≤ x) : depHolds w x = true := by
  unfold depHolds
  split
  · next h => simpa using h1 h
  · split
    · next h => simpa using h2 h
    · rfl

section
variable (hc : s.ctx? cx = some c) (hw : headRecord (queueOf c q) = some w) (hwait : headWaits s (queueOf c q) = false)
  (hd : dispatches s cx = true)
include hc hw hwait hd

theorem execGridLeaveQueue_of_unplaced (hp : predecessorsPlaced s cx q = false) :
    execGridLeaveQueue cx q s = .next (examined s cx q) := by
  simp [execGridLeaveQueue, hc, hw, hwait, hd, hp]

variable (hp : predecessorsPlaced s cx q = true) (ht : trapHeld s (.queue cx q) = false)
include hp ht

theorem execGridLeaveQueue_of_free (h0 : lrDcond w = 0) (hf : coresFit s cx w = true) : execGridLeaveQueue cx q s =
    .next (mkGrid (setQueue s cx q (popQueue (queueOf c q))) cx q w 0 (headSeen s (queueOf c q))) := by
  simp [execGridLeaveQueue, hc, hw, hwait, hd, hp, ht, h0, hf]

theorem execGridLeaveQueue_of_dependence (h0 : lrDcond w ≠ 0) (hl : loadAt s cx (lrDaddr w) 4 = .ok p)
    (hx : depHolds w (leNat ((touch s p).readBuf p.b p.off 4)) = true) (hf : coresFit (touch s p) cx w = true) :
    execGridLeaveQueue cx q s = .next (mkGrid (setQueue (touch s p) cx q (popQueue (queueOf c q))) cx q w 0
      ((headSeen (touch s p) (queueOf c q)).join
        (readFrom (touch s p) {} 1 5 (readBefore (touch s p) { b := p.b, off := p.off, n := 4 } 0 []).2))) := by
  simp [execGridLeaveQueue, hc, hw, hwait, hd, hp, ht, h0, hl, hx, hf]

end

/-! ## Host lists (R404, R405) -/

variable {a : DWord} {l : List QEntry}

/-- The record at the head of a host list that is read, accepted or not. -/
theorem execHostListRead_of_read (hc : s.ctx? cx = some c) (hq : queueOf c q = .host none a false :: l) (hd : dispatches s cx = true)
    (ht : trapHeld s (.queue cx q) = false) (ha : canonical a = true) (hm : a.toNat % 128 = 0) (hk : hasTokens s cx 4 = true)
    (hr : readRec s cx a 128 = .ok (w, p)) : execHostListRead cx q s =
      if launchCheck c q w = 0 then .next (setQueue (takeTokens (touch s p) cx 4) cx q (.host (some w) (lrNext w) false :: l))
      else .next (mkGrid (setQueue (takeTokens (touch s p) cx 4) cx q
        (popQueue (.host (some w) (lrNext w) false :: l))) cx q w (launchCheck c q w)) := by
  simp [execHostListRead, hc, hq, hd, ht, ha, hm, hk, hr]

end

/-! ## Grids that are done (R406) -/

/-- The word of a grid that is done is written where its address names a place, and nothing is written where it is 0. -/
def WordPut (g : Grid) (s : State) (va : DWord) (w : Word) (t : State) : Prop := (va = 0 ∧ t = s) ∨
  (va ≠ 0 ∧ va.toNat % 4 = 0 ∧ ∃ p, storeAt s g.cxid va 4 = .ok p ∧ t = (touch s p).writeMem p.b p.off (leBytes 4 w.toNat)
    { rels := [{ scope := 5, who := {}, base := s.nextId }] })

theorem gridWord_of_put {g : Grid} {s t : State} {va : DWord} {w : Word} (h : WordPut g s va w t) : gridWord s g va w = (t, true) := by
  obtain ⟨rfl, rfl⟩ | ⟨h0, hm, p, hp, rfl⟩ := h
  · rfl
  · simp only [gridWord, if_neg h0, if_neg (not_not.2 hm), hp]

theorem execGridComplete_of_done {gr : Nat} {s s0 s2 : State} {g : Grid} (hg : s.grid? gr = some g) (hw : g.waits = false)
    (ht : trapHeld s (.grid gr) = false) (hd : gridDone s g = true) (h0 : g.phase ≠ 0 → s0 = s)
    (h0' : g.phase = 0 → WordPut g s (lrSaddr g.lrec) (statusWord g) s0)
    (h2 : 2 ≤ g.phase → s2 = s0.updGrid gr fun x => { x with phase := max 1 g.phase })
    (h2' : g.phase < 2 → WordPut g (s0.updGrid gr fun x => { x with phase := max 1 g.phase }) (lrCaddr g.lrec) (lrCval g.lrec) s2) :
    let t := if lrIrq g.lrec then sendIrq s2 (irqFn s2 g.cxid) (lrVec g.lrec) else s2
    execGridComplete gr s = .next { t with grids := t.grids.filter fun x => x.gr != gr } := by
  have first : (if g.phase = 0 then gridWord s g (lrSaddr g.lrec) (statusWord g) else (s, true)) = (s0, true) := by
    split
    · next h => exact gridWord_of_put (h0' h)
    · next h => rw [h0 h]
  have second : (if g.phase < 2 then gridWord (s0.updGrid gr fun x => { x with phase := max 1 g.phase }) g (lrCaddr g.lrec) (lrCval g.lrec)
      else (s0.updGrid gr fun x => { x with phase := max 1 g.phase }, true)) = (s2, true) := by
    split
    · next h => exact gridWord_of_put (h2' h)
    · next h => rw [h2 (Nat.not_lt.1 h)]
  simp only [execGridComplete, hg, hw, ht, hd, Bool.or_self, Bool.not_true, Bool.false_eq_true, if_false, first, second]

/-! ## The kick page (R400, R402, R441) -/

section
variable {s : State} {page q : Nat} {tee : Option Nat} {x : Ctx}

theorem kickDropped_eq_false : kickDropped s ⟨page, tee⟩ q = false ↔
    q < 64 ∧ pageCtx s page ≠ none ∧ teeTaken s (pageFn page) tee = true := by
  simp [kickDropped, and_assoc, Option.isSome_iff_ne_none]

theorem kickDropped_of_tee (h : teeTaken s (pageFn page) tee = false) : kickDropped s ⟨page, tee⟩ q = true := by
  simp [kickDropped, h]

theorem pageCtx_of_live (h : pageLive s page = some x) : pageCtx s page ≠ none := by
  rintro hn
  simp [pageLive, hn] at h

/-- A kick to a page with a live context. -/
theorem kick_of_live (h : pageLive s page = some x) (a : DWord) :
    let s0 := s.setKick { s.kick page q with latch := none }
    kick s page q a =
      if x.nq ≤ q then { s0 with kerr := if s.kerr.contains page then s.kerr else page :: s.kerr }
      else if a.toNat % 128 ≠ 0 || !canonical a then s0.setKick { s0.kick page q with bad := true }
      else if 1024 ≤ ((assoc q x.queues).getD []).length then s0.setKick { s0.kick page q with ovf := true }
      else s0.updCtx x.cxid fun c => { c with
        queues := assocSet q ((assoc q x.queues).getD [] ++ [.host none a false]) c.queues
        pendBits := if s.runset x.cxid = 0 then c.pendBits ||| ((1 : DWord) <<< q) else c.pendBits } := by
  have h0 : pageLive (s.setKick { s.kick page q with latch := none }) page = some x := h
  have hr : (s.setKick { s.kick page q with latch := none }).runset x.cxid = s.runset x.cxid := rfl
  simp only [kick, h0, hr, beq_iff_eq]
  rfl

/-- The fields of SCFG (R402). -/
theorem bitsOf_high (w : Word) : bitsOf w.toNat 30 2 = w.toNat / 2 ^ 30 := by
  have := w.isLt
  rw [bitsOf, Nat.shiftRight_eq_div_pow]
  omega

theorem bitsOf_mid (w : Word) : bitsOf w.toNat 26 4 = w.toNat / 2 ^ 26 % 16 := by
  rw [bitsOf, Nat.shiftRight_eq_div_pow]
  rfl

end

/-! ## Statement -/

/-- Settles O45: one equation for each event, by the branch that its premises select. -/
theorem queueEvents_hold : Obligations.queueEvents := by
  unfold Obligations.queueEvents
  refine ⟨fun cx q s c w hc hw hwait hd => ⟨fun hp => ?unplaced, fun hp ht => ⟨fun h0 hf => ?free, fun p h0 hl => ?dependence⟩⟩,
    fun cx q a s c l w p hc hq hd ht ha hm hk hr => ?hostList,
    fun gr s s0 s1 s2 g hg hw ht hd => ?complete,
    fun page q val tee s x hq hx htee => ?kick, fun page q lo hi tee s hq hx htee => ?halves,
    fun page q val w tee s htee => ?untaken, fun page val w tee s x hx htee => ?config⟩
  case unplaced => rw [exec_gridLeaveQueue, execGridLeaveQueue_of_unplaced hc hw hwait hd hp, examined_of_dispatches hd]
  case free => exact (exec_gridLeaveQueue ..).trans (execGridLeaveQueue_of_free hc hw hwait hd hp ht h0 hf)
  case dependence =>
    intro x h1 h2 hf
    exact (exec_gridLeaveQueue ..).trans (execGridLeaveQueue_of_dependence hc hw hwait hd hp ht h0 hl (depHolds_of h1 h2) hf)
  case hostList =>
    have h := (exec_hostListRead cx q s).trans (execHostListRead_of_read hc hq hd ht ha hm hk hr)
    exact ⟨fun hz => h.trans (if_pos hz), fun hz => h.trans (if_neg hz)⟩
  case complete =>
    intro put h0 h0' h1 h2 h2'
    have hword : statusWord g = BitVec.ofNat 32 (g.reject * 2 ^ 16 + (match g.ending with
        | some k => k
        | none => 0) * 2 ^ 8 + (if g.nofuse then 2 else 0) + 1) := by
      unfold statusWord
      cases g.ending <;> rfl
    subst h1
    exact ⟨_, (exec_gridComplete gr s).trans (execGridComplete_of_done hg hw ht hd h0 (fun h => hword ▸ h0' h) h2 h2'), rfl⟩
  case kick =>
    have hk : kickDropped s ⟨page, tee⟩ q = false := kickDropped_eq_false.2 ⟨hq, pageCtx_of_live hx, htee⟩
    have h : exec (.qkickWrite ⟨page, tee⟩ q val) s = .next (kick s page q val) := by simp [exec_qkickWrite, execQkickWrite, hk]
    rw [h, kick_of_live hx]
    refine ⟨fun hn => ?_, fun hn hb => ?_, fun hn ha hc hl => ?_, fun hn ha hc hl => ?_⟩
    · rw [if_pos hn]
    · rw [if_neg (Nat.not_le.2 hn), if_pos (by simpa using hb)]
    · rw [if_neg (Nat.not_le.2 hn), if_neg (by simp [ha, hc]), if_pos hl]
    · rw [if_neg (Nat.not_le.2 hn), if_neg (by simp [ha, hc]), if_neg (Nat.not_le.2 hl)]
  case halves =>
    have hk : kickDropped s ⟨page, tee⟩ q = false := kickDropped_eq_false.2 ⟨hq, hx, htee⟩
    refine ⟨?_, fun hl => ⟨kick s page q (pairOf lo hi), ?_, ?_⟩, fun hl => ?_⟩
    · simp [exec_qkickLowWrite, execQkickLowWrite, hk]
    · simp [exec_qkickHighWrite, execQkickHighWrite, hk, hl]
    · simp [exec_qkickWrite, execQkickWrite, hk]
    · simp [exec_qkickHighWrite, execQkickHighWrite, hk, hl]
  case untaken =>
    have hk : kickDropped s ⟨page, tee⟩ q = true := kickDropped_of_tee htee
    simp only [List.forall_mem_cons]
    refine ⟨?_, ?_, ?_, ?_, ?_, by simp⟩
    · simp [exec_qkickWrite, execQkickWrite, hk]
    · simp [exec_qkickLowWrite, execQkickLowWrite, hk]
    · simp [exec_qkickHighWrite, execQkickHighWrite, hk]
    · simp [exec_sentryWrite, execSentryWrite, htee]
    · rw [exec_scfgWrite, execScfgWrite]
      cases pageLive s page <;> simp [htee]
  case config =>
    refine ⟨?_, fun h3 h10 => ?_, fun hb => ?_⟩
    · simp [exec_sentryWrite, execSentryWrite, hx, htee]
    · rw [exec_scfgWrite, execScfgWrite]
      simp only [hx, bitsOf_high, bitsOf_mid]
      refine if_neg fun hb => ?_
      rcases hb with h | h | h
      · exact h3 h
      · exact absurd h (Nat.not_lt.2 h10)
      · exact absurd htee (by simp [h])
    · rw [exec_scfgWrite, execScfgWrite]
      simp only [hx, bitsOf_high, bitsOf_mid]
      rw [if_pos (hb.imp_right .inl)]

end Sys2Proof.Machine
end

section
/-! Trap delivery, groups in their frames, blocks that leave their cores, and the ends of slices, vacates and way sweeps (R347, R351,
R354, R376, R380 to R383, R385 to R389, R417). -/

namespace Sys2Proof.Machine

set_option Elab.async false

/-! ## Trap delivery (R380 to R382) -/

/-- A trap as it is recorded: with its group's count of completed prefixes, while the group is there. -/
def Trap.current (s : State) (t : Trap) : Trap := { t with instar := ((s.grp? t.gid).map Group.instar).getD t.instar }

section
variable {tr : Nat} {s : State} {t0 : Trap} (hf : s.traps.find? (fun t => t.id == tr) = some t0)
  (hd : deliverable s (t0.current s) = true)
include hf hd

theorem execTrapDelivery_of_attached (ha : attached s (t0.current s) = true) : execTrapDelivery tr s =
    .next (holdForDebugger { s with
      traps := s.traps.filter fun x => x.id != tr
      dbgEvents := s.dbgEvents ++ [trapWords (t0.current s) (t0.current s).cxid 0] } (t0.current s)) := by
  rw [Trap.current] at hd ha ⊢
  simp only [execTrapDelivery, hf, hd, ha, Bool.not_true, Bool.false_eq_true, if_false, if_true]

theorem execTrapDelivery_of_received {x : Ctx} (ha : attached s (t0.current s) = false)
    (hx : s.ctx? (receiver s (t0.current s)) = some x)
    (hl : (s.recs.filter fun r => r.dest == receiver s (t0.current s)).length < 64) :
    let t := t0.current s
    let ring : DWord := if x.rulogBase = 0 then 0 else x.rulogBase + BitVec.ofNat 64 (4096 + 64 * (x.trapSeq % 64))
    let s1 : State := { s with
      traps := s.traps.filter fun x => x.id != tr
      ctxs := s.ctxs.map fun y => if y.cxid == receiver s t then { y with trapSeq := y.trapSeq + 1 } else y
      recs := s.recs ++ [{ trap := t, dest := receiver s t, seq := x.trapSeq, ring := ring, pc := t.fpc }] }
    let s2 := ringWrite s1 (receiver s t) ring {} (trapWords t (receiver s t) x.trapSeq)
    execTrapDelivery tr s = .next (if receiver s t = 0 then sendIrq s2 0 2047 else s2) := by
  rw [Trap.current] at hd ha hx hl
  simp only [execTrapDelivery, hf, hd, ha, hx, Nat.not_le.2 hl, Bool.not_true, Bool.false_eq_true, if_false]
  rfl

end

/-! ## Groups in their frames (R376, R383) -/

section
variable {gid : Nat} {s : State} {g : Group} {h : Hold}

theorem preLanded_iff : preLanded g = true ↔ ∀ k ∈ g.live, ∀ p ∈ (g.thr k).pend, (g.thr k).rid ≤ p.id := by
  simp [preLanded]

theorem answered_iff : answered s gid = true ↔ (∀ r ∈ s.reqs, r.gid ≠ gid) ∧ ∀ r ∈ s.rus, r.gid = gid → r.sent = true := by
  simp [answered, Classical.or_iff_not_imp_left]

theorem mmaParked_eq_false : mmaParked s gid = false ↔ ∀ m ∈ s.mxs, m.gid = gid → m.mma = false := by
  simp [mmaParked]

theorem execCocoonSave_of_quiet (hg : s.grp? gid = some g) (hh : g.hold = some h) (hs : h.saved = false) (hl : preLanded g = true)
    (ha : answered s gid = true) (hm : mmaParked s gid = false) (hc : ∀ r ∈ s.ctxops, r.gid ≠ gid) : execCocoonSave gid s =
      .next (wake ((discard s gid g.live false).updGrp gid fun g => { g with hold := some { h with saved := true } })) := by
  have hops : (s.ctxops.any fun r => r.gid == gid) = false := by simpa using hc
  simp only [execCocoonSave, hg, hh, hs, hl, ha, hm, hops, Bool.not_true, Bool.or_self, Bool.false_eq_true, if_false]

section
variable (hg : s.groups.find? (fun x => x.gid == gid) = some g) (hh : g.hold = some h) (hs : h.saved = true)
  (he : ∀ x, s.grid? g.gr = some x → x.ending = none)
include hg hh hs he

/-- What a saved group that is resident, and whose grid does not end, comes to (R376, R383). -/
theorem execCocoonRestore_of_saved (bad : Bool) : execCocoonRestore gid bad s =
    if bad then .next (countErr (saveRegionError s g) 3 true)
    else match h.why with
      | .debugger resumed => .next (if resumed then leaveFrame s gid false else s)
      | .pageFault tr =>
        if s.traps.any (fun t => t.id == tr.id) || s.recs.any (fun r => r.trap.id == tr.id) then .next s
        else match compose s tr.cxid tr.faddr with
          | .ok e => .next (leaveFrame (cacheEnt s e) gid true)
          | .error f =>
            let t := { tr with id := s.nextId, cause := f.cause, cxid := f.cxid, faddr := f.va, walk := tr.walk || f.walk
                               inHandler := inHandlerOf g f.cxid, chain := masksOf s f.cxid }
            .next ({ s.walked f.reads with nextId := s.nextId + 1, traps := s.traps ++ [t] }.updGrp gid fun g =>
              { g with hold := some ⟨.pageFault t, true⟩ }) := by
  have hend : ((s.grid? g.gr).any fun x => x.ending.isSome) = false := by
    cases hx : s.grid? g.gr with
    | none => rfl
    | some x => simp [he x hx]
  rw [execCocoonRestore]
  simp only [State.grp?_of_find hg, hh, hs, any_of_find hg, hend, Bool.not_true, Bool.or_self, Bool.false_eq_true, if_false] <;> rfl

/-- The trap of a saved group's page fault that its address still meets (R376). -/
def Trap.again (s : State) (g : Group) (tr : Trap) (f : XFault) : Trap :=
  { tr with id := s.nextId, cause := f.cause, cxid := f.cxid, faddr := f.va, walk := tr.walk || f.walk
            inHandler := inHandlerOf g f.cxid, chain := masksOf s f.cxid }

theorem execCocoonRestore_of_fault {tr : Trap} (hw : h.why = .pageFault tr) (ht : ∀ t ∈ s.traps, t.id ≠ tr.id)
    (hr : ∀ r ∈ s.recs, r.trap.id ≠ tr.id) :
    (∀ e, compose s tr.cxid tr.faddr = .ok e → execCocoonRestore gid false s = .next (leaveFrame (cacheEnt s e) gid true)) ∧
    ∀ f, compose s tr.cxid tr.faddr = .error f → let t' := tr.again s g f
      execCocoonRestore gid false s = .next { s with
        nextId := s.nextId + 1, traps := s.traps ++ [t'], frames := (s.walked f.reads).frames
        groups := s.groups.map fun g => if g.gid == gid then { g with hold := some ⟨.pageFault t', true⟩ } else g } := by
  have ht : (s.traps.any fun t => t.id == tr.id) = false := by simpa using ht
  have hr : (s.recs.any fun r => r.trap.id == tr.id) = false := by simpa using hr
  rw [execCocoonRestore_of_saved hg hh hs he]
  refine ⟨fun e hc => ?_, fun f hc => ?_⟩
  · simp only [hw, ht, hr, hc, Bool.or_self, Bool.false_eq_true, if_false]
  · simp only [hw, ht, hr, hc, Bool.or_self, Bool.false_eq_true, if_false]
    obtain ⟨fr, hfr⟩ : ∃ fr, s.walked f.reads = { s with frames := fr } := ⟨_, walked_only ..⟩
    rw [hfr]
    exact congrArg Host.Outcome.next (State.updGrp_of_find _ hg)

end

end

/-! ## Blocks that leave their cores (R385 to R388) -/

/-- The frames that the save of a block's groups gives back. -/
def framesOf (gs : List Group) : Nat := ((gs.filter fun g => !g.live.isEmpty).map fun g => frameBytes g.width g.nregs).sum

/-- The device once the open regions of a block's groups that run are discarded. -/
def discardedAll (s : State) (gs : List Group) : State :=
  (gs.filter fun g => g.hold.isNone).foldl (fun s g => discard s g.gid g.live false) s

section
variable {bid : Nat} {s : State} {b : Block} {p : Pre} (hb : s.blk? bid = some b) (hp : b.pre = some p) (hs : b.saved = none)
  (hf : b.full = false)
include hb hp hs hf

theorem execBlockSave_of_full (hr : s.saveBytes < saveUsed s - framesOf (blockGroups s bid) + saveSize b (blockGroups s bid)) :
    execBlockSave bid s = .next (wake { s with
      blocks := s.blocks.map fun x => if x.bid == bid then { x with full := true, pe := none } else x
      reports := s.reports ++ [1] }) := by
  rw [framesOf] at hr
  simp only [execBlockSave, hb, hp, Block.placed, hs, hf, hr, Option.isNone_none, Bool.not_true, Bool.or_self, Bool.false_eq_true,
    if_false, if_true]
  rfl

variable (hr : saveUsed s - framesOf (blockGroups s bid) + saveSize b (blockGroups s bid) ≤ s.saveBytes) (hq : saveQuiet s b = true)
include hr hq

theorem execBlockSave_urgent (hu : p.urgent = true) {b' : Block} (hb' : (discardedAll s (blockGroups s bid)).blk? bid = some b') :
    execBlockSave bid s = .next (takeOff (discardedAll s (blockGroups s bid)) b'
      fun g => { g with threads := g.threads.map Thread.restored }) := by
  rw [framesOf] at hr
  rw [discardedAll] at hb' ⊢
  simp only [execBlockSave, hb, hp, Block.placed, hs, hf, Nat.not_lt.2 hr, hu, hq, hb', Option.isNone_none, Bool.not_true,
    Bool.or_self, Bool.false_eq_true, if_false, if_true]

theorem execBlockSave_graceful (hu : p.urgent = false) {w : List Word} (hw : b.pe = some w)
    (hg : ∀ g ∈ blockGroups s bid, g.ops = [] ∧ g.hold = none) :
    execBlockSave bid s = .next (takeOff s (gracefulBlock w b) (gracefulGroup w s.nextId
      (((b.bars.find? fun k => k.id == 16).map fun k => (arrivals s 1 k).known).getD {}))) := by
  have hall : (blockGroups s bid).all (fun g => g.ops.isEmpty && g.hold.isNone) = true := by simpa using hg
  rw [framesOf] at hr
  simp only [execBlockSave, hb, hp, Block.placed, hs, hf, Nat.not_lt.2 hr, hu, hq, hw, hall, Option.isNone_none, Bool.not_true,
    Bool.or_self, Bool.and_self, Bool.false_eq_true, if_false, if_true]

end

/-- Blocks of a context whose graceful deadline has come (R386). -/
def deadlineDue (s : State) (cx : Nat) : List Block :=
  (s.blocks.filter fun b => b.cxid == cx && b.saved.isNone).filter fun b => match b.pre with
    | some ⟨false, some k⟩ => decide (k ≤ s.clk)
    | _ => false

theorem execGracefulDeadline_of_due {cx : Nat} {s : State} (hd : deadlineDue s cx ≠ []) : execGracefulDeadline cx s = .next { s with
    blocks := s.blocks.map fun b =>
      if ((deadlineDue s cx).map Block.bid).contains b.bid && b.saved.isNone then { b with pre := some ⟨true, none⟩ } else b } := by
  have hdue : ((placedOf s cx).filter fun b => match b.pre with
      | some p => !p.urgent && (match p.deadline with
        | some k => decide (k ≤ s.clk)
        | none => false)
      | none => false) = deadlineDue s cx := by
    refine List.filter_congr fun b _ => ?_
    rcases b.pre with _ | ⟨_ | _, _ | k⟩ <;> rfl
  have he : (deadlineDue s cx).isEmpty = false := by simpa using hd
  have heq : execGracefulDeadline cx s = if (deadlineDue s cx).isEmpty then .next s
      else .next (askLeave s ((deadlineDue s cx).map Block.bid) true none) := by
    rw [← hdue]
    rfl
  rw [heq]
  simp only [he, Bool.false_eq_true, if_false, askLeave, Bool.true_or]
  rfl

/-! ## Slices, vacates and way sweeps (R347, R351, R354) -/

section
variable {cx : Nat} {s : State} {x : Ctx} (hx : s.ctx? cx = some x)
include hx

theorem execSliceExpiry_of_expired (hr : x.state = .running) (h0 : x.slice = some 0) : execSliceExpiry cx s =
    .next (stopTree (s.updCtx cx fun y => { y with slice := none }) cx x.sliceUrgent x.deadline) := by
  simp [execSliceExpiry, hx, hr, h0]

theorem execVacateComplete_of_empty (hp : x.pendVacate = true) (hr : x.revoking = 0) :
    execVacateComplete cx s = .next (s.updCtx cx fun y => { y with pendVacate := false }) := by
  simp [execVacateComplete, hx, hp, hr]

theorem execWaySweepComplete_of_applied (hw : x.sweepWays ≠ 0)
    (hr : ∀ r ∈ s.rus, r.cxid = cx → r.id < x.sweepUpto → r.applied = true) : execWaySweepComplete cx s = .next { s with
      l2 := s.l2.filter fun l => !(l.filler == cx && x.sweepWays.getLsbD l.way)
      ctxs := s.ctxs.map fun y => if y.cxid == cx then { y with sweepWays := 0, sweepUpto := 0 } else y } := by
  have hany : (s.rus.any fun r => r.cxid == cx && !r.applied && decide (r.id < x.sweepUpto)) = false := by
    simp only [List.any_eq_false, Bool.and_eq_true, beq_iff_eq, Bool.not_eq_true', decide_eq_true_eq]
    rintro r hm ⟨⟨hc, ha⟩, hlt⟩
    exact Bool.false_ne_true (ha.symm.trans (hr r hm hc hlt))
  simp only [execWaySweepComplete, hx, beq_eq_false_iff_ne.2 hw, hany, Bool.or_self, Bool.false_eq_true, if_false]
  rfl

end

/-! ## Statement -/

/-- Settles O46: one equation for each event, by the branch that its premises select. -/
theorem trapAndSaveEvents : Obligations.trapAndSaveEvents := by
  unfold Obligations.trapAndSaveEvents
  refine ⟨fun tr s t0 x hf => ?deliver, fun gid s g h hg hh hs hl hm hq hr hc => ?save, fun gid s g h hg hh hs he => ?restore,
    fun bid s b p hb hp hs hf => ?block, fun cx s => ?deadline, fun cx s x hx => ⟨fun hr h0 => ?slice, fun hp hr => ?vacate,
    fun hw hr => ?sweep⟩⟩
  case deliver =>
    intro t hd
    exact ⟨fun ha => (exec_trapDelivery tr s).trans (execTrapDelivery_of_attached hf hd ha),
      fun ha hx hl => (exec_trapDelivery tr s).trans (execTrapDelivery_of_received hf hd ha hx hl)⟩
  case save =>
    exact (exec_cocoonSave gid s).trans (execCocoonSave_of_quiet hg hh hs (preLanded_iff.2 hl) (answered_iff.2 ⟨hq, hr⟩)
      (mmaParked_eq_false.2 hm) hc)
  case restore =>
    have saved := execCocoonRestore_of_saved hg hh hs he
    refine ⟨(exec_cocoonRestore ..).trans (saved true), fun hw => ?_, fun tr hw ht hr => ?_⟩
    · rw [exec_cocoonRestore, saved, hw]
      rfl
    · obtain ⟨translates, faults⟩ := execCocoonRestore_of_fault hg hh hs he hw ht hr
      exact ⟨fun e hc => (exec_cocoonRestore ..).trans (translates e hc), fun f hc =>
        ⟨_, tr.again s g f, (exec_cocoonRestore ..).trans (faults f hc), rfl, rfl, rfl, rfl, rfl, rfl, rfl, rfl⟩⟩
  case block =>
    intro gs frames
    exact ⟨fun hr => (exec_blockSave bid s).trans (execBlockSave_of_full hb hp hs hf hr), fun hr hq =>
      ⟨fun hu b' hb' => (exec_blockSave bid s).trans (execBlockSave_urgent hb hp hs hf hr hq hu hb'),
        fun w hu hw hg => (exec_blockSave bid s).trans (execBlockSave_graceful hb hp hs hf hr hq hu hw hg)⟩⟩
  case deadline => exact fun hd => (exec_gracefulDeadline cx s).trans (execGracefulDeadline_of_due hd)
  case slice => exact (exec_sliceExpiry cx s).trans (execSliceExpiry_of_expired hx hr h0)
  case vacate => exact (exec_vacateComplete cx s).trans (execVacateComplete_of_empty hx hp hr)
  case sweep => exact (exec_waySweepComplete cx s).trans (execWaySweepComplete_of_applied hx hw hr)

end Sys2Proof.Machine
end

section
/-! Bulk transfers as their channels perform them, the scrub of freed frames, and the release of context numbers (R288 to R299, R335,
R373, R414). -/

namespace Sys2Proof.Machine

set_option Elab.async false

/-! ## Records that start (R288, R290, R414) -/

section
variable {op : Nat} {s : State} {o : BtOp} (ho : s.bt? op = some o) (hc : o.cur = none) (hf : o.fault = none) (hs : o.stop = false)
  (hw : o.waits = false) (hm : btMayStart s o = true)
include ho hc hf hs hw hm

theorem execBtRecordStart_of_tcopy {w : List Word} (ht : o.tcopy = some w) :
    execBtRecordStart op s = .next ((btCheck s o w).getD s) := by
  simp [execBtRecordStart, ho, hc, hf, hs, hw, hm, ht]

theorem execBtRecordStart_of_end (ht : o.tcopy = none) (hp : o.ptr = 0) :
    execBtRecordStart op s = .next (s.updBt op fun b => { b with stop := true, started := true }) := by
  simp [execBtRecordStart, ho, hc, hf, hs, hw, hm, ht, hp]

theorem execBtRecordStart_of_record {w : List Word} {p : Spot} (ht : o.tcopy = none) (hp : o.ptr ≠ 0) (ha : mayRead s o o.ptr = true)
    (hr : readRec s o.cxid o.ptr 64 = .ok (w, p)) : execBtRecordStart op s =
      if btOwn w then .next ((btCheck (takeTokens (touch s p) o.cxid 2) o w).getD s)
      else .next ((takeTokens (touch s p) o.cxid 2).updBt op fun b => { b with stop := true, started := true }) := by
  simp only [execBtRecordStart, ho, hc, hf, hs, hw, hm, ht, hp, ha, hr, Option.isSome_none, Bool.or_self, Bool.not_true,
    Bool.false_eq_true, if_false]
  cases btOwn w <;> rfl

end

/-! ## Chunks (R291 to R295, R299, R414) -/

section
variable {op c : Nat} {s : State} {o : BtOp} {r : BtRec}

theorem chunkDue_iff : chunkDue o r c = true ↔ o.fault = none ∧ o.waits = false ∧ c ∉ r.landed ∧ c < chunkCount r.extent := by
  simp [chunkDue, and_assoc]

theorem execBtChunkLanded_of_due (ho : s.bt? op = some o) (hr : o.cur = some r) (hd : chunkDue o r c = true) :
    execBtChunkLanded op c s = match chunkStart s o r c with
      | .error t => .next t
      | .ok (s0, q) => .next (if btKind q.w = 3 then landPage { s0 with free := s0.free + 1 } o q c
        else landChunk { s0 with free := s0.free + 1 } o q c) := by
  simp only [execBtChunkLanded, ho, hr, hd, Bool.not_true, Bool.false_eq_true, if_false] <;> rfl

/-- The reads of a channel leave all but the entries that it caches and the frames that they mark. -/
theorem readEntry_only {t : State} {q : BtRec} {j : Nat} (h : readEntry s o r j = .ok (t, q)) :
    q = { r with ents := q.ents } ∧ t = { s with tlb := t.tlb, frames := t.frames } := by
  unfold readEntry at h
  split at h
  · cases h
    exact ⟨rfl, rfl⟩
  · split at h
    · cases h
    · dsimp only at h
      split at h
      · cases h
      · cases h
        exact ⟨rfl, touch_only ..⟩

/-- Accesses of DRAM rows are counted, and nothing else changes (R431). -/
theorem activateLines_only (s : State) (cx : Nat) (ls : List (Nat × Nat)) :
    ∃ rows holds, activateLines s cx ls = { s with rows := rows, holds := holds } := by
  refine List.foldlRecOn (motive := fun t : State => ∃ rows holds, t = { s with rows := rows, holds := holds }) ls _ ⟨s.rows, s.holds, rfl⟩ ?_
  rintro _ ⟨rows, holds, rfl⟩ e -
  split
  · exact ⟨_, _, rfl⟩
  · exact ⟨rows, holds, rfl⟩

/-- A chunk that starts has its record's spaces checked and its tokens paid (R290, R414). -/
theorem chunkStart_ok {s0 : State} {q : BtRec} (h : chunkStart s o r c = .ok (s0, q)) :
    q = { r with ents := q.ents, paid := q.paid, checked := true } ∧ (r.checked = false → btSpaceBad s o.cxid r.w r.extent = false) ∧
    s0 = { s with ctxs := s0.ctxs, tlb := s0.tlb, frames := s0.frames, rows := s0.rows, holds := s0.holds } := by
  unfold chunkStart at h
  split at h
  · cases h
  · next hu =>
    split at h
    · cases h
    · next t q' hq =>
      obtain ⟨rec', only⟩ := readEntry_only hq
      dsimp only at h
      split at h
      · cases h
      · split at h
        · cases h
        · cases h
          obtain ⟨rows, holds, e⟩ := activateLines_only (takeTokens t o.cxid
            (chunkTokens q' c + (q'.ents.length - r.ents.length) - (assoc c q'.paid).getD 0)) o.cxid (chunkSpots s o q' c)
          refine ⟨by rw [rec'], fun hc => ?_, ?_⟩
          · rw [btUnchecked, hc] at hu
            by_contra hb
            simp [Bool.eq_true_of_not_eq_false hb] at hu
          · rw [e, takeTokens, only]

end

/-! ## The cuts of a chunk (R292) -/

theorem mem_cuts {m a n : Nat} {e : Nat × Nat} : e ∈ cuts m a n ↔ ∃ k < ceilDiv (a % m + n) m,
    e = (m * k - a % m, min n (m * (k + 1) - a % m) - (m * k - a % m)) := by
  simp [cuts, eq_comm]

/-- Every byte of a range is in one of its cuts. -/
theorem exists_mem_cuts {m a n i : Nat} (hm : 0 < m) (hi : i < n) : ∃ e ∈ cuts m a n, e.1 ≤ i ∧ i < e.1 + e.2 := by
  have hdiv := Nat.div_add_mod (a % m + i) m
  have hmod := Nat.mod_lt (a % m + i) hm
  generalize (a % m + i) / m = k at hdiv
  have hk : m * (k + 1) = m * k + m := Nat.mul_succ m k
  refine ⟨_, mem_cuts.2 ⟨k, ?_, rfl⟩, ?_⟩
  · rw [ceilDiv, Nat.lt_iff_add_one_le, Nat.le_div_iff_mul_le hm, Nat.mul_comm]
    omega
  · dsimp only
    omega

/-- A cut ends with its range, and stays within one unit of `m` (R292). -/
theorem cuts_within {m a n : Nat} (hm : 0 < m) {e : Nat × Nat} (he : e ∈ cuts m a n) :
    e.1 + e.2 ≤ n ∧ ∀ i < e.2, (a + e.1 + i) / m = (a + e.1) / m := by
  obtain ⟨k, hk, rfl⟩ := mem_cuts.1 he
  have ha := Nat.div_add_mod a m
  have hr := Nat.mod_lt a hm
  have hs : m * (k + 1) = m * k + m := Nat.mul_succ m k
  rw [ceilDiv, Nat.lt_iff_add_one_le, Nat.le_div_iff_mul_le hm, Nat.mul_comm] at hk
  refine ⟨by dsimp only; omega, fun i hi => ?_⟩
  dsimp only at hi ⊢
  have unit {x : Nat} (q : Nat) (h : m * q ≤ x) (h' : x < m * q + m) : x / m = q :=
    Nat.div_eq_of_lt_le (by rwa [Nat.mul_comm]) (by rwa [Nat.succ_mul, Nat.mul_comm])
  have hq : m * (a / m + k) = m * (a / m) + m * k := Nat.mul_add ..
  have hk0 : k = 0 ∨ m ≤ m * k := (Nat.eq_zero_or_pos k).imp_right fun h => Nat.le_mul_of_pos_right m h
  have h0 : k = 0 → m * k = 0 := fun h => by rw [h, Nat.mul_zero]
  have first : (a + (m * k - a % m)) / m = a / m + k := by refine unit _ ?_ ?_ <;> omega
  have here : (a + (m * k - a % m) + i) / m = a / m + k := by refine unit _ ?_ ?_ <;> omega
  rw [first, here]

/-! ## Pieces (R292, R293) -/

theorem btPiece_of_bytes {s s1 : State} {o : BtOp} {r r1 : BtRec} {c : Nat} {e : Nat × Nat} {ys : List Byte}
    (h : btBytes s o r (512 * c + e.1) e.2 = .ok (s1, r1, ys)) :
    (btGlob r1.w = false → btPiece s o r c e = .ok (s1.writePad o.bid (chunkDst r1 c + e.1) ys (o.by_ s1), r1)) ∧
    ∀ ps, btGlob r1.w = true → btPlaces s1 o (btDst r1.w + BitVec.ofNat 64 (512 * c + e.1)) ys = .ok ps →
      btPiece s o r c e = .ok (ps.foldl (fun s x => (touch s x.1).writeMem x.1.b x.1.off x.2 (o.by_ s)) s1, r1) := by
  refine ⟨fun hg => ?_, fun ps hg hp => ?_⟩
  · simp only [btPiece, h, hg, Bool.false_eq_true, if_false]
  · simp only [btPiece, h, hg, if_true, hp]

/-! ## The end of a record (R296, R297) -/

section
variable {op : Nat} {s : State} {o : BtOp} {r : BtRec}

theorem execBtRecordComplete_of_landed {c own : Option Spot} (ho : s.bt? op = some o) (hr : o.cur = some r) (hf : o.fault = none)
    (hw : o.waits = false) (hl : ∀ c < chunkCount r.extent, c ∈ r.landed) (he : btEndPlaces s o r = .ok (c, own)) :
    let s1 := writeCompletion { s with free := s.free + 1 } o r.w c
    let s2 := match own with
      | some p => (touch s1 p).writeMem p.b p.off (leBytes 4 (wAt r.w 2 % 2 ^ 31)) (o.by_ s1)
      | none => s1
    execBtRecordComplete op s = .next (s2.updBt op fun b =>
      { b with cur := none, ptr := btNext r.w, stop := b.tcopy.isSome || btNext r.w == 0 }) := by
  have hall : ((List.range (chunkCount r.extent)).all fun c => r.landed.contains c) = true := by simpa using hl
  simp only [execBtRecordComplete, ho, hr, hf, hw, hall, he, Option.isSome_none, Bool.or_self, Bool.not_true, Bool.false_eq_true,
    if_false] <;> rfl

/-- A write takes its bytes only where they stand in the device's own memory; those of a peer leave it (R369). -/
theorem writeMem_congr {s : State} {b off : Nat} {ys ys' : List Byte} (by_ : By)
    (h : ∀ x, s.buf? b = some x → place x off ≠ none → ys = ys') : s.writeMem b off ys by_ = s.writeMem b off ys' by_ := by
  unfold State.writeMem
  split
  · next x hx =>
    split
    · next a ha => rw [h x hx (by simp [ha])]
    · rfl
  · rfl

theorem place_ne_none {x : Buf} {off : Nat} : place x off ≠ none ↔ x.kind ≠ .peer := by
  unfold place
  cases x.kind <;> simp

/-- Bytes of the device's own memory are no free values. -/
theorem readBuf_free {s : State} {b : Nat} {x : Buf} (hx : s.buf? b = some x) (hp : x.kind ≠ .peer) (off k n : Nat) :
    ({ s with free := k } : State).readBuf b off n = s.readBuf b off n := by
  have hx' : ({ s with free := k } : State).buf? b = some x := hx
  induction n generalizing off with
  | zero => rfl
  | succ n ih =>
    obtain ⟨a, ha⟩ := Option.ne_none_iff_exists'.1 (place_ne_none (off := off).2 hp)
    simp only [State.readBuf, hx, hx', ha, ih]

/-- The completion word is the record's, or is added to what stands there as the record ends (R296). -/
theorem writeCompletion_some (p : Spot) : let s0 : State := { s with free := s.free + 1 }
    writeCompletion s0 o r.w (some p) = (touch s0 p).writeMem p.b p.off (leBytes 4 (if btCwm r.w
      then (leNat (s.readBuf p.b p.off 4) + (btCval r.w).toNat) % 2 ^ 32 else (btCval r.w).toNat))
      { o.by_ s0 with rels := [btRel s0 o 4], rmw := btCwm r.w } := by
  refine writeMem_congr _ fun x hx hp => ?_
  have hx : s.buf? p.b = some x := by rwa [touch_only] at hx
  rw [readBuf_free hx (place_ne_none.1 hp)]

/-- The place of a completion word, where the record has one (R296). -/
def CompletionAt (s : State) (o : BtOp) (r : BtRec) (c : Option Spot) : Prop :=
  (btCwv r.w = false ∧ c = none) ∨ (btCwv r.w = true ∧ ∃ p, c = some p ∧
    (if btCwm r.w then loadAt s o.cxid (btCaddr r.w) 4 .rmw else storeAt s o.cxid (btCaddr r.w) 4) = .ok p)

theorem btEndPlaces_of_tcopy {c : Option Spot} (hc : CompletionAt s o r c) (ht : o.tcopy ≠ none) :
    btEndPlaces s o r = .ok (c, none) := by
  have ht : o.tcopy.isSome = true := Option.isSome_iff_ne_none.2 ht
  obtain ⟨hv, rfl⟩ | ⟨hv, p, rfl, hp⟩ := hc
  · simp [btEndPlaces, hv, ht]
  · simp [btEndPlaces, hv, hp, ht]

theorem btEndPlaces_of_chain {c : Option Spot} {q : Spot} (hc : CompletionAt s o r c) (ht : o.tcopy = none)
    (hq : storeAt s o.cxid (r.addr + 8) 4 = .ok q) : btEndPlaces s o r = .ok (c, some q) := by
  obtain ⟨hv, rfl⟩ | ⟨hv, p, rfl, hp⟩ := hc
  · simp only [btEndPlaces, hv, ht, hq]
    rfl
  · simp only [btEndPlaces, hv, hp, ht, hq]
    rfl

/-! ## Faults and ends of chains (R290, R297, R298) -/

/-- The record of a fault (R298). -/
def btTrap (s : State) (op code : Nat) (o : BtOp) : Trap :=
  let g := s.grp? o.gid
  { id := s.nextId, cause := .btFault, cxid := o.cxid, async := true, eng := true, walk := false, wr := o.fwr, faddr := o.faddr
    src := .bt op, detail := code, core := (g.map Group.core).getD 0, part := (g.map Group.part).getD 0
    grp := (g.map Group.g).getD 0, gid := (g.map Group.gid).getD 0, gr := btGrid s o
    inHandler := g.any fun g => inHandlerOf g o.cxid, chain := masksOf s o.cxid }

theorem btGrid_updGrp (n ch code : Nat) : btGrid (s.updGrp n fun g => { g with btc := g.btc.set ch code }) o = btGrid s o := by
  have hg := State.grp?_updGrp s n o.gid (fun g => { g with btc := g.btc.set ch code }) fun _ => rfl
  have hfatal : fatalGrid (s.updGrp n fun g => { g with btc := g.btc.set ch code }) = fatalGrid s := by
    funext g
    simp [fatalGrid]
  rw [btGrid, hg, hfatal, btGrid]
  split
  · cases s.grp? o.gid <;> rfl
  · rfl

theorem execBtRecordFault_of_fault {code : Nat} (ho : s.bt? op = some o) (hf : o.fault = some code) :
    let s0 := s.updGrp o.gid fun g => { g with btc := g.btc.set o.ch code }
    execBtRecordFault op s = .next { s0 with
      nextId := s.nextId + 1, traps := s.traps ++ [btTrap s0 op code o]
      bts := s.bts.map fun b => if b.id == op then { b with fault := none, cur := none, stop := true, started := true } else b } := by
  simp only [execBtRecordFault, ho, hf]
  rw [updGrp_groups_blocks]
  rfl

theorem execBtOperationComplete_of_stopped (ho : s.bt? op = some o) (hs : o.stop = true) (hf : o.fault = none)
    (ht : trapHeld s (.bt op) = false) : execBtOperationComplete op s =
      .next (wake ({ s with bts := s.bts.filter fun b => b.id != op }.updGrp o.gid fun g => g.opDone op (effects s op))) := by
  simp [execBtOperationComplete, ho, hs, hf, ht]

end

/-! ## Frames (R335, R373) -/

section
variable {b f : Nat} {s : State}

theorem execFrameScrubStart_of_oldest (hs : (s.frame b f).st = .freed)
    (ho : ∀ y ∈ s.frames, y.st = .freed → frameDie s y.b y.f = frameDie s b f → (s.frame b f).order ≤ y.order) :
    execFrameScrubStart b f s = .next (s.setFrame { s.frame b f with st := .scrubbing }) := by
  have hany : (s.frames.any fun y => y.st == .freed && frameDie s y.b y.f == frameDie s b f &&
      decide (y.order < (s.frame b f).order)) = false := by
    simp only [List.any_eq_false, Bool.and_eq_true, beq_iff_eq, decide_eq_true_eq]
    rintro y hy ⟨⟨hf, hd⟩, hlt⟩
    exact Nat.not_lt.2 (ho y hy hf hd) hlt
  simp only [execFrameScrubStart, hs, hany, bne_self_eq_false, Bool.or_self, Bool.false_eq_true, if_false]

theorem execFrameScrubComplete_of_free (hs : (s.frame b f).st = .scrubbing) (hb : frameBusy s (s.frame b f) = false) :
    execFrameScrubComplete b f s =
      .next ((scrub s b f).setFrame { b := b, f := f, st := .clean, owner := (s.frame b f).next }) := by
  simp [execFrameScrubComplete, hs, hb]

/-- A frame that has gone CLEAN to its receiver. -/
theorem frame_setFrame_clean (owner : Nat) :
    (s.setFrame { b := b, f := f, st := .clean, owner := owner }).frame b f = { b := b, f := f, st := .clean, owner := owner } := by
  have hrest : ((s.frames.filter fun y => !(y.b == b && y.f == f)).find? fun x => x.b == b && x.f == f) = none := by
    exact List.find?_eq_none.2 fun y hy => ne_true_of_eq_false (by simpa only [Bool.not_eq_true'] using (List.mem_filter.1 hy).2)
  by_cases h : owner = 0
  · subst h
    show (match (s.frames.filter fun y => !(y.b == b && y.f == f)).find? fun x => x.b == b && x.f == f with
      | some x => x
      | none => { b := b, f := f, st := .clean, owner := 0 }) = _
    rw [hrest]
  · simp [State.setFrame, State.frame, h]

theorem scrub_only : ∃ mem poison l1 l2 hist,
    scrub s b f = { s with mem := mem, poison := poison, l1 := l1, l2 := l2, hist := hist } := ⟨_, _, _, _, _, rfl⟩

/-- A byte reads zero where a range covers it, and as before where none does. -/
theorem get_zeros (es : List (Nat × Nat)) (m : Memory) (a : Nat) : Memory.get (es.foldl (fun m e => Memory.zero m e.1 e.2) m) a =
    if ∃ e ∈ es, e.1 ≤ a ∧ a < e.1 + e.2 then Memory.fill else Memory.get m a := by
  induction es generalizing m with
  | nil => simp
  | cons e es ih =>
    rw [List.foldl_cons, ih, Memory.get_zero]
    by_cases h : ∃ e ∈ es, e.1 ≤ a ∧ a < e.1 + e.2
    · rw [if_pos h, if_pos (by simp [h])]
    · rw [if_neg h]
      simp [h]

theorem granuleBytes_pos (x : Buf) : 0 < granuleBytes x := Nat.two_pow_pos _

theorem granuleBytes_mod (x : Buf) : granuleBytes x % 32 = 0 := by
  rw [granuleBytes, show 8 + x.gcode = 5 + (3 + x.gcode) by omega, pow_add]
  exact Nat.mul_mod_right 32 _

/-- The bytes of a granule stand one after the other, from a multiple of 32 on. -/
theorem place_granule {x : Buf} {q j a : Nat} (hj : j < granuleBytes x) (hbase : x.base % 32 = 0)
    (ha : place x (granuleBytes x * q + j) = some a) : ∃ a0, place x (granuleBytes x * q) = some a0 ∧ a = a0 + j ∧ a0 % 32 = 0 := by
  have hg := granuleBytes_mod x
  have hpos := granuleBytes_pos x
  have hdiv : (granuleBytes x * q + j) / granuleBytes x = q := by
    rw [Nat.mul_add_div hpos, Nat.div_eq_of_lt hj, Nat.add_zero]
  have hdiv0 : granuleBytes x * q / granuleBytes x = q := Nat.mul_div_cancel_left q hpos
  have hmul (k : Nat) : k * granuleBytes x % 32 = 0 := by rw [Nat.mul_mod, hg, Nat.mul_zero, Nat.zero_mod]
  have hq := hmul q
  have hl := hmul (q / x.chans.length)
  rw [Nat.mul_comm] at hq
  have hchan : chanOf x (granuleBytes x * q + j) = chanOf x (granuleBytes x * q) := by rw [chanOf, chanOf, hdiv, hdiv0]
  unfold place at ha ⊢
  cases hk : x.kind <;> simp only [hk, hdiv, hdiv0, hchan, Nat.mul_add_mod, Nat.mod_eq_of_lt hj, Nat.mul_mod_right,
    Option.some.injEq, reduceCtorEq, hbmAddr, chanBytes, cxlBase, flashBase] at ha ⊢
  all_goals refine ⟨_, rfl, ?_, ?_⟩ <;> omega

/-- The bytes of a frame stand in its segments, each from a multiple of 32 on (R335). -/
theorem exists_mem_frameSegs {x : Buf} {i a : Nat} (hx : s.buf? b = some x) (hi : i < 65536) (hg : granuleBytes x ≤ 65536)
    (hbase : x.base % 32 = 0) (ha : place x (f * 65536 + i) = some a) :
    ∃ e ∈ frameSegs s b f, e.1 % 32 = 0 ∧ e.1 ≤ a ∧ a < e.1 + e.2 := by
  have hpos := granuleBytes_pos x
  have hdvd : granuleBytes x ∣ 65536 :=
    Nat.pow_dvd_pow 2 (n := 16) ((Nat.pow_le_pow_iff_right (by norm_num)).1 (hg : 2 ^ (8 + x.gcode) ≤ 2 ^ 16))
  obtain ⟨k, hk⟩ := hdvd
  have hmod := Nat.mod_lt i hpos
  have hi' := Nat.div_add_mod i (granuleBytes x)
  have hf : f * 65536 = granuleBytes x * (k * f) := by rw [hk]; ring
  have ho : f * 65536 + i = granuleBytes x * (k * f + i / granuleBytes x) + i % granuleBytes x := by
    rw [hf, Nat.mul_add, Nat.add_assoc, hi']
  obtain ⟨a0, h0, rfl, hal⟩ := place_granule hmod hbase (ho ▸ ha)
  refine ⟨(a0, granuleBytes x), ?_, hal, Nat.le_add_right .., Nat.add_lt_add_left hmod a0⟩
  have hn : min 65536 (granuleBytes x) = granuleBytes x := Nat.min_eq_right hg
  simp only [frameSegs, hx, hn, List.mem_filterMap, List.mem_range, Option.map_eq_some_iff, Prod.mk.injEq]
  refine ⟨i / granuleBytes x, Nat.div_lt_div_of_lt_of_dvd ⟨k, hk⟩ hi, a0, ?_, rfl, trivial⟩
  rw [hf, ← Nat.mul_add]
  exact h0

/-! ## Context numbers (R335) -/

theorem counted_iff {x : Buf} : x.counted = true ↔ x.kind = .hbm ∨ x.kind = .cxl := by
  simp [Buf.counted]

theorem cxidClear_of {cx : Nat} (hf : ∀ f ∈ s.frames, f.owner ≠ cx) (hb : ∀ b ∈ s.bufs, b.bown = cx → b.kind = .hbm ∨ b.kind = .cxl)
    (hu : ∀ r ∈ s.rus, r.cxid = cx → r.applied = true) (hr : ∀ r ∈ s.reqs, r.cxid = cx → r.performed = true)
    (hv : ∀ v ∈ s.vfs, ∀ l, v.flr = some l → cx ∉ l) : cxidClear s cx = true := by
  simp only [cxidClear, Bool.and_eq_true, List.all_eq_true, Bool.or_eq_true, bne_iff_ne, counted_iff]
  refine ⟨⟨⟨⟨hf, fun b hm => ?_⟩, fun r hm => ?_⟩, fun r hm => ?_⟩, fun v hm => ?_⟩
  · exact (Decidable.em (b.bown = cx)).imp (hb b hm) id
  · exact (Decidable.em (r.cxid = cx)).symm.imp_right (hu r hm)
  · exact (Decidable.em (r.cxid = cx)).symm.imp_right (hr r hm)
  · cases hl : v.flr with
    | none => rfl
    | some l => simpa using hv v hm l hl

theorem execCxidRelease_of_clear {cx : Nat} {x : Ctx} (hx : s.ctx? cx = some x) (hk : x.state = .killed) (hc : cxidClear s cx = true) :
    execCxidRelease cx s = .next (dropWalks (dropEnts { s with
      ctxs := (s.ctxs.filter fun y => y.cxid != cx).map fun y => if y.parent == cx then { y with parent := 65536 } else y
      l1 := s.l1.filter fun c => c.tag != cx
      l2 := s.l2.filter fun l => l.tag != cx } fun e => e.cxid == cx) fun w => w.cxid == cx) := by
  simp [execCxidRelease, hx, hk, hc]

end

/-! ## Statement -/

/-- Settles O47: one equation for each event, by the branch that its premises select; `mem_cuts` and `exists_mem_frameSegs` carry the
cover of a chunk and of a frame. -/
theorem transferAndFrameEvents : Obligations.transferAndFrameEvents := by
  unfold Obligations.transferAndFrameEvents
  refine ⟨fun op s o ho hc hf hs hw hm => ⟨fun w ht => ?tcopy, fun ht hp => ?ends, fun w p ht hp ha hr => ?record⟩,
    fun op c s o r ho hr hf hw hl hc => ?chunk, fun s s0 o r q c h => ?start,
    fun r c => ⟨fun i hi => exists_mem_cuts (by norm_num) hi, fun e he => cuts_within (by norm_num) he⟩,
    fun s s1 o r r1 c e ys h => btPiece_of_bytes h, fun op s s1 s2 o r ho hr hf hw hl => ?complete,
    fun op code s o ho hf => ?fault, fun op s o ho hs hf ht => ?retire, fun b f s hs ho => ?scrubs, fun b f s hs hb => ?scrubbed,
    fun cx s x hx hk hf hb hu hr hv => ?release⟩
  case tcopy => exact (exec_btRecordStart op s).trans (execBtRecordStart_of_tcopy ho hc hf hs hw hm ht)
  case ends => exact (exec_btRecordStart op s).trans (execBtRecordStart_of_end ho hc hf hs hw hm ht hp)
  case record =>
    have h := (exec_btRecordStart op s).trans (execBtRecordStart_of_record ho hc hf hs hw hm ht hp ha hr)
    exact ⟨fun hown => h.trans (if_pos hown), fun hown => h.trans (if_neg (by simp [hown]))⟩
  case chunk =>
    have h := (exec_btChunkLanded op c s).trans (execBtChunkLanded_of_due ho hr (chunkDue_iff.2 ⟨hf, hw, hl, hc⟩))
    refine ⟨fun t ht => by rw [h, ht], fun s0 q hq => ?_⟩
    rw [hq] at h
    refine ⟨fun hk => h.trans (by simp [hk]), fun hk s2 r2 => ⟨fun hp => ?_, fun f wr hp => ?_⟩⟩
    all_goals
      rw [h]
      simp [hk, landChunk, hp]
  case start =>
    obtain ⟨hq, hspace, only⟩ := chunkStart_ok h
    rw [only]
    exact ⟨hq, rfl, rfl, rfl, rfl, hspace⟩
  case complete =>
    intro s0 hv hv' ht ht'
    obtain ⟨c, hc, rfl⟩ : ∃ c, CompletionAt s o r c ∧ s1 = writeCompletion s0 o r.w c := by
      by_cases h : btCwv r.w = true
      · obtain ⟨p, hp, e⟩ := hv' h
        exact ⟨some p, .inr ⟨h, p, rfl, hp⟩, e.trans (writeCompletion_some ..).symm⟩
      · have h := Bool.eq_false_of_not_eq_true h
        exact ⟨none, .inl ⟨h, rfl⟩, hv h⟩
    by_cases h : o.tcopy = none
    · obtain ⟨q, hq, rfl⟩ := ht' h
      exact (exec_btRecordComplete op s).trans (execBtRecordComplete_of_landed ho hr hf hw hl (btEndPlaces_of_chain hc h hq))
    · rw [ht h]
      exact (exec_btRecordComplete op s).trans (execBtRecordComplete_of_landed ho hr hf hw hl (btEndPlaces_of_tcopy hc h))
  case fault =>
    refine ⟨_, _, (exec_btRecordFault op s).trans (execBtRecordFault_of_fault ho hf), rfl, rfl, rfl, rfl, rfl, rfl, rfl, rfl,
      btGrid_updGrp .., rfl, ?_, fun n hn => ?_, fun g hg => ?_⟩
    · rw [updGrp_groups_blocks]
    · exact (State.grp?_updGrp s o.gid n (fun g => { g with btc := g.btc.set o.ch code }) fun _ => rfl).trans (if_neg hn)
    · refine (State.grp?_updGrp s o.gid o.gid (fun g => { g with btc := g.btc.set o.ch code }) fun _ => rfl).trans ?_
      rw [if_pos rfl, hg]
      rfl
  case retire => exact (exec_btOperationComplete op s).trans (execBtOperationComplete_of_stopped ho hs hf ht)
  case scrubs => exact (exec_frameScrubStart b f s).trans (execFrameScrubStart_of_oldest hs ho)
  case scrubbed =>
    refine ⟨_, (exec_frameScrubComplete b f s).trans (execFrameScrubComplete_of_free hs hb), frame_setFrame_clean _, rfl,
      fun x i hx hi hg hbase a ha => ⟨?_, ?_⟩, fun c hc => ?_, fun l hl => ?_, fun a ha => ?_⟩
    · obtain ⟨e, he, -, hle, hlt⟩ := exists_mem_frameSegs hx hi hg hbase ha
      exact (get_zeros ..).trans (if_pos ⟨e, he, hle, hlt⟩)
    · obtain ⟨e, he, hal, hle, hlt⟩ := exists_mem_frameSegs hx hi hg hbase ha
      intro hp
      have hp := (List.mem_filter.1 hp).2
      simp only [Bool.not_eq_true', List.any_eq_false, decide_eq_true_eq] at hp
      exact hp e he (by omega)
    · rintro ⟨hcb, hcf⟩
      have hg := (List.mem_filter.1 hc).2
      simp [hcb] at hg
      omega
    · rintro ⟨hlb, hlf⟩
      have hg := (List.mem_filter.1 hl).2
      simp [hlb] at hg
      omega
    · refine (get_zeros ..).trans (if_neg ?_)
      rintro ⟨e, he, hle, hlt⟩
      have := ha e he
      omega
  case release =>
    have hc := cxidClear_of hf hb hu hr hv
    refine ⟨_, (exec_cxidRelease cx s).trans (execCxidRelease_of_clear hx hk hc), rfl, ?_, ?_, ?_, ?_, ?_⟩
    · simp only [dropWalks, dropEnts, beq_iff_eq]
    all_goals simp [dropWalks, dropEnts]

end Sys2Proof.Machine
end

section
/-! Functions and their interfaces (R391 to R393, R412, R441 to R444, R450): what a killed subtree leaves, resets and their ends, and
the TDISP requests. -/

namespace Sys2Proof.Machine

set_option Elab.async false

/-! ## Whose groups, blocks and grids there are -/

/-- The contexts of groups, blocks and grids, in the order in which these stand. -/
def State.homes (s : State) : List Nat × List Nat × List Nat :=
  (s.groups.map Group.cxid, s.blocks.map Block.cxid, s.grids.map Grid.cxid)

theorem homes_eq {s t : State} (hg : t.groups.map Group.cxid = s.groups.map Group.cxid)
    (hb : t.blocks.map Block.cxid = s.blocks.map Block.cxid) (hx : t.grids.map Grid.cxid = s.grids.map Grid.cxid) :
    t.homes = s.homes := by
  rw [State.homes, hg, hb, hx, State.homes]

theorem map_keeps {α β : Type} {p : α → β} {f : α → α} (h : ∀ x, p (f x) = p x) (l : List α) : (l.map f).map p = l.map p := by
  rw [List.map_map]
  exact List.map_congr_left fun x _ => h x

theorem updGroups_cxids {f : Group → Group} (h : ∀ g, (f g).cxid = g.cxid) (n : Nat) (l : List Group) :
    (updGroups n f l).map Group.cxid = l.map Group.cxid := by
  unfold updGroups
  refine map_keeps (fun g => ?_) l
  split
  · exact h g
  · rfl

theorem homes_updGrp {f : Group → Group} (h : ∀ g, (f g).cxid = g.cxid) (s : State) (n : Nat) : (s.updGrp n f).homes = s.homes := by
  unfold State.updGrp
  split
  · exact homes_eq (updGroups_cxids h n _) rfl rfl
  · exact homes_eq rfl (map_keeps (fun _ => by rfl) _) rfl

theorem homes_updBlk {f : Block → Block} (h : ∀ b, (f b).cxid = b.cxid) (s : State) (n : Nat) : (s.updBlk n f).homes = s.homes := by
  refine homes_eq rfl (map_keeps (fun b => ?_) _) rfl
  split
  · exact h b
  · rfl

theorem homes_updGrid {f : Grid → Grid} (h : ∀ x, (f x).cxid = x.cxid) (s : State) (n : Nat) : (s.updGrid n f).homes = s.homes := by
  refine homes_eq rfl rfl (map_keeps (fun x => ?_) _)
  split
  · exact h x
  · rfl

/-! ## What lets threads go on -/

theorem LetsGo.cxid {g g' : Group} (h : LetsGo g g') : g'.cxid = g.cxid := by rw [h.1]

theorem homes_barRelease (gs : List Group) (s : State) (seen : Rel) (q : Park → Bool) : (barRelease gs s seen q).homes = s.homes :=
  foldl_keeps (fun _ _ => homes_updGrp (fun _ => by rfl) ..) gs s

theorem homes_barComplete (s : State) (bid : Nat) (k : BarSt) : (barComplete s bid k).homes = s.homes := by
  unfold barComplete
  extract_lets gs
  split
  · rfl
  · split
    · rfl
    · split
      · exact homes_updBlk (fun _ => by rfl) ..
      · rw [homes_barRelease]
        exact homes_updBlk (fun _ => by rfl) ..

theorem homes_cbarComplete (s : State) (gr : Nat) (e : Nat × BarSt) : (cbarComplete s gr e).homes = s.homes := by
  unfold cbarComplete
  extract_lets gs seen s1
  split
  · rfl
  · rw [homes_barRelease]
    exact homes_updGrid (fun _ => by rfl) ..

theorem homes_beforeBarriers (s : State) : (beforeBarriers s).homes = s.homes := by
  rw [beforeBarriers_eq]
  refine homes_eq ?_ rfl rfl
  show (((s.groups.map (wokenGroup s)).map (letGoGroup s)).map Group.cxid) = _
  rw [map_keeps fun g => (letsGo_letGoGroup s g).cxid, map_keeps (f := wokenGroup s) fun _ => rfl]

theorem homes_wake (s : State) : (wake s).homes = s.homes := by
  rw [wake_eq, clusterBarriers, foldl_keeps fun s x => foldl_keeps (fun s e => homes_cbarComplete ..) _ s, blockBarriers,
    foldl_keeps fun s b => foldl_keeps (fun s k => homes_barComplete ..) _ s, homes_beforeBarriers]

/-! ## What ends threads and groups -/

theorem homes_exitThrs (s : State) (n : Nat) (ts : List Nat) : (exitThrs s n ts).homes = s.homes := by
  refine (homes_updGrp (fun _ => by rfl) ..).trans ?_
  split <;> rfl

theorem homes_dropGroup (s : State) (g : Group) : (dropGroup s g).homes = s.homes :=
  (homes_updGrp (fun _ => by rfl) ..).trans (homes_exitThrs s g.gid g.live)

theorem homes_unwaitSrc (s : State) (t : Trap) : (unwaitSrc s t).homes = s.homes := by
  unfold unwaitSrc
  split
  · rfl
  · rfl
  · exact homes_updGrid (fun _ => by rfl) ..
  · rfl
  · rfl
  · rfl

/-- Marking the grid of a trap, and letting its source go on. -/
theorem homes_marked (s : State) (t : Trap) : (unwaitSrc (markEnding s t.gr t.cause.code) t).homes = s.homes :=
  (homes_unwaitSrc ..).trans (homes_updGrid (fun _ => by rfl) ..)

theorem homes_endTrapped (n : Nat) (s : State) (t : Trap) : (endTrapped n s t).homes = s.homes := by
  induction n generalizing s t with
  | zero => exact homes_marked s t
  | succ n ih =>
    unfold endTrapped
    extract_lets s1
    have h1 : s1.homes = s.homes := homes_marked s t
    split
    · exact h1
    · split
      · exact h1
      · split
        · exact (homes_dropGroup ..).trans h1
        · split
          · exact (ih ..).trans ((homes_dropGroup ..).trans h1)
          · exact (homes_dropGroup ..).trans h1
        · exact h1

theorem homes_stopThreads (s : State) (n : Nat) (ts : List Nat) : (stopThreads s n ts).homes = s.homes :=
  homes_updGrp (fun _ => by rfl) ..

theorem homes_raise (s : State) (g : Group) (ti : TrapInfo) : (raise s g ti).homes = s.homes := by
  rw [raise_eq]
  split
  · exact homes_updGrp (fun _ => by rfl) ..
  · split
    · exact (homes_endTrapped ..).trans (homes_stopThreads ..)
    · exact homes_stopThreads ..

theorem homes_discard (s : State) (n : Nat) (ts : List Nat) (now : Bool) : (discard s n ts now).homes = s.homes := by
  unfold discard
  split
  · rfl
  · extract_lets ts' at_ named all s1
    have h1 : s1.homes = s.homes := homes_updGrp (fun _ => by rfl) ..
    split
    · rfl
    · split
      · split
        · exact h1
        · exact (homes_stopThreads ..).trans ((homes_raise ..).trans h1)
      · exact (homes_updGrp (fun g => by split <;> rfl) ..).trans h1

theorem homes_discardWhere (s : State) (p : BStore → Bool) : (discardWhere s p).homes = s.homes :=
  foldl_keeps (fun s g => by
    dsimp only
    split
    · rfl
    · exact homes_discard ..) _ s

theorem homes_freeFrames (s : State) (p : Nat → Bool) (n : Nat) : (freeFrames s p n).homes = s.homes :=
  foldl_keeps (f := freeFrame n) (fun _ _ => homes_discardWhere ..) _ _

/-! ## A killed subtree -/

/-- What a killed context keeps (R351). -/
def Ctx.dead (x : Ctx) : Prop := x.state = .killed ∧ x.runset = 0 ∧ x.queues = []

/-- A device in which contexts have no group, block or grid left, and are killed. -/
def State.Gone (s : State) (dead : List Nat) : Prop := ∀ c ∈ dead,
  (∀ y ∈ s.ctxs, y.cxid = c → y.dead) ∧ (∀ g ∈ s.groups, g.cxid ≠ c) ∧ (∀ g ∈ s.grids, g.cxid ≠ c) ∧ ∀ b ∈ s.blocks, b.cxid ≠ c

theorem not_mem_of_map_filter {α : Type} {f : α → Nat} {l m : List α} {dead : List Nat} {c : Nat}
    (h : l.map f = (m.filter fun x => !dead.contains (f x)).map f) (hc : c ∈ dead) : ∀ x ∈ l, f x ≠ c := by
  rintro x hx rfl
  have hm : f x ∈ (m.filter fun x => !dead.contains (f x)).map f := h ▸ List.mem_map_of_mem hx
  obtain ⟨y, hy, e⟩ := List.mem_map.1 hm
  have hd := (List.mem_filter.1 hy).2
  rw [e] at hd
  simp [hc] at hd

theorem killTree_gone (s : State) (top next : Nat) : (killTree s top next).Gone ((subtree s top).map Ctx.cxid) := by
  intro c hc
  have hh : (killTree s top next).homes = (dropWork s fun c => ((subtree s top).map Ctx.cxid).contains c).homes := by
    unfold killTree
    extract_lets dead p s1 s2 s3 s4
    exact (homes_wake _).trans (homes_freeFrames ..)
  injection hh with hg hb
  injection hb with hb hx
  refine ⟨fun y hy hyc => ?_, not_mem_of_map_filter hg hc, not_mem_of_map_filter hx hc, not_mem_of_map_filter hb hc⟩
  have hm : y ∈ (killTree s top next).ctxs := hy
  unfold killTree at hm
  extract_lets dead p s1 s2 s3 s4 at hm
  rw [Apart.wake (p := State.ctxs) (fun _ _ _ _ _ _ => rfl)] at hm
  obtain ⟨x, -, e⟩ := List.mem_map.1 (show y ∈ s3.ctxs.map _ from hm)
  by_cases hp : p x.cxid = true
  · rw [if_pos hp] at e
    rw [← e]
    exact ⟨rfl, rfl, rfl⟩
  · rw [if_neg hp] at e
    refine absurd ?_ hp
    rw [e, hyc]
    exact List.contains_iff_mem.2 hc

/-! ## The record of a function -/

@[simp] theorem vfAt_setVf (s : State) (v : Vf) : (s.setVf v).vfAt v.n = v := by
  simp [State.vfAt, State.setVf]

@[simp] theorem vfAt_n (s : State) (n : Nat) : (s.vfAt n).n = n := by
  unfold State.vfAt
  cases h : s.vfs.find? fun v => v.n == n with
  | none => rfl
  | some v => exact eq_of_beq (List.find?_some (p := fun v : Vf => v.n == n) h)

/-- The record of a function after it is put. -/
theorem vfAt_setVf_of {v : Vf} {n : Nat} (h : v.n = n) (s : State) : (s.setVf v).vfAt n = v := h ▸ vfAt_setVf s v

/-! ## Resets and their ends (R391 to R393) -/

/-- A reset whose function has no context leaves no context to the function. -/
theorem flrStop_none {s : State} {n : Nat} (h : (s.vfAt n).cxid.bind s.ctx? = none) :
    flrStop s n = s.setVf { s.vfAt n with cxid := none } := by
  unfold flrStop
  extract_lets v
  rw [h]

/-- A reset of a function with a context: it waits for the engine, forgets a killed context, or kills the subtree. -/
theorem flrStop_some {s : State} {n : Nat} {x : Ctx} (h : (s.vfAt n).cxid.bind s.ctx? = some x) : flrStop s n =
    if engineBusy s (inSubtree s x.cxid) then s
    else if x.state == .killed then s.setVf { s.vfAt n with cxid := none }
    else (killTree s x.cxid x.parent).setVf
      { s.vfAt n with cxid := none, flr := some ((subtree s x.cxid).map Ctx.cxid) } := by
  unfold flrStop
  extract_lets v
  rw [h]

/-- The interface of a function that is reset (R443). -/
def Tdi.reset : Tdi → Tdi
  | .locked | .run => .error
  | t => t

theorem Tdi.reset_eq (t : Tdi) : t.reset = if t = .locked ∨ t = .run then .error else t := by
  cases t <;> rfl

/-- The record of a function whose reset begins. -/
def Vf.reset (v : Vf) : Vf := { v with flr := some (v.flr.getD []), tdi := v.tdi.reset }

theorem startFlr_eq (s : State) (n : Nat) : startFlr s n = flrStop (s.setVf (s.vfAt n).reset) n := rfl

/-- What a function-level reset leaves: its record, and what it does to a context of the function. -/
structure FlrStarted (s t : State) (n : Nat) : Prop where
  flr : (t.vfAt n).flr ≠ none
  tdi : (t.vfAt n).tdi = if (s.vfAt n).tdi = .locked ∨ (s.vfAt n).tdi = .run then .error else (s.vfAt n).tdi
  without : (s.vfAt n).cxid = none → (t.vfAt n).cxid = none
  busy : ∀ k x, (s.vfAt n).cxid = some k → s.ctx? k = some x → engineBusy s (inSubtree s x.cxid) = true →
    (t.vfAt n).cxid = some k ∧ t = { s with vfs := t.vfs }
  idle : ∀ k x, (s.vfAt n).cxid = some k → s.ctx? k = some x → engineBusy s (inSubtree s x.cxid) = false →
    (t.vfAt n).cxid = none ∧ (x.state ≠ .killed →
      (t.vfAt n).flr = some ((subtree s x.cxid).map Ctx.cxid) ∧ t.Gone ((subtree s x.cxid).map Ctx.cxid))

/-- A function whose record has just been marked as reset. -/
theorem vfAt_marked (s : State) (n : Nat) : (s.setVf (s.vfAt n).reset).vfAt n = (s.vfAt n).reset :=
  vfAt_setVf_of (v := (s.vfAt n).reset) (vfAt_n s n) s

theorem reset_tdi (v : Vf) : v.reset.tdi = if v.tdi = .locked ∨ v.tdi = .run then .error else v.tdi := Tdi.reset_eq v.tdi

theorem startFlr_none {s : State} {n : Nat} (h : (s.vfAt n).cxid.bind s.ctx? = none) :
    startFlr s n = (s.setVf (s.vfAt n).reset).setVf { (s.vfAt n).reset with cxid := none } := by
  have hc : ((s.setVf (s.vfAt n).reset).vfAt n).cxid.bind (s.setVf (s.vfAt n).reset).ctx? = none := by
    rw [vfAt_marked]
    exact h
  rw [startFlr_eq, flrStop_none hc, vfAt_marked]

theorem startFlr_some {s : State} {n : Nat} {x : Ctx} (h : (s.vfAt n).cxid.bind s.ctx? = some x) : startFlr s n =
    if engineBusy s (inSubtree s x.cxid) then s.setVf (s.vfAt n).reset
    else if x.state == .killed then (s.setVf (s.vfAt n).reset).setVf { (s.vfAt n).reset with cxid := none }
    else (killTree (s.setVf (s.vfAt n).reset) x.cxid x.parent).setVf
      { (s.vfAt n).reset with cxid := none, flr := some ((subtree s x.cxid).map Ctx.cxid) } := by
  have hc : ((s.setVf (s.vfAt n).reset).vfAt n).cxid.bind (s.setVf (s.vfAt n).reset).ctx? = some x := by
    rw [vfAt_marked]
    exact h
  rw [startFlr_eq, flrStop_some hc, vfAt_marked]
  rfl

theorem flrStarted_none {s : State} {n : Nat} (h : (s.vfAt n).cxid.bind s.ctx? = none) : FlrStarted s (startFlr s n) n := by
  have ha : (startFlr s n).vfAt n = { (s.vfAt n).reset with cxid := none } := by
    rw [startFlr_none h]
    exact vfAt_setVf_of (v := { (s.vfAt n).reset with cxid := none }) (vfAt_n s n) _
  have out (k : Nat) (x : Ctx) (hk : (s.vfAt n).cxid = some k) (hx : s.ctx? k = some x) : False := by
    rw [hk, Option.bind_some, hx] at h
    cases h
  exact { flr := by simp [ha, Vf.reset], tdi := by rw [ha, ← reset_tdi], without := fun _ => by rw [ha]
          busy := fun k x hk hx => (out k x hk hx).elim, idle := fun k x hk hx => (out k x hk hx).elim }

theorem flrStarted_some {s : State} {n : Nat} {x : Ctx} (h : (s.vfAt n).cxid.bind s.ctx? = some x) :
    FlrStarted s (startFlr s n) n := by
  have same {k : Nat} {y : Ctx} (hk : (s.vfAt n).cxid = some k) (hy : s.ctx? k = some y) : y = x := by
    rw [hk, Option.bind_some, hy] at h
    exact Option.some.inj h
  have has : (s.vfAt n).cxid ≠ none := by
    intro hn
    rw [hn] at h
    cases h
  have put (t : State) (v : Vf) (hv : v.n = (s.vfAt n).n) : (t.setVf v).vfAt n = v := vfAt_setVf_of (hv.trans (vfAt_n s n)) t
  by_cases hb : engineBusy s (inSubtree s x.cxid) = true
  · have e : startFlr s n = s.setVf (s.vfAt n).reset := by rw [startFlr_some h, if_pos hb]
    have ha : (startFlr s n).vfAt n = (s.vfAt n).reset := by rw [e, vfAt_marked]
    exact { flr := by simp [ha, Vf.reset], tdi := by rw [ha, reset_tdi], without := fun hn => absurd hn has
            busy := fun k y hk _ _ => ⟨by rw [ha]; exact hk, by rw [e]; rfl⟩
            idle := fun k y hk hy hi => absurd (same hk hy ▸ hi) (by simp [hb]) }
  · by_cases hd : (x.state == .killed) = true
    · have ha : (startFlr s n).vfAt n = { (s.vfAt n).reset with cxid := none } := by
        rw [startFlr_some h, if_neg hb, if_pos hd]
        exact put _ _ rfl
      exact { flr := by simp [ha, Vf.reset], tdi := by rw [ha, ← reset_tdi], without := fun hn => absurd hn has
              busy := fun k y hk hy hi => absurd (same hk hy ▸ hi) hb
              idle := fun k y hk hy _ => ⟨by rw [ha], fun hs => absurd (same hk hy ▸ eq_of_beq hd) hs⟩ }
    · have e : startFlr s n = (killTree (s.setVf (s.vfAt n).reset) x.cxid x.parent).setVf
          { (s.vfAt n).reset with cxid := none, flr := some ((subtree s x.cxid).map Ctx.cxid) } := by
        rw [startFlr_some h, if_neg hb, if_neg hd]
      have ha : (startFlr s n).vfAt n =
          { (s.vfAt n).reset with cxid := none, flr := some ((subtree s x.cxid).map Ctx.cxid) } := by
        rw [e]
        exact put _ _ rfl
      have hg : (startFlr s n).Gone ((subtree s x.cxid).map Ctx.cxid) := by
        rw [e]
        exact killTree_gone (s.setVf (s.vfAt n).reset) x.cxid x.parent
      exact { flr := by simp [ha], tdi := by rw [ha, ← reset_tdi], without := fun hn => absurd hn has
              busy := fun k y hk hy hi => absurd (same hk hy ▸ hi) hb
              idle := fun k y hk hy _ => ⟨by rw [ha], fun _ => by
                cases same hk hy
                exact ⟨by rw [ha], hg⟩⟩ }

/-- A function-level reset starts (R391). -/
theorem flrStarted (s : State) (n : Nat) : FlrStarted s (startFlr s n) n := by
  cases h : (s.vfAt n).cxid.bind s.ctx? with
  | none => exact flrStarted_none h
  | some x => exact flrStarted_some h

/-- What stands of a reset: whether it goes on at the engine, waits for what still writes, or ends (R393). -/
theorem exec_flrComplete_of {s : State} {n : Nat} {gone : List Nat} (h : (s.vfAt n).flr = some gone) :
    exec (.flrComplete n) s = if (s.vfAt n).cxid.isSome then .next (flrStop s n) else if stillWrites s gone then .next s
      else
        let t := newVfCtx (s.setVf { s.vfAt n with flr := none }) n
        .next (if t.vfClearing && t.vfs.all (fun v => v.flr.isNone) then { t with vfEnable := false, vfClearing := false } else t) := by
  rw [exec_flrComplete, execFlrComplete]
  split
  · next hn => cases h.symm.trans hn
  · next g hg =>
    cases h.symm.trans hg
    rfl

theorem stillWrites_eq_false {s : State} {gone : List Nat} (hu : ∀ r ∈ s.rus, r.cxid ∈ gone → r.applied = true)
    (hq : ∀ r ∈ s.reqs, r.cxid ∈ gone → r.blk = none → r.performed = true) : stillWrites s gone = false := by
  simp only [stillWrites, Bool.or_eq_false_iff, List.any_eq_false, Bool.and_eq_true, List.contains_iff_mem, Bool.not_eq_true',
    not_and, Bool.not_eq_false, Option.isNone_iff_eq_none]
  exact ⟨hu, fun r hr h => hq r hr h.1 h.2⟩

/-- The context that a function is given (R412, R450). -/
def vfCtx (n k : Nat) (p : PartRec) : Ctx :=
  { cxid := k, parent := p.cxid, level := 2, state := .created, nq := p.vfnq, qbud := p.vfnq, tokens := bucketCap 0, vf := some n }

/-- A function is given a context in a partition that has room for one. -/
theorem newVfCtx_of {s : State} {n k : Nat} {p : PartRec} {i : Ctx} (hp : vfPart s n = some p) (hk : freeCxid s = some k)
    (hi : s.ctx? p.cxid = some i) (hs : i.state ≠ .killed) (hb : newBudget s i (vfCtx n k p) = none) :
    newVfCtx s n = { s with ctxs := s.ctxs ++ [vfCtx n k p] }.setVf { s.vfAt n with cxid := some k } := by
  have hz : ¬(i.state == .killed || (newBudget s i (vfCtx n k p)).isSome) = true := by
    rw [hb, Bool.or_eq_true, beq_iff_eq]
    rintro (h | h)
    · exact hs h
    · cases h
  unfold newVfCtx
  simp only [hp, hk, hi]
  exact if_neg hz

/-- Giving a function a context changes the contexts and the function's record alone, and of this the context alone. -/
theorem newVfCtx_spec (s : State) (n : Nat) : newVfCtx s n = s ∨ ∃ x k,
    newVfCtx s n = { s with ctxs := s.ctxs ++ [x] }.setVf { s.vfAt n with cxid := some k } := by
  unfold newVfCtx
  split
  · extract_lets x
    split
    · split
      · exact .inl rfl
      · exact .inr ⟨x, _, rfl⟩
    · exact .inl rfl
  · exact .inl rfl

/-- The end of a reset (R393): the function's reset is over, and it has a context where its partition has room. -/
theorem flrComplete_ends {s : State} {n : Nat} {gone : List Nat} (h : (s.vfAt n).flr = some gone) (hc : (s.vfAt n).cxid = none)
    (hw : stillWrites s gone = false) : ∃ t, exec (.flrComplete n) s = .next t ∧
      t = { s with ctxs := t.ctxs, vfs := t.vfs, vfEnable := t.vfEnable, vfClearing := t.vfClearing } ∧
      (t.vfAt n).flr = none ∧ (s.vfClearing = false → t.vfEnable = s.vfEnable) ∧
      (s.vfClearing = true → (∀ v ∈ t.vfs, v.flr = none) → t.vfEnable = false ∧ t.vfClearing = false) ∧
      ∀ p k i, vfPart s n = some p → freeCxid s = some k → s.ctx? p.cxid = some i → i.state ≠ .killed →
        newBudget s i (vfCtx n k p) = none → (t.vfAt n).cxid = some k ∧ t.ctxs = s.ctxs ++ [vfCtx n k p] := by
  have hm : (s.setVf { s.vfAt n with flr := none }).vfAt n = { s.vfAt n with flr := none } :=
    vfAt_setVf_of (v := { s.vfAt n with flr := none }) (vfAt_n s n) s
  obtain ⟨t, ht⟩ : ∃ t, t = newVfCtx (s.setVf { s.vfAt n with flr := none }) n := ⟨_, rfl⟩
  have hx : exec (.flrComplete n) s =
      .next (if t.vfClearing && t.vfs.all (fun v => v.flr.isNone) then { t with vfEnable := false, vfClearing := false } else t) := by
    rw [exec_flrComplete_of h, hc, hw, ht]
    rfl
  have only : t = { s with ctxs := t.ctxs, vfs := t.vfs } ∧ (t.vfAt n).flr = none := by
    rcases newVfCtx_spec (s.setVf { s.vfAt n with flr := none }) n with e | ⟨x, k, e⟩
    · rw [ht, e, hm]
      exact ⟨rfl, rfl⟩
    · rw [ht, e, hm]
      exact ⟨rfl, by rw [vfAt_setVf_of (v := { s.vfAt n with cxid := some k, flr := none }) (vfAt_n s n)]⟩
  have new {p : PartRec} {k : Nat} {i : Ctx} (hp : vfPart s n = some p) (hk : freeCxid s = some k) (hi : s.ctx? p.cxid = some i)
      (hs : i.state ≠ .killed) (hb : newBudget s i (vfCtx n k p) = none) :
      (t.vfAt n).cxid = some k ∧ t.ctxs = s.ctxs ++ [vfCtx n k p] := by
    have e : t = _ := ht.trans (newVfCtx_of (s := s.setVf { s.vfAt n with flr := none }) hp hk hi hs hb)
    rw [e, hm]
    exact ⟨by rw [vfAt_setVf_of (v := { s.vfAt n with cxid := some k, flr := none }) (vfAt_n s n)], rfl⟩
  obtain ⟨only, hf⟩ := only
  have hcl : t.vfClearing = s.vfClearing := by rw [only]
  split at hx
  · next hl =>
    rw [Bool.and_eq_true, hcl] at hl
    refine ⟨_, hx, ?_, hf, fun hn => ?_, fun _ _ => ⟨rfl, rfl⟩, fun p k i => new⟩
    · rw [only]
    · rw [hl.1] at hn
      cases hn
  · next hl =>
    refine ⟨t, hx, ?_, hf, fun _ => by rw [only], fun hs hv => absurd ?_ hl, fun p k i => new⟩
    · rw [only]
    · rw [hcl, hs, Bool.true_and, List.all_eq_true]
      exact fun v hv' => by rw [hv v hv']; rfl

/-! ## VF Enable and the frozen set (R441, R444) -/

theorem exec_vfEnableSet_off {s : State} (h : s.vfEnable = false) (hs : s.service ≠ .recovery) : exec .vfEnableSet s =
    .next { ((s.parts.flatMap fun p => (List.range p.vfcnt).map fun i => p.vffirst + i).foldl
      (fun s n => if (s.vfAt n).cxid.isSome then s else newVfCtx s n) s) with vfEnable := true } := by
  rw [exec_vfEnableSet, execVfEnableSet, if_neg (by simpa using hs), enableVfs, if_neg (by simp [h])]

theorem exec_vfEnableSet_on {s : State} (h : s.vfEnable = true) : exec .vfEnableSet s = .next s := by
  rw [exec_vfEnableSet, execVfEnableSet, enableVfs, if_pos h, ite_self]

theorem exec_vfEnableClear_off {s : State} (h : s.vfEnable = false) : exec .vfEnableClear s = .next s := by
  rw [exec_vfEnableClear, execVfEnableClear, disableVfs, if_pos (by simp [h])]

theorem exec_vfEnableClear_on {s t : State} (h : s.vfEnable = true) (ht : t = ((s.vfs.filter fun v =>
    v.cxid.isSome || v.tdi != .unlocked || v.flr.isSome).map Vf.n).foldl startFlr s) : exec .vfEnableClear s =
    .next (if t.vfs.all fun v => v.flr.isNone then { t with vfEnable := false } else { t with vfClearing := true }) := by
  rw [exec_vfEnableClear, execVfEnableClear, disableVfs, if_neg (by simp [h]), ht]

section
variable {n off : Nat} {w : Word} {s : State} (hs : s.service ≠ .recovery)
include hs

theorem exec_frozenSetWrite_vf (he : s.vfEnable = true) (hn : n < 384) : exec (.frozenSetWrite (n + 1) off w) s =
    .next (frozenWrite s n fun s => s.setVf { s.vfAt n with regs := assocSet off w (s.vfAt n).regs }) := by
  have h0 : (s.service == .recovery) = false := by simpa using hs
  rw [exec_frozenSetWrite, execFrozenSetWrite, h0, he, if_neg Bool.false_ne_true, if_neg (Nat.succ_ne_zero n),
    if_neg (by simp; omega), Nat.add_sub_cancel]

/-- A write to the SR-IOV capability that is not to its control (R444). -/
theorem exec_frozenSetWrite_pf (ho : off ≠ 8) : exec (.frozenSetWrite 0 off w) s =
    .next (((s.vfs.filter fun v => v.tdi == .locked || v.tdi == .run).map Vf.n).foldl startFlr { s with
      hostif := { s.hostif with sriov := assocSet off w s.hostif.sriov } }) := by
  have h0 : (s.service == .recovery) = false := by simpa using hs
  rw [exec_frozenSetWrite, execFrozenSetWrite, h0, if_neg Bool.false_ne_true, if_pos rfl, sriovWrite, if_neg (show off ≠ sriovControl from ho)]
  rfl

/-! ## TDISP requests (R442, R443) -/

theorem respond_of (ok : Bool) (ws : List Word) : respond s ok ws = { s with spdm := (if ok then 0 else 1) :: ws } := by
  rw [respond, if_neg (by simpa using hs)]

theorem respond_setVf (v : Vf) (ok : Bool) (ws : List Word) :
    respond (s.setVf v) ok ws = { s.setVf v with spdm := (if ok then 0 else 1) :: ws } := respond_of (s := s.setVf v) hs ok ws

theorem exec_lock_unlocked {stream : Nat} {dbg : Bool} (he : s.vfEnable = true) (hn : n < 384) (hm : stream < 64)
    (hu : (s.vfAt n).tdi = .unlocked) : exec (.lockInterfaceRequest n stream dbg) s =
      if (s.vfAt n).flr.isSome then .next s
      else .next { s.setVf { s.vfAt n with tdi := .locked, stream := stream, dbg := dbg, frozen := frozenSet s n } with spdm := [0] } := by
  have hx : ¬(!s.vfEnable || decide (384 ≤ n) || decide (64 ≤ stream) || (s.vfAt n).tdi != .unlocked) = true := by
    simp [he, hn, hm, hu]
  rw [exec_lockInterfaceRequest, execLockInterfaceRequest, if_neg hx, respond_setVf hs]
  rfl

theorem exec_lock_refused {stream : Nat} {dbg : Bool} (hu : (s.vfAt n).tdi ≠ .unlocked) :
    exec (.lockInterfaceRequest n stream dbg) s = .next { s with spdm := [1] } := by
  rw [exec_lockInterfaceRequest, execLockInterfaceRequest, if_pos (by simp [hu]), respond_of hs]
  rfl

theorem exec_start_locked (h : (s.vfAt n).tdi = .locked) :
    exec (.startInterfaceRequest n) s = .next { s.setVf { s.vfAt n with tdi := .run } with spdm := [0] } := by
  rw [exec_startInterfaceRequest, execStartInterfaceRequest, if_pos (by simp [h]), respond_setVf hs]
  rfl

theorem exec_start_refused (h : (s.vfAt n).tdi ≠ .locked) : exec (.startInterfaceRequest n) s = .next { s with spdm := [1] } := by
  rw [exec_startInterfaceRequest, execStartInterfaceRequest, if_neg (by simp [h]), respond_of hs]
  rfl

theorem exec_stop_over (h : (s.vfAt n).tdi ≠ .unlocked) (hf : (s.vfAt n).flr = none) :
    exec (.stopInterfaceRequest n) s = .next { s.setVf { s.vfAt n with tdi := .unlocked, dbg := false } with spdm := [0] } := by
  rw [exec_stopInterfaceRequest, execStopInterfaceRequest, if_neg (by simp [h]), if_neg (by simp [hf]), respond_setVf hs]
  rfl

theorem exec_stop_refused (h : (s.vfAt n).tdi = .unlocked) : exec (.stopInterfaceRequest n) s = .next { s with spdm := [1] } := by
  rw [exec_stopInterfaceRequest, execStopInterfaceRequest, if_pos (by simp [h]), respond_of hs]
  rfl

theorem exec_report_locked (h : (s.vfAt n).tdi = .locked ∨ (s.vfAt n).tdi = .run) :
    exec (.getDeviceInterfaceReport n) s = .next { s with
      spdm := 0 :: [0, 65536, 1, 2, 4096, 0, 4, 4096, 2] ++ sha384 (measurement s ++
        (s.vfAt n).frozen.flatMap fun e => [BitVec.ofNat 32 e.1, e.2]) } := by
  rw [exec_getDeviceInterfaceReport, execGetDeviceInterfaceReport, if_pos (by simpa using h), respond_of hs]
  rfl

theorem exec_report_refused (h : (s.vfAt n).tdi = .unlocked ∨ (s.vfAt n).tdi = .error) :
    exec (.getDeviceInterfaceReport n) s = .next { s with spdm := [1] } := by
  rw [exec_getDeviceInterfaceReport, execGetDeviceInterfaceReport, if_neg, respond_of hs]
  · rfl
  · rcases h with h | h <;> simp [h]

end

theorem exec_spdm_recovery {s : State} (h : s.service = .recovery) :
    exec .spdmAttestationRequest s = .next { s with free := s.free + 1 } := by
  rw [exec_spdmAttestationRequest, execSpdmAttestationRequest, respond, if_pos (by simp [h])]

theorem signatures_length (s : State) (m : List Word) : (signatures s m).length = 844 := by
  simp [signatures]

theorem exec_spdm_of {s : State} (h : s.service ≠ .recovery) : exec .spdmAttestationRequest s =
    .next { s with spdm := 0 :: sha384 s.hostif.image.body ++ signatures s (measurement s), free := s.free + 1 } := by
  rw [exec_spdmAttestationRequest, execSpdmAttestationRequest, respond_of h]
  rfl

/-! ## Statement -/

/-- Settles O52: a reset starts by marking the function's record and then waits, forgets or kills; each TDISP request has one
equation per state of the interface. -/
theorem virtualFunctionEvents : Obligations.virtualFunctionEvents := by
  refine ⟨fun n s he hn => ?_, fun n s gone h => ?_, fun s => ?_, fun n off w s hs => ?_, fun n stream dbg s hs => ?_,
    fun stream s => ?_⟩
  case refine_1 =>
    have h := flrStarted s n
    refine ⟨startFlr s n, ?_, h.flr, h.tdi, h.without, fun k x hk hx => ⟨h.busy k x hk hx, h.idle k x hk hx⟩⟩
    rw [exec_flr, execFlr, if_neg (by simp [he, hn])]
  case refine_2 =>
    refine ⟨fun hc => ?_, fun hc hw => ?_, fun hc hu hq => flrComplete_ends h hc (stillWrites_eq_false hu hq)⟩
    · rw [exec_flrComplete_of h, if_pos (Option.isSome_iff_ne_none.2 hc)]
    · rw [exec_flrComplete_of h, hc, if_neg (by simp), if_pos hw]
  case refine_3 =>
    exact ⟨exec_vfEnableSet_off, exec_vfEnableSet_on, exec_vfEnableClear_off, fun h => ⟨_, rfl, exec_vfEnableClear_on h rfl⟩⟩
  case refine_4 =>
    refine ⟨fun he hn => ?_, exec_frozenSetWrite_pf hs⟩
    intro v s1
    have h := exec_frozenSetWrite_vf (off := off) (w := w) hs he hn
    refine ⟨fun hu => ?_, fun hl => ?_, fun hr => ?_⟩
    · rw [h, frozenWrite, show (s.vfAt n).tdi = .unlocked from hu]
    · rcases hl with hl | hl
      · rw [h, frozenWrite, show (s.vfAt n).tdi = .locked from hl]
      · rw [h, frozenWrite, show (s.vfAt n).tdi = .run from hl]
    · rw [h, frozenWrite, show (s.vfAt n).tdi = .error from hr]
  case refine_5 =>
    intro v no yes
    refine ⟨fun he hn hm hu => ⟨fun hf => ?_, fun hf => ?_⟩, exec_lock_refused hs, exec_start_locked hs, exec_start_refused hs,
      exec_stop_over hs, exec_stop_refused hs, fun h => ⟨_, List.cons_ne_nil 0 _, exec_report_locked hs h⟩, exec_report_refused hs⟩
    · rw [exec_lock_unlocked hs he hn hm hu, if_neg (by simpa using hf)]
    · rw [exec_lock_unlocked hs he hn hm hu, if_pos (Option.isSome_iff_ne_none.2 hf)]
  case refine_6 =>
    exact ⟨rfl, fun hs => ⟨_, signatures_length .., exec_spdm_of hs⟩, exec_spdm_recovery⟩

end Sys2Proof.Machine
end

section
/-! The mailbox (R338, R440, R447): what a command answers, and what each command breaks, waits for and does. -/

namespace Sys2Proof.Machine

set_option Elab.async false

/-! ## Answers -/

/-- A command whose effect is a state, with the status that it answers. -/
def Answers (s : State) (i : Instr) (w : Nat) (t : State) : Prop := exec i s = .next { t with answer := [BitVec.ofNat 32 w] }

/-- A device that takes mailbox commands: it is past recovery, and erases no block of flash. -/
structure State.Manages (s : State) : Prop where
  service : s.service ≠ .recovery
  flash : ∀ b ∈ s.flash, b.erasing = false
  go : s.hostif.go = false

section
variable {s : State}

theorem not_erasing (hm : s.Manages) : s.flash.any FlashBlk.erasing = false :=
  List.any_eq_false.2 fun b hb => by simp [hm.flash b hb]

theorem goReads_eq_false (hm : s.Manages) : goReads s = false := by
  rw [goReads, hm.go, not_erasing hm, Bool.or_false]

theorem mgmtFree_of (hm : s.Manages) : mgmtFree s = true := by
  rw [mgmtFree, goReads_eq_false hm]
  simpa using hm.service

section
variable {i : Instr} {refused busy : Bool} {eff : State → State} (hm : s.Manages) (h : exec i s = command s refused busy eff)
include hm h

theorem answers_done (hr : refused = false) (hb : busy = false) : Answers s i 0 (eff s) := by
  rw [Answers, h, command, mgmtFree_of hm, hr, hb]
  rfl

theorem answers_refused (hr : refused = true) : Answers s i 0x40 s := by
  rw [Answers, h, command, mgmtFree_of hm, hr]
  rfl

theorem answers_busy (hr : refused = false) (hb : busy = true) : Answers s i 0x41 s := by
  rw [Answers, h, command, mgmtFree_of hm, hr, hb]
  rfl

end

theorem bitsOf_low (x n : Nat) : bitsOf x 0 n = x % 2 ^ n := by
  rw [bitsOf, Nat.shiftRight_zero]

/-- The uppermost bits of a word of `k + n` bits. -/
theorem bitsOf_uppermost {k n : Nat} (x : BitVec (k + n)) : bitsOf x.toNat k n = x.toNat / 2 ^ k := by
  rw [bitsOf, Nat.shiftRight_eq_div_pow]
  refine Nat.mod_eq_of_lt (Nat.div_lt_of_lt_mul ?_)
  rw [← Nat.pow_add]
  exact x.isLt

theorem bitOf_zero (x : Word) : bitOf x.toNat 0 = x.getLsbD 0 := by
  rw [bitOf, Nat.shiftRight_zero, BitVec.getLsbD, Nat.testBit_zero]
  rfl

/-! ## Context commands (R338, R346 to R352) -/

/-- What a context command answers: the engine's code and value, and its image. -/
def CtxAns.reply (a : CtxAns) : State :=
  { a.st with answer := BitVec.ofNat 32 (a.value * 2 ^ 16 + a.code * 2 ^ 8 + (if a.code = 0 then 0 else 0x40)) :: a.image }

theorem asRoot_of (hm : s.Manages) {i : Ctx} (hi : s.ctx? 0 = some i) (op : State → Ctx → CtxAns) :
    asRoot s op = .next (op s i).reply := by
  unfold asRoot
  rw [mgmtFree_of hm, hi]
  rfl

/-- A command that waits for the engine's operations of the groups it takes. -/
theorem rootWaits_of (hm : s.Manages) {i : Ctx} (hi : s.ctx? 0 = some i) (w : Bool) (op : State → Ctx → CtxAns) :
    (if w then .next s else asRoot s op) = if w then Host.Outcome.next s else .next (op s i).reply := by
  rw [asRoot_of hm hi]

/-! ## TRAPRET and PTROOT (R356, R359) -/

theorem traprPcFault_isSome (pc : DWord) : (traprPcFault pc).isSome = true ↔ pc.toNat % 4 ≠ 0 ∨ canonical pc = false := by
  unfold traprPcFault
  split
  · next h => simp [h]
  · next h =>
    split
    · next hc => simp [Bool.not_eq_true' _ ▸ hc]
    · next hc => simp_all

/-- Whether TRAPRET resumes threads at an address that no thread can have. -/
def badResume (s : State) (r : TrapRec) (fin : Bool) (pc : DWord) : Bool :=
  !fin && !r.trap.async && !r.trap.cocoon && !r.trap.fatal && (s.grp? r.trap.gid).isSome && (traprPcFault pc).isSome

theorem exec_trapretCommand_some {seq : Nat} {pc : DWord} {fin : Bool} {r : TrapRec}
    (h : s.recs.find? (fun r => r.dest == 0 && r.seq == seq) = some r) : exec (.trapretCommand seq pc fin) s =
      command s (badResume s r fin pc) false fun s => wake (unbind (trapReturn s r fin pc) 0 seq) := by
  rw [exec_trapretCommand, execTrapretCommand, h]
  rfl

theorem exec_trapretCommand_none {seq : Nat} {pc : DWord} {fin : Bool} (h : ∀ r ∈ s.recs, ¬(r.dest = 0 ∧ r.seq = seq)) :
    exec (.trapretCommand seq pc fin) s = command s true false id := by
  have hn : s.recs.find? (fun r => r.dest == 0 && r.seq == seq) = none := List.find?_eq_none.2 fun r hr => by simpa using h r hr
  rw [exec_trapretCommand, execTrapretCommand, hn]

theorem badResume_eq_false {r : TrapRec} {fin : Bool} {pc : DWord} (h : fin = true ∨ r.trap.async = true ∨ r.trap.cocoon = true ∨
    r.trap.fatal = true ∨ (pc.toNat % 4 = 0 ∧ canonical pc = true)) : badResume s r fin pc = false := by
  have hp (hc : pc.toNat % 4 = 0 ∧ canonical pc = true) : (traprPcFault pc).isSome = false := by
    rw [Bool.eq_false_iff, Ne, traprPcFault_isSome]
    simp [hc]
  rcases h with h | h | h | h | h
  · simp [badResume, h]
  · simp [badResume, h]
  · simp [badResume, h]
  · simp [badResume, h]
  · simp [badResume, hp h]

theorem badResume_of {r : TrapRec} {pc : DWord} (ha : r.trap.async = false) (hc : r.trap.cocoon = false) (hf : r.trap.fatal = false)
    (hg : s.grp? r.trap.gid ≠ none) (hp : pc.toNat % 4 ≠ 0 ∨ canonical pc = false) : badResume s r false pc = true := by
  simp [badResume, ha, hc, hf, (traprPcFault_isSome pc).2 hp, Option.isSome_iff_ne_none.2 hg]

theorem exec_writePtroot_of (val : DWord) : exec (.writePtroot val) s =
    command s (decide (val.toNat % 4096 ≠ 0 ∨ s.buf? (val.toNat / 2 ^ 44) = none)) false fun s => { s with
      ctxs := s.ctxs.map fun c => if c.cxid == 0 then { c with ptroot := val } else c } := by
  have h : (bitsOf val.toNat 0 12 != 0 || (s.buf? (bitsOf val.toNat 44 20)).isNone) =
      decide (val.toNat % 4096 ≠ 0 ∨ s.buf? (val.toNat / 2 ^ 44) = none) := by
    rw [Bool.eq_iff_iff, bitsOf_low, bitsOf_uppermost (k := 44) (n := 20) val]
    simp only [Bool.or_eq_true, bne_iff_ne, Option.isNone_iff_eq_none, decide_eq_true_eq]
    rfl
  rw [exec_writePtroot, execWritePtroot, h]
  rfl

/-! ## Buffer entries (R359, R368, R427) -/

/-- Whether the record of a buffer that is valid can be made an entry. -/
def bufFits (s : State) (idx : Nat) (r : List Word) : Prop :=
  bufReserved r (bufOf idx r) = false ∧ bufAbsent s (bufOf idx r) = false ∧ cxlFull s (bufOf idx r) = false ∧
    ∀ x ∈ s.bufs, x.idx ≠ idx → bufOverlap x (bufOf idx r) = false

def bufBad (s : State) (idx : Nat) (r : List Word) : Bool :=
  decide (2 ^ 20 ≤ idx) || (bitOf (wAt r 0) 31 && (bufReserved r (bufOf idx r) || bufAbsent s (bufOf idx r) ||
    cxlFull s (bufOf idx r) || s.bufs.any fun x => x.idx != idx && bufOverlap x (bufOf idx r)))

def bufHeld (s : State) (idx : Nat) : Bool := s.frames.any fun f => f.b == idx && f.st != .clean && f.owner != 0

/-- Whether an access is on its way whose translation an entry decided. -/
def inFlight (s : State) : Bool :=
  (s.reqs.any fun r => r.blk.isNone && !r.performed) || (s.rus.any fun r => !r.applied) || !s.ctxops.isEmpty

/-- The device with a buffer's entry written. -/
def entryWritten (idx : Nat) (r : List Word) (s : State) : State :=
  { s with
    bufs := if bitOf (wAt r 0) 31 then bufOf idx r :: s.bufs.filter fun x => x.idx != idx else s.bufs.filter fun x => x.idx != idx
    frames := if bitOf (wAt r 0) 31 = true ∧ ((bufOf idx r).kind = .hbm ∨ (bufOf idx r).kind = .cxl) then s.frames
      else s.frames.filter fun f => f.b != idx
    tlb := [], walks := [], lastPages := []
    l1 := s.l1.filter fun c => c.b != idx
    l2 := s.l2.filter fun c => c.b != idx }

theorem exec_writeBufferEntry_of (idx : Nat) (r : List Word) : exec (.writeBufferEntry idx r) s =
    if !bufBad s idx r && !bufHeld s idx && mgmtFree s && inFlight s then .next s
    else command s (bufBad s idx r) (bufHeld s idx) fun s => wake (discardWhere (entryWritten idx r s) fun y => y.glob) := by
  have he : entryWritten idx r s = { s with
      bufs := if bitOf (wAt r 0) 31 then bufOf idx r :: s.bufs.filter fun x => x.idx != idx else s.bufs.filter fun x => x.idx != idx
      frames := if bitOf (wAt r 0) 31 && ((bufOf idx r).kind == .hbm || (bufOf idx r).kind == .cxl) then s.frames
        else s.frames.filter fun f => f.b != idx
      tlb := [], walks := [], lastPages := []
      l1 := s.l1.filter fun c => c.b != idx
      l2 := s.l2.filter fun c => c.b != idx } := by
    simp only [entryWritten, Bool.and_eq_true, Bool.or_eq_true, beq_iff_eq]
  simp only [command, he]
  rfl

theorem bufBad_iff {idx : Nat} {r : List Word} :
    bufBad s idx r = true ↔ 2 ^ 20 ≤ idx ∨ bitOf (wAt r 0) 31 = true ∧ ¬bufFits s idx r := by
  simp only [bufBad, bufFits, Bool.or_eq_true, Bool.and_eq_true, decide_eq_true_eq, List.any_eq_true, bne_iff_ne, not_and_or,
    Bool.not_eq_false, not_forall, exists_prop, or_assoc]

theorem bufBad_eq_false {idx : Nat} {r : List Word} (hi : idx < 2 ^ 20) (hf : bitOf (wAt r 0) 31 = true → bufFits s idx r) :
    bufBad s idx r = false := by
  rw [Bool.eq_false_iff, Ne, bufBad_iff]
  rintro (h | ⟨hv, h⟩)
  · omega
  · exact h (hf hv)

theorem bufHeld_eq_false {idx : Nat} : bufHeld s idx = false ↔ ∀ f ∈ s.frames, f.b = idx → f.st = .clean ∨ f.owner = 0 := by
  simp only [bufHeld, List.any_eq_false, Bool.and_eq_true, beq_iff_eq, bne_iff_ne, not_and, and_imp, not_not, ← or_iff_not_imp_left]

theorem inFlight_eq_false (hq : ∀ x ∈ s.reqs, x.blk = none → x.performed = true) (hu : ∀ x ∈ s.rus, x.applied = true)
    (hc : s.ctxops = []) : inFlight s = false := by
  simp only [inFlight, hc, List.isEmpty_nil, Bool.not_true, Bool.or_false, Bool.or_eq_false_iff, List.any_eq_false, Bool.and_eq_true,
    Option.isNone_iff_eq_none, Bool.not_eq_true', not_and, Bool.not_eq_false]
  exact ⟨hq, hu⟩

section
variable (hm : s.Manages) {idx : Nat} {r : List Word}
include hm

theorem writeBufferEntry_done (hi : idx < 2 ^ 20) (hf : bitOf (wAt r 0) 31 = true → bufFits s idx r)
    (hh : ∀ f ∈ s.frames, f.b = idx → f.st = .clean ∨ f.owner = 0) (hq : inFlight s = false) :
    Answers s (.writeBufferEntry idx r) 0 (wake (discardWhere (entryWritten idx r s) fun y => y.glob)) := by
  have h := exec_writeBufferEntry_of (s := s) idx r
  rw [hq, Bool.and_false, if_neg Bool.false_ne_true] at h
  exact answers_done hm h (bufBad_eq_false hi hf) (bufHeld_eq_false.2 hh)

theorem writeBufferEntry_refused (hb : bufBad s idx r = true) : Answers s (.writeBufferEntry idx r) 0x40 s := by
  have h := exec_writeBufferEntry_of (s := s) idx r
  rw [if_neg (by simp [hb])] at h
  exact answers_refused hm h hb

theorem writeBufferEntry_busy (hi : idx < 2 ^ 20) (hf : bitOf (wAt r 0) 31 = true → bufFits s idx r)
    (hh : ¬∀ f ∈ s.frames, f.b = idx → f.st = .clean ∨ f.owner = 0) : Answers s (.writeBufferEntry idx r) 0x41 s := by
  have hb : bufHeld s idx = true := Bool.not_eq_false _ ▸ fun h => hh (bufHeld_eq_false.1 h)
  have h := exec_writeBufferEntry_of (s := s) idx r
  rw [if_neg (by simp [hb])] at h
  exact answers_busy hm h (bufBad_eq_false hi hf) hb

end

/-! ## Partition records (R409 to R411) -/

/-- Whether a partition keeps the clusters of its context's cores. -/
def partKeeps (s : State) (i : Nat) (p : PartRec) : Prop := ∀ x, (s.part i).cxid ≠ 0 → s.ctx? (s.part i).cxid = some x →
  ∀ c < 192, x.cores.getLsbD c = true → p.clus.getLsbD (c / 4) = true

def partShort (s : State) (i : Nat) (p : PartRec) : Bool :=
  (s.part i).cxid != 0 && (List.range 192).any fun c =>
    (((s.ctx? (s.part i).cxid).map Ctx.cores).getD 0).getLsbD c && !p.clus.getLsbD (c / 4)

theorem partShort_eq_false {i : Nat} {p : PartRec} : partShort s i p = false ↔ partKeeps s i p := by
  unfold partShort partKeeps
  cases h : s.ctx? (s.part i).cxid with
  | none => simp
  | some x => simp [imp.swap]

def partGood (s : State) (i : Nat) (r : List Word) : Prop :=
  i < 20 ∧ partKeeps s i (partOfRec i (s.part i) r) ∧ partBad s (partOfRec i (s.part i) r) r = false ∧
    partAbsent s (partOfRec i (s.part i) r) = false ∧
    ∀ x ∈ s.parts, x.i ≠ i → partOverlap x (partOfRec i (s.part i) r) = false

def partRefused (s : State) (i : Nat) (r : List Word) : Bool :=
  decide (20 ≤ i) || partShort s i (partOfRec i (s.part i) r) || partBad s (partOfRec i (s.part i) r) r ||
    partAbsent s (partOfRec i (s.part i) r) || s.parts.any fun x => x.i != i && partOverlap x (partOfRec i (s.part i) r)

theorem partRefused_eq_false {i : Nat} {r : List Word} : partRefused s i r = false ↔ partGood s i r := by
  simp only [partRefused, partGood, Bool.or_eq_false_iff, decide_eq_false_iff_not, Nat.not_le, partShort_eq_false, List.any_eq_false,
    Bool.and_eq_true, bne_iff_ne, not_and, Bool.not_eq_true, and_assoc]

def partHeld (s : State) (i : Nat) : Bool := (s.part i).cxid != 0 && (s.ctx? (s.part i).cxid).map Ctx.state != some .stopped

theorem partHeld_eq_false {i : Nat} :
    partHeld s i = false ↔ (s.part i).cxid = 0 ∨ ∃ x, s.ctx? (s.part i).cxid = some x ∧ x.state = .stopped := by
  simp only [partHeld, Bool.and_eq_false_iff, bne_eq_false_iff_eq, Option.map_eq_some_iff]

theorem exec_writePartitionRecord_of (i : Nat) (r : List Word) : exec (.writePartitionRecord i r) s =
    command s (partRefused s i r) (partHeld s i) fun t => { t with
      parts := partOfRec i (s.part i) r :: t.parts.filter fun x => x.i != i } := rfl

/-! ## Flash blocks (R395) -/

theorem exec_eraseFlashBlocks_early (hm : s.Manages) {m count : Nat} (hn : m + count ≤ 2 ^ 22) (hs : s.service ≠ .full) :
    Answers s (.eraseFlashBlocks m count) 0x41 s := by
  have h : exec (.eraseFlashBlocks m count) s = command s false true id := by
    have hb : decide (2 ^ 22 < m + count) = false := decide_eq_false (Nat.not_lt.2 hn)
    have hf : (s.service != .full) = true := by simpa using hs
    rw [exec_eraseFlashBlocks, execEraseFlashBlocks, hb, hf]
    rfl
  exact answers_busy hm h rfl rfl

/-- The state of a block of flash as it is kept. -/
def blkAt (s : State) (k : Nat) : FlashBlk := (s.flash.find? fun b => b.blk == k).getD ⟨k, 0, false, 0⟩

theorem blkAt_blk (s : State) (k : Nat) : (blkAt s k).blk = k := by
  unfold blkAt
  cases h : s.flash.find? fun b => b.blk == k with
  | none => rfl
  | some b => exact eq_of_beq (List.find?_some (p := fun b : FlashBlk => b.blk == k) h)

theorem exec_eraseFlashBlocks_full (hm : s.Manages) {m count : Nat} (hn : m + count ≤ 2 ^ 22) (hs : s.service = .full)
    (hc : 0 < count) : exec (.eraseFlashBlocks m count) s = .next { s with
      answer := []
      flash := ((List.range count).map fun j => { blkAt s (m + j) with erasing := true }) ++
        s.flash.filter fun b => !decide (m ≤ b.blk ∧ b.blk < m + count) } := by
  have hb : decide (2 ^ 22 < m + count) = false := decide_eq_false (Nat.not_lt.2 hn)
  have h : ¬((false || s.service != .full) = true ∨ count = 0) := by simp [hs, Nat.ne_of_gt hc]
  rw [exec_eraseFlashBlocks, execEraseFlashBlocks, hb, if_neg (by simpa using h), if_neg (by simp [mgmtFree_of hm])]
  rfl

theorem eraseFlashBlocks_spec (hm : s.Manages) {m count : Nat} (hn : m + count ≤ 2 ^ 22) (hs : s.service = .full)
    (hc : 0 < count) : ∃ t, exec (.eraseFlashBlocks m count) s = .next t ∧
      t = { s with answer := [], flash := t.flash } ∧
      (∀ k, m ≤ k → k < m + count → ∃ b ∈ t.flash, b.blk = k ∧ b.erasing = true) ∧
      ∀ b, ¬(m ≤ b.blk ∧ b.blk < m + count) → (b ∈ t.flash ↔ b ∈ s.flash) := by
  refine ⟨_, exec_eraseFlashBlocks_full hm hn hs hc, rfl, fun k hk hl => ?_, fun b hb => ?_⟩
  · refine ⟨{ blkAt s k with erasing := true }, List.mem_append_left _ (List.mem_map.2 ⟨k - m, ?_, ?_⟩), blkAt_blk s k, rfl⟩
    · exact List.mem_range.2 (by omega)
    · rw [Nat.add_sub_cancel' hk]
  · have hnew : b ∉ (List.range count).map fun j => { blkAt s (m + j) with erasing := true } := by
      rintro hmem
      obtain ⟨j, hj, rfl⟩ := List.mem_map.1 hmem
      have := List.mem_range.1 hj
      exact hb ⟨by simp [blkAt_blk], by simp [blkAt_blk, this]⟩
    rw [List.mem_append, or_iff_right hnew, List.mem_filter, decide_eq_false hb]
    simp

/-! ## The other commands (R419, R450, R452) -/

theorem exec_writeHrowCtl_of (ch : Nat) (val : Word) : exec (.writeHrowCtl ch val) s =
    command s (decide (256 ≤ ch) || (s.service == .chrysalis && decide (128 ≤ ch))) false fun s => { s with
      hrow := (ch, val.toNat / 2 ^ 20, val.toNat % 2 ^ 16) :: s.hrow.filter fun h => h.1 != ch } := by
  rw [exec_writeHrowCtl, execWriteHrowCtl, bitsOf_low, bitsOf_uppermost (k := 20) (n := 12) val]

theorem hrow_allowed {ch : Nat} (h : ch < 128 ∨ (ch < 256 ∧ s.service = .full)) :
    (decide (256 ≤ ch) || (s.service == .chrysalis && decide (128 ≤ ch))) = false := by
  rcases h with h | ⟨h, hs⟩
  · simp [show ¬256 ≤ ch by omega, show ¬128 ≤ ch by omega]
  · simp [show ¬256 ≤ ch by omega, hs]

theorem exec_setSaveRegionSize_of (n : Nat) :
    exec (.setSaveRegionSize n) s = command s false s.anyNew fun s => { s with saveBytes := n } := rfl

theorem exec_readErrorCounts_of (hm : s.Manages) (sel : Nat) : exec (.readErrorCounts sel) s = .next { s with
    answer := [0,
      BitVec.ofNat 32 ((((s.errs.find? fun e => e.1 == sel).map fun e => e.2).getD (0, 0)).1 + Config.corrected sel s.free),
      BitVec.ofNat 32 (((s.errs.find? fun e => e.1 == sel).map fun e => e.2).getD (0, 0)).2,
      BitVec.ofNat 32 (((s.flash.find? fun b => b.blk == sel).map FlashBlk.count).getD 0)]
    free := s.free + 1 } := by
  rw [exec_readErrorCounts, execReadErrorCounts, if_neg (by simp [mgmtFree_of hm])]
  rfl

/-- Whether a context below the root runs or is about to stop. -/
def anyRuns (s : State) : Bool := s.ctxs.any fun x => x.level != 0 && (x.state == .running || x.state == .stopping)

theorem anyRuns_eq_false (h : ∀ x ∈ s.ctxs, x.level = 0 ∨ (x.state ≠ .running ∧ x.state ≠ .stopping)) : anyRuns s = false := by
  refine List.any_eq_false.2 fun x hx => ?_
  rcases h x hx with h | ⟨h, k⟩
  · simp [h]
  · simp [h, k]

theorem exec_promote_of : exec .promote s = command s (s.service != .chrysalis) (anyRuns s) fun s => { s with
    service := .full, freq := 10
    ctxs := s.ctxs.map fun c => if c.cxid == 0 then { c with runset := c.cores } else c } := rfl

theorem exec_getAttestationReport_of (hm : s.Manages) : exec .getAttestationReport s = .next { s with
    answer := 0 :: sha384 s.hostif.image.body ++ signatures s (measurement s), free := s.free + 1 } := by
  rw [exec_getAttestationReport, execGetAttestationReport, if_neg (by simp [mgmtFree_of hm])]
  rfl

/-! ## Ingress entries (R440) -/

/-- The entries that the entry of a record does not replace. -/
def otherIngress (s : State) (e : Ingress) : List Ingress := s.ingress.filter fun x => !(x.port == e.port && x.idx == e.idx)

def ingressGood (s : State) (r : List Word) : Prop :=
  bitsOf (wAt r 1) 20 12 = 0 ∧ anyWord r 2 6 = false ∧ portPresent s (ingressOf r).port = true ∧
    (∃ x, s.ctx? (ingressOf r).cxid = some x ∧ x.state ≠ .killed) ∧ portForeign s (ingressOf r).port (ingressOf r).cxid = false ∧
    ∀ y ∈ otherIngress s (ingressOf r), ¬(y.port = (ingressOf r).port ∧ y.b = (ingressOf r).b)

def ingressBad (s : State) (r : List Word) : Bool :=
  bitsOf (wAt r 1) 20 12 != 0 || anyWord r 2 6 || !portPresent s (ingressOf r).port ||
    !((s.ctx? (ingressOf r).cxid).map fun x => x.state != .killed).getD false || portForeign s (ingressOf r).port (ingressOf r).cxid ||
    (otherIngress s (ingressOf r)).any fun x => x.port == (ingressOf r).port && x.b == (ingressOf r).b

theorem live_iff (c : Nat) : ((s.ctx? c).map fun x => x.state != .killed).getD false = true ↔
    ∃ x, s.ctx? c = some x ∧ x.state ≠ .killed := by
  cases s.ctx? c with
  | none => simp
  | some x => simp

theorem ingressBad_eq_false {r : List Word} : ingressBad s r = false ↔ ingressGood s r := by
  simp only [ingressBad, ingressGood, Bool.or_eq_false_iff, bne_eq_false_iff_eq, Bool.not_eq_false', live_iff, List.any_eq_false,
    Bool.and_eq_true, beq_iff_eq, and_assoc]

theorem exec_writeIngressEntry_of (r : List Word) : exec (.writeIngressEntry r) s = command s (ingressBad s r) false fun t => { t with
    ingress := if bitOf (wAt r 0) 19 then ingressOf r :: otherIngress s (ingressOf r) else otherIngress s (ingressOf r) } := rfl

/-! ## The command area and GO (R447) -/

theorem exec_registerWrite_mail (hm : s.Manages) (off : Nat) (v : Word) :
    exec (.registerWrite ⟨0, none⟩ 4 off v) s = mailWrite s off v := by
  have h : (s.service == .recovery) = false := by simpa using hm.service
  rw [exec_registerWrite, execRegisterWrite, h]
  rfl

theorem mailWrite_area (hm : s.Manages) {k : Nat} (hk : k < 256) (v : Word) : mailWrite s (4 * k) v =
    .next { s with hostif := { s.hostif with area := assocSet (4 * k) v s.hostif.area } } := by
  rw [mailWrite, goReads_eq_false hm, if_neg Bool.false_ne_true, if_pos (by omega)]

theorem mailWrite_go (hm : s.Manages) : mailWrite s 0x800 1 =
    mailTurn { s with answer := [], hostif := { s.hostif with go := true } } := by
  rw [mailWrite, goReads_eq_false hm]
  rfl

/-- GO runs the command of the command area, where it is not one that erases flash. -/
theorem exec_go (hm : s.Manages) {t : State} (h : mailCommand { s with answer := [] } = .next t) (ha : t.answer ≠ []) :
    exec (.registerWrite ⟨0, none⟩ 4 0x800 1) s = .next t := by
  have hgo : { s.hostif with go := false } = s.hostif := by rw [← hm.go]
  have he : (t.answer.isEmpty && !t.flash.any FlashBlk.erasing) = false := by simp [ha]
  rw [exec_registerWrite_mail hm, mailWrite_go hm, mailTurn]
  simp only [not_erasing hm, hgo, h, he]
  rfl

/-- The commands, with their codes, that a command area can hold. -/
noncomputable def mailCommands (s : State) : List (Nat × Instr) :=
  let w (k : Nat) : Word := areaWord s k
  let a (k : Nat) : Nat := (w k).toNat
  let d : DWord := pairOf (w 2) (w 3)
  let r := areaRec s
  [(0x01, Instr.rootCtxNew r), (0x02, .rootCtxRun (a 1) r), (0x03, .rootCtxStop (a 1) (w 2) (w 3)), (0x04, .rootCtxGrant (a 1) r),
    (0x05, .rootCtxRevoke (a 1) r), (0x06, .rootCtxKill (a 1)), (0x07, .rootCtxStat (a 1)), (0x08, .trapretCommand (a 1) d ((w 4).getLsbD 0)),
    (0x09, .writePtroot d), (0x0A, .writeBufferEntry (a 1) r), (0x0B, .writePartitionRecord (a 1) r), (0x0C, .eraseFlashBlocks (a 1) (a 2)),
    (0x0D, .writeHrowCtl (a 1) (w 2)), (0x0E, .setSaveRegionSize d.toNat), (0x0F, .readErrorCounts (a 1)), (0x10, .promote),
    (0x11, .getAttestationReport), (0x12, .writeIngressEntry r)]

theorem mailCommand_of (s : State) : ∀ x ∈ mailCommands s, (areaWord s 0).toNat = x.1 → mailCommand s = exec x.2 s := by
  simp only [mailCommands, ← bitOf_zero, List.forall_mem_cons]
  refine ⟨?_, ?_, ?_, ?_, ?_, ?_, ?_, ?_, ?_, ?_, ?_, ?_, ?_, ?_, ?_, ?_, ?_, ?_, List.forall_mem_nil _⟩ <;>
  · intro h
    unfold mailCommand
    dsimp only
    rw [h]
    rfl

theorem mailCommand_unknown (h : (areaWord s 0).toNat = 0 ∨ 0x12 < (areaWord s 0).toNat) :
    mailCommand s = .next (reply440 s mUnknown []) := by
  unfold mailCommand
  extract_lets a d r
  have ha : a 0 = 0 ∨ 0x12 < a 0 := h
  split
  case h_19 => rfl
  all_goals omega

end

/-! ## Statement -/

/-- Settles O54: a command breaks a rule, waits or acts by a condition of its own, and GO runs what the command area names. -/
theorem mailboxCommands : Obligations.mailboxCommands := by
  intro s hs hf hg answers
  have hm : s.Manages := ⟨hs, hf, hg⟩
  refine ⟨fun i child kind deadline r hi => ?_, fun seq pc fin r hr => ⟨?_, ?_⟩, fun seq pc fin h => ?_, fun val => ?_,
    fun idx r => ?_, fun i r => ?_, fun m count hn => ⟨?_, ?_⟩, fun ch val => ⟨fun h => ?_, fun h => ?_⟩,
    fun n => ⟨fun h => ?_, fun h => ?_⟩, fun sel => ?_, ⟨fun h hr => ?_, fun h => ?_⟩, ?_, fun r => ?_, fun k v hk => ?_, ?_⟩
  case refine_1 =>
    simp only [List.forall_mem_cons]
    have run (op : State → Ctx → CtxAns) : asRoot s op = .next (op s i).reply := asRoot_of hm hi op
    exact ⟨run fun s i => ctxNew s i r, run fun s i => ctxRun s i child r,
      run fun s i => ctxStop s i child kind.toNat deadline.toNat, run fun s i => ctxGrant s i child r,
      rootWaits_of hm hi _ fun s i => ctxRevoke s i child r, rootWaits_of hm hi _ fun s i => ctxKill s i child,
      run fun s i => ctxStat s i child, List.forall_mem_nil _⟩
  case refine_2 => exact fun h => answers_done hm (exec_trapretCommand_some hr) (badResume_eq_false h) rfl
  case refine_3 =>
    rintro rfl ha hc hf hg hp
    exact answers_refused hm (exec_trapretCommand_some hr) (badResume_of ha hc hf hg hp)
  case refine_4 => exact answers_refused hm (exec_trapretCommand_none h) rfl
  case refine_5 =>
    intro b
    refine ⟨fun h4 hb => answers_done hm (exec_writePtroot_of val) (decide_eq_false ?_) rfl, fun h =>
      answers_refused hm (exec_writePtroot_of val) (decide_eq_true h)⟩
    rintro (h | h)
    · exact h h4
    · exact hb h
  case refine_6 =>
    intro b valid quiet fits free
    exact ⟨fun hi hv hh ⟨hq, hu, hc⟩ => writeBufferEntry_done hm hi hv hh (inFlight_eq_false hq hu hc),
      fun h => writeBufferEntry_refused hm (bufBad_iff.2 h), writeBufferEntry_busy hm⟩
  case refine_7 =>
    intro p keeps good open_
    have h := exec_writePartitionRecord_of (s := s) i r
    refine ⟨fun hgood hopen => answers_done hm h (partRefused_eq_false.2 hgood) (partHeld_eq_false.2 hopen), fun hgood =>
      answers_refused hm h ?_, fun hgood hopen => answers_busy hm h (partRefused_eq_false.2 hgood) ?_⟩
    · exact Bool.not_eq_false _ ▸ fun h => hgood (partRefused_eq_false.1 h)
    · exact Bool.not_eq_false _ ▸ fun h => hopen (partHeld_eq_false.1 h)
  case refine_8 => exact exec_eraseFlashBlocks_early hm hn
  case refine_9 => exact eraseFlashBlocks_spec hm hn
  case refine_10 => exact answers_done hm (exec_writeHrowCtl_of ch val) (hrow_allowed h) rfl
  case refine_11 => exact answers_refused hm (exec_writeHrowCtl_of ch val) (by simp [h])
  case refine_12 => exact answers_done hm (exec_setSaveRegionSize_of n) rfl h
  case refine_13 => exact answers_busy hm (exec_setSaveRegionSize_of n) rfl h
  case refine_14 =>
    refine ⟨_, _, _, exec_readErrorCounts_of hm sel, fun k c u h => by simp [h], fun b h => by simp [h]⟩
  case refine_15 => exact answers_done hm exec_promote_of (by simp [h]) (anyRuns_eq_false hr)
  case refine_16 => exact answers_refused hm exec_promote_of (by simp [h])
  case refine_17 => exact ⟨_, signatures_length .., exec_getAttestationReport_of hm⟩
  case refine_18 =>
    intro e rest good
    have h := exec_writeIngressEntry_of (s := s) r
    refine ⟨fun hgood => answers_done hm h (ingressBad_eq_false.2 hgood) rfl, fun hgood => answers_refused hm h ?_⟩
    exact Bool.not_eq_false _ ▸ fun h => hgood (ingressBad_eq_false.1 h)
  case refine_19 => exact (exec_registerWrite_mail hm _ v).trans (mailWrite_area hm hk v)
  case refine_20 =>
    intro w a d r
    refine ⟨fun x hx ha t ht hne => exec_go hm ((mailCommand_of { s with answer := [] } x hx ha).trans ht) hne, fun h => ?_⟩
    exact exec_go hm (mailCommand_unknown (s := { s with answer := [] }) h) (List.cons_ne_nil _ _)

end Sys2Proof.Machine
end
